-- ==== Sys2Proof/Word.lean ====
section
/-! DEFINITION. The words of the block: bytes, 32-bit words, lines of 128 B with a 16-B tag (R25), and the names
of the piles and physical tiles (R12). Only types and their plainest arithmetic stand here. -/

namespace Sys2Proof

abbrev Byte := BitVec 8
abbrev Bytes := List Byte
abbrev Word := BitVec 32

/-- A pile CP0-CP15 (R12). -/
abbrev PileId := Fin 16
/-- A physical tile T0-T8 of a pile (R12). -/
abbrev TileId := Fin 9
/-- An array of a tile: 0 FA, 1 BDA, 2 BWA (R91, R116). -/
abbrev ArrId := Fin 3
/-- An off-package port of a pile: 0 X0, 1 X1 (R11). -/
abbrev XPort := Fin 2
/-- A bridge end of a pile: 0 N, 1 E, 2 S, 3 W (R268). -/
abbrev BrgEnd := Fin 4

/-- A line as every path inside the device moves it (R25, R99): 128 B of body, 16 B of tag and the poison mark.
Byte k of the body is bits 8k+7..8k (R3: little-endian). -/
structure Line where
  body   : BitVec 1024
  tag    : BitVec 128
  poison : Bool
  deriving DecidableEq, Repr

/-- A DRAM codeword (R356): body, tag and 16 B of check. Byte k of each part is its bits 8k+7..8k. -/
structure Codeword where
  body  : BitVec 1024
  tag   : BitVec 128
  check : BitVec 128
  deriving DecidableEq, Repr

/-- Where a line lies (R153, R222): DRAM of a pile, its pile buffer, or the local store of a tile. -/
inductive Space where
  | dram | buf | ls
  deriving DecidableEq, Repr

end Sys2Proof
end

