-- ==== Sys2Proof/Syntax.lean ====
section
/-! DEFINITION. The commands of the block: one constructor of `Instr` for every row of spec/opcode_table.json, with the
operands the row's rule names. The operand types come first: Lift messages (R421, R422), gondolas and gate tokens
(R213, R190), the decoded schedule image (R172-R178), and the outcomes of events in the physical world. -/

namespace Sys2Proof

/-! ## Lift -/

/-- A Lift message as received (R422): the header's fields, the payload's bytes and the 16 bytes of TAG
(absent, so empty, in HELLO, ACCEPT and REJECT). `src` stands for the IP address and UDP port it came from (R430), `v6`
says which IP carried it, `port` is the UDP port it was sent to (R420), `vid` its VLAN identifier, if tagged, and `pcp` its priority
(R419). A frame of another transport protocol (`udp` false) or an IP fragment (`frag`) is no message, and the port discards it
(R420). -/
structure LiftMsg where
  src     : Nat
  v6      : Bool := true
  port    : Nat := 48830
  vid     : Option Nat := none
  pcp     : Nat := 0
  udp     : Bool := true
  frag    : Bool := false
  magic   : Nat := 0x4C46
  version : Nat := 1
  type    : Nat
  session : Nat
  seq     : Nat
  ack     : Nat := 0
  sack    : BitVec 64 := 0
  credit  : Nat := 0
  mailbox : Nat := 0xFF
  flags   : Nat := 0
  length  : Nat
  rsvd    : Nat := 0
  payload : Bytes
  tag     : Bytes := []
  deriving DecidableEq, Repr

/-- What a frame of the network's own questions brings, its VLAN identifier, if tagged (R419), and whether it is an IP fragment
(R420). -/
structure Framed (α : Type) where
  val  : α
  vid  : Option Nat := none
  frag : Bool := false
  deriving DecidableEq, Repr

/-- Network settings of NET_CONFIG (R420, R457). -/
structure NetCfg where
  ip4     : BitVec 32
  prefix4 : Nat
  gw4     : BitVec 32
  ip6     : BitVec 128
  prefix6 : Nat
  gw6     : BitVec 128
  mtu     : Nat
  deriving DecidableEq, Repr

/-- The register a REG_READ or REG_WRITE names, with MASK and VALUE (R458). `name` holds the register's name without
the zero padding. -/
structure RegReq where
  name  : String
  scope : Nat
  pile  : Nat
  tile  : Nat
  idx0  : Nat
  idx1  : Nat
  idx2  : Nat
  count : Nat
  mask  : BitVec 128
  value : BitVec 128
  deriving DecidableEq, Repr

/-- Parameters of MEM_WRITE (R436, R457). `lineForm`: the 144-B form. -/
structure MemWriteP where
  pile     : Nat
  first    : Nat
  lines    : Nat
  lineForm : Bool
  xfer     : Nat
  deriving DecidableEq, Repr

/-- Parameters of MEM_READ (R457): view 0 memory, 1 tag view, 2 check view. -/
structure MemReadP where
  pile     : Nat
  view     : Nat
  first    : Nat
  lines    : Nat
  lineForm : Bool
  xfer     : Nat
  deriving DecidableEq, Repr

/-- Parameters of MEM_FILL (R365, R457): pile 0xFF names all; mode 0 a fill format, 1 the supplied line. -/
structure MemFillP where
  pile  : Nat
  first : Nat
  lines : Nat
  mode  : Nat
  fmt   : Nat
  body  : BitVec 1024
  tag   : BitVec 128
  deriving DecidableEq, Repr

/-- Parameters of RECORDS (R465). -/
structure RecordsP where
  kind  : Nat
  set   : Nat
  pile  : Nat
  first : Nat
  count : Nat
  deriving DecidableEq, Repr

/-! ## Gondolas and gate tokens -/

/-- A gondola (R213): the line and the control field without FCRC, which links check and generate (R214). -/
structure Gondola where
  body      : BitVec 1024
  tag       : BitVec 128
  useq      : Nat := 0
  tc        : Nat := 0
  checkMode : Bool := false
  gate      : Bool := false
  destReset : Bool := false
  poison    : Bool := false
  empty     : Bool := false
  deriving DecidableEq, Repr

/-- A gate token's body (R190). KIND is told apart by the row, ARRIVE or RELEASE. -/
structure GateToken where
  step     : Nat
  phase    : Nat
  copy     : Nat := 0
  jobTag   : Nat
  cause    : BitVec 32 := 0
  slipped  : Nat := 0
  openSlot : Nat := 0
  verdict  : BitVec 32 := 0
  deriving DecidableEq, Repr

/-- An unscheduled frame's header and payload (R227). -/
structure UFrame where
  dstDev  : Nat
  dstPile : Nat
  dstEp   : Nat
  srcDev  : Nat
  srcPile : Nat
  srcEp   : Nat
  msgId   : Nat
  ukind   : Nat := 0
  payload : Bytes
  deriving DecidableEq, Repr

/-! ## The schedule image -/

/-- A phase table entry (R177). -/
structure PhaseEntry where
  length     : Nat
  lastSlot   : Nat
  slack      : Nat := 0
  page       : Nat := 0
  finish     : Bool := false
  readsInput : Bool := false
  reduce     : Bool := false
  head       : Bool := false
  powerPlan  : Nat := 0xFFFF
  refFirst   : Nat := 0
  refPeriod  : Nat := 0
  refWidth   : Nat := 0
  loopParam  : Nat := 0xFF
  loopLen    : Nat := 1
  deriving DecidableEq, Repr

/-- A tile program (R137, R139): its pile and logical tile, the size of its region in steps of 8 KiB (R100), the
region's lines from the lowest up, and the line offsets and lengths of the bundle list and of the three descriptor
tables (R139, R169). -/
structure Program where
  pile     : Nat
  tile     : Nat
  region8K : Nat
  lines    : List Line
  bundles  : Nat
  opdLine  : Nat
  mvdLine  : Nat
  encLine  : Nat
  deriving DecidableEq, Repr

/-- A slot-table page of a pile (R215, R216). -/
structure PageImg where
  pile    : Nat
  page    : Nat
  cycle   : Nat
  entries : List (BitVec 32)
  deriving DecidableEq, Repr

/-- A switch descriptor (R222). `space` with `tile` is its SPACE byte; `condKind` 0 none, 1 SYNC, 2 ARR_DONE,
3 RUE_DONE; `indexLine` 0xFFFF is none. -/
structure SwDesc where
  receive    : Bool
  check      : Bool := false
  emptyFill  : Bool := false
  fillFmt    : Nat := 0
  way        : Nat
  space      : Space
  tile       : Nat := 0
  condKind   : Nat := 0
  condTile   : Nat := 0
  condN      : Nat := 0
  condValue  : Nat := 0
  idxTile    : Nat := 0
  firstSlot  : Nat
  slotStride : Nat
  count      : Nat
  line       : Nat
  lineStride : Int := 1
  iterStride : Int := 0
  bankStride : Int := 0
  indexLine  : Nat := 0xFFFF
  deriving DecidableEq, Repr

/-- The descriptor list of one page of one pile (R222). -/
structure DescList where
  pile  : Nat
  page  : Nat
  descs : List SwDesc
  deriving DecidableEq, Repr

/-- A buffer entry of section 0x0005 (R174): kind 1 run-ahead, 2 step-banked, 3 input. -/
structure BufferEntry where
  kind       : Nat
  id         : Nat
  pile       : Nat
  space      : Space
  tile       : Nat := 0
  firstLine  : Nat
  lines      : Nat
  bankStride : Int
  deriving DecidableEq, Repr

/-- A result-object entry (R174). NAME is the 16 ASCII bytes as one number, byte 0 lowest. -/
structure ObjectEntry where
  name       : BitVec 128
  pile       : Nat
  space      : Space
  tile       : Nat := 0
  part       : Nat
  firstLine  : Nat
  lines      : Nat
  bankStride : Int
  bytes      : Nat
  deriving DecidableEq, Repr

/-- A bucket descriptor (R296): comp 0 NONE, 1 TOPK, 2 SIGN. -/
structure Bucket where
  id        : Nat
  ownerDev  : Nat
  ownerPile : Nat
  comp      : Nat
  topkF     : Nat := 0
  noise     : Bool := false
  blocks    : Nat
  tracker   : Nat
  contrib   : Nat
  gradTid   : Nat
  accSpace  : Space
  accLine   : Nat
  outLine   : Nat
  deriving DecidableEq, Repr

/-- A contribution entry (R297). -/
structure Contribution where
  bucket  : Nat
  index   : Nat
  pile    : Nat
  gLine   : Nat
  resLine : Nat
  pktLine : Nat
  deriving DecidableEq, Repr

/-- A DUAL pair-table entry (R390): units 0 FA, 1 BDA, 2 BWA, 3 vector store. -/
structure DualPair where
  phaseEntry : Nat
  tileA      : Nat
  unitA      : Nat
  tileB      : Nat
  unitB      : Nat
  firstSeq   : Nat
  count      : Nat
  pile       : Nat
  deriving DecidableEq, Repr

/-- A gather declaration (R174, R344): copy 0 forward, 1 backward. -/
structure GatherDecl where
  shard : Nat
  copy  : Nat
  pile  : Nat
  page  : Nat
  desc  : Nat
  deriving DecidableEq, Repr

/-- The fused-reduction declaration (R174). -/
structure FusedDecl where
  samplesPerMb : Nat
  mbParam      : Nat
  fusedLine    : Nat
  recordLine   : Nat
  deriving DecidableEq, Repr

/-- An encode descriptor (R64). -/
structure EncDesc where
  tensorId  : Nat
  tracker   : Nat := 0xFFF
  fmt       : Nat
  classGrad : Bool := false
  widen     : Bool := false
  escGap    : Nat := 0
  deriving DecidableEq, Repr

/-- A hyperparameter schedule (R330): FP32 values as bits. -/
inductive Schedule where
  | const (value : Word)
  | pwl (points : List (Nat × Word))
  | table (s0 : Nat) (values : List Word)
  deriving DecidableEq, Repr

/-- An update layer record (R328): rule 0 UPD_A, 1 UPD_B, 2 UPD_C, 3 UPD_D. -/
structure LayerRec where
  layerId  : Nat
  rule     : Nat
  nesterov : Bool := false
  trans    : Bool := false
  nsIters  : Nat := 0
  copyFwd  : Nat
  copyBwd  : Nat
  lrSched  : Nat
  wdSched  : Nat
  b1Sched  : Nat
  b2Sched  : Nat
  eps      : Word
  lrScale  : Word
  ruleK    : Word := 0
  nsA      : Word := 0
  nsB      : Word := 0
  nsC      : Word := 0
  g2Sum    : Nat
  w2Sum    : Nat
  u2Sum    : Nat := 0xFFFF
  encIdx   : Nat
  rows     : Nat
  cols     : Nat
  shardIdx : Nat
  shards   : Nat
  deriving DecidableEq, Repr

/-- A shard entry (R328). -/
structure ShardRec where
  id         : Nat
  firstBlock : Nat
  blocks     : Nat
  stateLine  : Nat
  vstride    : Nat
  gLine      : Nat
  ownerDev   : Nat
  ownerPile  : Nat
  deriving DecidableEq, Repr

/-- Section 0x0006 (R328): clipMode 0 NONE, 1 GLOBAL, 2 PER_TENSOR. -/
structure UpdateTables where
  clipMode  : Nat := 0
  clipSched : Nat := 0xFFFF
  sums      : Nat := 0
  schedules : List Schedule := []
  layers    : List LayerRec := []
  shards    : List ShardRec := []
  encs      : List EncDesc := []
  deriving DecidableEq, Repr

/-- A layer record of the expert directory (R274): weighting 0 SOFTMAX_ALL, 1 SOFTMAX_TOPK, 2 SIGMOID. -/
structure ExpertLayer where
  layer      : Nat
  experts    : Nat
  topK       : Nat
  second     : Bool
  weighting  : Nat
  gFp32      : Bool
  capacity   : Nat
  srcCount   : Nat
  tokens     : Nat
  entryFirst : Nat
  srcFirst   : Nat
  deriving DecidableEq, Repr

/-- An expert entry (R275). -/
structure ExpertEntry where
  device    : Nat
  pile      : Nat
  tileFirst : Nat
  tileCount : Nat
  slab      : Nat
  deriving DecidableEq, Repr

/-- The expert directory (R273-R276). -/
structure ExpertDir where
  layers  : List ExpertLayer := []
  entries : List ExpertEntry := []
  sources : List Nat := []
  deriving DecidableEq, Repr

/-- One entry of a tracker's window (R85). -/
structure TrackerEntry where
  absmax    : Word := 0
  zero      : Nat := 0
  flush     : Nat := 0
  sat       : Nat := 0
  nonfinite : Nat := 0
  deriving DecidableEq, Repr

/-- A scale tracker record (R85). -/
structure Tracker where
  index      : Nat
  eref       : Int := 0
  erefInit   : Int := 0
  margin     : Nat := 0
  fill       : Nat := 0
  head       : Nat := 0
  trend      : BitVec 8 := 0
  flushLimit : Nat := 0
  lastStep   : Nat := 0
  window     : List TrackerEntry := List.replicate 16 {}
  deriving DecidableEq, Repr

/-- A constant line of section 0x0009 (R173). -/
structure ConstLine where
  pile : Nat
  line : Nat
  data : Line
  deriving DecidableEq, Repr

/-- A power plan (R507): entries of DOMAIN and STATE (0 ON, 1 RET), and START_A in 1/16 A. -/
structure PowerPlan where
  index   : Nat
  startA  : Nat := 0
  entries : List (Nat × Nat)
  deriving DecidableEq, Repr

/-- A section directory entry (R173). -/
structure SectionEntry where
  offset : Nat
  size   : Nat
  type   : Nat
  deriving DecidableEq, Repr

/-- A schedule image in decoded form (R172-R178). HASH is over the bytes as received (R172). -/
structure Image where
  magic        : BitVec 64
  format       : Nat
  device       : Nat
  domainSize   : Nat
  timingRoot   : Nat
  jobId        : BitVec 128
  phaseEntries : Nat
  pages        : Nat
  head         : Bool := false
  hostInput    : Bool := false
  pileMask     : BitVec 16
  nTrackers    : Nat
  paramMax     : List Nat
  linkLat      : List Nat
  gateUp       : Nat
  gateDown     : Nat
  gateGuard    : Nat
  sections     : List SectionEntry
  hash         : BitVec 512
  programs     : List Program := []
  pageImgs     : List PageImg := []
  descLists    : List DescList := []
  paramInit    : List Nat := []
  phases       : List PhaseEntry := []
  buffers      : List BufferEntry := []
  objects      : List ObjectEntry := []
  buckets      : List Bucket := []
  contribs     : List Contribution := []
  duals        : List DualPair := []
  gathers      : List GatherDecl := []
  fused        : Option FusedDecl := none
  update       : UpdateTables := {}
  experts      : ExpertDir := {}
  trackers     : List Tracker := []
  trackerLines : List Nat := []
  constants    : List ConstLine := []
  plans        : List PowerPlan := []
  deriving DecidableEq, Repr

/-- The switch descriptors of one page of one pile as their 32 bytes each, byte b at bits 8b+7..8b (R222). -/
structure RawDescs where
  pile  : Nat
  page  : Nat
  words : List (BitVec 256)
  deriving DecidableEq, Repr

/-- What an image holds in the sections whose framing the spec does not state (log 16): the programs and their regions' layout, the
pages' entries, which page each list of descriptors belongs to, the constants, the contributing pile of each contribution entry, and the
first line of each tracker's record in pile memory, in order. Everything else is read from the image's bytes (R172-R177, R273-R276, R296, R297, R328, R330, R390, R507). -/
structure ImageParts where
  programs     : List Program := []
  pageImgs     : List PageImg := []
  descLists    : List RawDescs := []
  constants    : List ConstLine := []
  contribPiles : List Nat := []
  trackerLines : List Nat := []
  deriving DecidableEq, Repr

/-- A run-ahead buffer that a layer's router and its expert work use in a phase of the sequence, by phase entry and iteration, and the
micro-batch whose expert work runs there (R288). -/
structure RoutingUse where
  buffer : Nat
  entry  : Nat
  iter   : Nat
  batch  : Nat
  deriving DecidableEq, Repr

/-- What the loader knows of an image beyond its bytes: of compiled timing, which is outside the model (log 5, 16), the smallest send
slack of each phase entry (R183) and the first offending entry where an AHEAD transfer crosses two gates (R161), accesses of one phase
come in an order that breaks R196, a readout comes before its last contribution (R298), a tracked encoding after the record seal (R315),
or a shadow version is read before its pass 2 (R329); and what an access or an entry is for: the routing buffers (R288) and the
slot-table entries, by page image and place, that carry dispatch, return or their backward traffic (R277). -/
structure LoadTiming where
  minSlack     : List Int := []
  aheadCross   : Option Nat := none
  bankBreak    : Option Nat := none
  readoutEarly : Option Nat := none
  sealLate     : Option Nat := none
  shadowEarly  : Option Nat := none
  routing      : List RoutingUse := []
  dispatch     : List (Nat × Nat) := []
  deriving DecidableEq, Repr

/-! ## Operands of the physical world's events -/

/-- What a received command line of a bulk transfer or a stage of bring-up found on one pile (R473-R496):
physical tiles failed in self-test, spare rows used, whether its memory or TSV groups cannot be spared, row moves. -/
structure PileTest where
  badTiles   : BitVec 9 := 0
  rowsMoved  : List (Nat × Nat × Nat) := []   -- channel, bank, row
  rowsLong   : List ((Nat × Nat × Nat) × Nat) := []   -- a row and the hold, in h, at which it first miscompared
  memBad     : Bool := false
  restoreBad : Bool := false
  tsvBad     : List (Nat × Nat) := []         -- channel, group
  lanesBad   : List (Nat × Nat × Nat) := []   -- port, 0 transmit or 1 receive, lane
  deriving DecidableEq, Repr

/-- How a port goes on in its training (R255): to READY with its latency in slots, its polarity and the largest round trip of the
probes in clk (R252), or back after a failed VERIFY. -/
inductive TrainOutcome where
  | detect | equalise | adapt | align | verify | calibrate
  | ready (latency : Nat) (polInv : Bool) (trip : Nat)
  | verifyFailed
  deriving DecidableEq, Repr

/-- What the RUE does with a line that a receive descriptor delivers (R306, R313, R314, R315, R347): the manual gives
the RUE no instruction encoding, so the receive carries its use (log 19). -/
inductive RecvUse where
  | plain
  | contribution (bucket : Nat) (contrib : Nat) (lineNo : Nat)
  | verdictRecord (line : Nat)
  | fusedResult (line : Nat)
  | recordRound (line : Nat)
  | recordResult (line : Nat)
  | gather (decl : Nat) (lineNo : Nat)
  deriving DecidableEq, Repr

/-- Which record a send to the parent carries, and so seals when it is sampled (R311, R315): a line of the verdict record, 0
being line 0, or the line of the tracker index at a place in the image's list. -/
inductive SealKind where
  | none
  | verdict (line : Nat)
  | records (line : Nat)
  deriving DecidableEq, Repr

/-- A dispatch record's counts (R292, R293). -/
structure DispatchCounts where
  layer     : Nat
  maxExpert : Nat
  maxFill   : Nat
  tokens    : Nat
  assign    : Nat
  placed    : Nat
  fallback  : Nat
  dropped   : Nat
  noChoice  : Nat
  slots     : Nat
  deriving DecidableEq, Repr

/-- A micro-batch that a source pile has routed: its layer's identifier, and each token's choices by rank, the fallback last (R278). -/
structure Routing where
  layer   : Nat
  choices : List (List Nat)
  deriving DecidableEq, Repr

/-- Bits of a local-store line (of the physical tile named) or of a pile-buffer line that changed since they were written: the mask over tag
and body, the tag's bits above the body's (R99). -/
structure Upset where
  tile : Option (Fin 9)
  line : Nat
  mask : BitVec 1152
  deriving DecidableEq, Repr

/-- A pile's place in the gate tree (R190): how many children it has, and the way to its parent. -/
structure TreePlace where
  children : Nat
  parent   : Option Nat := none
  upsets   : List Upset := []
  deriving DecidableEq, Repr

/-- When a link block arrives: the receiver's slot, and the excursion in clk of its elastic buffer from the calibrated fill (R252). -/
structure BlockAt where
  slot : Nat
  fill : Int := 0
  deriving DecidableEq, Repr

/-- One sample of an ageing domain (R405, R406): the sampled quantity scaled by 2^16, signed since a monitor may run faster than at time
zero; the tile's hours in ON or the day number, and the share of the last 30 days in ON scaled by 2^16. -/
structure AgeSample where
  quantity : Int
  hours    : Nat
  onShare  : Nat
  deriving DecidableEq, Repr

/-- The readings of one PMBus rail (R518): READ_VOUT (LINEAR16 mantissa and VOUT_MODE exponent), READ_IOUT and
READ_TEMPERATURE_1 (LINEAR11 words). -/
structure RailReading where
  rail     : Fin 16
  vout     : BitVec 16
  voutMode : BitVec 8
  iout     : BitVec 16
  temp     : BitVec 16
  deriving DecidableEq, Repr

/-- The commands of the block, in the order of spec/opcode_table.json. -/
inductive Instr where
  | hello (m : LiftMsg)
  | confirm (m : LiftMsg)
  | halfOpenExpire (session : Nat)
  | ackOnly (m : LiftMsg)
  | retransmitTimeout (session seq : Nat)
  | sessionFail (session seq : Nat)
  | keepalive (m : LiftMsg)
  | idleTimeout (session : Nat)
  | close (fromDevice : Bool) (m : LiftMsg)
  | retainExpire (hostKey : Bytes)
  | bulkData (m : LiftMsg)
  | bulkDataSend (session xfer : Nat)
  | pfcFrame (prio quanta : Nat)
  | pauseFrame
  | arpRequest (target : BitVec 32) (senderMac : Framed (BitVec 48)) (senderIp : BitVec 32)
  | neighbourSolicitation (target : BitVec 128) (sender : Framed (BitVec 128))
  | echoRequest (v6 : Bool) (src dst : BitVec 128) (payload : Framed Bytes)
  | hostLinkTrain (ok : Bool) (lanes : BitVec 8)
  | hpCtl (m : LiftMsg) (r : RegReq)
  | eventAck (m : LiftMsg)
  | deviceInfo (m : LiftMsg)
  | identity (m : LiftMsg)
  | attest (m : LiftMsg) (nonce : BitVec 256)
  | bundleLoad (m : LiftMsg) (xfer size : Nat)
  | debugChallenge (m : LiftMsg) (scope : BitVec 32)
  | challengeExpire
  | debugUnlock (m : LiftMsg) (response : Bytes)
  | deviceReset (m : LiftMsg)
  | netConfig (m : LiftMsg) (cfg : NetCfg)
  | regRead (m : LiftMsg) (r : RegReq)
  | regWrite (m : LiftMsg) (r : RegReq)
  | memWrite (m : LiftMsg) (p : MemWriteP)
  | memRead (m : LiftMsg) (p : MemReadP)
  | memFill (m : LiftMsg) (p : MemFillP)
  | tagWrite (m : LiftMsg) (pile line : Nat) (tag : BitVec 128)
  | domainSet (m : LiftMsg) (device size root : Nat)
  | bringup (m : LiftMsg) (xfer : Nat) (flags : BitVec 32)
  | waxRead (m : LiftMsg) (xfer : Nat)
  | spareList (m : LiftMsg)
  | spareCommit (m : LiftMsg) (indices : List Nat)
  | pileReset (m : LiftMsg) (pile : Nat)
  | pileResetEnd (pile : PileId)
  | powerSet (m : LiftMsg) (domain state : Nat)
  | jobLoad (m : LiftMsg) (xfer size : Nat) (parts : ImageParts) (timing : LoadTiming)
  | jobStart (m : LiftMsg) (step seed : BitVec 64)
  | inputReady (m : LiftMsg) (step : Nat)
  | resume (m : LiftMsg)
  | abort (m : LiftMsg)
  | abortWatchdog (stuck : BitVec 16)
  | abortComplete (micros : Nat)
  | jobUnload (m : LiftMsg)
  | jobStatus (m : LiftMsg)
  | fetch (m : LiftMsg) (name : BitVec 128) (gmin xfer : Nat)
  | listObjects (m : LiftMsg) (first : Nat)
  | records (m : LiftMsg) (p : RecordsP)
  | pileHealth (m : LiftMsg) (pile : Nat)
  | tbCtlEnable (m : LiftMsg) (r : RegReq)
  | lnkCtlEnable (m : LiftMsg) (r : RegReq)
  | memInject (m : LiftMsg) (r : RegReq)
  | memBucketCtl (m : LiftMsg) (r : RegReq)
  | padRelease (m : LiftMsg) (r : RegReq)
  | cnop (p : PileId) (t : TileId)
  | idle (p : PileId) (t : TileId)
  | idleEnd (p : PileId) (t : TileId)
  | sli (p : PileId) (t : TileId)
  | salu (p : PileId) (t : TileId)
  | smovp (p : PileId) (t : TileId)
  | loop (p : PileId) (t : TileId)
  | br (p : PileId) (t : TileId)
  | gatew (p : PileId) (t : TileId)
  | tileArrival (p : PileId) (t : TileId)
  | waitLimit (p : PileId) (t : TileId)
  | amm (p : PileId) (t : TileId)
  | anop (p : PileId) (t : TileId)
  | pendingStart (p : PileId) (t : TileId) (a : ArrId)
  | arrayDone (p : PileId) (t : TileId) (a : ArrId)
  | vnop (p : PileId) (t : TileId)
  | vadd (p : PileId) (t : TileId)
  | vsub (p : PileId) (t : TileId)
  | vmul (p : PileId) (t : TileId)
  | vfma (p : PileId) (t : TileId)
  | vmin (p : PileId) (t : TileId)
  | vmax (p : PileId) (t : TileId)
  | vabs (p : PileId) (t : TileId)
  | vneg (p : PileId) (t : TileId)
  | vcmp (p : PileId) (t : TileId)
  | vsel (p : PileId) (t : TileId)
  | vcvt (p : PileId) (t : TileId)
  | vsfu (p : PileId) (t : TileId)
  | vsumw (p : PileId) (t : TileId)
  | vssqw (p : PileId) (t : TileId)
  | vmaxr (p : PileId) (t : TileId)
  | vminr (p : PileId) (t : TileId)
  | wadd (p : PileId) (t : TileId)
  | wsub (p : PileId) (t : TileId)
  | wmul (p : PileId) (t : TileId)
  | wrd (p : PileId) (t : TileId)
  | wbc (p : PileId) (t : TileId)
  | wset (p : PileId) (t : TileId)
  | vtopk (p : PileId) (t : TileId)
  | vperm (p : PileId) (t : TileId)
  | vld (p : PileId) (t : TileId)
  | vst (p : PileId) (t : TileId)
  | vldm (p : PileId) (t : TileId)
  | vsti (p : PileId) (t : TileId)
  | vmovi (p : PileId) (t : TileId)
  | vmovs (p : PileId) (t : TileId)
  | vmark (p : PileId) (t : TileId)
  | mnop (p : PileId) (t : TileId)
  | mvgo (p : PileId) (t : TileId)
  | wait (p : PileId) (t : TileId)
  | copy (p : PileId) (t : TileId)
  | gather (p : PileId) (t : TileId)
  | scatter (p : PileId) (t : TileId)
  | moverDone (p : PileId) (t : TileId)
  | wakeComplete (domain : Nat)
  | entryComplete (domain : Nat)
  | leak (p : PileId)
  | groom (p : PileId)
  | targetedGroom (p : PileId)
  | spareMove (p : PileId)
  | refresh (p : PileId)
  | doubledRefresh (p : PileId) (temp0 temp1 : Int)
  | overTemp (p : PileId) (temp0 temp1 : Int)
  | dramHotAbort (p : PileId) (temp0 temp1 : Int)
  | sendSample (p : PileId) (desc k : Nat) (sealed : SealKind)
  | gondolaIngress (p : PileId) (slot way : Nat) (g : Option Gondola) (parityErr : Bool)
  | switchReceive (p : PileId) (desc k : Nat) (use : RecvUse)
  | unschedFrame (p : PileId) (port : Nat) (useq : Nat) (f : UFrame)
  | ulink (p : PileId) (port : Nat) (credits : Nat) (ackNext : Nat) (resend : Bool)
  | unschedRetry (p : PileId) (port : Nat)
  | linkBlock (p : PileId) (k : XPort) (at' : BlockAt) (block : BitVec 3808)
  | bridgeWaySlot (p : PileId) (d : BrgEnd) (slot way : Nat) (data : BitVec 1184) (crc : BitVec 32)
  | realignTimeout (p : PileId) (k : XPort)
  | portTraining (p : PileId) (port : Nat) (o : TrainOutcome)
  | swapRequest (p : PileId) (k : XPort) (lane : Nat)
  | swapAck (p : PileId) (k : XPort)
  | swapAckTimeout (p : PileId) (k : XPort)
  | laneRetrain (p : PileId) (k : XPort) (ok : Bool)
  | wireRepair (p : PileId) (d : BrgEnd) (group : Nat) (failing : Nat)
  | timingMark (slot : Nat)
  | holdover
  | pileArrival (p : PileId) (slot : Nat) (tree : TreePlace) (routed : List Routing) (patFails : List (XPort × Nat))
  | spareSubstitution (p : PileId) (selfTestOk : Bool)
  | arrive (p : PileId) (slot child children : Nat) (tok : GateToken)
  | release (p : PileId) (tok : GateToken)
  | gateTimeout
  | gateOpen (slot : Nat)
  | compress (p : PileId) (bucket index : Nat)
  | readout (p : PileId) (bucket : Nat)
  | updatePass1 (p : PileId) (layer : Nat)
  | updatePass2 (p : PileId) (layer : Nat)
  | relayLine (l : Line) (empty : Bool)
  | ageingSample (samples : List AgeSample)
  | governorUpdate (w : Nat)
  | pmbusPoll (rs : List RailReading)
  | pmbAlert (status : List (Nat × BitVec 16))
  | thermAlert (p : PileId) (temp : Int)
  | thermAlertRelease (die dram : Int)
  | hotAbort (p : PileId) (temp : Int)
  | tripped (temp : Int)
  | wake (held : Nat)
  | signalDetect
  | pwrGoodFall
  | pwrGoodRise
  | resetNAssert
  | resetNRelease
  | uvTrip (rail : Nat)
  | hubFault
  | frequencyLock
  | hostLinkDown
  | unknownCommand (m : LiftMsg)
  | memFillDone (p : PileId)
  | bringupStageEnd (tests : List PileTest)
  | fuseWordBurned
  | hubEntryStart (domain : Nat)
  | aonPowerUp
  | aonPowerLoss
  | referenceClockChange (clock : Nat) (ok : Bool)
  deriving DecidableEq, Repr

end Sys2Proof
end

