-- ==== Sys2Proof/Machine/Codes.lean ====
section
/-! DEFINITION. The codes that protect lines, gondolas and blocks: CRCs (R27, R214, R253), and Reed-Solomon over GF(2^8)
for DRAM codewords (R356) and link blocks (R248). Bytes are natural numbers below 256. -/

namespace Sys2Proof.Machine

/-- The `n` low bytes of `v`, byte 0 first (R3). -/
def bytesLE (n v : Nat) : List Nat :=
  match n with
  | 0 => []
  | n + 1 => v % 256 :: bytesLE n (v / 256)

/-- The number whose bytes are `bs`, byte 0 lowest (R3). -/
def ofLE (bs : List Nat) : Nat :=
  match bs with
  | [] => 0
  | b :: r => b % 256 + 256 * ofLE r

/-- The number whose bytes are `bs`, most significant first (Lift headers, R3). -/
def ofBE (bs : List Nat) : Nat := bs.foldl (fun a b => a * 256 + b % 256) 0

/-- The `n` low bytes of `v`, most significant first. -/
def bytesBE (n v : Nat) : List Nat := (bytesLE n v).reverse

/-! ## CRC -/

/-- One message bit of a CRC of `w` bits with polynomial `poly`, most significant bit first. -/
def crcBit (w poly crc bit : Nat) : Nat :=
  let top := (crc >>> (w - 1)) % 2
  let sh := (crc * 2) % 2 ^ w
  if top = bit then sh else sh ^^^ poly

/-- The CRC after `n` further bits of a byte. -/
def crcBits (w poly : Nat) (byte : Nat) : Nat → Nat → Nat
  | 0, crc => crc
  | n + 1, crc => crcBits w poly byte n (crcBit w poly crc ((byte >>> n) % 2))

/-- The CRC over bytes, each most significant bit first. -/
def crc (w poly init : Nat) (bs : List Nat) : Nat := bs.foldl (fun c b => crcBits w poly b 8 c) init

/-- CRC-16 of R27: polynomial 0x8BB7, initial value 0, no final XOR. -/
def crc16 (bs : List Nat) : Nat := crc 16 0x8BB7 0 bs

/-- CRC-32 of R253: polynomial 0x04C11DB7, initial value and final XOR 0xFFFFFFFF. -/
def crc32 (bs : List Nat) : Nat := (crc 32 0x04C11DB7 0xFFFFFFFF bs) ^^^ 0xFFFFFFFF

/-! ## GF(2^8) with x^8 + x^4 + x^3 + x^2 + 1 -/

/-- Product by x. -/
def gfX (a : Nat) : Nat := if a < 128 then a * 2 else (a * 2 - 256) ^^^ 0x1D

def gfMulAux (b : Nat) : Nat → Nat → Nat → Nat
  | 0, _, acc => acc
  | n + 1, a, acc => gfMulAux b n (gfX a) (if (b >>> (7 - n)) % 2 = 1 then acc ^^^ a else acc)

/-- Product of two field elements. -/
def gfMul (a b : Nat) : Nat := if a = 0 ∨ b = 0 then 0 else gfMulAux b 8 a 0

def gfPow (a : Nat) : Nat → Nat
  | 0 => 1
  | n + 1 => gfMul a (gfPow a n)

/-- alpha^n by repeated doubling of the exponent's bits, alpha = 2. -/
def gfAlpha (n : Nat) : Nat :=
  (List.range 8).foldl (fun (acc : Nat × Nat) k =>
    (if ((n % 255) >>> k) % 2 = 1 then gfMul acc.1 acc.2 else acc.1, gfMul acc.2 acc.2)) (1, 2) |>.1

/-- Inverse: a^254. -/
def gfInv (a : Nat) : Nat := gfPow a 254

/-! ## Reed-Solomon codes with roots alpha^0 .. alpha^(k-1)

Polynomials are lists of coefficients, constant term first. -/

def polyAdd : List Nat → List Nat → List Nat
  | [], q => q
  | p, [] => p
  | a :: p, b :: q => (a ^^^ b) :: polyAdd p q

def polyScale (c : Nat) (p : List Nat) : List Nat := p.map (gfMul c)

def polyMul : List Nat → List Nat → List Nat
  | [], _ => []
  | a :: p, q => polyAdd (polyScale a q) (0 :: polyMul p q)

def polyEval (p : List Nat) (x : Nat) : Nat := p.foldr (fun c acc => c ^^^ gfMul x acc) 0

/-- The generator polynomial: the product of (x - alpha^j), j below k. -/
def rsGen (k : Nat) : List Nat := (List.range k).foldl (fun g j => polyMul g [gfAlpha j, 1]) [1]

/-- The check bytes of a message, first byte the highest coefficient: the remainder of message * x^k by the generator,
highest coefficient first. -/
def rsCheck (k : Nat) (msg : List Nat) : List Nat :=
  let g := ((rsGen k).take k).reverse
  msg.foldl (fun rem b =>
    let fb := b ^^^ rem.headD 0
    List.zipWith (fun r c => r ^^^ gfMul fb c) (rem.tail ++ [0]) g) (List.replicate k 0)

/-- The k syndromes of a word, first byte the highest coefficient. -/
def rsSyndromes (k : Nat) (w : List Nat) : List Nat :=
  (List.range k).map (fun j => let x := gfAlpha j; w.foldl (fun acc b => gfMul acc x ^^^ b) 0)

/-- The state of the shortest-register search: register, register before the last change of length, length, shift, and
the discrepancy then. -/
structure Bm where
  c : List Nat := [1]
  b : List Nat := [1]
  l : Nat := 0
  m : Nat := 1
  d : Nat := 1
  deriving DecidableEq, Repr

/-- One syndrome taken into the search; `seen` holds the syndromes before it, latest first. -/
def Bm.take (r : Bm) (n s : Nat) (seen : List Nat) : Bm :=
  let disc := (List.zipWith gfMul (r.c.drop 1) seen).take r.l |>.foldl (· ^^^ ·) s
  if disc = 0 then { r with m := r.m + 1 }
  else
    let c' := polyAdd r.c (polyScale (gfMul disc (gfInv r.d)) (List.replicate r.m 0 ++ r.b))
    if 2 * r.l ≤ n then ⟨c', r.c, n + 1 - r.l, 1, disc⟩
    else { r with c := c', m := r.m + 1 }

def Bm.run : List Nat → List Nat → Nat → Bm → Bm
  | [], _, _, r => r
  | s :: ss, seen, n, r => Bm.run ss (s :: seen) (n + 1) (r.take n s seen)

/-- The formal derivative of a polynomial over GF(2^8). -/
def polyDeriv (p : List Nat) : List Nat :=
  (p.drop 1).mapIdx (fun i c => if i % 2 = 0 then c else 0)

/-- Bounded decoding: the unique codeword that differs from `w` in at most `t` bytes, with the positions of those bytes,
if there is one. -/
def rsDecode (k t : Nat) (w : List Nat) : Option (List Nat × List Nat) :=
  let syn := rsSyndromes k w
  if syn.all (· == 0) then some (w, [])
  else
    let r := Bm.run syn [] 0 {}
    let n := w.length
    let om := (polyMul syn r.c).take k
    let dl := polyDeriv r.c
    let errs := (List.range n).filterMap (fun i =>
      let x := gfAlpha (n - 1 - i)
      let xi := gfAlpha (255 - (n - 1 - i) % 255)
      if polyEval r.c xi = 0 then
        some (i, gfMul x (gfMul (polyEval om xi) (gfInv (polyEval dl xi))))
      else none)
    let w' := w.mapIdx (fun i b => match errs.find? (fun e => e.1 == i) with
      | some e => b ^^^ e.2
      | none => b)
    if errs.length ≤ t ∧ errs.all (fun e => e.2 != 0) ∧ (rsSyndromes k w').all (· == 0) then
      some (w', errs.map Prod.fst)
    else none

end Sys2Proof.Machine
end

