-- ==== Sys2Proof/Machine/Crypto.lean ====
section
/-! DEFINITION. The cryptographic functions the spec names by standard (R2, R425, R429, R529): SHA-512 (FIPS 180-4),
HMAC and HKDF over it, X25519 (RFC 7748) and Ed25519 (RFC 8032). The spec gives their names only; the text here is
PRESUMED from those standards (log 14). Byte strings are lists of natural numbers below 256. -/

namespace Sys2Proof.Machine

/-! ## SHA-512 -/

/-- Round constants 0 to 15. -/
def sha512K0 : List Nat := [
  0x428A2F98D728AE22, 0x7137449123EF65CD, 0xB5C0FBCFEC4D3B2F, 0xE9B5DBA58189DBBC,
  0x3956C25BF348B538, 0x59F111F1B605D019, 0x923F82A4AF194F9B, 0xAB1C5ED5DA6D8118,
  0xD807AA98A3030242, 0x12835B0145706FBE, 0x243185BE4EE4B28C, 0x550C7DC3D5FFB4E2,
  0x72BE5D74F27B896F, 0x80DEB1FE3B1696B1, 0x9BDC06A725C71235, 0xC19BF174CF692694]

/-- Round constants 16 to 31. -/
def sha512K1 : List Nat := [
  0xE49B69C19EF14AD2, 0xEFBE4786384F25E3, 0x0FC19DC68B8CD5B5, 0x240CA1CC77AC9C65,
  0x2DE92C6F592B0275, 0x4A7484AA6EA6E483, 0x5CB0A9DCBD41FBD4, 0x76F988DA831153B5,
  0x983E5152EE66DFAB, 0xA831C66D2DB43210, 0xB00327C898FB213F, 0xBF597FC7BEEF0EE4,
  0xC6E00BF33DA88FC2, 0xD5A79147930AA725, 0x06CA6351E003826F, 0x142929670A0E6E70]

/-- Round constants 32 to 47. -/
def sha512K2 : List Nat := [
  0x27B70A8546D22FFC, 0x2E1B21385C26C926, 0x4D2C6DFC5AC42AED, 0x53380D139D95B3DF,
  0x650A73548BAF63DE, 0x766A0ABB3C77B2A8, 0x81C2C92E47EDAEE6, 0x92722C851482353B,
  0xA2BFE8A14CF10364, 0xA81A664BBC423001, 0xC24B8B70D0F89791, 0xC76C51A30654BE30,
  0xD192E819D6EF5218, 0xD69906245565A910, 0xF40E35855771202A, 0x106AA07032BBD1B8]

/-- Round constants 48 to 63. -/
def sha512K3 : List Nat := [
  0x19A4C116B8D2D0C8, 0x1E376C085141AB53, 0x2748774CDF8EEB99, 0x34B0BCB5E19B48A8,
  0x391C0CB3C5C95A63, 0x4ED8AA4AE3418ACB, 0x5B9CCA4F7763E373, 0x682E6FF3D6B2B8A3,
  0x748F82EE5DEFB2FC, 0x78A5636F43172F60, 0x84C87814A1F0AB72, 0x8CC702081A6439EC,
  0x90BEFFFA23631E28, 0xA4506CEBDE82BDE9, 0xBEF9A3F7B2C67915, 0xC67178F2E372532B]

/-- Round constants 64 to 79. -/
def sha512K4 : List Nat := [
  0xCA273ECEEA26619C, 0xD186B8C721C0C207, 0xEADA7DD6CDE0EB1E, 0xF57D4F7FEE6ED178,
  0x06F067AA72176FBA, 0x0A637DC5A2C898A6, 0x113F9804BEF90DAE, 0x1B710B35131C471B,
  0x28DB77F523047D84, 0x32CAAB7B40C72493, 0x3C9EBE0A15C9BEBC, 0x431D67C49C100D4C,
  0x4CC5D4BECB3E42B6, 0x597F299CFC657E2A, 0x5FCB6FAB3AD6FAEC, 0x6C44198C4A475817]

/-- The 80 round constants. -/
def sha512K : List Nat := sha512K0 ++ sha512K1 ++ sha512K2 ++ sha512K3 ++ sha512K4

/-- The initial hash value. -/
def sha512H0 : List Nat := [
  0x6A09E667F3BCC908, 0xBB67AE8584CAA73B, 0x3C6EF372FE94F82B, 0xA54FF53A5F1D36F1,
  0x510E527FADE682D1, 0x9B05688C2B3E6C1F, 0x1F83D9ABFB41BD6B, 0x5BE0CD19137E2179]

/-- Sum modulo 2^64. -/
def add64 (a b : Nat) : Nat := (a + b) % 2 ^ 64
/-- Rotation of 64 bits to the right. -/
def rotr64 (n a : Nat) : Nat := (a >>> n) ||| ((a <<< (64 - n)) % 2 ^ 64)
def not64 (a : Nat) : Nat := a ^^^ (2 ^ 64 - 1)

/-- The message schedule: the words so far, latest first. -/
def shaExpand : Nat → List Nat → List Nat
  | 0, ws => ws
  | n + 1, ws =>
    let w2 := ws.getD 1 0
    let w15 := ws.getD 14 0
    let s0 := rotr64 1 w15 ^^^ rotr64 8 w15 ^^^ (w15 >>> 7)
    let s1 := rotr64 19 w2 ^^^ rotr64 61 w2 ^^^ (w2 >>> 6)
    shaExpand n (add64 (add64 s1 (ws.getD 6 0)) (add64 s0 (ws.getD 15 0)) :: ws)

/-- The eight working variables. -/
structure ShaVars where
  a : Nat
  b : Nat
  c : Nat
  d : Nat
  e : Nat
  f : Nat
  g : Nat
  h : Nat
  deriving DecidableEq, Repr

/-- One round with its word and constant. -/
def ShaVars.round (v : ShaVars) (w k : Nat) : ShaVars :=
  let s1 := rotr64 14 v.e ^^^ rotr64 18 v.e ^^^ rotr64 41 v.e
  let ch := (v.e &&& v.f) ^^^ (not64 v.e &&& v.g)
  let t1 := add64 (add64 v.h s1) (add64 ch (add64 k w))
  let s0 := rotr64 28 v.a ^^^ rotr64 34 v.a ^^^ rotr64 39 v.a
  let mj := (v.a &&& v.b) ^^^ (v.a &&& v.c) ^^^ (v.b &&& v.c)
  ⟨add64 t1 (add64 s0 mj), v.a, v.b, v.c, add64 v.d t1, v.e, v.f, v.g⟩

def ShaVars.rounds : List Nat → List Nat → ShaVars → ShaVars
  | w :: ws, k :: ks, v => ShaVars.rounds ws ks (v.round w k)
  | _, _, v => v

/-- One 128-byte block folded into the hash value. -/
def sha512Block (h : ShaVars) (blk : List Nat) : ShaVars :=
  let ws := (List.range 16).map (fun i => ofBE ((blk.drop (8 * i)).take 8))
  let v := ShaVars.rounds (shaExpand 64 ws.reverse).reverse sha512K h
  ⟨add64 h.a v.a, add64 h.b v.b, add64 h.c v.c, add64 h.d v.d,
   add64 h.e v.e, add64 h.f v.f, add64 h.g v.g, add64 h.h v.h⟩

def sha512Blocks : Nat → List Nat → ShaVars → ShaVars
  | 0, _, h => h
  | n + 1, bs, h => sha512Blocks n (bs.drop 128) (sha512Block h (bs.take 128))

/-- SHA-512: 64 bytes. -/
def sha512 (msg : List Nat) : List Nat :=
  let z := (111 + 128 * (msg.length / 128 + 2) - msg.length) % 128
  let padded := msg ++ [0x80] ++ List.replicate z 0 ++ bytesBE 16 (msg.length * 8)
  let i := sha512H0
  let h := sha512Blocks (padded.length / 128) padded
    ⟨i.getD 0 0, i.getD 1 0, i.getD 2 0, i.getD 3 0, i.getD 4 0, i.getD 5 0, i.getD 6 0, i.getD 7 0⟩
  bytesBE 8 h.a ++ bytesBE 8 h.b ++ bytesBE 8 h.c ++ bytesBE 8 h.d ++
  bytesBE 8 h.e ++ bytesBE 8 h.f ++ bytesBE 8 h.g ++ bytesBE 8 h.h

/-- HMAC over SHA-512. -/
def hmac512 (key msg : List Nat) : List Nat :=
  let k0 := if key.length > 128 then sha512 key else key
  let k := k0 ++ List.replicate (128 - k0.length) 0
  sha512 (k.map (· ^^^ 0x5C) ++ sha512 (k.map (· ^^^ 0x36) ++ msg))

def hkdfBlocks (prk info : List Nat) : Nat → Nat → List Nat → List Nat
  | 0, _, _ => []
  | n + 1, i, t =>
    let t' := hmac512 prk (t ++ info ++ [i])
    t' ++ hkdfBlocks prk info n (i + 1) t'

/-- HKDF over SHA-512: `len` bytes. -/
def hkdf512 (salt ikm info : List Nat) (len : Nat) : List Nat :=
  (hkdfBlocks (hmac512 salt ikm) info ((len + 63) / 64) 1 []).take len

/-! ## The field of 2^255 - 19 -/

def fp25519 : Nat := 2 ^ 255 - 19

def fMul (a b : Nat) : Nat := a * b % fp25519
def fAdd (a b : Nat) : Nat := (a + b) % fp25519
def fSub (a b : Nat) : Nat := (a + fp25519 - b % fp25519) % fp25519

/-- a^e modulo m, by the `n` bits of e from bit n - 1 down. -/
def powModAux (m a e : Nat) : Nat → Nat → Nat
  | 0, acc => acc
  | n + 1, acc =>
    let sq := acc * acc % m
    powModAux m a e n (if (e >>> n) % 2 = 1 then sq * a % m else sq)

def fPow (a e : Nat) : Nat := powModAux fp25519 a e 256 1
def fInv (a : Nat) : Nat := fPow a (fp25519 - 2)

/-! ## X25519 -/

/-- The ladder's state: x2, z2, x3, z3 and the pending swap. -/
structure Ladder where
  x2 : Nat
  z2 : Nat
  x3 : Nat
  z3 : Nat
  sw : Bool
  deriving DecidableEq, Repr

def ladderSteps (k u : Nat) : Nat → Ladder → Ladder
  | 0, l => l
  | n + 1, l =>
    let bit := (k >>> n) % 2 == 1
    let s := l.sw ^^ bit
    let x2 := if s then l.x3 else l.x2
    let x3 := if s then l.x2 else l.x3
    let z2 := if s then l.z3 else l.z2
    let z3 := if s then l.z2 else l.z3
    let a := fAdd x2 z2
    let aa := fMul a a
    let b := fSub x2 z2
    let bb := fMul b b
    let e := fSub aa bb
    let da := fMul (fSub x3 z3) a
    let cb := fMul (fAdd x3 z3) b
    let p := fAdd da cb
    let q := fSub da cb
    ladderSteps k u n ⟨fMul aa bb, fMul e (fAdd aa (fMul 121665 e)), fMul p p, fMul u (fMul q q), bit⟩

/-- A scalar's 32 bytes with the bits the standard fixes. -/
def clampScalar (k : Nat) : Nat := (k % 2 ^ 254 / 8 * 8) + 2 ^ 254

/-- X25519 on 32-byte numbers. -/
def x25519 (scalar u : Nat) : Nat :=
  let u' := u % 2 ^ 255 % fp25519
  let l := ladderSteps (clampScalar scalar) u' 255 ⟨1, 0, u', 1, false⟩
  let x := if l.sw then l.x3 else l.x2
  let z := if l.sw then l.z3 else l.z2
  fMul x (fInv z)

/-! ## Ed25519 -/

/-- A point of the curve in extended coordinates. -/
structure EdPt where
  x : Nat
  y : Nat
  z : Nat
  t : Nat
  deriving DecidableEq, Repr

def edD : Nat := fMul (fp25519 - 121665) (fInv 121666)
def edOrder : Nat := 2 ^ 252 + 27742317777372353535851937790883648493

def EdPt.zero : EdPt := ⟨0, 1, 1, 0⟩

def EdPt.add (p q : EdPt) : EdPt :=
  let a := fMul (fSub p.y p.x) (fSub q.y q.x)
  let b := fMul (fAdd p.y p.x) (fAdd q.y q.x)
  let c := fMul (fMul 2 (fMul p.t q.t)) edD
  let d := fMul 2 (fMul p.z q.z)
  let e := fSub b a
  let f := fSub d c
  let g := fAdd d c
  let h := fAdd b a
  ⟨fMul e f, fMul g h, fMul f g, fMul e h⟩

def EdPt.mulAux (p : EdPt) (k : Nat) : Nat → EdPt → EdPt
  | 0, acc => acc
  | n + 1, acc =>
    let d := acc.add acc
    EdPt.mulAux p k n (if (k >>> n) % 2 = 1 then d.add p else d)

/-- k times a point. -/
def EdPt.mul (p : EdPt) (k : Nat) : EdPt := p.mulAux k 256 EdPt.zero

def EdPt.eqv (p q : EdPt) : Bool :=
  fMul p.x q.z == fMul q.x p.z && fMul p.y q.z == fMul q.y p.z

/-- The x of a given y and sign bit, if the point exists. -/
def edRecover (y sign : Nat) : Option EdPt :=
  if y ≥ fp25519 then none
  else
    let u := fSub (fMul y y) 1
    let v := fAdd (fMul edD (fMul y y)) 1
    let x2 := fMul u (fInv v)
    let r := fPow x2 ((fp25519 + 3) / 8)
    let x := if fMul r r = x2 then r else fMul r (fPow 2 ((fp25519 - 1) / 4))
    if fMul x x ≠ x2 then none
    else if x = 0 ∧ sign = 1 then none
    else
      let x' := if x % 2 = sign then x else fp25519 - x
      some ⟨x', y, 1, fMul x' y⟩

def edBase : EdPt := (edRecover (fMul 4 (fInv 5)) 0).getD EdPt.zero

/-- A point's 32 bytes. -/
def EdPt.encode (p : EdPt) : List Nat :=
  let zi := fInv p.z
  let x := fMul p.x zi
  let y := fMul p.y zi
  bytesLE 32 (y + (x % 2) * 2 ^ 255)

def edDecode (bs : List Nat) : Option EdPt :=
  let n := ofLE (bs.take 32)
  edRecover (n % 2 ^ 255) (n / 2 ^ 255 % 2)

/-- The scalar and the prefix of a 32-byte private key. -/
def edKey (sk : List Nat) : Nat × List Nat :=
  let h := sha512 sk
  (clampScalar (ofLE (h.take 32)), h.drop 32)

/-- The public key of a private key. -/
def edPublic (sk : List Nat) : List Nat := (edBase.mul (edKey sk).1).encode

/-- The 64-byte signature of a message. -/
def edSign (sk msg : List Nat) : List Nat :=
  let k := edKey sk
  let pub := (edBase.mul k.1).encode
  let r := ofLE (sha512 (k.2 ++ msg)) % edOrder
  let rp := (edBase.mul r).encode
  let h := ofLE (sha512 (rp ++ pub ++ msg)) % edOrder
  rp ++ bytesLE 32 ((r + h * k.1) % edOrder)

/-- Whether a 64-byte signature of a message verifies under a public key. -/
def edVerify (pub msg sig : List Nat) : Bool :=
  if sig.length ≠ 64 ∨ pub.length ≠ 32 then false
  else
    match edDecode pub, edDecode (sig.take 32) with
    | some a, some r =>
      let s := ofLE (sig.drop 32)
      if s ≥ edOrder then false
      else
        let h := ofLE (sha512 (sig.take 32 ++ pub ++ msg)) % edOrder
        ((edBase.mul s).mul 8).eqv ((r.add (a.mul h)).mul 8)
    | _, _ => false

end Sys2Proof.Machine
end

