-- ==== Sys2Proof/Config.lean ====
section
/-! DEFINITION. What this device's manufacture fixed and the spec gives no value for, and the free values: constants
without a body, so that no proof can see what they are (log 4, 14, 15, 18). -/

namespace Sys2Proof.Config

/-- The n-th 256-bit random value the device draws: ephemeral X25519 private keys, session and challenge nonces,
session identifiers (R425, R540). Free (log 15). -/
opaque random : Nat → BitVec 256

/-- FUSE_SECRET, 32 B, written at manufacture (R528). -/
opaque fuseSecret : BitVec 256

/-- VENDOR_KEY_HASH, 64 B (R528). -/
opaque vendorKeyHash : BitVec 512

/-- Bytes 0-191 of the ENDORSEMENT record except what R531 fixes by name: KEY_ID, ISSUED, ID_PUB and E_SIG are part
of the fused record (R528, R531). -/
opaque endorsement : BitVec 1536

/-- The device serial number, 16 B (R486, R531). -/
opaque serial : BitVec 128

/-- The fused unique MAC address (R420). -/
opaque macAddress : BitVec 48

/-- The raw SFU result for function code f and FP32 input bits x where R126 gives only a bound (log 18). -/
opaque sfu : Nat → BitVec 32 → BitVec 32

/-- The code of a negative value in V8P, which has no sign, by the value's magnitude and exponent, the quadrant exponent and
the draw (R71; log 23). -/
opaque v8pNegative : Nat → Int → Int → Nat → BitVec 8

/-- The code of a clamped negative value in V8P (R75, R79; log 23). -/
opaque v8pNegativeTop : BitVec 8

/-- The 48-bit adder's sum of a group whose exact sum, in units of its least significant bit, lies outside 48-bit two's
complement (R46; log 35). -/
opaque adderBeyond : Int → Int

/-- The place of the lane that VMAXR (true) or VMINR answers with among active lanes one of which is a NaN: one fixed function of
the lanes' bits (R123; log 41). -/
opaque extremeOfNan : Bool → List (BitVec 32) → Nat

/-- The significand below bit 63 and the exponent of a NaN (first argument true) or an infinity, by sign, in the wide form (R312; log
31). -/
opaque wideSpecial : Bool → Bool → BitVec 79

/-- The rank by which a pile adds up its buckets, by BUCKET_ID: the order of the sum of R311 is not stated (log 32). -/
opaque bucketRank : Nat → Nat

/-- JTAG (R539, R555; log 133): the length of the instruction register, the instruction that a code other than all ones selects (0 BYPASS, 1
SAMPLE/PRELOAD, 2 EXTEST, 3 IDCODE, others private), whether a private one reaches scan chains and not the cores, and which land of R554 each cell of the boundary register is, by its place. -/
opaque jtagIrBits : Nat
opaque jtagInstr : List Bool → Nat
opaque jtagScan : Nat → Bool
opaque boundaryCell : Nat → Nat

/-- What a field that shows work in progress reads while it runs, by field and by the count of free values (log 5). -/
opaque shownNow : Nat → Nat → BitVec 64

/-- The free value that a step draws where the spec states no value, one per count of the model's counter (log 4). -/
opaque freeValue : Nat → BitVec 64

/-- Byte offset that DETAIL gives for a parameter field of a command whose packing the spec does not state: by command code
and field number (R455, R457; log 28). -/
opaque paramOffset : Nat → Nat → Nat

/-- Length in 8-byte words, and padding bytes at the end, of the parameters of a command whose fields' widths the spec does not state, by
command code (R457; log 28). -/
opaque paramWords : Nat → Nat
opaque paramPad : Nat → Nat

/-- Bytes 50-63 of DEVICE_INFO, which hold the fused-bad tile, lane and row counts in widths the spec does not state
(R457; log 28). -/
opaque fusedCounts : Nat → Nat → Nat → BitVec 112

/-- The compiled estimate of the current of a tile's units in a phase, by pile, physical tile and phase table entry, in 1/16 A (R512; log 146). -/
opaque tileEstimate : Nat → Nat → Nat → Nat

/-- The order in which the bytes of the fuse banks enter FUSE_DIGEST, which the spec does not state (R537; log 29). -/
opaque fuseOrder : List (BitVec 8) → List (BitVec 8)

/-- The 64-bit significand of a wide result below the least exponent of the wide form, which the spec states no value for, by
the magnitude and exponent of the exact value (R124; log 31). -/
opaque wideUnder : Nat → Int → BitVec 64

/-- The bytes of a wax record's section of a type, over what it holds; the spec states a layout for section 5 alone (R486;
log 42). -/
opaque waxSection : Nat → List Nat → List Nat

/-- Zero bytes ahead of a section, whose OFFSET the spec leaves open (R486; log 42). -/
opaque waxPad : Nat → Nat

/-- The rows that section 4 of a supplied record lists, each as pile * 2^29 + the line index of its column 0 (log 42). -/
opaque waxRows : List Nat → List Nat

/-- The spare wires that section 2 of a supplied record uses, by bridge end and group (log 42). -/
opaque waxWires : List Nat → Nat → Nat

/-- The ageing samples of a domain in section 6 of a supplied record, as quantity, hours or day, and share (R407; log 42). -/
opaque waxAges : List Nat → Nat → List (Int × Nat × Nat)

/-- The quotient of R87's share of a count where ELEMENTS is 0 (log 152). -/
opaque shareOfNone : Nat → Nat

/-- The integrated core charge in section 6 (R407; log 42). -/
opaque waxCharge : List Nat → Nat

end Sys2Proof.Config
end

