-- ==== Sys2Proof/Machine/Fp.lean ====
section
/-! DEFINITION. Exact numbers and the device's rounding (R50-R56): a finite number is a sign, a natural magnitude and a
binary exponent; arithmetic is exact, and one rounding under a named mode follows. -/

namespace Sys2Proof.Machine

/-- A finite number: (-1)^neg * mag * 2^exp. A zero keeps its sign. -/
structure Dy where
  neg : Bool
  mag : Nat
  exp : Int
  deriving DecidableEq, Repr

/-- A number as the datapaths see it. Every NaN is the canonical one (R55). -/
inductive FNum where
  | nan
  | inf (neg : Bool)
  | fin (d : Dy)
  deriving DecidableEq, Repr

/-- Rounding modes (R50): nearest with ties to even, to odd (R51), stochastic with the draw r (R52), toward zero. -/
inductive RMode where
  | rne
  | odd
  | stoch (r : Nat)
  | trunc
  deriving DecidableEq, Repr

/-- Drop the `k` low bits of `mag` under a mode: the adjacent integers are q and q + 1. Stochastic rounding takes a < b and the
fraction f on the magnitude, as R71 says for block codes and outliers; R52 leaves it open for a negative value of a plain format and of
a TOPK pair, and the model does the same there (DESIGN CHOICE, log 138). -/
def roundBits (m : RMode) (mag k : Nat) : Nat :=
  let q := mag >>> k
  let rem := mag % 2 ^ k
  match m with
  | .rne => if 2 * rem > 2 ^ k ∨ (2 * rem = 2 ^ k ∧ q % 2 = 1) then q + 1 else q
  | .odd => if rem = 0 then q else q ||| 1
  | .stoch r => if (rem * 65536) >>> k + r ≥ 65536 then q + 1 else q
  | .trunc => q

def Dy.zero (neg : Bool) : Dy := ⟨neg, 0, 0⟩

def Dy.isZero (d : Dy) : Bool := d.mag == 0

/-- floor(log2 |d|) of a non-zero number. -/
def Dy.log2 (d : Dy) : Int := (d.mag.log2 : Int) + d.exp

/-- The number on the grid of multiples of 2^e. -/
def Dy.quant (m : RMode) (e : Int) (d : Dy) : Dy :=
  if e ≤ d.exp then ⟨d.neg, d.mag <<< (d.exp - e).toNat, e⟩
  else ⟨d.neg, roundBits m d.mag (e - d.exp).toNat, e⟩

/-- The number rounded to `p` significand bits, with no bound on the exponent (R53). -/
def Dy.roundSig (m : RMode) (p : Nat) (d : Dy) : Dy :=
  if d.mag.log2 + 1 ≤ p then d else d.quant m (d.exp + ((d.mag.log2 + 1 - p : Nat) : Int))

/-- The signed integer d / 2^e, for e at or below d's exponent. -/
def Dy.scaled (e : Int) (d : Dy) : Int :=
  let n : Int := (d.mag <<< (d.exp - e).toNat : Nat)
  if d.neg then -n else n

/-- The number n * 2^e; zero is +0. -/
def Dy.ofInt (n e : Int) : Dy := ⟨decide (n < 0), n.natAbs, e⟩

/-- Exact sum; a sum of exact opposites is +0, and -0 + -0 is -0 (R56). -/
def Dy.add (a b : Dy) : Dy :=
  if a.mag = 0 ∧ b.mag = 0 then ⟨a.neg && b.neg, 0, 0⟩
  else
    let e := min a.exp b.exp
    Dy.ofInt (a.scaled e + b.scaled e) e

def Dy.mul (a b : Dy) : Dy := ⟨a.neg ^^ b.neg, a.mag * b.mag, a.exp + b.exp⟩

def Dy.negate (a : Dy) : Dy := ⟨!a.neg, a.mag, a.exp⟩

def Dy.abs (a : Dy) : Dy := ⟨false, a.mag, a.exp⟩

/-- Numerical order; +0 and -0 are equal. -/
def Dy.lt (a b : Dy) : Bool :=
  let e := min a.exp b.exp
  decide (a.scaled e < b.scaled e)

def Dy.eqv (a b : Dy) : Bool :=
  let e := min a.exp b.exp
  decide (a.scaled e = b.scaled e)

def Dy.le (a b : Dy) : Bool := a.lt b || a.eqv b

def FNum.neg? : FNum → Bool
  | .nan => false
  | .inf n => n
  | .fin d => d.neg

def FNum.finite : FNum → Bool
  | .fin _ => true
  | _ => false

def FNum.isNan : FNum → Bool
  | .nan => true
  | _ => false

def FNum.isZero : FNum → Bool
  | .fin d => d.isZero
  | _ => false

/-- Sums under IEEE 754 rules (R45, R55). -/
def FNum.add : FNum → FNum → FNum
  | .nan, _ => .nan
  | _, .nan => .nan
  | .inf a, .inf b => if a = b then .inf a else .nan
  | .inf a, .fin _ => .inf a
  | .fin _, .inf b => .inf b
  | .fin a, .fin b => .fin (a.add b)

def FNum.negate : FNum → FNum
  | .nan => .nan
  | .inf a => .inf (!a)
  | .fin d => .fin d.negate

def FNum.abs : FNum → FNum
  | .nan => .nan
  | .inf _ => .inf false
  | .fin d => .fin d.abs

def FNum.sub (a b : FNum) : FNum := a.add b.negate

/-- Products under IEEE 754 rules: 0 * inf is NaN. -/
def FNum.mul : FNum → FNum → FNum
  | .nan, _ => .nan
  | _, .nan => .nan
  | .inf a, .inf b => .inf (a ^^ b)
  | .inf a, .fin d => if d.isZero then .nan else .inf (a ^^ d.neg)
  | .fin d, .inf b => if d.isZero then .nan else .inf (d.neg ^^ b)
  | .fin a, .fin b => .fin (a.mul b)

/-- a < b; false when either is NaN. -/
def FNum.lt : FNum → FNum → Bool
  | .nan, _ => false
  | _, .nan => false
  | .inf a, .inf b => a && !b
  | .inf a, .fin _ => a
  | .fin _, .inf b => !b
  | .fin a, .fin b => a.lt b

/-- a = b numerically; false when either is NaN. -/
def FNum.eqv : FNum → FNum → Bool
  | .nan, _ => false
  | _, .nan => false
  | .inf a, .inf b => a == b
  | .inf _, .fin _ => false
  | .fin _, .inf _ => false
  | .fin a, .fin b => a.eqv b

/-! ## Binary formats -/

/-- A storage format: significand bits with the hidden bit, exponent field bits, bias, canonical NaN (R55). -/
structure FpFmt where
  p    : Nat
  ew   : Nat
  bias : Nat
  qnan : Nat
  deriving DecidableEq, Repr

def fp32 : FpFmt := ⟨24, 8, 127, 0x7FC00000⟩
def bf16 : FpFmt := ⟨8, 8, 127, 0x7FC0⟩
def fp16 : FpFmt := ⟨11, 5, 15, 0x7E00⟩

/-- Smallest normal exponent. -/
def FpFmt.emin (F : FpFmt) : Int := 1 - (F.bias : Int)
/-- Largest exponent. -/
def FpFmt.emax (F : FpFmt) : Int := F.bias
/-- Bits of +infinity. -/
def FpFmt.infBits (F : FpFmt) : Nat := (2 ^ F.ew - 1) <<< (F.p - 1)
/-- Bits of the sign. -/
def FpFmt.signBits (F : FpFmt) (neg : Bool) : Nat := if neg then 2 ^ (F.ew + F.p - 1) else 0
/-- Bits of the largest finite value. -/
def FpFmt.maxBits (F : FpFmt) : Nat := F.infBits - 1
/-- The largest finite value. -/
def FpFmt.maxVal (F : FpFmt) : Dy := ⟨false, 2 ^ F.p - 1, F.emax - ((F.p - 1 : Nat) : Int)⟩

/-- The number a bit pattern holds; subnormals are read exactly (R53). -/
def FpFmt.decode (F : FpFmt) (bits : Nat) : FNum :=
  let frac := bits % 2 ^ (F.p - 1)
  let e := (bits >>> (F.p - 1)) % 2 ^ F.ew
  let neg := (bits >>> (F.p - 1 + F.ew)) % 2 == 1
  if e = 2 ^ F.ew - 1 then (if frac = 0 then .inf neg else .nan)
  else if e = 0 then .fin ⟨neg, frac, F.emin - ((F.p - 1 : Nat) : Int)⟩
  else .fin ⟨neg, 2 ^ (F.p - 1) + frac, (e : Int) - (F.bias : Int) - ((F.p - 1 : Nat) : Int)⟩

/-- A packed result: its bits, whether a non-zero value was written as zero (R53), and whether its magnitude passed the
largest finite one. -/
structure FpOut where
  bits  : Nat
  flush : Bool := false
  ovf   : Bool := false
  deriving DecidableEq, Repr

/-- Round a finite number into the format (R53): full significand width, then flush below the smallest normal, then
infinity beyond the largest finite value, or that value where `clamp` is set (R54). -/
def FpFmt.pack (F : FpFmt) (m : RMode) (clamp : Bool) (d : Dy) : FpOut :=
  if d.isZero then ⟨F.signBits d.neg, false, false⟩
  else
    let r := d.roundSig m F.p
    let e := r.log2
    if e < F.emin then ⟨F.signBits d.neg, true, false⟩
    else if F.emax < e then
      ⟨F.signBits d.neg + (if clamp then F.maxBits else F.infBits), false, true⟩
    else
      let sig := (r.quant .trunc (e - ((F.p - 1 : Nat) : Int))).mag
      ⟨F.signBits d.neg + ((e + F.bias).toNat <<< (F.p - 1)) + (sig - 2 ^ (F.p - 1)), false, false⟩

/-- Round a number into the format, infinities and NaN kept (R55). -/
def FpFmt.packNum (F : FpFmt) (m : RMode) (clamp : Bool) : FNum → FpOut
  | .nan => ⟨F.qnan, false, false⟩
  | .inf n => ⟨F.signBits n + F.infBits, false, false⟩
  | .fin d => F.pack m clamp d

/-- FP32 bits of a number that FP32 holds exactly, subnormals included (R63); beyond the largest finite: infinity. -/
def fp32Exact : FNum → FpOut
  | .nan => ⟨fp32.qnan, false, false⟩
  | .inf n => ⟨fp32.signBits n + fp32.infBits, false, false⟩
  | .fin d =>
    if d.isZero then ⟨fp32.signBits d.neg, false, false⟩
    else if d.log2 < fp32.emin then
      ⟨fp32.signBits d.neg + (d.quant .rne (-149)).mag, false, false⟩
    else fp32.pack .rne false d

/-- The number in FP32 bits. -/
def num32 (w : Word) : FNum := fp32.decode w.toNat

/-- FP32 rounding to nearest of a number: the RUE's and the vector unit's result where no narrower encoding follows
(R50). -/
def rnd32 (n : FNum) : Word := BitVec.ofNat 32 (fp32.packNum .rne false n).bits

def add32 (a b : Word) : Word := rnd32 ((num32 a).add (num32 b))
def sub32 (a b : Word) : Word := rnd32 ((num32 a).sub (num32 b))
def mul32 (a b : Word) : Word := rnd32 ((num32 a).mul (num32 b))

/-- |x| > y for finite magnitudes in FP32 bits; false when either is NaN. -/
def absGt32 (x y : Word) : Bool := (num32 y).lt (num32 x).abs

/-- The larger of two non-negative FP32 magnitudes, as bits (ABSMAX of R82, R84). -/
def max32 (a b : Word) : Word := if (num32 a).lt (num32 b) then b else a

/-- A rational n / d (d > 0) rounded to nearest into FP32: divisions that a rule states exactly and rounds once. -/
def ratRound32 (neg : Bool) (n d : Nat) (e : Int) : Word :=
  let sh : Nat := 64 + d.log2
  let q := (n <<< sh) / d
  let sticky := if (n <<< sh) % d = 0 then 0 else 1
  BitVec.ofNat 32 (fp32.pack .rne false ⟨neg, q * 2 + sticky, e - (sh : Int) - 1⟩).bits

/-- The largest r with r * r at most n, by bits from `k` down. -/
def isqrtAux (n : Nat) : Nat → Nat → Nat
  | 0, r => r
  | k + 1, r =>
    let c := r + 2 ^ k
    if c * c ≤ n then isqrtAux n k c else isqrtAux n k r

/-- Integer square root. -/
def isqrt (n : Nat) : Nat := isqrtAux n (n.log2 / 2 + 1) 0

/-- The square root of a non-negative finite number with a sticky bit below 64 significant bits. -/
def Dy.sqrt (d : Dy) : Dy :=
  if d.isZero then d
  else
    let e := if d.exp % 2 = 0 then d.exp - 128 else d.exp - 129
    let n := d.mag <<< (d.exp - e).toNat
    let r := isqrt n
    ⟨false, r * 2 + (if r * r = n then 0 else 1), e / 2 - 1⟩

end Sys2Proof.Machine
end

