-- ==== Sys2Proof/Machine/Blocks.lean ====
section
/-! DEFINITION. Lines, tags and blocks (R25-R43): where bytes lie in a line, BLOCK_CHECK, fill lines, and the decoding of a
block of any tensor format with the malformation checks of R43. -/

namespace Sys2Proof.Machine

/-! ## Bytes of a line -/

def byteOf (v k : Nat) : Nat := (v >>> (8 * k)) % 256

end Sys2Proof.Machine

namespace Sys2Proof

def Line.byte (l : Line) (k : Nat) : Nat := Machine.byteOf l.body.toNat k
def Line.tagByte (l : Line) (k : Nat) : Nat := Machine.byteOf l.tag.toNat k

/-- The 16-bit little-endian value at byte 2k of the body. -/
def Line.half (l : Line) (k : Nat) : Nat := (l.body.toNat >>> (16 * k)) % 65536

/-- The 32-bit little-endian value at byte 4k of the body. -/
def Line.word (l : Line) (k : Nat) : Nat := (l.body.toNat >>> (32 * k)) % 2 ^ 32

end Sys2Proof

namespace Sys2Proof.Machine

/-- BLOCK_CHECK of a body and tag bytes 0-13 (R27). -/
def blockCheck (body : BitVec 1024) (tag : BitVec 128) : Nat :=
  crc16 (bytesLE 128 body.toNat ++ bytesLE 14 tag.toNat)

/-- The tag with its BLOCK_CHECK in bytes 14-15 (R26, R27). -/
def sealTag (body : BitVec 1024) (tag : BitVec 128) : BitVec 128 :=
  BitVec.ofNat 128 (tag.toNat % 2 ^ 112 + blockCheck body tag * 2 ^ 112)

/-- Whether a line's BLOCK_CHECK verifies (R27). -/
def lineCheckOk (l : Line) : Bool := l.tag.toNat >>> 112 == blockCheck l.body l.tag

/-- A line from body bytes and tag bytes 0-13, with its BLOCK_CHECK. -/
def mkLine (body tag : Nat) (poison : Bool) : Line :=
  let b := BitVec.ofNat 1024 body
  ⟨b, sealTag b (BitVec.ofNat 128 (tag % 2 ^ 112)), poison⟩

/-- A raw line: tag byte 3 is 0xF0 (R42). -/
def rawLine (body : Nat) : Line := mkLine body (0xF0 <<< 24) false

/-- The tag MEM_WRITE in body form gives each line (R436): the raw tag. -/
def rawTag (body : BitVec 1024) : BitVec 128 := sealTag body (BitVec.ofNat 128 (0xF0 <<< 24))

/-! ## Formats (R30, R31) -/

def isBlockFmt (f : Nat) : Bool := f == 4 || f == 5 || f == 8 || f == 9 || f == 10
def isPlainFmt (f : Nat) : Bool := f == 0 || f == 1 || f == 2
/-- A tensor format other than raw. -/
def isTensorFmt (f : Nat) : Bool := isBlockFmt f || isPlainFmt f
/-- A format that a fill line has (R31, R42, R153): a tensor format, or raw. -/
def isFillFmt (f : Nat) : Bool := isTensorFmt f || f == 15
def isV4 (f : Nat) : Bool := f == 4 || f == 5
def isV8 (f : Nat) : Bool := f == 8 || f == 9 || f == 10

/-- Lines per block (R31); 1 where the identifier names no block. -/
def fmtLines (f : Nat) : Nat :=
  if isV8 f then 2 else if f == 0 || f == 1 then 4 else if f == 2 then 8 else 1

/-- Outlier slots of a block (R36). -/
def fmtSlots (f : Nat) : Nat := if isV8 f then 10 else 5

/-- The escape code (R31). -/
def escCode (f : Nat) : Nat := if f == 4 then 8 else if f == 5 then 15 else if f == 10 then 255 else 128

/-- The storage format of a plain identifier. -/
def plainFp (f : Nat) : FpFmt := if f == 0 then bf16 else if f == 1 then fp16 else fp32

/-- Significand bits below the hidden one and bias of a coded format (R38, R40): V4F is E2M1. -/
def codeShape (f : Nat) : Nat × Nat :=
  if f == 4 then (1, 1) else if f == 8 then (3, 7) else if f == 9 then (2, 15) else (3, 15)

/-- Bits of a code without its sign. -/
def codeMagBits (f : Nat) : Nat := if f == 4 then 3 else if f == 10 then 8 else 7

/-- The largest code magnitude (R40). -/
def codeMax (f : Nat) : Nat := if f == 4 then 7 else if f == 8 then 0x7E else if f == 9 then 0x7B else 0xFE

/-- The value of a code magnitude, without block scale (R38, R40). -/
def codeValue (f mag : Nat) : Dy :=
  let (m, bias) := codeShape f
  let e := mag >>> m
  let sig := mag % 2 ^ m
  if e = 0 then ⟨false, sig, 1 - (bias : Int) - (m : Int)⟩
  else ⟨false, 2 ^ m + sig, (e : Int) - (bias : Int) - (m : Int)⟩

/-- A code that R40 marks reserved. -/
def codeReserved (f code : Nat) : Bool :=
  if f == 8 then code == 0x7F || code == 0xFF
  else if f == 9 then (0x7C ≤ code && code ≤ 0x7F) || (0xFC ≤ code && code ≤ 0xFF)
  else false

/-- The quadrant of element i (R35). -/
def quadOf (i : Nat) : Nat := (if i / 16 < 8 then 0 else 2) + (if i % 16 < 8 then 0 else 1)

/-- The code of element i in a block format (R32). -/
def codeAt (f : Nat) (lines : List Line) (i : Nat) : Nat :=
  if isV4 f then
    let b := (lines.headD ⟨0, 0, false⟩).byte (i / 2)
    if i % 2 = 0 then b % 16 else b / 16
  else (lines.getD (i / 128) ⟨0, 0, false⟩).byte (i % 128)

/-- Outlier slot n of a block (R33, R34). -/
def outlierAt (lines : List Line) (n : Nat) : Nat :=
  if n < 5 then ((lines.headD ⟨0, 0, false⟩).tag.toNat >>> (32 + 16 * n)) % 65536
  else ((lines.getD 1 ⟨0, 0, false⟩).tag.toNat >>> (32 + 16 * (n - 5))) % 65536

/-- One element's value from its code (R38-R40): `zp` and the quadrant exponent come from the tag. -/
def codeNum (f zp code : Nat) (s : Int) : FNum :=
  if f == 5 then .fin ⟨decide (code < zp), if code < zp then zp - code else code - zp, s⟩
  else
    let mag := code % 2 ^ codeMagBits f
    let v := codeValue f mag
    .fin ⟨f != 10 && code >>> codeMagBits f == 1 && mag != 0, v.mag, v.exp + s⟩

/-- A decoded block: its 256 values in canonical order, a poison mark for each, and whether R43 found it malformed. -/
structure DBlock where
  vals      : List FNum
  poison    : List Bool
  malformed : Bool
  deriving DecidableEq, Repr

/-- Values of a block format's elements: codes taken in order, escapes numbered from `n` (R36). -/
def decodeCodes (f zp : Nat) (e : Nat) (q : Nat → Nat) (lines : List Line) : Nat → Nat → Nat → List (FNum × Bool)
  | 0, _, _ => []
  | k + 1, i, n =>
    let c := codeAt f lines i
    if c = escCode f then
      (bf16.decode (outlierAt lines n), decide (5 ≤ n)) :: decodeCodes f zp e q lines k (i + 1) (n + 1)
    else
      (codeNum f zp c ((e : Int) - 127 - (q (quadOf i) : Int)), false) :: decodeCodes f zp e q lines k (i + 1) n

/-- The checks of R43 on a block format; `tail` says that the second line of a V8 block may be examined too. Where it may not, the
escapes of the second half are unknown: ESC_N must cover those of the first half, and below 5 it is the block's count. -/
def blockMalformed (f : Nat) (lines : List Line) (codes : List Nat) (tail : Bool) : Bool :=
  let l0 := lines.headD ⟨0, 0, false⟩
  let l1 := lines.getD 1 ⟨0, 0, false⟩
  let b2 := l0.tagByte 2
  let b3 := l0.tagByte 3
  let e := l0.tagByte 0
  let nEsc := (codes.filter (· == escCode f)).length
  let escN := (b2 / 16) % 8
  let slots := fmtSlots f
  let second := isV8 f && tail
  let slotBad (from' : Nat) : Bool :=
    (List.range slots).any (fun n => decide (from' ≤ n) && (decide (n < 5) || second) && outlierAt lines n != 0)
  b3 / 16 != f || b3 % 2 != 0 ||
  (second && l1.tag.toNat % 2 ^ 32 != 0) ||
  (if e = 0 then
     escN != 0 || (b3 / 2) % 2 != 0 || l0.tagByte 1 != 0 || b2 % 16 != 0 || (b3 / 4) % 2 != 0 || b2 / 128 != 0
   else if e = 255 then
     escN != 0 || (b3 / 2) % 2 != 1 || l0.tagByte 1 != 0 || b2 % 16 != 0 ||
     (b3 / 4) % 2 != 0 || (b3 / 8) % 2 != 0 || b2 / 128 != 0 || slotBad 1
   else
     (b3 / 2) % 2 != 0 || (b3 / 8) % 2 != 0 || codes.any (codeReserved f) || decide (slots < nEsc) ||
     (if tail || isV4 f then escN != min nEsc 5 || slotBad nEsc
      else decide (5 < escN) || decide (escN < min nEsc 5) || slotBad escN))

/-- Decoding of a block in a block format (R33-R41, R43). A poisoned first line poisons the block; a poisoned second
line of a V8 block poisons rows 8-15 and every element whose outlier lies in its tag; a malformed block is poisoned
whole. -/
def decodeCoded (f : Nat) (lines : List Line) : DBlock :=
  let l0 := lines.headD ⟨0, 0, false⟩
  let p0 := l0.poison
  let p1 := isV8 f && (lines.getD 1 ⟨0, 0, false⟩).poison
  let e := l0.tagByte 0
  let zp := l0.tagByte 2 % 16
  let q (k : Nat) : Nat := (l0.tagByte 1 >>> (2 * k)) % 4
  let body : List (FNum × Bool) :=
    if e = 0 then List.replicate 256 (.fin (Dy.zero false), false)
    else if e = 255 then List.replicate 256 (bf16.decode (outlierAt lines 0), false)
    else decodeCodes f zp e q lines 256 0 0
  let examined := if p1 then 128 else 256
  let bad := !p0 && blockMalformed f lines ((List.range examined).map (codeAt f lines)) (!p1)
  ⟨body.map Prod.fst,
   body.mapIdx (fun i v => p0 || bad || (p1 && (decide (128 ≤ i) || v.2))),
   bad⟩

/-- The checks of R43 on line k of a plain block. -/
def plainMalformed (f k : Nat) (l : Line) : Bool :=
  l.tagByte 3 / 16 != f || l.tagByte 3 % 4 != 0 || l.tagByte 0 != k ||
  l.tagByte 1 != 0 || l.tagByte 2 != 0 || (l.tag.toNat >>> 32) % 2 ^ 80 != 0

/-- Decoding of a BF16, FP16 or FP32 block (R32, R42, R43). -/
def decodePlain (f : Nat) (lines : List Line) : DBlock :=
  let per := 256 / fmtLines f
  let bad := (List.range (fmtLines f)).any (fun k =>
    let l := lines.getD k ⟨0, 0, false⟩
    !l.poison && plainMalformed f k l)
  ⟨(List.range 256).map (fun i =>
     let l := lines.getD (i / per) ⟨0, 0, false⟩
     (plainFp f).decode (if f = 2 then l.word (i % per) else l.half (i % per))),
   (List.range 256).map (fun i => bad || (lines.getD (i / per) ⟨0, 0, false⟩).poison),
   bad⟩

/-- Decoding of a block under the format that the operation names (R43). -/
def decodeBlock (f : Nat) (lines : List Line) : DBlock :=
  if isPlainFmt f then decodePlain f lines else decodeCoded f lines

/-- Element (c, r) of a transposed read is stored element (r, c) (R29). -/
def transposeIdx (i : Nat) : Nat := 16 * (i % 16) + i / 16

def transposed {α : Type} (d : α) (xs : List α) : List α :=
  (List.range 256).map (fun i => xs.getD (transposeIdx i) d)

def DBlock.transpose (b : DBlock) : DBlock :=
  ⟨transposed .nan b.vals, transposed false b.poison, b.malformed⟩

/-- Line k of a fill block of a format (R153): zero body; an all-zero block's tag, a plain tag, or a raw tag. -/
def fillLine (f k : Nat) (poison : Bool) : Line :=
  if isPlainFmt f then mkLine 0 (k % fmtLines f + (f * 16) <<< 24) poison
  else if isV8 f ∧ k % 2 = 1 then mkLine 0 0 poison
  else mkLine 0 ((f * 16) <<< 24) poison

end Sys2Proof.Machine
end

