-- ==== Sys2Proof/Machine/Convert.lean ====
section
/-! DEFINITION. The format converters' encoding (R61-R81): the random source, escapes, exponents, zero points, codes and
the decided cases, with the counts each block gives to its converter and its health record. -/

namespace Sys2Proof.Machine

/-! ## The random source (R72) -/

def mix64 (z0 : Nat) : Nat :=
  let z1 := ((z0 ^^^ (z0 >>> 30)) * 0xBF58476D1CE4E5B9) % 2 ^ 64
  let z2 := ((z1 ^^^ (z1 >>> 27)) * 0x94D049BB133111EB) % 2 ^ 64
  z2 ^^^ (z2 >>> 31)

/-- The keys of a block's random bits (R62): job seed, step number, tensor identifier and block coordinates. -/
structure DrawKey where
  seed   : Nat
  step   : Nat
  tensor : Nat
  bi     : Nat
  bj     : Nat
  deriving DecidableEq, Repr

/-- The 16-bit draw of element i. -/
def DrawKey.draw (k : DrawKey) (i : Nat) : Nat :=
  let h0 := mix64 (k.seed % 2 ^ 64)
  let h1 := mix64 (h0 ^^^ (k.step % 2 ^ 64))
  let h2 := mix64 (h1 ^^^ (((k.tensor <<< 32) ||| k.bi) % 2 ^ 64))
  let h3 := mix64 (h2 ^^^ (((k.bj <<< 8) ||| (i / 4)) % 2 ^ 64))
  (h3 >>> (16 * (i % 4))) % 65536

/-! ## Counts -/

/-- What one block adds to its converter's counters (R81) and to its health record (R82). -/
structure XoCounts where
  sat      : Nat := 0
  flush    : Nat := 0
  esc      : Nat := 0
  ovf      : Nat := 0
  nonfin   : Nat := 0
  zero     : Nat := 0
  elements : Nat := 0
  lossy    : Nat := 0
  poison   : Nat := 0
  seen     : Nat := 0
  absmax   : Word := 0
  deriving DecidableEq, Repr

/-- Counts of two blocks together: sums, the union of SEEN and the larger ABSMAX (R82). -/
def XoCounts.add (a b : XoCounts) : XoCounts :=
  ⟨a.sat + b.sat, a.flush + b.flush, a.esc + b.esc, a.ovf + b.ovf, a.nonfin + b.nonfin, a.zero + b.zero,
   a.elements + b.elements, a.lossy + b.lossy, a.poison + b.poison, a.seen ||| b.seen, max32 a.absmax b.absmax⟩

/-! ## Block encoding -/

/-- An element of a block with its canonical index. -/
structure Elt where
  i : Nat
  d : Dy
  deriving DecidableEq, Repr

/-- a before b in decreasing magnitude; of equal magnitudes the lower index first (R79). -/
def Elt.before (a b : Elt) : Bool := b.d.abs.lt a.d.abs || (b.d.abs.eqv a.d.abs && decide (a.i ≤ b.i))

def insertElt (x : Elt) : List Elt → List Elt
  | [] => [x]
  | y :: r => if x.before y then x :: y :: r else y :: insertElt x r

/-- Elements in decreasing magnitude. -/
def sortElts : List Elt → List Elt
  | [] => []
  | x :: r => insertElt x (sortElts r)

/-- The candidate count of a quadrant's magnitudes in decreasing order (R67): the largest j in 1-5 with a gap. -/
def candCount (gap : Nat) (es : List Elt) : Nat :=
  if gap = 0 then 0
  else ((List.range 5).map (· + 1)).foldl (fun best j =>
    match es[j - 1]?, es[j]? with
    | some a, some b => if a.d.log2 - b.d.log2 ≥ (gap : Int) then j else best
    | _, _ => best) 0

/-- The escape candidates of a block (R67). -/
def candidates (gap : Nat) (fin : List Elt) : List Elt :=
  (List.range 4).flatMap (fun q =>
    let es := sortElts (fin.filter (fun e => quadOf e.i == q && !e.d.isZero))
    es.take (candCount gap es))

/-- The smallest s with |x| at most M * 2^s (R69). -/
def needExp (x m : Dy) : Int :=
  let s := x.log2 - m.log2
  if x.abs.le ⟨false, m.mag, m.exp + s⟩ then s else s + 1

/-- M_f of R69 for a value of a sign: for V4A it depends on ZP (R70). -/
def codeTop (f zp : Nat) (neg : Bool) : Dy :=
  if f == 5 then ⟨false, if neg then zp else 14 - zp, 0⟩ else codeValue f (codeMax f)

/-- ZP of a V4A body (R70). -/
def zeroPoint (body : List Elt) : Nat :=
  let e := body.foldl (fun e x => min e x.d.exp) 0
  let vs := body.map (fun x => x.d.scaled e)
  let lo := vs.foldl min 0
  let hi := vs.foldl max 0
  if hi = lo then 0
  else
    let num := (14 * (-lo)).toNat
    let den := (hi - lo).toNat
    let q := num / den
    let r := num % den
    let z := if 2 * r > den ∨ (2 * r = den ∧ q % 2 = 1) then q + 1 else q
    let z := if lo < 0 then max z 1 else z
    if hi > 0 then min z 13 else z

/-- The exponents of a block (R69): E, the four offsets, and s_max where some quadrant has a non-zero body value. -/
structure BlockExp where
  e    : Nat
  q    : List Nat
  smax : Option Int
  deriving DecidableEq, Repr

def blockExp (f zp : Nat) (body : List Elt) : BlockExp :=
  let nz := body.filter (fun x => !x.d.isZero)
  let need (q : Nat) : Option Int :=
    (nz.filter (fun x => quadOf x.i == q)).foldl (fun acc x =>
      let s := needExp x.d (codeTop f zp x.d.neg)
      match acc with
      | none => some s
      | some a => some (max a s)) none
  let ns := (List.range 4).map need
  match ns.foldl (fun acc n => match acc, n with
      | none, n => n
      | some a, none => some a
      | some a, some b => some (max a b)) none with
  | none => ⟨127, [0, 0, 0, 0], none⟩
  | some sm =>
    let e : Nat := (min 254 (max 1 (sm + 127))).toNat
    ⟨e, ns.map (fun n => match n with
      | none => 0
      | some s => (min 3 (max 0 ((e : Int) - 127 - s))).toNat), some sm⟩

/-- The exponent of element i's quadrant. -/
def BlockExp.at (x : BlockExp) (i : Nat) : Int := (x.e : Int) - 127 - (x.q.getD (quadOf i) 0 : Int)

/-- The rounding mode of element i (R50, R71, R73). -/
def eltMode (d : EncDesc) (k : DrawKey) (i : Nat) : RMode := if d.classGrad then .stoch (k.draw i) else .rne

/-- The code of largest magnitude with a sign (R75, R79); V8P has no sign and its code of a negative value is stated
nowhere: a fixed code that the spec leaves open (log 23). -/
def topCode (f : Nat) (neg : Bool) : Nat :=
  if f == 5 then (if neg then 0 else 14)
  else if f == 10 then (if neg then Config.v8pNegativeTop.toNat % 255 else codeMax f)
  else codeMax f + (if neg then 2 ^ codeMagBits f else 0)

/-- The draw a mode rounds with; 0 for a mode without one. -/
def RMode.drawn : RMode → Nat
  | .stoch r => r
  | _ => 0

/-- The code of a body value at a quadrant exponent and whether it was clamped (R71, R75). The code of a negative value in V8P
is a function of the value, the exponent and the draw that the spec leaves open (R62; log 23). -/
def bodyCode (f zp : Nat) (m : RMode) (s : Int) (d : Dy) : Nat × Bool :=
  if d.isZero then (if f == 5 then zp else 0, false)
  else if f == 5 then
    let n := (d.quant m s).mag
    let top := if d.neg then zp else 14 - zp
    if n > top then (topCode f d.neg, true)
    else (if d.neg then zp - n else zp + n, false)
  else
    let (mb, bias) := codeShape f
    let y : Dy := ⟨false, d.mag, d.exp - s⟩
    let e := max y.log2 (1 - (bias : Int))
    let n := (y.quant m (e - (mb : Int))).mag
    let c := ((e - 1 + (bias : Int)).toNat <<< mb) + n
    if c > codeMax f then (topCode f d.neg, true)
    else if c = 0 then (0, false)
    else if f == 10 ∧ d.neg then ((Config.v8pNegative d.mag d.exp s m.drawn).toNat % 255, false)
    else (c + (if d.neg then 2 ^ codeMagBits f else 0), false)

/-- A body: the values that R69 and R70 see, those clamped whatever their size (R79), and the escaped elements. -/
structure Split where
  body    : List Elt
  clamped : List Elt
  escaped : List Elt
  deriving DecidableEq, Repr

/-- Which finite elements escape when `slots` remain for them, under CLIP (R79). -/
def splitClip (fin cands : List Elt) (slots : Nat) : Split :=
  let s := sortElts cands
  let esc := s.take slots
  let cl := s.drop slots
  ⟨fin.filter (fun x => !cands.any (fun c => c.i == x.i)), cl, esc⟩

/-- The same under WIDEN (R80): candidates of smallest magnitude move to the body. -/
def splitWiden (fin cands : List Elt) (slots : Nat) : Split :=
  let esc := (sortElts cands).take slots
  ⟨fin.filter (fun x => !esc.any (fun c => c.i == x.i)), [], esc⟩

/-- The codes of the non-escaped elements of a split, by canonical index, with whether each clamped. -/
def splitCodes (d : EncDesc) (k : DrawKey) (sp : Split) (zp : Nat) (x : BlockExp) : List (Nat × Nat × Bool) :=
  sp.body.map (fun b =>
    let c := bodyCode d.fmt zp (eltMode d k b.i) (x.at b.i) b.d
    (b.i, c.1, c.2)) ++
  sp.clamped.map (fun b => (b.i, topCode d.fmt b.d.neg, false))

def codeOf (cs : List (Nat × Nat × Bool)) (i : Nat) : Option Nat := (cs.find? (fun c => c.1 == i)).map (fun c => c.2.1)

/-- The lines of a block from its codes, tag fields and outliers (R32-R34). -/
def layBlock (f : Nat) (codes : List Nat) (b0 b1 b2 b3 : Nat) (outs : List Nat) (poison : Bool) : List Line :=
  let out (n : Nat) : Nat := outs.getD n 0
  let slots (from' : Nat) : Nat := (List.range 5).foldl (fun a n => a + out (from' + n) <<< (32 + 16 * n)) 0
  let tag0 := b0 + b1 <<< 8 + b2 <<< 16 + b3 <<< 24 + slots 0
  if isV4 f then [mkLine (ofLE ((List.range 128).map (fun j => codes.getD (2 * j) 0 + 16 * codes.getD (2 * j + 1) 0))) tag0 poison]
  else [mkLine (ofLE (codes.take 128)) tag0 poison, mkLine (ofLE ((codes.drop 128).take 128)) (slots 5) poison]

/-- An all-zero block (R74). -/
def zeroBlock (f : Nat) (flushed poison : Bool) : List Line :=
  layBlock f (List.replicate 256 0) 0 0 0 (f * 16 + (if flushed then 8 else 0)) [] poison

/-- A uniform block of a BF16 value (R41). -/
def uniformBlock (f v : Nat) : List Line := layBlock f (List.replicate 256 0) 255 0 0 (f * 16 + 2) [v] false

/-- Largest finite input magnitude, as FP32 bits (R82). -/
def absMaxOf (vals : List FNum) : Word :=
  vals.foldl (fun m v => match v with
    | .fin d => max32 m (BitVec.ofNat 32 (fp32Exact (.fin d.abs)).bits)
    | _ => m) 0

/-- Steps 5 to 11 of R66 for a block format. Under WIDEN the codes that R80 compares with are those of CLIP's own zero point as well as
its exponents (DESIGN CHOICE, log 125). -/
def encodeOrdinary (d : EncDesc) (k : DrawKey) (vals : List FNum) (base : XoCounts) : List Line × XoCounts :=
  let f := d.fmt
  let idx := vals.mapIdx (fun i v => (i, v))
  let fin : List Elt := idx.filterMap (fun p => match p.2 with
    | .fin x => some ⟨p.1, x⟩
    | _ => none)
  let nonf := idx.filter (fun p => !p.2.finite)
  let slots := fmtSlots f - nonf.length
  let cands := candidates d.escGap fin
  let over' := cands.length - slots
  let sp := if cands.length ≤ slots then splitClip fin cands slots
            else if d.widen then splitWiden fin cands slots else splitClip fin cands slots
  let zp := if f == 5 then zeroPoint sp.body else 0
  let x := blockExp f zp sp.body
  let escs := sp.escaped.length + nonf.length
  let low : Bool := match x.smax with
    | some s => decide (s < -126)
    | none => false
  if escs = 0 ∧ low then (zeroBlock f true false, { base with flush := base.flush + 256, seen := base.seen ||| 4 })
  else
    let cs := splitCodes d k sp zp x
    let lossy :=
      if over' = 0 then false
      else if d.widen then
        let cp := splitClip fin cands slots
        let czp := if f == 5 then zeroPoint cp.body else 0
        let ccs := splitCodes d k cp czp (blockExp f czp cp.body)
        sp.body.any (fun b => codeOf cs b.i != codeOf ccs b.i)
      else true
    let outs : List (Nat × FpOut) := idx.filterMap (fun p => match p.2 with
      | .fin v => if sp.escaped.any (fun e => e.i == p.1) then
          some (p.1, bf16.pack (eltMode d k p.1) true v) else none
      | v => some (p.1, bf16.packNum .rne true v))
    let satN := (cs.filter (fun c => c.2.2)).length + (outs.filter (fun o => o.2.ovf)).length
    let codes := (List.range 256).map (fun i => (codeOf cs i).getD (escCode f))
    let b1 := x.q.getD 0 0 + 4 * x.q.getD 1 0 + 16 * x.q.getD 2 0 + 64 * x.q.getD 3 0
    let b2 := (if lossy then 128 else 0) + 16 * min escs 5 + zp
    let b3 := f * 16 + (if satN > 0 then 4 else 0)
    (layBlock f codes x.e b1 b2 b3 (outs.map (fun o => o.2.bits)) false,
     { base with
       sat := base.sat + satN, esc := base.esc + escs, ovf := base.ovf + over',
       lossy := base.lossy + (if lossy then 1 else 0),
       seen := base.seen ||| (if lossy then 1 else 0) ||| (if satN > 0 then 2 else 0) })

/-- A block in a block format (R66), without poison. -/
def encodeCoded (d : EncDesc) (k : DrawKey) (vals : List FNum) : List Line × XoCounts :=
  let f := d.fmt
  let zeros := (vals.filter FNum.isZero).length
  let nonf := (vals.filter (fun v => !v.finite)).length
  let slots := fmtSlots f
  let base : XoCounts := { zero := zeros, nonfin := nonf, elements := 256, absmax := absMaxOf vals }
  let v0 := vals.headD .nan
  let r0 := bf16.packNum (eltMode d k 0) false v0
  let equal := vals.all (fun v => v.eqv v0 || (v.isNan && v0.isNan))
  if zeros = 256 then (zeroBlock f false false, base)
  else if equal ∧ (¬ v0.finite ∨ (¬ r0.flush ∧ ¬ r0.ovf)) then (uniformBlock f r0.bits, base)
  else if nonf > slots then
    let pos := vals.any (fun v => v == .inf false)
    let neg := vals.any (fun v => v == .inf true)
    let u : FNum := if vals.any FNum.isNan || (pos && neg) then .nan else .inf neg
    (uniformBlock f (bf16.packNum .rne false u).bits, { base with ovf := nonf - slots })
  else encodeOrdinary d k vals base

/-- The lines of a plain block from its elements' bits and each element's flush and clamp (R32, R42). -/
def layPlain (f : Nat) (outs : List FpOut) (poison : Bool) : List Line :=
  let n := fmtLines f
  let per := 256 / n
  let w := if f = 2 then 4 else 2
  (List.range n).map (fun j =>
    let os := (outs.drop (j * per)).take per
    let b3 := f * 16 + (if os.any FpOut.flush then 8 else 0) + (if os.any FpOut.ovf then 4 else 0)
    mkLine (ofLE (os.flatMap (fun o => bytesLE w o.bits))) (j + b3 <<< 24) poison)

/-- A block in a plain format: element by element (R66, R53, R54). FP32 keeps every FP32 value but subnormals. -/
def encodePlain (d : EncDesc) (k : DrawKey) (vals : List FNum) : List Line × XoCounts :=
  let F := plainFp d.fmt
  let outs := vals.mapIdx (fun i v => F.packNum (if d.fmt = 2 then .rne else eltMode d k i) true v)
  let sat := (outs.filter FpOut.ovf).length
  let fl := (outs.filter FpOut.flush).length
  (layPlain d.fmt outs false,
   { sat := sat, flush := fl, nonfin := (vals.filter (fun v => !v.finite)).length,
     zero := (vals.filter FNum.isZero).length, elements := 256, absmax := absMaxOf vals,
     seen := (if sat > 0 then 2 else 0) + (if fl > 0 then 4 else 0) })

/-- The poisoned block of step 1 of R66. -/
def poisonBlock (f : Nat) : List Line × XoCounts :=
  (if isPlainFmt f then layPlain f (List.replicate 256 ⟨0, false, false⟩) true else zeroBlock f false true,
   { elements := 256, poison := 1, seen := 8 })

/-- What a converter writes for a block (R62, R66): a function of the values, the descriptor and the keys alone. -/
def encodeBlock (d : EncDesc) (k : DrawKey) (vals : List FNum) (poison : Bool) : List Line × XoCounts :=
  if poison then poisonBlock d.fmt
  else if isPlainFmt d.fmt then encodePlain d k vals
  else encodeCoded d k vals

end Sys2Proof.Machine
end

