-- ==== Sys2Proof/Machine/Regs.lean ====
section
/-! DEFINITION. The device's registers: one constructor of `Fld` for every field of every register the spec's field
tables give (R4), with its place, its access code and its reset value, and the table of registers by name that REG_READ
and REG_WRITE use (R458, R459). Bits that no field covers are reserved: they have no home and read as zero (R5). -/

namespace Sys2Proof.Machine

/-- The register fields, in the order of the spec's chapters. -/
inductive Fld where
  | XO_OP_COUNT
  | TRK_CTL_EVENT_MASK | TRK_CTL_TRACKERS
  | ARR_STATUS_BUSY | ARR_STATUS_STALLED | ARR_STATUS_ACC_BANK | ARR_STATUS_CHK_FAIL | ARR_STATUS_FMT_A | ARR_STATUS_FMT_B | ARR_STATUS_FMT_C | ARR_STATUS_SWEEPS | ARR_STATUS_TILE_IDX
  | ARR_BUSY_CLK
  | ARR_STALL_CLK
  | ARR_POISON_OUT
  | ARR_CHK_MISMATCH
  | ARR_CHK_LAST_VALID | ARR_CHK_LAST_IS_ROW | ARR_CHK_LAST_INDEX | ARR_CHK_LAST_TILE_IDX | ARR_CHK_LAST_OP_SEQ
  | VEC_STATUS_BUSY | VEC_STATUS_SFU_BUSY | VEC_STATUS_TOPK_BUSY | VEC_STATUS_WIDE_INF | VEC_STATUS_OP_SEQ
  | VEC_NONFINITE_IN
  | VEC_NONFINITE_OUT
  | VEC_DOMAIN
  | VEC_FLUSH_OUT
  | TSQ_STATUS_RUN | TSQ_STATUS_FAULT_MODE | TSQ_STATUS_IN_GATE | TSQ_STATUS_IN_IDLE | TSQ_STATUS_STALL | TSQ_STATUS_PC
  | TSQ_FAULT_VALID | TSQ_FAULT_CODE | TSQ_FAULT_SLOT | TSQ_FAULT_PC
  | TSQ_FAULT_PREV_VALID | TSQ_FAULT_PREV_CODE | TSQ_FAULT_PREV_SLOT | TSQ_FAULT_PREV_PC
  | TSQ_WAIT_LIMIT
  | STEP_PARAM
  | TSQ_LAYOUT_ENC_LINE | TSQ_LAYOUT_MVD_LINE | TSQ_LAYOUT_OPD_LINE
  | VNARROW
  | TSQ_ISSUE
  | TSQ_STALL_CLK
  | SYNC
  | SYNC_NEXT
  | ARR_DONE
  | MOV_LINES
  | MOV_CHECK_FAIL
  | MOV_INDEX_ERR
  | MOV_STATUS_BUSY | MOV_STATUS_OFF_ERR | MOV_STATUS_WAKING | MOV_STATUS_DEPTH | MOV_STATUS_MVD
  | TB_CTL_ENABLE | TB_CTL_ROOT | TB_CTL_UP_PILE | TB_CTL_UP_PORT
  | TB_STATUS_LOCKED | TB_STATUS_ALIGNED | TB_STATUS_HOLDOVER | TB_STATUS_LOSS_COUNT
  | TB_SLOT
  | TB_STEP
  | GATE_CTL_REPLAY_LIMIT | GATE_CTL_TIMEOUT
  | GATE_STATUS_STATE | GATE_STATUS_HEAD_PHASE | GATE_STATUS_FINISH_PHASE | GATE_STATUS_ATTEMPT | GATE_STATUS_PHASE
  | VERDICT_LAST_STEP | VERDICT_LAST_CODE | VERDICT_LAST_CAUSE
  | SLIP_COUNT
  | SLIP_MAX
  | GATE_WAIT
  | XFER_HAZARD
  | GATE_TAG_ERR
  | REPLAY_COUNT
  | SKIP_COUNT
  | SW_CTL_CHECK_MODE | SW_CTL_UNSCHED_EN | SW_CTL_UR_TIMEOUT
  | SW_STATUS_MODE | SW_STATUS_STAND_IN | SW_STATUS_GATE_HELD | SW_STATUS_PAGE
  | PAGE_DIR_CYCLE | PAGE_DIR_COUNT | PAGE_DIR_FIRST
  | SLOT_TABLE
  | UR_PORT_VALID | UR_PORT_PILE | UR_PORT_PORT
  | SW_DR_LOG_VALID | SW_DR_LOG_WAY | SW_DR_LOG_PHASE | SW_DR_LOG_SLOT
  | SW_FWD
  | SW_MISSING
  | SW_ORPHAN
  | SW_PARITY_ERR
  | SW_CHECK_FAIL
  | SW_INDEX_ERR
  | SW_DR_STANDIN
  | SW_DR_DROP
  | SW_DR_RX
  | SW_UNSCHED_TX
  | SW_UNSCHED_RX
  | SW_UNSCHED_RETRY
  | DIG_CUR
  | DIG_DISC
  | DIG_DISC_STEP
  | DIG_HIST
  | DIG_HIST_STEP_REPLAYS | DIG_HIST_STEP_STEP
  | LNK_CTL_ENABLE | LNK_CTL_NEAR_LOOP | LNK_CTL_CE_LIMIT
  | LNK_STATUS_STATE | LNK_STATUS_TX_SPARE_ON | LNK_STATUS_TX_SPARE_FOR | LNK_STATUS_RX_SPARE_ON | LNK_STATUS_RX_SPARE_FOR | LNK_STATUS_SWAP_PENDING | LNK_STATUS_POL_INV | LNK_STATUS_LAT_MEAS | LNK_STATUS_LAT_PAD
  | BRG_STATUS_STATE | BRG_STATUS_MIN_SPARES | BRG_STATUS_WORST_GROUP
  | LNK_BLOCKS
  | LNK_CE_BYTES
  | LNK_UE_BLOCKS
  | LNK_FCRC_ERR
  | LNK_REALIGN
  | LNK_LANE_CE
  | LNK_LANE_UE
  | LNK_SWAPS
  | BRG_CRC_ERR
  | BRG_CRC_TOTAL
  | BRG_REPAIRS
  | XD_CTL_DROP_LIMIT | XD_CTL_LAYERS
  | RED_STATUS_BUSY | RED_STATUS_SEALED | RED_STATUS_FUSED_VALID | RED_STATUS_REC_SEALED | RED_STATUS_HEALTH_LOCAL
  | FUSED_RESULT
  | SKIP_LAST_STEP | SKIP_LAST_ORIGIN
  | RED_CONTRIB
  | RED_OOR
  | RED_POISON_BKT
  | RED_PKT_INVALID
  | RED_SENT
  | UPD_STATUS_BUSY | UPD_STATUS_PASS | UPD_STATUS_SUPPRESSED | UPD_STATUS_VER_SEL | UPD_STATUS_LAYER
  | UPD_KAPPA
  | SHARD_MISMATCH_LAST_VALID | SHARD_MISMATCH_LAST_BACKWARD | SHARD_MISMATCH_LAST_TRANSIT | SHARD_MISMATCH_LAST_SHARD_ID | SHARD_MISMATCH_LAST_STEP
  | UPD_P1_ELEM
  | UPD_P2_ELEM
  | UPD_SUPPRESS
  | UPD_CLIPPED
  | SHARD_GATHERS
  | SHARD_CHECK_FAIL
  | GROOM_CTL_ENABLE | GROOM_CTL_TARGETED | GROOM_CTL_PERIOD_MIN
  | GROOM_STATUS_PASSES | GROOM_STATUS_BEHIND | GROOM_STATUS_NEXT_LINE
  | MEM_BUCKET_CTL_LEAK_S | MEM_BUCKET_CTL_DEPTH
  | MEM_BUCKET
  | MEM_STATUS_TESTED | MEM_STATUS_FILL_BUSY | MEM_STATUS_HOT | MEM_STATUS_OVER_TEMP | MEM_STATUS_MOVE_PENDING | MEM_STATUS_TEMP
  | MEM_SPARE_MOVED | MEM_SPARE_MIN_LEFT
  | MEM_CE_LOG_VALID | MEM_CE_LOG_GROOMED | MEM_CE_LOG_RECUR | MEM_CE_LOG_BYTES | MEM_CE_LOG_TSV | MEM_CE_LOG_LINE
  | MEM_UE_LOG_STEP | MEM_UE_LOG_VALID | MEM_UE_LOG_GROOMER | MEM_UE_LOG_QUEUED | MEM_UE_LOG_LINE
  | MEM_INJECT_ARMED | MEM_INJECT_COUNT | MEM_INJECT_FIRST | MEM_INJECT_XOR | MEM_INJECT_LINE
  | MEM_POISON_MASK
  | MEM_READS
  | MEM_CE_LINES
  | MEM_CE_BYTES
  | MEM_UE
  | MEM_UE_TOTAL
  | MEM_POISON_READ
  | MEM_UNWRITTEN_READ
  | MEM_POISON_WRITE
  | MEM_BUCKET_OVF
  | MEM_ROW_MOVES
  | GROOM_CE
  | GROOM_UE
  | CHK_CTL_SENTINEL_EN | CHK_CTL_DUAL_EN | CHK_CTL_BLOCK_CHECK | CHK_CTL_REPLAY_CHECK | CHK_CTL_AUTO_SPARE | CHK_CTL_TRANSIENT_LIMIT | CHK_CTL_TRANSIENT_WINDOW
  | FLT_STATUS_MAP | FLT_STATUS_SPARE_TILES | FLT_STATUS_SUBST_PENDING | FLT_STATUS_ARBITRATING | FLT_STATUS_BLOCK_CHECKING | FLT_STATUS_QUEUED_TILE
  | FLT_TILE_RETIRED | FLT_TILE_PERMANENT | FLT_TILE_MARGINAL | FLT_TILE_TRANSIENTS | FLT_TILE_PF_INDEX
  | ARR_CHK_PREV_VALID | ARR_CHK_PREV_IS_ROW | ARR_CHK_PREV_INDEX | ARR_CHK_PREV_TILE_IDX | ARR_CHK_PREV_OP_SEQ
  | ARR_CHK_DIG_D_A | ARR_CHK_DIG_D_B
  | DUAL_LAST_DIG_A | DUAL_LAST_DIG_B | DUAL_LAST_PHASE | DUAL_LAST_PAIR | DUAL_LAST_SEQ | DUAL_LAST_VALID
  | AGE_CTL_ENABLE | AGE_CTL_THRESH_MONTHS
  | AGE_EOL_VALID | AGE_EOL_QUEUED | AGE_EOL_HISTORY_LOST | AGE_EOL_SAMPLES | AGE_EOL_MONTHS
  | CHK_BLOCK_FAIL
  | RUE_CHECK_FAIL
  | DUAL_COMPARE
  | DUAL_MISMATCH
  | FLT_TRANSIENT
  | FLT_PERMANENT
  | FLT_SUBST
  | HP_CTL_ENABLE | HP_CTL_SPEED | HP_CTL_MEDIA | HP_CTL_PFC_EN | HP_CTL_PFC_PRIO | HP_CTL_PCP | HP_CTL_VID
  | HP_STATUS_STATE | HP_STATUS_RATE | HP_STATUS_MEDIA | HP_STATUS_PFC_XOFF | HP_STATUS_LANES_UP
  | LIFT_CTL_UDP_PORT | LIFT_CTL_IDLE_S | LIFT_CTL_RETAIN_S
  | LIFT_STATUS_SESSIONS | LIFT_STATUS_EVENTS_HELD | LIFT_STATUS_BOOT_ROM | LIFT_STATUS_EVT_QUEUED | LIFT_STATUS_WINDOW_FREE
  | HP_RX_FRAMES
  | HP_TX_FRAMES
  | HP_FEC_CORR
  | HP_FEC_UNCORR
  | HP_FCS_ERR
  | HP_RX_OVERSIZE
  | HP_RX_DISCARD
  | LIFT_MAC_FAIL
  | LIFT_RETX
  | LIFT_DUP
  | LIFT_CREDIT_VIOL
  | LIFT_MB_REFUSED
  | LIFT_SESSION_FAIL
  | EVT_LOST
  | BULK_CHECK_FAIL
  | JOB_STATE_STATE | JOB_STATE_WATCHDOG | JOB_STATE_ABORT_PILES
  | BR_STATUS_STAGE | BR_STATUS_WAX_AUTH | BR_STATUS_WAX_VALID | BR_STATUS_RELAYED | BR_STATUS_DISCREP | BR_STATUS_UNUSABLE
  | BR_TIME
  | FUSE_STATUS_FIELD_USED | FUSE_STATUS_PROPOSED
  | PWR_STATE_STATE | PWR_STATE_ENTERING | PWR_STATE_WAKING | PWR_STATE_PAD_HELD | PWR_STATE_LATCHED
  | PAD_RELEASE
  | PWR_PLAN_OVR
  | GOV_CTL_RESERVE | GOV_CTL_SLEW
  | GOV_STAGGER
  | GOV_STATUS_CURRENT | GOV_STATUS_FILLER | GOV_STATUS_FLOOR | GOV_STATUS_HOLDING
  | THERM_CTL
  | THERM_STATUS_ALERT_ON | THERM_STATUS_HOT_ABORT | THERM_STATUS_TRIPPED | THERM_STATUS_TEMP
  | WAKE_CTL_PIN_EN | WAKE_CTL_DETECT_EN
  | WAKE_LATCH_PIN | WAKE_LATCH_DETECT | WAKE_LATCH_REPLAYED
  | PMB_CTL_ENABLE | PMB_CTL_FAST | PMB_CTL_PERIOD_MS
  | PMB_MAP_VALID | PMB_MAP_ADDR | PMB_MAP_PAGE | PMB_MAP_RAIL
  | PMB_RAIL_STATUS | PMB_RAIL_TEMP | PMB_RAIL_IOUT | PMB_RAIL_VOUT
  | PMB_FAULT_RAILS | PMB_FAULT_BITS
  | GOV_SLEW_VIOL
  | PWR_DEMAND_WAKES
  | PWR_PLAN_IGN
  | SEC_STATUS_SV_FUSED | SEC_STATUS_SV_BUNDLE | SEC_STATUS_BUNDLE_OK | SEC_STATUS_OWNER_FUSED | SEC_STATUS_HOST_FUSED | SEC_STATUS_CLAIM_PARTIAL | SEC_STATUS_BURNING | SEC_STATUS_DEBUG_SCOPE
  | PIN_STATUS_PWR_GOOD | PIN_STATUS_RESET_N | PIN_STATUS_WAKE | PIN_STATUS_UV_TRIP | PIN_STATUS_UV_RAIL | PIN_STATUS_XTAL_OK | PIN_STATUS_FREF_OK | PIN_STATUS_HREF_OK
  deriving DecidableEq, Repr

/-- Access codes (R4). -/
inductive Acc where
  | ro | rw | w1c | wo | rwg | rws
  deriving DecidableEq, Repr

/-- Whether a register stands once per device, per pile or per physical tile (R458). `tilePile` is XO_OP_COUNT, whose
rows 0-4 are a tile's and row 5 a pile's (R81). -/
inductive Scope where
  | device | pile | tile | tilePile
  deriving DecidableEq, Repr

/-- A field's place, access code, reset value, and the bounds the spec states for a write (none: every value). -/
structure FSpec where
  hi    : Nat
  lo    : Nat
  acc   : Acc
  reset : Nat
  range : Option (Nat × Nat) := none
  deriving DecidableEq, Repr

/-- The field tables of the chapters (R4). -/
def Fld.spec : Fld → FSpec
  | .XO_OP_COUNT => ⟨31, 0, .ro, 0, none⟩
  | .TRK_CTL_EVENT_MASK => ⟨21, 16, .rws, 56, none⟩
  | .TRK_CTL_TRACKERS => ⟨11, 0, .ro, 0, none⟩
  | .ARR_STATUS_BUSY => ⟨63, 63, .ro, 0, none⟩
  | .ARR_STATUS_STALLED => ⟨62, 62, .ro, 0, none⟩
  | .ARR_STATUS_ACC_BANK => ⟨61, 61, .ro, 0, none⟩
  | .ARR_STATUS_CHK_FAIL => ⟨60, 60, .ro, 0, none⟩
  | .ARR_STATUS_FMT_A => ⟨59, 56, .ro, 0, none⟩
  | .ARR_STATUS_FMT_B => ⟨55, 52, .ro, 0, none⟩
  | .ARR_STATUS_FMT_C => ⟨51, 48, .ro, 0, none⟩
  | .ARR_STATUS_SWEEPS => ⟨47, 44, .ro, 0, none⟩
  | .ARR_STATUS_TILE_IDX => ⟨18, 0, .ro, 0, none⟩
  | .ARR_BUSY_CLK => ⟨63, 0, .ro, 0, none⟩
  | .ARR_STALL_CLK => ⟨63, 0, .ro, 0, none⟩
  | .ARR_POISON_OUT => ⟨31, 0, .ro, 0, none⟩
  | .ARR_CHK_MISMATCH => ⟨31, 0, .ro, 0, none⟩
  | .ARR_CHK_LAST_VALID => ⟨63, 63, .ro, 0, none⟩
  | .ARR_CHK_LAST_IS_ROW => ⟨62, 62, .ro, 0, none⟩
  | .ARR_CHK_LAST_INDEX => ⟨61, 55, .ro, 0, none⟩
  | .ARR_CHK_LAST_TILE_IDX => ⟨47, 29, .ro, 0, none⟩
  | .ARR_CHK_LAST_OP_SEQ => ⟨15, 0, .ro, 0, none⟩
  | .VEC_STATUS_BUSY => ⟨31, 31, .ro, 0, none⟩
  | .VEC_STATUS_SFU_BUSY => ⟨30, 30, .ro, 0, none⟩
  | .VEC_STATUS_TOPK_BUSY => ⟨29, 29, .ro, 0, none⟩
  | .VEC_STATUS_WIDE_INF => ⟨28, 28, .ro, 0, none⟩
  | .VEC_STATUS_OP_SEQ => ⟨15, 0, .ro, 0, none⟩
  | .VEC_NONFINITE_IN => ⟨31, 0, .ro, 0, none⟩
  | .VEC_NONFINITE_OUT => ⟨31, 0, .ro, 0, none⟩
  | .VEC_DOMAIN => ⟨31, 0, .ro, 0, none⟩
  | .VEC_FLUSH_OUT => ⟨31, 0, .ro, 0, none⟩
  | .TSQ_STATUS_RUN => ⟨31, 31, .ro, 0, none⟩
  | .TSQ_STATUS_FAULT_MODE => ⟨30, 30, .ro, 0, none⟩
  | .TSQ_STATUS_IN_GATE => ⟨29, 29, .ro, 0, none⟩
  | .TSQ_STATUS_IN_IDLE => ⟨28, 28, .ro, 0, none⟩
  | .TSQ_STATUS_STALL => ⟨27, 24, .ro, 0, none⟩
  | .TSQ_STATUS_PC => ⟨12, 0, .ro, 0, none⟩
  | .TSQ_FAULT_VALID => ⟨31, 31, .ro, 0, none⟩
  | .TSQ_FAULT_CODE => ⟨30, 26, .ro, 0, none⟩
  | .TSQ_FAULT_SLOT => ⟨25, 24, .ro, 0, none⟩
  | .TSQ_FAULT_PC => ⟨12, 0, .ro, 0, none⟩
  | .TSQ_FAULT_PREV_VALID => ⟨31, 31, .ro, 0, none⟩
  | .TSQ_FAULT_PREV_CODE => ⟨30, 26, .ro, 0, none⟩
  | .TSQ_FAULT_PREV_SLOT => ⟨25, 24, .ro, 0, none⟩
  | .TSQ_FAULT_PREV_PC => ⟨12, 0, .ro, 0, none⟩
  | .TSQ_WAIT_LIMIT => ⟨31, 0, .rws, 1048576, none⟩
  | .STEP_PARAM => ⟨31, 0, .rws, 0, none⟩
  | .TSQ_LAYOUT_ENC_LINE => ⟨42, 32, .ro, 0, none⟩
  | .TSQ_LAYOUT_MVD_LINE => ⟨26, 16, .ro, 0, none⟩
  | .TSQ_LAYOUT_OPD_LINE => ⟨10, 0, .ro, 0, none⟩
  | .VNARROW => ⟨31, 0, .ro, 0, none⟩
  | .TSQ_ISSUE => ⟨63, 0, .ro, 0, none⟩
  | .TSQ_STALL_CLK => ⟨63, 0, .ro, 0, none⟩
  | .SYNC => ⟨31, 0, .ro, 0, none⟩
  | .SYNC_NEXT => ⟨31, 0, .ro, 0, none⟩
  | .ARR_DONE => ⟨31, 0, .ro, 0, none⟩
  | .MOV_LINES => ⟨63, 0, .ro, 0, none⟩
  | .MOV_CHECK_FAIL => ⟨31, 0, .ro, 0, none⟩
  | .MOV_INDEX_ERR => ⟨31, 0, .ro, 0, none⟩
  | .MOV_STATUS_BUSY => ⟨31, 31, .ro, 0, none⟩
  | .MOV_STATUS_OFF_ERR => ⟨30, 30, .ro, 0, none⟩
  | .MOV_STATUS_WAKING => ⟨29, 29, .ro, 0, none⟩
  | .MOV_STATUS_DEPTH => ⟨16, 12, .ro, 0, none⟩
  | .MOV_STATUS_MVD => ⟨11, 0, .ro, 0, none⟩
  | .TB_CTL_ENABLE => ⟨31, 31, .rw, 0, none⟩
  | .TB_CTL_ROOT => ⟨30, 30, .rw, 0, none⟩
  | .TB_CTL_UP_PILE => ⟨23, 20, .rw, 0, none⟩
  | .TB_CTL_UP_PORT => ⟨19, 19, .rw, 0, none⟩
  | .TB_STATUS_LOCKED => ⟨31, 31, .ro, 0, none⟩
  | .TB_STATUS_ALIGNED => ⟨30, 30, .ro, 0, none⟩
  | .TB_STATUS_HOLDOVER => ⟨29, 29, .ro, 0, none⟩
  | .TB_STATUS_LOSS_COUNT => ⟨15, 0, .ro, 0, none⟩
  | .TB_SLOT => ⟨63, 0, .ro, 0, none⟩
  | .TB_STEP => ⟨63, 0, .ro, 0, none⟩
  | .GATE_CTL_REPLAY_LIMIT => ⟨31, 24, .rws, 3, none⟩
  | .GATE_CTL_TIMEOUT => ⟨23, 0, .rwg, 16384, none⟩
  | .GATE_STATUS_STATE => ⟨31, 30, .ro, 0, none⟩
  | .GATE_STATUS_HEAD_PHASE => ⟨29, 29, .ro, 0, none⟩
  | .GATE_STATUS_FINISH_PHASE => ⟨28, 28, .ro, 0, none⟩
  | .GATE_STATUS_ATTEMPT => ⟨27, 20, .ro, 0, none⟩
  | .GATE_STATUS_PHASE => ⟨15, 0, .ro, 0, none⟩
  | .VERDICT_LAST_STEP => ⟨95, 32, .ro, 0, none⟩
  | .VERDICT_LAST_CODE => ⟨31, 24, .ro, 0, none⟩
  | .VERDICT_LAST_CAUSE => ⟨15, 0, .ro, 0, none⟩
  | .SLIP_COUNT => ⟨31, 0, .ro, 0, none⟩
  | .SLIP_MAX => ⟨31, 0, .ro, 0, none⟩
  | .GATE_WAIT => ⟨63, 0, .ro, 0, none⟩
  | .XFER_HAZARD => ⟨31, 0, .ro, 0, none⟩
  | .GATE_TAG_ERR => ⟨31, 0, .ro, 0, none⟩
  | .REPLAY_COUNT => ⟨31, 0, .ro, 0, none⟩
  | .SKIP_COUNT => ⟨31, 0, .ro, 0, none⟩
  | .SW_CTL_CHECK_MODE => ⟨31, 31, .rwg, 0, none⟩
  | .SW_CTL_UNSCHED_EN => ⟨30, 30, .rw, 1, none⟩
  | .SW_CTL_UR_TIMEOUT => ⟨23, 16, .rw, 16, none⟩
  | .SW_STATUS_MODE => ⟨31, 30, .ro, 0, none⟩
  | .SW_STATUS_STAND_IN => ⟨29, 29, .ro, 0, none⟩
  | .SW_STATUS_GATE_HELD => ⟨28, 28, .ro, 0, none⟩
  | .SW_STATUS_PAGE => ⟨19, 16, .ro, 0, none⟩
  | .PAGE_DIR_CYCLE => ⟨46, 36, .ro, 0, none⟩
  | .PAGE_DIR_COUNT => ⟨35, 18, .ro, 0, none⟩
  | .PAGE_DIR_FIRST => ⟨16, 0, .ro, 0, none⟩
  | .SLOT_TABLE => ⟨31, 0, .ro, 0, none⟩
  | .UR_PORT_VALID => ⟨7, 7, .rw, 0, none⟩
  | .UR_PORT_PILE => ⟨4, 1, .rw, 0, none⟩
  | .UR_PORT_PORT => ⟨0, 0, .rw, 0, none⟩
  | .SW_DR_LOG_VALID => ⟨63, 63, .ro, 0, none⟩
  | .SW_DR_LOG_WAY => ⟨55, 48, .ro, 0, none⟩
  | .SW_DR_LOG_PHASE => ⟨47, 32, .ro, 0, none⟩
  | .SW_DR_LOG_SLOT => ⟨31, 0, .ro, 0, none⟩
  | .SW_FWD => ⟨63, 0, .ro, 0, none⟩
  | .SW_MISSING => ⟨31, 0, .ro, 0, none⟩
  | .SW_ORPHAN => ⟨31, 0, .ro, 0, none⟩
  | .SW_PARITY_ERR => ⟨31, 0, .ro, 0, none⟩
  | .SW_CHECK_FAIL => ⟨31, 0, .ro, 0, none⟩
  | .SW_INDEX_ERR => ⟨31, 0, .ro, 0, none⟩
  | .SW_DR_STANDIN => ⟨31, 0, .ro, 0, none⟩
  | .SW_DR_DROP => ⟨31, 0, .ro, 0, none⟩
  | .SW_DR_RX => ⟨31, 0, .ro, 0, none⟩
  | .SW_UNSCHED_TX => ⟨63, 0, .ro, 0, none⟩
  | .SW_UNSCHED_RX => ⟨63, 0, .ro, 0, none⟩
  | .SW_UNSCHED_RETRY => ⟨31, 0, .ro, 0, none⟩
  | .DIG_CUR => ⟨63, 0, .ro, 0, none⟩
  | .DIG_DISC => ⟨63, 0, .ro, 0, none⟩
  | .DIG_DISC_STEP => ⟨63, 0, .ro, 0, none⟩
  | .DIG_HIST => ⟨63, 0, .ro, 0, none⟩
  | .DIG_HIST_STEP_REPLAYS => ⟨63, 56, .ro, 0, none⟩
  | .DIG_HIST_STEP_STEP => ⟨55, 0, .ro, 0, none⟩
  | .LNK_CTL_ENABLE => ⟨31, 31, .rw, 1, none⟩
  | .LNK_CTL_NEAR_LOOP => ⟨30, 30, .rw, 0, none⟩
  | .LNK_CTL_CE_LIMIT => ⟨20, 16, .rws, 20, none⟩
  | .LNK_STATUS_STATE => ⟨31, 28, .ro, 0, none⟩
  | .LNK_STATUS_TX_SPARE_ON => ⟨27, 27, .ro, 0, none⟩
  | .LNK_STATUS_TX_SPARE_FOR => ⟨26, 24, .ro, 0, none⟩
  | .LNK_STATUS_RX_SPARE_ON => ⟨23, 23, .ro, 0, none⟩
  | .LNK_STATUS_RX_SPARE_FOR => ⟨22, 20, .ro, 0, none⟩
  | .LNK_STATUS_SWAP_PENDING => ⟨19, 19, .ro, 0, none⟩
  | .LNK_STATUS_POL_INV => ⟨18, 18, .ro, 0, none⟩
  | .LNK_STATUS_LAT_MEAS => ⟨15, 8, .ro, 0, none⟩
  | .LNK_STATUS_LAT_PAD => ⟨7, 0, .ro, 0, none⟩
  | .BRG_STATUS_STATE => ⟨31, 28, .ro, 0, none⟩
  | .BRG_STATUS_MIN_SPARES => ⟨15, 8, .ro, 0, none⟩
  | .BRG_STATUS_WORST_GROUP => ⟨4, 0, .ro, 0, none⟩
  | .LNK_BLOCKS => ⟨63, 0, .ro, 0, none⟩
  | .LNK_CE_BYTES => ⟨63, 0, .ro, 0, none⟩
  | .LNK_UE_BLOCKS => ⟨31, 0, .ro, 0, none⟩
  | .LNK_FCRC_ERR => ⟨31, 0, .ro, 0, none⟩
  | .LNK_REALIGN => ⟨31, 0, .ro, 0, none⟩
  | .LNK_LANE_CE => ⟨31, 0, .ro, 0, none⟩
  | .LNK_LANE_UE => ⟨31, 0, .ro, 0, none⟩
  | .LNK_SWAPS => ⟨31, 0, .ro, 0, none⟩
  | .BRG_CRC_ERR => ⟨31, 0, .ro, 0, none⟩
  | .BRG_CRC_TOTAL => ⟨31, 0, .ro, 0, none⟩
  | .BRG_REPAIRS => ⟨31, 0, .ro, 0, none⟩
  | .XD_CTL_DROP_LIMIT => ⟨31, 16, .rw, 0, none⟩
  | .XD_CTL_LAYERS => ⟨10, 0, .ro, 0, none⟩
  | .RED_STATUS_BUSY => ⟨31, 31, .ro, 0, none⟩
  | .RED_STATUS_SEALED => ⟨30, 30, .ro, 0, none⟩
  | .RED_STATUS_FUSED_VALID => ⟨29, 29, .ro, 0, none⟩
  | .RED_STATUS_REC_SEALED => ⟨28, 28, .ro, 0, none⟩
  | .RED_STATUS_HEALTH_LOCAL => ⟨15, 0, .ro, 0, none⟩
  | .FUSED_RESULT => ⟨1023, 0, .ro, 0, none⟩
  | .SKIP_LAST_STEP => ⟨127, 64, .ro, 0, none⟩
  | .SKIP_LAST_ORIGIN => ⟨63, 0, .ro, 0, none⟩
  | .RED_CONTRIB => ⟨63, 0, .ro, 0, none⟩
  | .RED_OOR => ⟨31, 0, .ro, 0, none⟩
  | .RED_POISON_BKT => ⟨31, 0, .ro, 0, none⟩
  | .RED_PKT_INVALID => ⟨31, 0, .ro, 0, none⟩
  | .RED_SENT => ⟨63, 0, .ro, 0, none⟩
  | .UPD_STATUS_BUSY => ⟨31, 31, .ro, 0, none⟩
  | .UPD_STATUS_PASS => ⟨30, 29, .ro, 0, none⟩
  | .UPD_STATUS_SUPPRESSED => ⟨28, 28, .ro, 0, none⟩
  | .UPD_STATUS_VER_SEL => ⟨27, 27, .ro, 0, none⟩
  | .UPD_STATUS_LAYER => ⟨15, 0, .ro, 0, none⟩
  | .UPD_KAPPA => ⟨31, 0, .ro, 1065353216, none⟩
  | .SHARD_MISMATCH_LAST_VALID => ⟨127, 127, .ro, 0, none⟩
  | .SHARD_MISMATCH_LAST_BACKWARD => ⟨126, 126, .ro, 0, none⟩
  | .SHARD_MISMATCH_LAST_TRANSIT => ⟨125, 125, .ro, 0, none⟩
  | .SHARD_MISMATCH_LAST_SHARD_ID => ⟨95, 64, .ro, 0, none⟩
  | .SHARD_MISMATCH_LAST_STEP => ⟨63, 0, .ro, 0, none⟩
  | .UPD_P1_ELEM => ⟨63, 0, .ro, 0, none⟩
  | .UPD_P2_ELEM => ⟨63, 0, .ro, 0, none⟩
  | .UPD_SUPPRESS => ⟨31, 0, .ro, 0, none⟩
  | .UPD_CLIPPED => ⟨31, 0, .ro, 0, none⟩
  | .SHARD_GATHERS => ⟨63, 0, .ro, 0, none⟩
  | .SHARD_CHECK_FAIL => ⟨31, 0, .ro, 0, none⟩
  | .GROOM_CTL_ENABLE => ⟨31, 31, .rw, 1, none⟩
  | .GROOM_CTL_TARGETED => ⟨30, 30, .rw, 1, none⟩
  | .GROOM_CTL_PERIOD_MIN => ⟨19, 0, .rw, 1440, some (60, 43200)⟩
  | .GROOM_STATUS_PASSES => ⟨63, 32, .ro, 0, none⟩
  | .GROOM_STATUS_BEHIND => ⟨31, 31, .ro, 0, none⟩
  | .GROOM_STATUS_NEXT_LINE => ⟨28, 0, .ro, 0, none⟩
  | .MEM_BUCKET_CTL_LEAK_S => ⟨31, 16, .rw, 10, some (1, 65535)⟩
  | .MEM_BUCKET_CTL_DEPTH => ⟨15, 0, .rw, 256, some (1, 65535)⟩
  | .MEM_BUCKET => ⟨15, 0, .ro, 0, none⟩
  | .MEM_STATUS_TESTED => ⟨31, 31, .ro, 0, none⟩
  | .MEM_STATUS_FILL_BUSY => ⟨30, 30, .ro, 0, none⟩
  | .MEM_STATUS_HOT => ⟨29, 29, .ro, 0, none⟩
  | .MEM_STATUS_OVER_TEMP => ⟨28, 28, .ro, 0, none⟩
  | .MEM_STATUS_MOVE_PENDING => ⟨27, 27, .ro, 0, none⟩
  | .MEM_STATUS_TEMP => ⟨15, 0, .ro, 0, none⟩
  | .MEM_SPARE_MOVED => ⟨31, 16, .ro, 0, none⟩
  | .MEM_SPARE_MIN_LEFT => ⟨9, 0, .ro, 656, none⟩
  | .MEM_CE_LOG_VALID => ⟨63, 63, .ro, 0, none⟩
  | .MEM_CE_LOG_GROOMED => ⟨62, 62, .ro, 0, none⟩
  | .MEM_CE_LOG_RECUR => ⟨61, 61, .ro, 0, none⟩
  | .MEM_CE_LOG_BYTES => ⟨60, 57, .ro, 0, none⟩
  | .MEM_CE_LOG_TSV => ⟨56, 56, .ro, 0, none⟩
  | .MEM_CE_LOG_LINE => ⟨28, 0, .ro, 0, none⟩
  | .MEM_UE_LOG_STEP => ⟨127, 64, .ro, 0, none⟩
  | .MEM_UE_LOG_VALID => ⟨63, 63, .ro, 0, none⟩
  | .MEM_UE_LOG_GROOMER => ⟨62, 62, .ro, 0, none⟩
  | .MEM_UE_LOG_QUEUED => ⟨61, 61, .ro, 0, none⟩
  | .MEM_UE_LOG_LINE => ⟨28, 0, .ro, 0, none⟩
  | .MEM_INJECT_ARMED => ⟨63, 63, .rw, 0, none⟩
  | .MEM_INJECT_COUNT => ⟨62, 58, .rw, 0, some (0, 16)⟩
  | .MEM_INJECT_FIRST => ⟨57, 50, .rw, 0, some (0, 159)⟩
  | .MEM_INJECT_XOR => ⟨49, 42, .rw, 0, none⟩
  | .MEM_INJECT_LINE => ⟨28, 0, .rw, 0, none⟩
  | .MEM_POISON_MASK => ⟨127, 0, .ro, 210306068529402873165736369884012333108, none⟩
  | .MEM_READS => ⟨63, 0, .ro, 0, none⟩
  | .MEM_CE_LINES => ⟨63, 0, .ro, 0, none⟩
  | .MEM_CE_BYTES => ⟨63, 0, .ro, 0, none⟩
  | .MEM_UE => ⟨31, 0, .ro, 0, none⟩
  | .MEM_UE_TOTAL => ⟨31, 0, .ro, 0, none⟩
  | .MEM_POISON_READ => ⟨31, 0, .ro, 0, none⟩
  | .MEM_UNWRITTEN_READ => ⟨31, 0, .ro, 0, none⟩
  | .MEM_POISON_WRITE => ⟨31, 0, .ro, 0, none⟩
  | .MEM_BUCKET_OVF => ⟨31, 0, .ro, 0, none⟩
  | .MEM_ROW_MOVES => ⟨31, 0, .ro, 0, none⟩
  | .GROOM_CE => ⟨63, 0, .ro, 0, none⟩
  | .GROOM_UE => ⟨31, 0, .ro, 0, none⟩
  | .CHK_CTL_SENTINEL_EN => ⟨31, 31, .rws, 1, none⟩
  | .CHK_CTL_DUAL_EN => ⟨30, 30, .rws, 1, none⟩
  | .CHK_CTL_BLOCK_CHECK => ⟨29, 29, .rwg, 0, none⟩
  | .CHK_CTL_REPLAY_CHECK => ⟨28, 28, .rws, 1, none⟩
  | .CHK_CTL_AUTO_SPARE => ⟨27, 27, .rws, 1, none⟩
  | .CHK_CTL_TRANSIENT_LIMIT => ⟨23, 16, .rws, 3, some (1, 255)⟩
  | .CHK_CTL_TRANSIENT_WINDOW => ⟨15, 0, .rws, 1000, some (1, 65535)⟩
  | .FLT_STATUS_MAP => ⟨63, 32, .ro, 1985229328, none⟩
  | .FLT_STATUS_SPARE_TILES => ⟨31, 28, .ro, 1, none⟩
  | .FLT_STATUS_SUBST_PENDING => ⟨27, 27, .ro, 0, none⟩
  | .FLT_STATUS_ARBITRATING => ⟨26, 26, .ro, 0, none⟩
  | .FLT_STATUS_BLOCK_CHECKING => ⟨25, 25, .ro, 0, none⟩
  | .FLT_STATUS_QUEUED_TILE => ⟨19, 16, .ro, 0, none⟩
  | .FLT_TILE_RETIRED => ⟨31, 31, .ro, 0, none⟩
  | .FLT_TILE_PERMANENT => ⟨30, 30, .ro, 0, none⟩
  | .FLT_TILE_MARGINAL => ⟨29, 29, .ro, 0, none⟩
  | .FLT_TILE_TRANSIENTS => ⟨15, 8, .ro, 0, none⟩
  | .FLT_TILE_PF_INDEX => ⟨7, 0, .ro, 0, none⟩
  | .ARR_CHK_PREV_VALID => ⟨63, 63, .ro, 0, none⟩
  | .ARR_CHK_PREV_IS_ROW => ⟨62, 62, .ro, 0, none⟩
  | .ARR_CHK_PREV_INDEX => ⟨61, 55, .ro, 0, none⟩
  | .ARR_CHK_PREV_TILE_IDX => ⟨47, 29, .ro, 0, none⟩
  | .ARR_CHK_PREV_OP_SEQ => ⟨15, 0, .ro, 0, none⟩
  | .ARR_CHK_DIG_D_A => ⟨127, 64, .ro, 0, none⟩
  | .ARR_CHK_DIG_D_B => ⟨63, 0, .ro, 0, none⟩
  | .DUAL_LAST_DIG_A => ⟨191, 128, .ro, 0, none⟩
  | .DUAL_LAST_DIG_B => ⟨127, 64, .ro, 0, none⟩
  | .DUAL_LAST_PHASE => ⟨63, 48, .ro, 0, none⟩
  | .DUAL_LAST_PAIR => ⟨47, 32, .ro, 0, none⟩
  | .DUAL_LAST_SEQ => ⟨31, 16, .ro, 0, none⟩
  | .DUAL_LAST_VALID => ⟨15, 15, .ro, 0, none⟩
  | .AGE_CTL_ENABLE => ⟨31, 31, .rw, 1, none⟩
  | .AGE_CTL_THRESH_MONTHS => ⟨7, 0, .rws, 3, some (1, 255)⟩
  | .AGE_EOL_VALID => ⟨31, 31, .ro, 0, none⟩
  | .AGE_EOL_QUEUED => ⟨30, 30, .ro, 0, none⟩
  | .AGE_EOL_HISTORY_LOST => ⟨29, 29, .ro, 0, none⟩
  | .AGE_EOL_SAMPLES => ⟨28, 16, .ro, 0, none⟩
  | .AGE_EOL_MONTHS => ⟨15, 0, .ro, 65535, none⟩
  | .CHK_BLOCK_FAIL => ⟨31, 0, .ro, 0, none⟩
  | .RUE_CHECK_FAIL => ⟨31, 0, .ro, 0, none⟩
  | .DUAL_COMPARE => ⟨63, 0, .ro, 0, none⟩
  | .DUAL_MISMATCH => ⟨31, 0, .ro, 0, none⟩
  | .FLT_TRANSIENT => ⟨31, 0, .ro, 0, none⟩
  | .FLT_PERMANENT => ⟨31, 0, .ro, 0, none⟩
  | .FLT_SUBST => ⟨31, 0, .ro, 0, none⟩
  | .HP_CTL_ENABLE => ⟨31, 31, .rw, 1, none⟩
  | .HP_CTL_SPEED => ⟨30, 29, .rw, 0, some (0, 2)⟩
  | .HP_CTL_MEDIA => ⟨28, 28, .rw, 0, none⟩
  | .HP_CTL_PFC_EN => ⟨27, 27, .rw, 0, none⟩
  | .HP_CTL_PFC_PRIO => ⟨26, 24, .rw, 3, none⟩
  | .HP_CTL_PCP => ⟨15, 13, .rw, 0, none⟩
  | .HP_CTL_VID => ⟨11, 0, .rw, 0, none⟩
  | .HP_STATUS_STATE => ⟨31, 28, .ro, 0, none⟩
  | .HP_STATUS_RATE => ⟨27, 26, .ro, 0, none⟩
  | .HP_STATUS_MEDIA => ⟨25, 25, .ro, 0, none⟩
  | .HP_STATUS_PFC_XOFF => ⟨24, 24, .ro, 0, none⟩
  | .HP_STATUS_LANES_UP => ⟨15, 8, .ro, 0, none⟩
  | .LIFT_CTL_UDP_PORT => ⟨31, 16, .rw, 48830, none⟩
  | .LIFT_CTL_IDLE_S => ⟨15, 8, .rw, 10, some (1, 255)⟩
  | .LIFT_CTL_RETAIN_S => ⟨7, 0, .rw, 60, none⟩
  | .LIFT_STATUS_SESSIONS => ⟨31, 29, .ro, 0, none⟩
  | .LIFT_STATUS_EVENTS_HELD => ⟨28, 28, .ro, 0, none⟩
  | .LIFT_STATUS_BOOT_ROM => ⟨27, 27, .ro, 1, none⟩
  | .LIFT_STATUS_EVT_QUEUED => ⟨26, 18, .ro, 0, none⟩
  | .LIFT_STATUS_WINDOW_FREE => ⟨12, 0, .ro, 4096, none⟩
  | .HP_RX_FRAMES => ⟨63, 0, .ro, 0, none⟩
  | .HP_TX_FRAMES => ⟨63, 0, .ro, 0, none⟩
  | .HP_FEC_CORR => ⟨63, 0, .ro, 0, none⟩
  | .HP_FEC_UNCORR => ⟨31, 0, .ro, 0, none⟩
  | .HP_FCS_ERR => ⟨31, 0, .ro, 0, none⟩
  | .HP_RX_OVERSIZE => ⟨31, 0, .ro, 0, none⟩
  | .HP_RX_DISCARD => ⟨31, 0, .ro, 0, none⟩
  | .LIFT_MAC_FAIL => ⟨31, 0, .ro, 0, none⟩
  | .LIFT_RETX => ⟨31, 0, .ro, 0, none⟩
  | .LIFT_DUP => ⟨31, 0, .ro, 0, none⟩
  | .LIFT_CREDIT_VIOL => ⟨31, 0, .ro, 0, none⟩
  | .LIFT_MB_REFUSED => ⟨31, 0, .ro, 0, none⟩
  | .LIFT_SESSION_FAIL => ⟨31, 0, .ro, 0, none⟩
  | .EVT_LOST => ⟨31, 0, .ro, 0, none⟩
  | .BULK_CHECK_FAIL => ⟨31, 0, .ro, 0, none⟩
  | .JOB_STATE_STATE => ⟨31, 28, .ro, 0, none⟩
  | .JOB_STATE_WATCHDOG => ⟨27, 27, .ro, 0, none⟩
  | .JOB_STATE_ABORT_PILES => ⟨15, 0, .ro, 0, none⟩
  | .BR_STATUS_STAGE => ⟨31, 28, .ro, 0, none⟩
  | .BR_STATUS_WAX_AUTH => ⟨27, 27, .ro, 0, none⟩
  | .BR_STATUS_WAX_VALID => ⟨26, 26, .ro, 0, none⟩
  | .BR_STATUS_RELAYED => ⟨25, 25, .ro, 0, none⟩
  | .BR_STATUS_DISCREP => ⟨23, 16, .ro, 0, none⟩
  | .BR_STATUS_UNUSABLE => ⟨15, 0, .ro, 0, none⟩
  | .BR_TIME => ⟨63, 0, .rw, 0, none⟩
  | .FUSE_STATUS_FIELD_USED => ⟨31, 20, .ro, 0, none⟩
  | .FUSE_STATUS_PROPOSED => ⟨19, 8, .ro, 0, none⟩
  | .PWR_STATE_STATE => ⟨31, 30, .ro, 0, none⟩
  | .PWR_STATE_ENTERING => ⟨29, 29, .ro, 0, none⟩
  | .PWR_STATE_WAKING => ⟨28, 28, .ro, 0, none⟩
  | .PWR_STATE_PAD_HELD => ⟨27, 27, .ro, 0, none⟩
  | .PWR_STATE_LATCHED => ⟨26, 26, .ro, 0, none⟩
  | .PAD_RELEASE => ⟨9, 0, .wo, 0, none⟩
  | .PWR_PLAN_OVR => ⟨31, 31, .rwg, 0, none⟩
  | .GOV_CTL_RESERVE => ⟨25, 16, .rwg, 64, none⟩
  | .GOV_CTL_SLEW => ⟨15, 0, .rwg, 300, some (50, 1000)⟩
  | .GOV_STAGGER => ⟨11, 0, .rwg, 0, none⟩
  | .GOV_STATUS_CURRENT => ⟨63, 48, .ro, 0, none⟩
  | .GOV_STATUS_FILLER => ⟨47, 32, .ro, 0, none⟩
  | .GOV_STATUS_FLOOR => ⟨31, 16, .ro, 0, none⟩
  | .GOV_STATUS_HOLDING => ⟨15, 15, .ro, 0, none⟩
  | .THERM_CTL => ⟨6, 0, .rw, 100, some (70, 104)⟩
  | .THERM_STATUS_ALERT_ON => ⟨31, 31, .ro, 0, none⟩
  | .THERM_STATUS_HOT_ABORT => ⟨30, 30, .ro, 0, none⟩
  | .THERM_STATUS_TRIPPED => ⟨29, 29, .w1c, 0, none⟩
  | .THERM_STATUS_TEMP => ⟨15, 0, .ro, 0, none⟩
  | .WAKE_CTL_PIN_EN => ⟨31, 31, .rw, 1, none⟩
  | .WAKE_CTL_DETECT_EN => ⟨30, 30, .rw, 0, none⟩
  | .WAKE_LATCH_PIN => ⟨31, 31, .w1c, 0, none⟩
  | .WAKE_LATCH_DETECT => ⟨30, 30, .w1c, 0, none⟩
  | .WAKE_LATCH_REPLAYED => ⟨29, 29, .w1c, 0, none⟩
  | .PMB_CTL_ENABLE => ⟨31, 31, .rw, 1, none⟩
  | .PMB_CTL_FAST => ⟨30, 30, .rw, 1, none⟩
  | .PMB_CTL_PERIOD_MS => ⟨9, 0, .rw, 10, some (5, 1000)⟩
  | .PMB_MAP_VALID => ⟨15, 15, .rw, 0, none⟩
  | .PMB_MAP_ADDR => ⟨14, 8, .rw, 0, none⟩
  | .PMB_MAP_PAGE => ⟨7, 4, .rw, 0, none⟩
  | .PMB_MAP_RAIL => ⟨3, 0, .rw, 0, none⟩
  | .PMB_RAIL_STATUS => ⟨63, 48, .ro, 0, none⟩
  | .PMB_RAIL_TEMP => ⟨47, 32, .ro, 0, none⟩
  | .PMB_RAIL_IOUT => ⟨31, 16, .ro, 0, none⟩
  | .PMB_RAIL_VOUT => ⟨15, 0, .ro, 0, none⟩
  | .PMB_FAULT_RAILS => ⟨31, 16, .w1c, 0, none⟩
  | .PMB_FAULT_BITS => ⟨15, 0, .w1c, 0, none⟩
  | .GOV_SLEW_VIOL => ⟨31, 0, .ro, 0, none⟩
  | .PWR_DEMAND_WAKES => ⟨31, 0, .ro, 0, none⟩
  | .PWR_PLAN_IGN => ⟨31, 0, .ro, 0, none⟩
  | .SEC_STATUS_SV_FUSED => ⟨31, 25, .ro, 0, none⟩
  | .SEC_STATUS_SV_BUNDLE => ⟨24, 18, .ro, 0, none⟩
  | .SEC_STATUS_BUNDLE_OK => ⟨17, 17, .ro, 0, none⟩
  | .SEC_STATUS_OWNER_FUSED => ⟨16, 16, .ro, 0, none⟩
  | .SEC_STATUS_HOST_FUSED => ⟨15, 15, .ro, 0, none⟩
  | .SEC_STATUS_CLAIM_PARTIAL => ⟨14, 14, .ro, 0, none⟩
  | .SEC_STATUS_BURNING => ⟨13, 13, .ro, 0, none⟩
  | .SEC_STATUS_DEBUG_SCOPE => ⟨1, 0, .ro, 0, none⟩
  | .PIN_STATUS_PWR_GOOD => ⟨31, 31, .ro, 1, none⟩
  | .PIN_STATUS_RESET_N => ⟨30, 30, .ro, 1, none⟩
  | .PIN_STATUS_WAKE => ⟨29, 29, .ro, 0, none⟩
  | .PIN_STATUS_UV_TRIP => ⟨28, 28, .w1c, 0, none⟩
  | .PIN_STATUS_UV_RAIL => ⟨27, 26, .ro, 0, none⟩
  | .PIN_STATUS_XTAL_OK => ⟨25, 25, .ro, 0, none⟩
  | .PIN_STATUS_FREF_OK => ⟨24, 24, .ro, 0, none⟩
  | .PIN_STATUS_HREF_OK => ⟨23, 23, .ro, 0, none⟩

/-- The width of a field in bits. -/
def Fld.width (f : Fld) : Nat := f.spec.hi + 1 - f.spec.lo

/-- A register by name: its scope, the bounds of its indices, its width, and its fields from the most significant. -/
structure RegSpec where
  name   : String
  scope  : Scope
  dims   : List Nat
  width  : Nat
  fields : List Fld
  deriving DecidableEq, Repr

/-- Registers of chapter 03. -/
def regs03a : List RegSpec := [
  ⟨"XO_OP_COUNT", .tilePile, [6, 6], 32, [.XO_OP_COUNT]⟩,
  ⟨"TRK_CTL", .pile, [], 32, [.TRK_CTL_EVENT_MASK, .TRK_CTL_TRACKERS]⟩]

/-- Registers of chapter 04. -/
def regs04a : List RegSpec := [
  ⟨"ARR_STATUS", .tile, [3], 64, [.ARR_STATUS_BUSY, .ARR_STATUS_STALLED, .ARR_STATUS_ACC_BANK, .ARR_STATUS_CHK_FAIL, .ARR_STATUS_FMT_A, .ARR_STATUS_FMT_B, .ARR_STATUS_FMT_C, .ARR_STATUS_SWEEPS, .ARR_STATUS_TILE_IDX]⟩,
  ⟨"ARR_BUSY_CLK", .tile, [3], 64, [.ARR_BUSY_CLK]⟩,
  ⟨"ARR_STALL_CLK", .tile, [3], 64, [.ARR_STALL_CLK]⟩,
  ⟨"ARR_POISON_OUT", .tile, [3], 32, [.ARR_POISON_OUT]⟩,
  ⟨"ARR_CHK_MISMATCH", .tile, [3], 32, [.ARR_CHK_MISMATCH]⟩,
  ⟨"ARR_CHK_LAST", .tile, [3], 64, [.ARR_CHK_LAST_VALID, .ARR_CHK_LAST_IS_ROW, .ARR_CHK_LAST_INDEX, .ARR_CHK_LAST_TILE_IDX, .ARR_CHK_LAST_OP_SEQ]⟩]

/-- Registers of chapter 05. -/
def regs05a : List RegSpec := [
  ⟨"VEC_STATUS", .tile, [], 32, [.VEC_STATUS_BUSY, .VEC_STATUS_SFU_BUSY, .VEC_STATUS_TOPK_BUSY, .VEC_STATUS_WIDE_INF, .VEC_STATUS_OP_SEQ]⟩,
  ⟨"VEC_NONFINITE_IN", .tile, [], 32, [.VEC_NONFINITE_IN]⟩,
  ⟨"VEC_NONFINITE_OUT", .tile, [], 32, [.VEC_NONFINITE_OUT]⟩,
  ⟨"VEC_DOMAIN", .tile, [], 32, [.VEC_DOMAIN]⟩,
  ⟨"VEC_FLUSH_OUT", .tile, [], 32, [.VEC_FLUSH_OUT]⟩]

/-- Registers of chapter 06. -/
def regs06a : List RegSpec := [
  ⟨"TSQ_STATUS", .tile, [], 32, [.TSQ_STATUS_RUN, .TSQ_STATUS_FAULT_MODE, .TSQ_STATUS_IN_GATE, .TSQ_STATUS_IN_IDLE, .TSQ_STATUS_STALL, .TSQ_STATUS_PC]⟩,
  ⟨"TSQ_FAULT", .tile, [], 32, [.TSQ_FAULT_VALID, .TSQ_FAULT_CODE, .TSQ_FAULT_SLOT, .TSQ_FAULT_PC]⟩,
  ⟨"TSQ_FAULT_PREV", .tile, [], 32, [.TSQ_FAULT_PREV_VALID, .TSQ_FAULT_PREV_CODE, .TSQ_FAULT_PREV_SLOT, .TSQ_FAULT_PREV_PC]⟩,
  ⟨"TSQ_WAIT_LIMIT", .tile, [], 32, [.TSQ_WAIT_LIMIT]⟩,
  ⟨"STEP_PARAM", .pile, [16], 32, [.STEP_PARAM]⟩,
  ⟨"TSQ_LAYOUT", .tile, [], 64, [.TSQ_LAYOUT_ENC_LINE, .TSQ_LAYOUT_MVD_LINE, .TSQ_LAYOUT_OPD_LINE]⟩,
  ⟨"VNARROW", .tile, [], 32, [.VNARROW]⟩,
  ⟨"TSQ_ISSUE", .tile, [], 64, [.TSQ_ISSUE]⟩,
  ⟨"TSQ_STALL_CLK", .tile, [8], 64, [.TSQ_STALL_CLK]⟩,
  ⟨"SYNC", .tile, [16], 32, [.SYNC]⟩,
  ⟨"SYNC_NEXT", .tile, [16], 32, [.SYNC_NEXT]⟩,
  ⟨"ARR_DONE", .tile, [3], 32, [.ARR_DONE]⟩]

/-- Registers of chapter 06. -/
def regs06b : List RegSpec := [
  ⟨"MOV_LINES", .tile, [], 64, [.MOV_LINES]⟩,
  ⟨"MOV_CHECK_FAIL", .tile, [], 32, [.MOV_CHECK_FAIL]⟩,
  ⟨"MOV_INDEX_ERR", .tile, [], 32, [.MOV_INDEX_ERR]⟩,
  ⟨"MOV_STATUS", .tile, [], 32, [.MOV_STATUS_BUSY, .MOV_STATUS_OFF_ERR, .MOV_STATUS_WAKING, .MOV_STATUS_DEPTH, .MOV_STATUS_MVD]⟩]

/-- Registers of chapter 07. -/
def regs07a : List RegSpec := [
  ⟨"TB_CTL", .device, [], 32, [.TB_CTL_ENABLE, .TB_CTL_ROOT, .TB_CTL_UP_PILE, .TB_CTL_UP_PORT]⟩,
  ⟨"TB_STATUS", .device, [], 32, [.TB_STATUS_LOCKED, .TB_STATUS_ALIGNED, .TB_STATUS_HOLDOVER, .TB_STATUS_LOSS_COUNT]⟩,
  ⟨"TB_SLOT", .device, [], 64, [.TB_SLOT]⟩,
  ⟨"TB_STEP", .device, [], 64, [.TB_STEP]⟩,
  ⟨"GATE_CTL", .device, [], 32, [.GATE_CTL_REPLAY_LIMIT, .GATE_CTL_TIMEOUT]⟩,
  ⟨"GATE_STATUS", .pile, [], 32, [.GATE_STATUS_STATE, .GATE_STATUS_HEAD_PHASE, .GATE_STATUS_FINISH_PHASE, .GATE_STATUS_ATTEMPT, .GATE_STATUS_PHASE]⟩,
  ⟨"VERDICT_LAST", .device, [], 96, [.VERDICT_LAST_STEP, .VERDICT_LAST_CODE, .VERDICT_LAST_CAUSE]⟩,
  ⟨"SLIP_COUNT", .pile, [], 32, [.SLIP_COUNT]⟩,
  ⟨"SLIP_MAX", .pile, [], 32, [.SLIP_MAX]⟩,
  ⟨"GATE_WAIT", .pile, [], 64, [.GATE_WAIT]⟩,
  ⟨"XFER_HAZARD", .pile, [], 32, [.XFER_HAZARD]⟩,
  ⟨"GATE_TAG_ERR", .pile, [], 32, [.GATE_TAG_ERR]⟩]

/-- Registers of chapter 07. -/
def regs07b : List RegSpec := [
  ⟨"REPLAY_COUNT", .pile, [], 32, [.REPLAY_COUNT]⟩,
  ⟨"SKIP_COUNT", .pile, [], 32, [.SKIP_COUNT]⟩]

/-- Registers of chapter 08. -/
def regs08a : List RegSpec := [
  ⟨"SW_CTL", .pile, [], 32, [.SW_CTL_CHECK_MODE, .SW_CTL_UNSCHED_EN, .SW_CTL_UR_TIMEOUT]⟩,
  ⟨"SW_STATUS", .pile, [], 32, [.SW_STATUS_MODE, .SW_STATUS_STAND_IN, .SW_STATUS_GATE_HELD, .SW_STATUS_PAGE]⟩,
  ⟨"PAGE_DIR", .pile, [16], 64, [.PAGE_DIR_CYCLE, .PAGE_DIR_COUNT, .PAGE_DIR_FIRST]⟩,
  ⟨"SLOT_TABLE", .pile, [131072], 32, [.SLOT_TABLE]⟩,
  ⟨"UR_PORT", .device, [4096], 8, [.UR_PORT_VALID, .UR_PORT_PILE, .UR_PORT_PORT]⟩,
  ⟨"SW_DR_LOG", .pile, [], 64, [.SW_DR_LOG_VALID, .SW_DR_LOG_WAY, .SW_DR_LOG_PHASE, .SW_DR_LOG_SLOT]⟩,
  ⟨"SW_FWD", .pile, [], 64, [.SW_FWD]⟩,
  ⟨"SW_MISSING", .pile, [], 32, [.SW_MISSING]⟩,
  ⟨"SW_ORPHAN", .pile, [], 32, [.SW_ORPHAN]⟩,
  ⟨"SW_PARITY_ERR", .pile, [], 32, [.SW_PARITY_ERR]⟩,
  ⟨"SW_CHECK_FAIL", .pile, [], 32, [.SW_CHECK_FAIL]⟩,
  ⟨"SW_INDEX_ERR", .pile, [], 32, [.SW_INDEX_ERR]⟩]

/-- Registers of chapter 08. -/
def regs08b : List RegSpec := [
  ⟨"SW_DR_STANDIN", .pile, [], 32, [.SW_DR_STANDIN]⟩,
  ⟨"SW_DR_DROP", .pile, [], 32, [.SW_DR_DROP]⟩,
  ⟨"SW_DR_RX", .pile, [], 32, [.SW_DR_RX]⟩,
  ⟨"SW_UNSCHED_TX", .pile, [], 64, [.SW_UNSCHED_TX]⟩,
  ⟨"SW_UNSCHED_RX", .pile, [], 64, [.SW_UNSCHED_RX]⟩,
  ⟨"SW_UNSCHED_RETRY", .pile, [], 32, [.SW_UNSCHED_RETRY]⟩,
  ⟨"DIG_CUR", .pile, [8, 2], 64, [.DIG_CUR]⟩,
  ⟨"DIG_DISC", .pile, [8, 2], 64, [.DIG_DISC]⟩,
  ⟨"DIG_DISC_STEP", .pile, [], 64, [.DIG_DISC_STEP]⟩,
  ⟨"DIG_HIST", .pile, [64, 8, 2], 64, [.DIG_HIST]⟩,
  ⟨"DIG_HIST_STEP", .pile, [64], 64, [.DIG_HIST_STEP_REPLAYS, .DIG_HIST_STEP_STEP]⟩]

/-- Registers of chapter 09. -/
def regs09a : List RegSpec := [
  ⟨"LNK_CTL", .pile, [2], 32, [.LNK_CTL_ENABLE, .LNK_CTL_NEAR_LOOP, .LNK_CTL_CE_LIMIT]⟩,
  ⟨"LNK_STATUS", .pile, [2], 32, [.LNK_STATUS_STATE, .LNK_STATUS_TX_SPARE_ON, .LNK_STATUS_TX_SPARE_FOR, .LNK_STATUS_RX_SPARE_ON, .LNK_STATUS_RX_SPARE_FOR, .LNK_STATUS_SWAP_PENDING, .LNK_STATUS_POL_INV, .LNK_STATUS_LAT_MEAS, .LNK_STATUS_LAT_PAD]⟩,
  ⟨"BRG_STATUS", .pile, [4], 32, [.BRG_STATUS_STATE, .BRG_STATUS_MIN_SPARES, .BRG_STATUS_WORST_GROUP]⟩,
  ⟨"LNK_BLOCKS", .pile, [2], 64, [.LNK_BLOCKS]⟩,
  ⟨"LNK_CE_BYTES", .pile, [2], 64, [.LNK_CE_BYTES]⟩,
  ⟨"LNK_UE_BLOCKS", .pile, [2], 32, [.LNK_UE_BLOCKS]⟩,
  ⟨"LNK_FCRC_ERR", .pile, [2], 32, [.LNK_FCRC_ERR]⟩,
  ⟨"LNK_REALIGN", .pile, [2], 32, [.LNK_REALIGN]⟩,
  ⟨"LNK_LANE_CE", .pile, [2, 9], 32, [.LNK_LANE_CE]⟩,
  ⟨"LNK_LANE_UE", .pile, [2, 9], 32, [.LNK_LANE_UE]⟩,
  ⟨"LNK_SWAPS", .pile, [2], 32, [.LNK_SWAPS]⟩,
  ⟨"BRG_CRC_ERR", .pile, [4], 32, [.BRG_CRC_ERR]⟩]

/-- Registers of chapter 09. -/
def regs09b : List RegSpec := [
  ⟨"BRG_CRC_TOTAL", .pile, [4], 32, [.BRG_CRC_TOTAL]⟩,
  ⟨"BRG_REPAIRS", .pile, [4], 32, [.BRG_REPAIRS]⟩]

/-- Registers of chapter 10. -/
def regs10a : List RegSpec := [
  ⟨"XD_CTL", .device, [], 32, [.XD_CTL_DROP_LIMIT, .XD_CTL_LAYERS]⟩]

/-- Registers of chapter 11. -/
def regs11a : List RegSpec := [
  ⟨"RED_STATUS", .pile, [], 32, [.RED_STATUS_BUSY, .RED_STATUS_SEALED, .RED_STATUS_FUSED_VALID, .RED_STATUS_REC_SEALED, .RED_STATUS_HEALTH_LOCAL]⟩,
  ⟨"FUSED_RESULT", .pile, [], 1024, [.FUSED_RESULT]⟩,
  ⟨"SKIP_LAST", .device, [], 128, [.SKIP_LAST_STEP, .SKIP_LAST_ORIGIN]⟩,
  ⟨"RED_CONTRIB", .pile, [], 64, [.RED_CONTRIB]⟩,
  ⟨"RED_OOR", .pile, [], 32, [.RED_OOR]⟩,
  ⟨"RED_POISON_BKT", .pile, [], 32, [.RED_POISON_BKT]⟩,
  ⟨"RED_PKT_INVALID", .pile, [], 32, [.RED_PKT_INVALID]⟩,
  ⟨"RED_SENT", .pile, [], 64, [.RED_SENT]⟩]

/-- Registers of chapter 12. -/
def regs12a : List RegSpec := [
  ⟨"UPD_STATUS", .pile, [], 32, [.UPD_STATUS_BUSY, .UPD_STATUS_PASS, .UPD_STATUS_SUPPRESSED, .UPD_STATUS_VER_SEL, .UPD_STATUS_LAYER]⟩,
  ⟨"UPD_KAPPA", .pile, [], 32, [.UPD_KAPPA]⟩,
  ⟨"SHARD_MISMATCH_LAST", .pile, [], 128, [.SHARD_MISMATCH_LAST_VALID, .SHARD_MISMATCH_LAST_BACKWARD, .SHARD_MISMATCH_LAST_TRANSIT, .SHARD_MISMATCH_LAST_SHARD_ID, .SHARD_MISMATCH_LAST_STEP]⟩,
  ⟨"UPD_P1_ELEM", .pile, [], 64, [.UPD_P1_ELEM]⟩,
  ⟨"UPD_P2_ELEM", .pile, [], 64, [.UPD_P2_ELEM]⟩,
  ⟨"UPD_SUPPRESS", .pile, [], 32, [.UPD_SUPPRESS]⟩,
  ⟨"UPD_CLIPPED", .pile, [], 32, [.UPD_CLIPPED]⟩,
  ⟨"SHARD_GATHERS", .pile, [], 64, [.SHARD_GATHERS]⟩,
  ⟨"SHARD_CHECK_FAIL", .pile, [], 32, [.SHARD_CHECK_FAIL]⟩]

/-- Registers of chapter 13. -/
def regs13a : List RegSpec := [
  ⟨"GROOM_CTL", .pile, [], 32, [.GROOM_CTL_ENABLE, .GROOM_CTL_TARGETED, .GROOM_CTL_PERIOD_MIN]⟩,
  ⟨"GROOM_STATUS", .pile, [], 64, [.GROOM_STATUS_PASSES, .GROOM_STATUS_BEHIND, .GROOM_STATUS_NEXT_LINE]⟩,
  ⟨"MEM_BUCKET_CTL", .pile, [], 32, [.MEM_BUCKET_CTL_LEAK_S, .MEM_BUCKET_CTL_DEPTH]⟩,
  ⟨"MEM_BUCKET", .pile, [], 32, [.MEM_BUCKET]⟩,
  ⟨"MEM_STATUS", .pile, [], 32, [.MEM_STATUS_TESTED, .MEM_STATUS_FILL_BUSY, .MEM_STATUS_HOT, .MEM_STATUS_OVER_TEMP, .MEM_STATUS_MOVE_PENDING, .MEM_STATUS_TEMP]⟩,
  ⟨"MEM_SPARE", .pile, [], 32, [.MEM_SPARE_MOVED, .MEM_SPARE_MIN_LEFT]⟩,
  ⟨"MEM_CE_LOG", .pile, [16], 64, [.MEM_CE_LOG_VALID, .MEM_CE_LOG_GROOMED, .MEM_CE_LOG_RECUR, .MEM_CE_LOG_BYTES, .MEM_CE_LOG_TSV, .MEM_CE_LOG_LINE]⟩,
  ⟨"MEM_UE_LOG", .pile, [], 128, [.MEM_UE_LOG_STEP, .MEM_UE_LOG_VALID, .MEM_UE_LOG_GROOMER, .MEM_UE_LOG_QUEUED, .MEM_UE_LOG_LINE]⟩,
  ⟨"MEM_INJECT", .pile, [], 64, [.MEM_INJECT_ARMED, .MEM_INJECT_COUNT, .MEM_INJECT_FIRST, .MEM_INJECT_XOR, .MEM_INJECT_LINE]⟩,
  ⟨"MEM_POISON_MASK", .device, [], 128, [.MEM_POISON_MASK]⟩,
  ⟨"MEM_READS", .pile, [], 64, [.MEM_READS]⟩,
  ⟨"MEM_CE_LINES", .pile, [], 64, [.MEM_CE_LINES]⟩]

/-- Registers of chapter 13. -/
def regs13b : List RegSpec := [
  ⟨"MEM_CE_BYTES", .pile, [], 64, [.MEM_CE_BYTES]⟩,
  ⟨"MEM_UE", .pile, [], 32, [.MEM_UE]⟩,
  ⟨"MEM_UE_TOTAL", .pile, [], 32, [.MEM_UE_TOTAL]⟩,
  ⟨"MEM_POISON_READ", .pile, [], 32, [.MEM_POISON_READ]⟩,
  ⟨"MEM_UNWRITTEN_READ", .pile, [], 32, [.MEM_UNWRITTEN_READ]⟩,
  ⟨"MEM_POISON_WRITE", .pile, [], 32, [.MEM_POISON_WRITE]⟩,
  ⟨"MEM_BUCKET_OVF", .pile, [], 32, [.MEM_BUCKET_OVF]⟩,
  ⟨"MEM_ROW_MOVES", .pile, [], 32, [.MEM_ROW_MOVES]⟩,
  ⟨"GROOM_CE", .pile, [], 64, [.GROOM_CE]⟩,
  ⟨"GROOM_UE", .pile, [], 32, [.GROOM_UE]⟩]

/-- Registers of chapter 14. -/
def regs14a : List RegSpec := [
  ⟨"CHK_CTL", .device, [], 32, [.CHK_CTL_SENTINEL_EN, .CHK_CTL_DUAL_EN, .CHK_CTL_BLOCK_CHECK, .CHK_CTL_REPLAY_CHECK, .CHK_CTL_AUTO_SPARE, .CHK_CTL_TRANSIENT_LIMIT, .CHK_CTL_TRANSIENT_WINDOW]⟩,
  ⟨"FLT_STATUS", .pile, [], 64, [.FLT_STATUS_MAP, .FLT_STATUS_SPARE_TILES, .FLT_STATUS_SUBST_PENDING, .FLT_STATUS_ARBITRATING, .FLT_STATUS_BLOCK_CHECKING, .FLT_STATUS_QUEUED_TILE]⟩,
  ⟨"FLT_TILE", .pile, [9], 32, [.FLT_TILE_RETIRED, .FLT_TILE_PERMANENT, .FLT_TILE_MARGINAL, .FLT_TILE_TRANSIENTS, .FLT_TILE_PF_INDEX]⟩,
  ⟨"ARR_CHK_PREV", .tile, [3], 64, [.ARR_CHK_PREV_VALID, .ARR_CHK_PREV_IS_ROW, .ARR_CHK_PREV_INDEX, .ARR_CHK_PREV_TILE_IDX, .ARR_CHK_PREV_OP_SEQ]⟩,
  ⟨"ARR_CHK_DIG", .tile, [3], 128, [.ARR_CHK_DIG_D_A, .ARR_CHK_DIG_D_B]⟩,
  ⟨"DUAL_LAST", .pile, [], 192, [.DUAL_LAST_DIG_A, .DUAL_LAST_DIG_B, .DUAL_LAST_PHASE, .DUAL_LAST_PAIR, .DUAL_LAST_SEQ, .DUAL_LAST_VALID]⟩,
  ⟨"AGE_CTL", .device, [], 32, [.AGE_CTL_ENABLE, .AGE_CTL_THRESH_MONTHS]⟩,
  ⟨"AGE_EOL", .device, [193], 32, [.AGE_EOL_VALID, .AGE_EOL_QUEUED, .AGE_EOL_HISTORY_LOST, .AGE_EOL_SAMPLES, .AGE_EOL_MONTHS]⟩,
  ⟨"CHK_BLOCK_FAIL", .tile, [], 32, [.CHK_BLOCK_FAIL]⟩,
  ⟨"RUE_CHECK_FAIL", .pile, [], 32, [.RUE_CHECK_FAIL]⟩,
  ⟨"DUAL_COMPARE", .pile, [], 64, [.DUAL_COMPARE]⟩,
  ⟨"DUAL_MISMATCH", .pile, [], 32, [.DUAL_MISMATCH]⟩]

/-- Registers of chapter 14. -/
def regs14b : List RegSpec := [
  ⟨"FLT_TRANSIENT", .pile, [], 32, [.FLT_TRANSIENT]⟩,
  ⟨"FLT_PERMANENT", .pile, [], 32, [.FLT_PERMANENT]⟩,
  ⟨"FLT_SUBST", .pile, [], 32, [.FLT_SUBST]⟩]

/-- Registers of chapter 15. -/
def regs15a : List RegSpec := [
  ⟨"HP_CTL", .device, [], 32, [.HP_CTL_ENABLE, .HP_CTL_SPEED, .HP_CTL_MEDIA, .HP_CTL_PFC_EN, .HP_CTL_PFC_PRIO, .HP_CTL_PCP, .HP_CTL_VID]⟩,
  ⟨"HP_STATUS", .device, [], 32, [.HP_STATUS_STATE, .HP_STATUS_RATE, .HP_STATUS_MEDIA, .HP_STATUS_PFC_XOFF, .HP_STATUS_LANES_UP]⟩,
  ⟨"LIFT_CTL", .device, [], 32, [.LIFT_CTL_UDP_PORT, .LIFT_CTL_IDLE_S, .LIFT_CTL_RETAIN_S]⟩,
  ⟨"LIFT_STATUS", .device, [], 32, [.LIFT_STATUS_SESSIONS, .LIFT_STATUS_EVENTS_HELD, .LIFT_STATUS_BOOT_ROM, .LIFT_STATUS_EVT_QUEUED, .LIFT_STATUS_WINDOW_FREE]⟩,
  ⟨"HP_RX_FRAMES", .device, [], 64, [.HP_RX_FRAMES]⟩,
  ⟨"HP_TX_FRAMES", .device, [], 64, [.HP_TX_FRAMES]⟩,
  ⟨"HP_FEC_CORR", .device, [], 64, [.HP_FEC_CORR]⟩,
  ⟨"HP_FEC_UNCORR", .device, [], 32, [.HP_FEC_UNCORR]⟩,
  ⟨"HP_FCS_ERR", .device, [], 32, [.HP_FCS_ERR]⟩,
  ⟨"HP_RX_OVERSIZE", .device, [], 32, [.HP_RX_OVERSIZE]⟩,
  ⟨"HP_RX_DISCARD", .device, [], 32, [.HP_RX_DISCARD]⟩,
  ⟨"LIFT_MAC_FAIL", .device, [], 32, [.LIFT_MAC_FAIL]⟩]

/-- Registers of chapter 15. -/
def regs15b : List RegSpec := [
  ⟨"LIFT_RETX", .device, [], 32, [.LIFT_RETX]⟩,
  ⟨"LIFT_DUP", .device, [], 32, [.LIFT_DUP]⟩,
  ⟨"LIFT_CREDIT_VIOL", .device, [], 32, [.LIFT_CREDIT_VIOL]⟩,
  ⟨"LIFT_MB_REFUSED", .device, [], 32, [.LIFT_MB_REFUSED]⟩,
  ⟨"LIFT_SESSION_FAIL", .device, [], 32, [.LIFT_SESSION_FAIL]⟩,
  ⟨"EVT_LOST", .device, [], 32, [.EVT_LOST]⟩,
  ⟨"BULK_CHECK_FAIL", .device, [], 32, [.BULK_CHECK_FAIL]⟩]

/-- Registers of chapter 16. -/
def regs16a : List RegSpec := [
  ⟨"JOB_STATE", .device, [], 32, [.JOB_STATE_STATE, .JOB_STATE_WATCHDOG, .JOB_STATE_ABORT_PILES]⟩]

/-- Registers of chapter 17. -/
def regs17a : List RegSpec := [
  ⟨"BR_STATUS", .device, [], 32, [.BR_STATUS_STAGE, .BR_STATUS_WAX_AUTH, .BR_STATUS_WAX_VALID, .BR_STATUS_RELAYED, .BR_STATUS_DISCREP, .BR_STATUS_UNUSABLE]⟩,
  ⟨"BR_TIME", .device, [], 64, [.BR_TIME]⟩,
  ⟨"FUSE_STATUS", .device, [], 32, [.FUSE_STATUS_FIELD_USED, .FUSE_STATUS_PROPOSED]⟩]

/-- Registers of chapter 18. -/
def regs18a : List RegSpec := [
  ⟨"PWR_STATE", .device, [544], 32, [.PWR_STATE_STATE, .PWR_STATE_ENTERING, .PWR_STATE_WAKING, .PWR_STATE_PAD_HELD, .PWR_STATE_LATCHED]⟩,
  ⟨"PAD_RELEASE", .device, [], 32, [.PAD_RELEASE]⟩,
  ⟨"PWR_PLAN_OVR", .pile, [], 32, [.PWR_PLAN_OVR]⟩,
  ⟨"GOV_CTL", .device, [], 32, [.GOV_CTL_RESERVE, .GOV_CTL_SLEW]⟩,
  ⟨"GOV_STAGGER", .device, [], 32, [.GOV_STAGGER]⟩,
  ⟨"GOV_STATUS", .device, [], 64, [.GOV_STATUS_CURRENT, .GOV_STATUS_FILLER, .GOV_STATUS_FLOOR, .GOV_STATUS_HOLDING]⟩,
  ⟨"THERM_CTL", .device, [], 32, [.THERM_CTL]⟩,
  ⟨"THERM_STATUS", .device, [], 32, [.THERM_STATUS_ALERT_ON, .THERM_STATUS_HOT_ABORT, .THERM_STATUS_TRIPPED, .THERM_STATUS_TEMP]⟩,
  ⟨"WAKE_CTL", .device, [], 32, [.WAKE_CTL_PIN_EN, .WAKE_CTL_DETECT_EN]⟩,
  ⟨"WAKE_LATCH", .device, [], 32, [.WAKE_LATCH_PIN, .WAKE_LATCH_DETECT, .WAKE_LATCH_REPLAYED]⟩,
  ⟨"PMB_CTL", .device, [], 32, [.PMB_CTL_ENABLE, .PMB_CTL_FAST, .PMB_CTL_PERIOD_MS]⟩,
  ⟨"PMB_MAP", .device, [16], 16, [.PMB_MAP_VALID, .PMB_MAP_ADDR, .PMB_MAP_PAGE, .PMB_MAP_RAIL]⟩]

/-- Registers of chapter 18. -/
def regs18b : List RegSpec := [
  ⟨"PMB_RAIL", .device, [16], 64, [.PMB_RAIL_STATUS, .PMB_RAIL_TEMP, .PMB_RAIL_IOUT, .PMB_RAIL_VOUT]⟩,
  ⟨"PMB_FAULT", .device, [], 32, [.PMB_FAULT_RAILS, .PMB_FAULT_BITS]⟩,
  ⟨"GOV_SLEW_VIOL", .device, [], 32, [.GOV_SLEW_VIOL]⟩,
  ⟨"PWR_DEMAND_WAKES", .device, [], 32, [.PWR_DEMAND_WAKES]⟩,
  ⟨"PWR_PLAN_IGN", .device, [], 32, [.PWR_PLAN_IGN]⟩]

/-- Registers of chapter 19. -/
def regs19a : List RegSpec := [
  ⟨"SEC_STATUS", .device, [], 32, [.SEC_STATUS_SV_FUSED, .SEC_STATUS_SV_BUNDLE, .SEC_STATUS_BUNDLE_OK, .SEC_STATUS_OWNER_FUSED, .SEC_STATUS_HOST_FUSED, .SEC_STATUS_CLAIM_PARTIAL, .SEC_STATUS_BURNING, .SEC_STATUS_DEBUG_SCOPE]⟩]

/-- Registers of chapter 20. -/
def regs20a : List RegSpec := [
  ⟨"PIN_STATUS", .device, [], 32, [.PIN_STATUS_PWR_GOOD, .PIN_STATUS_RESET_N, .PIN_STATUS_WAKE, .PIN_STATUS_UV_TRIP, .PIN_STATUS_UV_RAIL, .PIN_STATUS_XTAL_OK, .PIN_STATUS_FREF_OK, .PIN_STATUS_HREF_OK]⟩]

/-- Every register of the device. -/
def regTable : List RegSpec :=
  regs03a ++ regs04a ++ regs05a ++ regs06a ++ regs06b ++ regs07a ++ regs07b ++ regs08a ++ regs08b ++ regs09a ++ regs09b ++ regs10a ++ regs11a ++ regs12a ++ regs13a ++ regs13b ++ regs14a ++ regs14b ++ regs15a ++ regs15b ++ regs16a ++ regs17a ++ regs18a ++ regs18b ++ regs19a ++ regs20a

/-- The register of a name, if the device has one. -/
def regNamed (n : String) : Option RegSpec := regTable.find? (fun r => r.name == n)

/-- The home of one field of one register: the field, the pile and physical tile it belongs to (0 where its scope has
none) and its indices (a third index is folded into `j`). -/
structure FKey where
  f : Fld
  p : Nat := 0
  t : Nat := 0
  i : Nat := 0
  j : Nat := 0
  deriving DecidableEq, Repr

/-- The key's code: 6 bits of `j`, 17 of `i`, 4 of `t`, 4 of `p`, then the field's number. Keys in the range of the
register table have distinct codes. -/
def FKey.code (k : FKey) : Nat :=
  (((k.f.ctorIdx * 16 + k.p % 16) * 16 + k.t % 16) * 131072 + k.i % 131072) * 64 + k.j % 64

/-- What `n` becomes in a field of `w` bits. -/
def clipTo (w n : Nat) : Nat := n % 2 ^ w

end Sys2Proof.Machine
end

