-- ==== Sys2Proof/Machine/SMap.lean ====
section
/-! DEFINITION. Sparse data by key: a list of (key, value) pairs with keys strictly rising, so that equal contents are
equal lists. Every memory and every register file of the state is one (log 6). -/

namespace Sys2Proof.Machine

/-- A sparse map: pairs in strictly rising order of key. A key that no pair holds reads as its owner's default. -/
abbrev SMap (α : Type) := List (Nat × α)

/-- The value at key `k`, if one is held. -/
def SMap.find? {α : Type} (m : SMap α) (k : Nat) : Option α :=
  match m with
  | [] => none
  | (a, x) :: r => if a = k then some x else SMap.find? r k

/-- The value at key `k`, `d` where none is held. -/
def SMap.getD {α : Type} (m : SMap α) (k : Nat) (d : α) : α := (SMap.find? m k).getD d

/-- The map with key `k` holding `y`. -/
def SMap.insert {α : Type} (m : SMap α) (k : Nat) (y : α) : SMap α :=
  match m with
  | [] => [(k, y)]
  | (a, x) :: r => if a = k then (k, y) :: r else if k < a then (k, y) :: (a, x) :: r else (a, x) :: SMap.insert r k y

/-- The map with key `k` holding `v`, or holding nothing. -/
def SMap.set {α : Type} (m : SMap α) (k : Nat) (v : Option α) : SMap α :=
  match v with
  | none => m.filter (fun kv => kv.1 != k)
  | some y => SMap.insert m k y

/-- The map with key `k` reading as `v`, where an unlisted key reads as `d`: a value equal to `d` is not listed. -/
def SMap.put {α : Type} [DecidableEq α] (d : α) (m : SMap α) (k : Nat) (v : α) : SMap α :=
  SMap.set m k (if v = d then none else some v)

/-- Keys strictly rise along the list and stay at or above `lo`. -/
def SMap.sortedFrom {α : Type} (lo : Nat) (m : SMap α) : Bool :=
  match m with
  | [] => true
  | (a, _) :: r => decide (lo ≤ a) && SMap.sortedFrom (a + 1) r

/-- Keys strictly rise along the list. -/
abbrev SMap.sorted {α : Type} (m : SMap α) : Bool := SMap.sortedFrom 0 m

/-- The canonical form over the default `d`: keys rise and no pair holds `d`. -/
def SMap.canon {α : Type} [DecidableEq α] (d : α) (m : SMap α) : Bool :=
  SMap.sorted m && m.all (fun kv => decide (kv.2 ≠ d))

/-- The keys held, lowest first. -/
def SMap.keys {α : Type} (m : SMap α) : List Nat := m.map Prod.fst

/-- The map without its keys `k` for which `p k` holds. -/
def SMap.dropKeys {α : Type} (m : SMap α) (p : Nat → Bool) : SMap α := m.filter (fun kv => !p kv.1)

end Sys2Proof.Machine
end

