-- ==== Sys2Proof/Machine/State.lean ====
section
/-! DEFINITION. The state of the block: every register field, memory, unit and queue the spec gives it, as plain data, and
the state after reset (log 1, 2). -/

namespace Sys2Proof.Machine

/-! ## Tiles (chapters 04, 05, 06) -/

/-- One lane of a vector register: FP32 bits and its poison mark (R119, R135). -/
structure Lane where
  bits   : Word := 0
  poison : Bool := false
  deriving DecidableEq, Repr

/-- A predicate register of 256 bits with a poison mark for each (R119, R135; log 38). -/
structure PReg where
  bits   : BitVec 256 := 0
  poison : BitVec 256 := 0
  deriving DecidableEq, Repr

/-- A wide accumulator (R124): a number of at most 64 significand bits, an infinity or NaN, and its poison mark. -/
structure Wide where
  num    : FNum := .fin ⟨false, 0, 0⟩
  poison : Bool := false
  deriving DecidableEq, Repr

/-- An active loop (R142): its counter, the first and last bundle of its body, and how many times the body runs. -/
structure LoopFrame where
  lc    : Nat
  first : Nat
  last  : Nat
  count : Nat
  deriving DecidableEq, Repr

/-- A mover descriptor as queued (R153, R155): scalar registers added, tiles by the number that the descriptor gives them, logical
0-7 or 15 for the issuing tile (R14). `crossed`: a gate has opened since it was queued; `done`: once it has started, the clk of its last
write, counted from the clk 0 of the mover's next descriptor (R156). -/
structure MvOp where
  mvd       : Nat
  typ       : Nat
  fillFmt   : Nat
  srcSpace  : Space
  dstSpace  : Space
  srcTile   : Nat
  dstTile   : Nat
  check     : Bool
  ahead     : Bool
  crossed   : Bool := false
  syncIdx   : Nat
  srcLine   : Nat
  dstLine   : Nat
  count0    : Nat
  count1    : Nat
  srcStride : Int
  dstStride : Int
  indexLine : Nat
  done      : Int := 0
  deriving DecidableEq, Repr

/-- The block mover (R156): nothing started, the next descriptor waiting for a domain to wake, or descriptors started and not
yet complete. -/
inductive MvPhase where
  | idle
  | waking (domain : Nat)
  | moving
  deriving DecidableEq, Repr

/-- A line that the mover has read and not yet written (R156): the clock it is written in, counted from the clk 0 of the mover's
next descriptor, the line's place, and the descriptor that moves it, counted from the queue's front. -/
structure InFlight where
  own   : Nat
  clk   : Int
  space : Space
  tile  : Nat
  at'   : Nat
  line  : Line
  deriving DecidableEq, Repr

/-- An array operation as issued (R145, R146): sizes in blocks, formats, options, the three grids, the fine-scale line,
the block coordinates and the encode descriptor with STID added. -/
structure ArrOp where
  mb      : Nat
  nb      : Nat
  kb      : Nat
  fmtA    : Nat
  fmtB    : Nat
  fmtC    : Nat
  passes  : Nat
  transA  : Bool
  transB  : Bool
  preload : Bool
  fscale  : Nat
  aBase   : Nat
  aRs     : Nat
  aCs     : Nat
  bBase   : Nat
  bRs     : Nat
  bCs     : Nat
  cBase   : Nat
  cRs     : Nat
  cCs     : Nat
  c0Base  : Nat
  c0Rs    : Nat
  c0Cs    : Nat
  fsBase  : Nat
  bi      : Nat
  bj      : Nat
  enc     : EncDesc
  seq     : Nat
  deriving DecidableEq, Repr

/-- A failed checksum comparison (R111): row or column, its index, the output tile, and the tile's operand digests (R389).
-/
structure ChkFail where
  isRow : Bool
  index : Nat
  tile  : Nat
  digA  : Nat
  digB  : Nat
  deriving DecidableEq, Repr

/-- What an executing array operation delivers when it completes (R103; log 9): the lines it writes, the converter's
counts, the failed comparisons, the output digest (R391) with its poison flag, and its sweeps and K-steps. -/
structure ArrResult where
  writes  : List (Nat × Line)
  counts  : XoCounts
  fails   : List ChkFail
  outDig  : Nat
  sweeps  : Nat
  ksteps  : Nat
  lastIdx : Nat
  bank    : Nat
  deriving DecidableEq, Repr

/-- One array: operations under way with their results, oldest first (the last executes, one before it drains), the pending
one (R147), the phase's next sequence number (R118), and the accumulator bank of the next output tile (R95). -/
structure Arr where
  running : List (ArrOp × ArrResult) := []
  pending : Option ArrOp := none
  seq     : Nat := 0
  bank    : Nat := 0
  deriving DecidableEq, Repr

/-- Which slots of the bundle at PC have issued (log 8), whether its faults have been checked, whether it has been found
free to issue, and whether its fetch follows a taken branch (R140). -/
structure Issued where
  checked : Bool := false
  started : Bool := false
  fetch   : Bool := false
  a : Bool := false
  v : Bool := false
  m : Bool := false
  deriving DecidableEq, Repr

/-- A physical tile beside its registers: scalar registers S1-S15, loop counters, active loops (innermost first), vector,
predicate and wide registers (R119, R142), arrays, block mover (its queue, how many descriptors at the queue's front have
started, and the lines they have in flight), the program region's size in lines (R100), its number of
bundles and the sizes of its tables (R139), the phase's output digests by unit * 65536 + sequence number, each as the digest
doubled plus its poison flag (R391), the numbers of vector stores and vector operations in the phase, whether the SFU and the
top-k unit were used among them (R133), whether the tile has arrived, and the bundle of the GATEW it last waited at (R168). Vector, predicate and wide registers hold zero at reset, for which the spec
gives no value before an attempt's first bundle (DESIGN CHOICE, log 141). -/
structure Tile where
  sregs   : SMap Word := []
  lcs     : SMap Word := []
  loops   : List LoopFrame := []
  vregs   : SMap (List Lane) := []
  pregs   : SMap PReg := []
  wregs   : SMap Wide := []
  fa      : Arr := {}
  bda     : Arr := {}
  bwa     : Arr := {}
  queue   : List MvOp := []
  mover   : MvPhase := .idle
  begun   : Nat := 0
  flight  : List InFlight := []
  issued  : Issued := {}
  region  : Nat := 0
  bundles : Nat := 0
  opds    : Nat := 0
  mvds    : Nat := 0
  encs    : Nat := 0
  outDigs : SMap Nat := []
  vstSeq  : Nat := 0
  vecSeq  : Nat := 0
  sfuUsed : Bool := false
  topUsed : Bool := false
  arrived : Bool := false
  gatePc  : Nat := 0
  deriving DecidableEq, Repr

/-! ## Piles (chapters 07, 08, 10-14) -/

/-- A pile's health record of one tracker index (R82), with the lowest `TENSOR_ID` that counted non-finite values into it
(R317). -/
structure Health where
  c   : XoCounts := {}
  tid : Option Nat := none
  deriving DecidableEq, Repr

/-- Three sets of records and the carry set of HEAD work (R83, R198, R293, R319), with the steps of the last-ended and
discarded sets (R465). -/
structure RecSets (α : Type) where
  cur      : SMap α := []
  last     : SMap α := []
  disc     : SMap α := []
  carry    : SMap α := []
  lastStep : Nat := 0
  discStep : Nat := 0
  deriving DecidableEq, Repr

/-- A bucket record (R319). `flags`: bit 0 POISONED, 1 positive, 2 negative sentinel present; `out`: its out-of-range flag
(R309). -/
structure BktRec where
  eref     : Int
  flags    : Nat
  received : Nat
  oor      : Nat
  redNorm  : Wide
  locNorm  : Wide
  digest   : Nat
  out      : Bool
  deriving DecidableEq, Repr

/-- What the owner has seen of a bucket in the running attempt (R306-R309): trailers received, the contributors whose
last pair index is known, whether anything refused makes it poisoned, and the passing trailers' norms. -/
structure BktRun where
  received : Nat := 0
  bad      : Bool := false
  lastIdx  : SMap Nat := []
  locNorm  : Wide := {}
  deriving DecidableEq, Repr

/-- A gondola on its way to a LOC egress: the way it entered on and its entry's DROP_IF_DEST_RESET (R217, R228). -/
structure LocOut where
  g    : Gondola
  from' : Nat
  drop : Bool
  deriving DecidableEq, Repr

/-- What a passing gather recorded of a shard (R347). -/
structure ShardSeen where
  count : Nat
  dFwd  : Nat
  dBwd  : Nat
  deriving DecidableEq, Repr

/-- A fault record of an attempt (R395). `kind` 1 ARRAY_CHECK, 2 DUAL_MISMATCH, 3 SEQ_FAULT; `phase` the phase, `phys` the
physical tile, `unit` the array, or for a DUAL pair the pair's index. `a`-`d`: of an ARRAY_CHECK ARR_CHK_LAST, ARR_CHK_PREV
where the attempt counted two failures (else 0), D_A and D_B; of a DUAL_MISMATCH SEQ, 0 and the two digests; of a SEQ_FAULT
CODE, SLOT and PC. -/
structure FaultRec where
  kind : Nat
  phase : Nat
  phys : Nat
  unit : Nat
  a    : Nat := 0
  b    : Nat := 0
  c    : Nat := 0
  d    : Nat := 0
  deriving DecidableEq, Repr

/-- A pattern-fault record (R399). -/
structure PfRec where
  step     : Nat
  phase    : Nat
  kind     : Nat
  pile     : Nat
  device   : Nat
  phys     : Nat
  log      : Nat
  locLast  : Nat := 0
  locPrev  : Nat := 0
  dig1     : Nat := 0
  dig2     : Nat := 0
  attempts : Nat := 1
  array    : Nat := 3
  action   : Nat := 0
  months   : Nat := 0
  deriving DecidableEq, Repr

/-- A DUAL arbitration in progress (R398): the pair's index, the physical tiles of its halves, the half the lower-numbered
tile runs first, the spare, its stage (0 the spare is due in the first half, 1 it runs it, 2 it is due in the second half, 3
it runs that), and the mismatch that began it. -/
structure Arb where
  pair  : Nat
  physA : Nat
  physB : Nat
  spare : Nat
  stage : Nat := 0
  start : FaultRec
  deriving DecidableEq, Repr

/-- An operation of an attempt with a sentinel failure or a sequencer fault (R398): the phase, the physical tile, the unit
(0 to 2 the arrays, 3 the sequencer) and the operation's sequence number. -/
structure Hit where
  phase : Nat
  phys  : Nat
  unit  : Nat
  seq   : Nat
  deriving DecidableEq, Repr

/-- A substitution queued for the step boundary (R400): the physical tile to replace, and the kind of R399 behind it
(0: an arbitration swap). -/
structure Subst where
  phys : Nat
  kind : Nat
  deriving DecidableEq, Repr

/-- What a ULINK frame says (R229): the number of the next frame awaited, credits returned, and whether to send again from that number. -/
structure Ulink where
  next    : Nat
  credits : Nat
  again   : Bool
  deriving DecidableEq, Repr

/-- A port's hop state of the unscheduled class (R229): next number to accept and to send, the credits held, frames sent and not
acknowledged, the numbers of those to be sent again, frames waiting to be sent, each with the port whose buffer holds it (0: none), and
ULINK frames waiting to be sent. -/
structure UHop where
  rxNext  : Nat := 0
  txNext  : Nat := 0
  credits : Nat := 32
  unacked : List (Nat × UFrame) := []
  again   : List Nat := []
  waiting : List (Nat × UFrame) := []
  acks    : List Ulink := []
  deriving DecidableEq, Repr

/-- A mailbox request that a later event answers (R439): the session it came in, its host key, mailbox, command code and
HOST_TAG. -/
structure Req where
  session : Nat
  hostKey : Bytes
  mb      : Nat
  cmd     : Nat
  tag     : Nat
  deriving DecidableEq, Repr

/-- A running MEM_FILL on a pile (R365): what it writes, who waits for it, and how many piles the command fills.
-/
structure FillRun where
  first : Nat
  lines : Nat
  body  : BitVec 1024
  tag   : BitVec 128
  fmt   : Option Nat
  req   : Req
  piles : Nat
  deriving DecidableEq, Repr

/-- A gate token that waits for a gate slot (R191, R226): the port it leaves on, whether it is an ARRIVE, and the token. -/
structure TokenOut where
  port : Nat
  up   : Bool
  tok  : GateToken
  deriving DecidableEq, Repr

/-- The gate logic and phase of a pile (R181, R191): the slot the phase opened at, its phase table entry and iteration,
whether the pile's work of the phase is complete and booked (R181), its own arrival, the children's tokens by the way they came on,
whether ARRIVE has gone up, and the RELEASE held. `parent` is the way on which the parent's tokens come (none at the root) and
`children` the number of children, as the gate tree compiled into the pages has them (R190); `sends` are the tokens that wait for
gate slots. -/
structure GateSt where
  openSlot  : Nat := 0
  entry     : Nat := 0
  iter      : Nat := 0
  booked    : Bool := false
  arrivedAt : Option Nat := none
  kids      : List (Nat × GateToken) := []
  sentUp    : Bool := false
  slipped   : Nat := 0
  rel       : Option (Nat × BitVec 32) := none
  start     : Bool := false
  parent    : Option Nat := none
  children  : Nat := 0
  sends     : List TokenOut := []
  deriving DecidableEq, Repr

/-- The switch's work in flight, by slot * 256 + way (R217, R222-R224): gondolas read for LOC ingress, gondolas that a link
delivered, gondolas under way to this pile on a bridge's wires (R212, R254), gondolas bound for LOC egress; what the running phase has to
enter into the transmit and receive digests, by phase slot * 256 + way (R230); the descriptor gondolas completed in the phase, by
descriptor * 65536 + k; the hops of the unscheduled class; the slot whose free way-slots were served last (R220); ULINK frames under way
on a bridge to a port of this pile; and frames that wait for the domain of their endpoint (R502). -/
structure SwSt where
  locIn  : SMap Gondola := []
  linkIn : SMap Gondola := []
  wires  : SMap Gondola := []
  locOut : SMap LocOut := []
  digTx  : SMap Gondola := []
  digRx  : SMap Gondola := []
  done   : List Nat := []
  hops   : SMap UHop := []
  freeAt : Option Nat := none
  ulinks : List (Nat × Ulink) := []
  toWake : List UFrame := []
  deriving DecidableEq, Repr

/-- The RUE of a pile (chapters 11, 12): buckets in reduction, RUE operations completed in the phase (R222), children's
record lines of the verdict and record rounds by way * 65536 + line (R313, R315), the fused result's and the domain-wide
records' lines, sums owned (R339), evaluated schedules (R331), gathers in progress and recorded (R347), and causes raised in the
attempt (R310), buckets read out in the attempt (R339), update passes that ran in the phase (R348), the count of non-finite sources when the verdict record was sealed (R311), the sources counted in tiles that a substitution has since
taken out of service (R22), and causes held in the carry
set (R198), and whether some owned layer was clipped and whether a clip factor was formed in the attempt (R349, R351). -/
structure RueSt where
  bkts      : SMap BktRun := []
  rueDone   : Nat := 0
  kidVerd   : SMap Line := []
  kidRec    : SMap Line := []
  verd      : SMap Line := []
  recs      : SMap Line := []
  scheds    : List Word := []
  sums      : SMap Wide := []
  gathers   : SMap Nat := []
  seen      : SMap ShardSeen := []
  seenCarry : SMap ShardSeen := []
  causes    : Nat := 0
  nfSeal    : Nat := 0
  nfGone    : Nat := 0
  readOut   : List Nat := []
  passes    : List Nat := []
  causeCarry : Nat := 0
  clipped   : Bool := false
  kappaSet  : Bool := false
  deriving DecidableEq, Repr

/-- The memory agent and patrol core of a pile (chapter 13): log entries from the least recent, lines queued for a
targeted groom, lines whose row moves once groomed, rows queued for a move (channel, bank and row as bits of a line index
above the column), spare rows used per bank, the row remap, the weak-row map, the rows that first miscompared at the longer
holds, with the hold, from which the retention monitors start (R405, R482), and the event hold of R367. -/
structure MemSt where
  ceOrder  : List Nat := []
  grooms   : List Nat := []
  ueGrooms : List Nat := []
  moves    : List Nat := []
  used     : SMap Nat := []
  remap    : SMap Nat := []
  weak     : List Nat := []
  longHold : List (Nat × Nat) := []
  ceHold   : Nat := 0
  fill     : Option FillRun := none
  deriving DecidableEq, Repr

/-- Fault classification of a pile (chapter 14): the records of the attempt before, its hits and those of the running one, every mismatch
of the running attempt's DUAL pairs, the faults that have reproduced in the step, transients by tile as step counts, the ring of pattern-fault records with the index of
the next, queued substitutions, whether one has been made at this boundary, and the arbitration. -/
structure FltSt where
  prev   : List FaultRec := []
  hits   : List Hit := []
  hitsPrev : List Hit := []
  mism   : List FaultRec := []
  found  : List FaultRec := []
  did    : Bool := false
  trans  : SMap (List Nat) := []
  ring   : SMap PfRec := []
  next   : Nat := 0
  queue  : List Subst := []
  arb    : Option Arb := none
  spare  : Option Nat := some 8
  badTiles : BitVec 9 := 0
  deriving DecidableEq, Repr

/-- A pile beside its registers. `resetSrc`: 0 no reset in progress; else R467's source of the one that is; `resetReqs`: the
requests answered when it ends (R463); `dieTemp`: its base-die temperature as an alert reported it (R466). -/
structure Pile where
  gate     : GateSt := {}
  sw       : SwSt := {}
  rue      : RueSt := {}
  mem      : MemSt := {}
  flt      : FltSt := {}
  health   : RecSets Health := {}
  disp     : RecSets DispatchCounts := {}
  bktRecs  : RecSets BktRec := {}
  resetSrc : Nat := 0
  resetReqs : List Req := []
  dieTemp  : Option Nat := none
  deriving DecidableEq, Repr

/-- An off-package port beside its registers (chapter 09): lane maps (logical to physical), lanes failed or fused bad,
consecutive disagreeing blocks (R250), VERIFY failures (R255), lanes and port suspect in this attempt and the one before
(R259), over-limit history of each lane over 16 ended steps (R260), the lane a swap is asked for and acknowledged
(R261), lanes that need a swap once that one is over, a pattern test due, whether the swap waits for a later boundary, the
latency that the round-trip probes gave (R252), and whether its failure has been reported (R496). -/
structure Port where
  txMap     : List Nat := [0, 1, 2, 3, 4, 5, 6, 7]
  rxMap     : List Nat := [0, 1, 2, 3, 4, 5, 6, 7]
  txBad     : BitVec 9 := 0
  rxBad     : BitVec 9 := 0
  disagree  : Nat := 0
  verFails  : Nat := 0
  susp      : List Nat := []
  portSusp  : Bool := false
  suspPrev  : List Nat := []
  portPrev  : Bool := false
  history   : SMap (BitVec 16) := []
  swapLane  : Option Nat := none
  swapAcked : Bool := false
  farLane   : Option Nat := none
  swapWait  : List Nat := []
  patTest   : Bool := false
  skip      : Bool := false
  estLat    : Nat := 0
  reported  : Bool := false
  deriving DecidableEq, Repr

/-- A bridge end beside its registers (R264): way groups failing in this attempt and the one before, suspect groups,
spare wires used by group, and VERIFY failures (R255). -/
structure Bridge where
  failNow : List Nat := []
  failPrev : List Nat := []
  suspect : List Nat := []
  used    : SMap Nat := []
  verFails : Nat := 0
  deriving DecidableEq, Repr

/-! ## Lift (chapters 15, 16) -/

/-- A half-open session (R424-R428). -/
structure HalfOpen where
  id     : Nat
  src    : Nat
  host   : Bytes
  hello  : Bytes
  accept : Bytes
  kIn    : Bytes
  kOut   : Bytes
  mtu    : Nat
  events : Bool
  boot   : Bool
  deriving DecidableEq, Repr

/-- A sequenced message sent and not yet acknowledged (R432), with its retransmissions. -/
structure Unacked where
  seq   : Nat
  msg   : LiftMsg
  tries : Nat := 0
  deriving DecidableEq, Repr

/-- What a bulk transfer is for (R457): writes into memory, bundle, wax record and image from the host; memory, wax and
fetched objects to the host. -/
inductive XKind where
  | memWrite (p : MemWriteP)
  | bundle (size : Nat)
  | wax (flags : BitVec 32)
  | image (size : Nat) (parts : ImageParts) (timing : LoadTiming)
  | memRead (p : MemReadP)
  | waxRead
  | fetch (name : BitVec 128) (gen size : Nat)
  deriving DecidableEq, Repr

/-- An open bulk transfer (R435): its identifier, request, total lines, the next line, failed or poisoned lines counted,
the data gathered or to send, and whether the data is discarded (R437). -/
structure Xfer where
  id      : Nat
  req     : Req
  kind    : XKind
  total   : Nat
  next    : Nat := 0
  counted : Nat := 0
  lines   : List Line := []
  drop    : Bool := false
  deriving DecidableEq, Repr

/-- A message that came early and is held (R431): its SEQ, the bulk bytes it carries, and its row. -/
structure Early where
  seq  : Nat
  bulk : Nat
  row  : Instr
  deriving DecidableEq, Repr

/-- An open session (R430-R434): next SEQ to deliver, early messages held, next SEQ to send, messages sent and unacknowledged, messages waiting for R433, cumulative bulk bytes disposed of, the limit
granted, the host's limit, bulk bytes sent, and the transfers open. IDLE_S, RETAIN_S, the device's addresses and its MTU are those in force when it opened (R420, R451). -/
structure Session where
  id       : Nat
  src      : Nat
  host     : Bytes
  kIn      : Bytes
  kOut     : Bytes
  mtu      : Nat
  boot     : Bool
  idleS    : Nat
  retainS  : Nat
  port     : Nat
  v6       : Bool
  ip4      : BitVec 32 := 0
  ip6      : BitVec 128 := 0
  ipMtu    : Nat := 9216
  dlv      : Nat := 1
  held     : List Early := []
  txNext   : Nat := 0
  unacked  : List Unacked := []
  waiting  : List LiftMsg := []
  disposed : Nat := 0
  recv     : Nat := 0
  granted  : Nat := 0
  hostLim  : Nat := 0
  bulkSent : Nat := 0
  xfers    : List Xfer := []
  deriving DecidableEq, Repr

/-- States of a mailbox (R440). -/
inductive MbState where
  | idle | busy | done
  deriving DecidableEq, Repr

/-- A mailbox MB01-MB63 (R440, R441): its owner's host key (none: free), its state, requests outstanding, the replies sent
and not yet acknowledged or kept, ABORT replies that wait behind another, whether it was held for a key whose time
has run out, and how many of the requests outstanding are ABORTs (R443). -/
structure Mailbox where
  owner    : Option Bytes := none
  st       : MbState := .idle
  busy     : Nat := 0
  replies  : List Bytes := []
  deferred : List Bytes := []
  expired  : Bool := false
  aborts   : Nat := 0
  deriving DecidableEq, Repr

/-- An event record (R467). -/
structure Event where
  number  : Nat
  code    : Nat
  device  : Nat
  pile    : Nat
  step    : Nat
  uptime  : Nat
  payload : Bytes
  deriving DecidableEq, Repr

/-- MB00, network and port state (R418-R420, R444): who holds MB00, whether it is held over, the outstanding event, the
last event number, events lost since the last event-lost event, network settings in force and the MTU, failed trainings
at 800 Gb/s in succession, XOFF as the device sent it and as the far end sent it; requests that wait for an earlier one on the same
lines, or for a domain to wake, with their rows (R442, R502). `due` and `again` mark, within one command, that the message at hand is
one held earlier, or the request one that waited; between commands neither is set. -/
structure LiftSt where
  mb00     : Option Bytes := none
  mb00Ses  : Option Nat := none
  outEvt   : Option Event := none
  lastNum  : Nat := 0
  lost     : Nat := 0
  ip4      : BitVec 32 := 0
  prefix4  : Nat := 0
  gw4      : BitVec 32 := 0
  ip6      : BitVec 128 := 0
  prefix6  : Nat := 0
  gw6      : BitVec 128 := 0
  mtu      : Nat := 9216
  fails800 : Nat := 0
  xoffSent : Bool := false
  xoffGot  : Bool := false
  parked   : List (Req × Instr) := []
  due      : Bool := false
  again    : Option Req := none
  deriving DecidableEq, Repr

/-! ## Job, security, boot, power -/

/-- The loaded job (R172-R204): image, seed, the step's expanded phase sequence as (entry, iteration) pairs,
steps marked ready, requests waiting on the job, whether the event of an abort of the device's own waits for a lane swap (R265, R563), published generations by name, STEP_STATS as published,
the first line of each tracker's record in pile memory (R85), whether the attempt before was a discarded attempt of this step, whether the device stops at the next
gate, and steps ended. `domain` holds what DOMAIN_SET gave: device, size, root. -/
structure Job where
  image    : Option Image := none
  seed     : Nat := 0
  phases   : List (Nat × Nat) := []
  ready    : List Nat := []
  startReq : Option Req := none
  resumeReq : Option Req := none
  abortReqs : List Req := []
  doneDue  : Bool := false
  gens     : List (BitVec 128 × Nat) := []
  stats    : Bytes := []
  trackers : SMap Nat := []
  replayOf : Bool := false
  stopNext : Bool := false
  ended    : Nat := 0
  domain   : Option (Nat × Nat × Nat) := none
  deriving DecidableEq, Repr

/-- The one-time programmable fuses that commands burn (R491, R528). -/
structure Fuses where
  sv        : BitVec 64 := 0
  ownerKey  : BitVec 512 := 0
  ownerOk   : BitVec 32 := 0
  ownerHost : BitVec 512 := 0
  hostOk    : BitVec 32 := 0
  field     : List (BitVec 32) := []
  factory   : List (BitVec 32) := []
  deriving DecidableEq, Repr

/-- A word or bit that a burn in progress still has to program (R495, R528, R534, R535): `.sv` the next counter bit, word k
of a claim field, a VALID word, or a field-bank entry. -/
inductive Burn where
  | sv
  | ownerKey (k : Nat) (w : BitVec 32)
  | ownerHost (k : Nat) (w : BitVec 32)
  | ownerOk
  | hostOk
  | entry (w : BitVec 32)
  deriving DecidableEq, Repr

/-- The security core (chapter 19): the accepted bundle's measurement, version and host key hashes, the pile-core image
digest, the bundle's lines, the challenge outstanding, the burn in progress with the request it answers and what it has
burned, and SPARE_COMMIT requests that wait for it, each with its fuse entries. -/
structure SecSt where
  measure   : Bytes := []
  bundle    : List Line := []
  version   : Bytes := []
  hosts     : List Bytes := []
  imgDigest : Bytes := []
  challenge : Option Bytes := none
  burns     : List Burn := []
  burnReq   : Option Req := none
  burned    : Nat := 0
  commits   : List (Req × List (BitVec 32)) := []
  resetDue  : Bool := false
  deriving DecidableEq, Repr

/-- A field-fuse proposal (R494). -/
structure Proposal where
  source : Nat
  entry  : BitVec 32
  step   : Nat
  deriving DecidableEq, Repr

/-- A bring-up in progress (R473-R474): its request, FLAGS, the stage it is in (0 to 6: 2, 3a, 3b, 3c, 3d, 4, 5), whether
DRAM is trained and characterised cold, the piles that run 3c (R490), and the rows that stage 3b moves (R481). -/
structure BringRun where
  req   : Req
  flags : BitVec 32
  stage : Nat := 0
  cold  : Bool
  piles : BitVec 16 := 0
  rows  : List (Nat × Nat) := []
  deriving DecidableEq, Repr

/-- Bring-up state (chapter 17): the bring-up in progress, proposals, retired units carried from the wax record, relayed
lines by index with the bundle's length, the record's CHAR_TIME and MADE_TIME, a count of record rewrites (R485), whether
stage 1 has ended, discrepancies reported, whether the hub has failed for good (R19), how many field fuse entries this boot found burned
(R495), and whether a record has been composed since the boot (R485). -/
structure BootSt where
  run      : Option BringRun := none
  proposals : List Proposal := []
  carried  : List (BitVec 32) := []
  relay    : SMap Line := []
  relayLen : Nat := 0
  charTime : Nat := 0
  madeTime : Nat := 0
  waxGen   : Nat := 0
  stage1   : Bool := true
  discreps : Nat := 0
  failed   : Bool := false
  fieldSeen : Nat := 0
  recorded : Bool := false
  deriving DecidableEq, Repr

/-- A domain's transition beside PWR_STATE (R504, R508): where the transition in progress leads (0 ON, 1 RET, 2 OFF), what
is latched to follow it, what was asked to follow a wake that is latched, whether the device wakes it on its own account, whether a plan's RET waits for the tile's AHEAD
transfers (R507), and the requests answered when it ends. -/
structure DomSt where
  to'   : Option Nat := none
  next  : Option Nat := none
  after : Option Nat := none
  own   : Bool := false
  retDue : Bool := false
  reqs  : List Req := []
  deriving DecidableEq, Repr

/-- Power, temperature and telemetry beside their registers (chapter 18): domains in transition, the governor's current by its
update, the current drawn, its floor (in units of 10 uA), whether a gate is on since the device's first arrival and how many
updates have run since the opening; entries of HUB and HOST_PHY due, in their order (R508), a crossing of ALERT already reported, a wake
latched while PWR_GOOD was low, and ageing history with the core rails' charge in 1/16 A ms (R405-R407). -/
structure PwrSt where
  doms    : SMap DomSt := []
  prev    : Int := 0
  act     : Int := 0
  floor   : Int := 0
  inGate  : Bool := false
  since   : Option Nat := none
  due     : List (Nat × Nat) := []
  above   : Bool := false
  pinWake : Bool := false
  age     : SMap (List AgeSample) := []
  charge  : Nat := 0
  deriving DecidableEq, Repr

/-- States of the JTAG port's controller (R555: IEEE 1149.1). -/
inductive TapState where
  | reset | idle
  | selectDr | captureDr | shiftDr | exit1Dr | pauseDr | exit2Dr | updateDr
  | selectIr | captureIr | shiftIr | exit1Ir | pauseIr | exit2Ir | updateIr
  deriving DecidableEq, Repr

/-- The JTAG port (R539, R555): its controller, the instruction in force (0 BYPASS, 1 SAMPLE/PRELOAD, 2 EXTEST, 3 IDCODE; others
need a granted scope), the instruction register's and the selected data register's shift stages, bit 0 next to TDO, and what the
boundary register drives under EXTEST. -/
structure TapSt where
  st       : TapState := .reset
  instr    : Nat := 3
  irShift  : List Bool := []
  drShift  : List Bool := []
  boundary : List Bool := []
  deriving DecidableEq, Repr

/-- A register write that waits for a gate (R6-R8): the field, its indices and the value. `strict`: an RW@S field. -/
structure HeldWrite where
  key    : FKey
  value  : Nat
  strict : Bool
  deriving DecidableEq, Repr

/-- The pending set (R6, R7); the RW@S writes that a discarded attempt found pending, which its step's commit applies; the RW@G
changes that the step's first attempt applied, each with the phase before whose gate it applied, oldest first; and the values
that those fields had before (R8; log 60). -/
structure HoldSt where
  waiting : List HeldWrite := []
  frozen  : List HeldWrite := []
  log     : List (Nat × HeldWrite) := []
  base    : List HeldWrite := []
  deriving DecidableEq, Repr

/-- What the block has sent (log 7), oldest first: Lift messages to an address; answers on the network, with VID and PCP; PFC frames;
gondolas on a way of a pile's port in a slot; unscheduled frames and ULINK frames on a free way of a port in a slot; frames delivered to an endpoint; gate tokens up or down the
tree; swap messages; relayed bundle lines; CLEAR_FAULTS on a PMBus rail. -/
inductive Out where
  | lift (dst : Nat) (m : LiftMsg)
  | arp (vlan : Option (Nat × Nat)) (mac : BitVec 48) (ip : BitVec 32)
  | advert (vlan : Option (Nat × Nat)) (dst : BitVec 128)
  | echo (vlan : Option (Nat × Nat)) (v6 : Bool) (dst : BitVec 128) (payload : Bytes)
  | pfc (prio : Nat) (xoff : Bool)
  | gondola (p slot way : Nat) (g : Gondola)
  | frame (p slot way useq : Nat) (f : UFrame)
  | deliver (p : Nat) (f : UFrame)
  | ack (p slot way : Nat) (u : Ulink)
  | arrive (p : Nat) (t : GateToken)
  | release (p : Nat) (t : GateToken)
  | swapReq (p k lane : Nat)
  | swapAck (p k : Nat)
  | relay (l : Line)
  | clearFaults (rail : Nat)
  deriving DecidableEq, Repr

/-! ## Stops -/

/-- Faults: the spec gives every command of the block an effect, so no meaning answers one; the type has no constructor
that a meaning uses. -/
inductive Fault where
  /-- Raised by no meaning (safe: it never ends a run). -/
  | never
  deriving DecidableEq, Repr

/-- Refusals. -/
inductive Refusal where
  /-- Raised by an arm of `exec` whose command has no meaning yet: safe, since the run stops there. -/
  | notModelled (mnemonic : String)
  deriving DecidableEq, Repr

/-! ## The state -/

/-- The whole block. `regs` holds every register field by `FKey.code`, a field not listed reading as its reset value;
`dram` the codewords by pile * 2^29 + line, an unlisted one being the unwritten word (R364); `sram` the lines of local
stores and pile buffers, an unlisted one reading poisoned (R99, R500). `tbLoaded`: the slot counter has been loaded since the
time base was enabled, from a timing mark or as the root's (R185, R188). `free` counts the free values drawn (log 4). -/
structure State where
  pending   : List Instr := []
  regs      : SMap Nat := []
  hold      : HoldSt := {}
  dram      : SMap Codeword := []
  sram      : SMap Line := []
  tiles     : SMap Tile := []
  piles     : SMap Pile := []
  ports     : SMap Port := []
  bridges   : SMap Bridge := []
  halfOpen  : List HalfOpen := []
  sessions  : List Session := []
  mailboxes : SMap Mailbox := []
  events    : List Event := []
  lift      : LiftSt := {}
  job       : Job := {}
  fuses     : Fuses := {}
  sec       : SecSt := {}
  boot      : BootSt := {}
  pwr       : PwrSt := {}
  tap       : TapSt := {}
  tbLoaded  : Bool := false
  out       : List Out := []
  free      : Nat := 0
  deriving DecidableEq, Repr

/-- PWR_STATE.STATE of every domain once stage 1 of bring-up has ended (R473, R478): AON, HUB, HOST_PHY and every pile's
SW, X0 and X1 are ON; every other domain is OFF (log 1). Listed are the domains that are not ON. -/
def resetPower : SMap Nat :=
  (List.range 16).flatMap (fun n =>
    [1, 2, 3, 4, 5, 6, 7, 8, 9, 10, 11, 12, 15, 16, 17, 18].map (fun j =>
      ((⟨.PWR_STATE_STATE, 0, 0, 32 + 32 * n + j, 0⟩ : FKey).code, 2)))

/-- SW_STATUS.MODE of every pile: the boot ROM starts every switch on the bring-up page (R236, R478). -/
def resetModes : SMap Nat :=
  (List.range 16).map (fun n => ((⟨.SW_STATUS_MODE, n, 0, 0, 0⟩ : FKey).code, 1))

/-- PWR_STATE with every domain but AON OFF and its outputs held (R505, R553). -/
def downPower : SMap Nat :=
  let ds := [1, 2] ++ (List.range 16).flatMap (fun n => (List.range 19).map (fun j => 32 + 32 * n + j))
  ds.map (fun d => ((⟨.PWR_STATE_STATE, 0, 0, d, 0⟩ : FKey).code, 2)) ++
  ds.map (fun d => ((⟨.PWR_STATE_PAD_HELD, 0, 0, d, 0⟩ : FKey).code, 1))

/-- The device right after reset: the boot ROM has run stage 1 and waits for a bundle (log 1). Every field not named
stands at the value its register's table gives, memory lists nothing, and no command waits. -/
def State.reset : State :=
  { regs := resetModes ++ resetPower }

end Sys2Proof.Machine
end

