-- ==== Sys2Proof/Machine/Ops.lean ====
section
/-! DEFINITION. The named operations: every way in which the state may change (`Upd`), the sequences of them that a
command performs (`Act`), the accessors of registers and units, and the small actions that meanings are made of. -/

namespace Sys2Proof.Machine

/-! ## Register keys -/

/-- A device register's field. -/
def dk (f : Fld) (i : Nat := 0) : FKey := ⟨f, 0, 0, i, 0⟩
/-- A pile register's field. -/
def pk (f : Fld) (p : Nat) (i : Nat := 0) (j : Nat := 0) : FKey := ⟨f, p, 0, i, j⟩
/-- A physical tile register's field. -/
def tk (f : Fld) (p t : Nat) (i : Nat := 0) (j : Nat := 0) : FKey := ⟨f, p, t, i, j⟩

/-- The value of a register field: the one home of every field the tables give. -/
def State.rd (s : State) (k : FKey) : Nat := (SMap.find? s.regs k.code).getD k.f.spec.reset

/-- A field as a truth value. -/
def State.on (s : State) (k : FKey) : Bool := s.rd k != 0

/-! ## Units -/

def State.tile (s : State) (p t : Nat) : Tile := SMap.getD s.tiles (p * 9 + t) {}
/-- A tile's array: 0 FA, 1 BDA, 2 BWA. -/
def Tile.arr (x : Tile) (a : Nat) : Arr := if a = 0 then x.fa else if a = 1 then x.bda else x.bwa
/-- Output tiles of an operation: rows and columns of the tile grid (R93). -/
def ArrOp.tileRows (o : ArrOp) : Nat := (o.mb + 3) / 4
def ArrOp.tileCols (o : ArrOp) : Nat := (o.nb + 7) / 8
/-- The phase of a mover that waits for no domain. -/
def Tile.moverRests (x : Tile) : MvPhase := if x.begun = 0 then .idle else .moving
def State.pile (s : State) (p : Nat) : Pile := SMap.getD s.piles p {}
def State.port (s : State) (p k : Nat) : Port := SMap.getD s.ports (p * 2 + k) {}
def State.bridge (s : State) (p d : Nat) : Bridge := SMap.getD s.bridges (p * 4 + d) {}
def State.mailbox (s : State) (i : Nat) : Mailbox := SMap.getD s.mailboxes i {}
def State.session? (s : State) (id : Nat) : Option Session := s.sessions.find? (fun x => x.id == id)
def State.half? (s : State) (id : Nat) : Option HalfOpen := s.halfOpen.find? (fun x => x.id == id)

/-! ## Memory (log 6) -/

/-- Lines of a pile's DRAM (R12, R354). -/
def dramLines : Nat := 536870912
/-- Lines of a local store (R12). -/
def lsLines : Nat := 32768
/-- Lines of a pile buffer (R12). -/
def bufLines : Nat := 131072

/-- Lines of a space (R12). -/
def Space.lines : Space → Nat
  | .dram => dramLines
  | .buf => bufLines
  | .ls => lsLines

def dramAddr (p line : Nat) : Nat := p * 536870912 + line
/-- Enough samples of an ageing domain for a prediction (R406). -/
def agesEnough (d n : Nat) : Bool := if d < 160 then decide (14 ≤ n) else decide (1 ≤ n)

/-- Where a local store's or a pile buffer's line has its home. -/
def lsAddr (p t line : Nat) : Nat := (p * 9 + t) * 32768 + line
def bufAddr (p line : Nat) : Nat := 144 * 32768 + p * 131072 + line
/-- Number of lines in all local stores and pile buffers. -/
def sramLines : Nat := 144 * 32768 + 16 * 131072

/-- The unwritten word (R364): zero body, tag bytes 0xFF, a masked check field. -/
def unwritten : Codeword := ⟨0, BitVec.allOnes 128, 199951605756887883482279811993298518018⟩
/-- What an on-die line reads as that nothing has written since its domain went ON (R99, R500): poisoned. -/
def blankLine : Line := ⟨0, 0, true⟩

def State.dramWord (s : State) (a : Nat) : Codeword := SMap.getD s.dram a unwritten
def State.sramLine (s : State) (a : Nat) : Line := SMap.getD s.sram a blankLine

/-- Memory's canonical form: addresses strictly rise, lie inside the space, and hold nothing an unlisted address reads as. -/
def Memory.wf (s : State) : Bool :=
  SMap.canon unwritten s.dram && SMap.canon blankLine s.sram &&
  s.dram.all (fun kv => decide (kv.1 < 16 * 536870912)) && s.sram.all (fun kv => decide (kv.1 < sramLines))

/-! ## Every way the state may change -/

/-- One change of the state. -/
inductive Upd where
  | reg (k : FKey) (v : Nat)
  | clearRegs (which : Nat → Bool)
  | dram (a : Nat) (c : Codeword)
  | sram (a : Nat) (l : Line)
  | dropDram (p : Nat)
  | dropSram (lo n : Nat)
  | tile (p t : Nat) (v : Tile)
  | pile (p : Nat) (v : Pile)
  | port (p k : Nat) (v : Port)
  | bridge (p d : Nat) (v : Bridge)
  | hold (v : HoldSt)
  | openHalf (v : HalfOpen)
  | dropHalf (id : Nat)
  | openSession (v : Session)
  | setSession (v : Session)
  | dropSession (id : Nat)
  | mailbox (i : Nat) (v : Mailbox)
  | pushEvent (e : Event)
  | popEvent
  | lift (v : LiftSt)
  | job (v : Job)
  | fuse (b : Burn)
  | sec (v : SecSt)
  | boot (v : BootSt)
  | pwr (v : PwrSt)
  | tap (v : TapSt)
  | tbLoaded (v : Bool)
  | out (o : Out)
  | draw (n : Nat)
  | restart (up : Bool)

/-- Set bits `w` at word `k` of a fuse field (R528: a burned bit stays burned). -/
def orWord (f : BitVec 512) (k : Nat) (w : BitVec 32) : BitVec 512 := f ||| ((w.setWidth 512) <<< (32 * (k % 16)))

/-- Number of set bits. -/
def popcount (n v : Nat) : Nat := ((List.range n).filter (fun i => v.testBit i)).length

/-- The lowest clear bit set: the next bit of SV_COUNT burned (R534). -/
def svNext (b : BitVec 64) : BitVec 64 := b ||| (b + 1)

/-- A burn's effect on the fuses; the field bank holds 2,048 entries (R491) and keeps an entry once (R495). -/
def Fuses.burn (f : Fuses) : Burn → Fuses
  | .sv => { f with sv := svNext f.sv }
  | .ownerKey k w => { f with ownerKey := orWord f.ownerKey k w }
  | .ownerHost k w => { f with ownerHost := orWord f.ownerHost k w }
  | .ownerOk => { f with ownerOk := BitVec.allOnes 32 }
  | .hostOk => { f with hostOk := BitVec.allOnes 32 }
  | .entry w => if f.field.contains w || decide (2048 ≤ f.field.length) then f else { f with field := f.field ++ [w] }

/-- The state with one register field written: its value clipped to its width, not listed where it equals the reset. -/
def State.setReg (s : State) (k : FKey) (v : Nat) : State :=
  let w := clipTo k.f.width v
  { s with regs := SMap.set s.regs k.code (if w = k.f.spec.reset then none else some w) }

/-- The field number, pile, tile and first index in a field's code. -/
def codeFld (c : Nat) : Nat := c / 2147483648
def codePile (c : Nat) : Nat := c / 134217728 % 16
def codeTile (c : Nat) : Nat := c / 8388608 % 16
def codeIdx (c : Nat) : Nat := c / 64 % 131072

/-- Fields that the AON island keeps through every reset and trip (R498, R524, R525, R553, R562). -/
def aonFlds : List Fld := [
  .BR_TIME, .THERM_STATUS_ALERT_ON, .THERM_STATUS_TRIPPED, .WAKE_CTL_PIN_EN, .WAKE_CTL_DETECT_EN,
  .WAKE_LATCH_PIN, .WAKE_LATCH_DETECT, .WAKE_LATCH_REPLAYED,
  .PIN_STATUS_PWR_GOOD, .PIN_STATUS_RESET_N, .PIN_STATUS_WAKE, .PIN_STATUS_UV_TRIP, .PIN_STATUS_UV_RAIL,
  .PIN_STATUS_XTAL_OK, .PIN_STATUS_FREF_OK, .PIN_STATUS_HREF_OK]

/-- The device restarted: what the AON island and the fuses hold is kept, and everything else is as after reset, with power as
`base` lists it (R553). Commands that wait, what was sent and the count of free values are the model's own and stay. -/
def State.restart (s : State) (base : SMap Nat) : State :=
  { State.reset with
    pending := s.pending, out := s.out, free := s.free, fuses := s.fuses, boot := { State.reset.boot with fieldSeen := s.fuses.field.length }
    pwr := { pinWake := s.pwr.pinWake }
    regs := (s.regs.filter (fun kv => aonFlds.any (fun f => f.ctorIdx == codeFld kv.1))).foldl
      (fun m kv => SMap.set m kv.1 (some kv.2)) base }

/-- One change applied. Limits that the spec sets on a collection hold here: 16 half-open and four open sessions (R428,
R430), 256 queued events (R444). -/
def Upd.apply (u : Upd) (s : State) : State :=
  match u with
  | .reg k v => s.setReg k v
  | .clearRegs w => { s with regs := SMap.dropKeys s.regs w }
  | .dram a c => if a < 16 * 536870912 then { s with dram := SMap.put unwritten s.dram a c } else s
  | .sram a l => if a < sramLines then { s with sram := SMap.put blankLine s.sram a l } else s
  | .dropDram p => { s with dram := SMap.dropKeys s.dram (fun a => a / 536870912 == p) }
  | .dropSram lo n => { s with sram := SMap.dropKeys s.sram (fun a => decide (lo ≤ a ∧ a < lo + n)) }
  | .tile p t v => { s with tiles := SMap.put {} s.tiles (p * 9 + t) v }
  | .pile p v => { s with piles := SMap.put {} s.piles p v }
  | .port p k v => { s with ports := SMap.put {} s.ports (p * 2 + k) v }
  | .bridge p d v => { s with bridges := SMap.put {} s.bridges (p * 4 + d) v }
  | .hold v => { s with hold := v }
  | .openHalf v => if s.halfOpen.length < 16 then { s with halfOpen := s.halfOpen ++ [v] } else s
  | .dropHalf id => { s with halfOpen := s.halfOpen.filter (fun h => h.id != id) }
  | .openSession v => if s.sessions.length < 4 then { s with sessions := s.sessions ++ [v] } else s
  | .setSession v => { s with sessions := s.sessions.map (fun x => if x.id == v.id then v else x) }
  | .dropSession id => { s with sessions := s.sessions.filter (fun x => x.id != id) }
  | .mailbox i v => { s with mailboxes := SMap.put {} s.mailboxes i v }
  | .pushEvent e => if s.events.length < 256 then { s with events := s.events ++ [e] } else s
  | .popEvent => { s with events := s.events.tail }
  | .lift v => { s with lift := v }
  | .job v => { s with job := v }
  | .fuse b => { s with fuses := s.fuses.burn b }
  | .sec v => { s with sec := v }
  | .boot v => { s with boot := v }
  | .pwr v => { s with pwr := v }
  | .tap v => { s with tap := v }
  | .tbLoaded v => { s with tbLoaded := v }
  | .out o => { s with out := s.out ++ [o] }
  | .draw n => { s with free := s.free + n }
  | .restart up => s.restart (if up then resetModes ++ resetPower else downPower)

/-! ## Actions -/

/-- What a command does: nothing more, one change and then the rest, or something that depends on the state reached. -/
inductive Act where
  | done
  | upd (u : Upd) (k : Act)
  | ask (f : State → Act)

/-- The state an action leaves. -/
def Act.run : Act → State → State
  | .done, s => s
  | .upd u k, s => k.run (u.apply s)
  | .ask f, s => (f s).run s

/-- One action and then another. -/
def Act.seq : Act → Act → Act
  | .done, b => b
  | .upd u k, b => .upd u (k.seq b)
  | .ask f, b => .ask (fun s => (f s).seq b)

/-- Actions in order. -/
def Act.all : List Act → Act
  | [] => .done
  | a :: r => a.seq (Act.all r)

/-- An action for each element of a list, in order. -/
def Act.each {α : Type} (xs : List α) (f : α → Act) : Act := Act.all (xs.map f)

/-- An action under a condition. -/
def Act.when (c : Bool) (a : Act) : Act := if c then a else .done

/-- The outcome of a meaning: every command ends in a next state. -/
def Act.answer (a : Act) (s : State) : Host.Outcome State Fault Refusal := .next (a.run s)

/-! ## Small actions -/

def emit (u : Upd) : Act := .upd u .done
def setR (k : FKey) (v : Nat) : Act := emit (.reg k v)
def setB (k : FKey) (v : Bool) : Act := emit (.reg k (if v then 1 else 0))
def send (o : Out) : Act := emit (.out o)

/-- Raise a counter: a 32-bit counter, or a narrower one, stops at all ones; a 64-bit counter wraps (log 22). -/
def bump (k : FKey) (n : Nat := 1) : Act :=
  .ask fun s => setR k (if k.f.width < 64 then min (s.rd k + n) (2 ^ k.f.width - 1) else s.rd k + n)

/-- A free value (log 4), and the rest with it. -/
def withFree (k : Nat → Act) : Act := .ask fun s => .upd (.draw 1) (k (Config.freeValue s.free).toNat)

def modTile (p t : Nat) (f : Tile → Tile) : Act := .ask fun s => emit (.tile p t (f (s.tile p t)))
def modPile (p : Nat) (f : Pile → Pile) : Act := .ask fun s => emit (.pile p (f (s.pile p)))
def modGate (p : Nat) (f : GateSt → GateSt) : Act := modPile p (fun x => { x with gate := f x.gate })
def modSw (p : Nat) (f : SwSt → SwSt) : Act := modPile p (fun x => { x with sw := f x.sw })
def modRue (p : Nat) (f : RueSt → RueSt) : Act := modPile p (fun x => { x with rue := f x.rue })
def modMem (p : Nat) (f : MemSt → MemSt) : Act := modPile p (fun x => { x with mem := f x.mem })
def modFlt (p : Nat) (f : FltSt → FltSt) : Act := modPile p (fun x => { x with flt := f x.flt })
def modPort (p k : Nat) (f : Port → Port) : Act := .ask fun s => emit (.port p k (f (s.port p k)))
def modBridge (p d : Nat) (f : Bridge → Bridge) : Act := .ask fun s => emit (.bridge p d (f (s.bridge p d)))
def modMb (i : Nat) (f : Mailbox → Mailbox) : Act := .ask fun s => emit (.mailbox i (f (s.mailbox i)))
def modLift (f : LiftSt → LiftSt) : Act := .ask fun s => emit (.lift (f s.lift))
def modJob (f : Job → Job) : Act := .ask fun s => emit (.job (f s.job))
def modSec (f : SecSt → SecSt) : Act := .ask fun s => emit (.sec (f s.sec))
def modBoot (f : BootSt → BootSt) : Act := .ask fun s => emit (.boot (f s.boot))
def modPwr (f : PwrSt → PwrSt) : Act := .ask fun s => emit (.pwr (f s.pwr))
def modHold (f : HoldSt → HoldSt) : Act := .ask fun s => emit (.hold (f s.hold))
/-- Change an open session; nothing where none has the identifier. -/
def modSession (id : Nat) (f : Session → Session) : Act :=
  .ask fun s => match s.session? id with
    | some x => emit (.setSession { f x with id := x.id })
    | none => .done

/-! ## Shared readings -/

/-- Job state codes (R454). -/
def jsNone : Nat := 0
def jsLoaded : Nat := 1
def jsStarting : Nat := 2
def jsRunning : Nat := 3
def jsHalted : Nat := 4
def jsAborting : Nat := 5
def jsStopped : Nat := 6

def State.jobState (s : State) : Nat := s.rd (dk .JOB_STATE_STATE)
/-- A job is loaded in every state except NONE (R454). -/
def State.jobLoaded (s : State) : Bool := s.jobState != jsNone
/-- A job is started in STARTING, RUNNING and HALTED (R454). -/
def State.jobStarted (s : State) : Bool := s.jobState == jsStarting || s.jobState == jsRunning || s.jobState == jsHalted
def State.step (s : State) : Nat := s.rd (dk .TB_STEP)
def State.image (s : State) : Option Image := s.job.image
/-- Whether the loaded image uses a pile. -/
def State.usesPile (s : State) (p : Nat) : Bool := match s.job.image with
  | some i => i.pileMask.getLsbD p
  | none => false
/-- The piles of PILE_MASK, lowest first. -/
def State.usedPiles (s : State) : List Nat := (List.range 16).filter s.usesPile
/-- The device's number in the domain; 0xFFFF before DOMAIN_SET (R467). -/
def State.deviceNo (s : State) : Nat := match s.job.domain with
  | some d => d.1
  | none => 0xFFFF
/-- The physical tile of a logical tile (R14, R411). -/
def State.physOf (s : State) (p j : Nat) : Nat := (s.rd (pk .FLT_STATUS_MAP p) >>> (4 * j)) % 16
/-- The logical tile that a physical tile runs, if any. -/
def State.logOf (s : State) (p t : Nat) : Option Nat := (List.range 8).find? (fun j => s.physOf p j == t)

/-- Domain indices (R500). -/
def domSw (p : Nat) : Nat := 32 + 32 * p
def domCtl (p : Nat) : Nat := 33 + 32 * p
def domTile (p t : Nat) : Nat := 34 + 32 * p + t
def domBuf (p : Nat) : Nat := 43 + 32 * p
def domMem (p : Nat) : Nat := 44 + 32 * p
def domX (p k : Nat) : Nat := 45 + 32 * p + k
def domB (p d : Nat) : Nat := 47 + 32 * p + d

/-- A domain's state: 0 ON, 1 RET, 2 OFF (R520). -/
def State.power (s : State) (d : Nat) : Nat := s.rd (dk .PWR_STATE_STATE d)
/-- A domain is ON and not in transition. -/
def State.ready (s : State) (d : Nat) : Bool :=
  s.power d == 0 && !s.on (dk .PWR_STATE_ENTERING d) && !s.on (dk .PWR_STATE_WAKING d) && !s.on (dk .PWR_STATE_PAD_HELD d)
def State.dom (s : State) (d : Nat) : DomSt := SMap.getD s.pwr.doms d {}
def modDom (d : Nat) (f : DomSt → DomSt) : Act :=
  modPwr (fun x => { x with doms := SMap.put {} x.doms d (f (SMap.getD x.doms d {})) })

/-- Whether a pile has a bridge on a side (R11): 0 N, 1 E, 2 S, 3 W in the 4 by 4 mesh. -/
def bridgePresent (p d : Nat) : Bool :=
  if d = 0 then decide (4 ≤ p) else if d = 1 then p % 4 != 3 else if d = 2 then decide (p < 12) else p % 4 != 0

/-- The bridge end that a bridge end joins (R211): N to the S of the pile above, E to the W of the next, and back. -/
def farBridge (p d : Nat) : Nat × Nat :=
  if d = 0 then (p - 4, 2) else if d = 1 then (p + 1, 3) else if d = 2 then (p + 4, 0) else (p - 1, 1)

/-- Block checking in force on a pile (R394, R411). -/
def State.checking (s : State) (p : Nat) : Bool := s.on (pk .FLT_STATUS_BLOCK_CHECKING p)

/-- Bytes of a list of numbers, and back. -/
def toBytes (ns : List Nat) : Bytes := ns.map (fun n => BitVec.ofNat 8 n)
def ofBytes (bs : Bytes) : List Nat := bs.map BitVec.toNat
/-- A number from little-endian bytes, or from big-endian ones. -/
def natLE (bs : Bytes) : Nat := ofLE (ofBytes bs)
def natBE (bs : Bytes) : Nat := ofBE (ofBytes bs)
/-- The n bytes of a list from an offset, zero where the list ends. -/
def bytesAt (bs : Bytes) (off n : Nat) : Bytes := (List.range n).map (fun i => bs.getD (off + i) 0)
/-- A signed 16-bit value in units of 1/16 as a register field holds it. -/
def signed16 (v : Int) : Nat := (v % 65536).toNat

end Sys2Proof.Machine
end

