-- ==== Sys2Proof/Machine/Lift.lean ====
section
/-! DEFINITION. Lift as every command uses it (R421-R448): message bytes and tags, receiving and ordering, sending and
acknowledging, events on MB00, mailboxes, requests and replies. -/

namespace Sys2Proof.Machine

/-! ## Messages -/

def tyHello : Nat := 0x01
def tyAccept : Nat := 0x02
def tyConfirm : Nat := 0x03
def tyReject : Nat := 0x04
def tyRequest : Nat := 0x10
def tyReply : Nat := 0x11
def tyEvent : Nat := 0x12
def tyEventAck : Nat := 0x13
def tyMbRefused : Nat := 0x14
def tyBulk : Nat := 0x20
def tyAckOnly : Nat := 0x30
def tyClose : Nat := 0x31
def tyKeepalive : Nat := 0x32

/-- The 48 bytes of a header (R422), big-endian (R3). -/
def msgHeader (m : LiftMsg) : List Nat :=
  bytesBE 2 m.magic ++ [m.version % 256, m.type % 256] ++ bytesBE 4 m.session ++ bytesBE 8 m.seq ++ bytesBE 8 m.ack ++
  bytesBE 8 m.sack.toNat ++ bytesBE 8 m.credit ++ [m.mailbox % 256, m.flags % 256] ++ bytesBE 2 m.length ++ bytesBE 4 m.rsvd

/-- TAG: the first 16 bytes of HMAC-SHA-512 over header and payload (R429). -/
def msgTag (key : Bytes) (m : LiftMsg) : Bytes :=
  toBytes ((hmac512 (ofBytes key) (msgHeader m ++ ofBytes m.payload)).take 16)

/-- TYPE values that a host message may have (R423). -/
def hostTypes : List Nat := [0x01, 0x03, 0x10, 0x13, 0x20, 0x30, 0x31, 0x32]

/-- A header that keeps R422 and R423; reserved bits are ignored (R5). A REQUEST names a mailbox. -/
def headerOk (m : LiftMsg) : Bool :=
  m.magic == 0x4C46 && m.version == 1 && hostTypes.contains m.type &&
  (decide (m.mailbox ≤ 63) || (m.mailbox == 0xFF && m.type != tyRequest)) && decide (m.length ≤ 8216) && m.length == m.payload.length

/-- Bytes of the IP datagram that carries a message (R436): h is 40 for IPv6 and 20 for IPv4, UDP takes 8. -/
def datagramBytes (m : LiftMsg) : Nat := (if m.v6 then 40 else 20) + 8 + 48 + m.length + m.tag.length

/-! ## Receiving -/

/-- Whether the host port carries frames: HUB and HOST_PHY ready and the link UP (R450, R500). -/
def State.hostUp (s : State) : Bool := s.ready 1 && s.ready 2 && s.rd (dk .HP_STATUS_STATE) == 3

/-- The MTU that holds for a message: its session's, or for one of no open session the one set last (R420). -/
def State.mtuFor (s : State) (m : LiftMsg) : Nat := match s.session? m.session with
  | some x => x.ipMtu
  | none => s.lift.mtu

/-- The VLAN tag that the port sends with: VID and PCP, none with VID 0 (R419). -/
def State.vlan (s : State) : Option (Nat × Nat) :=
  if s.rd (dk .HP_CTL_VID) = 0 then none else some (s.rd (dk .HP_CTL_VID), s.rd (dk .HP_CTL_PCP))

/-- A message as it leaves, tagged where the port tags (R419). -/
def State.tagged (s : State) (m : LiftMsg) : LiftMsg := match s.vlan with
  | some v => { m with vid := some v.1, pcp := v.2 }
  | none => m

/-- A frame's VLAN is one that the port accepts (R419). -/
def State.vlanOk (s : State) (vid : Option Nat) : Bool := s.rd (dk .HP_CTL_VID) == 0 || vid == some (s.rd (dk .HP_CTL_VID))

/-- A UDP port that the device accepts: the configured one, or the one a session opened under (R420, R451). -/
def State.udpOk (s : State) (m : LiftMsg) : Bool :=
  m.port == s.rd (dk .LIFT_CTL_UDP_PORT) || s.sessions.any (fun x => x.id == m.session && x.port == m.port)

/-- A frame that carries a Lift message reaches the port (R419, R420): counted, then discarded if its VLAN or size is not one the port
accepts, if it is a fragment, or if its protocol or UDP port is another. With the link down no frame arrives (log 17). -/
def onFrame (m : LiftMsg) (k : Act) : Act :=
  .ask fun s =>
    if !s.hostUp then .done
    else (bump (dk .HP_RX_FRAMES)).seq
      (if !s.vlanOk m.vid then .done
       else if s.mtuFor m < datagramBytes m then bump (dk .HP_RX_OVERSIZE)
       else if m.frag || !m.udp || !s.udpOk m then bump (dk .HP_RX_DISCARD)
       else k)

/-- The lowest SEQ at or above `n` that is not held. -/
def ackFrom (held : List Early) : Nat → Nat → Nat
  | 0, n => n
  | k + 1, n => if held.any (fun h => h.seq == n) then ackFrom held k (n + 1) else n

/-- A session's share of the 4 MiB window, in multiples of 8 KiB (R434; log 26): equal parts among the sessions with a
transfer open and this one. -/
def State.windowShare (s : State) (id : Nat) : Nat :=
  let n := (s.sessions.filter (fun x => x.id == id || !x.xfers.isEmpty)).length
  4194304 / max n 1 / 8192 * 8192

/-- The next SEQ the session expects: the lowest not received (R422). -/
def nextExpected (x : Session) : Nat := ackFrom x.held (x.held.length + 1) x.dlv

/-- SACK_MAP: bit k is message ACK + 1 + k (R422). -/
def sackMap (x : Session) : BitVec 64 :=
  BitVec.ofNat 64 ((List.range 64).foldl (fun a k =>
    if x.held.any (fun h => h.seq == nextExpected x + 1 + k) then a + 2 ^ k else a) 0)

/-- A message of the device's in a session, with its TAG. -/
def sessionMsg (x : Session) (type seq mb flags : Nat) (payload : Bytes) : LiftMsg :=
  let m : LiftMsg :=
    { src := x.src, v6 := x.v6, port := x.port, type := type, session := x.id, seq := seq
      ack := nextExpected x, sack := sackMap x, credit := x.granted, mailbox := mb, flags := flags
      length := payload.length, payload := payload }
  { m with tag := msgTag x.kOut m }

/-- A frame leaves while the link is up; one that cannot is sent again by retransmission (R432). -/
def sendFrame (dst : Nat) (m : LiftMsg) : Act :=
  .ask fun s => if s.hostUp then (bump (dk .HP_TX_FRAMES)).seq (send (.lift dst (s.tagged m))) else .done

/-- Bring the limit the session grants up to date (R434): it never falls (log 26). -/
def grant (id : Nat) : Act :=
  .ask fun s => modSession id (fun x => { x with granted := max x.granted (x.disposed + s.windowShare id) })

/-- Send an unsequenced message of a session: it carries the next unused SEQ (R423). -/
def sendPlain (id type : Nat) : Act :=
  (grant id).seq (.ask fun s => match s.session? id with
    | some x => sendFrame x.src (sessionMsg x type x.txNext 0xFF 0 [])
    | none => .done)

/-- Sequenced messages of types other than BULK_DATA that are unacknowledged (R433). -/
def unackedOther (x : Session) : Nat := (x.unacked.filter (fun u => u.msg.type != tyBulk)).length

/-- Send a sequenced message now. -/
def transmit (id type mb : Nat) (payload : Bytes) : Act :=
  (grant id).seq (.ask fun s => match s.session? id with
    | some x =>
      let m := sessionMsg x type x.txNext mb 0 payload
      (modSession id (fun y => { y with txNext := y.txNext + 1, unacked := y.unacked ++ [⟨m.seq, m, 0⟩] })).seq
        (sendFrame x.src m)
    | none => .done)

/-- Send a sequenced message, or hold it while 256 are unacknowledged (R433). -/
def sendSeq (id type mb : Nat) (payload : Bytes) : Act :=
  .ask fun s => match s.session? id with
    | some x =>
      if 256 ≤ unackedOther x ∨ ¬ x.waiting.isEmpty then
        modSession id (fun y => { y with waiting := y.waiting ++
          [{ src := y.src, type := type, session := id, seq := 0, mailbox := mb, length := payload.length, payload := payload }] })
      else transmit id type mb payload
    | none => .done

/-- Messages held under R433 go out while there is room. -/
def flushWaiting (id : Nat) : Nat → Act
  | 0 => .done
  | n + 1 => .ask fun s => match s.session? id with
    | some x => match x.waiting with
      | m :: r =>
        if unackedOther x < 256 then
          ((modSession id (fun y => { y with waiting := r })).seq (transmit id m.type m.mailbox m.payload)).seq
            (flushWaiting id n)
        else .done
      | [] => .done
    | none => .done

/-- Send a message again with RETX and its SEQ (R432). -/
def resend (id seq : Nat) : Act :=
  (grant id).seq (.ask fun s => match s.session? id with
    | some x => match x.unacked.find? (fun u => u.seq == seq) with
      | some u =>
        Act.all [
          modSession id (fun y => { y with unacked := y.unacked.map (fun v =>
            if v.seq == seq then { v with tries := v.tries + 1 } else v) }),
          bump (dk .LIFT_RETX),
          sendFrame x.src (sessionMsg x u.msg.type seq u.msg.mailbox 1 u.msg.payload)]
      | none => .done
    | none => .done)

/-! ## Events (R444, R467) -/

/-- An event record's 64 bytes. -/
def eventBytes (e : Event) : Bytes :=
  toBytes ((bytesLE 8 e.number ++ bytesLE 2 e.code ++ bytesLE 2 e.device ++ [e.pile % 256, 0, 0, 0] ++ bytesLE 8 e.step ++
    bytesLE 8 e.uptime ++ ofBytes e.payload ++ List.replicate 32 0).take 64)

/-- Give the outstanding event to the session that holds MB00. -/
def sendEvent : Act :=
  .ask fun s => match s.lift.mb00Ses, s.lift.outEvt with
    | some id, some e => sendSeq id tyEvent 0 (eventBytes e)
    | _, _ => .done

/-- Queue an event, or send it where nothing is outstanding and MB00 is held; with the queue full it is lost. UPTIME is a
free value (log 5). -/
def raiseEvent (code pile : Nat) (payload : List Nat) : Act :=
  withFree fun up => .ask fun s =>
    let e : Event := ⟨s.lift.lastNum + 1, code, s.deviceNo, pile, if s.jobLoaded then s.step else 0, up, toBytes payload⟩
    if s.lift.outEvt.isNone && s.events.isEmpty && s.lift.mb00Ses.isSome then
      (modLift (fun l => { l with lastNum := l.lastNum + 1, outEvt := some e })).seq sendEvent
    else if s.events.length < 256 then
      (modLift (fun l => { l with lastNum := l.lastNum + 1 })).seq (emit (.pushEvent e))
    else (bump (dk .EVT_LOST)).seq (modLift (fun l => { l with lost := l.lost + 1 }))

/-- Send the next queued event when nothing is outstanding; the space that frees takes an event-lost event after losses. -/
def nextEvent : Act :=
  .ask fun s => match s.lift.outEvt, s.lift.mb00Ses, s.events with
    | none, some _, e :: _ =>
      Act.all [emit .popEvent, modLift (fun l => { l with outEvt := some e }), sendEvent,
        if s.lift.lost = 0 then .done
        else withFree fun up => .ask fun t =>
          (emit (.pushEvent ⟨t.lift.lastNum + 1, 1, t.deviceNo, 0xFF, if t.jobLoaded then t.step else 0, up,
            toBytes (bytesLE 4 t.lift.lost)⟩)).seq
          (modLift (fun l => { l with lastNum := l.lastNum + 1, lost := 0 }))]
    | _, _, _ => .done

/-! ## Status codes (R455) -/

def stOk : Nat := 0
def stUnsync : Nat := 1
def stNotReady : Nat := 2
def stStale : Nat := 3
def stBadCommand : Nat := 0x100
def stBadLength : Nat := 0x101
def stBadParam : Nat := 0x102
def stNoObject : Nat := 0x103
def stWrongState : Nat := 0x104
def stBadRange : Nat := 0x105
def stBadValue : Nat := 0x106
def stAboveMax : Nat := 0x107
def stInUse : Nat := 0x108
def stBusy : Nat := 0x109
def stBankClosed : Nat := 0x10A
def stNotInput : Nat := 0x10B
def stNotRoot : Nat := 0x10C
def stNotAligned : Nat := 0x10D
def stImageRefused : Nat := 0x110
def stBundleRefused : Nat := 0x111
def stAuthFailed : Nat := 0x112
def stAborted : Nat := 0x120
def stAborting : Nat := 0x121

/-! ## Mailboxes and replies (R439-R443) -/

/-- The session that a request's reply goes to: its own, or another open one of the same host key (R441). -/
def State.replySession (s : State) (r : Req) : Option Session :=
  match s.session? r.session with
  | some x => if x.host = r.hostKey then some x else s.sessions.find? (fun y => y.host == r.hostKey)
  | none => s.sessions.find? (fun y => y.host == r.hostKey)

/-- ABORT's command code (R457). -/
def abortCode : Nat := 0x0044

/-- A mailbox with one request fewer outstanding. -/
def Mailbox.less (b : Mailbox) (r : Req) : Mailbox :=
  { b with busy := b.busy - 1, aborts := if r.cmd = abortCode then b.aborts - 1 else b.aborts }

/-- Hand a reply's payload to a mailbox: it is sent where a session of its owner is open, and kept until it is acknowledged
(R440, R441). A reply to a mailbox whose time ran out is dropped, and the mailbox is then free. -/
def postReply (r : Req) (payload : Bytes) : Act :=
  .ask fun s => match s.replySession r with
    | some x =>
      (modMb r.mb (fun b => { b.less r with st := .done, replies := b.replies ++ [payload] })).seq (sendSeq x.id tyReply r.mb payload)
    | none =>
      if (s.mailbox r.mb).expired then modMb r.mb (fun b => if b.busy ≤ 1 then {} else b.less r)
      else modMb r.mb (fun b => { b.less r with st := .done, replies := b.replies ++ [payload] })

/-- A reply's payload: the 16-B header and the data (R439). -/
def replyBytes (r : Req) (status detail : Nat) (data : List Nat) : Bytes :=
  toBytes (bytesBE 2 r.cmd ++ bytesBE 2 r.tag ++ bytesBE 2 status ++ [0, 0] ++ bytesBE 4 data.length ++ bytesBE 4 detail ++ data)

/-- The ABORT replies that waited go out once no other request is outstanding on the mailbox (R443). -/
def flushDeferred (r : Req) : Act :=
  .ask fun s => if (s.mailbox r.mb).busy = (s.mailbox r.mb).aborts then
    Act.each (s.mailbox r.mb).deferred (fun d =>
      (modMb r.mb (fun b => { b with deferred := b.deferred.tail })).seq (postReply { r with cmd := abortCode } d))
  else .done

/-- Reply to a request (R439); an ABORT's reply follows any reply outstanding on the same mailbox (R443). -/
def reply (r : Req) (status : Nat) (detail : Nat := 0) (data : List Nat := []) : Act :=
  (if r.cmd = abortCode then modMb r.mb (fun b => { b with deferred := b.deferred ++ [replyBytes r status detail data] })
   else postReply r (replyBytes r status detail data)).seq (flushDeferred r)

/-- A reply was acknowledged: the mailbox is IDLE once nothing is outstanding (R440); a mailbox of a key whose session has
ended and whose time ran out is free. -/
def replyAcked (i : Nat) : Act :=
  modMb i (fun b =>
    let rs := b.replies.tail
    { b with replies := rs, st := if !rs.isEmpty then .done else if b.busy = 0 then .idle else .busy })

/-! ## Ending a session (R430, R441) -/

/-- Another open session of a host key takes over what an ended one left (R441; log 149): MB00, and the replies that were not
acknowledged, in their order. -/
def takeOver (x y : Session) : Act := Act.all [
  .ask fun s => Act.when (s.lift.mb00 == some x.host && s.lift.mb00Ses.isNone)
    ((modLift (fun l => { l with mb00Ses := some y.id })).seq sendEvent),
  Act.each ((x.unacked.map Unacked.msg ++ x.waiting).filter (fun m => m.type == tyReply))
    (fun m => sendSeq y.id tyReply m.mailbox m.payload)]

/-- A session ends: its mailboxes and MB00 are held for its key, or pass to another open session of the key, and its transfers go no
further: their requests end ABORTED with the lines moved (log 149). -/
def endSession (id : Nat) : Act :=
  .ask fun s => match s.session? id with
    | none => .done
    | some x =>
      Act.all [
        emit (.dropSession id),
        Act.when (s.lift.mb00Ses == some id) (modLift (fun l => { l with mb00Ses := none })),
        (match s.sessions.find? (fun y => y.host == x.host && y.id != id) with
         | some y => takeOver x y
         | none => .done),
        Act.each (x.xfers.filter (fun t => !t.drop)) (fun t => reply t.req stAborted t.next)]

/-! ## Acknowledgements (R432) -/

/-- Whether a header acknowledges a SEQ. -/
def acks (m : LiftMsg) (seq : Nat) : Bool :=
  decide (seq < m.ack) || (decide (m.ack + 1 ≤ seq) && m.sack.getLsbD (seq - m.ack - 1))

/-- How many later messages a header's SACK_MAP marks. -/
def laterMarked (m : LiftMsg) (seq : Nat) : Nat :=
  ((List.range 64).filter (fun k => m.sack.getLsbD k && decide (seq < m.ack + 1 + k))).length

/-- What an authenticated header's acknowledgements do: release messages and their mailboxes, take the host's limit, send
again what three later messages passed, and let waiting messages go. -/
def takeAcks (id : Nat) (m : LiftMsg) : Act :=
  .ask fun s => match s.session? id with
    | none => .done
    | some x =>
      let gone := x.unacked.filter (fun u => acks m u.seq)
      let left := x.unacked.filter (fun u => !acks m u.seq)
      Act.all [
        modSession id (fun y => { y with src := m.src, v6 := m.v6, unacked := left, hostLim := max y.hostLim m.credit }),
        Act.each gone (fun u => if u.msg.type = tyReply then replyAcked u.msg.mailbox else .done),
        Act.each (left.filter (fun u => decide (3 ≤ laterMarked m u.seq))) (fun u => resend id u.seq),
        flushWaiting id x.waiting.length,
        Act.when (gone.any (fun u => u.msg.type == tyClose)) (endSession id)]

/-! ## Authenticated messages -/

/-- A message of an open session with a good header and TAG (R429); any other is discarded and counted. -/
def heardIn (m : LiftMsg) (k : Nat → Act) : Act :=
  .ask fun s => match s.session? m.session with
    | some x => if headerOk m && m.tag == msgTag x.kIn m then (takeAcks x.id m).seq (k x.id) else bump (dk .LIFT_MAC_FAIL)
    | none => bump (dk .LIFT_MAC_FAIL)

/-- The same, of a frame that reaches the port. -/
def authed (m : LiftMsg) (k : Nat → Act) : Act := onFrame m (heardIn m k)

/-- The next message in SEQ order is delivered. -/
def inTurn (id bulk : Nat) : Act :=
  modSession id (fun y => { y with dlv := y.dlv + 1, recv := y.recv + bulk, held := y.held.filter (fun h => h.seq != y.dlv) })

/-- Bulk bytes of a session before a SEQ, as far as they have come (R434). -/
def Session.bulkBefore (x : Session) (seq : Nat) : Nat :=
  x.recv + ((x.held.filter (fun h => decide (h.seq < seq))).map Early.bulk).sum

/-- A sequenced message in SEQ order (R431): delivered when its turn comes; held when early, up to 4,095 ahead; a duplicate
is counted. A message held earlier, which `LiftSt.due` marks, has been received and acknowledged, and is delivered now.
`row` is its row, and `bulk` the bulk payload it carries, which counts in SEQ order (R434). -/
def sequenced (m : LiftMsg) (row : Instr) (bulk : Nat) (k : Nat → Act) : Act :=
  .ask fun u =>
    if u.lift.due then Act.all [modLift (fun l => { l with due := false }), inTurn m.session bulk, k m.session]
    else authed m fun id => .ask fun s => match s.session? id with
      | none => .done
      | some x =>
        if m.seq < x.dlv ∨ x.held.any (fun h => h.seq == m.seq) = true then (bump (dk .LIFT_DUP)).seq (sendPlain id tyAckOnly)
        else if nextExpected x + 4095 < m.seq then .done
        else if 0 < bulk ∧ x.granted < x.bulkBefore m.seq + bulk then bump (dk .LIFT_CREDIT_VIOL)
        else if m.seq = x.dlv then Act.all [inTurn id bulk, sendPlain id tyAckOnly, k id]
        else (modSession id (fun y => { y with held := y.held ++ [⟨m.seq, bulk, row⟩] })).seq (sendPlain id tyAckOnly)

/-! ## Requests -/

/-- COMMAND, HOST_TAG and PARAM_LEN of a request's payload (R439). -/
def reqCommand (m : LiftMsg) : Nat := natBE (bytesAt m.payload 0 2)
def reqTag (m : LiftMsg) : Nat := natBE (bytesAt m.payload 2 2)
def reqParamLen (m : LiftMsg) : Nat := natBE (bytesAt m.payload 4 4)

/-- The commands of a boot-ROM session (R427, R457). -/
def bootCommands : List Nat := [0x0002, 0x0003, 0x0004]

/-- Refuse a request at its mailbox (R440). -/
def mbRefuse (id : Nat) (m : LiftMsg) (reason : Nat) : Act :=
  (bump (dk .LIFT_MB_REFUSED)).seq
    (sendSeq id tyMbRefused m.mailbox (toBytes (bytesBE 8 m.seq ++ bytesBE 4 reason)))

/-- A request delivered to its mailbox: refused where the mailbox cannot take it, else the mailbox is BUSY and the
command starts. A request that its mailbox took earlier and that waited, which `LiftSt.again` marks, goes on. -/
def requestAny (m : LiftMsg) (row : Instr) (k : Req → Act) : Act :=
  .ask fun u => match u.lift.again with
    | some r => (modLift (fun l => { l with again := none })).seq (k r)
    | none => sequenced m row 0 fun id => .ask fun s => match s.session? id with
      | none => .done
      | some x =>
        let b := s.mailbox m.mailbox
        let code := reqCommand m
        if m.mailbox = 0 then mbRefuse id m 3
        else if b.owner.isSome ∧ b.owner ≠ some x.host then mbRefuse id m 2
        else if b.st ≠ .idle ∧ code ≠ abortCode then mbRefuse id m 1
        else if x.boot ∧ ¬ bootCommands.contains code then mbRefuse id m 4
        else
          (modMb m.mailbox (fun b => { b with
            owner := some x.host, st := .busy, busy := b.busy + 1, aborts := b.aborts + (if code = abortCode then 1 else 0) })).seq
            (k ⟨id, x.host, m.mailbox, code, reqTag m⟩)

/-- A request waits, with its row: for an earlier one on the same lines (R442), or for a domain to wake (R502). -/
def park (r : Req) (c : Instr) : Act := modLift (fun l => { l with parked := l.parked ++ [(r, c)] })

/-- PARAM_LEN of a command whose fields' widths the spec does not state: a multiple of 8 bytes that a message can hold (R439, R457;
log 28). -/
def packedLen (code : Nat) : Nat := 8 * (Config.paramWords code % 1024 + 1)

/-- The reserved fields of a command's parameters, offset and length (R457, R458, R465, R508): as stated, or, where the fields' widths
are not stated, the padding at the end (log 28). -/
def reservedParams (code : Nat) : List (Nat × Nat) := match code with
  | 0x0004 | 0x0040 => [(12, 4)]
  | 0x0005 | 0x0032 => [(4, 4)]
  | 0x0010 | 0x0011 => [(27, 1), (44, 4)]
  | 0x0035 | 0x0053 => [(1, 7)]
  | 0x0036 => [(3, 5)]
  | 0x0050 => [(28, 4)]
  | 0x0052 => [(3, 1), (12, 4)]
  | 0x0008 | 0x0020 | 0x0021 | 0x0022 | 0x0023 | 0x0030 | 0x0051 =>
    [(packedLen code - Config.paramPad code % 8, Config.paramPad code % 8)]
  | _ => []

/-- The first reserved field of a request's parameters that is not zero. -/
def reservedBad (m : LiftMsg) : Option Nat :=
  ((reservedParams (reqCommand m)).find? (fun o => natBE (bytesAt m.payload (16 + o.1) o.2) != 0)).map Prod.fst

/-- A request of a known command: PARAM_LEN must be `expect`, or, where the command takes a list, a multiple of 8 bytes, and must match
the payload; a reserved field that is not zero is BAD_PARAM before anything else is looked at (R455, R457; log 28). -/
def request (m : LiftMsg) (row : Instr) (expect : Option Nat) (k : Req → Act) : Act :=
  requestAny m row fun r =>
    if reqParamLen m + 16 ≠ m.payload.length then reply r stBadLength (expect.getD (m.payload.length - 16))
    else if expect.any (fun n => reqParamLen m != n) then reply r stBadLength (expect.getD 0)
    else if reqParamLen m % 8 ≠ 0 then reply r stBadLength ((reqParamLen m + 7) / 8 * 8)
    else match reservedBad m with
      | some o => reply r stBadParam o
      | none => k r

/-- A command accepted only in some job states (R457): WRONG_STATE elsewhere. -/
def inStates (r : Req) (ok : List Nat) (k : Act) : Act :=
  .ask fun s => if ok.contains s.jobState then k else reply r stWrongState s.jobState

/-! ## Transfers (R435, R457) -/

/-- Open a transfer for a request, `off` being where its parameters hold XFER: an identifier already open in the session
is refused with BAD_PARAM. `lines` is the data that a read gathers when it opens. -/
def openXfer (r : Req) (id off total : Nat) (kind : XKind) (lines : List Line := []) : Act :=
  .ask fun s => match s.session? r.session with
    | none => reply r stAborted
    | some x =>
      if x.xfers.any (fun t => t.id == id) then reply r stBadParam off
      else modSession r.session (fun y => { y with xfers := y.xfers ++ [⟨id, r, kind, total, 0, 0, lines, false⟩] })

/-- The transfer of an identifier in a session. -/
def xferOf (x : Session) (id : Nat) : Option Xfer := x.xfers.find? (fun t => t.id == id)

def modXfer (ses id : Nat) (f : Xfer → Xfer) : Act :=
  modSession ses (fun y => { y with xfers := y.xfers.map (fun t => if t.id == id then f t else t) })

def closeXfer (ses id : Nat) : Act :=
  modSession ses (fun y => { y with xfers := y.xfers.filter (fun t => t.id != id) })

/-- A bulk write that its command refuses still runs its sequence: its data is discarded (R437). The identifier stays open
as a discarding transfer. -/
def refuseXfer (r : Req) (id total : Nat) (kind : XKind) (status detail : Nat) : Act :=
  (reply r status detail).seq (.ask fun s => match s.session? r.session with
    | none => .done
    | some x => if x.xfers.any (fun t => t.id == id) then .done
      else modSession r.session (fun y => { y with xfers := y.xfers ++ [⟨id, r, kind, total, 0, 0, [], true⟩] }))

end Sys2Proof.Machine
end

