-- ==== Sys2Proof/Machine/Keys.lean ====
section
/-! DEFINITION. What the security core derives and signs (R529-R531, R535-R537): keys from the fuse secret, the endorsement
record, and which host keys are in force. -/

namespace Sys2Proof.Machine

/-- ASCII bytes of a string. -/
def ascii (t : String) : List Nat := t.toList.map Char.toNat

/-- ASCII in a field of n bytes, zero-padded. -/
def asciiPad (t : String) (n : Nat) : List Nat := ((ascii t) ++ List.replicate n 0).take n

def serialBytes : List Nat := bytesLE 16 Config.serial.toNat

/-- The identity key's 32-B seed (R529). -/
def identitySeed : List Nat := hkdf512 serialBytes (bytesLE 32 Config.fuseSecret.toNat) (ascii "Psiphor identity v1") 32
/-- The wax key (R529). -/
def waxKey : List Nat := hkdf512 serialBytes (bytesLE 32 Config.fuseSecret.toNat) (ascii "Psiphor wax v1") 64
/-- The identity public key. -/
def identityPub : List Nat := edPublic identitySeed

/-- The endorsement record's 192 bytes (R531): KEY_ID, ISSUED and E_SIG are as manufactured. -/
def endorsementBytes : List Nat :=
  let e := bytesLE 192 Config.endorsement.toNat
  ascii "VXENDORS" ++ bytesLE 2 1 ++ List.replicate 6 0 ++ serialBytes ++ ascii "VXP-1640" ++ ascii "A1" ++
  List.replicate 6 0 ++ (e.drop 48).take 8 ++ (e.drop 56).take 8 ++ identityPub ++ List.replicate 32 0 ++ (e.drop 128).take 64

/-- Value of SV_COUNT: burned bits (R528). -/
def svValue (f : Fuses) : Nat := popcount 64 f.sv.toNat
/-- A VALID word is burned when any bit of it is. -/
def Fuses.ownerValid (f : Fuses) : Bool := f.ownerOk != 0
def Fuses.hostValid (f : Fuses) : Bool := f.hostOk != 0

/-- Whether a host key is accepted (R427, R536): under the bundle's hashes, else under the fused host hash, else always. -/
def State.hostKeyOk (s : State) (key : Bytes) : Bool :=
  let h := sha512 (ofBytes key)
  if s.on (dk .SEC_STATUS_BUNDLE_OK) && !s.sec.hosts.isEmpty then s.sec.hosts.any (fun x => ofBytes x == h)
  else if s.fuses.hostValid then h == bytesLE 64 s.fuses.ownerHost.toNat
  else true

end Sys2Proof.Machine
end

