-- ==== Sys2Proof/Machine/View.lean ====
section
/-! DEFINITION. Registers as they read (R4, R5, R459): fields with a home of their own, fields that show another unit's
state, and a whole register from its fields. -/

namespace Sys2Proof.Machine

/-- A truth value as a field. -/
def bit (b : Bool) : Nat := if b then 1 else 0

/-- Non-finite sources that a tile's vector unit has counted in the attempt. -/
def State.tileNonfinites (s : State) (p t : Nat) : Nat :=
  s.rd (tk .VEC_NONFINITE_IN p t) + s.rd (tk .VEC_NONFINITE_OUT p t) + s.rd (tk .VEC_STATUS_WIDE_INF p t)

/-- Non-finite sources of a pile's attempt (R310): health records, vector counters and wide infinities, also of tiles that a
substitution has taken out of service (R22), and buckets with their out-of-range flag. -/
def State.nonfinites (s : State) (p : Nat) : Nat :=
  ((s.pile p).health.cur.map (fun kv => kv.2.c.nonfin)).sum +
  ((List.range 9).map (s.tileNonfinites p)).sum + (s.pile p).rue.nfGone +
  ((s.pile p).bktRecs.cur.filter (fun kv => kv.2.out)).length

/-- The local health word as it stands (R310). -/
def State.healthWord (s : State) (p : Nat) : Nat :=
  (s.pile p).rue.causes ||| (if s.nonfinites p = 0 then 0 else 1024)

/-- The port of a way: 0 LOC, 1 SVC, 2 X0, 3 X1, 4 N, 5 E, 6 S, 7 W; 8 where the way names no port. -/
def wayPort (w : Nat) : Nat :=
  if w < 44 then 0 else if w < 45 then 1 else if w < 48 then 2 else if w < 51 then 3 else if w < 79 then 4
  else if w < 107 then 5 else if w < 135 then 6 else if w < 163 then 7 else 8

/-- What digest_add takes of a gondola's control field (R230): EMPTY, POISON and DEST_RESET. -/
def digestControl (g : Gondola) : Nat := bit g.empty * 2 + bit g.poison * 4 + bit g.destReset * 8

/-- digest_add of R230. -/
def digestAdd (phase d : Nat) (g : Gondola) : Nat :=
  let w := g.body.toNat + g.tag.toNat * 2 ^ 1024
  let d := (List.range 18).foldl (fun d k => mix64 (d ^^^ (w / 2 ^ (64 * k) % 2 ^ 64))) d
  mix64 (d ^^^ (phase * 65536 ||| digestControl g))

/-- A running digest of a pile's port as it stands: what the running phase gathered enters in order of slot and then way
(R230). `d`: 0 transmit, 1 receive. -/
def State.liveDigest (s : State) (p q d : Nat) : Nat :=
  let m := if d = 0 then (s.pile p).sw.digTx else (s.pile p).sw.digRx
  (m.filter (fun kv => wayPort (kv.1 % 256) == q)).foldl
    (fun a kv => digestAdd (s.rd (pk .GATE_STATUS_PHASE p)) a kv.2) (s.rd (pk .DIG_CUR p q d))

/-- What a field reads that shows work in progress, whose value depends on time: free, below n (log 5). -/
def State.freeNow (s : State) (k : FKey) (n : Nat) : Nat := (Config.shownNow k.code s.free).toNat % n

/-- The operation that an array executes, whose formats and sweeps ARR_STATUS shows: the one started last. -/
def State.arrNow (s : State) (p t a : Nat) : Option ArrOp := (((s.tile p t).arr a).running.getLast?).map Prod.fst

/-- The vector unit may have something in flight: an operation of the phase has issued, the tile has not arrived, and its program has not
been stopped, which discards all (R159, R469). -/
def State.vecLive (s : State) (p t : Nat) : Bool :=
  (s.tile p t).vecSeq != 0 && !(s.tile p t).arrived && s.on (tk .TSQ_STATUS_RUN p t)

/-- The SFU, or the top-k unit, is occupied: free, since latency is time, where the phase has used it (R133; log 5). -/
def State.sfuNow (s : State) (p t : Nat) : Bool :=
  s.vecLive p t && (s.tile p t).sfuUsed && s.freeNow (tk .VEC_STATUS_SFU_BUSY p t) 2 == 1
def State.topNow (s : State) (p t : Nat) : Bool :=
  s.vecLive p t && (s.tile p t).topUsed && s.freeNow (tk .VEC_STATUS_TOPK_BUSY p t) 2 == 1

/-- What may hold the next bundle back for clocks alone, beside nothing: a vector interlock, and the fetch after a branch (R138, R140). -/
def State.heldClocks (s : State) (p t : Nat) : List Nat :=
  0 :: (if s.vecLive p t then [4] else []) ++ (if (s.tile p t).issued.fetch then [6] else [])

/-- TSQ_STATUS.STALL: a tile that its phase wakes waits for the wake (7); a condition that the bundle met is the recorded one; a stall that
lasts clocks is free among those possible (R167, R170; log 5). -/
def State.stallNow (s : State) (p t : Nat) : Nat :=
  if !s.on (tk .TSQ_STATUS_RUN p t) || s.jobState != jsRunning || s.on (tk .TSQ_STATUS_IN_IDLE p t) then 0
  else if s.on (dk .PWR_STATE_WAKING (domTile p t)) && !s.on (tk .TSQ_STATUS_IN_GATE p t) then 7
  else if s.on (tk .TSQ_STATUS_STALL p t) then s.rd (tk .TSQ_STATUS_STALL p t)
  else if s.on (tk .TSQ_STATUS_IN_GATE p t) then 0
  else (s.heldClocks p t).getD (s.freeNow (tk .TSQ_STATUS_STALL p t) (s.heldClocks p t).length) 0

/-- The RUE has nothing under way: it has done nothing in the phase, or the pile has arrived. How long its operations take is time, so in
between what its status shows is free (R323, R348; log 5). -/
def State.rueIdle (s : State) (p : Nat) : Bool :=
  ((s.pile p).rue.rueDone == 0 && (s.pile p).rue.bkts.isEmpty) || (s.pile p).gate.arrivedAt.isSome

/-- The pass that the RUE has under way (R348): none, or free among those that ran in the phase. -/
def State.passNow (s : State) (p : Nat) : Nat :=
  let ran := 0 :: (s.pile p).rue.passes
  if s.rueIdle p then 0 else ran.getD (s.freeNow (pk .UPD_STATUS_PASS p) ran.length) 0

/-- A field that shows another unit's state. -/
def State.shown (s : State) (k : FKey) : Option Nat :=
  let p := k.p
  match k.f with
  | .MOV_STATUS_BUSY => some (bit ((s.tile p k.t).mover != .idle))
  | .MOV_STATUS_WAKING => some (match (s.tile p k.t).mover with
    | .waking _ => 1
    | _ => 0)
  | .MOV_STATUS_DEPTH => some (s.tile p k.t).queue.length
  | .ARR_STATUS_BUSY =>
    let x := s.tile p k.t
    some (bit (!(x.arr k.i).running.isEmpty))
  | .ARR_STATUS_STALLED => (s.arrNow p k.t k.i).map (fun _ => s.freeNow k 2)
  | .ARR_STATUS_TILE_IDX => (s.arrNow p k.t k.i).map (fun o => s.freeNow k (o.tileRows * o.tileCols))
  | .ARR_STATUS_ACC_BANK => (s.arrNow p k.t k.i).map (fun _ => s.freeNow k 2)
  | .VEC_STATUS_BUSY => some (bit (s.vecLive p k.t && (s.freeNow k 2 == 1 || s.sfuNow p k.t || s.topNow p k.t)))
  | .VEC_STATUS_SFU_BUSY => some (bit (s.sfuNow p k.t))
  | .VEC_STATUS_TOPK_BUSY => some (bit (s.topNow p k.t))
  | .TSQ_STATUS_STALL => some (s.stallNow p k.t)
  | .RED_STATUS_BUSY => some (if s.rueIdle p then 0 else s.freeNow k 2)
  | .UPD_STATUS_BUSY => some (bit (s.passNow p != 0))
  | .UPD_STATUS_PASS => some (s.passNow p)
  | .RED_STATUS_HEALTH_LOCAL => if s.on (pk .RED_STATUS_SEALED p) then none else some (s.healthWord p)
  | .MEM_STATUS_FILL_BUSY => some (bit (s.pile p).mem.fill.isSome)
  | .MEM_STATUS_MOVE_PENDING => some (bit (s.jobLoaded && !(s.pile p).mem.moves.isEmpty))
  | .FLT_STATUS_SPARE_TILES => some (bit (s.pile p).flt.spare.isSome)
  | .FLT_STATUS_SUBST_PENDING => some (bit (!(s.pile p).flt.queue.isEmpty))
  | .FLT_STATUS_ARBITRATING => some (bit (s.pile p).flt.arb.isSome)
  | .FLT_STATUS_QUEUED_TILE => some (((s.pile p).flt.queue.head?.map Subst.phys).getD 0)
  | .DIG_CUR => some (s.liveDigest p k.i k.j)
  | .LNK_STATUS_SWAP_PENDING =>
    some (bit (s.jobLoaded && s.rd (pk .LNK_STATUS_STATE p k.i) != 9 &&
      (((s.port p k.i).swapLane.isSome && (s.port p k.i).swapAcked) || (s.port p k.i).farLane.isSome)))
  | .LIFT_STATUS_SESSIONS => some s.sessions.length
  | .LIFT_STATUS_EVENTS_HELD => some (bit s.lift.mb00Ses.isSome)
  | .LIFT_STATUS_BOOT_ROM => some (bit (!s.on (dk .SEC_STATUS_BUNDLE_OK)))
  | .LIFT_STATUS_EVT_QUEUED => some s.events.length
  | .LIFT_STATUS_WINDOW_FREE =>
    some (4096 - min 4096 (((s.sessions.map (fun x => (x.held.map Early.bulk).sum)).sum + 1023) / 1024))
  | .FUSE_STATUS_FIELD_USED => some s.fuses.field.length
  | .FUSE_STATUS_PROPOSED => some s.boot.proposals.length
  | .SEC_STATUS_SV_FUSED => some (svValue s.fuses)
  | .SEC_STATUS_OWNER_FUSED => some (bit s.fuses.ownerValid)
  | .SEC_STATUS_HOST_FUSED => some (bit s.fuses.hostValid)
  | .SEC_STATUS_CLAIM_PARTIAL =>
    some (bit ((s.fuses.ownerKey != 0 && !s.fuses.ownerValid) || (s.fuses.ownerHost != 0 && !s.fuses.hostValid)))
  | .SEC_STATUS_BURNING => some (bit (s.sec.burns.any (fun b => match b with
    | .entry _ => false
    | _ => true)))
  | _ => none

/-- A field as it reads. -/
def State.view (s : State) (k : FKey) : Nat := match s.shown k with
  | some v => clipTo k.f.width v
  | none => s.rd k

/-- A register of a pile and tile at two indices, from its fields; reserved bits read zero (R5). -/
def State.regValue (s : State) (r : RegSpec) (p t i j : Nat) : Nat :=
  r.fields.foldl (fun a f => a + (if f.spec.acc = .wo then 0 else s.view ⟨f, p, t, i, j⟩) * 2 ^ f.spec.lo) 0

/-- A named register's value; 0 where the device has none of the name. -/
def State.named (s : State) (n : String) (p t i j : Nat) : Nat := match regNamed n with
  | some r => s.regValue r p t i j
  | none => 0

end Sys2Proof.Machine
end

