-- ==== Sys2Proof/Machine/Memory.lean ====
section
/-! DEFINITION. Pile memory (chapter 13): codewords, reads and writes with their accounting, the error log and bucket, the
groomer, spare moves and temperatures; and the lines of every space, with the poison that raises `POISON` (R362). -/

namespace Sys2Proof.Machine

/-! ## Codewords (R356-R364) -/

/-- MEM_POISON_MASK as it stands over the check bytes: byte 144 of the codeword is XORed with bits [127:120] (R384). -/
def poisonMask : BitVec 128 := BitVec.ofNat 128 (ofLE (bytesBE 16 0x9E3779B97F4A7C15F39CC0605CEDC834))

def wordBytes (c : Codeword) : List Nat := bytesLE 128 c.body.toNat ++ bytesLE 16 c.tag.toNat ++ bytesLE 16 c.check.toNat

def bytesWord (bs : List Nat) : Codeword :=
  ⟨BitVec.ofNat 1024 (ofLE (bs.take 128)), BitVec.ofNat 128 (ofLE ((bs.drop 128).take 16)),
   BitVec.ofNat 128 (ofLE ((bs.drop 144).take 16))⟩

/-- The check field of a body and tag (R356). -/
def checkField (body : BitVec 1024) (tag : BitVec 128) : BitVec 128 :=
  BitVec.ofNat 128 (ofLE (rsCheck 16 (bytesLE 128 body.toNat ++ bytesLE 16 tag.toNat)))

/-- The stored form of a line: a clean codeword, or the poison word (R360). -/
def encodeWord (l : Line) : Codeword :=
  ⟨l.body, l.tag, if l.poison then checkField l.body l.tag ^^^ poisonMask else checkField l.body l.tag⟩

/-- How a codeword read (R358). -/
inductive ReadKind where
  | data | poison | uncorrectable
  deriving DecidableEq, Repr

/-- A read: the line delivered, the codeword bytes corrected under stage 1, the outcome, and whether it is the unwritten
word (R364). -/
structure ReadOut where
  line  : Line
  fixed : List Nat
  kind  : ReadKind
  blank : Bool
  deriving DecidableEq, Repr

def ReadOut.corrected (r : ReadOut) : Bool := r.kind == .data && !r.fixed.isEmpty

/-- The poison outcome of stage 2. -/
def poisonOut (c : Codeword) : ReadOut :=
  ⟨⟨c.body, c.tag, true⟩, [], .poison, c.body == 0 && c.tag == BitVec.allOnes 128⟩

/-- Stages 2 and 3 of R358. -/
def decodePoison (c : Codeword) : ReadOut :=
  match rsDecode 16 7 (wordBytes { c with check := c.check ^^^ poisonMask }) with
  | some (w, _) => poisonOut (bytesWord w)
  | none => ⟨⟨c.body, c.tag, true⟩, [], .uncorrectable, false⟩

/-- The three stages of a read (R358). The unwritten word is a poison word by R364. -/
def decodeWord (c : Codeword) : ReadOut :=
  if c = unwritten then poisonOut c
  else match rsDecode 16 8 (wordBytes c) with
    | some (w, fixed) =>
      let d := bytesWord w
      let l : Line := ⟨d.body, d.tag, false⟩
      if fixed.isEmpty || lineCheckOk l then ⟨l, fixed, .data, false⟩ else decodePoison c
    | none => decodePoison c

/-! ## Causes (R199, R310) -/

def cPoison : Nat := 0
def cCheckMismatch : Nat := 1
def cArrayCheck : Nat := 2
def cDual : Nat := 3
def cSeqFault : Nat := 4
def cHazard : Nat := 5
def cLink : Nat := 6
def cLate : Nat := 7
def cTiming : Nat := 8
def cNonfinite : Nat := 10

/-- Raise a cause on a pile in the current attempt. -/
def causeNow (p c : Nat) : Act := modRue p (fun r => { r with causes := r.causes ||| 2 ^ c })

/-- Raise a cause by work of the phase in force: in a HEAD phase it is held in the carry set (R198). -/
def causeAt (p c : Nat) : Act :=
  .ask fun s => if s.on (pk .GATE_STATUS_HEAD_PHASE p)
    then modRue p (fun r => { r with causeCarry := r.causeCarry ||| 2 ^ c }) else causeNow p c

/-! ## Rows and moves (R354, R371) -/

def lineChannel (l : Nat) : Nat := l % 64
def lineBank (l : Nat) : Nat := l / 64 % 16
def lineColumn (l : Nat) : Nat := l / 1024 % 16
def lineRow (l : Nat) : Nat := l / 16384 % 32768
/-- A row's name: the index of its line of column 0. -/
def rowOf (l : Nat) : Nat := l - lineColumn l * 1024
/-- The 16 lines of a row. -/
def rowLines (r : Nat) : List Nat := (List.range 16).map (fun c => r + c * 1024)
/-- A row's bank of the pile, channel and bank as one number. -/
def rowBank (r : Nat) : Nat := lineChannel r * 16 + lineBank r

/-- Queue a line's row for a spare move; MEM_UE_LOG shows it where the line is the one recorded (R371, R383). -/
def queueMove (p line : Nat) : Act :=
  (modMem p (fun m => if m.moves.contains (rowOf line) then m else { m with moves := m.moves ++ [rowOf line] })).seq
    (.ask fun s => Act.when (s.on (pk .MEM_UE_LOG_VALID p) && s.rd (pk .MEM_UE_LOG_LINE p) == line)
      (setR (pk .MEM_UE_LOG_QUEUED p) 1))

def queueGroom (p line : Nat) : Act :=
  modMem p (fun m => if m.grooms.contains line then m else { m with grooms := m.grooms ++ [line] })

/-! ## Accounting of a read -/

/-- The entry of MEM_CE_LOG that holds a line. -/
def State.ceEntry (s : State) (p line : Nat) : Option Nat :=
  (List.range 16).find? (fun i => s.on (pk .MEM_CE_LOG_VALID p i) && s.rd (pk .MEM_CE_LOG_LINE p i) == line)

/-- The entry a new line takes: a free one, else the one least recently made or updated (R366). -/
def State.ceVictim (s : State) (p : Nat) : Nat :=
  match (List.range 16).find? (fun i => !s.on (pk .MEM_CE_LOG_VALID p i)) with
  | some i => i
  | none => (s.pile p).mem.ceOrder.headD 0

/-- The bytes lie within one TSV group: one run of four codeword bytes (R357). -/
def oneGroup (fixed : List Nat) : Bool := match fixed with
  | [] => false
  | b :: r => r.all (fun c => c / 4 == b / 4)

/-- Record a corrected line (R366, R371). -/
def ceLog (p line : Nat) (fixed : List Nat) (groomer : Bool) : Act :=
  .ask fun s =>
    let touch (i : Nat) : Act := Act.all [
      setR (pk .MEM_CE_LOG_BYTES p i) fixed.length, setB (pk .MEM_CE_LOG_TSV p i) (oneGroup fixed),
      modMem p (fun m => { m with ceOrder := m.ceOrder.filter (fun x => x != i) ++ [i] })]
    match s.ceEntry p line with
    | some i => (touch i).seq (Act.when (s.on (pk .MEM_CE_LOG_GROOMED p i))
        ((setR (pk .MEM_CE_LOG_RECUR p i) 1).seq (queueMove p line)))
    | none =>
      let i := s.ceVictim p
      Act.all [
        setR (pk .MEM_CE_LOG_VALID p i) 1, setR (pk .MEM_CE_LOG_GROOMED p i) 0, setR (pk .MEM_CE_LOG_RECUR p i) 0,
        setR (pk .MEM_CE_LOG_LINE p i) line, touch i,
        Act.when (s.on (pk .GROOM_CTL_TARGETED p) && !groomer) (queueGroom p line)]

/-- The overflow event (R367), at most one in LEAK_S seconds: between one leak and the next after an event the spec's
condition depends on time, and a free bit decides (log 27). -/
def ceEvent (p : Nat) : Act :=
  withFree fun f => .ask fun s =>
    let h := (s.pile p).mem.ceHold
    let i := (s.pile p).mem.ceOrder.getLastD 0
    if h = 2 ∨ (h = 1 ∧ f % 2 = 0) then .done
    else (modMem p (fun m => { m with ceHold := 2 })).seq
      (raiseEvent 0x000C p (bytesLE 8 (s.named "MEM_CE_LOG" p 0 i 0) ++ bytesLE 4 (s.rd (pk .MEM_BUCKET_OVF p))))

/-- Fill the leaky bucket (R367). -/
def bucketUp (p : Nat) : Act :=
  .ask fun s =>
    if s.rd (pk .MEM_BUCKET p) = s.rd (pk .MEM_BUCKET_CTL_DEPTH p) then
      Act.all [setR (pk .MEM_BUCKET p) 0, bump (pk .MEM_BUCKET_OVF p), ceEvent p]
    else bump (pk .MEM_BUCKET p)

/-- Record an uncorrectable read (R383); one of the groomer's is the groomer's to follow up. -/
def ueLog (p line : Nat) (groomer : Bool) : Act :=
  .ask fun s => Act.all [
    bump (pk .MEM_UE p), bump (pk .MEM_UE_TOTAL p),
    setR (pk .MEM_UE_LOG_STEP p) (if s.jobLoaded then s.step else 0),
    setR (pk .MEM_UE_LOG_VALID p) 1, setB (pk .MEM_UE_LOG_GROOMER p) groomer, setR (pk .MEM_UE_LOG_QUEUED p) 0,
    setR (pk .MEM_UE_LOG_LINE p) line,
    Act.when (!groomer) ((queueGroom p line).seq
      (modMem p (fun m => if m.ueGrooms.contains line then m else { m with ueGrooms := m.ueGrooms ++ [line] })))]

/-- What a read counts and records (R358, R366, R367, R371). -/
def accountRead (p line : Nat) (r : ReadOut) (groomer : Bool) : Act :=
  (bump (pk .MEM_READS p)).seq (match r.kind with
    | .data => Act.when r.corrected (Act.all [
        bump (pk .MEM_CE_LINES p), bump (pk .MEM_CE_BYTES p) r.fixed.length, ceLog p line r.fixed groomer, bucketUp p])
    | .poison => (bump (pk .MEM_POISON_READ p)).seq (Act.when r.blank (bump (pk .MEM_UNWRITTEN_READ p)))
    | .uncorrectable => ueLog p line groomer)

/-- Read a codeword of DRAM, with its accounting. -/
def dramRead (p line : Nat) (groomer : Bool) (k : ReadOut → Act) : Act :=
  .ask fun s =>
    let r := decodeWord (s.dramWord (dramAddr p line))
    (accountRead p line r groomer).seq (k r)

/-- A control core's access fault, which Oroette reports as an uncorrectable error of the line: MEM_UE_LOG shows it (R363, R383, R503; DESIGN
CHOICE, log 148). -/
def accessFault (p line : Nat) : Act :=
  .ask fun s => Act.all [
    setR (pk .MEM_UE_LOG_STEP p) (if s.jobLoaded then s.step else 0), setR (pk .MEM_UE_LOG_VALID p) 1,
    setR (pk .MEM_UE_LOG_GROOMER p) 0, setR (pk .MEM_UE_LOG_QUEUED p) 0, setR (pk .MEM_UE_LOG_LINE p) line]

/-- A control core loads a line of its pile's memory (R363): a poisoned one, or one of a memory that is OFF (R503), reads zero and raises an
access fault; the read of an uncorrectable one has entered the log already. -/
def coreLoad (p line : Nat) (k : Line → Act) : Act :=
  .ask fun s =>
    if s.power (domMem p) = 2 then (accessFault p line).seq (k ⟨0, 0, true⟩)
    else dramRead p line false (fun r =>
      if r.line.poison then (Act.when (r.kind == .poison) (accessFault p line)).seq (k ⟨0, 0, true⟩) else k r.line)

/-! ## Writing -/

/-- Corrupt a codeword as MEM_INJECT says (R376). -/
def injected (c : Codeword) (count first x : Nat) : Codeword :=
  if count = 0 then ⟨c.body, c.tag, checkField c.body c.tag ^^^ poisonMask⟩
  else bytesWord ((wordBytes c).mapIdx (fun i b =>
    if (i + 160 - first % 160) % 160 < count then b ^^^ x else b))

/-- Store a codeword: an armed injection fires at the next write to its line, from any source (R376). -/
def storeWord (p line : Nat) (c : Codeword) : Act :=
  .ask fun s =>
    if s.on (pk .MEM_INJECT_ARMED p) ∧ s.rd (pk .MEM_INJECT_LINE p) = line then
      (setR (pk .MEM_INJECT_ARMED p) 0).seq (emit (.dram (dramAddr p line)
        (injected c (s.rd (pk .MEM_INJECT_COUNT p)) (s.rd (pk .MEM_INJECT_FIRST p)) (s.rd (pk .MEM_INJECT_XOR p)))))
    else emit (.dram (dramAddr p line) c)

/-- Write a line of DRAM (R356, R360). -/
def dramWrite (p line : Nat) (l : Line) : Act :=
  (Act.when l.poison (bump (pk .MEM_POISON_WRITE p))).seq (storeWord p line (encodeWord l))

/-! ## Lines that a poisoned write condemns (R362) -/

def inRun (line first n : Nat) : Bool := decide (first ≤ line ∧ line < first + n)

/-- First line of a bank of a declared buffer (R174). -/
def bankLine (first : Nat) (stride : Int) (bank : Nat) : Nat := ((first : Int) + stride * bank).toNat

/-- Whether a place is in the space and pile that a declaration names. -/
def State.samePlace (s : State) (p : Nat) (sp : Space) (t : Nat) (p' : Nat) (sp' : Space) (log : Nat) : Bool :=
  p == p' && sp == sp' && (sp != .ls || s.physOf p log == t)

/-- A shard's layer (R328). -/
def layerOfShard (u : UpdateTables) (i : Nat) : Option LayerRec := u.layers.find? (fun l => inRun i l.shardIdx l.shards)

/-- Whether a rule keeps a second moment (R327). -/
def hasV (rule : Nat) : Bool := decide (rule < 2)

/-- Lines of one version of a shard's state area (R327). -/
def stateLines (rule b : Nat) : Nat := 1 + 10 * b + (if hasV rule then 2 * b else 0) + b + 1 + 2 * b + 1

/-- The version selector and the shadow version (R327). -/
def State.ver (s : State) (p : Nat) : Nat := s.rd (pk .UPD_STATUS_VER_SEL p)

/-- First line of a version of a shard. -/
def shardBase (h : ShardRec) (v : Nat) : Nat := h.stateLine + h.vstride * v

/-- Whether this device and pile own a shard. -/
def State.ownsShard (_s : State) (img : Image) (p : Nat) (h : ShardRec) : Bool := h.ownerDev == img.device && h.ownerPile == p

/-- Whether a poisoned write to a line raises POISON: a shard's shadow version, a residual copy, a scale tracker record, a result object,
a run-ahead buffer, or the next-step bank of a step-banked buffer. -/
def State.condemned (s : State) (p : Nat) (sp : Space) (t line : Nat) : Bool :=
  match s.job.image with
  | none => false
  | some img =>
    let next := (s.step + 1) % 2
    let ver := 1 - s.ver p
    img.objects.any (fun o => s.samePlace p sp t o.pile o.space o.tile &&
      (inRun line (bankLine o.firstLine o.bankStride 0) o.lines || inRun line (bankLine o.firstLine o.bankStride 1) o.lines)) ||
    img.buffers.any (fun b => s.samePlace p sp t b.pile b.space b.tile &&
      ((b.kind == 1 && (inRun line b.firstLine b.lines || inRun line (bankLine b.firstLine b.bankStride 1) b.lines)) ||
       (b.kind == 2 && inRun line (bankLine b.firstLine b.bankStride next) b.lines))) ||
    (sp == .dram &&
      (s.job.trackers.any (fun kv => inRun line kv.2 2) || img.contribs.any (fun c => c.pile == p && (match img.buckets.find? (fun b => b.id == c.bucket) with
         | some b => b.comp != 0 && inRun line c.resLine (16 * b.blocks)
         | none => false)) ||
       (List.range img.update.shards.length).any (fun i => match img.update.shards[i]?, layerOfShard img.update i with
         | some h, some l => s.ownsShard img p h && inRun line (shardBase h ver) (stateLines l.rule h.blocks)
         | _, _ => false)))

/-- Whether an attempt of a job is running. -/
def State.running (s : State) : Bool := s.jobState == jsRunning

def poisonWatch (p : Nat) (sp : Space) (t line : Nat) (l : Line) : Act :=
  .ask fun s => Act.when (l.poison && s.running && s.condemned p sp t line) (causeNow p cPoison)

/-! ## Lines of every space -/

/-- The first line of a tile's program region (R100). -/
def State.regionFirst (s : State) (p t : Nat) : Nat := 32768 - (s.tile p t).region

/-- Whether a line lies in its space and outside the program region of a local store (R100, R154). -/
def State.lineOk (s : State) (p : Nat) (sp : Space) (t : Nat) (line : Int) : Bool :=
  decide (0 ≤ line ∧ line < (Space.lines sp : Int)) && (sp != .ls || decide (line < (s.regionFirst p t : Int)))

/-- Read a line of a space (R99, R157, R503): a line of a MEM domain that is OFF reads poisoned. -/
def getLine (p : Nat) (sp : Space) (t line : Nat) (k : Line → Act) : Act :=
  match sp with
  | .dram => .ask fun s => if s.power (domMem p) = 2 then k blankLine else dramRead p line false (fun r => k r.line)
  | .buf => .ask fun s => k (s.sramLine (bufAddr p line))
  | .ls => .ask fun s => k (s.sramLine (lsAddr p t line))

/-- Some byte of a line and its tag has an odd number of changed bits, which its parity finds (R99). -/
def parityFinds (mask : BitVec 1152) : Bool := (List.range 144).any (fun k => popcount 8 ((mask.toNat >>> (8 * k)) % 256) % 2 == 1)

/-- Bits of an SRAM line change. Byte parity finds a byte with an odd number of them at the line's next read, which returns the line poisoned
(R99): the line's poison holds that from here on, since nothing but a read can tell (log 132). -/
def upset (p : Nat) (u : Upset) : Act :=
  .ask fun s =>
    let a := match u.tile with
      | some t => lsAddr p t.val u.line
      | none => bufAddr p u.line
    let l := s.sramLine a
    emit (.sram a { body := l.body ^^^ u.mask.setWidth 1024, tag := l.tag ^^^ u.mask.extractLsb' 1024 128, poison := l.poison || parityFinds u.mask })

/-- Read n lines from one of a space on. -/
def getLines (p : Nat) (sp : Space) (t line : Nat) : Nat → (List Line → Act) → Act
  | 0, k => k []
  | n + 1, k => getLine p sp t line (fun l => getLines p sp t (line + 1) n (fun r => k (l :: r)))

/-- Write a line of a space: a write to a MEM domain that is OFF is discarded (R503). -/
def putLine (p : Nat) (sp : Space) (t line : Nat) (l : Line) : Act :=
  (match sp with
   | .dram => Act.ask fun s => if s.power (domMem p) = 2 then .done else dramWrite p line l
   | .buf => emit (.sram (bufAddr p line) l)
   | .ls => emit (.sram (lsAddr p t line) l)).seq (poisonWatch p sp t line l)

def putLines (p : Nat) (sp : Space) (t line : Nat) : List Line → Act
  | [] => .done
  | l :: r => (putLine p sp t line l).seq (putLines p sp t (line + 1) r)

/-! ## The groomer (R368-R371) -/

/-- Write a corrected line back, mark its entry, and verify it; a row whose line does not read any more is queued (R371). -/
def writeBack (p line : Nat) (l : Line) : Act :=
  Act.all [
    storeWord p line (encodeWord l), bump (pk .GROOM_CE p),
    .ask fun s => match s.ceEntry p line with
      | some i => setR (pk .MEM_CE_LOG_GROOMED p i) 1
      | none => .done,
    dramRead p line true (fun r => Act.when (r.kind == .uncorrectable) (queueMove p line))]

/-- Reads again after an uncorrectable read: the first that decodes is written back; else the line is written poisoned and
its row queued. -/
def groomAgain (p line : Nat) (last : Line) : Nat → Act
  | 0 => Act.all [putLine p .dram 0 line { last with poison := true }, bump (pk .GROOM_UE p), queueMove p line]
  | n + 1 => dramRead p line true (fun r => if r.kind = .uncorrectable then groomAgain p line r.line n else writeBack p line r.line)

/-- Groom one line (R368). -/
def groomLine (p line : Nat) : Act :=
  dramRead p line true (fun r => match r.kind with
    | .data => Act.when r.corrected (writeBack p line r.line)
    | .poison => .done
    | .uncorrectable => groomAgain p line r.line 2)

/-- Groom a queued line (R369); a line that an uncorrectable read queued has its row moved after it (R371). -/
def groomQueued (p line : Nat) : Act :=
  Act.all [
    modMem p (fun m => { m with grooms := m.grooms.filter (fun l => l != line) }),
    groomLine p line,
    .ask fun s => Act.when ((s.pile p).mem.ueGrooms.contains line)
      ((modMem p (fun m => { m with ueGrooms := m.ueGrooms.filter (fun l => l != line) })).seq (queueMove p line))]

/-- Whether the groomer runs: enabled, with the pile's memory ON. -/
def State.grooms (s : State) (p : Nat) : Bool := s.on (pk .GROOM_CTL_ENABLE p) && s.ready (domMem p)

/-- The next line of the pass, after any line queued; BEHIND depends on time, so its bit is free (log 5). -/
def actGroom (p : Nat) : Act :=
  .ask fun s => if !s.grooms p then .done else Act.all [
    Act.each (s.pile p).mem.grooms (groomQueued p),
    groomLine p (s.rd (pk .GROOM_STATUS_NEXT_LINE p)),
    (if s.rd (pk .GROOM_STATUS_NEXT_LINE p) + 1 = dramLines then
       (setR (pk .GROOM_STATUS_NEXT_LINE p) 0).seq (bump (pk .GROOM_STATUS_PASSES p))
     else setR (pk .GROOM_STATUS_NEXT_LINE p) (s.rd (pk .GROOM_STATUS_NEXT_LINE p) + 1)),
    withFree (fun f => setR (pk .GROOM_STATUS_BEHIND p) (f % 2))]

def execGroom (p : PileId) (s : State) : Host.Outcome State Fault Refusal := (actGroom p.val).answer s

def actTargetedGroom (p : Nat) : Act :=
  .ask fun s => if !s.grooms p then .done else match (s.pile p).mem.grooms with
    | l :: _ => groomQueued p l
    | [] => .done

def execTargetedGroom (p : PileId) (s : State) : Host.Outcome State Fault Refusal := (actTargetedGroom p.val).answer s

/-- LEVEL falls by one if it is above zero (R367). -/
def actLeak (p : Nat) : Act :=
  .ask fun s => Act.all [
    setR (pk .MEM_BUCKET p) (s.rd (pk .MEM_BUCKET p) - 1),
    modMem p (fun m => { m with ceHold := m.ceHold - 1 })]

def execLeak (p : PileId) (s : State) : Host.Outcome State Fault Refusal := (actLeak p.val).answer s

/-! ## Spare moves (R372, R373) -/

/-- Step-boundary work is due on a pile: between its finish-gate readiness and its arrival (R203), or with no job loaded. -/
def State.atBoundary (s : State) (p : Nat) : Bool :=
  !s.jobLoaded || (s.running && s.on (pk .GATE_STATUS_FINISH_PHASE p) && (s.pile p).gate.booked && (s.pile p).gate.arrivedAt.isNone)

/-- The fuse entry of a row (R491). -/
def rowEntry (p r : Nat) : BitVec 32 :=
  BitVec.ofNat 32 (3 * 2 ^ 29 + p * 2 ^ 25 + lineChannel r * 2 ^ 19 + lineBank r * 2 ^ 15 + lineRow r)

/-- Propose a unit for field fusing (R494); an entry already proposed stays once. -/
def propose (source : Nat) (e : BitVec 32) : Act :=
  .ask fun s => modBoot (fun b =>
    if b.proposals.any (fun x => x.entry == e) then b
    else { b with proposals := b.proposals ++ [⟨source, e, if s.jobLoaded then s.step else 0⟩] })

/-- The device rewrites its wax record (R485). -/
def waxDirty : Act := .ask fun s => modBoot (fun b => { b with waxGen := b.waxGen + 1, madeTime := s.rd (dk .BR_TIME) })

/-- Read a line up to three times; what decodes first is moved, else the line moves poisoned. -/
def moveLine (p line : Nat) : Nat → Act
  | 0 => dramRead p line false (fun r => putLine p .dram 0 line r.line)
  | n + 1 => dramRead p line false (fun r =>
      if r.kind = .uncorrectable then moveLine p line n else putLine p .dram 0 line r.line)

/-- A spare row takes the row's place in its bank's remap; MIN_LEFT counts what every bank has left (R353, R381). -/
def takeSpare (p r : Nat) : Act :=
  .ask fun s =>
    let n := SMap.getD (s.pile p).mem.used (rowBank r) 0
    Act.all [
      modMem p (fun m => { m with
        used := SMap.put 0 m.used (rowBank r) (n + 1)
        remap := SMap.set m.remap r (some n) }),
      bump (pk .MEM_SPARE_MOVED p),
      setR (pk .MEM_SPARE_MIN_LEFT p) (min (s.rd (pk .MEM_SPARE_MIN_LEFT p)) (656 - (n + 1)))]

/-- A row has moved: it is counted, enters the weak-row map of the next record, and is proposed for fusing (R372); the bank's last spare row
raises the event of R373. -/
def rowMoved (p r : Nat) : Act :=
  .ask fun s => Act.all [
    bump (pk .MEM_ROW_MOVES p), modMem p (fun m => { m with weak := if m.weak.contains r then m.weak else m.weak ++ [r] }),
    propose 3 (rowEntry p r), waxDirty,
    Act.when (SMap.getD (s.pile p).mem.used (rowBank r) 0 == 656) (raiseEvent 0x000D p [lineChannel r, lineBank r])]

/-- Move the next queued row; a bank without a free spare row keeps its row in place (R373). The row stands in the queue until it has moved, so
that what its own reads find does not queue it again. -/
def actSpareMove (p : Nat) : Act :=
  .ask fun s => match (s.pile p).mem.moves with
    | [] => .done
    | r :: _ =>
      if !s.atBoundary p || !s.ready (domMem p) then .done
      else
        let n := SMap.getD (s.pile p).mem.used (rowBank r) 0
        (Act.when (n < 656) (Act.all [Act.each (rowLines r) (fun l => moveLine p l 2), takeSpare p r, rowMoved p r])).seq
          (modMem p (fun m => { m with moves := m.moves.filter (fun x => x != r) }))

def execSpareMove (p : PileId) (s : State) : Host.Outcome State Fault Refusal := (actSpareMove p.val).answer s

/-! ## Refresh and temperature (R374, R375) -/

/-- A refresh window: rows are refreshed and keep their contents; the groomer's share of the window is the GROOM and
TARGETED_GROOM commands (log 5). -/
def execRefresh (_p : PileId) (s : State) : Host.Outcome State Fault Refusal := Act.done.answer s

/-- The higher of a stack's two sensors into TEMP. -/
def dramTemp (p : Nat) (t0 t1 : Int) : Act := setR (pk .MEM_STATUS_TEMP p) (signed16 (max t0 t1))

/-- HOT above 85 °C on either sensor, clear once both read below 83 °C; sensors read in 1/16 °C. -/
def hotCheck (p : Nat) (t0 t1 : Int) : Act :=
  if 85 * 16 < max t0 t1 then setR (pk .MEM_STATUS_HOT p) 1
  else if max t0 t1 < 83 * 16 then setR (pk .MEM_STATUS_HOT p) 0 else .done

/-- OVER_TEMP above 95 °C, its event once per crossing, and THERM_ALERT_N. -/
def overCheck (p : Nat) (t0 t1 : Int) : Act :=
  .ask fun s =>
    if 95 * 16 < max t0 t1 then
      Act.all [
        setR (pk .MEM_STATUS_OVER_TEMP p) 1, setR (dk .THERM_STATUS_ALERT_ON) 1,
        Act.when (!s.on (pk .MEM_STATUS_OVER_TEMP p)) (raiseEvent 0x000E p (bytesLE 2 (signed16 (max t0 t1))))]
    else setR (pk .MEM_STATUS_OVER_TEMP p) 0

def actDoubledRefresh (p : Nat) (t0 t1 : Int) : Act := Act.all [dramTemp p t0 t1, hotCheck p t0 t1, overCheck p t0 t1]

/-- DOUBLED_REFRESH: the sensors cross a threshold of R374. -/
def execDoubledRefresh (p : PileId) (temp0 temp1 : Int) (s : State) : Host.Outcome State Fault Refusal :=
  (actDoubledRefresh p.val temp0 temp1).answer s

/-- OVER_TEMP (R375). -/
def execOverTemp (p : PileId) (temp0 temp1 : Int) (s : State) : Host.Outcome State Fault Refusal :=
  (Act.all [dramTemp p.val temp0 temp1, hotCheck p.val temp0 temp1, overCheck p.val temp0 temp1]).answer s

end Sys2Proof.Machine
end

