-- ==== Sys2Proof/Machine/Frames.lean ====
section
/-! DEFINITION. What wakes a domain (R502, R504), which ports are up (R257), and the unscheduled class (R227-R229): hops, their frames
and acknowledgements, routes, delivery to an endpoint, and what becomes of the frames of a port that goes down. -/

namespace Sys2Proof.Machine

/-! ## Waking a domain (R502, R504) -/

def pEnter (d : Nat) : FKey := dk .PWR_STATE_ENTERING d
def pWake (d : Nat) : FKey := dk .PWR_STATE_WAKING d
def pHeld (d : Nat) : FKey := dk .PWR_STATE_PAD_HELD d
def pLatch (d : Nat) : FKey := dk .PWR_STATE_LATCHED d

def beginWake (d : Nat) (own : Bool) : Act :=
  (setR (pWake d) 1).seq (modDom d (fun x => { x with to' := some 0, own := own }))

/-- Ask for a domain to be ON. `own`: the device asks on its own account, and then releases its held outputs (R505). -/
def wake (d : Nat) (own : Bool) : Act :=
  .ask fun s =>
    if s.on (pEnter d) then (setR (pLatch d) 1).seq
      (modDom d (fun x => { x with next := some 0, after := none, own := own || (x.next == some 0 && x.own) }))
    else if s.on (pWake d) then modDom d (fun x => { x with next := none })
    else if s.power d = 0 then .done
    else beginWake d own

/-- A demand access to a domain that is not ready: it wakes a domain in RET or OFF, once (R502). A domain that is ON and
held makes the access wait (R505). An entry asked for to follow the one under way follows the wake (R504). -/
def demandWake (d : Nat) : Act :=
  .ask fun s =>
    if s.ready d || s.on (pWake d) || (s.power d == 0 && !s.on (pEnter d)) then .done
    else if s.on (pEnter d) && s.on (pLatch d) then .done
    else (bump (dk .PWR_DEMAND_WAKES)).seq ((wake d true).seq
      (Act.when (s.on (pEnter d)) (modDom d (fun x => { x with after := (s.dom d).next }))))

/-- Both ends of a bridge show a state (R255); a retired end stays retired until the next boot (R263). -/
def bridgeState (p d st : Nat) : Act := Act.each [(p, d), farBridge p d] (fun e =>
  .ask fun s => Act.when (s.rd (pk .BRG_STATUS_STATE e.1 e.2) != 10) (setR (pk .BRG_STATUS_STATE e.1 e.2) st))

/-! ## Ports and ways (R211, R230) -/

/-- First way of a port. -/
def portFirst (q : Nat) : Nat := [0, 44, 45, 48, 51, 79, 107, 135, 163].getD q 163

/-- A port is not down (R257): its state is READY, REALIGN or LANE_RETRAIN and its domain is ON. SVC runs with HUB. -/
def State.portUp (s : State) (p q : Nat) : Bool :=
  if q = 1 then true
  else if q < 4 then
    s.power (domX p (q - 2)) == 0 && decide (7 ≤ s.rd (pk .LNK_STATUS_STATE p (q - 2)) ∧ s.rd (pk .LNK_STATUS_STATE p (q - 2)) ≤ 9)
  else bridgePresent p (q - 4) && s.power (domB p (q - 4)) == 0 &&
    decide (7 ≤ s.rd (pk .BRG_STATUS_STATE p (q - 4)) ∧ s.rd (pk .BRG_STATUS_STATE p (q - 4)) ≤ 9)

/-- A port is retired (R263, R264). -/
def State.portRetired (s : State) (p q : Nat) : Bool :=
  if q = 2 ∨ q = 3 then s.rd (pk .LNK_STATUS_STATE p (q - 2)) == 10
  else decide (4 ≤ q) && s.rd (pk .BRG_STATUS_STATE p (q - 4)) == 10

/-- A port in LANE_RETRAIN holds what is presented for it (R261). -/
def State.retraining (s : State) (p q : Nat) : Bool :=
  if q = 2 ∨ q = 3 then s.rd (pk .LNK_STATUS_STATE p (q - 2)) == 9
  else decide (4 ≤ q) && s.rd (pk .BRG_STATUS_STATE p (q - 4)) == 9

/-- A port delivers what reaches it: it is READY. In REALIGN it delivers nothing, and in LANE_RETRAIN nothing is sent (R250, R261). -/
def State.portDelivers (s : State) (p q : Nat) : Bool :=
  s.portUp p q && (q == 1 || (if q < 4 then s.rd (pk .LNK_STATUS_STATE p (q - 2)) else s.rd (pk .BRG_STATUS_STATE p (q - 4))) == 7)

/-! ## Frames and hops (R227, R229) -/

def gondolaLine (g : Gondola) : Line := ⟨g.body, g.tag, g.poison⟩

/-- A frame as a gondola: header and payload in the body, a raw tag, its hop's number (R227). -/
def frameGondola (useq : Nat) (f : UFrame) : Gondola :=
  let body := BitVec.ofNat 1024 (ofLE (bytesLE 2 f.dstDev ++ [f.dstPile % 256, f.dstEp % 256] ++ bytesLE 2 f.srcDev ++
    [f.srcPile % 256, f.srcEp % 256] ++ bytesLE 4 f.msgId ++ [f.payload.length % 256, f.ukind % 256, 0, 0] ++ ofBytes f.payload))
  { body := body, tag := rawTag body, useq := useq, tc := 1 }

/-- The frame in a gondola of its class; none where it is poisoned, its BLOCK_CHECK fails or LEN is out of range. -/
def frameOf (g : Gondola) : Option UFrame :=
  let bs := bytesLE 128 g.body.toNat
  let at' (o n : Nat) : Nat := ofLE ((bs.drop o).take n)
  if g.tc != 1 || g.poison || g.empty || !lineCheckOk (gondolaLine g) || decide (112 < at' 12 1) then none
  else some ⟨at' 0 2, at' 2 1, at' 3 1, at' 4 2, at' 6 1, at' 7 1, at' 8 4, at' 13 1, toBytes ((bs.drop 16).take (at' 12 1))⟩

/-- A hop's state as it starts: the far end holds 32 frames, 64 on SVC. -/
def freshHop (q : Nat) : UHop := { credits := if q = 1 then 64 else 32 }
def State.hop (s : State) (p q : Nat) : UHop := SMap.getD (s.pile p).sw.hops q (freshHop q)
def modHop (p q : Nat) (f : UHop → UHop) : Act :=
  modSw p (fun w => { w with hops := SMap.set w.hops q (some (f (SMap.getD w.hops q (freshHop q)))) })

/-- A ULINK frame waits to leave on a port. -/
def pushUlink (p q : Nat) (u : Ulink) : Act := modHop p q (fun h => { h with acks := h.acks ++ [u] })

/-- A frame has left the buffer of the port it came in by, which gives its credit back (R229). -/
def giveCredit (p from' : Nat) : Act :=
  if from' = 0 then .done else .ask fun s => pushUlink p from' ⟨(s.hop p from').rxNext, 1, false⟩

/-- Queue a frame on a port; `from'` is the port whose buffer holds it. -/
def putFrame (p q from' : Nat) (f : UFrame) : Act := modHop p q (fun h => { h with waiting := h.waiting ++ [(from', f)] })

/-- The port towards another pile of the device: along the row first, then along the column. -/
def meshPort (p to' : Nat) : Nat :=
  if p % 4 < to' % 4 then 5 else if to' % 4 < p % 4 then 7 else if p < to' then 6 else 4

/-- Where a frame goes: an endpoint of this pile (0), a port, or nowhere. -/
def State.route (s : State) (p : Nat) (f : UFrame) : Option Nat :=
  if f.dstDev = s.deviceNo then
    if f.dstPile = 0xFF then some 1
    else if 16 ≤ f.dstPile then none
    else if f.dstPile = p then some 0 else some (meshPort p f.dstPile)
  else if f.dstDev < 4096 && s.on (dk .UR_PORT_VALID f.dstDev) then
    let out := s.rd (dk .UR_PORT_PILE f.dstDev)
    if out = p then some (2 + s.rd (dk .UR_PORT_PORT f.dstDev)) else some (meshPort p out)
  else none

/-- The reply to a frame's source: 1 DEST_RESET, 2 no route. -/
def replyFrame (dev p : Nat) (f : UFrame) (kind : Nat) : UFrame :=
  ⟨f.srcDev, f.srcPile, f.srcEp, dev, p, f.dstEp, f.msgId, kind, []⟩

/-- The domain of an endpoint of a pile: the control cores' or the memory's. -/
def endpointDomain (p ep : Nat) : Nat := if ep = 4 then domMem p else if ep = 5 then domSw p else domCtl p

/-- An endpoint must wait for its domain; memory that is OFF is not waited for (R502, R503). -/
def State.endpointWaits (s : State) (p ep : Nat) : Bool :=
  !s.ready (endpointDomain p ep) && !(ep == 4 && s.power (domMem p) == 2)

/-- A frame reaches its endpoint, once the endpoint's domain is ready. -/
def deliverFrame (p : Nat) (f : UFrame) : Act :=
  .ask fun s => if s.endpointWaits p f.dstEp
    then (demandWake (endpointDomain p f.dstEp)).seq (modSw p (fun w => { w with toWake := w.toWake ++ [f] }))
    else send (.deliver p f)

/-- The frames that waited for a domain are delivered. -/
def deliverHeld (d : Nat) : Act :=
  if d < 32 then .done else .ask fun s =>
    let p := (d - 32) / 32
    let due (f : UFrame) : Bool := endpointDomain p f.dstEp == d && !s.endpointWaits p f.dstEp
    (modSw p (fun w => { w with toWake := w.toWake.filter (fun f => !due f) })).seq
      (Act.each ((s.pile p).sw.toWake.filter due) (fun f => send (.deliver p f)))

/-- Route a frame that came in by a port (0: from an endpoint); a frame that cannot go on is discarded with a reply, itself routed
once. -/
def routeFrame (p from' : Nat) (f : UFrame) : Nat → Act
  | 0 => .done
  | n + 1 => .ask fun s => match s.route p f with
    | none => routeFrame p 0 (replyFrame s.deviceNo p f 2) n
    | some 0 =>
      if (s.pile p).resetSrc != 0 then routeFrame p 0 (replyFrame s.deviceNo p f 1) n
      else deliverFrame p f
    | some q => if s.portUp p q then putFrame p q from' f else routeFrame p 0 (replyFrame s.deviceNo p f 2) n

/-- A port has gone down: the frames that wait for it are discarded, each with a no-route reply to its source (R257). What has been sent and
not acknowledged stays to be sent again. -/
def dropFrames (p q : Nat) : Act :=
  .ask fun s => (modHop p q (fun h => { h with waiting := [], acks := [], again := [] })).seq
    (Act.each (s.hop p q).waiting (fun f => (giveCredit p f.1).seq (routeFrame p 0 (replyFrame s.deviceNo p f.2 2) 2)))

end Sys2Proof.Machine
end

