-- ==== Sys2Proof/Machine/HostPort.lean ====
section
/-! DEFINITION. The host port and Lift sessions (R417-R444): sessions opened, kept and ended, the network's own questions, the
link's training, and event acknowledgements. -/

namespace Sys2Proof.Machine

/-! ## Opening a session -/

/-- REJECT carries a reason and no TAG (R428). -/
def rejectMsg (m : LiftMsg) (session reason : Nat) : Act :=
  sendFrame m.src { src := m.src, v6 := m.v6, port := m.port, type := tyReject, session := session, seq := 0, length := 4
                    payload := toBytes (bytesBE 4 reason) }

/-- A session identifier: never 0, and not one in use (R425); its value is free (log 15). -/
def State.newId (s : State) (r : Nat) : Nat :=
  let ids := s.sessions.map Session.id ++ s.halfOpen.map HalfOpen.id
  ((List.range 32).map (fun k => (r + k) % (2 ^ 32 - 1) + 1)).find? (fun i => !ids.contains i) |>.getD 1

/-- Whether MB00 is granted to a host key that asks for events (R444): no other session holds it and it is held over for no
other key. -/
def State.mb00Free (s : State) (host : Bytes) : Bool :=
  s.lift.mb00Ses.isNone && (s.lift.mb00.isNone || s.lift.mb00 == some host)

/-- Whether a new session of a host key takes MB00: it asks for events (R444), or its key holds MB00 over (R441). -/
def State.takesMb00 (s : State) (events : Bool) (host : Bytes) : Bool :=
  (events || s.lift.mb00 == some host) && s.mb00Free host

/-- Whether an open session of a host key still has a reply of a mailbox to deliver; that one is not kept for another. -/
def State.replyOnWay (s : State) (host : Bytes) (i : Nat) : Bool :=
  s.sessions.any (fun y => y.host == host &&
    (y.unacked.map Unacked.msg ++ y.waiting).any (fun m => m.type == tyReply && m.mailbox == i))

/-- The device's answer to an acceptable HELLO (R425, R426): ACCEPT, with the keys derived and a session half open. -/
def accept (m : LiftMsg) : Act :=
  .ask fun s =>
    let hello := ofBytes m.payload
    let priv := (Config.random s.free).toNat
    let nonce := bytesLE 32 (Config.random (s.free + 1)).toNat
    let id := s.newId (Config.random (s.free + 2)).toNat
    let hEph := ofLE (hello.take 32)
    let hNonce := (hello.drop 32).take 32
    let host := (m.payload.drop 64).take 32
    let events := (hello.getD 99 0) % 2 == 1
    let mtu := min (ofBE ((hello.drop 96).take 2)) s.lift.mtu
    let boot := !s.on (dk .SEC_STATUS_BUNDLE_OK)
    let z := x25519 priv hEph
    let flags := (if s.takesMb00 events host then 1 else 0) + (if boot then 2 else 0)
    let body := bytesBE 4 id ++ bytesLE 32 (x25519 priv 9) ++ nonce ++ identityPub ++ bytesBE 2 mtu ++ bytesBE 2 flags ++
      bytesBE 4 192 ++ endorsementBytes
    let acc := body ++ edSign identitySeed (sha512 (hello ++ body))
    let okm := hkdf512 (hNonce ++ nonce) (bytesLE 32 z) (ascii "Lift1 keys" ++ sha512 (hello ++ acc)) 128
    if z = 0 then (emit (.draw 3)).seq (rejectMsg m 0 6)
    else Act.all [
      emit (.draw 3),
      emit (.openHalf ⟨id, m.src, host, m.payload, toBytes acc, toBytes (okm.take 64), toBytes (okm.drop 64), mtu,
        events, boot⟩),
      sendFrame m.src { src := m.src, v6 := m.v6, port := m.port, type := tyAccept, session := id, seq := 0
                        length := acc.length, payload := toBytes acc }]

/-- HELLO (R424, R427, R428; the order of the reasons is log 13). -/
def actHello (m : LiftMsg) : Act :=
  onFrame m (.ask fun s =>
    if 16 ≤ s.halfOpen.length then .done
    else if m.magic ≠ 0x4C46 ∨ m.version ≠ 1 then rejectMsg m 0 1
    else if m.type ≠ tyHello ∨ m.payload.length ≠ 104 ∨ m.length ≠ 104 ∨ m.session ≠ 0 then bump (dk .LIFT_MAC_FAIL)
    else if natBE (bytesAt m.payload 96 2) < 1280 then rejectMsg m 0 5
    else if !s.hostKeyOk (bytesAt m.payload 64 32) then rejectMsg m 0 2
    else if 4 ≤ s.sessions.length then rejectMsg m 0 3
    else accept m)

def execHello (m : LiftMsg) (s : State) : Host.Outcome State Fault Refusal := (actHello m).answer s

/-- A session opens (R426, R441, R444): mailboxes of its host key come back, kept replies go out first in their order, and
MB00 is taken where it is asked for and free. -/
def openFrom (h : HalfOpen) (m : LiftMsg) : Act :=
  .ask fun s =>
    let x : Session :=
      { id := h.id, src := m.src, host := h.host, kIn := h.kIn, kOut := h.kOut, mtu := h.mtu, boot := h.boot
        idleS := s.rd (dk .LIFT_CTL_IDLE_S), retainS := s.rd (dk .LIFT_CTL_RETAIN_S)
        port := s.rd (dk .LIFT_CTL_UDP_PORT), v6 := m.v6, ip4 := s.lift.ip4, ip6 := s.lift.ip6, ipMtu := s.lift.mtu }
    let mine := (List.range 64).filter (fun i => (s.mailbox i).owner == some h.host)
    Act.all [
      emit (.dropHalf h.id),
      emit (.openSession x),
      Act.each mine (fun i => modMb i (fun b => { b with expired := false })),
      sendPlain h.id tyAckOnly,
      Act.each (mine.filter (fun i => !s.replyOnWay h.host i)) (fun i =>
        Act.each (s.mailbox i).replies (fun p => sendSeq h.id tyReply i p)),
      Act.when (s.takesMb00 h.events h.host)
        (Act.all [modLift (fun l => { l with mb00 := some h.host, mb00Ses := some h.id }), sendEvent, nextEvent])]

/-- CONFIRM (R426, R428): the session opens when the signature and TAG verify; a genuine CONFIRM of an open session is a
duplicate (R429, R431). -/
def actConfirm (m : LiftMsg) : Act :=
  onFrame m (.ask fun s => match s.half? m.session with
    | none => heardIn m (fun id => (bump (dk .LIFT_DUP)).seq (sendPlain id tyAckOnly))
    | some h =>
      let signed := sha512 (ofBytes h.hello ++ ofBytes h.accept)
      if !headerOk m || m.type != tyConfirm || m.seq != 0 then bump (dk .LIFT_MAC_FAIL)
      else if m.tag != msgTag h.kIn m || !edVerify (ofBytes h.host) signed (ofBytes m.payload) then rejectMsg m h.id 4
      else if 4 ≤ s.sessions.length then rejectMsg m h.id 3
      else openFrom h m)

def execConfirm (m : LiftMsg) (s : State) : Host.Outcome State Fault Refusal := (actConfirm m).answer s

/-- 1 s without a valid CONFIRM: the half-open session is discarded (R428). -/
def execHalfOpenExpire (session : Nat) (s : State) : Host.Outcome State Fault Refusal :=
  (emit (.dropHalf session)).answer s

/-! ## Keeping and ending sessions -/

/-- The timeout of R432: a message still unacknowledged is sent again. -/
def execRetransmitTimeout (session seq : Nat) (s : State) : Host.Outcome State Fault Refusal :=
  (resend session seq).answer s

/-- CLOSE (R430): from the host, the session ends once the device has acknowledged it; from the device, once the host
has. -/
def actClose (fromDevice : Bool) (m : LiftMsg) : Act :=
  if fromDevice then sendSeq m.session tyClose 0xFF []
  else sequenced m (.close fromDevice m) 0 endSession

/-- RETAIN_S seconds after a session of a key ended with none since (R441): kept replies are dropped and its mailboxes are
free once their requests complete; MB00 is free. -/
def actRetainExpire (key : Bytes) : Act :=
  .ask fun s =>
    if s.sessions.any (fun x => x.host == key) then .done
    else Act.all [
      Act.each ((List.range 64).filter (fun i => (s.mailbox i).owner == some key)) (fun i =>
        modMb i (fun b => if b.busy = 0 then {} else { b with replies := [], st := .busy, expired := true })),
      Act.when (s.lift.mb00 == some key && s.lift.mb00Ses.isNone) (modLift (fun l => { l with mb00 := none }))]

def execRetainExpire (hostKey : Bytes) (s : State) : Host.Outcome State Fault Refusal := (actRetainExpire hostKey).answer s

/-- EVENT_ACK (R444): the number of the outstanding event lets the next one go; any other number is ignored. -/
def actEventAck (m : LiftMsg) : Act :=
  sequenced m (.eventAck m) 0 fun id => .ask fun s => match s.lift.outEvt with
    | some e =>
      if s.lift.mb00Ses = some id ∧ m.payload.length = 8 ∧ natBE m.payload = e.number then
        (modLift (fun l => { l with outEvt := none })).seq nextEvent
      else .done
    | none => .done

/-! ## The network's own questions (R419, R420) -/

/-- A MAC control frame reaches the port: such frames are never tagged (log 17). -/
def otherFrame (k : Act) : Act := .ask fun s => if s.hostUp then (bump (dk .HP_RX_FRAMES)).seq k else .done

/-- A frame of the network's own questions reaches the port (R419, R420): discarded where its VLAN is not accepted, its IP datagram is
too large, or it is a fragment. -/
def netFrame {α : Type} (f : Framed α) (size : Nat) (k : α → Act) : Act :=
  otherFrame (.ask fun s =>
    if !s.vlanOk f.vid then .done
    else if s.lift.mtu < size then bump (dk .HP_RX_OVERSIZE)
    else if f.frag then bump (dk .HP_RX_DISCARD)
    else k f.val)

/-- An answer of the port leaves. -/
def answerFrame (o : Option (Nat × Nat) → Out) : Act := .ask fun s => (bump (dk .HP_TX_FRAMES)).seq (send (o s.vlan))

/-- PFC_XOFF shows XOFF in force in either direction (R450). -/
def showXoff : Act := .ask fun s => setB (dk .HP_STATUS_PFC_XOFF) (s.lift.xoffSent || s.lift.xoffGot)

/-- Bytes that wait in the receive buffer: bulk data held out of order (R431; log 5). -/
def State.rxLevel (s : State) : Nat := (s.sessions.map (fun x => (x.held.map Early.bulk).sum)).sum

/-- A PFC frame leaves: it is a frame sent (R453). -/
def sendPfc (xoff : Bool) : Act :=
  .ask fun s => Act.all [modLift (fun l => { l with xoffSent := xoff }),
    Act.when s.hostUp ((bump (dk .HP_TX_FRAMES)).seq (send (.pfc (s.rd (dk .HP_CTL_PFC_PRIO)) xoff))), showXoff]

/-- XOFF above 1.5 MiB, XON below 1 MiB, for PFC_PRIO and only with PFC_EN (R419). -/
def pfcCheck : Act :=
  .ask fun s =>
    if !s.on (dk .HP_CTL_PFC_EN) then .done
    else if 1572864 < s.rxLevel ∧ s.lift.xoffSent = false then sendPfc true
    else if s.rxLevel < 1048576 ∧ s.lift.xoffSent = true then sendPfc false
    else .done

/-- A PFC frame is honoured for PFC_PRIO with PFC_EN set, and ignored otherwise (R419). -/
def actPfcFrame (prio quanta : Nat) : Act :=
  otherFrame (.ask fun s =>
    if s.on (dk .HP_CTL_PFC_EN) ∧ prio = s.rd (dk .HP_CTL_PFC_PRIO) then
      (modLift (fun l => { l with xoffGot := quanta != 0 })).seq (showXoff.seq pfcCheck)
    else .done)

def execPfcFrame (prio quanta : Nat) (s : State) : Host.Outcome State Fault Refusal := (actPfcFrame prio quanta).answer s

/-- Global PAUSE is ignored and counted (R419). -/
def execPauseFrame (s : State) : Host.Outcome State Fault Refusal := (otherFrame (bump (dk .HP_RX_DISCARD))).answer s

/-- The link-local address formed from the MAC in modified EUI-64 form (R420). -/
def linkLocal : BitVec 128 :=
  let m := Config.macAddress.toNat
  let hi := (m / 2 ^ 24) ^^^ 0x020000
  BitVec.ofNat 128 (0xFE80 * 2 ^ 112 + hi * 2 ^ 40 + 0xFFFE * 2 ^ 24 + m % 2 ^ 24)

/-- The device's addresses (R420): the routable ones set last and those that open sessions opened under, and the link-local one. -/
def State.ownIp4 (s : State) (a : BitVec 32) : Bool := a != 0 && (s.lift.ip4 :: s.sessions.map Session.ip4).contains a
def State.ownIp6 (s : State) (a : BitVec 128) : Bool :=
  a == linkLocal || (a != 0 && (s.lift.ip6 :: s.sessions.map Session.ip6).contains a)

/-- ARP for an address of the device is answered (R420); an ARP packet has 28 bytes. -/
def actArpRequest (target : BitVec 32) (sender : Framed (BitVec 48)) (ip : BitVec 32) : Act :=
  netFrame sender 28 (fun mac => .ask fun s => Act.when (s.ownIp4 target) (answerFrame (.arp · mac ip)))

def execArpRequest (target : BitVec 32) (senderMac : Framed (BitVec 48)) (senderIp : BitVec 32) (s : State) :
    Host.Outcome State Fault Refusal := (actArpRequest target senderMac senderIp).answer s

/-- Neighbour solicitation for an address of the device is answered (R420); its datagram has 72 bytes. -/
def actNeighbourSolicitation (target : BitVec 128) (sender : Framed (BitVec 128)) : Act :=
  netFrame sender 72 (fun a => .ask fun s => Act.when (s.ownIp6 target) (answerFrame (.advert · a)))

def execNeighbourSolicitation (target : BitVec 128) (sender : Framed (BitVec 128)) (s : State) : Host.Outcome State Fault Refusal :=
  (actNeighbourSolicitation target sender).answer s

/-- ICMP and ICMPv6 echo to an address of the device is answered (R420). -/
def actEchoRequest (v6 : Bool) (src dst : BitVec 128) (payload : Framed Bytes) : Act :=
  netFrame payload ((if v6 then 48 else 28) + payload.val.length) (fun b => .ask fun s =>
    Act.when (if v6 then s.ownIp6 dst else decide (dst.toNat < 2 ^ 32) && s.ownIp4 (dst.setWidth 32)) (answerFrame (.echo · v6 src b)))

def execEchoRequest (v6 : Bool) (src dst : BitVec 128) (payload : Framed Bytes) (s : State) : Host.Outcome State Fault Refusal :=
  (actEchoRequest v6 src dst payload).answer s

/-! ## The link (R417, R418, R450) -/

/-- The rate code that the port trains at next (R418): 2 for 800 Gb/s, 1 for 400 Gb/s. -/
def State.trainRate (s : State) : Nat :=
  if s.rd (dk .HP_CTL_SPEED) = 1 then 2
  else if s.rd (dk .HP_CTL_SPEED) = 2 then 1
  else if s.lift.fails800 < 3 then 2 else 1

/-- The link is down and starts over: NEGOTIATE on copper, TRAIN on a module (R417, R449). -/
def startTraining : Act :=
  .ask fun s => Act.all [
    setR (dk .HP_STATUS_STATE)
      (if !s.on (dk .HP_CTL_ENABLE) || !s.ready 2 then 0 else if s.on (dk .HP_CTL_MEDIA) then 2 else 1),
    setR (dk .HP_STATUS_RATE) 0, setR (dk .HP_STATUS_LANES_UP) 0,
    modLift (fun l => { l with xoffSent := false, xoffGot := false }), showXoff]

/-- Lanes trained at the rate that the port trains at; 400 Gb/s uses lanes 0-3 (R417). -/
def State.lanesUp (s : State) (lanes : BitVec 8) : Nat := if s.trainRate = 2 then lanes.toNat else lanes.toNat % 16

/-- Auto-negotiation on copper is over, and the link trains next; or the link has trained, or failed to (R417, R418, R450). A failed
negotiation starts over and is no failed training (log 150). -/
def actHostLinkTrain (ok : Bool) (lanes : BitVec 8) : Act :=
  .ask fun s =>
    if !s.on (dk .HP_CTL_ENABLE) || !s.ready 2 || !s.ready 1 || s.rd (dk .HP_STATUS_STATE) == 3 then .done
    else if !s.on (dk .HP_CTL_MEDIA) && s.rd (dk .HP_STATUS_STATE) != 2 then
      (if ok then setR (dk .HP_STATUS_STATE) 2 else startTraining)
    else if ok then Act.all [
      setR (dk .HP_STATUS_RATE) s.trainRate,
      setR (dk .HP_STATUS_MEDIA) (s.rd (dk .HP_CTL_MEDIA)),
      setR (dk .HP_STATUS_LANES_UP) (s.lanesUp lanes),
      setR (dk .HP_STATUS_STATE) 3,
      modLift (fun l => { l with fails800 := 0 })]
    else Act.all [
      Act.when (s.trainRate == 2 && s.rd (dk .HP_CTL_SPEED) != 1) (modLift (fun l => { l with fails800 := l.fails800 + 1 })),
      startTraining,
      setR (dk .HP_STATUS_LANES_UP) (s.lanesUp lanes)]

def execHostLinkTrain (ok : Bool) (lanes : BitVec 8) (s : State) : Host.Outcome State Fault Refusal :=
  (actHostLinkTrain ok lanes).answer s

/-- The link leaves UP; the rate is chosen again when it next trains (R418). -/
def execHostLinkDown (s : State) : Host.Outcome State Fault Refusal :=
  (Act.all [setR (dk .HP_STATUS_STATE) 0, setR (dk .HP_STATUS_RATE) 0, setR (dk .HP_STATUS_LANES_UP) 0,
    modLift (fun l => { l with fails800 := 0, xoffSent := false, xoffGot := false }), showXoff]).answer s

end Sys2Proof.Machine
end

