-- ==== Sys2Proof/Machine/Power.lean ====
section
/-! DEFINITION. Power domains (R500-R509): what a domain loses, transitions and what meets them, dependencies, POWER_SET and
its completion, the restart of the device, and the current-ramp governor (R512-R514). -/

namespace Sys2Proof.Machine

/-! ## What units lose (R232, R500) -/

/-- Fields of tile registers; XO_OP_COUNT's rows 0-4 are a tile's (R81). -/
def tileFlds : List Nat := (regTable.filter (fun r => r.scope == .tile)).flatMap (fun r => r.fields.map (fun f => f.ctorIdx))

def isTileReg (p t c : Nat) : Bool :=
  codePile c == p && codeTile c == t &&
  (tileFlds.contains (codeFld c) || (codeFld c == Fld.XO_OP_COUNT.ctorIdx && decide (codeIdx c < 5)))

/-- Fields that lie in a pile's switch domain: the switch's and the gate logic's (R232). -/
def switchFlds : List Nat :=
  ((regs07a ++ regs07b ++ regs08a ++ regs08b).filter (fun r => r.scope == .pile)).flatMap (fun r => r.fields.map (fun f => f.ctorIdx))

def isSwitchReg (p c : Nat) : Bool := codePile c == p && switchFlds.contains (codeFld c)

/-- A tile's registers, units and local store at reset: every line reads poisoned. -/
def clearTile (p t : Nat) : Act := Act.all [
  emit (.clearRegs (isTileReg p t)), emit (.tile p t {}), emit (.dropSram (lsAddr p t 0) lsLines)]

def clearBuf (p : Nat) : Act := emit (.dropSram (bufAddr p 0) bufLines)

/-- Work that a pile's control cores and RUE had in flight is gone (R469). -/
def dropWork (p : Nat) : Act := modPile p (fun x => { x with
  rue := { x.rue with bkts := [], kidVerd := [], kidRec := [], verd := [], recs := [], gathers := [], scheds := [], readOut := [], passes := [] } })

/-- What domain d loses on entry to OFF (R500). -/
def loseDomain (d : Nat) : Act :=
  if d < 32 then .done
  else
    let p := (d - 32) / 32
    let j := (d - 32) % 32
    if j = 0 then (emit (.clearRegs (isSwitchReg p))).seq (modPile p (fun x => { x with gate := {}, sw := {} }))
    else if j = 1 then dropWork p
    else if j ≤ 10 then clearTile p (j - 2)
    else if j = 11 then clearBuf p
    else if j = 12 then (emit (.dropDram p)).seq (modMem p (fun m => { m with grooms := [], ueGrooms := [] }))
    else .done

/-! ## Transitions (R504) -/

/-- The state a domain will be in once an entry that is due and its transitions have ended. -/
def State.effPower (s : State) (d : Nat) : Nat := match s.pwr.due.find? (fun q => q.1 == d), (s.dom d).after.or (s.dom d).next, (s.dom d).to' with
  | some q, _, _ => q.2
  | none, some n, _ => n
  | none, none, some t => t
  | none, none, none => s.power d

/-- A bridge goes down, at both ends, and its frames with it. -/
def bridgeDown (p d st : Nat) : Act :=
  let far := farBridge p d
  Act.all [bridgeState p d st, dropFrames p (4 + d), dropFrames far.1 (4 + far.2)]

/-- A link that its domain carries goes down as the domain leaves ON (R257, R417), a bridge at both ends; a retired port stays
retired (R263). -/
def linkLeaves (d : Nat) : Act :=
  if d = 2 then Act.all [setR (dk .HP_STATUS_STATE) 0, setR (dk .HP_STATUS_RATE) 0, setR (dk .HP_STATUS_LANES_UP) 0]
  else if 32 ≤ d ∧ ((d - 32) % 32 = 13 ∨ (d - 32) % 32 = 14) then
    .ask fun s => (Act.when (s.rd (pk .LNK_STATUS_STATE ((d - 32) / 32) ((d - 32) % 32 - 13)) != 10)
      (setR (pk .LNK_STATUS_STATE ((d - 32) / 32) ((d - 32) % 32 - 13)) 0)).seq (dropFrames ((d - 32) / 32) ((d - 32) % 32 - 11))
  else if 32 ≤ d ∧ 15 ≤ (d - 32) % 32 then bridgeDown ((d - 32) / 32) ((d - 32) % 32 - 15) 0
  else .done

/-- A link whose domain is ON starts to train: the host port (R418), an enabled port from detection, a bridge with its wire test
once both its ends are ready (R255). -/
def linkReturns (d : Nat) : Act :=
  if d = 2 then startTraining
  else if 32 ≤ d ∧ ((d - 32) % 32 = 13 ∨ (d - 32) % 32 = 14) then
    .ask fun s => Act.when (s.on (pk .LNK_CTL_ENABLE ((d - 32) / 32) ((d - 32) % 32 - 13)) && !s.on (pHeld d) &&
        s.rd (pk .LNK_STATUS_STATE ((d - 32) / 32) ((d - 32) % 32 - 13)) != 10)
      ((modPort ((d - 32) / 32) ((d - 32) % 32 - 13) (fun x => { x with verFails := 0 })).seq
        (setR (pk .LNK_STATUS_STATE ((d - 32) / 32) ((d - 32) % 32 - 13)) 1))
  else if 32 ≤ d ∧ 15 ≤ (d - 32) % 32 then
    .ask fun s =>
      let e := farBridge ((d - 32) / 32) ((d - 32) % 32 - 15)
      Act.when (s.ready d && s.ready (domB e.1 e.2)) (bridgeState ((d - 32) / 32) ((d - 32) % 32 - 15) 4)
  else .done

def beginEntry (d target : Nat) : Act := Act.all [
  setR (pEnter d) 1, modDom d (fun x => { x with to' := some target }), linkLeaves d]

/-- Ask for a domain to enter RET or OFF; a domain that is OFF reaches RET through a wake (R508). An entry that has begun completes
first; of what meets it the last is kept, but a wake that is latched still follows it, and the new entry follows that wake (R504). -/
def enter (d target : Nat) : Act :=
  .ask fun s =>
    if s.on (pWake d) then modDom d (fun x => { x with next := some target })
    else if s.on (pEnter d) then modDom d (fun x =>
      if x.next = some 0 then { x with after := some target }
      else if x.to'.any (· != target) then { x with next := some target } else { x with to' := some target, next := none })
    else if s.power d = target then .done
    else if s.power d = 2 then (beginWake d false).seq (modDom d (fun x => { x with next := some target }))
    else beginEntry d target

/-- Movers and frames that wait for a domain go on once it is ready. -/
def resumeMovers (d : Nat) : Act :=
  .ask fun s => (deliverHeld d).seq <| Act.when (s.ready d) (Act.each (List.range 144) (fun i =>
    Act.when ((s.tile (i / 9) (i % 9)).mover == .waking d) (modTile (i / 9) (i % 9) (fun x => { x with mover := x.moverRests }))))

/-- Requests that wait for a domain's transition are answered once nothing more is to follow. -/
def domainReplies (d : Nat) : Act :=
  .ask fun s => Act.when ((s.dom d).to'.isNone && (s.dom d).next.isNone)
    ((modDom d (fun x => { x with reqs := [] })).seq (Act.each (s.dom d).reqs (fun r => reply r stOk)))

/-- WAKE_COMPLETE (R504, R505, R509); with no job loaded a switch runs the bring-up page (R236). -/
def actWakeComplete (d : Nat) : Act :=
  .ask fun s =>
    if !s.on (pWake d) then .done
    else
      let x := s.dom d
      Act.all [
        setR (pWake d) 0, setR (dk .PWR_STATE_STATE d) 0, Act.when x.own (setR (pHeld d) 0),
        modDom d (fun y => { y with to' := none, next := none, own := false }),
        Act.when (decide (32 ≤ d) && (d - 32) % 32 == 0 && !s.jobLoaded) (setR (pk .SW_STATUS_MODE ((d - 32) / 32)) 1),
        linkReturns d, resumeMovers d,
        (match x.next with
         | some t => enter d t
         | none => .done),
        Act.when (d == 1 && s.power 2 != 0) (wake 2 true),
        domainReplies d]

/-! ## Restart and boot (R473, R553) -/

/-- Everything but AON is OFF, its outputs held. -/
def powerDown : Act := emit (.restart false)

/-- Stage 1 of bring-up starts: the hub is powered and its boot ROM runs (R473). -/
def startStage1 : Act := Act.all [
  powerDown, setR (dk .PWR_STATE_STATE 1) 0, setR (pHeld 1) 0, modBoot (fun b => { b with stage1 := false })]

/-- Stage 1 has ended: the boot ROM waits for a bundle, with the domains of R478 ON (log 1). -/
def endStage1 : Act := emit (.restart true)

/-- ENTRY_COMPLETE (R504): the domain is in RET or OFF; the wake or the entry that met this one starts at once. HUB going OFF takes the hub's
registers with it, and its wake is a boot (R509). -/
def actEntryComplete (d : Nat) : Act :=
  .ask fun s =>
    if !s.on (pEnter d) then .done
    else
      let x := s.dom d
      let t := x.to'.getD 2
      let again := x.next = some 0
      Act.all [
        setR (pEnter d) 0, setR (pLatch d) 0, setR (dk .PWR_STATE_STATE d) t,
        Act.when (t == 2) ((setR (pHeld d) 1).seq (loseDomain d)),
        modDom d (fun y => { y with to' := none, next := none, after := none }),
        Act.when (decide (d < 3 ∧ again)) (setR (dk .WAKE_LATCH_REPLAYED) 1),
        (if d = 1 ∧ t = 2 then (if again then startStage1 else powerDown)
         else (match x.next with
           | some 0 => (wake d x.own).seq (modDom d (fun y => { y with next := x.after }))
           | some n => enter d n
           | none => .done).seq (domainReplies d))]

def execEntryComplete (domain : Nat) (s : State) : Host.Outcome State Fault Refusal := (actEntryComplete domain).answer s

/-! ## Dependencies (R13, R235, R501) -/

/-- Every domain but AON and HUB. -/
def otherDomains : List Nat := 2 :: (List.range 16).flatMap (fun p => (List.range 19).map (fun j => 32 + 32 * p + j))

def domainExists (d : Nat) : Bool :=
  decide (d < 3 ∨ (32 ≤ d ∧ d < 544 ∧ (d - 32) % 32 < 15)) ||
  (decide (32 ≤ d ∧ d < 544 ∧ 15 ≤ (d - 32) % 32 ∧ (d - 32) % 32 < 19) && bridgePresent ((d - 32) / 32) ((d - 32) % 32 - 15))

/-- Whether a transition keeps R501; a domain that goes from OFF to RET is ON between (R508). No domain may come ON whose HUB is about to
leave ON, and none may leave OFF whose HUB is about to go OFF. -/
def State.depsOk (s : State) (d target : Nat) : Bool :=
  (d < 2 || target == 2 || (s.effPower 1 == 0 || (target == 1 && s.effPower d != 2 && s.effPower 1 != 2))) &&
  if 32 ≤ d then
    if (d - 32) % 32 = 0 then target == 0 || (List.range 18).all (fun j => s.effPower (d + j + 1) != 0)
    else target == 2 || (target == 1 && s.effPower d != 2) || s.effPower (d - (d - 32) % 32) == 0
  else if d = 1 then
    target == 0 || otherDomains.all (fun o => s.effPower o != 0 && (target == 1 || s.effPower o == 2))
  else true

/-- The spare of a port's direction: a lane neither bad nor in service (R258). -/
def spareLane (map : List Nat) (bad : BitVec 9) : Option Nat := (List.range 9).find? (fun m => !bad.getLsbD m && !map.contains m)

/-- Piles whose pages the loaded image uses (R235). -/
def State.pagedPile (s : State) (p : Nat) : Bool := match s.job.image with
  | some i => i.pageImgs.any (fun g => g.pile == p)
  | none => false

/-- Whether a domain carries the device's clock: the upstream port's or its pile's switch, of a device that is not the timing
root and whose time base runs (R13). -/
def State.carriesClock (s : State) (d : Nat) : Bool :=
  s.on (dk .TB_CTL_ENABLE) && !s.on (dk .TB_CTL_ROOT) &&
  (d == domSw (s.rd (dk .TB_CTL_UP_PILE)) || d == domX (s.rd (dk .TB_CTL_UP_PILE)) (s.rd (dk .TB_CTL_UP_PORT)))

/-- Whether a domain is a switch, port or bridge of a pile whose pages the loaded image uses (R235). -/
def State.carriesPages (s : State) (d : Nat) : Bool :=
  decide (32 ≤ d) && s.jobLoaded && s.pagedPile ((d - 32) / 32) && ((d - 32) % 32 == 0 || decide (13 ≤ (d - 32) % 32))

/-- Whether R13 or R235 forbids a domain to leave ON. -/
def State.domainInUse (s : State) (d : Nat) : Bool := s.carriesClock d || s.carriesPages d

/-- Start a transition. -/
def toState (d target : Nat) (own : Bool) : Act := if target = 0 then wake d own else enter d target

/-- Reply to a request once a domain's transitions end; at once where there is none. -/
def whenSettled (d : Nat) (r : Req) : Act :=
  .ask fun s => if (s.dom d).to'.isNone ∧ (s.dom d).next.isNone then reply r stOk
    else modDom d (fun x => { x with reqs := x.reqs ++ [r] })

/-- While a bring-up runs, commands on a pile's memory, ports or tiles are refused (R475). -/
def notBringing (r : Req) (p : Nat) (k : Act) : Act :=
  .ask fun s => if s.boot.run.isSome then reply r stBusy p else k

/-- A command's access to domains that wake on demand (R502): they are woken, and the command waits, with its row, until they are ready. -/
def whenUp (r : Req) (c : Instr) (ds : List Nat) (k : Act) : Act :=
  (Act.each ds demandWake).seq (.ask fun s => if ds.all s.ready then k else park r c)

/-- A command on a pile (R17): the management core forwards it over the service link to the pile's core. A switch that is not
ON carries nothing, and the command is refused; a core in RET or OFF is woken, and the command waits for it (R502). -/
def onPile (r : Req) (c : Instr) (p : Nat) (k : Act) : Act :=
  if 16 ≤ p then reply r stNoObject
  else .ask fun s =>
    if s.power (domSw p) ≠ 0 then reply r stNoObject else whenUp r c [domCtl p] k

/-- POWER_SET (R13, R235, R462, R501, R508); what answers a request that several rules refuse is log 121. -/
def actPowerSet (m : LiftMsg) (d target : Nat) : Act :=
  request m (.powerSet m d target) (some 8) fun r => .ask fun s =>
    if !domainExists d then reply r stNoObject
    else if 2 < target then reply r stBadParam 2
    else if s.boot.run.isSome && decide (32 ≤ d) then reply r stBusy ((d - 32) / 32)
    else if target ≠ 0 ∧ s.carriesClock d then reply r stInUse d
    else if s.jobLoaded && (decide (d < 32) || s.usesPile ((d - 32) / 32)) then reply r stWrongState s.jobState
    else if target ≠ 0 ∧ s.carriesPages d then reply r stInUse d
    else if d = 0 ∨ !s.depsOk d target ∨
        (32 ≤ d ∧ (d - 32) % 32 = 12 ∧ target ≠ 0 ∧ (s.pile ((d - 32) / 32)).mem.fill.isSome) then reply r stBadParam 2
    else if d < 3 ∧ target ≠ 0 then
      (reply r stOk).seq (modPwr (fun x => { x with due := x.due.filter (fun q => q.1 != d) ++ [(d, target)] }))
    else Act.all [
      modPwr (fun x => { x with due := x.due.filter (fun q => q.1 != d) }), toState d target false, whenSettled d r]

/-- HUB_ENTRY_START (R508): the entry that a POWER_SET announced, the first of those due, begins, and sessions end (R430). One that would break
R501 now is refused: what has come ON since it was announced keeps HUB ON. -/
def actHubEntryStart (d : Nat) : Act :=
  .ask fun s => match s.pwr.due with
    | (e, target) :: rest =>
      if e ≠ d then .done
      else if !((modPwr (fun x => { x with due := rest })).run s).depsOk d target then modPwr (fun x => { x with due := rest })
      else Act.all [
        modPwr (fun x => { x with due := rest }), Act.each (s.sessions.map Session.id) endSession, enter d target]
    | [] => .done

def execHubEntryStart (domain : Nat) (s : State) : Host.Outcome State Fault Refusal := (actHubEntryStart domain).answer s

/-! ## Wake events and pins (R509, R551-R553, R562) -/

/-- Bring HUB and then HOST_PHY ON. -/
def wakeHub : Act :=
  .ask fun s =>
    if s.power 1 = 2 then startStage1
    else if s.power 1 = 0 && !s.on (pEnter 1) then wake 2 true
    else wake 1 true

/-- WAKE held for at least 1,000 AON clocks, where it is enabled; with PWR_GOOD low it waits (R553). The
land's level after the assertion is free (log 5). -/
def actWakePin (held : Nat) : Act :=
  withFree fun lvl => .ask fun s => (setR (dk .PIN_STATUS_WAKE) (lvl % 2)).seq <|
    if held < 1000 ∨ !s.on (dk .WAKE_CTL_PIN_EN) then .done
    else (setR (dk .WAKE_LATCH_PIN) 1).seq
      (if s.on (dk .PIN_STATUS_PWR_GOOD) ∧ s.on (dk .PIN_STATUS_RESET_N) then wakeHub
       else modPwr (fun x => { x with pinWake := true }))

def execWake (held : Nat) (s : State) : Host.Outcome State Fault Refusal := (actWakePin held).answer s

/-- Signal detect while HOST_PHY is in RET (R509). -/
def actSignalDetect : Act :=
  .ask fun s =>
    if s.on (dk .WAKE_CTL_DETECT_EN) ∧ s.power 2 = 1 then (setR (dk .WAKE_LATCH_DETECT) 1).seq wakeHub else .done

def execSignalDetect (s : State) : Host.Outcome State Fault Refusal := actSignalDetect.answer s

/-- A burn that power loss interrupts (R553): the word in progress reads burned or unburned bit by bit, so a free value says
which of its bits are. A VALID word stays unburned (R535). -/
def cutBurn : Act :=
  .ask fun s => match s.sec.burns with
    | [] => .done
    | b :: _ => withFree fun f => match b with
      | .sv => Act.when (f % 2 == 1) (emit (.fuse .sv))
      | .ownerKey k w => emit (.fuse (.ownerKey k (w &&& BitVec.ofNat 32 f)))
      | .ownerHost k w => emit (.fuse (.ownerHost k (w &&& BitVec.ofNat 32 f)))
      | .ownerOk => .done
      | .hostOk => .done
      | .entry w => Act.when (w &&& BitVec.ofNat 32 f != 0) (emit (.fuse (.entry (w &&& BitVec.ofNat 32 f))))

/-- PWR_GOOD falls (R553). -/
def actPwrGoodFall : Act := Act.all [cutBurn, powerDown, setR (dk .PIN_STATUS_PWR_GOOD) 0]

def execPwrGoodFall (s : State) : Host.Outcome State Fault Refusal := actPwrGoodFall.answer s

/-- Stage 1 starts where PWR_GOOD is high and RESET_N released; a wake that waited is acted on by it. -/
def stage1IfReady : Act :=
  .ask fun s => Act.when (s.on (dk .PIN_STATUS_PWR_GOOD) && s.on (dk .PIN_STATUS_RESET_N))
    (startStage1.seq (modPwr (fun x => { x with pinWake := false })))

def execPwrGoodRise (s : State) : Host.Outcome State Fault Refusal :=
  ((setR (dk .PIN_STATUS_PWR_GOOD) 1).seq stage1IfReady).answer s

/-- What the word in progress leaves burned when RESET_N lets it complete: it, and a claim's first VALID word that is done (R553; log 151). -/
def Burn.completed : Burn → List Burn
  | .hostOk => [.ownerOk, .hostOk]
  | b => [b]

/-- RESET_N held low (R553): with PWR_GOOD high it acts as PWR_GOOD falling, once a fuse word in progress is complete. -/
def actResetNAssert : Act :=
  .ask fun s => Act.all [
    Act.when (s.on (dk .PIN_STATUS_PWR_GOOD)) ((match s.sec.burns with
      | b :: _ => Act.each b.completed (fun x => emit (.fuse x))
      | [] => .done).seq powerDown),
    setR (dk .PIN_STATUS_RESET_N) 0]

def execResetNAssert (s : State) : Host.Outcome State Fault Refusal := actResetNAssert.answer s

def execResetNRelease (s : State) : Host.Outcome State Fault Refusal :=
  ((setR (dk .PIN_STATUS_RESET_N) 1).seq stage1IfReady).answer s

/-- An undervoltage acts as PWR_GOOD falling and is recorded (R553, R562). -/
def actUvTrip (rail : Nat) : Act :=
  .ask fun s => if !s.on (dk .PIN_STATUS_PWR_GOOD) then .done else Act.all [
    cutBurn, powerDown, setR (dk .PIN_STATUS_UV_TRIP) 1, setR (dk .PIN_STATUS_UV_RAIL) (rail % 4)]

def execUvTrip (rail : Nat) (s : State) : Host.Outcome State Fault Refusal := (actUvTrip rail).answer s

/-- VDD_AON comes up (R551): the AON island starts with what it keeps at reset; PWR_GOOD and RESET_N are low until their
lands rise, and the crystal oscillates within 5 ms. -/
def actAonPowerUp : Act := Act.all [
  powerDown, emit (.clearRegs (fun c => aonFlds.any (fun f => f.ctorIdx == codeFld c))),
  modPwr (fun x => { x with pinWake := false }),
  setR (dk .PIN_STATUS_PWR_GOOD) 0, setR (dk .PIN_STATUS_RESET_N) 0, setR (dk .PIN_STATUS_XTAL_OK) 1]

def execAonPowerUp (s : State) : Host.Outcome State Fault Refusal := actAonPowerUp.answer s

/-- VDD_AON is removed (R552): every kept state is lost. -/
def actAonPowerLoss : Act := Act.all [
  cutBurn, powerDown, emit (.clearRegs (fun c => aonFlds.any (fun f => f.ctorIdx == codeFld c))),
  modPwr (fun x => { x with pinWake := false }),
  setR (dk .PIN_STATUS_PWR_GOOD) 0, setR (dk .PIN_STATUS_RESET_N) 0, setR (dk .PIN_STATUS_XTAL_OK) 0,
  setR (dk .PIN_STATUS_FREF_OK) 0, setR (dk .PIN_STATUS_HREF_OK) 0]

def execAonPowerLoss (s : State) : Host.Outcome State Fault Refusal := actAonPowerLoss.answer s

/-- A reference clock is lost or returns (R562): 0 the crystal, 1 FREF, 2 HREF. -/
def actReferenceClockChange (clock : Nat) (ok : Bool) : Act :=
  if clock = 0 then setB (dk .PIN_STATUS_XTAL_OK) ok
  else if clock = 1 then setB (dk .PIN_STATUS_FREF_OK) ok
  else if clock = 2 then setB (dk .PIN_STATUS_HREF_OK) ok else .done

def execReferenceClockChange (clock : Nat) (ok : Bool) (s : State) : Host.Outcome State Fault Refusal :=
  (actReferenceClockChange clock ok).answer s

/-! ## The current-ramp governor (R512-R514), in units of 10 uA -/

/-- The slew in 16 clk, 17.02 ns. -/
def State.slew16 (s : State) : Int := (s.rd (dk .GOV_CTL_SLEW) : Int) * 1702

/-- The most filler there is: 144 A for each pile whose SW is ON. -/
def State.fillerMax (s : State) : Int :=
  (((List.range 16).filter (fun p => s.power (domSw p) == 0)).length : Int) * 14400000

/-- A current in units of 1/16 A, as a register field of 16 bits. -/
def amps16 (i : Int) : Nat := min 65535 (i / 6250).toNat

/-- A tile switches its filler in the clk in which its units stop or restart, by the compiled estimate of their current, of its at most 14
A (R512). -/
def tileFiller (p t : Nat) (on : Bool) : Act :=
  .ask fun s =>
    let e := min 224 (Config.tileEstimate p t (s.pile p).gate.entry)
    let now := s.rd (dk .GOV_STATUS_FILLER)
    Act.when s.jobStarted (setR (dk .GOV_STATUS_FILLER) (if on then max now (min (amps16 s.fillerMax) (now + e)) else now - e))

/-- The floor in force: from the device's first arrival at a gate until the stagger after the opening, counted in updates. -/
def State.floorNow (s : State) : Int :=
  if !s.jobStarted || !s.pwr.inGate then 0
  else match s.pwr.since with
    | some n => if (n + 1) * 16 ≤ s.rd (dk .GOV_STAGGER) then s.pwr.floor else 0
    | none => s.pwr.floor

/-- One update with a measured core current `w` in 1/16 A. -/
def actGovernorUpdate (w : Nat) : Act :=
  .ask fun s =>
    let w : Int := (w : Int) * 6250
    let floor := s.floorNow
    let prev := s.pwr.prev
    let i : Int :=
      if s.jobStarted then
        min (max (max (w + (s.rd (dk .GOV_CTL_RESERVE) : Int) * 100000) floor) (prev - s.slew16)) (prev + s.slew16)
      else max w (prev - s.slew16)
    let filler := min s.fillerMax (max 0 (i - w))
    let act := w + filler
    let over' : Bool := match s.pwr.since with
      | some n => decide (s.rd (dk .GOV_STAGGER) < (n + 1) * 16)
      | none => !s.jobStarted
    Act.all [
      Act.when (decide (s.slew16 < act - s.pwr.act ∨ s.slew16 < s.pwr.act - act)) (bump (dk .GOV_SLEW_VIOL)),
      modPwr (fun x => { x with
        prev := i, act := act
        since := if over' then none else x.since.map (· + 1)
        inGate := x.inGate && !over' }),
      setR (dk .GOV_STATUS_CURRENT) (amps16 act), setR (dk .GOV_STATUS_FILLER) (amps16 filler),
      setR (dk .GOV_STATUS_FLOOR) (amps16 floor), setB (dk .GOV_STATUS_HOLDING) (decide (act < floor))]

def execGovernorUpdate (w : Nat) (s : State) : Host.Outcome State Fault Refusal := (actGovernorUpdate w).answer s

end Sys2Proof.Machine
end

