-- ==== Sys2Proof/Machine/Access.lean ====
section
/-! DEFINITION. REG_READ and REG_WRITE (R4-R8, R458, R459) and the registers whose writes do more than store a value. -/

namespace Sys2Proof.Machine

/-! ## Clocks that count by themselves (log 5) -/

/-- A line error counter of the host port (R453) has risen by what the lanes gave since it was last read. -/
def riseFree (f : Fld) (top : Nat) : Act :=
  withFree fun a => .ask fun s => setR (dk f) (min top (s.rd (dk f) + a % 2 ^ 32))

/-- BR_TIME, where it is known, and TB_SLOT, where the time base runs or stage 2 of bring-up has begun (R473), have risen by
an amount that depends on time; while the host link is up, so have its line error counters (R453). -/
def tickClocks : Act :=
  withFree fun a => withFree fun b => .ask fun s => Act.all [
    Act.when s.hostUp (Act.all [riseFree .HP_FEC_CORR (2 ^ 64 - 1), riseFree .HP_FEC_UNCORR (2 ^ 32 - 1),
      riseFree .HP_FCS_ERR (2 ^ 32 - 1)]),
    Act.when (s.on (dk .BR_TIME)) (setR (dk .BR_TIME) (min (2 ^ 64 - 1) (s.rd (dk .BR_TIME) + a % 2 ^ 32))),
    Act.when (s.on (dk .TB_CTL_ENABLE) || decide (2 ≤ s.rd (dk .BR_STATUS_STAGE)))
      (setR (dk .TB_SLOT) (min (2 ^ 64 - 1) (s.rd (dk .TB_SLOT) + b % 2 ^ 32)))]

/-! ## The register a request names (R458) -/

/-- Indices of a request, as many as the register has. -/
def reqIdx (r : RegReq) (n : Nat) : List Nat := [r.idx0, r.idx1, r.idx2].take n

/-- The two indices of a field's key: a third index is folded into the second. -/
def keyIdx (dims idx : List Nat) : Nat × Nat := match dims, idx with
  | [_, _, n], [a, b, c] => (a, b * n + c)
  | [_, _], [a, b] => (a, b)
  | [_], [a] => (a, 0)
  | _, _ => (0, 0)

/-- The registers of a bridge end. -/
def bridgeRegs : List String := ["BRG_STATUS", "BRG_CRC_ERR", "BRG_CRC_TOTAL", "BRG_REPAIRS"]

/-- A register found: its table entry, pile and tile, and its first indices. -/
structure RegPlace where
  spec : RegSpec
  p    : Nat
  t    : Nat
  idx  : List Nat
  deriving DecidableEq, Repr

/-- Whether SCOPE is the register's (R458); XO_OP_COUNT's row 5 is a pile's, its others a tile's (R81). -/
def scopeOk (x : RegSpec) (r : RegReq) : Bool := match x.scope with
  | .device => r.scope == 0
  | .pile => r.scope == 1
  | .tile => r.scope == 2
  | .tilePile => r.scope == (if r.idx0 = 5 then 1 else 2)

/-- The first of a request's fields that an offset names. -/
def badIdx : List Nat → List Nat → Nat → Option Nat
  | d :: ds, i :: is, o => if d ≤ i then some o else badIdx ds is (o + 4)
  | _, _, _ => none

/-- The register that a request names, or the status and DETAIL that refuse it. -/
def regPlace (r : RegReq) : Except (Nat × Nat) RegPlace :=
  match regNamed r.name with
  | none => .error (stNoObject, 0)
  | some x =>
    let n := x.dims.length
    if 2 < r.scope then .error (stBadParam, 24)
    else if !scopeOk x r then .error (stNoObject, 0)
    else if 1 ≤ r.scope ∧ 16 ≤ r.pile then .error (stNoObject, 0)
    else if r.scope = 2 ∧ 9 ≤ r.tile then .error (stBadParam, 26)
    else if n < 1 ∧ r.idx0 ≠ 0 then .error (stBadParam, 28)
    else if n < 2 ∧ r.idx1 ≠ 0 then .error (stBadParam, 32)
    else if n < 3 ∧ r.idx2 ≠ 0 then .error (stBadParam, 36)
    else match badIdx x.dims (reqIdx r n) 28 with
      | some o => .error (stBadRange, o)
      | none => .ok ⟨x, if r.scope = 0 then 0 else r.pile, if r.scope = 2 then r.tile else 0, reqIdx r n⟩

/-- Whether a register is out of reach: one of a pile, or of a tile in it, whose switch is not ON (R17, R502), or one of a bridge
end that the device does not have (R11, R268, R270; log 127). -/
def State.regAbsent (s : State) (x : RegPlace) : Bool :=
  (x.spec.scope != .device && s.power (domSw x.p) != 0) ||
  (bridgeRegs.contains x.spec.name && !bridgePresent x.p (x.idx.headD 0))

/-- The core, and for a tile's register the tile, that a register of a pile is reached by wake for it (R17, R502). -/
def reachReg (x : RegPlace) : Act :=
  let ofTile := x.spec.scope == .tile || (x.spec.scope == .tilePile && x.idx.headD 0 != 5)
  Act.when (x.spec.scope != .device)
    ((demandWake (domCtl x.p)).seq (Act.when ofTile (demandWake (domTile x.p x.t))))

/-- The key of a field of a register found. -/
def RegPlace.key (x : RegPlace) (f : Fld) : FKey :=
  ⟨f, x.p, x.t, (keyIdx x.spec.dims x.idx).1, (keyIdx x.spec.dims x.idx).2⟩

/-- The register's value. -/
def State.placeValue (s : State) (x : RegPlace) : Nat :=
  s.regValue x.spec x.p x.t (keyIdx x.spec.dims x.idx).1 (keyIdx x.spec.dims x.idx).2

/-- The place with its last used index raised by c. -/
def RegPlace.stepIdx (x : RegPlace) (c : Nat) : RegPlace :=
  { x with idx := x.idx.dropLast ++ (x.idx.getLast?.map (· + c)).toList }

/-! ## REG_READ (R459) -/

/-- The values read, in order, each padded to a multiple of 4 B. -/
def State.regData (s : State) (x : RegPlace) (n : Nat) : List Nat :=
  (List.range n).flatMap (fun c => bytesLE (4 * ((x.spec.width + 31) / 32)) (s.placeValue (x.stepIdx c)))

def actRegRead (m : LiftMsg) (r : RegReq) : Act :=
  request m (.regRead m r) (some 80) fun q => tickClocks.seq (.ask fun s =>
    match regPlace r with
    | .error e => reply q e.1 e.2
    | .ok x =>
      if s.regAbsent x then reply q stNoObject
      else if r.count < 1 ∨ 1024 < r.count ∨ (x.spec.dims = [] ∧ r.count ≠ 1) then reply q stBadParam 40
      else if x.spec.dims ≠ [] ∧ x.spec.dims.getLastD 0 < x.idx.getLastD 0 + r.count then reply q stBadRange 40
      else if (List.range r.count).any (fun c => s.regAbsent (x.stepIdx c)) then reply q stNoObject
      else (reachReg x).seq (reply q stUnsync x.spec.width (s.regData x r.count)))

/-! ## REG_WRITE (R459) -/

/-- The bits of a request that fall in a field, as the field sees them. -/
def fieldBits (f : Fld) (v : Nat) : Nat := v / 2 ^ f.spec.lo % 2 ^ f.width

/-- Whether a write touches a field. -/
def touches (r : RegReq) (f : Fld) : Bool := fieldBits f r.mask.toNat != 0 && f.spec.acc != .ro

/-- The value that a write leaves to stand for a field: a pending write's, else the value in effect. -/
def State.latest (s : State) (k : FKey) : Nat :=
  match s.hold.waiting.find? (fun w => w.key == k), s.hold.frozen.find? (fun w => w.key == k) with
  | some w, _ => w.value
  | none, some w => w.value
  | none, none => s.rd k

/-- The value a write gives a field: masked bits from VALUE, the others unchanged; W1C clears the bits written 1 (R4). -/
def State.written (s : State) (r : RegReq) (k : FKey) : Nat :=
  let mk := fieldBits k.f r.mask.toNat
  let v := fieldBits k.f r.value.toNat
  if k.f.spec.acc = .w1c then s.rd k - (s.rd k &&& (mk &&& v))
  else (s.latest k - (s.latest k &&& mk)) ||| (v &&& mk)

/-- A value outside the range that a field's table states. -/
def outOfRange (f : Fld) (v : Nat) : Bool := match f.spec.range with
  | some (lo, hi) => decide (v < lo ∨ hi < v)
  | none => false

/-- A port that the loaded image uses (R172). -/
def State.portUsed (s : State) (p k : Nat) : Bool := match s.job.image with
  | some i => i.linkLat.getD (2 * p + k) 0 != 0
  | none => false

/-- The registers whose writes act on a pile's memory, ports or tiles, and so wait for a bring-up to end (R475; log 136). -/
def bringupRegs : List String := ["LNK_CTL", "GROOM_CTL", "MEM_BUCKET_CTL", "MEM_INJECT", "TSQ_WAIT_LIMIT"]

/-- The pile of a domain of a memory, a tile or a port. -/
def bringupPile (d : Nat) : Option Nat :=
  let n := (d - 32) % 32
  if 32 ≤ d ∧ d < 544 ∧ (2 ≤ n ∧ n < 11 ∨ 12 ≤ n ∧ n < 15) then some ((d - 32) / 32) else none

/-- Why a write is refused, if it is (R144, R205, R266, R384, R459, R475). -/
def State.writeRefused (s : State) (r : RegReq) (x : RegPlace) : Option (Nat × Nat) :=
  let ts := x.spec.fields.filter (touches r)
  let new (f : Fld) : Nat := s.written r (x.key f)
  match ts.find? (fun f => outOfRange f (new f)) with
  | some f => some (stBadValue, f.spec.lo)
  | none =>
    if s.boot.run.isSome ∧ ts ≠ [] ∧ bringupRegs.contains x.spec.name then some (stBusy, x.p)
    else if x.spec.name = "PAD_RELEASE" ∧ s.boot.run.isSome ∧ ts ≠ [] then (bringupPile (new .PAD_RELEASE)).map (fun p => (stBusy, p))
    else if x.spec.name = "TB_CTL" then (if s.jobLoaded ∧ ts ≠ [] then some (stWrongState, s.jobState) else none)
    else if x.spec.name = "STEP_PARAM" then
      match s.job.image with
      | some i =>
        if ts ≠ [] ∧ i.paramMax.getD (x.idx.headD 0) 0 < new .STEP_PARAM then some (stAboveMax, x.idx.headD 0) else none
      | none => none
    else if x.spec.name = "LNK_CTL" then
      let k := x.idx.headD 0
      if ts.contains .LNK_CTL_ENABLE ∧ new .LNK_CTL_ENABLE = 0 ∧ s.jobLoaded ∧ s.portUsed x.p k then some (stInUse, 2 * x.p + k)
      else if ts.contains .LNK_CTL_NEAR_LOOP ∧ s.jobLoaded then some (stInUse, 2 * x.p + k)
      else none
    else if x.spec.name = "MEM_INJECT" then
      let v (f : Fld) : Nat := if ts.contains f then new f else s.rd (x.key f)
      if 16 < v .MEM_INJECT_COUNT then some (stBadValue, 58)
      else if v .MEM_INJECT_COUNT ≠ 0 ∧ v .MEM_INJECT_XOR = 0 then some (stBadValue, 42)
      else if 159 < v .MEM_INJECT_FIRST then some (stBadValue, 50)
      else none
    else none

/-- A write held until its gate; a later write to the field takes its place (R6). -/
def holdWrite (k : FKey) (v : Nat) (strict : Bool) : Act :=
  modHold (fun h => { h with waiting := h.waiting.filter (fun w => w.key != k) ++ [⟨k, v, strict⟩] })

/-- A field of a write, by its access code. -/
def writeField (s : State) (r : RegReq) (k : FKey) : Act := match k.f.spec.acc with
  | .rw | .w1c => setR k (s.written r k)
  | .rwg => holdWrite k (s.written r k) false
  | .rws => holdWrite k (s.written r k) true
  | .ro | .wo => .done

/-- A port that neither is down nor retired has a measured latency once it is READY (R188, R252). -/
def State.portsMeasured (s : State) : Bool :=
  (List.range 32).all (fun i => let st := s.rd (pk .LNK_STATUS_STATE (i / 2) (i % 2)); st == 0 || decide (7 ≤ st))

/-- The device runs as timing root: its clock is its own, and its counter counts as loaded (R185, R188, R206). -/
def asRoot : Act := .ask fun s => Act.all [
  setR (dk .TB_STATUS_LOCKED) 1, emit (.tbLoaded true), setB (dk .TB_STATUS_ALIGNED) s.portsMeasured]

/-- What a write of TB_CTL does, `old` being the state before it: ENABLE set starts the time base, the root's counter at 0 (R185);
cleared, it stops it. ROOT set or cleared while it runs makes the device the root, or ends that. -/
def tbEnable (old : State) : Act :=
  .ask fun s =>
    let was := old.on (dk .TB_CTL_ENABLE)
    let off := Act.all [setR (dk .TB_STATUS_LOCKED) 0, setR (dk .TB_STATUS_ALIGNED) 0, emit (.tbLoaded false)]
    if s.on (dk .TB_CTL_ENABLE) != was then
      (if was then off
       else (setR (dk .TB_STATUS_HOLDOVER) 0).seq (Act.when (s.on (dk .TB_CTL_ROOT)) ((setR (dk .TB_SLOT) 0).seq asRoot)))
    else if was && s.on (dk .TB_CTL_ROOT) != old.on (dk .TB_CTL_ROOT) then
      (if s.on (dk .TB_CTL_ROOT) then (setR (dk .TB_STATUS_HOLDOVER) 0).seq asRoot else off)
    else .done

/-- ENABLE of a port set trains it, cleared takes it down (R255); a retired port stays retired. -/
def portEnable (p k : Nat) (was : Bool) : Act :=
  .ask fun s =>
    if s.on (pk .LNK_CTL_ENABLE p k) == was || s.rd (pk .LNK_STATUS_STATE p k) == 10 then .done
    else if was then setR (pk .LNK_STATUS_STATE p k) 0
    else (modPort p k (fun x => { x with verFails := 0 })).seq
      (Act.when (s.ready (domX p k)) (setR (pk .LNK_STATUS_STATE p k) 1))

/-- LEVEL is clamped to a DEPTH below it (R367). -/
def clampBucket (p : Nat) : Act :=
  .ask fun s => setR (pk .MEM_BUCKET p) (min (s.rd (pk .MEM_BUCKET p)) (s.rd (pk .MEM_BUCKET_CTL_DEPTH p)))

/-- Release a domain's held outputs, unless it is not ON or not held (R505, R521). -/
def padRelease (d : Nat) : Act :=
  .ask fun s => Act.when (domainExists d && s.power d == 0 && !s.on (pEnter d) && s.on (pHeld d))
    (Act.all [setR (pHeld d) 0, linkReturns d, resumeMovers d])

/-- A write of HP_CTL that changes MEDIA, SPEED or PFC_EN retrains the link (R449); ENABLE starts or stops it. -/
def hpRetrain (old : State) : Act :=
  .ask fun s => Act.when ([Fld.HP_CTL_ENABLE, .HP_CTL_SPEED, .HP_CTL_MEDIA, .HP_CTL_PFC_EN].any (fun f =>
    s.rd (dk f) != old.rd (dk f))) startTraining

/-- What a write does beside storing values. `old` is the state before it. -/
def afterWrite (old : State) (r : RegReq) (x : RegPlace) : Act :=
  let n := x.spec.name
  let k := x.idx.headD 0
  if n = "TB_CTL" then tbEnable old
  else if n = "LNK_CTL" then portEnable x.p k (old.on (pk .LNK_CTL_ENABLE x.p k))
  else if n = "HP_CTL" then hpRetrain old
  else if n = "MEM_BUCKET_CTL" then clampBucket x.p
  else if n = "PAD_RELEASE" then
    Act.when (touches r .PAD_RELEASE) (padRelease (fieldBits .PAD_RELEASE (r.value.toNat &&& r.mask.toNat)))
  else .done

/-- The point at which the latest of a write's fields takes effect (R459). -/
def writeDetail (ts : List Fld) : Nat :=
  if ts.any (fun f => f.spec.acc == .rws) then 2 else if ts.any (fun f => f.spec.acc == .rwg) then 1 else 0

/-- A register write, with whatever its register's write does. -/
def regWrite (m : LiftMsg) (row : Instr) (r : RegReq) : Act :=
  request m row (some 80) fun q => .ask fun s =>
    match regPlace r with
    | .error e => reply q e.1 e.2
    | .ok x =>
      let ts := x.spec.fields.filter (touches r)
      if s.regAbsent x then reply q stNoObject
      else if r.count ≠ 1 then reply q stBadParam 40
      else if 128 < x.spec.width then reply q stBadParam 0
      else if s.jobState = jsAborting ∧ writeDetail ts ≠ 0 then reply q stAborted
      else match s.writeRefused r x with
        | some e => reply q e.1 e.2
        | none => Act.all [reachReg x, Act.each ts (fun f => writeField s r (x.key f)), afterWrite s r x, reply q stOk (writeDetail ts)]

end Sys2Proof.Machine
end

