-- ==== Sys2Proof/Machine/Wide.lean ====
section
/-! DEFINITION. Arithmetic of the wide form (R124, R312): exact, then one rounding to 64 significand bits. -/

namespace Sys2Proof.Machine

/-- Round a number into the wide form: beyond 2^2047 it is infinite; below the least exponent, -2048, the spec states no
value, so the significand there is free (log 31). -/
def wideRound (n : FNum) : FNum := match n with
  | .fin d =>
    let r := d.roundSig .rne 64
    if r.isZero then .fin ⟨r.neg, 0, 0⟩
    else if Dy.lt ⟨false, 1, 2047⟩ r.abs then .inf r.neg
    else if r.log2 < -2048 then .fin ⟨r.neg, (Config.wideUnder r.mag r.exp).toNat, -2111⟩
    else .fin r
  | x => x

def Wide.add (a b : Wide) : Wide := ⟨wideRound (a.num.add b.num), a.poison || b.poison⟩
def Wide.sub (a b : Wide) : Wide := ⟨wideRound (a.num.sub b.num), a.poison || b.poison⟩
def Wide.mul (a b : Wide) : Wide := ⟨wideRound (a.num.mul b.num), a.poison || b.poison⟩

/-- A natural number in the wide form. -/
def wideNat (n : Nat) : Wide := ⟨wideRound (.fin ⟨false, n, 0⟩), false⟩

/-- The exact sum of numbers; an infinity or NaN by the rules of IEEE 754. -/
def exactSum (xs : List FNum) : FNum := xs.foldl FNum.add (.fin ⟨false, 0, 0⟩)

/-- Numbers in groups of 256, as one instruction's lanes. -/
def groups256 (xs : List FNum) : Nat → List (List FNum)
  | 0 => []
  | n + 1 => if xs.isEmpty then [] else xs.take 256 :: groups256 (xs.drop 256) n

/-- The sum of squares with VSSQW semantics in increasing order (R124, R303): 256 exact squares at a time, one rounding
each. -/
def wideSquares (xs : List FNum) : Wide :=
  (groups256 xs (xs.length / 256 + 1)).foldl (fun a g =>
    ⟨wideRound (a.num.add (exactSum (g.map (fun x => x.mul x)))), a.poison⟩) {}

/-- The sum of squares in the wide form, element by element (R308, R336, R339). -/
def wideEach (xs : List FNum) : Wide := xs.foldl (fun a x => ⟨wideRound (a.num.add (x.mul x)), a.poison⟩) {}

/-- The square root of a wide number, correctly rounded once to FP32 (R332): beyond its range +infinity; of a negative
number NaN. -/
def wideRoot (w : Wide) : Word := match w.num with
  | .nan => rnd32 .nan
  | .inf neg => if neg then rnd32 .nan else rnd32 (.inf false)
  | .fin d => if d.isZero then rnd32 (.fin d) else if d.neg then rnd32 .nan else rnd32 (.fin d.sqrt)

end Sys2Proof.Machine
end

