-- ==== Sys2Proof/Machine/ArrayMath.lean ====
section
/-! DEFINITION. What an array computes (R44-R49, R93-R96, R109-R112, R389, R391): pieces and sweeps, sub-block and group sums,
accumulators, the fine scale, checksums and digests. Operands arrive decoded. -/

namespace Sys2Proof.Machine

/-! ## Pieces and sweeps (R48, R49) -/

/-- Pieces of an operand format: FP16 has two and FP32 three on a backward array; every other format, and every operand of
the FA, has one. -/
def pieceCount (fa : Bool) (f : Nat) : Nat := if fa then 1 else if f = 1 then 2 else if f = 2 then 3 else 1

/-- The pieces of a number: each the remainder so far rounded to 8 bits, the last the exact remainder. Every piece of a
non-finite operand is that operand (R45; log 34). -/
def piecesOf : Nat → FNum → List FNum
  | 0, _ => []
  | 1, v => [v]
  | n + 2, .fin d =>
    let h := d.roundSig .rne 8
    .fin h :: piecesOf (n + 1) (.fin (d.add h.negate))
  | n + 2, v => v :: piecesOf (n + 1) v

/-- The piece pairs of the sweeps, in order (R49): all pairs (j, k) with j + k < PASSES. -/
def sweepPairs (na nb passes : Nat) : List (Nat × Nat) :=
  if na = 1 ∧ nb = 1 then [(0, 0)]
  else [(0, 0), (0, 1), (1, 0), (1, 1), (0, 2), (2, 0)].filter (fun q => decide (q.1 < na ∧ q.2 < nb ∧ q.1 + q.2 < passes))

/-! ## Sums (R46) -/

/-- Runs of n elements. -/
def chunks {α : Type} (n : Nat) (xs : List α) : Nat → List (List α)
  | 0 => []
  | f + 1 => if xs.isEmpty then [] else xs.take n :: chunks n (xs.drop n) f

/-- The largest exponent of a product in a group, floor(log2), if any product is not zero. -/
def topLog (ps : List Dy) : Option Int := ps.foldl (fun a d =>
  if d.isZero then a else match a with
    | none => some d.log2
    | some t => some (max t d.log2)) none

/-- A sum n of units of 2^e keeps what R46 states of a group: it lies less than 16 units from the exact sum of the products. -/
def groupKeeps (ps : List Dy) (e n : Int) : Bool :=
  ((Dy.ofInt n e).add (ps.foldl Dy.add (Dy.zero false)).negate).abs.lt ⟨false, 16, e⟩

/-- What the 48-bit two's-complement adder holds, in units of 2^e, after a group whose truncated products add up to n. A sum beyond
its range is a value that the spec leaves open, between R46's width and the bound of R57 and R114: it is free where it keeps the
loss that R46 allows a group, and n else (log 35). -/
def adder48 (ps : List Dy) (e n : Int) : Int :=
  if -(2 ^ 47) ≤ n ∧ n < 2 ^ 47 then n else if groupKeeps ps e (Config.adderBeyond n) then Config.adderBeyond n else n

/-- A group sum of the adder, whose least significant bit weighs 2^(p - 44): each product's magnitude truncated to a multiple
of that weight, then its sign. -/
def truncSum (ps : List Dy) : Dy := match topLog ps with
  | none => Dy.zero false
  | some t =>
    Dy.ofInt (adder48 ps (t + 1 - 44) ((ps.map (fun d => (d.quant .trunc (t + 1 - 44)).scaled (t + 1 - 44))).sum)) (t + 1 - 44)

def finOf : FNum → Option Dy
  | .fin d => some d
  | _ => none

/-- The sum of one sub-block (exact) or group (truncated). A non-finite product decides by the rules of IEEE 754 (R45). -/
def unitSum (trunc : Bool) (ps : List FNum) : FNum :=
  if trunc && ps.all FNum.finite then .fin (truncSum (ps.filterMap finOf)) else exactSum ps

/-- An accumulator after one sum: FP32, rounded once. -/
def accAdd (acc : Word) (x : FNum) : Word := rnd32 ((num32 acc).add x)

/-- One sweep of a cell: sub-blocks of 32 on the FA, groups of 16 on a backward array, in increasing K. -/
def sweepCell (fa : Bool) (terms : List (FNum × FNum)) (acc : Word) : Word :=
  (chunks (if fa then 32 else 16) terms terms.length).foldl
    (fun a g => accAdd a (unitSum (!fa) (g.map (fun t => t.1.mul t.2)))) acc

/-- Piece j of a K-long operand. -/
def pieceRow (xs : List (List FNum)) (j : Nat) : List FNum := xs.map (fun ps => ps.getD j (.fin (Dy.zero false)))

/-- An accumulator after every sweep (R94): `xs` and `ys` are a row of A and a column of B in pieces. -/
def arrayCell (fa : Bool) (prs : List (Nat × Nat)) (xs ys : List (List FNum)) (c0 : Word) : Word :=
  prs.foldl (fun acc q => sweepCell fa ((pieceRow xs q.1).zip (pieceRow ys q.2)) acc) c0

/-! ## The fine scale (R47, R50) -/

/-- An accumulator by a BF16 fine scale: to nearest into an FP32 result, to odd where the crossover unit encodes it. -/
def fineScale (toFp32 : Bool) (acc : Word) (scale : FNum) : FNum :=
  fp32.decode (fp32.packNum (if toFp32 then .rne else .odd) false ((num32 acc).mul scale)).bits

/-! ## One output tile -/

/-- An output tile's operands: rows of A and columns of B as lists over K, poison bits of rows and columns, and the preload
with its poisoned elements, row by row. -/
structure TileOps where
  rows  : List (List FNum)
  cols  : List (List FNum)
  pRow  : List Bool
  pCol  : List Bool
  c0    : Option (List (List Word) × List (List Bool))
  deriving DecidableEq, Repr

def TileOps.pre (o : TileOps) (r n : Nat) : Word := match o.c0 with
  | some c => (c.1.getD r []).getD n 0
  | none => 0

def TileOps.prePoison (o : TileOps) (r n : Nat) : Bool := match o.c0 with
  | some c => (c.2.getD r []).getD n false
  | none => false

/-- Element (r, n) is poisoned (R109). -/
def TileOps.poisoned (o : TileOps) (r n : Nat) : Bool := o.pRow.getD r false || o.pCol.getD n false || o.prePoison r n

/-- The accumulators of an output tile, row by row. -/
def tileAcc (fa : Bool) (fmtA fmtB passes : Nat) (o : TileOps) : List (List Word) :=
  let na := pieceCount fa fmtA
  let nb := pieceCount fa fmtB
  let prs := sweepPairs na nb passes
  let rs := o.rows.map (fun xs => xs.map (piecesOf na))
  let cs := o.cols.map (fun ys => ys.map (piecesOf nb))
  rs.mapIdx (fun r xs => cs.mapIdx (fun n ys => arrayCell fa prs xs ys (o.pre r n)))

/-! ## Checksums (R110-R112) -/

/-- A checksum operand rounded to BF16, to nearest. One beyond BF16's largest finite value becomes infinite, so that the line
that uses it is not compared (R112): the clamp of R54 is read as the tensor formats' (DESIGN CHOICE, log 114). -/
def rndBf16 (x : FNum) : FNum := bf16.decode (bf16.packNum .rne false x).bits

/-- A checksum cell after one sweep: 16-product groups as on the BDA. -/
def checkCell (terms : List (FNum × FNum)) (acc : Word) : Word := sweepCell false terms acc

/-- The checksum and magnitude sum of one line (a row of A or a column of B) against the other operand: `own` is the line in
pieces, `other` the other operand's lines in pieces; `pick` names the piece of the line and of the others in a sweep. -/
def checksum (prs : List (Nat × Nat)) (own : List (List FNum)) (other : List (List (List FNum))) (c0 : List FNum) : Word × Word :=
  prs.foldl (fun acc q =>
    let ks := List.range own.length
    let mine := pieceRow own q.1
    let col (k : Nat) : List FNum := other.map (fun ys => (ys.getD k []).getD q.2 (.fin (Dy.zero false)))
    let s := ks.map (fun k => rndBf16 (exactSum (col k)))
    let g := ks.map (fun k => rndBf16 (exactSum ((col k).map FNum.abs)))
    (checkCell (mine.zip s) acc.1, checkCell ((mine.map FNum.abs).zip g) acc.2))
    (rnd32 (exactSum c0), rnd32 (exactSum (c0.map FNum.abs)))

/-- The sum of accumulators in increasing index order (R111). -/
def drainSum (xs : List Word) : Word := match xs with
  | [] => 0
  | x :: r => r.foldl add32 x

/-- |R - CS| > 2^-7 G + 2^-110. -/
def checkFails (r cs g : Word) : Bool := match num32 r, num32 cs, num32 g with
  | .fin a, .fin b, .fin c =>
    let tau := (⟨c.neg, c.mag, c.exp - 7⟩ : Dy).add ⟨false, 1, -110⟩
    tau.lt (a.add b.negate).abs
  | _, _, _ => false

/-- Rows and columns of an output tile that fail (R111), none of them one that R112 leaves out: (is row, index). -/
def tileFails (fa : Bool) (fmtA fmtB passes : Nat) (o : TileOps) (acc : List (List Word)) : List (Bool × Nat) :=
  let na := pieceCount fa fmtA
  let nb := pieceCount fa fmtB
  let prs := sweepPairs na nb passes
  let rs := o.rows.map (fun xs => xs.map (piecesOf na))
  let cs := o.cols.map (fun ys => ys.map (piecesOf nb))
  let nr := o.rows.length
  let nc := o.cols.length
  let good (xs : List FNum) : Bool := xs.all FNum.finite
  let aBad := !(o.rows.all good) || o.pRow.any id
  let bBad := !(o.cols.all good) || o.pCol.any id
  let c0Row (r : Nat) : List FNum := if o.c0.isSome then (List.range nc).map (fun n => num32 (o.pre r n)) else []
  let c0Col (n : Nat) : List FNum := if o.c0.isSome then (List.range nr).map (fun r => num32 (o.pre r n)) else []
  let at' (r n : Nat) : Word := (acc.getD r []).getD n 0
  let rowFail (r : Nat) : Bool :=
    let vals := (List.range nc).map (at' r)
    if bBad || o.pRow.getD r false || !good (o.rows.getD r []) || (List.range nc).any (o.prePoison r) || !good (c0Row r) ||
        !good (vals.map num32) then false
    else
      let c := checksum prs (rs.getD r []) cs (c0Row r)
      checkFails (drainSum vals) c.1 c.2
  let colFail (n : Nat) : Bool :=
    let vals := (List.range nr).map (fun r => at' r n)
    if aBad || o.pCol.getD n false || !good (o.cols.getD n []) || (List.range nr).any (fun r => o.prePoison r n) || !good (c0Col n) ||
        !good (vals.map num32) then false
    else
      let c := checksum (prs.map (fun q => (q.2, q.1))) (cs.getD n []) rs (c0Col n)
      checkFails (drainSum vals) c.1 c.2
  ((List.range nr).filter rowFail).map (fun r => (true, r)) ++ ((List.range nc).filter colFail).map (fun n => (false, n))

/-! ## Digests (R389, R391) -/

/-- operand_digest over the stored BLOCK_CHECK of the lines. -/
def operandDigest (tile : Nat) (lines : List Line) : Nat :=
  lines.foldl (fun d l => mix64 (d ^^^ (l.tag.toNat / 2 ^ 112))) (mix64 tile)

/-- output_digest over lines written. -/
def outputDigest (lines : List Line) : Nat :=
  lines.foldl (fun d l =>
    let w := l.body.toNat + l.tag.toNat * 2 ^ 1024
    (List.range 18).foldl (fun d k => mix64 (d ^^^ (w / 2 ^ (64 * k) % 2 ^ 64))) d) (mix64 lines.length)

/-! ## Products of whole matrices on a backward array (R92, R338) -/

/-- A . B with BF16 operands on a backward array, from rows of A, columns of B and a preload by element. -/
def bf16Product (rows cols : List (List FNum)) (pre : Nat → Nat → Word) : List (List Word) :=
  rows.mapIdx (fun r xs => cols.mapIdx (fun n ys => sweepCell false (xs.zip ys) (pre r n)))

end Sys2Proof.Machine
end

