-- ==== Sys2Proof/Machine/Route.lean ====
section
/-! DEFINITION. Expert dispatch (chapter 10): how a source pile assigns its tokens' choices to capacity slots (R281), the dispatch and
combine matrices' places (R282), and the counts of a micro-batch (R292). -/

namespace Sys2Proof.Machine

/-- The choice of a token at a rank (R278); 0xFFFF is void. -/
def choiceAt (choices : List (List Nat)) (t j : Nat) : Nat := (choices.getD t []).getD j 0xFFFF

/-- What assign() has done so far: the fill of every expert; the places given as (expert, slot, token, rank of the weight); the choices
that overflowed, as (token, rank); tokens that have tried their fallback; and its counts. -/
structure Assignment where
  fill      : List Nat
  places    : List (Nat × Nat × Nat × Nat) := []
  overflows : List (Nat × Nat) := []
  tried     : List Nat := []
  placed    : Nat := 0
  fallback  : Nat := 0
  dropped   : Nat := 0
  noChoice  : Nat := 0
  deriving DecidableEq, Repr

/-- place(): slot `fill[e]` of expert e takes token t with the weight of its choice j. -/
def Assignment.place (a : Assignment) (e t j : Nat) : Assignment :=
  { a with places := a.places ++ [(e, a.fill.getD e 0, t, j)], fill := a.fill.set e (a.fill.getD e 0 + 1) }

/-- Whether expert e, which the layer has, still has a slot free. -/
def Assignment.room (a : Assignment) (capacity e : Nat) : Bool := decide (e < a.fill.length ∧ a.fill.getD e 0 < capacity)

/-- One primary choice: void, placed, or an overflow. -/
def assignPrimary (choices : List (List Nat)) (capacity : Nat) (a : Assignment) (t j : Nat) : Assignment :=
  let e := choiceAt choices t j
  if e = 0xFFFF then { a with noChoice := a.noChoice + 1 }
  else if a.room capacity e then { a.place e t j with placed := a.placed + 1 }
  else { a with overflows := a.overflows ++ [(t, j)] }

/-- One overflow: under SECOND a token tries its fallback once. -/
def assignOverflow (choices : List (List Nat)) (topK capacity : Nat) (second : Bool) (a : Assignment) (x : Nat × Nat) : Assignment :=
  let f := choiceAt choices x.1 topK
  let tries := second && !a.tried.contains x.1
  let b := if tries then { a with tried := a.tried ++ [x.1] } else a
  if tries && f != 0xFFFF && a.room capacity f then { b.place f x.1 x.2 with fallback := a.fallback + 1 }
  else { b with dropped := a.dropped + 1 }

/-- assign() of R281 over a micro-batch's choices by token and rank. -/
def assign (l : ExpertLayer) (choices : List (List Nat)) : Assignment :=
  let primary := (List.range l.tokens).foldl (fun a t =>
    (List.range l.topK).foldl (fun b j => assignPrimary choices l.capacity b t j) a) ({ fill := List.replicate l.experts 0 } : Assignment)
  primary.overflows.foldl (assignOverflow choices l.topK l.capacity l.second) primary

/-- The ones of the dispatch matrix P as (row, column), and the weights of the combine matrix G as (row, column, rank of the choice whose
weight stands there) (R282). -/
def Assignment.dispatch (a : Assignment) (capacity : Nat) : List (Nat × Nat) := a.places.map (fun x => (x.1 * capacity + x.2.1, x.2.2.1))
def Assignment.combine (a : Assignment) (capacity : Nat) : List (Nat × Nat × Nat) :=
  a.places.map (fun x => (x.2.2.1, x.1 * capacity + x.2.1, x.2.2.2))

/-- The counts of a micro-batch of a layer (R292): the lowest expert of the fullest pair. -/
def routedCounts (l : ExpertLayer) (choices : List (List Nat)) : DispatchCounts :=
  let a := assign l choices
  let most := a.fill.foldl max 0
  { layer := l.layer, maxExpert := (a.fill.findIdx? (· == most)).getD 0, maxFill := most, tokens := l.tokens
    assign := l.tokens * l.topK, placed := a.placed, fallback := a.fallback, dropped := a.dropped, noChoice := a.noChoice
    slots := l.experts * l.capacity }

/-- The record of a layer with no count yet. -/
def zeroCounts (layer : Nat) : DispatchCounts := ⟨layer, 0, 0, 0, 0, 0, 0, 0, 0, 0⟩

end Sys2Proof.Machine
end

