-- ==== Sys2Proof/Machine/Records.lean ====
section
/-! DEFINITION. The byte layouts of the records that commands return: the wide form (R312), health records (R82), dispatch
records (R292), bucket records (R319), pattern-fault records (R399), scale trackers (R85), and digest sets (R243). -/

namespace Sys2Proof.Machine

/-- A signed number as the n bytes of its two's complement. -/
def bytesInt (n : Nat) (v : Int) : List Nat := bytesLE n (v % (2 : Int) ^ (8 * n)).toNat

/-- Significand and exponent of an infinity or a NaN in the wide form. -/
def specialBytes (nan neg : Bool) : List Nat :=
  bytesLE 8 (2 ^ 63 + (Config.wideSpecial nan neg).toNat % 2 ^ 63) ++ bytesLE 2 ((Config.wideSpecial nan neg).toNat / 2 ^ 63)

/-- The 16 bytes of the wide form (R312). An infinity and a NaN have bit 63 of the significand set, as has every value but zero; the rest
of their significand and exponent is not stated (log 31). -/
def wideBytes (w : Wide) : List Nat := match w.num with
  | .nan => specialBytes true false ++ [4] ++ List.replicate 5 0
  | .inf neg => specialBytes false neg ++ [bit neg + 2] ++ List.replicate 5 0
  | .fin d =>
    if d.mag = 0 then List.replicate 10 0 ++ [bit d.neg] ++ List.replicate 5 0
    else bytesLE 8 (d.mag * 2 ^ (63 - Nat.log2 d.mag)) ++ bytesInt 2 d.log2 ++ [bit d.neg] ++ List.replicate 5 0

/-- A signed number from its two's complement in n bits. -/
def signedOf (n v : Nat) : Int := if v % 2 ^ n < 2 ^ (n - 1) then (v % 2 ^ n : Nat) else ((v % 2 ^ n : Nat) : Int) - (2 ^ n : Nat)

/-- A wide number from its 16 bytes. -/
def wideOf (bs : List Nat) (poison : Bool) : Wide :=
  let f := bs.getD 10 0
  if f / 4 % 2 = 1 then ⟨.nan, poison⟩
  else if f / 2 % 2 = 1 then ⟨.inf (f % 2 == 1), poison⟩
  else ⟨.fin ⟨f % 2 == 1, ofLE (bs.take 8), signedOf 16 (ofLE ((bs.drop 8).take 2)) - 63⟩, poison⟩

/-- A health record's 96 bytes (R82). -/
def healthBytes (idx : Nat) (h : Health) : List Nat :=
  bytesLE 4 idx ++ bytesLE 4 h.c.seen ++ bytesLE 8 h.c.elements ++ bytesLE 8 h.c.zero ++ bytesLE 8 h.c.flush ++
  bytesLE 8 h.c.sat ++ bytesLE 8 h.c.esc ++ bytesLE 8 h.c.ovf ++ bytesLE 8 h.c.nonfin ++ bytesLE 8 h.c.lossy ++
  bytesLE 8 h.c.poison ++ bytesLE 4 h.c.absmax.toNat ++ List.replicate 12 0

/-- A health record from its bytes: its tracker index and its counts. -/
def healthOf (bs : List Nat) : Nat × XoCounts :=
  let at' (o n : Nat) : Nat := ofLE ((bs.drop o).take n)
  (at' 0 4, { seen := at' 4 4, elements := at' 8 8, zero := at' 16 8, flush := at' 24 8, sat := at' 32 8, esc := at' 40 8
              ovf := at' 48 8, nonfin := at' 56 8, lossy := at' 64 8, poison := at' 72 8, absmax := BitVec.ofNat 32 (at' 80 4) })

/-- A dispatch record's 64 bytes (R292). -/
def dispatchBytes (d : DispatchCounts) : List Nat :=
  bytesLE 2 d.layer ++ bytesLE 2 d.maxExpert ++ bytesLE 2 d.maxFill ++ [0, 0] ++ bytesLE 8 d.tokens ++ bytesLE 8 d.assign ++
  bytesLE 8 d.placed ++ bytesLE 8 d.fallback ++ bytesLE 8 d.dropped ++ bytesLE 8 d.noChoice ++ bytesLE 8 d.slots

/-- A bucket record's 64 bytes (R319). -/
def bucketBytes (id : Nat) (b : BktRec) : List Nat :=
  bytesLE 4 id ++ bytesInt 2 b.eref ++ bytesLE 2 b.flags ++ bytesLE 4 b.received ++ bytesLE 4 b.oor ++ wideBytes b.redNorm ++
  wideBytes b.locNorm ++ bytesLE 8 b.digest ++ List.replicate 8 0

/-- A pattern-fault record's 64 bytes (R399). -/
def pfBytes (r : PfRec) : List Nat :=
  bytesLE 8 r.step ++ bytesLE 2 r.phase ++ [r.kind % 256, r.pile % 256] ++ bytesLE 2 r.device ++ [r.phys % 256, r.log % 256] ++
  bytesLE 8 r.locLast ++ bytesLE 8 r.locPrev ++ bytesLE 8 r.dig1 ++ bytesLE 8 r.dig2 ++
  [r.attempts % 256, r.array % 256, r.action % 256, 0] ++ bytesLE 4 r.months ++ List.replicate 8 0

def trackerEntryBytes (e : TrackerEntry) : List Nat :=
  bytesLE 4 e.absmax.toNat ++ bytesLE 2 e.zero ++ bytesLE 2 e.flush ++ bytesLE 2 e.sat ++ bytesLE 2 e.nonfinite

/-- A scale tracker's 256 bytes (R85). -/
def trackerBytes (t : Tracker) : List Nat :=
  bytesLE 4 t.index ++ bytesInt 2 t.eref ++ bytesInt 2 t.erefInit ++ [t.margin % 256, t.fill % 256, t.head % 256, t.trend.toNat] ++
  bytesLE 2 t.flushLimit ++ [0, 0] ++ bytesLE 8 t.lastStep ++ List.replicate 40 0 ++ (t.window.take 16).flatMap trackerEntryBytes

/-- A tracker from its record's 256 bytes. -/
def trackerOf (r : List Nat) : Tracker :=
  let at' (o n : Nat) : Nat := ofLE ((r.drop o).take n)
  { index := at' 0 4, eref := signedOf 16 (at' 4 2), erefInit := signedOf 16 (at' 6 2), margin := at' 8 1, fill := at' 9 1
    head := at' 10 1, trend := BitVec.ofNat 8 (at' 11 1), flushLimit := at' 12 2, lastStep := at' 16 8
    window := (List.range 16).map (fun k => let o := 64 + 12 * k
      ⟨BitVec.ofNat 32 (at' o 4), at' (o + 4) 2, at' (o + 6) 2, at' (o + 8) 2, at' (o + 10) 2⟩) }

/-- The record of a tracker as a pile's memory holds it, in the two lines that the image gives it (R85; log 64). -/
def State.tracker (s : State) (p idx : Nat) : Option Tracker := (SMap.find? s.job.trackers idx).map (fun n =>
  trackerOf ([n, n + 1].flatMap (fun k =>
    let l := (decodeWord (s.dramWord (dramAddr p k))).line
    bytesLE 128 (if l.poison then 0 else l.body.toNat))))

/-- The control cores load a tracker's two lines, with all that a read of memory counts and records (R363, R385); a poisoned line reads
zero. -/
def loadTracker (p idx : Nat) (k : Tracker → Act) : Act :=
  .ask fun s => match SMap.find? s.job.trackers idx with
    | none => .done
    | some n => coreLoad p n fun a => coreLoad p (n + 1) fun b =>
        k (trackerOf (bytesLE 128 a.body.toNat ++ bytesLE 128 b.body.toNat))

/-- Write a tracker's record into a pile's memory. -/
def putTracker (p line : Nat) (t : Tracker) : Act :=
  let bs := trackerBytes t
  (dramWrite p line (rawLine (ofLE (bs.take 128)))).seq (dramWrite p (line + 1) (rawLine (ofLE (bs.drop 128))))

/-- The digest set of RECORDS kind 6 (R465): 16 digests, port by port with transmit first, and the step; `h` is an entry of
DIG_HIST, whose step is the low 56 bits that the register keeps (R243), 64 the current attempt, 65 the discarded one. -/
def State.digestSet (s : State) (p h : Nat) : List Nat :=
  (List.range 8).flatMap (fun q => (List.range 2).flatMap (fun d => bytesLE 8 (
    if h < 64 then s.rd (pk .DIG_HIST p h (q * 2 + d))
    else if h = 64 then s.liveDigest p q d else s.rd (pk .DIG_DISC p q d)))) ++
  bytesLE 8 (if h < 64 then s.rd (pk .DIG_HIST_STEP_STEP p h) else if h = 64 then s.step else s.rd (pk .DIG_DISC_STEP p))

/-- The set of records that SET names (R465), with its step. -/
def RecSets.setOf {α : Type} (r : RecSets α) (set now : Nat) : SMap α × Nat :=
  if set = 0 then (r.cur, now) else if set = 1 then (r.last, r.lastStep) else (r.disc, r.discStep)

/-- The tracker indices that have a health record (R82): those of the image, 0xFFF, and any other that counted. -/
def State.healthKeys (s : State) (m : SMap Health) : List Nat :=
  let own : List Nat := match s.job.image with
    | some i => i.trackers.map Tracker.index ++ [0xFFF]
    | none => []
  let held : SMap Unit := m.map (fun kv => (kv.1, ()))
  (own.foldl (fun (a : SMap Unit) k => SMap.set a k (some ())) held).map Prod.fst

/-- The layers that have a dispatch record on a pile (R292): those that it is a source of, and any other that counted. -/
def State.dispatchKeys (s : State) (p : Nat) (m : SMap DispatchCounts) : List Nat :=
  let own : List Nat := match s.job.image with
    | some i => (i.experts.layers.filter (fun l => ((i.experts.sources.drop l.srcFirst).take l.srcCount).contains (i.device * 16 + p))).map
        ExpertLayer.layer
    | none => []
  let held : SMap Unit := m.map (fun kv => (kv.1, ()))
  (own.foldl (fun (a : SMap Unit) k => SMap.set a k (some ())) held).map Prod.fst

/-- The records of a kind and set on a pile, each in its layout, and the set's step where the spec states it. -/
def State.recordsOf (s : State) (kind set p : Nat) : List (List Nat) × Option Nat :=
  let x := s.pile p
  match kind with
  | 1 => let r := x.health.setOf set s.step
         ((s.healthKeys r.1).map (fun k => healthBytes k (SMap.getD r.1 k {})), some r.2)
  | 2 => let r := x.disp.setOf set s.step
         ((s.dispatchKeys p r.1).map (fun k => dispatchBytes (SMap.getD r.1 k (zeroCounts k))), some r.2)
  | 3 => let r := x.bktRecs.setOf set s.step
         (r.1.map (fun kv => bucketBytes kv.1 kv.2), some r.2)
  | 4 => (((List.range 32).map (fun i => (x.flt.next + i) % 32)).filterMap (fun i => (SMap.find? x.flt.ring i).map pfBytes), none)
  | 5 => (if s.usesPile p then s.job.trackers.filterMap (fun kv => (s.tracker p kv.1).map trackerBytes) else [], none)
  | _ => ((List.range 66).map (s.digestSet p), none)

/-- The largest COUNT of a kind (R465). -/
def recordsMax (kind : Nat) : Nat := match kind with
  | 1 => 85
  | 2 => 127
  | 3 => 127
  | 4 => 32
  | 5 => 31
  | _ => 60

end Sys2Proof.Machine
end

