-- ==== Sys2Proof/Machine/Fused.lean ====
section
/-! DEFINITION. The fused reduction's records (R310-R318): what a pile's own record holds, how records combine, and what
sealing one does. -/

namespace Sys2Proof.Machine

/-- Line 0 of a verdict record (R313). -/
structure Verdict where
  health  : Nat := 0
  nfPiles : Nat := 0
  origin  : Nat := 2 ^ 64 - 1
  gnorm   : Wide := {}
  sLoc    : Wide := {}
  sRed    : Wide := {}
  oor     : Nat := 0
  poisBkt : Nat := 0
  ext     : Nat := 0
  jobTag  : Nat := 0
  step    : Nat := 0
  deriving DecidableEq, Repr

def verdictBytes (v : Verdict) : List Nat :=
  bytesLE 2 v.health ++ [0, 0] ++ bytesLE 4 v.nfPiles ++ bytesLE 8 v.origin ++ wideBytes v.gnorm ++ wideBytes v.sLoc ++
  wideBytes v.sRed ++ bytesLE 4 v.oor ++ bytesLE 4 v.poisBkt ++ bytesLE 4 v.ext ++ bytesLE 4 v.jobTag ++ bytesLE 8 v.step ++
  List.replicate 40 0

def lineBytes128 (l : Line) : List Nat := bytesLE 128 l.body.toNat

def verdictOf (l : Line) : Verdict :=
  let bs := lineBytes128 l
  let at' (o n : Nat) : Nat := ofLE ((bs.drop o).take n)
  { health := at' 0 2, nfPiles := at' 4 4, origin := at' 8 8, gnorm := wideOf ((bs.drop 16).take 16) false
    sLoc := wideOf ((bs.drop 32).take 16) false, sRed := wideOf ((bs.drop 48).take 16) false, oor := at' 64 4
    poisBkt := at' 68 4, ext := at' 72 4, jobTag := at' 76 4, step := at' 80 8 }

/-- A sum that stops at all ones of n bits. -/
def satSum (n a b : Nat) : Nat := min (2 ^ n - 1) (a + b)

/-- Two records combined (R313): TIMING where they disagree in a field that must agree. -/
def Verdict.combine (a b : Verdict) : Verdict :=
  let agree := a.ext == b.ext && a.jobTag == b.jobTag && a.step == b.step
  { a with
    health := a.health ||| b.health ||| (if agree then 0 else 2 ^ cTiming)
    nfPiles := satSum 32 a.nfPiles b.nfPiles, origin := min a.origin b.origin, gnorm := a.gnorm.add b.gnorm
    sLoc := a.sLoc.add b.sLoc, sRed := a.sRed.add b.sRed, oor := satSum 32 a.oor b.oor
    poisBkt := satSum 32 a.poisBkt b.poisBkt }

/-- JOB_TAG: the first 4 B of JOB_ID (R176). -/
def State.jobTag (s : State) : Nat := match s.job.image with
  | some i => i.jobId.toNat % 2 ^ 32
  | none => 0

/-- EXT_LINES (R340). -/
def extLines (u : UpdateTables) : Nat := (u.sums + 7) / 8

/-- A key of R317. -/
def originKey (device pile tracker kind id : Nat) : Nat :=
  device % 4096 * 2 ^ 52 + pile % 16 * 2 ^ 48 + tracker % 4096 * 2 ^ 36 + kind % 16 * 2 ^ 32 + id % 2 ^ 32

/-- The origin key of a pile's attempt (R317): the least over its non-finite sources, all ones where it has none. -/
def State.origin (s : State) (p : Nat) : Nat :=
  let x := s.pile p
  let recs := (x.health.cur.filter (fun kv => kv.2.c.nonfin != 0)).map (fun kv =>
    originKey s.deviceNo p kv.1 0 (kv.2.tid.getD 0))
  let tiles := ((List.range 8).filter (fun j =>
    let t := s.physOf p j
    s.on (tk .VEC_NONFINITE_IN p t) || s.on (tk .VEC_NONFINITE_OUT p t) || s.on (tk .VEC_STATUS_WIDE_INF p t))).map
    (fun j => originKey s.deviceNo p 0xFFF 1 j)
  let bkts := (x.bktRecs.cur.filter (fun kv => kv.2.out)).map (fun kv =>
    originKey s.deviceNo p (match s.job.image with
      | some i => ((i.buckets.find? (fun b => b.id == kv.1)).map Bucket.tracker).getD 0
      | none => 0) 2 kv.1)
  (recs ++ tiles ++ bkts).foldl min (2 ^ 64 - 1)

/-- Whether a bucket is a NOISE bucket. -/
def State.noisy (s : State) (id : Nat) : Bool := match s.job.image with
  | some i => i.buckets.any (fun b => b.id == id && b.noise)
  | none => false

/-- A bucket put into its place in the order of a sum. -/
def byRank (x : Nat × BktRec) : List (Nat × BktRec) → List (Nat × BktRec)
  | [] => [x]
  | y :: r => if Config.bucketRank x.1 < Config.bucketRank y.1 then x :: y :: r else y :: byRank x r

/-- A pile's own verdict record (R311): the sums run over its buckets in an order that is free (log 32). -/
def State.ownVerdict (s : State) (p : Nat) : Verdict :=
  let bs := (s.pile p).bktRecs.cur.foldl (fun a x => byRank x a) []
  let noise := bs.filter (fun kv => s.noisy kv.1)
  { health := s.healthWord p, nfPiles := if (s.healthWord p).testBit cNonfinite then 1 else 0, origin := s.origin p
    gnorm := bs.foldl (fun a kv => a.add kv.2.redNorm) {}, sLoc := noise.foldl (fun a kv => a.add kv.2.locNorm) {}
    sRed := noise.foldl (fun a kv => a.add kv.2.redNorm) {}, oor := (bs.map (fun kv => kv.2.oor)).foldl (satSum 32) 0
    poisBkt := (bs.filter (fun kv => kv.2.flags % 2 == 1)).length
    ext := (match s.job.image with
      | some i => extLines i.update
      | none => 0)
    jobTag := s.jobTag, step := s.step }

/-- The children's lines of a number, in increasing ingress way (R313). -/
def kidLines (m : SMap Line) (line : Nat) : List Line := (m.filter (fun kv => kv.1 % 65536 == line)).map Prod.snd

/-- A line of the combined verdict record: line 0, or the extension line of eight sums (R313, R340). -/
def State.verdictLine (s : State) (p line : Nat) : Line :=
  let kids := kidLines (s.pile p).rue.kidVerd line
  if line = 0 then
    rawLine (ofLE (verdictBytes (kids.foldl (fun a l => a.combine (verdictOf l)) (s.ownVerdict p))))
  else
    rawLine (ofLE ((List.range 8).flatMap (fun i =>
      wideBytes (kids.foldl (fun a l => a.add (wideOf (((lineBytes128 l).drop (16 * i)).take 16) false))
        (SMap.getD (s.pile p).rue.sums (8 * (line - 1) + i) {})))))

/-- The tracker indices of the image, in increasing order (R315). -/
def trackerList (i : Image) : List Nat :=
  (i.trackers.foldl (fun (a : SMap Unit) t => SMap.set a t.index (some ())) []).map Prod.fst

/-- The larger FP32 bit pattern, the sign cleared (R315). -/
def maxBits (a b : Word) : Word := BitVec.ofNat 32 (max (a.toNat % 2 ^ 31) (b.toNat % 2 ^ 31))

/-- Health counts combined over the domain (R315): sums stop at 2^64 - 1. -/
def satCounts (a b : XoCounts) : XoCounts :=
  ⟨satSum 64 a.sat b.sat, satSum 64 a.flush b.flush, satSum 64 a.esc b.esc, satSum 64 a.ovf b.ovf, satSum 64 a.nonfin b.nonfin,
   satSum 64 a.zero b.zero, satSum 64 a.elements b.elements, satSum 64 a.lossy b.lossy, satSum 64 a.poison b.poison,
   a.seen ||| b.seen, maxBits a.absmax b.absmax⟩

/-- The combined record line of the tracker at a place, and whether some child's line names another tracker (R315). -/
def State.recordLine (s : State) (p place : Nat) : Line × Bool :=
  let idx := match s.job.image with
    | some i => (trackerList i).getD place 0xFFF
    | none => 0xFFF
  let kids := kidLines (s.pile p).rue.kidRec place
  let got := kids.map (fun l => healthOf (lineBytes128 l))
  let c := got.foldl (fun a k => satCounts a k.2) (SMap.getD (s.pile p).health.cur idx {}).c
  ({ rawLine (ofLE (healthBytes idx { c := c })) with poison := kids.any Line.poison }, got.any (fun k => k.1 != idx))

/-- The pile seals a record where the switch samples its send (R311, R315), and the record's line is what is sent. -/
def sealing (p : Nat) (k : SealKind) (read : (Line → Act) → Act) (use : Line → Act) : Act :=
  match k with
  | .none => read use
  | .verdict line => .ask fun s =>
      (Act.when (line == 0 && !s.on (pk .RED_STATUS_SEALED p)) (Act.all [
        setR (pk .RED_STATUS_HEALTH_LOCAL p) (s.healthWord p), setR (pk .RED_STATUS_SEALED p) 1,
        modRue p (fun r => { r with nfSeal := s.nonfinites p })])).seq (use (s.verdictLine p line))
  | .records place => .ask fun s =>
      Act.all [
        setR (pk .RED_STATUS_REC_SEALED p) 1,
        Act.when (s.recordLine p place).2 (causeNow p cTiming),
        use (s.recordLine p place).1]

end Sys2Proof.Machine
end

