-- ==== Sys2Proof/Machine/Counts.lean ====
section
/-! DEFINITION. What converters count (R81, R82), and encoding under the keys of the running step (R62). -/

namespace Sys2Proof.Machine

/-! ## Counting (R81, R82) -/

/-- Count into the health record of a tracker on a pile; work of a HEAD phase counts into the carry set (R198). `tid` is the
TENSOR_ID of the operation (R317). -/
def countHealth (p tracker tid : Nat) (c : XoCounts) : Act :=
  .ask fun s =>
    let up (m : SMap Health) : SMap Health :=
      let h := SMap.getD m tracker {}
      let t := if c.nonfin = 0 then h.tid else match h.tid with
        | some t => some (min t tid)
        | none => some tid
      SMap.set m tracker (some ⟨satCounts h.c c, t⟩)
    if s.on (pk .GATE_STATUS_HEAD_PHASE p)
    then modPile p (fun x => { x with health := { x.health with carry := up x.health.carry } })
    else modPile p (fun x => { x with health := { x.health with cur := up x.health.cur } })

/-- Count into XO_OP_COUNT, row c (R81); row 5 is the pile's. -/
def countXo (p t row : Nat) (c : XoCounts) : Act := Act.all [
  bump (tk .XO_OP_COUNT p t row 0) c.sat, bump (tk .XO_OP_COUNT p t row 1) c.flush, bump (tk .XO_OP_COUNT p t row 2) c.esc,
  bump (tk .XO_OP_COUNT p t row 3) c.ovf, bump (tk .XO_OP_COUNT p t row 4) c.nonfin, bump (tk .XO_OP_COUNT p t row 5) c.zero]

/-- The counters of a converter clear at an operation's first block. -/
def clearXo (p t row : Nat) : Act := Act.each (List.range 6) (fun k => setR (tk .XO_OP_COUNT p t row k) 0)

/-- Encode a block under the keys of R62. -/
def encoding (d : EncDesc) (bi bj : Nat) (vals : List FNum) (poison : Bool) (k : List Line → XoCounts → Act) : Act :=
  .ask fun s =>
    let r := encodeBlock d ⟨s.job.seed, s.step, d.tensorId, bi, bj⟩ vals poison
    k r.1 r.2

end Sys2Proof.Machine
end

