-- ==== Sys2Proof/Machine/Operands.lean ====
section
/-! DEFINITION. What a tile's bundles name (chapter 06): fetching a bundle, its slots' fields, the tile's registers, the
descriptors of its program region, and the fault conditions of R165 by slot. -/

namespace Sys2Proof.Machine

/-! ## Bundles (R137) -/

/-- Bits [hi:lo] of a number. -/
def bitsOf (v hi lo : Nat) : Nat := v / 2 ^ lo % 2 ^ (hi + 1 - lo)

/-- A bundle's five fields. -/
structure Bundle where
  c   : Nat
  a   : Nat
  v   : Nat
  m   : Nat
  imm : Nat
  deriving DecidableEq, Repr

/-- The fields of 256 bits. -/
def bundleOf (w : Nat) : Bundle := ⟨bitsOf w 255 224, bitsOf w 223 160, bitsOf w 159 96, bitsOf w 95 32, bitsOf w 31 0⟩

/-- A line of a tile's program region, by its offset in the region. -/
def State.regionLine (s : State) (p t off : Nat) : Line := s.sramLine (lsAddr p t ((s.regionFirst p t + off) % lsLines))

/-- Bundle b of a tile's program. -/
def State.bundleAt (s : State) (p t b : Nat) : Bundle :=
  bundleOf ((s.regionLine p t (b / 4)).body.toNat / 2 ^ (256 * (b % 4)))

/-- The bundle at PC. -/
def State.bundle (s : State) (p t : Nat) : Bundle := s.bundleAt p t (s.rd (tk .TSQ_STATUS_PC p t))

/-! ## The tile's registers (R119, R142) -/

/-- A scalar register; S0 reads as zero. -/
def State.sreg (s : State) (p t n : Nat) : Word := if n = 0 then 0 else SMap.getD (s.tile p t).sregs n 0

/-- Write a scalar register; a write to S0 is discarded. -/
def setSreg (p t n : Nat) (v : Word) : Act :=
  if n = 0 then .done else modTile p t (fun x => { x with sregs := SMap.put 0 x.sregs n v })

/-- A scalar register as a slot adds it to a field: unsigned (R145). -/
def State.scalar (s : State) (p t n : Nat) : Nat := (s.sreg p t n).toNat

/-- A vector register's 256 lanes; one that nothing has written holds zeros. -/
def State.vreg (s : State) (p t n : Nat) : List Lane := SMap.getD (s.tile p t).vregs n (List.replicate 256 {})

def setVreg (p t n : Nat) (v : List Lane) : Act :=
  modTile p t (fun x => { x with vregs := SMap.put (List.replicate 256 {}) x.vregs n v })

def State.preg (s : State) (p t n : Nat) : PReg := SMap.getD (s.tile p t).pregs n {}
def setPreg (p t n : Nat) (v : PReg) : Act := modTile p t (fun x => { x with pregs := SMap.put {} x.pregs n v })

def State.wreg (s : State) (p t n : Nat) : Wide := SMap.getD (s.tile p t).wregs n {}
def setWreg (p t n : Nat) (v : Wide) : Act := modTile p t (fun x => { x with wregs := SMap.put {} x.wregs n v })

def Tile.setArr (x : Tile) (a : Nat) (v : Arr) : Tile :=
  if a = 0 then { x with fa := v } else if a = 1 then { x with bda := v } else { x with bwa := v }

def modArr (p t a : Nat) (f : Arr → Arr) : Act := modTile p t (fun x => x.setArr a (f (x.arr a)))

/-! ## Fault codes (R165) -/

def fIllegal : Nat := 1
def fProgram : Nat := 2
def fRange : Nat := 3
def fCoord : Nat := 4
def fDesc : Nat := 5
def fWait : Nat := 6
def fNest : Nat := 7

/-- A code under a condition. -/
def codeIf (c : Bool) (code : Nat) : List Nat := if c then [code] else []

/-- The fault of a run of lines whose lowest and highest are given, in a space of a tile (R100, R145, R165). -/
def State.spanFault (s : State) (p : Nat) (sp : Space) (t : Nat) (lo hi : Int) : List Nat :=
  if lo < 0 ∨ (Space.lines sp : Int) ≤ hi then [fRange]
  else if sp = .ls ∧ (s.regionFirst p t : Int) ≤ hi then [fProgram]
  else []

/-- The fault of a run of lines of the tile's own local store. -/
def State.lsFault (s : State) (p t last : Nat) : List Nat := s.spanFault p .ls t 0 last

/-! ## The control slot (R141-R143) -/

def cop (b : Bundle) : Nat := bitsOf b.c 31 27

/-- The sources that SMOVP names (R143). -/
def smovpOk (src : Nat) : Bool := decide (src ≤ 3 ∨ (0x10 ≤ src ∧ src ≤ 0x24))

/-- What the control slot faults on. IDLE with X = 0 and n = 0 is taken as illegal (DESIGN CHOICE, log 120). -/
def State.cFaults (s : State) (p t : Nat) (b : Bundle) : List Nat :=
  let c := b.c
  match cop b with
  | 0 => codeIf (bitsOf c 26 0 != 0) fIllegal
  | 1 => codeIf (bitsOf c 25 20 != 0 || (!c.testBit 26 && bitsOf c 19 0 == 0)) fIllegal
  | 2 => codeIf (bitsOf c 21 16 != 0) fIllegal
  | 3 => []
  | 4 => codeIf (bitsOf c 22 8 != 0 || !smovpOk (bitsOf c 7 0)) fIllegal
  | 5 =>
    let loops := (s.tile p t).loops
    codeIf (bitsOf c 19 13 != 0) fIllegal ++
    codeIf (loops.any (fun l => l.lc == bitsOf c 26 25) || decide (4 ≤ loops.length)) fNest
  | 6 => codeIf (bitsOf c 15 13 != 0 || bitsOf c 18 16 == 7) fIllegal
  | 7 => codeIf (bitsOf c 26 1 != 0) fIllegal
  | _ => [fIllegal]

/-- Whether the control slot uses IMM32. -/
def cUsesImm (b : Bundle) : Bool :=
  ((cop b == 1) && b.c.testBit 26) || ((cop b == 2) && b.c.testBit 22) || ((cop b == 5) && !b.c.testBit 24)

/-! ## Descriptors (R64, R139, R146, R153) -/

/-- Bytes [off, off + size) of a little-endian number. -/
def fieldAt (v off size : Nat) : Nat := v / 2 ^ (8 * off) % 2 ^ (8 * size)

/-- An operation descriptor's 64 bytes. -/
def State.opDesc (s : State) (p t i : Nat) : Nat :=
  (s.regionLine p t (s.rd (tk .TSQ_LAYOUT_OPD_LINE p t) + i / 2)).body.toNat / 2 ^ (512 * (i % 2)) % 2 ^ 512

/-- A mover descriptor's 32 bytes. -/
def State.mvDesc (s : State) (p t i : Nat) : Nat :=
  (s.regionLine p t (s.rd (tk .TSQ_LAYOUT_MVD_LINE p t) + i / 4)).body.toNat / 2 ^ (256 * (i % 4)) % 2 ^ 256

/-- An encode descriptor's 64 bits. -/
def State.encDesc (s : State) (p t i : Nat) : Nat :=
  (s.regionLine p t (s.rd (tk .TSQ_LAYOUT_ENC_LINE p t) + i / 16)).body.toNat / 2 ^ (64 * (i % 16)) % 2 ^ 64

/-- The fields of R64, TENSOR_ID raised by a scalar register's value modulo 2^32 (R145, R149). -/
def encOf (w tid : Nat) : EncDesc :=
  ⟨(bitsOf w 63 32 + tid) % 2 ^ 32, bitsOf w 31 20, bitsOf w 19 16, w.testBit 15, w.testBit 14, bitsOf w 13 10⟩

/-- Whether an encode descriptor index lies in its table and its fields are in range. -/
def State.encOk (s : State) (p t i : Nat) : Bool :=
  decide (i < (s.tile p t).encs) && isTensorFmt (bitsOf (s.encDesc p t i) 19 16) && bitsOf (s.encDesc p t i) 9 0 == 0

/-! ## The array slot (R145-R147) -/

def aop (b : Bundle) : Nat := bitsOf b.a 63 60
def aArr (b : Bundle) : Nat := bitsOf b.a 59 58

/-- Operand formats of an array (R97). -/
def feedFmt (arr f : Nat) : Bool := f == 4 || f == 5 || f == 8 || f == 9 || (arr != 0 && (f == 10 || f == 0 || f == 1 || f == 2))

/-- The operation that an array slot names, with the scalar registers added. -/
def State.arrOp (s : State) (p t : Nat) (b : Bundle) (seq : Nat) : ArrOp :=
  let d := s.opDesc p t (bitsOf b.a 57 47)
  let f := fieldAt d
  let r (hi lo : Nat) : Nat := s.scalar p t (bitsOf b.a hi lo)
  { mb := f 0 2, nb := f 2 2, kb := f 4 2, fmtA := f 6 1 / 16, fmtB := f 6 1 % 16, fmtC := f 7 1 / 16
    passes := f 7 1 / 4 % 4, transA := (f 7 1).testBit 1, transB := (f 7 1).testBit 0
    preload := (f 8 1).testBit 0, fscale := f 8 1 / 2 % 4
    aBase := f 16 2 + r 46 43, aRs := f 18 2, aCs := f 20 2
    bBase := f 22 2 + r 42 39, bRs := f 24 2, bCs := f 26 2
    cBase := f 28 2 + r 38 35, cRs := f 30 2, cCs := f 32 2
    c0Base := f 34 2 + r 38 35, c0Rs := f 36 2, c0Cs := f 38 2
    fsBase := f 40 2 + r 34 31, bi := r 30 27, bj := r 26 23
    enc := encOf (s.encDesc p t (f 10 2 % 1024)) (r 22 19), seq := seq }

/-- A field of an operation descriptor is out of range (R146). -/
def State.opBad (s : State) (p t arr d : Nat) : Bool :=
  let f := fieldAt d
  let dim (n : Nat) : Bool := decide (n < 1 ∨ 4096 < n)
  dim (f 0 2) || dim (f 2 2) || dim (f 4 2) || !feedFmt arr (f 6 1 / 16) || !feedFmt arr (f 6 1 % 16) ||
  !isTensorFmt (f 7 1 / 16) || f 7 1 / 4 % 4 == 0 || f 8 1 / 2 % 4 == 3 || f 8 1 / 8 != 0 || f 9 1 != 0 || f 10 2 / 1024 != 0 ||
  f 12 4 != 0 || f 42 22 != 0 || (List.range 13).any (fun k => decide (32768 ≤ f (16 + 2 * k) 2)) ||
  !s.encOk p t (f 10 2 % 1024) || bitsOf (s.encDesc p t (f 10 2 % 1024)) 19 16 != f 7 1 / 16

/-- First line of the stored block (p, q) of a grid (R146). -/
def gridLine (base rs cs p q : Nat) : Nat := base + p * rs + q * cs

/-- First line of logical block (i, k) of A, of (k, j) of B, of (i, j) of C and of C0. -/
def ArrOp.aLine (o : ArrOp) (i k : Nat) : Nat := if o.transA then gridLine o.aBase o.aRs o.aCs k i else gridLine o.aBase o.aRs o.aCs i k
def ArrOp.bLine (o : ArrOp) (k j : Nat) : Nat := if o.transB then gridLine o.bBase o.bRs o.bCs j k else gridLine o.bBase o.bRs o.bCs k j
def ArrOp.cLine (o : ArrOp) (i j : Nat) : Nat := gridLine o.cBase o.cRs o.cCs i j
def ArrOp.c0Line (o : ArrOp) (i j : Nat) : Nat := gridLine o.c0Base o.c0Rs o.c0Cs i j

/-- The last line of each grid that the operation touches. -/
def ArrOp.lastLines (o : ArrOp) : List Nat :=
  [o.aLine (o.mb - 1) (o.kb - 1) + fmtLines o.fmtA - 1, o.bLine (o.kb - 1) (o.nb - 1) + fmtLines o.fmtB - 1,
   o.cLine (o.mb - 1) (o.nb - 1) + fmtLines o.fmtC - 1] ++
  (if o.preload then [o.c0Line (o.mb - 1) (o.nb - 1) + 7] else []) ++
  (if o.fscale = 1 then [o.fsBase + o.tileRows - 1] else if o.fscale = 2 then [o.fsBase + 2 * o.tileCols - 1] else [])

/-- What the array slot faults on. -/
def State.aFaults (s : State) (p t : Nat) (b : Bundle) : List Nat :=
  let i := bitsOf b.a 57 47
  if aop b = 0 then codeIf (bitsOf b.a 18 0 != 0) fIllegal
  else if aop b ≠ 1 ∨ aArr b = 3 ∨ bitsOf b.a 18 0 ≠ 0 then [fIllegal]
  else if (s.tile p t).opds ≤ i ∨ s.opBad p t (aArr b) (s.opDesc p t i) then [fDesc]
  else
    let o := s.arrOp p t b 0
    s.lsFault p t (o.lastLines.foldl max 0) ++ codeIf (decide (65536 ≤ o.c0Base ∨ 65536 ≤ o.fsBase)) fRange ++
    codeIf (decide (2 ^ 24 ≤ o.bi + o.mb - 1 ∨ 2 ^ 24 ≤ o.bj + o.nb - 1)) fCoord

/-! ## The vector slot (R148-R151) -/

/-- A vector slot's fields. -/
structure VSlot where
  vop : Nat
  vd  : Nat
  va  : Nat
  vb  : Nat
  vc  : Nat
  pr  : Nat
  pn  : Bool
  fn  : Nat
  sx  : Nat
  sy  : Nat
  rsv : Nat
  x   : Bool
  deriving DecidableEq, Repr

def vslot (b : Bundle) : VSlot :=
  ⟨bitsOf b.v 63 56, bitsOf b.v 55 51, bitsOf b.v 50 46, bitsOf b.v 45 41, bitsOf b.v 40 36, bitsOf b.v 35 33, b.v.testBit 32,
   bitsOf b.v 31 16, bitsOf b.v 15 12, bitsOf b.v 11 8, bitsOf b.v 7 1, b.v.testBit 0⟩

/-- The low bits of VD, VA, VB, VC, FN, SX and SY that an opcode uses (R149); none for an opcode not listed. -/
def vUses (vop : Nat) : Option (List Nat) :=
  if vop = 0 then some [0, 0, 0, 0, 0, 0, 0]
  else if vop = 4 then some [5, 5, 5, 5, 0, 0, 0]
  else if vop ≤ 6 then some [5, 5, 5, 0, 0, 0, 0]
  else if vop ≤ 8 then some [5, 5, 0, 0, 0, 0, 0]
  else match vop with
  | 0x10 => some [3, 5, 5, 0, 3, 0, 0]
  | 0x11 => some [5, 5, 5, 0, 3, 0, 0]
  | 0x18 => some [5, 5, 0, 0, 1, 0, 0]
  | 0x20 => some [5, 5, 0, 0, 4, 0, 0]
  | 0x28 => some [4, 5, 0, 0, 0, 0, 0]
  | 0x29 => some [4, 5, 0, 0, 0, 0, 0]
  | 0x2A => some [5, 5, 0, 0, 8, 0, 0]
  | 0x2B => some [5, 5, 0, 0, 8, 0, 0]
  | 0x30 => some [4, 4, 4, 0, 0, 0, 0]
  | 0x31 => some [4, 4, 4, 0, 0, 0, 0]
  | 0x32 => some [4, 4, 4, 0, 0, 0, 0]
  | 0x33 => some [5, 4, 0, 0, 8, 0, 0]
  | 0x34 => some [5, 4, 0, 0, 0, 0, 0]
  | 0x35 => some [4, 5, 0, 0, 8, 0, 0]
  | 0x38 => some [5, 5, 0, 5, 5, 4, 0]
  | 0x3C => some [5, 5, 0, 0, 16, 0, 0]
  | 0x40 => some [5, 0, 4, 0, 16, 4, 0]
  | 0x41 => some [0, 5, 0, 0, 16, 4, 4]
  | 0x42 => some [3, 0, 2, 0, 16, 4, 0]
  | 0x43 => some [0, 5, 0, 0, 16, 4, 0]
  | 0x48 => some [5, 0, 0, 0, 0, 0, 0]
  | 0x49 => some [5, 0, 0, 0, 0, 4, 0]
  | 0x4C => some [0, 0, 0, 0, 0, 0, 0]
  | _ => none

/-- Opcodes that use IMM32: VST, VMOVI and VMARK, whatever X says. What X = 0 does there the spec does not state (DESIGN CHOICE, log
142). -/
def vUsesImm (v : VSlot) : Bool := v.vop == 0x41 || v.vop == 0x48 || v.vop == 0x4C

/-- Operations that no predicate acts on: VNOP, WADD, WSUB, WMUL, VST and VMARK. Their PR must be zero; PN may be either, since
PR = 0 with PN = 1 is the encoding of an unpredicated operation (R148; DESIGN CHOICE, log 119). A load fills every lane whatever PR
says (R151). -/
def vNoPred (vop : Nat) : Bool := vop == 0 || vop == 0x30 || vop == 0x31 || vop == 0x32 || vop == 0x41 || vop == 0x4C

/-- Fields beyond what the opcode uses, or a value of FN or VB that the opcode does not define. -/
def vIllegal (v : VSlot) : Bool :=
  v.rsv != 0 || (v.x && !vUsesImm v) || (vNoPred v.vop && v.pr != 0) ||
  (match vUses v.vop with
   | none => true
   | some ws => (([v.vd, v.va, v.vb, v.vc, v.fn, v.sx, v.sy].zip ws).any (fun q => decide (2 ^ q.2 ≤ q.1)))) ||
  (v.vop == 0x10 && v.fn == 7) || (v.vop == 0x20 && decide (12 ≤ v.fn)) ||
  (v.vop == 0x38 && (v.fn % 16 == 0 || decide (8 < v.fn % 16))) || (v.vop == 0x3C && (v.fn % 8 == 7 || v.fn.testBit 3)) ||
  (v.vop == 0x40 && !isTensorFmt v.vb) || (v.vop == 0x41 && v.sy == 15)

/-- First line that a load or store addresses. -/
def State.vLine (s : State) (p t : Nat) (v : VSlot) : Nat :=
  s.scalar p t v.sx + (if v.vop = 0x40 then v.fn % 32768 else v.fn)

/-- What the vector slot faults on. A VTOPK whose base index and highest lane pass 32 bits is out of range: the spec gives that index neither
a fault nor a wrap (DESIGN CHOICE, log 143). -/
def State.vFaults (s : State) (p t : Nat) (b : Bundle) : List Nat :=
  let v := vslot b
  if vIllegal v then [fIllegal]
  else if v.vop = 0x40 then s.lsFault p t (s.vLine p t v + fmtLines v.vb - 1)
  else if v.vop = 0x41 then
    let i := b.imm % 1024
    if !s.encOk p t i then [fDesc]
    else s.lsFault p t (s.vLine p t v + fmtLines (bitsOf (s.encDesc p t i) 19 16) - 1) ++
      codeIf (decide (2 ^ 24 ≤ s.scalar p t v.sy ∨ 2 ^ 24 ≤ s.scalar p t (v.sy + 1))) fCoord
  else if v.vop = 0x42 then s.lsFault p t (s.vLine p t v)
  else if v.vop = 0x43 then s.lsFault p t (s.vLine p t v + 3)
  else if v.vop = 0x38 then codeIf (decide (2 ^ 32 ≤ s.scalar p t v.sx + 255)) fRange
  else []

/-! ## The mover slot (R153, R155) -/

def mop (b : Bundle) : Nat := bitsOf b.m 63 60
def wKind (b : Bundle) : Nat := bitsOf b.m 59 58
def wIndex (b : Bundle) : Nat := bitsOf b.m 57 54

/-- A space by its number in a descriptor. -/
def spaceOf (n : Nat) : Space := if n = 0 then .dram else if n = 1 then .buf else .ls

/-- The physical tile that a descriptor's tile number names; 0xF is the issuing tile. -/
def State.mvTile (s : State) (p t n : Nat) : Nat := if n = 15 then t else s.physOf p n

/-- The descriptor that a mover slot names, with the scalar registers added. -/
def State.mvOp (s : State) (p t : Nat) (b : Bundle) : MvOp :=
  let i := bitsOf b.m 59 48
  let d := s.mvDesc p t i
  let f := fieldAt d
  let r (hi lo : Nat) : Nat := s.scalar p t (bitsOf b.m hi lo)
  { mvd := i, typ := f 0 1 % 16, fillFmt := f 0 1 / 16
    srcSpace := spaceOf (f 1 1 % 16), dstSpace := spaceOf (f 1 1 / 16)
    srcTile := f 2 1 % 16, dstTile := f 2 1 / 16
    check := (f 3 1).testBit 6, ahead := (f 3 1).testBit 5, syncIdx := f 3 1 % 16
    srcLine := f 4 4 + r 47 44, dstLine := f 8 4 + r 43 40
    count0 := f 12 2, count1 := f 14 2, srcStride := signedOf 32 (f 16 4), dstStride := signedOf 32 (f 20 4)
    indexLine := f 24 2 + r 39 36 }

/-- A field of a mover descriptor is out of range (R153). -/
def mvBad (d : Nat) : Bool :=
  let f := fieldAt d
  let tile (n : Nat) : Bool := decide (n ≤ 7 ∨ n = 15)
  decide (2 < f 0 1 % 16) || !(isTensorFmt (f 0 1 / 16) || f 0 1 / 16 == 15) || decide (2 < f 1 1 % 16) || decide (2 < f 1 1 / 16) ||
  !tile (f 2 1 % 16) || !tile (f 2 1 / 16) || (f 3 1).testBit 7 || (f 3 1).testBit 4 || f 12 2 == 0 || f 14 2 == 0 || f 26 6 != 0

/-- Lines of a run of descriptors' lines: the lowest and highest of `count1` runs of `count0` lines. -/
def runSpan (first : Nat) (stride : Int) (n0 n1 : Nat) : Int × Int :=
  let far : Int := ((n1 - 1 : Nat) : Int) * stride
  ((first : Int) + min 0 far, (first : Int) + max 0 far + ((n0 : Int) - 1))

/-- Faults of the lines that a descriptor names, but for those an index list selects (R154). -/
def State.mvSpan (s : State) (p t : Nat) (o : MvOp) : List Nat :=
  let src := runSpan o.srcLine o.srcStride o.count0 o.count1
  let dst := runSpan o.dstLine o.dstStride o.count0 o.count1
  (if o.typ = 1 then codeIf (decide (Space.lines o.srcSpace ≤ o.srcLine)) fRange
   else s.spanFault p o.srcSpace (s.mvTile p t o.srcTile) src.1 src.2) ++
  (if o.typ = 2 then codeIf (decide (Space.lines o.dstSpace ≤ o.dstLine)) fRange
   else s.spanFault p o.dstSpace (s.mvTile p t o.dstTile) dst.1 dst.2) ++
  (if o.typ = 0 then codeIf (decide (65536 ≤ o.indexLine)) fRange else s.lsFault p t (o.indexLine + (2 * o.count1 - 1) / 128))

/-- What the mover slot faults on. -/
def State.mFaults (s : State) (p t : Nat) (b : Bundle) : List Nat :=
  let i := bitsOf b.m 59 48
  if mop b = 0 then codeIf (bitsOf b.m 59 0 != 0) fIllegal
  else if mop b = 1 then
    if bitsOf b.m 35 0 ≠ 0 then [fIllegal]
    else if (s.tile p t).mvds ≤ i ∨ mvBad (s.mvDesc p t i) then [fDesc]
    else s.mvSpan p t (s.mvOp p t b)
  else if mop b = 2 then
    codeIf (bitsOf b.m 37 1 != 0 || wKind b == 3 || (wKind b == 1 && decide (2 < wIndex b))) fIllegal
  else [fIllegal]

def mUsesImm (b : Bundle) : Bool := mop b == 2 && b.m.testBit 0

/-! ## The whole bundle -/

/-- Slots that use IMM32; two are a fault of the bundle. -/
def immUsers (b : Bundle) : List Nat :=
  (if cUsesImm b then [0] else []) ++ (if vUsesImm (vslot b) then [2] else []) ++ (if mUsesImm b then [3] else [])

/-- Every fault condition a bundle meets, as (code, slot): slots 0 C, 1 A, 2 V, 3 M. In fault mode only the control slot is
issued (R166). -/
def State.bundleFaults (s : State) (p t : Nat) (b : Bundle) (faultMode : Bool) : List (Nat × Nat) :=
  (s.cFaults p t b).map (fun c => (c, 0)) ++
  (if faultMode then []
   else
     (s.aFaults p t b).map (fun c => (c, 1)) ++ (s.vFaults p t b).map (fun c => (c, 2)) ++
     (s.mFaults p t b).map (fun c => (c, 3)) ++
     (if 2 ≤ (immUsers b).length then (immUsers b).map (fun u => (fIllegal, u)) else []))

end Sys2Proof.Machine
end

