-- ==== Sys2Proof/Machine/Flags.lean ====
section
/-! DEFINITION. Flags and counters of tiles: what one lane's result counts (R121, R122, R134), the vector unit's counters and
WIDE_INF, and the sequencer's fault record and stalls (R138, R166-R170). -/

namespace Sys2Proof.Machine

/-! ## Lanes (R121, R122, R134) -/

/-- One lane's result with what it counts: infinite or NaN inputs, a result that became so from finite inputs, a non-zero
value written as zero, an SFU input of R127. -/
structure LaneOut where
  lane   : Lane
  nfIn   : Nat := 0
  nfOut  : Nat := 0
  flush  : Nat := 0
  domain : Nat := 0
  deriving DecidableEq, Repr

def oneIf (b : Bool) : Nat := if b then 1 else 0

/-- How many of the lanes hold an infinity or a NaN. -/
def nonfiniteOf (xs : List Lane) : Nat := (xs.filter (fun x => !(num32 x.bits).finite)).length

/-- The poison that a result takes from what it reads (R135). -/
def poisonOf (xs : List Lane) : Bool := xs.any Lane.poison

/-- An arithmetic result from its inputs and exact value: one rounding, with its counts. -/
def laneArith (m : RMode) (xs : List Lane) (r : FNum) : LaneOut :=
  let o := fp32.packNum m false r
  let bits := BitVec.ofNat 32 o.bits
  { lane := ⟨bits, poisonOf xs⟩, nfIn := nonfiniteOf xs
    nfOut := oneIf (nonfiniteOf xs == 0 && !(num32 bits).finite), flush := oneIf o.flush }

/-- A result that is bits, not a rounded value. -/
def laneBits (xs : List Lane) (w : Word) : LaneOut := { lane := ⟨w, poisonOf xs⟩, nfIn := nonfiniteOf xs }

/-- The rounding of a destination register: to odd where VNARROW marks it (R122). -/
def State.vmode (s : State) (p t n : Nat) : RMode := if (s.rd (tk .VNARROW p t)).testBit n then .odd else .rne

/-- The smaller of two numbers, -0 below +0; NaN if either is NaN (R122). -/
def fnumMin (a b : FNum) : FNum :=
  if a.isNan || b.isNan then .nan else if a.lt b then a else if b.lt a then b else if a.neg? then a else b

/-- The larger of two numbers, +0 above -0; NaN if either is NaN. -/
def fnumMax (a b : FNum) : FNum :=
  if a.isNan || b.isNan then .nan else if a.lt b then b else if b.lt a then a else if a.neg? then b else a

/-- A comparison (R149): 0 EQ, 1 NE, 2 LT, 3 LE, 4 GT, 5 GE, 6 UNORD. With NaN only NE and UNORD hold. -/
def fnumCond (c : Nat) (a b : FNum) : Bool :=
  if c = 0 then a.eqv b
  else if c = 1 then !a.eqv b
  else if c = 2 then a.lt b
  else if c = 3 then a.lt b || a.eqv b
  else if c = 4 then b.lt a
  else if c = 5 then b.lt a || a.eqv b
  else a.isNan || b.isNan

/-- FP32 to int32: nearest even, saturating, NaN to 0 (R149). -/
def toInt32 (n : FNum) : Word := match n with
  | .nan => 0
  | .inf neg => if neg then BitVec.ofInt 32 (-2147483648) else BitVec.ofInt 32 2147483647
  | .fin d => BitVec.ofInt 32 (max (-2147483648) (min 2147483647 ((d.quant .rne 0).scaled 0)))

/-- The number of an int32. -/
def ofInt32 (w : Word) : FNum := .fin (Dy.ofInt w.toInt 0)

/-- Raise the vector counters by what lanes count. -/
def countLanes (p t : Nat) (os : List LaneOut) : Act := Act.all [
  bump (tk .VEC_NONFINITE_IN p t) ((os.map LaneOut.nfIn).sum), bump (tk .VEC_NONFINITE_OUT p t) ((os.map LaneOut.nfOut).sum),
  bump (tk .VEC_DOMAIN p t) ((os.map LaneOut.domain).sum), bump (tk .VEC_FLUSH_OUT p t) ((os.map LaneOut.flush).sum)]

/-- WIDE_INF once a wide accumulator is infinite or NaN (R133). -/
def wideFlag (p t : Nat) (w : Wide) : Act := Act.when (!w.num.finite) (setR (tk .VEC_STATUS_WIDE_INF p t) 1)

/-! ## The sequencer (R138, R166-R170) -/

/-- Record the attempt's first fault, at bundle `pc`, enter fault mode, and raise the cause (R166, R168). -/
def seqFault (p t code slot pc : Nat) : Act :=
  .ask fun s => Act.all [
    Act.when (!s.on (tk .TSQ_FAULT_VALID p t)) (Act.all [
      setR (tk .TSQ_FAULT_VALID p t) 1, setR (tk .TSQ_FAULT_CODE p t) code, setR (tk .TSQ_FAULT_SLOT p t) slot,
      setR (tk .TSQ_FAULT_PC p t) pc]),
    setR (tk .TSQ_STATUS_FAULT_MODE p t) 1,
    modFlt p (fun x => { x with hits := x.hits ++ [⟨s.rd (pk .GATE_STATUS_PHASE p), t, 3, 0⟩] }),
    causeAt p cSeqFault]

/-- Clocks stalled for a cause: time is outside the model, so the amount is free (log 5). -/
def stallClocks (p t cause : Nat) : Act := withFree fun f => bump (tk .TSQ_STALL_CLK p t cause) f

/-- The bundle stalls for a cause. -/
def stallBundle (p t cause : Nat) : Act := (setR (tk .TSQ_STATUS_STALL p t) cause).seq (stallClocks p t cause)

/-- The three clocks between a taken branch, or the back-edge of a long loop, and its target (R140). -/
def fetchGap (p t : Nat) : Act :=
  (bump (tk .TSQ_STALL_CLK p t 6) 3).seq (modTile p t (fun x => { x with issued := { x.issued with fetch := true } }))

end Sys2Proof.Machine
end

