-- ==== Sys2Proof/Machine/Switch.lean ====
section
/-! DEFINITION. The fabric switch (chapter 08): ports and ways, slot-table pages, sends from the local port, forwarding with
its checks and digests, stand-ins, and the unscheduled class. -/

namespace Sys2Proof.Machine

/-! ## Slot-table entries (R215-R221) -/

/-- A slot-table entry. -/
structure SlotEntry where
  valid   : Bool
  mcast   : Bool
  slot    : Nat
  egress  : Nat
  ingress : Nat
  drop    : Bool
  dig     : Bool
  gate    : Bool
  deriving DecidableEq, Repr

/-- The fields of R215. -/
def slotEntryOf (w : Nat) : SlotEntry :=
  ⟨w.testBit 31, w.testBit 30, w / 2 ^ 20 % 1024, w / 2 ^ 12 % 256, w / 16 % 256, w.testBit 2, w.testBit 1, w.testBit 0⟩

/-- The built-in bring-up page: CYCLE 4 (R236, R482). -/
def bringupPage : List SlotEntry := [
  ⟨true, false, 0, 44, 45, false, false, false⟩,
  ⟨true, false, 1, 44, 48, false, false, false⟩,
  ⟨true, false, 2, 45, 44, false, false, false⟩,
  ⟨true, true, 2, 48, 44, false, false, false⟩]

def State.swMode (s : State) (p : Nat) : Nat := s.rd (pk .SW_STATUS_MODE p)
def State.page (s : State) (p : Nat) : Nat := s.rd (pk .SW_STATUS_PAGE p)

/-- Entries of the page in force, and its cycle. -/
def State.pageEntries (s : State) (p : Nat) : List SlotEntry :=
  if s.swMode p = 1 then bringupPage
  else if s.swMode p = 2 then
    (List.range (s.rd (pk .PAGE_DIR_COUNT p (s.page p)))).map (fun k =>
      slotEntryOf (s.rd (pk .SLOT_TABLE p (s.rd (pk .PAGE_DIR_FIRST p (s.page p)) + k))))
  else []

def State.pageCycle (s : State) (p : Nat) : Nat := if s.swMode p = 1 then 4 else s.rd (pk .PAGE_DIR_CYCLE p (s.page p))

/-- The phase table entry of a pile's phase. -/
def State.phaseEntry (s : State) (p : Nat) : Option PhaseEntry := match s.job.image with
  | some i => i.phases[(s.pile p).gate.entry]?
  | none => none

/-- LAST_SLOT of the phase in force; the bring-up page has no phase. -/
def State.lastSlot (s : State) (p : Nat) : Option Nat := if s.swMode p = 2 then (s.phaseEntry p).map PhaseEntry.lastSlot else none

/-- Entries joined to their groups: an entry without MCAST_NEXT with those of its slot and ingress way that follow it directly with
MCAST_NEXT, 32 at most (R221). -/
def slotGroups (es : List SlotEntry) : List (List SlotEntry) :=
  (es.foldr (fun e (a : List SlotEntry × List (List SlotEntry)) =>
    if e.mcast then (e :: a.1, a.2)
    else ([], (e :: (a.1.takeWhile (fun f => f.slot == e.slot && f.ingress == e.ingress)).take 31) :: a.2)) ([], [])).2

/-- The page's entries of phase slot t (R217): gate entries always, others while t + 2 lies within LAST_SLOT. -/
def State.slotEntries (s : State) (p t : Nat) : List SlotEntry :=
  (s.pageEntries p).filter (fun e => e.slot == t % max 1 (s.pageCycle p) &&
    (e.gate || (match s.lastSlot p with
      | some l => decide (t + 2 ≤ l)
      | none => s.swMode p == 1)))

/-- The acting groups of a way in a phase slot, gate entries apart. -/
def State.actingGroups (s : State) (p t way : Nat) : List (List SlotEntry) :=
  (slotGroups ((s.slotEntries p t).filter (fun e => !e.gate))).filter (fun g =>
    (g.head?.map SlotEntry.ingress) == some way && g.any SlotEntry.valid)

/-- The gate entries that act on a way as ingress (R226); 255 names those that take none. -/
def State.gateSlots (s : State) (p t way : Nat) : List SlotEntry :=
  (s.slotEntries p t).filter (fun e => e.gate && e.valid && e.ingress == way)

/-- The phase slot of an absolute slot: counted from the opening, or as it stands on the bring-up page. -/
def State.phaseSlot (s : State) (p slot : Nat) : Option Nat :=
  if s.swMode p = 2 then (if slot < (s.pile p).gate.openSlot then none else some (slot - (s.pile p).gate.openSlot))
  else if s.swMode p = 1 then some slot else none

/-! ## Gondolas -/

/-- A gondola that this switch originates carries CHECK_MODE under SW_CTL or block checking (R225, R393). -/
def State.origCheck (s : State) (p : Nat) : Bool := s.on (pk .SW_CTL_CHECK_MODE p) || s.checking p

def emptyGondola (check destReset poison : Bool) : Gondola :=
  { body := 0, tag := 0, checkMode := check, destReset := destReset, poison := poison, empty := true }

/-- The low half of a gondola's control field (R213). -/
def controlBits (g : Gondola) : Nat :=
  bit g.empty * 2 + bit g.poison * 4 + bit g.destReset * 8 + bit g.gate * 16 + bit g.checkMode * 32 + g.tc % 4 * 64 + g.useq % 256 * 256

/-- The 148 bytes of a gondola as it leaves on a link, FCRC generated (R213, R214). -/
def gondolaBytes (g : Gondola) : List Nat :=
  let bs := bytesLE 128 g.body.toNat ++ bytesLE 16 g.tag.toNat ++ bytesLE 2 (controlBits g)
  bs ++ bytesLE 2 (crc16 bs)

/-- The gondola in 148 bytes (R213), and whether its FCRC agrees. -/
def gondolaFrom (bs : List Nat) : Gondola × Bool :=
  let c := ofLE ((bs.drop 144).take 4)
  ({ body := BitVec.ofNat 1024 (ofLE (bs.take 128)), tag := BitVec.ofNat 128 (ofLE ((bs.drop 128).take 16))
     useq := c / 256 % 256, tc := c / 64 % 4, checkMode := c.testBit 5, gate := c.testBit 4, destReset := c.testBit 3
     poison := c.testBit 2, empty := c.testBit 1 }, crc16 (bs.take 146) == c / 65536)

def gondolaOf (l : Line) (check : Bool) : Gondola := { body := l.body, tag := l.tag, checkMode := check, poison := l.poison }

/-- Enter what the running phase gathered into DIG_CUR, in order of slot and then way (R230). -/
def foldDigests (p : Nat) : Act :=
  .ask fun s =>
    Act.all [
      Act.each (List.range 8) (fun q =>
        (setR (pk .DIG_CUR p q 0) (s.liveDigest p q 0)).seq (setR (pk .DIG_CUR p q 1) (s.liveDigest p q 1))),
      modSw p (fun w => { w with digTx := [], digRx := [] })]

/-! ## Descriptors (R222) -/

/-- The descriptor of an index in the page in force. -/
def State.swDesc (s : State) (p i : Nat) : Option SwDesc := match s.job.image with
  | some img => match img.descLists.find? (fun d => d.pile == p && d.page == s.page p) with
    | some d => d.descs[i]?
    | none => none
  | none => none

/-- The condition of a descriptor. -/
def State.condMet (s : State) (p : Nat) (d : SwDesc) : Bool :=
  if d.condKind = 0 then true
  else if d.condKind = 3 then decide (d.condValue ≤ (s.pile p).rue.rueDone)
  else if d.condKind = 1 then decide (d.condValue ≤ s.rd (tk .SYNC p (s.physOf p d.condTile) d.condN))
  else decide (d.condValue ≤ s.rd (tk .ARR_DONE p (s.physOf p d.condTile) d.condN))

/-- The line of a gondola whose multiplier of LINE_STRIDE is i. -/
def State.descLine (s : State) (p : Nat) (d : SwDesc) (i : Nat) : Int :=
  (d.line : Int) + (i : Int) * d.lineStride + ((s.pile p).gate.iter : Int) * d.iterStride + ((s.step % 2 : Nat) : Int) * d.bankStride

/-- What a descriptor's gondola k selects: a line, nothing (entry 0xFFFF), or an index fault (R154). -/
inductive Pick where
  | line (n : Nat)
  | nothing
  | fault
  deriving DecidableEq, Repr

/-- The 16-bit entry k of an index list. -/
def indexEntry (l : Line) (k : Nat) : Nat := l.half (k % 64)

def State.pick (s : State) (p : Nat) (d : SwDesc) (k : Nat) : Pick :=
  let t := s.physOf p d.tile
  let whole (i : Nat) : Pick := if s.lineOk p d.space t (s.descLine p d i) then .line (s.descLine p d i).toNat else .fault
  if d.indexLine = 0xFFFF then whole k
  else
    let l := s.sramLine (lsAddr p (s.physOf p d.idxTile) ((d.indexLine + k / 64) % 32768))
    if l.poison then .fault else if indexEntry l k = 0xFFFF then .nothing else whole (indexEntry l k)

/-- An index fault of a switch descriptor (R154). -/
def indexFault (p : Nat) : Act := (bump (pk .SW_INDEX_ERR p)).seq (causeAt p cHazard)

/-- A transfer hazard (R182). -/
def hazard (p : Nat) : Act := (bump (pk .XFER_HAZARD p)).seq (causeAt p cHazard)

/-- The domain that a space lies in. -/
def spaceDomain (p : Nat) (sp : Space) (t : Nat) : Nat := match sp with
  | .dram => domMem p
  | .buf => domBuf p
  | .ls => domTile p t

/-- Whether an access to a space must wait for its domain to wake (R502); a MEM domain that is OFF does not wake (R503). -/
def State.mustWait (s : State) (p : Nat) (sp : Space) (t : Nat) : Bool :=
  !s.ready (spaceDomain p sp t) && !(sp == .dram && s.power (domMem p) == 2)

/-- The domain of a descriptor's index list is asleep (R502). -/
def State.listWaits (s : State) (p : Nat) (d : SwDesc) : Bool :=
  d.indexLine != 0xFFFF && s.mustWait p .ls (s.physOf p d.idxTile)

/-! ## SEND_SAMPLE (R223) -/

/-- The phase a pile is in is running. -/
def State.inPhase (s : State) (p : Nat) : Bool :=
  s.running && s.swMode p == 2 && s.rd (pk .GATE_STATUS_STATE p) == 0

/-- A gondola waits for its LOC ingress way-slot. -/
def putLoc (p key : Nat) (g : Gondola) : Act := modSw p (fun w => { w with locIn := SMap.set w.locIn key (some g) })

/-- A send's line as it leaves: with CHECK or under block checking a line that fails its BLOCK_CHECK is poisoned. -/
def sendLine (p key : Nat) (d : SwDesc) (met : Bool) (l : Line) : Act :=
  .ask fun s =>
    let bad := (d.check || s.checking p) && !lineCheckOk l
    (Act.when bad (bump (pk .SW_CHECK_FAIL p))).seq
      (putLoc p key (gondolaOf { l with poison := l.poison || bad || !met } (s.origCheck p)))

def actSendSample (p desc k : Nat) (sealed : SealKind) : Act :=
  .ask fun s => match s.swDesc p desc with
    | none => .done
    | some d =>
      let t := d.firstSlot + k * d.slotStride
      let key := ((s.pile p).gate.openSlot + t) * 256 + d.way
      let ls := s.physOf p d.tile
      if d.receive || decide (d.count ≤ k) || !s.inPhase p || !s.ready (domSw p) || s.on (pk .SW_STATUS_STAND_IN p) ||
          (s.actingGroups p t d.way).isEmpty || (s.pile p).sw.done.contains (desc * 65536 + k) then .done
      else if s.listWaits p d then demandWake (domTile p (s.physOf p d.idxTile))
      else if s.mustWait p d.space ls then demandWake (spaceDomain p d.space ls)
      else
        Act.all [
          modSw p (fun w => { w with done := w.done ++ [desc * 65536 + k] }),
          Act.when (!s.condMet p d) (hazard p),
          (match s.pick p d k with
           | .fault => (indexFault p).seq (putLoc p key (emptyGondola (s.origCheck p) false true))
           | .nothing => putLoc p key (emptyGondola (s.origCheck p) false (!s.condMet p d))
           | .line n => sealing p sealed (getLine p d.space ls n) (sendLine p key d (s.condMet p d)))]

/-- SEND_SAMPLE: gondola k of a send descriptor of the page in force. -/
def execSendSample (p : PileId) (desc k : Nat) (sealed : SealKind) (s : State) : Host.Outcome State Fault Refusal :=
  (actSendSample p.val desc k sealed).answer s

/-! ## GONDOLA_INGRESS (R217-R232) -/

/-- A pile concludes that RELEASE is lost (R192): its committed state stays, and the job ends. -/
def gateLost (p : Nat) : Act :=
  .ask fun s => Act.all [
    raiseEvent 0x0004 p (bytesLE 2 (s.rd (pk .GATE_STATUS_PHASE p))),
    setR (pk .GATE_STATUS_STATE p) 3, setR (dk .JOB_STATE_STATE) jsStopped]

/-- A pile waits for RELEASE: it has arrived and holds no copy. -/
def State.awaitsRelease (s : State) (p : Nat) : Bool :=
  s.jobStarted && s.rd (pk .GATE_STATUS_STATE p) == 1 && (s.pile p).gate.rel.isNone

/-- What leaves on a bridge is under way to the far end, where it is delivered three slots later at the same offset (R212, R254). -/
def wireOn (p slot way : Nat) (g : Gondola) : Act :=
  let q := wayPort way
  let far := farBridge p (q - 4)
  .ask fun s => Act.when (decide (4 ≤ q) && s.portUp far.1 (4 + far.2))
    (modSw far.1 (fun w => { w with
      wires := SMap.set w.wires ((slot + 3) * 256 + portFirst (4 + far.2) + (way - portFirst q)) (some g) }))

/-- A gondola leaves on a way in a slot. -/
def sendOn (p slot way : Nat) (g : Gondola) : Act := (send (.gondola p slot way g)).seq (wireOn p slot way g)

/-! ## Free way-slots (R220, R229) -/

/-- The ways of a port. -/
def portWays (q : Nat) : List Nat := (List.range (portFirst (q + 1) - portFirst q)).map (portFirst q + ·)

/-- The ways of a port that no acting entry names as egress in a slot, and that an unscheduled frame or idle fills (R220). -/
def State.freeWays (s : State) (p slot q : Nat) : List Nat := match s.phaseSlot p slot with
  | some t => (portWays q).filter (fun w => !(decide (2 ≤ t) && (s.slotEntries p (t - 2)).any (fun e => e.valid && e.egress == w)))
  | none => []

/-- A port may send unscheduled frames now: it is up and not retraining, and SW_CTL lets them use free way-slots. -/
def State.maySend (s : State) (p q : Nat) : Bool := s.on (pk .SW_CTL_UNSCHED_EN p) && s.portUp p q && !s.retraining p q

/-- A frame leaves on a way in a slot. On a bridge it is under way to the far end. -/
def sendUnsched (p slot way useq : Nat) (f : UFrame) : Act :=
  (send (.frame p slot way useq f)).seq (wireOn p slot way (frameGondola useq f))

/-- A ULINK frame leaves on a way in a slot. On a bridge the far end's row brings it. -/
def sendUlink (p slot way : Nat) (u : Ulink) : Act :=
  let q := wayPort way
  let far := farBridge p (q - 4)
  (send (.ack p slot way u)).seq (.ask fun s => Act.when (decide (4 ≤ q) && s.portUp far.1 (4 + far.2))
    (modSw far.1 (fun w => { w with ulinks := w.ulinks ++ [(4 + far.2, u)] })))

/-- One free egress way-slot carries what its port has waiting: a ULINK frame, a frame that is sent again, or, against a credit, the next
frame; else it is idle, and nothing leaves (R220, R229). -/
def freeWay (p slot q way : Nat) : Act :=
  .ask fun s =>
    let h := s.hop p q
    if !s.maySend p q then .done
    else match h.acks, h.unacked.filter (fun u => h.again.contains u.1), h.waiting with
    | u :: r, _, _ => (modHop p q (fun x => { x with acks := r })).seq (sendUlink p slot way u)
    | [], u :: _, _ => Act.all [
        modHop p q (fun x => { x with again := x.again.erase u.1 }), bump (pk .SW_UNSCHED_RETRY p), sendUnsched p slot way u.1 u.2]
    | [], [], f :: r => Act.when (h.credits != 0) (Act.all [
        modHop p q (fun x => { x with
          waiting := r, credits := x.credits - 1, txNext := (x.txNext + 1) % 256, unacked := x.unacked ++ [(x.txNext, f.2)] }),
        bump (pk .SW_UNSCHED_TX p), sendUnsched p slot way h.txNext f.2, giveCredit p f.1])
    | [], [], [] => .done

/-- The free egress way-slots of a slot, of every port, once. -/
def freeSlots (p slot : Nat) : Act :=
  .ask fun s => Act.when ((s.pile p).sw.freeAt != some slot) ((modSw p (fun w => { w with freeAt := some slot })).seq
    (Act.each (List.range' 1 7) (fun q => Act.each (s.freeWays p slot q) (freeWay p slot q))))

/-! ## Entries in a way-slot -/

/-- One copy of a gondola leaves on an egress way two slots after it entered (R217, R221, R230, R232); a port that is down sends
nothing (R257). -/
def egressOne (p slot t inWay : Nat) (g : Gondola) (e : SlotEntry) : Act :=
  .ask fun s =>
    if e.egress < 44 && s.on (pk .SW_STATUS_STAND_IN p) then
      (bump (pk .SW_DR_DROP p)).seq (Act.when (!s.on (pk .SW_DR_LOG_VALID p)) (Act.all [
        setR (pk .SW_DR_LOG_VALID p) 1, setR (pk .SW_DR_LOG_WAY p) inWay,
        setR (pk .SW_DR_LOG_PHASE p) (s.rd (pk .GATE_STATUS_PHASE p)), setR (pk .SW_DR_LOG_SLOT p) (t + 2)]))
    else Act.when (decide (e.egress < 44) || s.portUp p (wayPort e.egress)) (Act.all [
      bump (pk .SW_FWD p),
      Act.when (e.dig && s.swMode p == 2) (modSw p (fun w => { w with digTx := SMap.set w.digTx ((t + 2) * 256 + e.egress) (some g) })),
      (if e.egress < 44 then modSw p (fun w => { w with
         locOut := SMap.set w.locOut ((slot + 2) * 256 + e.egress) (some ⟨g, inWay, e.drop⟩) })
       else sendOn p (slot + 2) e.egress g)])

/-- A gondola as its ingress verifies it (R214, R225), and what that counts. -/
def checkIngress (p : Nat) (g : Gondola) (parityErr : Bool) (k : Gondola → Act) : Act :=
  let bad := g.checkMode && !g.empty && !lineCheckOk (gondolaLine g)
  Act.all [
    Act.when parityErr (bump (pk .SW_PARITY_ERR p)), Act.when bad (bump (pk .SW_CHECK_FAIL p)),
    k { g with poison := g.poison || parityErr || bad }]

/-- The gondola that an acting group takes (R214, R219, R225, R232), and what it counts: where a retired port delivers none, the
attempt discards with LINK_POISON (R263). -/
def ingressGondola (p t way : Nat) (g0 : Option Gondola) (parityErr dig : Bool) (k : Gondola → Act) : Act :=
  .ask fun s =>
    let pick : Gondola × Act := match g0 with
      | some g => (g, .done)
      | none =>
        if way = 255 then (emptyGondola (s.origCheck p) false false, .done)
        else if way < 44 && s.on (pk .SW_STATUS_STAND_IN p) then (emptyGondola (s.origCheck p) true false, bump (pk .SW_DR_STANDIN p))
        else (emptyGondola (s.origCheck p) false true,
          (bump (pk .SW_MISSING p)).seq (Act.when (s.portRetired p (wayPort way)) (causeAt p cLink)))
    let g := pick.1
    Act.all [
      pick.2,
      Act.when (dig && way != 255 && s.swMode p == 2)
        (modSw p (fun w => { w with digRx := SMap.set w.digRx (t * 256 + way) (some g) })),
      checkIngress p g parityErr k]

/-- The gondola of a way-slot: what the movers read for a LOC way, what a link delivered, or, on a way of an off-package port or of SVC,
the operand. A bridge brings only what its far end sent (R11). Only scheduled gondolas count here. -/
def State.wayGondola (s : State) (p slot way : Nat) (g : Option Gondola) : Option Gondola :=
  let x := (s.pile p).sw
  let got := if way < 44 then SMap.find? x.locIn (slot * 256 + way)
    else match SMap.find? x.linkIn (slot * 256 + way) with
      | some h => some h
      | none => if 51 ≤ way then none else g
  match got with
  | some h => if h.tc = 0 then some h else none
  | none => none

/-- A gate entry's way-slot: the gate logic takes what came as the ingress verifies it, so that a copy in error is not acted on (R190). -/
def gateIngress (p : Nat) (g : Option Gondola) (parityErr : Bool) (k : Option Gondola → Act) : Act := match g with
  | some h => checkIngress p h parityErr (fun x => k (some x))
  | none => k none

/-- An ingress way-slot is taken: by the gate entries that name it, which `gate` serves, or by the acting groups. A port that does not
deliver brings no gondola (R250, R257). On a way-slot of a gate entry nothing tells that RELEASE is lost, since its gate slots carry
gondolas whatever phase the far pile is in (R192, R226; DEDUCED, log 147). With way 255 the slot's free egress way-slots go out too. -/
def takeWay (p slot way : Nat) (g : Option Gondola) (parityErr : Bool) (gate : List SlotEntry → Option Gondola → Act) : Act :=
  .ask fun s =>
    if !s.ready (domSw p) || (wayPort way == 8 && way != 255) then .done
    else match s.phaseSlot p slot with
      | none => .done
      | some t =>
        let got := if way < 44 ∨ way = 255 ∨ s.portDelivers p (wayPort way) then s.wayGondola p slot way g else none
        let atGate := !(s.gateSlots p t way).isEmpty
        let late := match s.lastSlot p, got with
          | some l, some h => decide (l < t) && !h.gate && decide (44 ≤ way) && !atGate && s.awaitsRelease p
          | _, _ => false
        let gs := s.actingGroups p t way
        Act.all [
          modSw p (fun w => { w with locIn := SMap.set w.locIn (slot * 256 + way) none, linkIn := SMap.set w.linkIn (slot * 256 + way) none }),
          Act.when late (gateLost p),
          Act.when atGate (gateIngress p got parityErr (gate (s.gateSlots p t way))),
          Act.when (way == 255) (freeSlots p (slot + 2)),
          (if atGate && way != 255 then .done
           else match gs with
             | [] => Act.when (got.isSome && way != 255) (bump (pk .SW_ORPHAN p))
             | grp :: _ =>
               ingressGondola p t way got parityErr (grp.any (fun e => !e.mcast && e.valid && e.dig)) (fun h =>
                 Act.each (gs.flatMap (fun grp => grp.filter SlotEntry.valid)) (egressOne p slot t way h)))]

/-! ## The unscheduled class (R227-R229) -/

/-- A frame goes on by another port, and stays in the buffer of the port it came in by until it has left. -/
def State.goesOn (s : State) (p : Nat) (f : UFrame) : Bool := match s.route p f with
  | some q => q != 0 && s.portUp p q
  | none => false

/-- Frames that a port's buffer holds (R229). -/
def State.heldFrom (s : State) (p port : Nat) : Nat :=
  ((List.range 8).map (fun q => ((s.hop p q).waiting.filter (fun f => f.1 == port)).length)).sum

/-- A frame arrives: the next in order is taken while its port's buffer has room, and acknowledged; one already taken is acknowledged
again; a later one asks for a resend from the first missing number (R229). -/
def actUnschedFrame (p port useq : Nat) (f : UFrame) : Act :=
  .ask fun s =>
    if !s.ready (domSw p) || decide (7 < port) then .done
    else if port = 0 then routeFrame p 0 f 2
    else if !s.portDelivers p port then .done
    else if (s.hop p port).rxNext = useq % 256 then
      Act.when (decide (s.heldFrom p port < (freshHop port).credits)) (Act.all [
        modHop p port (fun h => { h with rxNext := (h.rxNext + 1) % 256 }),
        bump (pk .SW_UNSCHED_RX p),
        routeFrame p port f 2,
        pushUlink p port ⟨(useq + 1) % 256, if s.goesOn p f then 0 else 1, false⟩])
    else pushUlink p port ⟨(s.hop p port).rxNext, 0, decide ((useq + 256 - (s.hop p port).rxNext) % 256 < 128)⟩

/-- A frame that is under way on a bridge to a port of the pile. -/
def State.onWire (s : State) (p port useq : Nat) (f : UFrame) : Option Nat :=
  (List.find? (fun x => wayPort (x.1 % 256) == port && x.2 == frameGondola useq f) (s.pile p).sw.wires).map (fun x => x.1)

/-- A frame at a port: a bridge end has only what the far end sent (R11). -/
def frameRow (p port useq : Nat) (f : UFrame) : Act :=
  if port < 4 then actUnschedFrame p port useq f
  else .ask fun s => match s.onWire p port useq f with
    | some k => (modSw p (fun w => { w with wires := SMap.set w.wires k none })).seq (actUnschedFrame p port useq f)
    | none => .done

/-- UNSCHED_FRAME: a frame arrives on a port (R230's index), or with port 0 from an endpoint of the pile. -/
def execUnschedFrame (p : PileId) (port : Nat) (useq : Nat) (f : UFrame) (s : State) : Host.Outcome State Fault Refusal :=
  (frameRow p.val port useq f).answer s

/-- Frames that a ULINK frame acknowledges: those before its number. -/
def ackedHop (h : UHop) (next : Nat) : UHop :=
  if h.unacked.any (fun u => u.1 == next % 256) then { h with unacked := h.unacked.dropWhile (fun u => u.1 != next % 256) }
  else if h.txNext = next % 256 then { h with unacked := [] } else h

/-- What is not acknowledged is to be sent again, in free way-slots. -/
def resendHop (p q : Nat) : Act := modHop p q (fun h => { h with again := h.unacked.map Prod.fst })

def actUlink (p port : Nat) (u : Ulink) : Act :=
  .ask fun s =>
    if !s.ready (domSw p) || port = 0 || decide (7 < port) || !s.portDelivers p port ||
        (decide (4 ≤ port) && !(s.pile p).sw.ulinks.contains (port, u)) then .done
    else Act.all [
      Act.when (decide (4 ≤ port)) (modSw p (fun w => { w with ulinks := w.ulinks.erase (port, u) })),
      modHop p port (fun h => { ackedHop h u.next with credits := min (freshHop port).credits (h.credits + u.credits) }),
      Act.when u.again (resendHop p port)]

/-- ULINK: a credit or acknowledgement frame arrives on a port; at a bridge end, one that the far end sent (R11). -/
def execUlink (p : PileId) (port : Nat) (credits : Nat) (ackNext : Nat) (resend : Bool) (s : State) :
    Host.Outcome State Fault Refusal :=
  (actUlink p.val port ⟨ackNext, credits, resend⟩).answer s

def actUnschedRetry (p port : Nat) : Act :=
  .ask fun s => if !s.ready (domSw p) || port = 0 || decide (7 < port) || !s.portUp p port then .done else resendHop p port

/-- UNSCHED_RETRY: UR_TIMEOUT has passed without an acknowledgement. -/
def execUnschedRetry (p : PileId) (port : Nat) (s : State) : Host.Outcome State Fault Refusal :=
  (actUnschedRetry p.val port).answer s

end Sys2Proof.Machine
end

