-- ==== Sys2Proof/Machine/Sequencer.lean ====
section
/-! DEFINITION. The tile sequencer (chapter 06): how a bundle issues slot by slot (log 8), its faults and stalls, the control
slot's operations, gate waits and arrivals. -/

namespace Sys2Proof.Machine

/-! ## Issue (R136-R138, R165, R166) -/

/-- A tile's sequencer may issue: its pile is in a phase, the tile is awake, and neither gate, IDLE nor abort holds it. -/
def State.seqGo (s : State) (p t : Nat) : Bool :=
  s.inPhase p && s.ready (domTile p t) && s.on (tk .TSQ_STATUS_RUN p t) && !s.on (tk .TSQ_STATUS_IN_GATE p t) &&
  !s.on (tk .TSQ_STATUS_IN_IDLE p t) && (s.pile p).resetSrc == 0

def State.faultMode (s : State) (p t : Nat) : Bool := s.on (tk .TSQ_STATUS_FAULT_MODE p t)

/-- A WAIT is satisfied (R155). -/
def State.waitMet (s : State) (p t : Nat) (b : Bundle) : Bool :=
  let v := if b.m.testBit 0 then b.imm else bitsOf b.m 53 38
  if wKind b = 0 then decide (v ≤ s.rd (tk .SYNC p t (wIndex b)))
  else if wKind b = 1 then decide (v ≤ s.rd (tk .ARR_DONE p t (wIndex b)))
  else (s.tile p t).queue.isEmpty

/-- The cause that holds the bundle back, by its index of TSQ_STALL_CLK; 0 where none does (R138, R170). A descriptor counts among the queue's 16,
in DEPTH and in WAIT KIND 2 until it completes: the spec does not say whether the executing one does (DESIGN CHOICE, log 144). -/
def State.heldBy (s : State) (p t : Nat) (b : Bundle) : Nat :=
  if aop b = 1 ∧ ((s.tile p t).arr (aArr b)).pending.isSome then 1
  else if mop b = 1 ∧ 16 ≤ (s.tile p t).queue.length then 2
  else if mop b = 2 ∧ !s.waitMet p t b then 3
  else 0

def modIssued (p t : Nat) (f : Issued → Issued) : Act := modTile p t (fun x => { x with issued := f x.issued })

/-- The causes for which a bundle's slots may have stalled. -/
def stallCauses (b : Bundle) : List Nat :=
  (if aop b = 1 then [1] else []) ++ (if mop b = 1 then [2] else []) ++ (if mop b = 2 then [3] else []) ++
  (if (vslot b).vop = 0 then [] else [4])

/-! ## Loops and branches (R140, R142) -/

/-- Where issue goes after the bundle at `pc`, with the loops that stay active, a counter that rises, and whether the
back-edge is that of a long body. -/
structure LoopNext where
  loops : List LoopFrame
  pc    : Nat
  lc    : Option (Nat × Nat) := none
  long  : Bool := false
  deriving DecidableEq, Repr

/-- At the last bundle of a loop's body: the back-edge while runs remain, else the loop ends. -/
def loopNext (lcs : SMap Word) (pc : Nat) : List LoopFrame → LoopNext
  | [] => { loops := [], pc := pc + 1 }
  | l :: r =>
    let v := (SMap.getD lcs l.lc 0).toNat
    if l.last ≠ pc then { loops := l :: r, pc := pc + 1 }
    else if v + 1 < l.count then
      { loops := l :: r, pc := l.first, lc := some (l.lc, v + 1), long := decide (8 < l.last - l.first + 1) }
    else loopNext lcs pc r

/-- Sequential issue, by way of any back-edge. -/
def moveOn (p t : Nat) : Act :=
  .ask fun s =>
    let x := s.tile p t
    let n := loopNext x.lcs (s.rd (tk .TSQ_STATUS_PC p t)) x.loops
    Act.all [
      modTile p t (fun y => { y with
        loops := n.loops
        lcs := (match n.lc with
          | some q => SMap.put 0 y.lcs q.1 (BitVec.ofNat 32 q.2)
          | none => y.lcs) }),
      setR (tk .TSQ_STATUS_PC p t) n.pc, Act.when n.long (fetchGap p t)]

/-- A faulting control slot is treated as CNOP, and issue goes on as after a CNOP, by way of a back-edge where one is due (R166). -/
def passOver (p t : Nat) : Act :=
  (modIssued p t (fun _ => {})).seq (moveOn p t)

/-- The bundle at PC comes to issue: its faults are checked once, before any slot issues (R165); it stalls while a slot is
held back; then `k` has it. In fault mode the control slot alone is looked at. -/
def enterBundle (p t : Nat) (k : Bundle → Act) : Act :=
  .ask fun s =>
    let b := s.bundle p t
    let x := (s.tile p t).issued
    let fs := if x.checked then [] else s.bundleFaults p t b (s.faultMode p t)
    if !s.seqGo p t then .done
    else if !fs.isEmpty then
      withFree fun f =>
        let q := fs.getD (f % fs.length) (fIllegal, 0)
        (seqFault p t q.1 q.2 (s.rd (tk .TSQ_STATUS_PC p t))).seq (Act.when (!(s.cFaults p t b).isEmpty) (passOver p t))
    else if x.started then k b
    else if !s.faultMode p t && s.heldBy p t b != 0 then
      (modIssued p t (fun y => { y with checked := true })).seq (stallBundle p t (s.heldBy p t b))
    else Act.all [
      modIssued p t (fun y => { y with checked := true, started := true, fetch := false }), setR (tk .TSQ_STATUS_STALL p t) 0,
      (if s.faultMode p t then .done else Act.each (stallCauses b) (stallClocks p t)),
      k b]

/-- An array, vector or mover slot issues once; fault mode suppresses it (R166). -/
def slotRow (p t : Nat) (is : Bundle → Bool) (was : Issued → Bool) (mark : Issued → Issued) (k : Bundle → Act) : Act :=
  enterBundle p t fun b => .ask fun s =>
    if s.faultMode p t || !is b || was (s.tile p t).issued then .done
    else (modIssued p t mark).seq (k b)

def aSlot (p t : Nat) (is : Bundle → Bool) (k : Bundle → Act) : Act := slotRow p t is Issued.a (fun x => { x with a := true }) k
def vSlot (p t vop : Nat) (k : VSlot → Bundle → Act) : Act :=
  slotRow p t (fun b => (vslot b).vop == vop) Issued.v (fun x => { x with v := true }) (fun b => k (vslot b) b)
def mSlot (p t : Nat) (is : Bundle → Bool) (k : Bundle → Act) : Act := slotRow p t is Issued.m (fun x => { x with m := true }) k

/-- The other slots of the bundle have issued, or have nothing to issue. -/
def State.slotsDone (s : State) (p t : Nat) (b : Bundle) : Bool :=
  let x := (s.tile p t).issued
  s.faultMode p t || ((aop b == 0 || x.a) && ((vslot b).vop == 0 || x.v) && (mop b == 0 || x.m))

/-- The control slot issues, and the bundle with it (R170). -/
def cSlot (p t op : Nat) (k : Bundle → Act) : Act :=
  enterBundle p t fun b => .ask fun s =>
    if cop b ≠ op ∨ !s.slotsDone p t b then .done
    else Act.all [bump (tk .TSQ_ISSUE p t), modIssued p t (fun _ => {}), k b]

/-- Loops whose body a target lies in; one it leaves ends, and those within it. -/
def loopsAt (target : Nat) : List LoopFrame → List LoopFrame
  | [] => []
  | l :: r => if l.first ≤ target ∧ target ≤ l.last then l :: r else loopsAt target r

/-- A taken branch. -/
def branchTo (p t target : Nat) : Act := Act.all [
  modTile p t (fun x => { x with loops := loopsAt target x.loops }), setR (tk .TSQ_STATUS_PC p t) target, fetchGap p t]

/-! ## Control slot operations (R141-R143) -/

def actCnop (p t : Nat) : Act := cSlot p t 0 (fun _ => moveOn p t)
def execCnop (p : PileId) (t : TileId) (s : State) : Host.Outcome State Fault Refusal := (actCnop p.val t.val).answer s

/-- IDLE holds the next bundle until IDLE_END; with IMM32 of 0 it holds nothing. -/
def actIdle (p t : Nat) : Act :=
  cSlot p t 1 (fun b => (moveOn p t).seq (Act.when (!(b.c.testBit 26 && b.imm == 0)) (setR (tk .TSQ_STATUS_IN_IDLE p t) 1)))
def execIdle (p : PileId) (t : TileId) (s : State) : Host.Outcome State Fault Refusal := (actIdle p.val t.val).answer s

def actIdleEnd (p t : Nat) : Act := setR (tk .TSQ_STATUS_IN_IDLE p t) 0
def execIdleEnd (p : PileId) (t : TileId) (s : State) : Host.Outcome State Fault Refusal := (actIdleEnd p.val t.val).answer s

/-- SLI's value. -/
def sliValue (b : Bundle) : Word := if b.c.testBit 22 then BitVec.ofNat 32 b.imm else BitVec.ofInt 32 (signedOf 16 b.c)

def doSli (p t : Nat) (b : Bundle) : Act := (setSreg p t (bitsOf b.c 26 23) (sliValue b)).seq (moveOn p t)

def actSli (p t : Nat) : Act := cSlot p t 2 (doSli p t)
def execSli (p : PileId) (t : TileId) (s : State) : Host.Outcome State Fault Refusal := (actSli p.val t.val).answer s

/-- SALU's functions; a shift by 32 or more gives 0. -/
def saluOp (func : Nat) (a b : Word) : Word := match func with
  | 0 => a + b
  | 1 => a - b
  | 2 => a * b
  | 3 => a <<< b.toNat
  | 4 => a >>> b.toNat
  | 5 => a &&& b
  | 6 => a ||| b
  | _ => a ^^^ b

/-- SALU's second operand. -/
def State.saluB (s : State) (p t : Nat) (b : Bundle) : Word :=
  if b.c.testBit 11 then BitVec.ofInt 32 (signedOf 11 b.c) else s.sreg p t (bitsOf b.c 18 15)

def doSalu (p t : Nat) (b : Bundle) : Act :=
  .ask fun s =>
    (setSreg p t (bitsOf b.c 26 23) (saluOp (bitsOf b.c 14 12) (s.sreg p t (bitsOf b.c 22 19)) (s.saluB p t b))).seq (moveOn p t)

def actSalu (p t : Nat) : Act := cSlot p t 3 (doSalu p t)
def execSalu (p : PileId) (t : TileId) (s : State) : Host.Outcome State Fault Refusal := (actSalu p.val t.val).answer s

/-- A static source (R143). -/
def State.source (s : State) (p t src : Nat) : Word :=
  if src ≤ 3 then SMap.getD (s.tile p t).lcs src 0
  else BitVec.ofNat 32
    (if src < 0x20 then s.rd (pk .STEP_PARAM p (src - 0x10))
     else if src = 0x20 then (s.logOf p t).getD 0
     else if src = 0x21 then p
     else if src = 0x22 then s.deviceNo
     else if src = 0x23 then s.step
     else s.step / 2 ^ 32)

def doSmovp (p t : Nat) (b : Bundle) : Act :=
  .ask fun s => (setSreg p t (bitsOf b.c 26 23) (s.source p t (bitsOf b.c 7 0))).seq (moveOn p t)

def actSmovp (p t : Nat) : Act := cSlot p t 4 (doSmovp p t)
def execSmovp (p : PileId) (t : TileId) (s : State) : Host.Outcome State Fault Refusal := (actSmovp p.val t.val).answer s

/-- LOOP's count. -/
def State.loopCount (s : State) (p : Nat) (b : Bundle) : Nat :=
  if b.c.testBit 24 then s.rd (pk .STEP_PARAM p (bitsOf b.c 23 20)) else b.imm

/-- LOOP sets LCn to 0; a count of 0 goes straight to the bundle after END, at the cost of a taken branch. Where that END is an enclosing
loop's END too, that loop stays active and its back-edge is not taken: the spec does not say (DESIGN CHOICE, log 145). -/
def doLoop (p t : Nat) (b : Bundle) : Act :=
  .ask fun s =>
    let pc := s.rd (tk .TSQ_STATUS_PC p t)
    let last := bitsOf b.c 12 0
    if s.loopCount p b = 0 then Act.all [
      modTile p t (fun x => { x with lcs := SMap.put 0 x.lcs (bitsOf b.c 26 25) 0 }),
      setR (tk .TSQ_STATUS_PC p t) (last + 1), fetchGap p t]
    else (modTile p t (fun x => { x with
        lcs := SMap.put 0 x.lcs (bitsOf b.c 26 25) 0
        loops := ⟨bitsOf b.c 26 25, pc + 1, last, s.loopCount p b⟩ :: x.loops })).seq
      (moveOn p t)

def actLoop (p t : Nat) : Act := cSlot p t 5 (doLoop p t)
def execLoop (p : PileId) (t : TileId) (s : State) : Host.Outcome State Fault Refusal := (actLoop p.val t.val).answer s

/-- BR's condition. -/
def branchMet (cond : Nat) (a b : Word) : Bool := match cond with
  | 0 => a == b
  | 1 => a != b
  | 2 => decide (a.toInt < b.toInt)
  | 3 => decide (b.toInt ≤ a.toInt)
  | 4 => decide (a.toNat < b.toNat)
  | 5 => decide (b.toNat ≤ a.toNat)
  | _ => true

def doBr (p t : Nat) (b : Bundle) : Act :=
  .ask fun s =>
    if branchMet (bitsOf b.c 18 16) (s.sreg p t (bitsOf b.c 26 23)) (s.sreg p t (bitsOf b.c 22 19))
    then branchTo p t (bitsOf b.c 12 0) else moveOn p t

def actBr (p t : Nat) : Act := cSlot p t 6 (doBr p t)
def execBr (p : PileId) (t : TileId) (s : State) : Host.Outcome State Fault Refusal := (actBr p.val t.val).answer s

/-! ## Gate waits (R159, R162, R165) -/

/-- GATEW: the bundle issues, and the tile waits; after FINISH the next bundle is bundle 0 (R162). -/
def actGatew (p t : Nat) : Act :=
  cSlot p t 7 (fun b => Act.all [
    .ask (fun s => modTile p t (fun x => { x with gatePc := s.rd (tk .TSQ_STATUS_PC p t) })), moveOn p t, Act.when (b.c.testBit 0) (setR (tk .TSQ_STATUS_PC p t) 0), setR (tk .TSQ_STATUS_IN_GATE p t) 1])
def execGatew (p : PileId) (t : TileId) (s : State) : Host.Outcome State Fault Refusal := (actGatew p.val t.val).answer s

/-- An array has nothing executing, draining or pending. -/
def Arr.idle (a : Arr) : Bool := a.running.isEmpty && a.pending.isNone

/-- The conditions of R159: arrays idle, and every descriptor of the phase without AHEAD complete. An AHEAD descriptor that has
crossed a gate completes before this phase ends (R21, R161), so the gate waits for it (log 126). -/
def State.drained (s : State) (p t : Nat) : Bool :=
  let x := s.tile p t
  x.fa.idle && x.bda.idle && x.bwa.idle && x.queue.all (fun o => o.ahead && !o.crossed)

/-- A tile waits at a gate wait and has not arrived. -/
def State.inGateWait (s : State) (p t : Nat) : Bool :=
  s.inPhase p && s.on (tk .TSQ_STATUS_IN_GATE p t) && !(s.tile p t).arrived && (s.pile p).resetSrc == 0

def actTileArrival (p t : Nat) : Act :=
  .ask fun s =>
    if !s.inGateWait p t then .done
    else if !s.drained p t then stallBundle p t 5
    else Act.all [
      stallClocks p t 5, setR (tk .TSQ_STATUS_STALL p t) 0, modTile p t (fun x => { x with arrived := true }), tileFiller p t true]
def execTileArrival (p : PileId) (t : TileId) (s : State) : Host.Outcome State Fault Refusal := (actTileArrival p.val t.val).answer s

/-- WAIT_LIMIT: a WAIT or GATEW has been unsatisfied for more than the limit, where there is one. The gate wait goes on. -/
def actWaitLimit (p t : Nat) : Act :=
  .ask fun s =>
    let b := s.bundle p t
    if !s.on (tk .TSQ_WAIT_LIMIT p t) then .done
    else if s.inGateWait p t then Act.when (!s.drained p t) ((stallBundle p t 5).seq (seqFault p t fWait 0 (s.tile p t).gatePc))
    else if s.seqGo p t && !s.faultMode p t && !(s.tile p t).issued.started && mop b == 2 && (s.bundleFaults p t b false).isEmpty &&
        !s.waitMet p t b then
      Act.all [stallBundle p t 3, setR (tk .TSQ_STATUS_STALL p t) 0, seqFault p t fWait 3 (s.rd (tk .TSQ_STATUS_PC p t)), modIssued p t (fun _ => {})]
    else .done
def execWaitLimit (p : PileId) (t : TileId) (s : State) : Host.Outcome State Fault Refusal := (actWaitLimit p.val t.val).answer s

/-! ## Slots that do nothing -/

def execAnop (p : PileId) (t : TileId) (s : State) : Host.Outcome State Fault Refusal :=
  (aSlot p.val t.val (fun b => aop b == 0) (fun _ => .done)).answer s
def execVnop (p : PileId) (t : TileId) (s : State) : Host.Outcome State Fault Refusal :=
  (vSlot p.val t.val 0 (fun _ _ => .done)).answer s
def execMnop (p : PileId) (t : TileId) (s : State) : Host.Outcome State Fault Refusal :=
  (mSlot p.val t.val (fun b => mop b == 0) (fun _ => .done)).answer s

/-- WAIT: once the bundle issues, its wait is satisfied. -/
def execWait (p : PileId) (t : TileId) (s : State) : Host.Outcome State Fault Refusal :=
  (mSlot p.val t.val (fun b => mop b == 2) (fun _ => .done)).answer s

end Sys2Proof.Machine
end

