-- ==== Sys2Proof/Machine/ArrayUnit.lean ====
section
/-! DEFINITION. The arrays (chapter 04): what an operation reads, computes and writes (log 9), its start, the pending
operation, and its completion. -/

namespace Sys2Proof.Machine

/-! ## Feeds (R94, R99, R109, R393) -/

/-- A block as the feed takes it: decoded, its lines, and how many of them fail under block checking. -/
structure Fed where
  block : DBlock
  lines : List Line
  bad   : Nat
  deriving DecidableEq, Repr

/-- A local-store line as a feed or vector-load converter takes it: under block checking one that fails is poisoned and counted. The
tag of a line that is poisoned already is not examined (R43). -/
def State.feedLine (s : State) (p t line : Nat) : Line × Nat :=
  let l := s.sramLine (lsAddr p t line)
  if s.checking p && !l.poison && !lineCheckOk l then ({ l with poison := true }, 1) else (l, 0)

/-- The block at a line in a format, read plain or transposed (R29). -/
def State.fed (s : State) (p t line fmt : Nat) (trans : Bool) : Fed :=
  let ls := (List.range (fmtLines fmt)).map (fun k => s.feedLine p t (line + k))
  let b := decodeBlock fmt (ls.map Prod.fst)
  ⟨if trans then b.transpose else b, ls.map Prod.fst, (ls.map Prod.snd).sum⟩

/-- The 16 rows across a strip of blocks. -/
def stripRows {α : Type} (blocks : List (List α)) : List (List α) :=
  (List.range 16).map (fun r => blocks.flatMap (fun b => (b.drop (16 * r)).take 16))

/-- The poison bit of each of a strip's 16 rows. -/
def stripPoison (bs : List DBlock) : List Bool := (stripRows (bs.map DBlock.poison)).map (fun r => r.any id)

/-- An output tile's operands as fed: strips of A by block row, strips of B by block column (transposed, so that a column is
a row), the preload's strips, and the fine-scale lines. -/
structure TileFeed where
  a  : List (List Fed)
  b  : List (List Fed)
  c0 : List (List Fed)
  fs : List (Line × Nat)
  deriving DecidableEq, Repr

/-- Block rows and block columns of C that output tile (ti, tj) covers (R93). -/
def ArrOp.rowBlocks (o : ArrOp) (ti : Nat) : List Nat := (List.range 4).map (fun x => 4 * ti + x) |>.filter (fun i => decide (i < o.mb))
def ArrOp.colBlocks (o : ArrOp) (tj : Nat) : List Nat := (List.range 8).map (fun y => 8 * tj + y) |>.filter (fun j => decide (j < o.nb))

def State.tileFeed (s : State) (p t : Nat) (o : ArrOp) (ti tj : Nat) : TileFeed :=
  let ks := List.range o.kb
  { a := (o.rowBlocks ti).map (fun i => ks.map (fun k => s.fed p t (o.aLine i k) o.fmtA o.transA))
    b := (o.colBlocks tj).map (fun j => ks.map (fun k => s.fed p t (o.bLine k j) o.fmtB o.transB))
    c0 := if o.preload then (o.rowBlocks ti).map (fun i => (o.colBlocks tj).map (fun j => s.fed p t (o.c0Line i j) 2 false)) else []
    fs := if o.fscale = 1 then [s.feedLine p t (o.fsBase + ti)]
          else if o.fscale = 2 then [s.feedLine p t (o.fsBase + 2 * tj), s.feedLine p t (o.fsBase + 2 * tj + 1)] else [] }

def fedBlocks (strips : List (List Fed)) : List (List DBlock) := strips.map (fun r => r.map Fed.block)

/-- Rows of values across strips. -/
def valueRows (strips : List (List DBlock)) : List (List FNum) := strips.flatMap (fun r => stripRows (r.map DBlock.vals))

/-- The operands in the form that the array computes on. -/
def TileFeed.ops (f : TileFeed) : TileOps :=
  let a := fedBlocks f.a
  let b := (fedBlocks f.b).map (fun r => r.map DBlock.transpose)
  let c := fedBlocks f.c0
  { rows := valueRows a, cols := valueRows b, pRow := a.flatMap stripPoison, pCol := b.flatMap stripPoison
    c0 := if c.isEmpty then none else some
      ((valueRows c).map (fun r => r.map (fun v => BitVec.ofNat 32 (fp32Exact v).bits)),
       c.flatMap (fun r => stripRows (r.map DBlock.poison))) }

/-- Lines in the feed's order (R389): K block by K block, within each the blocks in increasing row or column. -/
def feedOrder (strips : List (List Fed)) (kb : Nat) : List Line :=
  (List.range kb).flatMap (fun k => strips.flatMap (fun r => (r.getD k ⟨⟨[], [], false⟩, [], 0⟩).lines))

/-- Lines that failed under block checking: operand lines once a sweep, the preload and the fine scale once. -/
def TileFeed.bad (f : TileFeed) (sweeps : Nat) : Nat :=
  let n (x : List (List Fed)) : Nat := (x.map (fun r => (r.map Fed.bad).sum)).sum
  (n f.a + n f.b) * sweeps + n f.c0 + (f.fs.map Prod.snd).sum

/-! ## The drain (R47, R95, R96, R109) -/

/-- The fine scale's BF16 value of an output row or column, by its index in the output tile. The line is read as raw whatever its
tag says (R96; DESIGN CHOICE, log 116). -/
def TileFeed.scale (f : TileFeed) (i : Nat) : FNum :=
  bf16.decode ((f.fs.getD (i / 64) (blankLine, 0)).1.half (i % 64))

/-- Element (r, n) as the drain passes it on: scaled where the operation names a fine scale. -/
def drainValue (o : ArrOp) (f : TileFeed) (acc : List (List Word)) (r n : Nat) : FNum :=
  let v := (acc.getD r []).getD n 0
  if o.fscale = 1 then fineScale (o.enc.fmt == 2) v (f.scale r)
  else if o.fscale = 2 then fineScale (o.enc.fmt == 2) v (f.scale n)
  else num32 v

/-- Element (r, n) is poisoned: by its operands, its preload, or the fine-scale line that holds its factor. -/
def drainPoison (o : ArrOp) (f : TileFeed) (t : TileOps) (r n : Nat) : Bool :=
  t.poisoned r n || (o.fscale == 1 && (f.fs.getD 0 (blankLine, 0)).1.poison) ||
  (o.fscale == 2 && (f.fs.getD (n / 64) (blankLine, 0)).1.poison)

/-- What an output tile delivers. -/
structure TileOut where
  writes : List (Nat × Line)
  counts : XoCounts
  fails  : List ChkFail
  bad    : Nat
  blocks : Nat
  deriving DecidableEq, Repr

/-- The block (x, y) of an output tile encoded, as lines with where they go. -/
def drainBlock (o : ArrOp) (key : DrawKey) (f : TileFeed) (t : TileOps) (acc : List (List Word)) (ti tj x y : Nat) :
    List (Nat × Line) × XoCounts :=
  let e := List.range 256
  let vals := e.map (fun k => drainValue o f acc (16 * x + k / 16) (16 * y + k % 16))
  let bad := e.any (fun k => drainPoison o f t (16 * x + k / 16) (16 * y + k % 16))
  let i := 4 * ti + x
  let j := 8 * tj + y
  let q := encodeBlock o.enc { key with bi := o.bi + i, bj := o.bj + j } vals bad
  (q.1.mapIdx (fun n l => (o.cLine i j + n, l)), q.2)

/-- An output tile computed, checked and encoded. -/
def tileOut (arr : Nat) (o : ArrOp) (key : DrawKey) (idx ti tj : Nat) (f : TileFeed) : TileOut :=
  let t := f.ops
  let fa := arr == 0
  let acc := tileAcc fa o.fmtA o.fmtB o.passes t
  let cb := (o.colBlocks tj).length
  let bs := (List.range ((o.rowBlocks ti).length * cb)).map (fun m =>
    drainBlock o key f t acc ti tj (m / cb) (m % cb))
  let sweeps := (sweepPairs (pieceCount fa o.fmtA) (pieceCount fa o.fmtB) o.passes).length
  { writes := bs.flatMap Prod.fst
    counts := (bs.map Prod.snd).foldl XoCounts.add {}
    fails := (tileFails fa o.fmtA o.fmtB o.passes t acc).map (fun q =>
      ⟨q.1, q.2, idx, operandDigest idx (feedOrder f.a o.kb), operandDigest idx (feedOrder f.b o.kb)⟩)
    bad := f.bad sweeps, blocks := bs.length }

/-- Output tiles in row-major order. -/
def State.tileOuts (s : State) (p t arr : Nat) (o : ArrOp) : List TileOut :=
  let key : DrawKey := ⟨s.job.seed, s.step, o.enc.tensorId, 0, 0⟩
  (List.range (o.tileRows * o.tileCols)).map (fun idx =>
    tileOut arr o key idx (idx / o.tileCols) (idx % o.tileCols) (s.tileFeed p t o (idx / o.tileCols) (idx % o.tileCols)))

/-- The result of an operation, which starts on accumulator bank `bank`. -/
def arrResult (arr : Nat) (o : ArrOp) (bank : Nat) (ts : List TileOut) : ArrResult :=
  let fa := arr == 0
  let ws := ts.flatMap TileOut.writes
  { writes := ws
    counts := (ts.map TileOut.counts).foldl XoCounts.add {}
    fails := ts.flatMap TileOut.fails
    outDig := outputDigest (ws.map Prod.snd) * 2 + oneIf (ws.any (fun w => w.2.poison))
    sweeps := (sweepPairs (pieceCount fa o.fmtA) (pieceCount fa o.fmtB) o.passes).length
    ksteps := 16 * o.kb, lastIdx := ts.length - 1, bank := (bank + ts.length - 1) % 2 }

/-! ## Starting (R116, R147) -/

/-- An operation starts on an array: what it delivers is fixed here (log 9), and ARR_STATUS shows it. Its first tile takes the bank
after the last tile's, across operations and attempts (DESIGN CHOICE, log 115). The output tile in progress and the last clock's
arbitration depend on time: `State.shown` gives them free values while the operation runs (log 5). -/
def startOp (p t a : Nat) (o : ArrOp) : Act :=
  .ask fun s =>
    let bank := ((s.tile p t).arr a).bank
    let ts := s.tileOuts p t a o
    let r := arrResult a o bank ts
    Act.all [
      bump (tk .CHK_BLOCK_FAIL p t) ((ts.map TileOut.bad).sum),
      setR (tk .ARR_STATUS_FMT_A p t a) o.fmtA, setR (tk .ARR_STATUS_FMT_B p t a) o.fmtB, setR (tk .ARR_STATUS_FMT_C p t a) o.fmtC,
      setR (tk .ARR_STATUS_SWEEPS p t a) r.sweeps,
      modArr p t a (fun x => { x with running := x.running ++ [(o, r)], bank := (bank + ts.length) % 2 })]

/-- AMM: an idle array starts the operation at once; an executing one holds it pending (R147). -/
def actAmm (p t : Nat) : Act :=
  aSlot p t (fun b => aop b == 1) fun b => .ask fun s =>
    let a := aArr b
    let x := (s.tile p t).arr a
    let o := s.arrOp p t b x.seq
    (modArr p t a (fun y => { y with seq := y.seq + 1 })).seq
      (if x.running.isEmpty then startOp p t a o else modArr p t a (fun y => { y with pending := some o }))
def execAmm (p : PileId) (t : TileId) (s : State) : Host.Outcome State Fault Refusal := (actAmm p.val t.val).answer s

/-- A tile's units work: its program has not been stopped and its domain is awake. -/
def State.unitsRun (s : State) (p t : Nat) : Bool :=
  s.on (tk .TSQ_STATUS_RUN p t) && s.ready (domTile p t) && (s.pile p).resetSrc == 0

/-- PENDING_START: the pending operation starts while the one before it drains. -/
def actPendingStart (p t a : Nat) : Act :=
  .ask fun s =>
    let x := (s.tile p t).arr a
    match x.pending with
    | none => .done
    | some o =>
      if !s.unitsRun p t || decide (3 ≤ x.running.length) then .done
      else (modArr p t a (fun y => { y with pending := none })).seq (startOp p t a o)
def execPendingStart (p : PileId) (t : TileId) (a : ArrId) (s : State) : Host.Outcome State Fault Refusal :=
  (actPendingStart p.val t.val a.val).answer s

/-! ## Completion (R81, R103, R109, R111, R118, R387-R391) -/

/-- Fields of ARR_CHK_LAST beside those of ARR_CHK_PREV. -/
def chkPairs : List (Fld × Fld) := [
  (.ARR_CHK_LAST_VALID, .ARR_CHK_PREV_VALID), (.ARR_CHK_LAST_IS_ROW, .ARR_CHK_PREV_IS_ROW), (.ARR_CHK_LAST_INDEX, .ARR_CHK_PREV_INDEX),
  (.ARR_CHK_LAST_TILE_IDX, .ARR_CHK_PREV_TILE_IDX), (.ARR_CHK_LAST_OP_SEQ, .ARR_CHK_PREV_OP_SEQ)]

/-- A failed comparison is counted and recorded, and raises ARRAY_CHECK while SENTINEL_EN is set. -/
def recordFail (p t a seq : Nat) (f : ChkFail) : Act :=
  .ask fun s => Act.all [
    bump (tk .ARR_CHK_MISMATCH p t a),
    Act.each chkPairs (fun q => setR (tk q.2 p t a) (s.rd (tk q.1 p t a))),
    setR (tk .ARR_CHK_LAST_VALID p t a) 1, setB (tk .ARR_CHK_LAST_IS_ROW p t a) f.isRow, setR (tk .ARR_CHK_LAST_INDEX p t a) f.index,
    setR (tk .ARR_CHK_LAST_TILE_IDX p t a) f.tile, setR (tk .ARR_CHK_LAST_OP_SEQ p t a) (seq % 65536),
    setR (tk .ARR_CHK_DIG_D_A p t a) f.digA, setR (tk .ARR_CHK_DIG_D_B p t a) f.digB,
    setR (tk .ARR_STATUS_CHK_FAIL p t a) 1,
    modFlt p (fun x => { x with hits := x.hits ++ [⟨s.rd (pk .GATE_STATUS_PHASE p), t, a, seq⟩] }),
    Act.when (s.on (dk .CHK_CTL_SENTINEL_EN)) (causeAt p cArrayCheck)]

/-- Keep an output digest of the phase. -/
def keepDigest (p t unit seq v : Nat) : Act :=
  modTile p t (fun x => { x with outDigs := SMap.set x.outDigs (unit * 65536 + seq) (some v) })

/-- ARRAY_DONE: the operation under way longest writes its last line. -/
def actArrayDone (p t a : Nat) : Act :=
  .ask fun s => match ((s.tile p t).arr a).running with
    | [] => .done
    | (o, r) :: rest => if !s.unitsRun p t then .done else Act.all [
        modArr p t a (fun x => { x with running := rest }),
        Act.each r.writes (fun w => putLine p .ls t w.1 w.2),
        clearXo p t a, countXo p t a r.counts, countHealth p o.enc.tracker o.enc.tensorId r.counts,
        bump (tk .ARR_POISON_OUT p t a) r.counts.poison,
        Act.each r.fails (recordFail p t a o.seq),
        keepDigest p t a o.seq r.outDig,
        bump (tk .ARR_DONE p t a),
        bump (tk .ARR_BUSY_CLK p t a) (r.sweeps * r.ksteps * (r.lastIdx + 1)),
        withFree (fun f => bump (tk .ARR_STALL_CLK p t a) f),
        setR (tk .ARR_STATUS_TILE_IDX p t a) r.lastIdx, setR (tk .ARR_STATUS_ACC_BANK p t a) r.bank]
def execArrayDone (p : PileId) (t : TileId) (a : ArrId) (s : State) : Host.Outcome State Fault Refusal :=
  (actArrayDone p.val t.val a.val).answer s

end Sys2Proof.Machine
end

