-- ==== Sys2Proof/Machine/Links.lean ====
section
/-! DEFINITION. Fabric links (chapter 09): link blocks and their FEC, bridge way-slots, loss of alignment, training, lane
swaps, wire repair and retirement. -/

namespace Sys2Proof.Machine

/-! ## Gondolas on a link -/

/-- Λ of a port as the receiver counts it: the measured latency and its padding (R250, R252). -/
def State.linkLatency (s : State) (p k : Nat) : Nat := s.rd (pk .LNK_STATUS_LAT_MEAS p k) + s.rd (pk .LNK_STATUS_LAT_PAD p k)

/-- A gondola that a link delivers: a scheduled one, a gate token among them, waits for its way-slot; an unscheduled frame is taken.
The layout of a ULINK frame is not stated, and its row carries what it says (log 128). -/
def deliverWay (p slot way : Nat) (g : Gondola) : Act :=
  if g.tc = 1 then (match frameOf g with
    | some f => actUnschedFrame p (wayPort way) g.useq f
    | none => Act.done)
  else Act.ask fun s => Act.when (g.tc == 0 && (s.phaseSlot p slot).isSome)
    (modSw p (fun w => { w with linkIn := SMap.set w.linkIn (slot * 256 + way) (some g) }))

/-- The port to the parent in the gate tree has left READY while the pile waits for RELEASE (R192). -/
def parentLost (p q : Nat) : Act :=
  .ask fun s => Act.when (s.awaitsRelease p && (s.pile p).gate.parent.map wayPort == some q) (gateLost p)

/-! ## Loss of lock (R189) -/

/-- The device loses lock to its upstream port: it goes on to its next gate, and stops there. -/
def loseLock : Act :=
  .ask fun s =>
    if !s.on (dk .TB_CTL_ENABLE) || s.on (dk .TB_CTL_ROOT) then .done
    else Act.all [
      setR (dk .TB_STATUS_HOLDOVER) 1, setR (dk .TB_STATUS_LOCKED) 0, bump (dk .TB_STATUS_LOSS_COUNT),
      Act.when s.jobStarted (Act.each s.usedPiles (fun p => causeNow p cTiming)),
      .ask fun t => raiseEvent 0x0003 0xFF ([t.rd (dk .TB_CTL_UP_PILE), t.rd (dk .TB_CTL_UP_PORT)] ++
        bytesLE 2 (t.rd (dk .TB_STATUS_LOSS_COUNT))),
      Act.when s.jobStarted (modJob (fun j => { j with stopNext := true }))]

/-- A port fails: the frames that wait for it are discarded (R257); where it is the upstream port of a device that has lock, the lock is
lost (R13), and the gate tree may be broken (R192). -/
def portFails (p k : Nat) : Act :=
  Act.all [
  dropFrames p (2 + k),
  Act.ask fun s => Act.when (s.on (dk .TB_STATUS_LOCKED) && s.carriesClock (domX p k)) loseLock, parentLost p (2 + k)]

/-! ## Lanes (R258-R263) -/

/-- The lanes of a direction in service for logical lanes 0-7: the lowest-numbered that are not bad. -/
def laneMap (bad : BitVec 9) : List Nat := ((List.range 9).filter (fun m => !bad.getLsbD m)).take 8

/-- Show the maps in LNK_STATUS (R247, R267): which logical lane physical lane 8 carries. -/
def showMaps (p k : Nat) : Act :=
  .ask fun s =>
    let x := s.port p k
    let carried (m : List Nat) : Option Nat := (List.range 8).find? (fun i => m.getD i 9 == 8)
    Act.all [
      setB (pk .LNK_STATUS_TX_SPARE_ON p k) (carried x.txMap).isSome, setR (pk .LNK_STATUS_TX_SPARE_FOR p k) ((carried x.txMap).getD 0),
      setB (pk .LNK_STATUS_RX_SPARE_ON p k) (carried x.rxMap).isSome, setR (pk .LNK_STATUS_RX_SPARE_FOR p k) ((carried x.rxMap).getD 0)]

/-- The fuse entry of a lane (R491): `dir` 0 transmit, 1 receive. -/
def laneEntry (p k dir lane : Nat) : BitVec 32 := BitVec.ofNat 32 (2 * 2 ^ 29 + p * 2 ^ 25 + k * 32 + dir * 16 + lane)

/-- A port enters RETIRED and says so; no swap goes on there. -/
def retireNow (p k lane : Nat) : Act := Act.all [
  setR (pk .LNK_STATUS_STATE p k) 10,
  modPort p k (fun x => { x with swapLane := none, swapAcked := false, farLane := none, swapWait := [] }),
  raiseEvent 0x0009 p [k, lane]]

/-- A port is retired, and the lane proposed for fusing (R263). -/
def retirePort (p k dir lane : Nat) : Act := Act.all [
  retireNow p k lane, propose 4 (laneEntry p k dir lane), waxDirty, portFails p k]

/-- A receive lane needs a spare (R259, R261, R263): ask the far end for a swap, or retire the port. Where another swap is under way
the lane waits for its end; a lane that carries nothing is a spare no longer. -/
def needSpare (p k lane : Nat) : Act :=
  .ask fun s =>
    let x := s.port p k
    if s.rd (pk .LNK_STATUS_STATE p k) == 10 || x.swapLane == some lane || x.swapWait.contains lane then .done
    else if !x.rxMap.contains lane then modPort p k (fun y => { y with rxBad := y.rxBad ||| (1 <<< lane) })
    else if x.swapLane.isSome then modPort p k (fun y => { y with swapWait := y.swapWait ++ [lane] })
    else match spareLane x.rxMap x.rxBad with
      | some _ => (modPort p k (fun y => { y with swapLane := some lane, swapAcked := false })).seq (send (.swapReq p k lane))
      | none => retirePort p k 1 lane

/-- A lane is suspect in the running attempt; suspect again in the replay of the step, it is permanent (R259). -/
def laneSuspect (p k m : Nat) : Act :=
  .ask fun s => if (s.port p k).susp.contains m then .done else Act.all [
    modPort p k (fun x => { x with susp := x.susp ++ [m] }),
    Act.when (s.job.replayOf && (s.port p k).suspPrev.contains m) (needSpare p k m)]

/-- A block implicates no lane: the port is suspect, and a second time in the replay its lanes are tested (R259). -/
def portSuspect (p k : Nat) : Act :=
  .ask fun s => modPort p k (fun x => { x with portSusp := true, patTest := x.patTest || (s.job.replayOf && x.portPrev) })

/-- A lane is over its limit of corrected bytes in the attempt (R259, R260). -/
def State.laneOver (s : State) (p k m : Nat) : Bool :=
  decide (2 ^ s.rd (pk .LNK_CTL_CE_LIMIT p k) < s.rd (pk .LNK_LANE_CE p k m))

/-- A byte corrected on a physical lane. -/
def laneCorrected (p k m : Nat) : Act :=
  (bump (pk .LNK_LANE_CE p k m)).seq (.ask fun s => Act.when (s.laneOver p k m) (laneSuspect p k m))

/-! ## Link blocks (R246-R250) -/

/-- Nibble j of a block. -/
def nibble (bs : List Nat) (j : Nat) : Nat := bs.getD (j / 2) 0 / (if j % 2 = 0 then 1 else 16) % 16

/-- The codeword of a parity: data bytes of its parity in order, then its 12 parity bytes (R248; log 33). -/
def codewordPlaces (c : Nat) : List Nat := (List.range 226).map (fun i => 2 * i + c) ++ (List.range 12).map (fun i => 452 + 12 * c + i)

/-- The block after decoding, or none where a codeword fails. -/
def decodeBlockFec (bs : List Nat) : Option (List Nat) :=
  match rsDecode 12 6 ((codewordPlaces 0).map (fun i => bs.getD i 0)), rsDecode 12 6 ((codewordPlaces 1).map (fun i => bs.getD i 0)) with
  | some (a, _), some (b, _) =>
    some ((List.range 476).map (fun i =>
      if i < 452 then (if i % 2 = 0 then a.getD (i / 2) 0 else b.getD (i / 2) 0)
      else if i < 464 then a.getD (226 + (i - 452)) 0 else b.getD (226 + (i - 464)) 0))
  | _, _ => none

/-- The header word: nibble i of H at nibble 8 + i. -/
def headerWord (bs : List Nat) : Nat := (List.range 8).foldl (fun a i => a + nibble bs (8 + i) * 16 ^ i) 0

/-- Logical lanes whose AMK nibble disagrees with a SEQ (R247). -/
def badMarks (bs : List Nat) (seq : Nat) : List Nat := (List.range 8).filter (fun i => nibble bs i != (i + seq) % 16)

/-- Whether a header agrees (R250). -/
def State.headerAgrees (s : State) (p k slot : Nat) (bs : List Nat) : Bool :=
  let h := headerWord bs
  let seq : Nat := h / 2 ^ 26 % 64
  decide (((slot : Int) - (s.linkLatency p k : Int)) % 64 = (seq : Int)) && (badMarks bs seq).isEmpty &&
  (h / 2 ^ 22 % 2 == s.rd (pk .LNK_STATUS_RX_SPARE_ON p k)) && (h / 2 ^ 19 % 8 == s.rd (pk .LNK_STATUS_RX_SPARE_FOR p k))

/-- The physical receive lane of a logical one. -/
def State.rxLane (s : State) (p k i : Nat) : Nat := (s.port p k).rxMap.getD i 8

/-- Corrected bytes counted on the lanes whose nibble changed (R249). -/
def countCorrected (p k : Nat) (raw fixed : List Nat) : Act :=
  .ask fun s => Act.each ((List.range 476).filter (fun b => raw.getD b 0 != fixed.getD b 0)) (fun b => Act.all [
    bump (pk .LNK_CE_BYTES p k),
    Act.when (nibble raw (2 * b) != nibble fixed (2 * b)) (laneCorrected p k (s.rxLane p k (2 * b % 8))),
    Act.when (nibble raw (2 * b + 1) != nibble fixed (2 * b + 1)) (laneCorrected p k (s.rxLane p k ((2 * b + 1) % 8)))])

/-- A block's data and parity bytes (R246, R248). -/
def blockBytes (data : List Nat) : List Nat :=
  let half (c : Nat) : List Nat := (List.range 226).map (fun i => data.getD (2 * i + c) 0)
  data ++ rsCheck 12 (half 0) ++ rsCheck 12 (half 1)

/-- The block that carries given gondolas in a slot under a transmit map (R246, R247): markers, header word, the three way offsets,
idle ones as zeros, and parity. -/
def linkBlock (slot : Nat) (map : List Nat) (gs : List (Option Gondola)) : List Nat :=
  let seq := slot % 64
  let amk (i : Nat) : Nat := (i + seq) % 16
  let carried := (List.range 8).find? (fun i => map.getD i 9 == 8)
  let occ := ((List.range 3).map (fun j => bit ((gs.getD j none).isSome) * 2 ^ j)).sum
  let h := seq * 2 ^ 26 + occ * 2 ^ 23 + bit carried.isSome * 2 ^ 22 + carried.getD 0 * 2 ^ 19
  blockBytes ((List.range 4).map (fun b => amk (2 * b) + 16 * amk (2 * b + 1)) ++ bytesLE 4 h ++
    (List.range 3).flatMap (fun j => match gs.getD j none with
      | some g => gondolaBytes g
      | none => List.replicate 148 0))

/-- The gondola or unscheduled frame that has left on a way in a slot, as State.out lists it. -/
def State.leftOn (s : State) (p slot way : Nat) : Option Gondola :=
  s.out.findSome? (fun o => match o with
    | .gondola p' slot' way' g => if p' = p ∧ slot' = slot ∧ way' = way then some g else none
    | .frame p' slot' way' n f => if p' = p ∧ slot' = slot ∧ way' = way then some (frameGondola n f) else none
    | _ => none)

/-- A ULINK frame has left on a way in a slot. -/
def State.ulinkOn (s : State) (p slot way : Nat) : Bool :=
  s.out.any (fun o => match o with
    | .ack p' slot' way' _ => decide (p' = p ∧ slot' = slot ∧ way' = way)
    | _ => false)

/-- The block that an off-package port sends in a slot (R246, R247): the gondolas and frames that leave then; a ULINK frame, whose layout is
not stated, as `fill` has it (log 128); any other way-slot idle; none from a port that is down, which sends electrical idle (R257). -/
def State.sentBlock (s : State) (p k slot : Nat) (fill : Nat → Option Gondola) : Option (List Nat) :=
  if s.portUp p (2 + k) then
    some (linkBlock slot (s.port p k).txMap ((List.range 3).map (fun j =>
      let w := 45 + 3 * k + j
      if s.ulinkOn p slot w then fill j else s.leftOn p slot w)))
  else none

/-- In near-end loop-back a port receives the blocks that it sends itself (R266). -/
def State.loopsBack (s : State) (p k slot : Nat) (raw : List Nat) : Bool :=
  let fill (j : Nat) : Option Gondola :=
    let g := (gondolaFrom ((raw.drop (8 + 148 * j)).take 148)).1
    if (headerWord raw / 2 ^ (23 + j)) % 2 == 1 && g.tc != 0 then some g else none
  s.sentBlock p k (slot - s.linkLatency p k) fill == some raw

/-- The way-slots of a port that the page in force uses in a slot: acting entries take a gondola there. -/
def State.usedOffsets (s : State) (p k slot : Nat) : List Nat := match s.phaseSlot p slot with
  | some t => (List.range 3).filter (fun j => !(s.actingGroups p t (45 + 3 * k + j)).isEmpty)
  | none => []

/-- A block that does not decode or whose header disagrees (R249); only one that does not decode implicates lanes or the port
(R259, R269). -/
def poisonedBlock (p k slot : Nat) (bs : List Nat) (decodes : Bool) : Act :=
  .ask fun s =>
    let marks := badMarks bs (((slot : Int) - (s.linkLatency p k : Int)) % 64).toNat
    Act.all [
      bump (pk .LNK_UE_BLOCKS p k), causeAt p cLink,
      Act.when (!decodes) (Act.all [
        Act.each marks (fun i => (bump (pk .LNK_LANE_UE p k (s.rxLane p k i))).seq (laneSuspect p k (s.rxLane p k i))),
        Act.when marks.isEmpty (portSuspect p k)]),
      Act.each (s.usedOffsets p k slot) (fun j => deliverWay p slot (45 + 3 * k + j) (emptyGondola false false true))]

/-- A block that decodes and agrees: its gondolas as decoded, one that fails FCRC with POISON. -/
def goodBlock (p k slot : Nat) (bs : List Nat) : Act :=
  Act.each ((List.range 3).filter (fun j => (headerWord bs / 2 ^ (23 + j)) % 2 == 1)) (fun j =>
    let g := gondolaFrom ((bs.drop (8 + 148 * j)).take 148)
    (Act.when (!g.2) ((bump (pk .LNK_FCRC_ERR p k)).seq (causeAt p cLink))).seq
      (deliverWay p slot (45 + 3 * k + j) { g.1 with poison := g.1.poison || !g.2 }))

/-- A swap is agreed on a port and may run. -/
def Port.swapDue (x : Port) : Bool := (x.swapLane.isSome && x.swapAcked && !x.skip) || x.farLane.isSome

/-- An agreed swap starts: both ends enter LANE_RETRAIN. -/
def enterSwap (p k : Nat) : Act :=
  .ask fun s => Act.when ((s.port p k).swapDue && s.rd (pk .LNK_STATUS_STATE p k) == 7) (setR (pk .LNK_STATUS_STATE p k) 9)

/-- An agreed swap starts at once where no job holds it back or the pile does its step-boundary work (R261, R265). -/
def startSwap (p k : Nat) : Act := .ask fun s => Act.when (s.atBoundary p) (enterSwap p k)

/-- A port loses alignment (R250, R252). -/
def toRealign (p k : Nat) : Act := Act.all [
  setR (pk .LNK_STATUS_STATE p k) 8, bump (pk .LNK_REALIGN p k),
  modPort p k (fun x => { x with disagree := 0 }), parentLost p (2 + k)]

/-- The elastic buffer's fill, in clk from its calibrated point, lies outside the window while a job is loaded (R252). -/
def State.offWindow (s : State) (fill : Int) : Bool := s.jobLoaded && decide (fill < -6 ∨ 6 < fill)

/-- A block that a port receives, with the fill of its elastic buffer; a port that the block retires stays retired (R263). -/
def actLinkBlock (p k slot : Nat) (block : BitVec 3808) (fill : Int) : Act :=
  .ask fun s =>
    let raw := bytesLE 476 block.toNat
    let st := s.rd (pk .LNK_STATUS_STATE p k)
    if !s.ready (domX p k) || (st != 7 && st != 8) || (s.on (pk .LNK_CTL_NEAR_LOOP p k) && !s.loopsBack p k slot raw) then .done
    else if st = 7 ∧ s.offWindow fill then toRealign p k
    else
      let dec := decodeBlockFec raw
      let agrees := s.headerAgrees p k slot (dec.getD raw)
      (bump (pk .LNK_BLOCKS p k)).seq <|
        if st = 8 then
          Act.when (dec.isSome && agrees) (Act.all [
            setR (pk .LNK_STATUS_STATE p k) 7, modPort p k (fun x => { x with disagree := 0 }), startSwap p k])
        else
          let n := if agrees then 0 else (s.port p k).disagree + 1
          Act.all [
            modPort p k (fun x => { x with disagree := n }),
            (match dec with
             | some bs =>
               if agrees then (countCorrected p k raw bs).seq (goodBlock p k slot bs) else poisonedBlock p k slot bs true
             | none => poisonedBlock p k slot raw false),
            .ask fun u => Act.when (decide (4 ≤ n) && u.rd (pk .LNK_STATUS_STATE p k) == 7) (toRealign p k)]

/-- LINK_BLOCK: the 476 bytes that a port received for a slot, byte b at bits 8b+7..8b, and its elastic buffer's fill. -/
def execLinkBlock (p : PileId) (k : XPort) (at' : BlockAt) (block : BitVec 3808) (s : State) :
    Host.Outcome State Fault Refusal :=
  (actLinkBlock p.val k.val at'.slot block at'.fill).answer s

/-! ## Bridges (R253) -/

/-- A way group fails in the running attempt; failing again in the replay of the step, its wires are suspect (R264). -/
def wayFails (p d g : Nat) : Act :=
  .ask fun s => modBridge p d (fun b => { b with
    failNow := if b.failNow.contains g then b.failNow else b.failNow ++ [g]
    suspect := if s.job.replayOf && b.failPrev.contains g && !b.suspect.contains g then b.suspect ++ [g] else b.suspect })

/-- What a bridge way-slot carries (R253): the 296 data wires' bits and the check wires' CRC-32; an idle way-slot carries zero data
with a valid CRC, and its marker says that it is idle. -/
structure WaySlot where
  idle : Bool
  data : List Nat
  crc  : Nat
  deriving DecidableEq, Repr

/-- The way-slot in which a gondola leaves, or an idle one. -/
def waySlot (g : Option Gondola) : WaySlot :=
  let bs := match g with
    | some g => gondolaBytes g
    | none => List.replicate 148 0
  ⟨g.isNone, bs, crc32 bs⟩

/-- What arrives of a way-slot whose wires flip some bits. -/
def WaySlot.flipped (w : WaySlot) (data : BitVec 1184) (crc : BitVec 32) : WaySlot :=
  { w with data := bytesLE 148 (ofLE w.data ^^^ data.toNat), crc := w.crc ^^^ crc.toNat }

/-- A way-slot of a bridge arrives three slots after the far end sent it (R212, R254): what was sent, with the bits that the wires
flip. An idle way-slot delivers nothing. -/
def actBridgeWaySlot (p d slot way : Nat) (data : BitVec 1184) (crc : BitVec 32) : Act :=
  .ask fun s =>
    let w := (waySlot (SMap.find? (s.pile p).sw.wires (slot * 256 + way))).flipped data crc
    let g := gondolaFrom w.data
    let ok := crc32 w.data == w.crc && g.2
    if !s.portDelivers p (4 + d) || wayPort way != 4 + d || w.idle then .done
    else
      let off := way - portFirst (4 + d)
      Act.all [
        modSw p (fun x => { x with wires := SMap.set x.wires (slot * 256 + way) none }),
        Act.when (!ok) (Act.all [
          bump (pk .BRG_CRC_ERR p d), bump (pk .BRG_CRC_TOTAL p d), causeAt p cLink,
          wayFails p d off]),
        deliverWay p slot way { g.1 with poison := g.1.poison || !ok }]

/-- BRIDGE_WAY_SLOT: a way-slot of a bridge arrives, `data` and `crc` being the bits that its wires flip. -/
def execBridgeWaySlot (p : PileId) (d : BrgEnd) (slot way : Nat) (data : BitVec 1184) (crc : BitVec 32) (s : State) :
    Host.Outcome State Fault Refusal :=
  (actBridgeWaySlot p.val d.val slot way data crc).answer s

/-! ## Loss of alignment (R250) -/

/-- A port has not re-locked: it goes down. While a job is loaded R263 applies, and the port is retired; no lane is to blame, and
the event names none (log 129). -/
def actRealignTimeout (p k : Nat) : Act :=
  .ask fun s =>
    if s.rd (pk .LNK_STATUS_STATE p k) != 8 then .done
    else Act.all [
      setR (pk .LNK_STATUS_STATE p k) 0, raiseEvent 0x0008 p [k],
      Act.when s.jobLoaded ((retireNow p k 0xFF).seq waxDirty), portFails p k]

def execRealignTimeout (p : PileId) (k : XPort) (s : State) : Host.Outcome State Fault Refusal :=
  (actRealignTimeout p.val k.val).answer s

/-! ## Lane swaps (R261-R263, R265) -/

def actSwapRequest (p k lane : Nat) : Act :=
  .ask fun s => if !s.portUp p (2 + k) then .done else Act.all [
    modPort p k (fun x => { x with farLane := some lane }), send (.swapAck p k), startSwap p k]

/-- SWAP_REQUEST: the far end asks for the transmit lane of that number to be spared. -/
def execSwapRequest (p : PileId) (k : XPort) (lane : Nat) (s : State) : Host.Outcome State Fault Refusal :=
  (actSwapRequest p.val k.val lane).answer s

def actSwapAck (p k : Nat) : Act :=
  .ask fun s => if (s.port p k).swapLane.isNone then .done
    else (modPort p k (fun x => { x with swapAcked := true })).seq (startSwap p k)

def execSwapAck (p : PileId) (k : XPort) (s : State) : Host.Outcome State Fault Refusal := (actSwapAck p.val k.val).answer s

def actSwapAckTimeout (p k : Nat) : Act :=
  .ask fun s => Act.when (s.atBoundary p && (s.port p k).swapLane.isSome && !(s.port p k).swapAcked)
    (modPort p k (fun x => { x with skip := true }))

def execSwapAckTimeout (p : PileId) (k : XPort) (s : State) : Host.Outcome State Fault Refusal :=
  (actSwapAckTimeout p.val k.val).answer s

/-- The spare takes over the logical lane of a physical one. -/
def swapMap (map : List Nat) (bad : BitVec 9) (lane : Nat) : List Nat := match spareLane map bad with
  | some sp => map.map (fun m => if m = lane then sp else m)
  | none => map

/-- One direction's swap ends: the map changes, or the port is retired (R262, R263). -/
def swapRx (p k : Nat) (ok : Bool) (lane : Nat) : Act :=
  .ask fun s => if !ok || (spareLane (s.port p k).rxMap (s.port p k).rxBad).isNone then retirePort p k 1 lane else Act.all [
    modPort p k (fun x => { x with
      rxMap := swapMap x.rxMap x.rxBad lane, rxBad := x.rxBad ||| (1 <<< lane), swapLane := none, swapAcked := false }),
    bump (pk .LNK_SWAPS p k)]

def swapTx (p k : Nat) (ok : Bool) (lane : Nat) : Act :=
  .ask fun s => if !ok || (spareLane (s.port p k).txMap (s.port p k).txBad).isNone then retirePort p k 0 lane else Act.all [
    modPort p k (fun x => { x with
      txMap := swapMap x.txMap x.txBad lane, txBad := x.txBad ||| (1 <<< lane), farLane := none }),
    bump (pk .LNK_SWAPS p k)]

/-- The next lane that waits for a swap, once none is under way. -/
def nextSwap (p k : Nat) : Act :=
  .ask fun s => match (s.port p k).swapLane, (s.port p k).swapWait with
    | none, m :: r => (modPort p k (fun x => { x with swapWait := r })).seq (needSpare p k m)
    | _, _ => .done

def actLaneRetrain (p k : Nat) (ok : Bool) : Act :=
  .ask fun s =>
    let x := s.port p k
    if !x.swapDue || s.rd (pk .LNK_STATUS_STATE p k) != 9 then .done
    else Act.all [
      (match x.swapLane, x.swapAcked && !x.skip with
       | some m, true => swapRx p k ok m
       | _, _ => .done),
      (match x.farLane with
       | some m => swapTx p k ok m
       | none => .done),
      .ask fun t => Act.when (t.rd (pk .LNK_STATUS_STATE p k) != 10) (setR (pk .LNK_STATUS_STATE p k) 7),
      showMaps p k, waxDirty, nextSwap p k]

/-! ## Wires (R264) -/

/-- BRG_STATUS shows the fewest spare wires left in a group, and the lowest such group (R268). -/
def showSpares (p d : Nat) : Act :=
  .ask fun s =>
    let left (g : Nat) : Nat := 4 - SMap.getD (s.bridge p d).used g 0
    let least := (List.range 28).foldl (fun a g => min a (left g)) 4
    (setR (pk .BRG_STATUS_MIN_SPARES p d) least).seq
      (setR (pk .BRG_STATUS_WORST_GROUP p d) (((List.range 28).find? (fun g => left g == least)).getD 0))

/-- A bridge with a suspect group goes into repair, LANE_RETRAIN at both ends, with no job loaded or as step-boundary work (R255,
R264, R265). -/
def startRepair (p d : Nat) : Act :=
  .ask fun s => Act.when (s.atBoundary p && !(s.bridge p d).suspect.isEmpty && s.rd (pk .BRG_STATUS_STATE p d) == 7)
    (bridgeState p d 9)

/-- A bridge is retired, at both its ends (R264). -/
def retireBridge (p d group : Nat) : Act := Act.all [
  bridgeDown p d 10, raiseEvent 0x0009 p [4 + d, group], waxDirty, parentLost p (4 + d),
  parentLost (farBridge p d).1 (4 + (farBridge p d).2)]

/-- A bridge with no suspect group left at either end is READY again. -/
def endRepair (p d : Nat) : Act :=
  .ask fun s => Act.when (s.rd (pk .BRG_STATUS_STATE p d) == 9 && (s.bridge p d).suspect.isEmpty &&
    (s.bridge (farBridge p d).1 (farBridge p d).2).suspect.isEmpty) (bridgeState p d 7)

def actWireRepair (p d group failing : Nat) : Act :=
  .ask fun s =>
    let n := SMap.getD (s.bridge p d).used group 0 + failing
    if !(s.bridge p d).suspect.contains group || s.rd (pk .BRG_STATUS_STATE p d) != 9 then .done
    else Act.all [
      modBridge p d (fun b => { b with suspect := b.suspect.filter (fun g => g != group) }),
      if failing = 0 then bump (pk .FLT_TRANSIENT p)
      else if 4 < n then retireBridge p d group
      else Act.all [
        modBridge p d (fun b => { b with used := SMap.put 0 b.used group n }),
        bump (pk .BRG_REPAIRS p d) failing, showSpares p d, waxDirty],
      endRepair p d]

/-- WIRE_REPAIR: the wires of a suspect group are tested; `failing` of them need a spare. -/
def execWireRepair (p : PileId) (d : BrgEnd) (group : Nat) (failing : Nat) (s : State) : Host.Outcome State Fault Refusal :=
  (actWireRepair p.val d.val group failing).answer s

/-! ## Training (R255) -/

/-- The entries of a kind and pile among fuse entries, as their UNIT (R491). -/
def unitsOf (es : List (BitVec 32)) (kind p : Nat) : List Nat :=
  (es.filter (fun e => e.toNat / 2 ^ 29 == kind && e.toNat / 2 ^ 25 % 16 == p)).map (fun e => e.toNat % 2 ^ 25)

/-- The entries in effect: those that this boot found burned in the factory or the field (R473, R495). -/
def State.fused (s : State) : List (BitVec 32) := s.fuses.factory ++ s.fuses.field.take s.boot.fieldSeen

/-- The lanes of a port's direction (0 transmit, 1 receive) among fuse entries. -/
def lanesOf (es : List (BitVec 32)) (p k dir : Nat) : BitVec 9 :=
  (unitsOf es 2 p).foldl (fun b u => if u / 16 = 2 * k + dir ∧ u % 16 < 9 then b ||| (1 <<< (u % 16)) else b) 0

/-- A port with a direction of fewer than eight lanes is retired (R493). -/
def tooFewLanes (p k : Nat) : Act :=
  .ask fun s =>
    let x := s.port p k
    let bad := if (laneMap x.txBad).length < 8 then x.txBad else x.rxBad
    (retireNow p k (((List.range 9).find? (fun m => bad.getLsbD m)).getD 0)).seq (portFails p k)

/-- A failed port is reported once, among the discrepancies of bring-up, which trains again the ports that the boot ROM's training leaves
failed (R255, R478, R496): not before BRINGUP, and not again until the port has been READY or another BRINGUP begins. -/
def reportPort (p k : Nat) : Act :=
  .ask fun s => Act.when (s.rd (dk .BR_STATUS_STAGE) != 1 && !(s.port p k).reported) (Act.all [
    modPort p k (fun x => { x with reported := true }), modBoot (fun b => { b with discreps := b.discreps + 1 }),
    .ask fun t => setR (dk .BR_STATUS_DISCREP) (min 255 t.boot.discreps),
    raiseEvent 0x0012 p ([2, p] ++ bytesLE 4 (k * 32 + 16 + 15) ++ [1])])

/-- A port that fails VERIFY a fourth time stays DOWN and is reported. -/
def portFailed (p k : Nat) : Act := Act.all [setR (pk .LNK_STATUS_STATE p k) 0, reportPort p k, portFails p k]

/-- ALIGNED once the counter is loaded and every used port's latency is measured (R188). -/
def showAligned : Act :=
  .ask fun s => Act.when (s.on (dk .TB_CTL_ENABLE) && s.tbLoaded) (setB (dk .TB_STATUS_ALIGNED) s.portsMeasured)

/-- The one-way latency in slots that the largest of the 64 round trips gives, in clk: half of it less the far end's 8 slots, rounded
up (R252). -/
def estimatedLatency (trip : Nat) : Nat := (trip - 16 + 3) / 4

/-- An off-package port's training. -/
def trainPort (p k : Nat) (o : TrainOutcome) : Act :=
  .ask fun s =>
    let st := s.rd (pk .LNK_STATUS_STATE p k)
    let to' (from' next : Nat) : Act := Act.when (st == from') (setR (pk .LNK_STATUS_STATE p k) next)
    if !s.ready (domX p k) then .done
    else match o with
      | .detect => Act.when (s.on (pk .LNK_CTL_ENABLE p k) && decide ((s.port p k).verFails < 4)) (to' 0 1)
      | .equalise => to' 1 2
      | .adapt => to' 2 3
      | .align => to' 3 4
      | .verify => to' 4 5
      | .calibrate => to' 5 6
      | .ready lat inv trip => Act.when (st == 6) ((modPort p k (fun x =>
          let tx := x.txBad ||| lanesOf s.fused p k 0
          let rx := x.rxBad ||| lanesOf s.fused p k 1
          { x with txBad := tx, rxBad := rx, txMap := laneMap tx, rxMap := laneMap rx, verFails := 0, reported := false, disagree := 0
                   estLat := estimatedLatency trip })).seq
          (.ask fun t =>
            if (laneMap (t.port p k).txBad).length < 8 ∨ (laneMap (t.port p k).rxBad).length < 8 then tooFewLanes p k
            else Act.all [
              setR (pk .LNK_STATUS_LAT_MEAS p k) lat, setB (pk .LNK_STATUS_POL_INV p k) inv, showMaps p k,
              setR (pk .LNK_STATUS_STATE p k) 7, waxDirty, showAligned, startSwap p k]))
      | .verifyFailed => Act.when (st == 5) ((modPort p k (fun x => { x with verFails := x.verFails + 1 })).seq
          (if (s.port p k).verFails < 3 then setR (pk .LNK_STATUS_STATE p k) 2 else portFailed p k))

/-- A bridge's failures of VERIFY, counted for both its ends. -/
def bridgeTries (p d n : Nat) : Act := Act.each [(p, d), farBridge p d] (fun e => modBridge e.1 e.2 (fun b => { b with verFails := n }))

/-- A bridge's training, at both its ends: the wire test and deskew, the verification, and READY. Like a port it tries VERIFY again three times,
from its own first state, and stays DOWN on the fourth failure (R255; DEDUCED, log 96). -/
def trainBridge (p d : Nat) (o : TrainOutcome) : Act :=
  .ask fun s =>
    let far := farBridge p d
    let st := s.rd (pk .BRG_STATUS_STATE p d)
    let to' (from' next : Nat) : Act := Act.when (st == from') (bridgeState p d next)
    if !bridgePresent p d || !s.ready (domB p d) || !s.ready (domB far.1 far.2) then .done
    else match o with
      | .align => Act.when (decide ((s.bridge p d).verFails < 4)) (to' 0 4)
      | .verify => to' 4 5
      | .ready _ _ _ => Act.when (st == 5) (Act.all [bridgeTries p d 0, bridgeState p d 7, showSpares p d, showSpares far.1 far.2])
      | .verifyFailed => Act.when (st == 5) ((bridgeTries p d ((s.bridge p d).verFails + 1)).seq
          (if (s.bridge p d).verFails < 3 then bridgeState p d 4
           else Act.all [bridgeDown p d 0, parentLost p (4 + d), parentLost far.1 (4 + far.2)]))
      | _ => .done

/-- PORT_TRAINING: a port (0 X0, 1 X1, 4 to 7 the bridges N, E, S, W) goes on in its training. -/
def execPortTraining (p : PileId) (port : Nat) (o : TrainOutcome) (s : State) : Host.Outcome State Fault Refusal :=
  (if port < 2 then trainPort p.val port o
   else if 4 ≤ port ∧ port < 8 then trainBridge p.val (port - 4) o else Act.done).answer s

end Sys2Proof.Machine
end

