-- ==== Sys2Proof/Machine/Query.lean ====
section
/-! DEFINITION. Commands that report and that set the device's place (R457, R464-R466): DEVICE_INFO, IDENTITY, ATTEST,
NET_CONFIG, DOMAIN_SET, SPARE_LIST, JOB_STATUS, LIST_OBJECTS, RECORDS, PILE_HEALTH, and an unknown code. -/

namespace Sys2Proof.Machine

/-! ## DEVICE_INFO, IDENTITY -/

/-- Units of a kind among the fused-bad ones (R491). -/
def State.fusedOf (s : State) (kind : Nat) : Nat :=
  ((s.fuses.factory ++ s.fuses.field).filter (fun w => w.toNat / 2 ^ 29 == kind)).length

/-- DEVICE_INFO's 64 bytes (log 28). -/
def State.deviceInfo (s : State) : List Nat :=
  ascii "VXP-1640" ++ ascii "A1" ++ serialBytes ++ bytesBE 6 Config.macAddress.toNat ++
  (ofBytes s.sec.version ++ List.replicate 16 0).take 16 ++ bytesLE 2 (s.rd (dk .SEC_STATUS_SV_BUNDLE)) ++
  bytesLE 14 (Config.fusedCounts (s.fusedOf 1) (s.fusedOf 2) (s.fusedOf 3)).toNat

def actDeviceInfo (m : LiftMsg) : Act := request m (.deviceInfo m) (some 0) fun r => .ask fun s => reply r stOk 0 s.deviceInfo

/-- IDENTITY (R530). -/
def actIdentity (m : LiftMsg) : Act := request m (.identity m) (some 0) fun r => reply r stOk 0 (identityPub ++ endorsementBytes)

/-! ## ATTEST (R537, R538) -/

/-- The fuse banks but FUSE_SECRET (R491, R528): the security fields, the factory bank and the field bank of 2,048 entries. -/
def State.fuseBanks (s : State) : List Nat :=
  bytesLE 64 Config.vendorKeyHash.toNat ++ endorsementBytes ++ bytesLE 8 s.fuses.sv.toNat ++ bytesLE 64 s.fuses.ownerKey.toNat ++
  bytesLE 4 s.fuses.ownerOk.toNat ++ bytesLE 64 s.fuses.ownerHost.toNat ++ bytesLE 4 s.fuses.hostOk.toNat ++
  (s.fuses.factory ++ s.fuses.field ++ List.replicate (2048 - s.fuses.field.length) 0).flatMap (fun (e : BitVec 32) => bytesLE 4 e.toNat)

/-- FUSE_DIGEST: SHA-512 over the banks, in the order that the device takes their bytes (R537; log 29). -/
def State.fuseDigest (s : State) : List Nat := sha512 (ofBytes (Config.fuseOrder (toBytes s.fuseBanks)))

/-- Bytes 0-319 of the report. -/
def State.attestBody (s : State) (nonce : BitVec 256) : List Nat :=
  let ok := s.on (dk .SEC_STATUS_BUNDLE_OK)
  let hash := match s.job.image with
    | some i => i.hash
    | none => 0
  ascii "VXATTEST" ++ bytesLE 2 1 ++
  bytesLE 2 (bit (!ok) + 2 * bit s.job.image.isSome + 4 * bit s.fuses.ownerValid + 8 * bit (s.rd (dk .SEC_STATUS_DEBUG_SCOPE) != 0)) ++
  bytesLE 4 384 ++ serialBytes ++ bytesLE 32 nonce.toNat ++
  (if ok then (ofBytes s.sec.measure ++ List.replicate 64 0).take 64 else List.replicate 64 0) ++
  bytesLE 64 hash.toNat ++ s.fuseDigest ++ bytesLE 2 (svValue s.fuses) ++ bytesLE 2 (s.rd (dk .SEC_STATUS_SV_BUNDLE)) ++
  bytesLE 2 (s.view (dk .FUSE_STATUS_FIELD_USED)) ++ bytesLE 2 (s.rd (dk .SEC_STATUS_DEBUG_SCOPE)) ++
  bytesLE 8 (s.rd (dk .BR_TIME)) ++ bytesLE 8 s.step ++ List.replicate 40 0

def actAttest (m : LiftMsg) (nonce : BitVec 256) : Act :=
  request m (.attest m nonce) (some 32) fun r => tickClocks.seq (.ask fun s =>
    let body := s.attestBody nonce
    reply r stOk 0 (body ++ edSign identitySeed (sha512 body)))

/-! ## NET_CONFIG, DOMAIN_SET -/

/-- NET_CONFIG (R419, R420): what it sets counts for sessions opened afterwards. The packing of its parameters is not
stated, so the offset of an invalid one is free (log 28). -/
def actNetConfig (m : LiftMsg) (c : NetCfg) : Act :=
  request m (.netConfig m c) (some (packedLen 0x0008)) fun r =>
    if 32 < c.prefix4 then reply r stBadParam (Config.paramOffset 0x0008 1)
    else if 128 < c.prefix6 then reply r stBadParam (Config.paramOffset 0x0008 4)
    else if c.mtu < 1280 ∨ 9216 < c.mtu then reply r stBadParam (Config.paramOffset 0x0008 6)
    else (modLift (fun l => { l with
      ip4 := c.ip4, prefix4 := c.prefix4, gw4 := c.gw4, ip6 := c.ip6, prefix6 := c.prefix6, gw6 := c.gw6, mtu := c.mtu })).seq
      (reply r stOk)

/-- DOMAIN_SET: devices of a domain number 0 to its size less one, at most 4,096 (R173, R467). -/
def actDomainSet (m : LiftMsg) (device size root : Nat) : Act :=
  request m (.domainSet m device size root) (some (packedLen 0x0030)) fun r => inStates r [jsNone] (
    if size < 1 ∨ 4096 < size then reply r stBadParam (Config.paramOffset 0x0030 1)
    else if size ≤ device then reply r stBadParam (Config.paramOffset 0x0030 0)
    else if size ≤ root then reply r stBadParam (Config.paramOffset 0x0030 2)
    else (modJob (fun j => { j with domain := some (device, size, root) })).seq (reply r stOk))

/-! ## SPARE_LIST (R494) -/

def State.spareBytes (s : State) : List Nat :=
  (s.boot.proposals.mapIdx (fun i (x : Proposal) =>
    bytesLE 2 i ++ [x.source % 256, 0] ++ bytesLE 4 x.entry.toNat ++ bytesLE 8 x.step)).flatten

def actSpareList (m : LiftMsg) : Act := request m (.spareList m) (some 0) fun r => .ask fun s => reply r stOk 0 s.spareBytes

/-! ## JOB_STATUS (R464) -/

/-- CP0, or the lowest used pile where the image does not use CP0. -/
def State.firstPile (s : State) : Nat := s.usedPiles.headD 0

def State.jobStatus (s : State) : List Nat :=
  let p := s.firstPile
  let id := match s.job.image with
    | some i => i.jobId.toNat
    | none => 0
  [s.jobState, s.rd (pk .GATE_STATUS_ATTEMPT p)] ++ bytesLE 2 (s.rd (pk .GATE_STATUS_PHASE p)) ++
  bytesLE 4 (s.named "VERDICT_LAST" 0 0 0 0) ++ bytesLE 8 s.step ++ bytesLE 16 id ++ bytesLE 8 (s.rd (dk .TB_SLOT)) ++
  bytesLE 4 ((List.range 16).map (fun n => s.rd (pk .REPLAY_COUNT n))).sum ++ bytesLE 4 (s.rd (pk .SKIP_COUNT 0)) ++
  bytesLE 2 (s.rd (dk .JOB_STATE_ABORT_PILES)) ++ List.replicate 14 0

def actJobStatus (m : LiftMsg) : Act := request m (.jobStatus m) (some 0) fun r => tickClocks.seq (.ask fun s => reply r stOk 0 s.jobStatus)

/-! ## Result objects (R445) -/

/-- The name of the statistics object. -/
def stepStats : BitVec 128 := BitVec.ofNat 128 (ofLE (ascii "STEP_STATS"))

/-- The objects that exist, in the image's order and then STEP_STATS: each has its name once. -/
def State.objectNames (s : State) : List (BitVec 128) :=
  (match s.job.image with
   | some i => i.objects.foldl (fun a o => if a.contains o.name then a else a ++ [o.name]) []
   | none => []) ++ [stepStats]

/-- The current generation of an object; 0: never published. -/
def State.gen (s : State) (name : BitVec 128) : Nat := ((s.job.gens.find? (fun g => g.1 == name)).map Prod.snd).getD 0

/-- LIST_OBJECTS: as many as a reply holds, 341 of 24 B in 8,200 B (R439). -/
def actListObjects (m : LiftMsg) (first : Nat) : Act :=
  request m (.listObjects m first) (some (packedLen 0x0051)) fun r => .ask fun s =>
    if s.objectNames.length < first then reply r stBadRange 0
    else reply r stOk 0 (((s.objectNames.drop first).take 341).flatMap (fun n => bytesLE 16 n.toNat ++ bytesLE 8 (s.gen n)))

/-! ## RECORDS, PILE_HEALTH (R465, R466) -/

def actRecords (m : LiftMsg) (p : RecordsP) : Act :=
  request m (.records m p) (some 16) fun r => withFree fun f => .ask fun s =>
    let rs := s.recordsOf p.kind p.set p.pile
    if p.kind < 1 ∨ 6 < p.kind then reply r stBadParam 0
    else if p.kind < 4 ∧ 2 < p.set then reply r stBadParam 1
    else if 16 ≤ p.pile then reply r stNoObject
    else if recordsMax p.kind < p.count then reply r stBadRange 8
    else if rs.1.length < p.first + p.count then reply r stNoObject
    else onPile r (.records m p) p.pile (reply r stUnsync 0
      (bytesLE 8 (rs.2.getD f) ++ bytesLE 4 rs.1.length ++ List.replicate 4 0 ++ ((rs.1.drop p.first).take p.count).flatten))

/-- Ageing domains of a pile (R404): its tiles, its DRAM stack and its two ports. -/
def ageOf (p : Nat) : List Nat := (List.range 9).map (fun t => 9 * p + t) ++ [144 + p, 160 + 2 * p, 161 + 2 * p]

/-- Spare wires left of a bridge end, least over its groups. -/
def State.bridgeState (s : State) (p d : Nat) : Nat := if bridgePresent p d then s.rd (pk .BRG_STATUS_STATE p d) else 15

def listMin : List Nat → Nat
  | [] => 0
  | a :: r => r.foldl min a

/-- PILE_HEALTH's 64 bytes. `die` is the highest base-die sensor of the pile where no alert has reported it: the surroundings give it
(log 5). -/
def State.pileHealth (s : State) (p die : Nat) : List Nat :=
  let lane (k : Nat) (map : List Nat) (bad : BitVec 9) : Nat :=
    bit (s.rd (pk .LNK_STATUS_STATE p k) != 10 && (spareLane map bad).isSome)
  [p, bit (s.on (pk .SW_STATUS_STAND_IN p)) + 2 * bit (s.on (pk .MEM_STATUS_HOT p)) + 4 * bit (s.on (pk .MEM_STATUS_OVER_TEMP p)) +
    8 * s.view (pk .FLT_STATUS_SUBST_PENDING p) + 16 * s.view (pk .MEM_STATUS_MOVE_PENDING p) +
    32 * bit ((s.rd (dk .JOB_STATE_ABORT_PILES)).testBit p),
   s.view (pk .FLT_STATUS_SPARE_TILES p),
   lane 0 (s.port p 0).txMap (s.port p 0).txBad + 2 * lane 0 (s.port p 0).rxMap (s.port p 0).rxBad +
    4 * lane 1 (s.port p 1).txMap (s.port p 1).txBad + 8 * lane 1 (s.port p 1).rxMap (s.port p 1).rxBad] ++
  (List.range 8).map (s.physOf p) ++ bytesLE 2 (s.rd (pk .MEM_SPARE_MIN_LEFT p)) ++
  [s.rd (pk .LNK_STATUS_STATE p 0) + 16 * s.rd (pk .LNK_STATUS_STATE p 1),
   listMin (((List.range 4).filter (bridgePresent p)).map (fun d => s.rd (pk .BRG_STATUS_MIN_SPARES p d)))] ++
  bytesLE 2 ((List.range 4).map (fun d => s.bridgeState p d * 16 ^ d)).sum ++ bytesLE 2 (s.rd (pk .MEM_STATUS_TEMP p)) ++
  bytesLE 2 ((s.pile p).dieTemp.getD die) ++ bytesLE 2 (s.rd (pk .MEM_BUCKET p)) ++ bytesLE 4 (s.named "GATE_STATUS" p 0 0 0) ++
  bytesLE 4 (s.rd (pk .SLIP_COUNT p)) ++ bytesLE 8 (s.rd (pk .MEM_CE_LINES p)) ++ bytesLE 4 (s.rd (pk .REPLAY_COUNT p)) ++
  bytesLE 2 (listMin ((ageOf p).map (fun d => s.rd (dk .AGE_EOL_MONTHS d)))) ++ List.replicate 18 0

def actPileHealth (m : LiftMsg) (pile : Nat) : Act :=
  request m (.pileHealth m pile) (some 8) fun r => onPile r (.pileHealth m pile) pile (withFree fun f => .ask fun s =>
    reply r stOk 0 (s.pileHealth pile f))

/-! ## A code that no command has (R455) -/

/-- The codes of the command table (R457). -/
def commandCodes : List Nat := [
  0x01, 0x02, 0x03, 0x04, 0x05, 0x06, 0x07, 0x08, 0x10, 0x11, 0x20, 0x21, 0x22, 0x23, 0x30, 0x31, 0x32, 0x33, 0x34, 0x35,
  0x36, 0x40, 0x41, 0x42, 0x43, 0x44, 0x45, 0x46, 0x50, 0x51, 0x52, 0x53]

def actUnknownCommand (m : LiftMsg) : Act :=
  if commandCodes.contains (reqCommand m) then .done else requestAny m (.unknownCommand m) (fun r => reply r stBadCommand)

end Sys2Proof.Machine
end

