-- ==== Sys2Proof/Machine/MemCmd.lean ====
section
/-! DEFINITION. The raw memory commands and the fetch of result objects (R355, R365, R435-R437, R446, R457): MEM_WRITE,
MEM_READ, MEM_FILL, TAG_WRITE, FETCH. A transfer's data moves by BULK_DATA. -/

namespace Sys2Proof.Machine

/-! ## Order and waiting (R442, R502) -/

/-- A run of DRAM lines of a pile that a request acts on, and whether it writes them. -/
structure LineRun where
  pile   : Nat
  first  : Nat
  count  : Nat
  writes : Bool
  deriving DecidableEq, Repr

/-- Two requests act on the same lines, and one of them writes. -/
def LineRun.meets (a b : LineRun) : Bool :=
  a.pile == b.pile && (a.writes || b.writes) && decide (a.first < b.first + b.count ∧ b.first < a.first + a.count)

/-- The lines of memory that a read of a view covers (R355): the tag and check views hold eight lines' fields in one. -/
def readRun (q : MemReadP) : LineRun :=
  if q.view = 0 then ⟨q.pile, q.first, q.lines, false⟩ else ⟨q.pile, 8 * q.first, 8 * q.lines, false⟩

/-- The piles that a fill names: 0xFF all. -/
def fillPiles (pile : Nat) : List Nat := if pile = 0xFF then List.range 16 else [pile]

/-- The lines that a memory command acts on. -/
def runsOf : Instr → List LineRun
  | .memWrite _ w => [⟨w.pile, w.first, w.lines, true⟩]
  | .memRead _ q => [readRun q]
  | .memFill _ q => (fillPiles q.pile).map (fun p => ⟨p, q.first, q.lines, true⟩)
  | .tagWrite _ p l _ => [⟨p, l, 1, true⟩]
  | _ => []

/-- The lines that an open transfer still acts on. -/
def xferRuns (t : Xfer) : List LineRun := if t.drop then [] else match t.kind with
  | .memWrite w => [⟨w.pile, w.first, w.lines, true⟩]
  | .memRead q => [readRun q]
  | _ => []

/-- The lines of the requests ahead of one that starts now (R442): those of its session whose transfers are open or that wait, and
fills. -/
def State.runsAhead (s : State) (r : Req) : List LineRun :=
  ((s.sessions.filter (fun x => x.id == r.session)).flatMap Session.xfers).flatMap xferRuns ++
  (s.lift.parked.filter (fun x => x.1.session == r.session)).flatMap (fun x => runsOf x.2) ++
  (List.range 16).flatMap (fun p => match (s.pile p).mem.fill with
    | some f => [⟨p, f.first, f.lines, true⟩]
    | none => [])

/-- A memory command takes effect after those ahead of it on the same lines, once the domains it needs are ready: until then it waits
(R442, R502). -/
def inOrder (r : Req) (c : Instr) (ds : List Nat) (k : Act) : Act :=
  .ask fun s =>
    if (runsOf c).any (fun a => (s.runsAhead r).any a.meets) then park r c else whenUp r c ds k

/-- A command on a pile's memory: refused while a bring-up runs (R475), while the domain is OFF (R503) or the switch carries nothing
(R17); else in its order. -/
def onMemory (r : Req) (c : Instr) (p : Nat) (k : Act) : Act :=
  if 16 ≤ p then reply r stNoObject
  else notBringing r p (.ask fun s =>
    if s.power (domMem p) = 2 ∨ s.power (domSw p) ≠ 0 then reply r stNoObject
    else inOrder r c [domCtl p, domMem p] k)

/-! ## Where a write may land (R197, R437) -/

/-- The bank of a declared input buffer of a pile that a DRAM line lies in. -/
def State.inputBank (s : State) (p line : Nat) : Option Nat := match s.job.image with
  | none => none
  | some img =>
    let ins := img.buffers.filter (fun b => b.kind == 3 && b.pile == p && b.space == .dram)
    if ins.any (fun b => inRun line b.firstLine b.lines) then some 0
    else if ins.any (fun b => inRun line (bankLine b.firstLine b.bankStride 1) b.lines) then some 1 else none

/-- The step whose inputs a bank takes: the running step or the one after it. -/
def State.bankStep (s : State) (bank : Nat) : Nat := if s.step % 2 = bank then s.step else s.step + 1

/-- Why a write of a line is refused, if it is: the status and its DETAIL. -/
def State.landing (s : State) (p line : Nat) : Option (Nat × Nat) :=
  if s.boot.run.isSome then some (stBusy, p)
  else if !s.jobStarted then (if (s.pile p).mem.fill.isSome then some (stBusy, p) else none)
  else match s.inputBank p line with
    | none => some (stNotInput, line % 2 ^ 32)
    | some b => if s.job.ready.contains (s.bankStep b) then some (stBankClosed, s.bankStep b % 2 ^ 32) else none

/-- The first refusal over a run of lines. -/
def State.landingRun (s : State) (p first : Nat) : Nat → Option (Nat × Nat)
  | 0 => none
  | n + 1 => match s.landing p first with
    | some e => some e
    | none => s.landingRun p (first + 1) n

/-- MEM_WRITE opens a transfer whose data BULK_DATA brings. A refused one still runs its sequence (R437). -/
def actMemWrite (m : LiftMsg) (w : MemWriteP) : Act :=
  request m (.memWrite m w) (some (packedLen 0x0020)) fun r => .ask fun s =>
    let no (st d : Nat) : Act := refuseXfer r w.xfer w.lines (.memWrite w) st d
    if s.jobState = jsAborting then no stWrongState s.jobState
    else if 16 ≤ w.pile then no stNoObject 0
    else if s.boot.run.isSome then no stBusy w.pile
    else if s.power (domMem w.pile) = 2 ∨ s.power (domSw w.pile) ≠ 0 then no stNoObject 0
    else if w.lines < 1 then no stBadRange (Config.paramOffset 0x0020 2)
    else if dramLines < w.first + w.lines then no stBadRange (Config.paramOffset 0x0020 1)
    else match s.landingRun w.pile w.first w.lines with
      | some e => no e.1 e.2
      | none => inOrder r (.memWrite m w) [domCtl w.pile, domMem w.pile]
          (openXfer r w.xfer (Config.paramOffset 0x0020 4) w.lines (.memWrite w))

/-- Lines of a view (R355): the tag and check views hold 16 B a line. -/
def viewLines (view : Nat) : Nat := if view = 0 then dramLines else dramLines / 8

/-- MEM_READ opens a transfer that BULK_DATA_SEND carries (R438). -/
def actMemRead (m : LiftMsg) (p : MemReadP) : Act :=
  request m (.memRead m p) (some (packedLen 0x0021)) fun r => onMemory r (.memRead m p) p.pile (
    if 2 < p.view then reply r stBadParam (Config.paramOffset 0x0021 1)
    else if p.lines < 1 then reply r stBadRange (Config.paramOffset 0x0021 3)
    else if viewLines p.view < p.first + p.lines then reply r stBadRange (Config.paramOffset 0x0021 2)
    else openXfer r p.xfer (Config.paramOffset 0x0021 5) p.lines (.memRead p))

/-! ## MEM_FILL (R365) -/

def actMemFill (m : LiftMsg) (q : MemFillP) : Act :=
  request m (.memFill m q) (some (packedLen 0x0022)) fun r => inStates r [jsNone] (.ask fun s =>
    let ps := fillPiles q.pile
    if ps.any (fun p => decide (16 ≤ p)) then reply r stNoObject
    else if s.boot.run.isSome then reply r stBusy (ps.headD 0)
    else if ps.any (fun p => s.power (domMem p) == 2 || s.power (domSw p) != 0) then reply r stNoObject
    else if 1 < q.mode then reply r stBadParam (Config.paramOffset 0x0022 3)
    else if q.mode = 0 ∧ !isFillFmt q.fmt then reply r stBadParam (Config.paramOffset 0x0022 4)
    else if q.lines < 1 then reply r stBadRange (Config.paramOffset 0x0022 2)
    else if dramLines < q.first + q.lines then reply r stBadRange (Config.paramOffset 0x0022 1)
    else match ps.find? (fun p => (s.pile p).mem.fill.isSome) with
      | some p => reply r stBusy p
      | none => inOrder r (.memFill m q) (ps.map domCtl ++ ps.map domMem) (Act.each ps (fun p => modMem p (fun x =>
          { x with fill := some ⟨q.first, q.lines, q.body, q.tag, if q.mode = 0 then some q.fmt else none, r, ps.length⟩ }))))

/-- Line k of a fill: the fill line of the format at its place in the run, or the line supplied. -/
def FillRun.line (f : FillRun) (k : Nat) : Line := match f.fmt with
  | some g => fillLine g k false
  | none => ⟨f.body, f.tag, false⟩

/-- Write n lines of a fill from its line k on. -/
def fillLines (p : Nat) (f : FillRun) (k : Nat) : Nat → Act
  | 0 => .done
  | n + 1 => (dramWrite p (f.first + k) (f.line k)).seq (fillLines p f (k + 1) n)

/-- Piles whose fill answers a request. -/
def State.fillsOf (s : State) (r : Req) : List (Nat × FillRun) :=
  (List.range 16).filterMap (fun p => match (s.pile p).mem.fill with
    | some f => if f.req = r then some (p, f) else none
    | none => none)

/-- A pile's fill ends: its lines are written, and the command replies once its last pile has ended (log 30). -/
def actMemFillDone (p : Nat) : Act :=
  .ask fun s => match (s.pile p).mem.fill with
    | none => .done
    | some f => Act.all [
        fillLines p f 0 f.lines,
        modMem p (fun x => { x with fill := none }),
        .ask fun t => Act.when (t.fillsOf f.req).isEmpty (reply f.req stOk (f.lines * f.piles))]

/-! ## TAG_WRITE (R355) -/

/-- The tag is replaced and the body kept; a line that did not read as data stays poisoned. -/
def actTagWrite (m : LiftMsg) (pile line : Nat) (tag : BitVec 128) : Act :=
  request m (.tagWrite m pile line tag) (some (packedLen 0x0023)) fun r => inStates r [jsNone] (onMemory r (.tagWrite m pile line tag) pile (.ask fun s =>
    if dramLines ≤ line then reply r stBadRange (Config.paramOffset 0x0023 1)
    else if (s.pile pile).mem.fill.isSome then reply r stBusy pile
    else dramRead pile line false (fun o =>
      (dramWrite pile line ⟨o.line.body, tag, o.kind != .data⟩).seq (reply r stOk))))

/-! ## FETCH (R446) -/

/-- The bytes of a line with its poison mark. -/
def lineBytes (l : Line) : List (Nat × Bool) := (bytesLE 128 l.body.toNat).map (fun b => (b, l.poison))

/-- Lines of a transfer in body form from bytes, the last padded with zeros; a line with a poisoned byte is poisoned. -/
def packLines : Nat → List (Nat × Bool) → List Line
  | 0, _ => []
  | n + 1, bs =>
    if bs.isEmpty then []
    else
      let b := BitVec.ofNat 1024 (ofLE ((bs.take 128).map Prod.fst))
      ⟨b, rawTag b, (bs.take 128).any Prod.snd⟩ :: packLines n (bs.drop 128)

def packBytes (bs : List (Nat × Bool)) : List Line := packLines (bs.length / 128 + 1) bs

def insertPart (o : ObjectEntry) : List ObjectEntry → List ObjectEntry
  | [] => [o]
  | x :: r => if o.part ≤ x.part then o :: x :: r else x :: insertPart o r

/-- The parts of an object in increasing PART. -/
def objectParts (img : Image) (name : BitVec 128) : List ObjectEntry :=
  (img.objects.filter (fun o => o.name == name)).foldr insertPart []

/-- The domains of an object's parts (R500). -/
def State.partDoms (s : State) (img : Image) (name : BitVec 128) : List Nat :=
  ((objectParts img name).map (fun o => match o.space with
    | .dram => domMem o.pile
    | .buf => domBuf o.pile
    | .ls => domTile o.pile (s.physOf o.pile o.tile))).eraseDups

/-- A MEM domain that is OFF wakes for no command (R503). -/
def State.memOff (s : State) (d : Nat) : Bool := s.power d == 2 && decide (32 ≤ d) && (d - 32) % 32 == 12

/-- Read the bytes of the parts, in order. -/
def readParts (gen : Nat) : List ObjectEntry → (List (Nat × Bool) → Act) → Act
  | [], k => k []
  | o :: r, k => .ask fun s => getLines o.pile o.space (s.physOf o.pile o.tile) (bankLine o.firstLine o.bankStride (gen % 2)) o.lines
      (fun ls => readParts gen r (fun rest => k ((ls.flatMap lineBytes).take o.bytes ++ rest)))

/-- The bytes of a published object. -/
def objectBytes (name : BitVec 128) (gen : Nat) (k : List (Nat × Bool) → Act) : Act :=
  .ask fun s =>
    if name = stepStats then k ((ofBytes s.job.stats).map (fun b => (b, false)))
    else match s.job.image with
      | some img => readParts gen (objectParts img name) k
      | none => k []

def actFetch (m : LiftMsg) (name : BitVec 128) (gmin xfer : Nat) : Act :=
  request m (.fetch m name gmin xfer) (some 32) fun r => .ask fun s =>
    let g := s.gen name
    if !s.objectNames.contains name then reply r stNoObject
    else if g = 0 ∨ g < gmin then reply r stNotReady (g % 2 ^ 32)
    else
      let ds := match s.job.image with
        | some img => s.partDoms img name
        | none => []
      if ds.any s.memOff then reply r stNoObject
      else whenUp r (.fetch m name gmin xfer) ds (objectBytes name g (fun bs =>
        openXfer r xfer 24 (packBytes bs).length (.fetch name g bs.length) (packBytes bs)))

end Sys2Proof.Machine
end

