-- ==== Sys2Proof/Machine/Security.lean ====
section
/-! DEFINITION. The security core's commands (chapter 19, R495): bundles, counter and claim burns, debug unlock, and the
field-fuse burns of SPARE_COMMIT. -/

namespace Sys2Proof.Machine

/-! ## Bundles (R532, R533) -/

def atLE (bs : List Nat) (off n : Nat) : Nat := ofLE ((bs.drop off).take n)
def allZero (bs : List Nat) (off n : Nat) : Bool := ((bs.drop off).take n).all (· == 0)

/-- An IMAGE entry: TYPE, OFFSET, SIZE, and whether its zero bytes are zero. -/
structure OroImage where
  type   : Nat
  offset : Nat
  size   : Nat
  clean  : Bool
  deriving DecidableEq, Repr

/-- A bundle's header and parts (R532). -/
structure OroBundle where
  bytes     : List Nat
  flags     : Nat
  sv        : Nat
  vendorEnd : Nat
  ownerLen  : Nat
  images    : List OroImage
  deriving DecidableEq, Repr

def oroBundleOf (bs : List Nat) : OroBundle :=
  ⟨bs, atLE bs 10 2, atLE bs 12 2, atLE bs 24 8, atLE bs 32 8,
   (List.range 8).map (fun i => ⟨atLE bs (64 + 16 * i) 2, atLE bs (68 + 16 * i) 4, atLE bs (72 + 16 * i) 4,
     allZero bs (66 + 16 * i) 2 && allZero bs (76 + 16 * i) 4⟩)⟩

def OroBundle.claim (b : OroBundle) : Bool := b.flags / 2 % 2 == 1
def OroBundle.commits (b : OroBundle) : Bool := b.flags % 2 == 1
def OroBundle.vendor (b : OroBundle) : List Nat := b.bytes.take b.vendorEnd
def OroBundle.vendorKey (b : OroBundle) : List Nat := (b.bytes.drop b.vendorEnd).take 32
def OroBundle.vendorSig (b : OroBundle) : List Nat := (b.bytes.drop (b.vendorEnd + 32)).take 64
def OroBundle.owner (b : OroBundle) : List Nat := (b.bytes.drop (b.vendorEnd + 96)).take b.ownerLen
def OroBundle.ownerKey (b : OroBundle) : List Nat := (b.bytes.drop (b.vendorEnd + 96 + b.ownerLen)).take 32
def OroBundle.ownerSig (b : OroBundle) : List Nat := (b.bytes.drop (b.vendorEnd + 128 + b.ownerLen)).take 64
def OroBundle.hosts (b : OroBundle) : Nat := if b.ownerLen = 0 then 0 else atLE b.owner 0 2
def OroBundle.claimOwner (b : OroBundle) : List Nat := (b.owner.drop 16).take 64
def OroBundle.claimHost (b : OroBundle) : List Nat := (b.owner.drop 80).take 64
def OroBundle.hostHashes (b : OroBundle) : List (List Nat) := (List.range b.hosts).map (fun i => (b.owner.drop (144 + 64 * i)).take 64)
def OroBundle.version (b : OroBundle) : List Nat := (b.bytes.drop 40).take 16
/-- The bytes of the image of a type. -/
def OroBundle.image (b : OroBundle) (t : Nat) : List Nat := match b.images.find? (fun i => i.type == t) with
  | some i => (b.bytes.drop i.offset).take i.size
  | none => []

/-- 48 MiB. -/
def bundleMax : Nat := 50331648

/-- Check 1 of R533, with the owner section's own layout. -/
def OroBundle.formOk (b : OroBundle) : Bool :=
  b.bytes.take 8 == ascii "VXBUNDLE" && atLE b.bytes 8 2 == 1 && decide (b.flags < 4) && allZero b.bytes 14 2 &&
  allZero b.bytes 56 8 && allZero b.bytes 192 64 && decide (256 ≤ b.vendorEnd) && decide (b.bytes.length ≤ bundleMax) &&
  atLE b.bytes 16 8 == b.bytes.length &&
  b.bytes.length == b.vendorEnd + 96 + b.ownerLen + (if b.ownerLen = 0 then 0 else 96) &&
  b.images.all (fun i => i.clean && decide (i.type < 4)) &&
  [1, 2, 3].all (fun t => (b.images.filter (fun i => i.type == t)).length == 1) &&
  b.images.all (fun i => i.type == 0 || decide (i.offset + i.size ≤ b.vendorEnd)) &&
  decide (b.sv ≤ 64) && (!b.claim || b.ownerLen != 0) &&
  (b.ownerLen == 0 || (decide (b.hosts ≤ 16) && allZero b.owner 2 14 && b.ownerLen == 144 + 64 * b.hosts &&
    (b.claim || allZero b.owner 16 128)))

/-- Check 2. -/
def OroBundle.vendorOk (b : OroBundle) : Bool :=
  sha512 b.vendorKey == bytesLE 64 Config.vendorKeyHash.toNat && edVerify b.vendorKey (sha512 b.vendor) b.vendorSig

/-- The owner's signature over the two digests. -/
def OroBundle.ownerSigned (b : OroBundle) : Bool := edVerify b.ownerKey (sha512 (sha512 b.vendor ++ b.owner)) b.ownerSig

/-- Every bit burned of a field is also set in the bytes. -/
def coversField (f : BitVec 512) (bs : List Nat) : Bool := f &&& BitVec.ofNat 512 (ofLE bs) == f

/-- Check 4: the owner rules of R535. -/
def State.ownerOk (s : State) (b : OroBundle) : Bool :=
  if s.fuses.ownerValid then
    !b.claim && b.ownerLen != 0 && sha512 b.ownerKey == bytesLE 64 s.fuses.ownerKey.toNat && b.ownerSigned
  else if b.claim then
    b.ownerSigned && sha512 b.ownerKey == b.claimOwner && coversField s.fuses.ownerKey b.claimOwner &&
      coversField s.fuses.ownerHost b.claimHost
  else b.ownerLen == 0 || b.ownerSigned

/-- The DETAIL of a bundle refused, by the first check that fails. -/
def State.bundleRefusal (s : State) (b : OroBundle) : Option Nat :=
  if !b.formOk then some 4
  else if !b.vendorOk then some 1
  else if b.sv < svValue s.fuses then some 2
  else if !s.ownerOk b then some 3 else none

/-- The burns of an accepted bundle (R534, R535): counter bits, then the claim's words and its VALID words. -/
def State.bundleBurns (s : State) (b : OroBundle) : List Burn :=
  (if b.commits then List.replicate (b.sv - svValue s.fuses) .sv else []) ++
  (if b.claim then
    (List.range 16).map (fun k => Burn.ownerKey k (BitVec.ofNat 32 (atLE b.claimOwner (4 * k) 4))) ++
    (List.range 16).map (fun k => Burn.ownerHost k (BitVec.ofNat 32 (atLE b.claimHost (4 * k) 4))) ++ [.ownerOk, .hostOk]
   else [])

/-- The boot ROM's work is over: the reply, where a host loaded the bundle, and the end of every boot-ROM session, of those half open too (R427, R477). -/
def bundleDone (r : Option Req) : Act :=
  .ask fun s => (match r with
    | some q => reply q stOk
    | none => .done).seq ((Act.each ((s.sessions.filter Session.boot).map Session.id) endSession).seq
      (Act.each ((s.halfOpen.filter HalfOpen.boot).map HalfOpen.id) (fun id => emit (.dropHalf id))))

/-- Take a bundle: record it, burn what it asks, and reply. -/
def acceptBundle (b : OroBundle) (lines : List Line) (r : Option Req) : Act :=
  .ask fun s => Act.all [
    modSec (fun x => { x with
      measure := toBytes (sha512 b.bytes), bundle := lines, version := toBytes b.version
      hosts := b.hostHashes.map toBytes, imgDigest := toBytes (sha512 (b.image 3))
      burns := s.bundleBurns b, burnReq := r }),
    setR (dk .SEC_STATUS_BUNDLE_OK) 1, setR (dk .SEC_STATUS_SV_BUNDLE) b.sv, setR (dk .BR_STATUS_STAGE) 1,
    Act.when (s.bundleBurns b).isEmpty (bundleDone r)]

/-- A bundle's bytes from its lines. -/
def bundleBytes (lines : List Line) (size : Nat) : List Nat := (lines.flatMap (fun l => bytesLE 128 l.body.toNat)).take size

/-- The data of BUNDLE_LOAD is complete. -/
def bundleArrived (r : Req) (size : Nat) (lines : List Line) : Act :=
  .ask fun s =>
    let b := oroBundleOf (bundleBytes lines size)
    match s.bundleRefusal b with
    | some d => reply r stBundleRefused d
    | none => acceptBundle b lines (some r)

/-- BUNDLE_LOAD, from a boot-ROM session only (R457). -/
def actBundleLoad (m : LiftMsg) (xfer size : Nat) : Act :=
  request m (.bundleLoad m xfer size) (some 16) fun r => .ask fun s =>
    let n := (size + 127) / 128
    if s.on (dk .SEC_STATUS_BUNDLE_OK) then refuseXfer r xfer n (.bundle size) stWrongState s.jobState
    else if size < 256 ∨ bundleMax < size then refuseXfer r xfer n (.bundle size) stBundleRefused 4
    else openXfer r xfer 0 n (.bundle size)

/-! ## SPARE_COMMIT (R495) -/

/-- What a commit burns: the named proposals in their order, without those the bank already holds, as far as it has room. -/
def commitBurns (field : List (BitVec 32)) : List (BitVec 32) → List (BitVec 32)
  | [] => []
  | e :: r =>
    if field.contains e then commitBurns field r
    else if 2048 ≤ field.length then [] else e :: commitBurns (field ++ [e]) r

/-- Burned proposals leave the list, which the wax record carries (R485, R495). -/
def dropBurned : Act := .ask fun s => (modBoot (fun b => { b with
  proposals := b.proposals.filter (fun x => !s.fuses.field.contains x.entry) })).seq waxDirty

/-- Start a commit's burns, or answer it where it has none. -/
def startCommit (r : Req) (es : List (BitVec 32)) : Act :=
  .ask fun s =>
    let bs := commitBurns s.fuses.field es
    if bs.isEmpty then dropBurned.seq (reply r stOk 0)
    else modSec (fun x => { x with burns := bs.map Burn.entry, burnReq := some r, burned := 0 })

/-- Commits that waited start in order. -/
def nextCommit : Nat → Act
  | 0 => .done
  | n + 1 => .ask fun s => match s.sec.burns, s.sec.commits with
    | [], (r, es) :: rest =>
      ((modSec (fun x => { x with commits := rest })).seq (startCommit r es)).seq (nextCommit n)
    | _, _ => .done

def actSpareCommit (m : LiftMsg) (is : List Nat) : Act :=
  request m (.spareCommit m is) none fun r => inStates r [jsNone] (.ask fun s =>
    match is.findIdx? (fun i => decide (s.boot.proposals.length ≤ i)) with
    | some k => reply r stBadRange (Config.paramOffset 0x0034 k)
    | none =>
      let es := is.filterMap (fun i => (s.boot.proposals[i]?).map Proposal.entry)
      (modSec (fun x => { x with commits := x.commits ++ [(r, es)] })).seq (nextCommit 1))

/-! ## The end of a word's burn (R528) -/

/-- The burns of a command are complete. -/
def burnsDone : Act :=
  .ask fun s => (modSec (fun x => { x with burnReq := none, burned := 0 })).seq
    (match s.sec.burnReq with
     | some r => if r.cmd = 0x0034 then dropBurned.seq (reply r stOk s.sec.burned) else bundleDone (some r)
     | none => bundleDone none)

/-- What the end of a word's burn leaves burned: the two VALID words take effect together, at the end of the claim, so that a power loss
during it leaves both unburned (R535; DEDUCED, log 151). -/
def Burn.lasting : Burn → List Burn
  | .ownerOk => []
  | .hostOk => [.ownerOk, .hostOk]
  | b => [b]

def actFuseWordBurned : Act :=
  .ask fun s => match s.sec.burns with
    | [] => .done
    | b :: rest => Act.all [
        Act.each b.lasting (fun x => emit (.fuse x)),
        modSec (fun x => { x with burns := rest, burned := x.burned + 1 }),
        Act.when rest.isEmpty (burnsDone.seq (if s.sec.resetDue then startStage1 else nextCommit (s.sec.commits.length + 1)))]

def execFuseWordBurned (s : State) : Host.Outcome State Fault Refusal := actFuseWordBurned.answer s

/-! ## Debug unlock (R539-R542) -/

/-- A challenge's 96 bytes. -/
def challengeBytes (scope nonce uptime : Nat) : List Nat :=
  ascii "VXDBGCHL" ++ serialBytes ++ bytesLE 4 scope ++ [0, 0, 0, 0] ++ bytesLE 32 nonce ++ bytesLE 8 uptime ++ List.replicate 24 0

/-- A scope with a reserved bit set is refused; the nonce and the uptime are free (log 5, 15). -/
def actDebugChallenge (m : LiftMsg) (scope : BitVec 32) : Act :=
  request m (.debugChallenge m scope) (some 8) fun r => inStates r [jsNone] (
    if 3 < scope.toNat then reply r stBadParam 0
    else withFree fun up => .ask fun s =>
      let c := challengeBytes scope.toNat (Config.random s.free).toNat up
      Act.all [emit (.draw 1), modSec (fun x => { x with challenge := some (toBytes c) }), reply r stOk 0 c])

/-- 300 s after its issue the challenge expires. -/
def execChallengeExpire (s : State) : Host.Outcome State Fault Refusal := (modSec (fun x => { x with challenge := none })).answer s

/-- Whether a response unlocks what its challenge asks. -/
def State.unlocks (s : State) (resp : Bytes) : Bool :=
  let bs := ofBytes resp
  let d := sha512 (bs.take 96)
  (match s.sec.challenge with
   | some c => ofBytes c == bs.take 96
   | none => false) &&
  sha512 ((bs.drop 96).take 32) == bytesLE 64 Config.vendorKeyHash.toNat &&
  edVerify ((bs.drop 96).take 32) d ((bs.drop 128).take 64) &&
  (!s.fuses.ownerValid || (sha512 ((bs.drop 192).take 32) == bytesLE 64 s.fuses.ownerKey.toNat &&
    edVerify ((bs.drop 192).take 32) d ((bs.drop 224).take 64)))

def actDebugUnlock (m : LiftMsg) (resp : Bytes) : Act :=
  request m (.debugUnlock m resp) (some 288) fun r => inStates r [jsNone] (.ask fun s => Act.all [
    modSec (fun x => { x with challenge := none }),
    (if s.unlocks resp then
      (setR (dk .SEC_STATUS_DEBUG_SCOPE) (s.rd (dk .SEC_STATUS_DEBUG_SCOPE) ||| (atLE (ofBytes resp) 24 4 % 4))).seq (reply r stOk)
     else reply r stAuthFailed)])

end Sys2Proof.Machine
end

