-- ==== Sys2Proof/Machine/Boot.lean ====
section
/-! DEFINITION. Bring-up (chapter 17): wax records, the stages of BRINGUP with their tests, retired units and discrepancies,
WAX_READ, relayed bundle lines; and the end of the hub: DEVICE_RESET and HUB_FAULT (R19, R457). -/

namespace Sys2Proof.Machine

/-! ## Wax records (R485-R489) -/

/-- Piles and their places. -/
def allPiles : List Nat := List.range 16

/-- The weak-row map of the device: rows as pile * 2^29 + the line index of column 0. -/
def State.weakRows (s : State) : List Nat := allPiles.flatMap (fun p => (s.pile p).mem.weak.map (dramAddr p))

/-- Spare wires used, by bridge end and group. -/
def State.wiresUsed (s : State) : List Nat :=
  (List.range 64).flatMap (fun b => (List.range 28).map (fun g => SMap.getD (s.bridge (b / 4) (b % 4)).used g 0))

/-- Everything that section 6 carries. -/
def State.agesHeld (s : State) : List Nat :=
  s.pwr.charge :: (List.range 193).flatMap (fun d =>
    let h := SMap.getD s.pwr.age d []
    h.length :: h.flatMap (fun x => [(x.quantity % 2 ^ 64).toNat, x.hours, x.onShare]))

/-- A section of the current record. -/
def State.waxPart (s : State) (t : Nat) : List Nat :=
  if t = 5 then s.spareBytes
  else (Config.waxSection t (if t = 2 then s.wiresUsed else if t = 4 then s.weakRows else if t = 6 then s.agesHeld
    else [s.boot.waxGen])).map (· % 256)

/-- The current record (R486, R487); where a section lies is open (log 42). -/
def State.waxRecord (s : State) : List Nat :=
  let pad (t : Nat) : List Nat := List.replicate (Config.waxPad t % 128) 0
  let parts := [1, 2, 3, 4, 5, 6].map (fun t => (t, pad t, s.waxPart t))
  let dir := (parts.foldl (fun (a : List Nat × Nat) x =>
    let o := a.2 + x.2.1.length
    (a.1 ++ bytesLE 2 x.1 ++ [0, 0] ++ bytesLE 4 o ++ bytesLE 4 x.2.2.length, o + x.2.2.length)) ([], 136)).1
  let body := parts.flatMap (fun x => x.2.1 ++ x.2.2)
  let record := ascii "VXWAXREC" ++ bytesLE 2 1 ++ bytesLE 2 6 ++ bytesLE 4 (136 + body.length + 64) ++ serialBytes ++
    bytesLE 8 s.boot.charTime ++ bytesLE 8 s.boot.madeTime ++ bytesLE 4 s.boot.fieldSeen ++ List.replicate 12 0 ++ dir ++ body
  record ++ hmac512 waxKey record

/-- SIZE of a supplied record, and the record cut to it. -/
def waxCut (bs : List Nat) : List Nat := bs.take (atLE bs 12 4)

/-- A record authenticates (R487). -/
def waxAuthentic (bs : List Nat) : Bool :=
  let r := waxCut bs
  decide (128 ≤ atLE bs 12 4) && decide (atLE bs 12 4 ≤ bs.length) &&
  r.take 8 == ascii "VXWAXREC" && atLE r 8 2 == 1 && (r.drop 16).take 16 == serialBytes &&
  r.drop (r.length - 64) == hmac512 waxKey (r.take (r.length - 64))

/-- An authenticated record is valid (R488). -/
def State.waxUsable (s : State) (bs : List Nat) : Bool :=
  atLE bs 48 4 == s.fuses.field.length && s.on (dk .BR_TIME) && decide (atLE bs 32 8 ≤ s.rd (dk .BR_TIME)) &&
  decide (s.rd (dk .BR_TIME) ≤ atLE bs 32 8 + 2592000)

/-- A section of a supplied record by its directory entry. -/
def waxSectionOf (bs : List Nat) (t : Nat) : List Nat :=
  let r := waxCut bs
  match (List.range (atLE r 10 2)).find? (fun i => atLE r (64 + 12 * i) 2 == t) with
  | some i => (r.drop (atLE r (64 + 12 * i + 4) 4)).take (atLE r (64 + 12 * i + 8) 4)
  | none => []

/-- The proposals of section 5, but those already fused bad (R488, R494). -/
def State.waxProposals (s : State) (bs : List Nat) : List Proposal :=
  let x := waxSectionOf bs 5
  ((List.range (x.length / 16)).map (fun i =>
    (⟨6, BitVec.ofNat 32 (atLE x (16 * i + 4) 4), atLE x (16 * i + 8) 8⟩ : Proposal))).filter (fun q => !s.fused.contains q.entry)

/-- WAX_READ: a record exists once stage 5 has ended, and stays while another bring-up runs (R485; log 43). -/
def actWaxRead (m : LiftMsg) (xfer : Nat) : Act :=
  request m (.waxRead m xfer) (some 8) fun r => inStates r [jsNone] (.ask fun s =>
    if !s.boot.recorded then reply r stNoObject
    else
      let ls := packBytes (s.waxRecord.map (fun b => (b, false)))
      openXfer r xfer 0 ls.length .waxRead ls)

/-! ## Units (R491-R496) -/

/-- A discrepancy (R496). -/
def discrep (kind p unit source : Nat) : Act := Act.all [
  modBoot (fun b => { b with discreps := b.discreps + 1 }),
  .ask fun s => setR (dk .BR_STATUS_DISCREP) (min 255 s.boot.discreps),
  raiseEvent 0x0012 p ([kind, p] ++ bytesLE 4 unit ++ [source])]

/-- The fuse entry of a unit. -/
def unitEntry (kind p unit : Nat) : BitVec 32 := BitVec.ofNat 32 (kind * 2 ^ 29 + p * 2 ^ 25 + unit)

/-- The union of fuses and tests over the units of a kind and pile (R492): report where they differ, and propose a unit that
failed without being fused. A unit carried from the wax record or retired earlier in this boot is not reported again. -/
def unite (kind p : Nat) (fused known failed : List Nat) : Act :=
  (Act.each (fused.filter (fun u => !failed.contains u)) (fun u => discrep kind p u 2)).seq
    (Act.each (failed.filter (fun u => !fused.contains u && !known.contains u)) (fun u => Act.all [
      discrep kind p u 1, propose 1 (unitEntry kind p u)]))

/-- A pile is unusable for this boot (R484). -/
def unusable (p : Nat) : Act :=
  .ask fun s => setR (dk .BR_STATUS_UNUSABLE) (s.rd (dk .BR_STATUS_UNUSABLE) ||| 2 ^ p)

/-- Move a row to a spare row during bring-up (R481-R484), as R372 has it: one that is not fused bad is proposed. `again`: a test has found
the row failing on the spare row that holds it, and it moves on; else a row already moved stays. -/
def bootMove (p r : Nat) (again : Bool) : Act :=
  .ask fun s =>
    if (SMap.find? (s.pile p).mem.remap r).isSome && !again then .done
    else if 656 ≤ SMap.getD (s.pile p).mem.used (rowBank r) 0 then unusable p
    else (takeSpare p r).seq (.ask fun t => Act.all [
      bump (pk .MEM_ROW_MOVES p),
      modMem p (fun m => { m with weak := if m.weak.contains r then m.weak else m.weak ++ [r] }),
      Act.when (!t.fused.contains (rowEntry p r)) (propose 3 (rowEntry p r)),
      Act.when (SMap.getD (t.pile p).mem.used (rowBank r) 0 == 656) (raiseEvent 0x000D p [lineChannel r, lineBank r])])

/-- A row by channel, bank and row. -/
def rowAt (x : Nat × Nat × Nat) : Nat := x.2.2 % 32768 * 16384 + x.2.1 % 16 * 64 + x.1 % 64

/-- A row by its UNIT field, and back. -/
def unitRow (u : Nat) : Nat := rowAt (u / 2 ^ 19 % 64, u / 2 ^ 15 % 16, u % 2 ^ 15)
def rowUnit (r : Nat) : Nat := lineChannel r * 2 ^ 19 + lineBank r * 2 ^ 15 + lineRow r

/-! ## The stages (R473, R480-R484, R490, R493) -/

/-- A domain comes ON and its outputs are released; requests that wait for its transition are answered. -/
def domainUp (d : Nat) : Act := .ask fun s => Act.all [
  Act.each (s.dom d).reqs (fun r => reply r stOk),
  setR (dk .PWR_STATE_STATE d) 0, setR (pHeld d) 0, setR (pEnter d) 0, setR (pWake d) 0, setR (pLatch d) 0,
  modDom d (fun _ => {})]

/-- Spare wires in service in a bridge's receive direction (R264, R270). -/
def State.sparesUsed (s : State) (p d : Nat) : Nat := ((List.range 28).map (fun g => min 4 (SMap.getD (s.bridge p d).used g 0))).sum

/-- A bridge trains (R255, R256, R264): with a valid record its repair map is restored unless its wire test fails, else the
test finds the failing wires of each group. Which, only the wires tell (log 44). A group short of spares retires it. -/
def trainBridgeAtBoot (p d : Nat) (valid : Bool) : Act :=
  (domainUp (domB p d)).seq (withFree fun fell => Act.all [
    Act.when (!valid || fell % 2 == 1) (Act.each (List.range 28) (fun g => withFree fun f =>
      modBridge p d (fun b => { b with used := SMap.put 0 b.used g (f % 6) }))),
    .ask fun s => match (List.range 28).find? (fun g => decide (4 < SMap.getD (s.bridge p d).used g 0)) with
      | some g => (bridgeDown p d 10).seq (raiseEvent 0x0009 p [4 + d, g])
      | none => setR (pk .BRG_STATUS_STATE p d) 7,
    showSpares p d,
    .ask fun s => setR (pk .BRG_REPAIRS p d) (max (s.rd (pk .BRG_REPAIRS p d)) (s.sparesUsed p d))])

/-- Stage 2: control cores and pile buffers are powered, a switch that a POWER_SET took down too, and the bridges trained. -/
def stageTwo (valid : Bool) : Act :=
  Act.each allPiles (fun p => Act.all [
    domainUp (domSw p), setR (pk .SW_STATUS_MODE p) 1, domainUp (domCtl p), domainUp (domBuf p),
    Act.each ((List.range 4).filter (bridgePresent p)) (fun d => .ask fun s =>
      if s.rd (pk .BRG_STATUS_STATE p d) = 10 then showSpares p d else trainBridgeAtBoot p d valid)])

/-- Stage 3b on a pile: TSV groups tested, a third spare in a channel is one too many (R480), and rows moved. -/
def stageTsv (p : Nat) (t : PileTest) (rows : List Nat) : Act :=
  .ask fun s =>
    let fused := unitsOf s.fused 4 p
    let known := unitsOf s.boot.carried 4 p
    let failed := t.tsvBad.map (fun x => x.1 * 64 + x.2)
    let all : List Nat := (fused ++ known ++ failed).eraseDups
    Act.all [
      unite 4 p fused known failed,
      Act.when ((List.range 64).any (fun c => decide (2 < (all.filter (fun (u : Nat) => u / 64 == c)).length)) || t.memBad) (unusable p),
      Act.each rows (fun r => bootMove p r false)]

/-- Stage 3c on a pile: rows of short retention are moved, one that a spare row holds to another, and are its weak-row map; rows that first
miscompare at the longer holds are where its retention monitors start (R482). -/
def stageChar (p : Nat) (t : PileTest) : Act := Act.all [
  modMem p (fun m => { m with weak := [], longHold := t.rowsLong.map (fun x => (rowAt x.1, x.2)) }),
  Act.each (t.rowsMoved.map rowAt) (fun r => bootMove p r true),
  Act.when t.memBad (unusable p)]

/-- Stage 3d on a pile (R483, R492): rows that miscompare are moved, and reported where they are not fused; a row fused bad that does not
miscompare is reported as fuse only; then every line holds the unwritten word. -/
def stageMarch (p : Nat) (t : PileTest) : Act :=
  .ask fun s => Act.all [
    unite 3 p (unitsOf s.fused 3 p) (unitsOf s.boot.carried 3 p) ((t.rowsMoved.map rowAt).map rowUnit),
    Act.each (t.rowsMoved.map rowAt) (fun r => bootMove p r true),
    Act.when t.memBad (unusable p),
    emit (.dropDram p), modMem p (fun m => { m with grooms := [], ueGrooms := [], moves := [] }),
    setR (pk .MEM_STATUS_TESTED p) 1]

/-- Lanes of a bit set. -/
def bitsList (n : Nat) (v : Nat) : List Nat := (List.range n).filter (fun i => v.testBit i)

/-- Stage 4 on a direction of a port: lanes fused bad, carried or failed stay out of service. -/
def stageLanes (p k dir : Nat) (t : PileTest) : Act :=
  .ask fun s =>
    let base := k * 32 + dir * 16
    let fused := (bitsList 9 (lanesOf s.fused p k dir).toNat).map (base + ·)
    let known := (bitsList 9 (lanesOf s.boot.carried p k dir).toNat ++
      bitsList 9 (if dir = 0 then (s.port p k).txBad else (s.port p k).rxBad).toNat).map (base + ·)
    let failed := (t.lanesBad.filter (fun x => x.1 == k && x.2.1 == dir && decide (x.2.2 < 9))).map (fun x => base + x.2.2)
    let bad : BitVec 9 := (fused ++ known ++ failed).foldl (fun b u => b ||| (1 <<< (u % 16))) 0
    (unite 2 p fused known failed).seq
      (modPort p k (fun x => if dir = 0 then { x with txBad := bad, txMap := laneMap bad } else { x with rxBad := bad, rxMap := laneMap bad }))

/-- Stage 4 starts on a port (R478, R493): its domain comes ON, lanes fused or carried are out of service, and a port that is DOWN trains. -/
def startPort (p k : Nat) : Act := Act.all [
  domainUp (domX p k), modPort p k (fun x => { x with reported := false }),
  .ask fun s => Act.when (s.rd (pk .LNK_STATUS_STATE p k) == 0) (linkReturns (domX p k))]

/-- A port has its training behind it, or has no far end to train with: it is DOWN, in DETECT, carrying blocks or retired. -/
def State.portSettled (s : State) (p k : Nat) : Bool :=
  let st := s.rd (pk .LNK_STATUS_STATE p k)
  st < 2 || 7 ≤ st

/-- Stage 4 ends on a port: the lanes that failed are out of service too, and a direction of fewer than eight retires it. -/
def stagePort (p k : Nat) (t : PileTest) : Act := Act.all [
  stageLanes p k 0 t, stageLanes p k 1 t,
  .ask fun s =>
    if s.rd (pk .LNK_STATUS_STATE p k) = 10 then .done
    else if (s.port p k).txMap.length < 8 ∨ (s.port p k).rxMap.length < 8 then tooFewLanes p k
    else showMaps p k]

/-- Stage 5 on a pile (R14, R484, R492, R493): tiles that are good, the logical map, the spare in RET, the others OFF. -/
def stageTiles (p : Nat) (t : PileTest) : Act :=
  .ask fun s =>
    let fused := unitsOf s.fused 1 p
    let known := unitsOf s.boot.carried 1 p ++ bitsList 9 (s.pile p).flt.badTiles.toNat
    let failed := bitsList 9 t.badTiles.toNat
    let bad := (fused ++ known ++ failed).filter (· < 9)
    let good := (List.range 9).filter (fun i => !bad.contains i)
    Act.all [
      unite 1 p fused known failed,
      modFlt p (fun f => { f with badTiles := bad.foldl (fun b i => b ||| (1 <<< i)) 0, spare := good[8]? }),
      emit (.dropSram (lsAddr p 0 0) (9 * lsLines)), clearBuf p,
      Act.each (List.range 9) (fun i =>
        if bad.contains i then Act.all [setR (pk .FLT_TILE_RETIRED p i) 1, setR (dk .PWR_STATE_STATE (domTile p i)) 2,
          setR (pHeld (domTile p i)) 1]
        else (domainUp (domTile p i)).seq (Act.when (good[8]? == some i) (setR (dk .PWR_STATE_STATE (domTile p i)) 1))),
      (if good.length < 8 then unusable p
       else setR (pk .FLT_STATUS_MAP p) (((good.take 8).mapIdx (fun i g => g * 16 ^ i)).sum)),
      setR (pk .FLT_STATUS_BLOCK_CHECKING p) 0]

/-! ## BRINGUP (R474) -/

/-- The samples of an ageing domain in a record, the last 90 (R406, R407). -/
def carriedAges (rec' : List Nat) (d : Nat) : List AgeSample :=
  let xs := (Config.waxAges (waxSectionOf rec' 6) d).map (fun x => (⟨x.1, x.2.1, x.2.2⟩ : AgeSample))
  xs.drop (xs.length - 90)

/-- Begin with a record's bytes, none where no record was supplied. Sections 1 to 4 count only from a valid record,
sections 5 and 6 from any authenticated one; histories are taken at boot, not by a second BRINGUP (R407, R488; log 45). -/
def startBringup (r : Req) (flags : BitVec 32) (rec' : List Nat) : Act :=
  tickClocks.seq <| .ask fun s =>
    let auth := waxAuthentic rec'
    let valid := auth && s.waxUsable rec'
    let cold := !valid || flags.getLsbD 0
    let new := if auth then s.waxProposals rec' else []
    let carried := s.boot.carried ++ new.map Proposal.entry
    let weak := if valid then Config.waxRows (waxSectionOf rec' 4) else []
    let rows := weak.map (fun x => (x / dramLines % 16, rowOf (x % dramLines))) ++
      allPiles.flatMap (fun p => (unitsOf (s.fused ++ carried) 3 p).map (fun u => (p, unitRow u)))
    Act.all [
      setB (dk .BR_STATUS_WAX_AUTH) auth, setB (dk .BR_STATUS_WAX_VALID) valid,
      setR (dk .BR_STATUS_DISCREP) 0, setR (dk .BR_STATUS_UNUSABLE) 0, setR (dk .BR_STATUS_STAGE) 2,
      modBoot (fun b => { b with
        run := some { req := r, flags := flags, cold := cold, piles := if cold then BitVec.allOnes 16 else 0, rows := rows }
        carried := carried, discreps := 0
        charTime := if valid then atLE rec' 32 8 else b.charTime
        proposals := b.proposals ++ new.filter (fun q => !b.proposals.any (fun y => y.entry == q.entry)) }),
      Act.when valid (Act.all [
        Act.each weak (fun x => modMem (x / dramLines % 16) (fun m => { m with weak := m.weak ++ [rowOf (x % dramLines)] })),
        Act.each (List.range 64) (fun b => modBridge (b / 4) (b % 4) (fun x => { x with
          used := (List.range 28).foldl (fun u g => SMap.put 0 u g (Config.waxWires (waxSectionOf rec' 2) (b * 28 + g) % 5)) [] }))]),
      (if auth then Act.when (s.rd (dk .BR_STATUS_STAGE) == 1) ((modPwr (fun w => { w with
          age := (List.range 193).foldl (fun a d => SMap.put [] a d
            (carriedAges rec' d)) []
          charge := Config.waxCharge (waxSectionOf rec' 6) })).seq (Act.each (List.range 193) fun d =>
            let n := (carriedAges rec' d).length
            (setR (dk .AGE_EOL_SAMPLES d) n).seq (Act.when (agesEnough d n) (setR (dk .AGE_EOL_VALID d) 1))))
       else Act.when (s.rd (dk .BR_STATUS_STAGE) == 1) (Act.each (List.range 193) (fun d => setR (dk .AGE_EOL_HISTORY_LOST d) 1)))]

/-- The record of a BRINGUP has arrived; a bring-up that began meanwhile stands in its way. -/
def waxArrived (r : Req) (flags : BitVec 32) (lines : List Line) : Act :=
  .ask fun s => if s.boot.run.isSome then reply r stBusy
    else startBringup r flags (lines.flatMap (fun l => bytesLE 128 l.body.toNat))

def actBringup (m : LiftMsg) (xfer : Nat) (flags : BitVec 32) : Act :=
  request m (.bringup m xfer flags) (some 8) fun r => .ask fun s =>
    let no (st d : Nat) : Act := if xfer = 0 then reply r st d else refuseXfer r xfer 0 (.wax flags) st d
    if s.jobState ≠ jsNone ∨ !s.on (dk .SEC_STATUS_BUNDLE_OK) then no stWrongState s.jobState
    else if s.boot.run.isSome then no stBusy 0
    else if 3 < flags.toNat then no stBadParam 4
    else if xfer = 0 then startBringup r flags []
    else openXfer r xfer 0 0 (.wax flags)

/-! ## Relay (R478, R479) -/

/-- A bundle line on its way between devices: its index, the bundle's length and the round in its tag. -/
def relayOf (n : Nat) (round : Nat) (i : Nat) (l : Line) : Line :=
  mkLine l.body.toNat (0xF0 * 2 ^ 24 + i * 2 ^ 32 + n * 2 ^ 64 + round * 2 ^ 96) false

/-- The whole bundle sent twice, in line order. -/
def relayBundle : Act :=
  .ask fun s => Act.each [0, 1] (fun round =>
    Act.all (s.sec.bundle.mapIdx (fun i l => send (.relay (relayOf s.sec.bundle.length round i l)))))

/-- A relayed line reaches the hub while the boot ROM waits for a bundle: the first good copy of an index is kept and
forwarded, and the whole bundle verified (R477). The first line fixes the length (log 46). -/
def actRelayLine (l : Line) (empty : Bool) : Act :=
  .ask fun s =>
    let i := l.tag.toNat / 2 ^ 32 % 2 ^ 32
    let n := l.tag.toNat / 2 ^ 64 % 2 ^ 32
    let len := if s.boot.relay.isEmpty then n else s.boot.relayLen
    if !s.ready 1 || !s.boot.stage1 || s.on (dk .SEC_STATUS_BUNDLE_OK) || empty || l.poison || !lineCheckOk l then .done
    else if n ≠ len ∨ len ≤ i ∨ bundleMax / 128 < n ∨ (SMap.find? s.boot.relay i).isSome then .done
    else Act.all [
      modBoot (fun b => { b with relay := SMap.set b.relay i (some l), relayLen := len }),
      send (.relay l),
      .ask fun t =>
        if t.boot.relay.length < len then .done
        else
          let ls := t.boot.relay.map (fun kv => (⟨kv.2.body, rawTag kv.2.body, false⟩ : Line))
          let bs := bundleBytes ls (128 * len)
          let b := oroBundleOf (bs.take (atLE bs 16 8))
          (modBoot (fun x => { x with relay := [], relayLen := 0 })).seq
            (Act.when (t.bundleRefusal b).isNone ((setR (dk .BR_STATUS_RELAYED) 1).seq (acceptBundle b ls none)))]

def execRelayLine (l : Line) (empty : Bool) (s : State) : Host.Outcome State Fault Refusal := (actRelayLine l empty).answer s

/-! ## The end of a stage -/

def modRun (f : BringRun → BringRun) : Act := modBoot (fun b => { b with run := b.run.map f })

/-- Go on to a stage: 0 to 6 stand for 2, 3a, 3b, 3c, 3d, 4, 5; BR_STATUS shows 3 for 3a, 3b and 3d, and 6 for 3c (R497). -/
def toStage (n : Nat) : Act :=
  (modRun (fun x => { x with stage := n })).seq (setR (dk .BR_STATUS_STAGE) ([2, 3, 3, 6, 3, 4, 5].getD n 7))

/-- Bring-up has ended: the record is composed and BRINGUP answered. -/
def endBringup (x : BringRun) : Act := Act.all [
  modBoot (fun b => { b with run := none, recorded := true }), setR (dk .BR_STATUS_STAGE) 7, tickClocks, waxDirty,
  .ask fun s => reply x.req stOk s.boot.discreps]

/-- What the end of each stage leaves. Stage 4 ends once every port has settled (R473). -/
def stageEnd (x : BringRun) (tests : List PileTest) : Act :=
  let t (p : Nat) : PileTest := tests.getD p {}
  match x.stage with
  | 0 => (Act.ask fun s => stageTwo (s.on (dk .BR_STATUS_WAX_VALID))).seq (toStage 1)
  | 1 => Act.all [
      Act.each allPiles (fun p => Act.all [
        domainUp (domMem p), Act.when (t p).memBad (unusable p), setR (pk .FLT_STATUS_BLOCK_CHECKING p) 1]),
      modRun (fun y => { y with piles := allPiles.foldl (fun b p => if (t p).restoreBad then b ||| (1 <<< p) else b) y.piles }),
      toStage 2]
  | 2 => Act.all [
      Act.each allPiles (fun p => stageTsv p (t p) ((x.rows.filter (fun r => r.1 == p)).map Prod.snd)),
      toStage (if x.piles = 0 then 4 else 3)]
  | 3 => Act.all [
      Act.each (allPiles.filter (fun p => x.piles.getLsbD p)) (fun p => stageChar p (t p)),
      Act.when x.cold (tickClocks.seq (.ask fun s => modBoot (fun b => { b with charTime := s.rd (dk .BR_TIME) }))),
      toStage 4]
  | 4 => Act.all [
      Act.each allPiles (fun p => stageMarch p (t p)), toStage 5,
      Act.each allPiles (fun p => (startPort p 0).seq (startPort p 1))]
  | 5 => .ask fun s => Act.when (allPiles.all (fun p => s.portSettled p 0 && s.portSettled p 1)) <| Act.all [
      Act.each allPiles (fun p => (stagePort p 0 (t p)).seq (stagePort p 1 (t p))),
      Act.when (x.flags.getLsbD 1) relayBundle, toStage 6]
  | _ => (Act.each allPiles (fun p => stageTiles p (t p))).seq (endBringup x)

/-- BRINGUP_STAGE_END: stage 1 of the boot ROM, or the running stage of BRINGUP, has ended on every pile. -/
def actBringupStageEnd (tests : List PileTest) : Act :=
  .ask fun s =>
    if !s.boot.stage1 then endStage1
    else match s.boot.run with
      | some x => stageEnd x tests
      | none => .done

def execBringupStageEnd (tests : List PileTest) (s : State) : Host.Outcome State Fault Refusal :=
  (actBringupStageEnd tests).answer s

/-! ## DEVICE_RESET, HUB_FAULT -/

/-- The reply goes out, then the hub and every pile reset and the boot ROM starts; a burn in progress ends first (R534). -/
def actDeviceReset (m : LiftMsg) : Act :=
  request m (.deviceReset m) (some 0) fun r => inStates r [jsNone, jsLoaded, jsHalted, jsStopped] ((reply r stOk).seq (.ask fun s =>
    if s.sec.burns.isEmpty then startStage1 else modSec (fun x => { x with resetDue := true })))

/-- The hub has failed for good: the device leaves its timing domain at the next gate (R19). -/
def execHubFault (s : State) : Host.Outcome State Fault Refusal :=
  ((modBoot (fun b => { b with failed := true })).seq (modJob (fun j => { j with stopNext := true }))).answer s

end Sys2Proof.Machine
end

