-- ==== Sys2Proof/Machine/Image.lean ====
section
/-! DEFINITION. The schedule image as its bytes spell it, every field little-endian (R3): header and directory (R172, R173), the phase
table (R177), buffer and reduction declarations (R174, R296, R297, R390), switch descriptors (R222), the update tables (R328, R330),
the expert directory (R273-R276), trackers (R85) and power plans (R507). -/

namespace Sys2Proof.Machine

/-- k records of n bytes each, one after another. -/
def records (n : Nat) : Nat → List Nat → List (List Nat)
  | 0, _ => []
  | k + 1, bs => bs.take n :: records n k (bs.drop n)

/-- A signed field of n bytes. -/
def intLE (bs : List Nat) (off n : Nat) : Int := signedOf (8 * n) (atLE bs off n)

/-- The FP32 value of a field. -/
def wordLE (bs : List Nat) (off : Nat) : Word := BitVec.ofNat 32 (atLE bs off 4)

/-- A SPACE byte names a space. -/
def spaceOk (bs : List Nat) (off : Nat) : Bool := decide (atLE bs off 1 % 16 < 3)

/-! ## Header, directory and phase table (R172, R173, R177) -/

/-- The section directory. -/
def directoryOf (bs : List Nat) : List SectionEntry :=
  (records 16 16 (bs.drop 160)).map (fun r => ⟨atLE r 0 6, atLE r 6 6, atLE r 12 2⟩)

/-- The bytes of the section of a type. -/
def sectionOf (bs : List Nat) (t : Nat) : List Nat := match (directoryOf bs).find? (fun e => e.type == t) with
  | some e => (bs.drop e.offset).take e.size
  | none => []

/-- A phase table entry. -/
def phaseOf (r : List Nat) : PhaseEntry :=
  { length := atLE r 0 4, lastSlot := atLE r 4 4, slack := atLE r 8 4, page := atLE r 12 1
    finish := (atLE r 13 1).testBit 0, readsInput := (atLE r 13 1).testBit 1, reduce := (atLE r 13 1).testBit 2
    head := (atLE r 13 1).testBit 3, powerPlan := atLE r 14 2, refFirst := atLE r 16 4, refPeriod := atLE r 20 4
    refWidth := atLE r 24 2, loopParam := atLE r 26 1, loopLen := atLE r 27 1 }

/-! ## Declarations (R174) -/

/-- An entry of the table directory. -/
structure DeclTable where
  kind   : Nat
  esize  : Nat
  count  : Nat
  offset : Nat
  clean  : Bool
  deriving DecidableEq, Repr

def declTables (sec : List Nat) : List DeclTable :=
  (records 16 (atLE sec 0 2) (sec.drop 16)).map (fun r => ⟨atLE r 0 2, atLE r 2 2, atLE r 4 4, atLE r 8 4, allZero r 12 4⟩)

/-- The entries of the table of a kind; none where it is left out. -/
def declEntries (sec : List Nat) (kind : Nat) : List (List Nat) := match (declTables sec).find? (fun t => t.kind == kind) with
  | some t => records t.esize t.count (sec.drop t.offset)
  | none => []

/-- ENTRY_SIZE of a kind. -/
def declSize (kind : Nat) : Nat := if kind = 4 then 48 else if kind = 7 ∨ kind = 8 then 16 else 32

def bufferOf (kind : Nat) (r : List Nat) : BufferEntry :=
  { kind := kind, id := atLE r 0 4, pile := atLE r 4 1, space := spaceOf (atLE r 5 1 % 16), tile := atLE r 5 1 / 16
    firstLine := atLE r 8 4, lines := atLE r 12 4, bankStride := intLE r 16 4 }

def objectOf (r : List Nat) : ObjectEntry :=
  { name := BitVec.ofNat 128 (atLE r 0 16), pile := atLE r 16 1, space := spaceOf (atLE r 17 1 % 16), tile := atLE r 17 1 / 16
    part := atLE r 18 2, firstLine := atLE r 20 4, lines := atLE r 24 4, bankStride := intLE r 28 4, bytes := atLE r 32 8 }

def bucketFrom (r : List Nat) : Bucket :=
  let m := atLE r 7 1
  { id := atLE r 0 4, ownerDev := atLE r 4 2, ownerPile := atLE r 6 1, comp := m % 4, topkF := m / 4 % 16, noise := m.testBit 6
    blocks := atLE r 8 2, tracker := atLE r 10 2, contrib := atLE r 12 4, gradTid := atLE r 16 4
    accSpace := spaceOf (atLE r 20 1), accLine := atLE r 24 4, outLine := atLE r 28 4 }

/-- A contribution entry; the layout names no pile, and it comes beside (log 16). -/
def contribFrom (r : List Nat) (pile : Nat) : Contribution :=
  { bucket := atLE r 0 4, index := atLE r 4 4, pile := pile, gLine := atLE r 8 4, resLine := atLE r 12 4, pktLine := atLE r 16 4 }

def dualOf (r : List Nat) : DualPair :=
  { phaseEntry := atLE r 0 2, tileA := atLE r 2 1 % 16, unitA := atLE r 2 1 / 16 % 4, tileB := atLE r 3 1 % 16
    unitB := atLE r 3 1 / 16 % 4, firstSeq := atLE r 4 2, count := atLE r 6 2, pile := atLE r 8 1 }

def gatherOf (r : List Nat) : GatherDecl :=
  { shard := atLE r 0 4, copy := atLE r 4 1, pile := atLE r 5 1, page := atLE r 6 1, desc := atLE r 8 4 }

def fusedOf (r : List Nat) : FusedDecl :=
  { samplesPerMb := atLE r 0 4, mbParam := atLE r 4 1, fusedLine := atLE r 8 4, recordLine := atLE r 12 4 }

/-- ASCII, zero-padded (R174). -/
def nameOk (bs : List Nat) : Bool := bs.all (fun b => decide (b < 128)) && (bs.dropWhile (· != 0)).all (· == 0)

/-- The zero bytes, reserved bits and space codes of an entry of a kind, and an object's name. -/
def declClean (kind : Nat) (r : List Nat) : Bool :=
  if kind ≤ 3 then spaceOk r 5 && allZero r 6 2 && allZero r 20 12
  else if kind = 4 then nameOk (r.take 16) && spaceOk r 17 && allZero r 40 8
  else if kind = 5 then decide (atLE r 20 1 < 2) && decide (atLE r 7 1 < 128) && allZero r 21 3
  else if kind = 6 then allZero r 20 12
  else if kind = 7 then decide (atLE r 2 1 < 64 ∧ atLE r 3 1 < 64) && allZero r 9 7
  else if kind = 8 then allZero r 7 1 && allZero r 12 4
  else allZero r 5 3 && allZero r 16 16

/-- Pairs of a list, each once. -/
def pairsOf {α : Type} : List α → List (α × α)
  | [] => []
  | a :: r => r.map (fun b => (a, b)) ++ pairsOf r

/-- Where a table ends. -/
def DeclTable.finish (t : DeclTable) : Nat := t.offset + t.esize * t.count

/-- Section 0x0005 keeps the layout of R174: header, table entries each of its own kind and size, tables in increasing KIND after the
directory and within the section, and clean entries. -/
def declLayoutOk (sec : List Nat) : Bool :=
  let ts := declTables sec
  decide (1 ≤ atLE sec 0 2 ∧ atLE sec 0 2 ≤ 9 ∧ 16 + 16 * atLE sec 0 2 ≤ sec.length) && allZero sec 2 14 &&
  ts.all (fun t => t.clean && t.esize == declSize t.kind &&
    decide (1 ≤ t.kind ∧ t.kind ≤ 9 ∧ 1 ≤ t.count ∧ (t.kind = 9 → t.count = 1) ∧ 16 + 16 * ts.length ≤ t.offset ∧
      t.finish ≤ sec.length) && (declEntries sec t.kind).all (declClean t.kind)) &&
  (pairsOf ts).all (fun q => decide (q.1.kind < q.2.kind ∧ q.1.finish ≤ q.2.offset ∨ q.2.kind < q.1.kind ∧ q.2.finish ≤ q.1.offset))

/-! ## Switch descriptors (R222) -/

/-- A switch descriptor from its 32 bytes. -/
def swDescOf (w : BitVec 256) : SwDesc :=
  let r := bytesLE 32 w.toNat
  { receive := (atLE r 0 1).testBit 0, check := (atLE r 0 1).testBit 1, emptyFill := (atLE r 0 1).testBit 2
    fillFmt := atLE r 0 1 / 16, way := atLE r 1 1, space := spaceOf (atLE r 2 1 % 16), tile := atLE r 2 1 / 16
    condKind := atLE r 3 1 % 4, condTile := atLE r 4 1 % 16, condN := atLE r 4 1 / 16, idxTile := atLE r 5 1 % 16
    condValue := atLE r 6 2, firstSlot := atLE r 8 4, slotStride := atLE r 12 2, count := atLE r 14 2
    line := atLE r 16 4, lineStride := intLE r 20 4, iterStride := intLE r 24 3, bankStride := intLE r 27 3
    indexLine := atLE r 30 2 }

/-- The SPACE byte of a descriptor names a space. -/
def swDescSpaceOk (w : BitVec 256) : Bool := spaceOk (bytesLE 32 w.toNat) 2

/-! ## Update tables (R328, R330) -/

def layerOf (r : List Nat) : LayerRec :=
  { layerId := atLE r 0 4, rule := atLE r 4 1, nesterov := (atLE r 5 1).testBit 0, trans := (atLE r 5 1).testBit 1
    nsIters := atLE r 6 1, copyFwd := atLE r 7 1 / 16, copyBwd := atLE r 7 1 % 16, lrSched := atLE r 8 2, wdSched := atLE r 10 2
    b1Sched := atLE r 12 2, b2Sched := atLE r 14 2, eps := wordLE r 16, lrScale := wordLE r 20, ruleK := wordLE r 24
    nsA := wordLE r 28, nsB := wordLE r 32, nsC := wordLE r 36, g2Sum := atLE r 40 2, w2Sum := atLE r 42 2, u2Sum := atLE r 44 2
    encIdx := atLE r 46 2, rows := atLE r 48 4, cols := atLE r 52 4, shardIdx := atLE r 56 4, shards := atLE r 60 2 }

def shardOf (r : List Nat) : ShardRec :=
  { id := atLE r 0 4, firstBlock := atLE r 4 4, blocks := atLE r 8 4, stateLine := atLE r 12 4, vstride := atLE r 16 4
    gLine := atLE r 20 4, ownerDev := atLE r 24 2, ownerPile := atLE r 26 1 }

/-- A schedule from its directory entry and the section. -/
def scheduleOf (sec r : List Nat) : Schedule :=
  let n := atLE r 4 4
  let data := sec.drop (atLE r 8 4)
  if atLE r 0 1 = 0 then .const (wordLE r 12)
  else if atLE r 0 1 = 1 then .pwl ((records 12 n data).map (fun x => (atLE x 0 8, wordLE x 8)))
  else .table (atLE data 0 8) ((records 4 n (data.drop 8)).map (fun x => wordLE x 0))

/-- Bytes of the data that a directory entry names in the section. -/
def scheduleBytes (r : List Nat) : Nat :=
  if atLE r 0 1 = 0 then 0 else if atLE r 0 1 = 1 then 12 * atLE r 4 4 else 8 + 4 * atLE r 4 4

/-- The largest of some numbers. -/
def maxOf (ns : List Nat) : Nat := ns.foldl max 0

/-- The schedule directory, layer records, shard entries and encode descriptors as bytes; shard entries and descriptors as many as the
layers name. -/
def updateScheds (sec : List Nat) : List (List Nat) := records 16 (atLE sec 6 2) (sec.drop (atLE sec 12 4))
def updateLayers (sec : List Nat) : List (List Nat) := records 64 (atLE sec 0 2) (sec.drop 64)
def updateShardCount (sec : List Nat) : Nat := maxOf ((updateLayers sec).map (fun r => atLE r 56 4 + atLE r 60 2))
def updateShards (sec : List Nat) : List (List Nat) := records 32 (updateShardCount sec) (sec.drop (atLE sec 16 4))
def updateEncCount (sec : List Nat) : Nat := maxOf ((updateLayers sec).map (fun r => atLE r 46 2 + 4))
def updateEncs (sec : List Nat) : List (List Nat) := records 8 (updateEncCount sec) (sec.drop (atLE sec 20 4))

def updateTablesOf (sec : List Nat) : UpdateTables :=
  { clipMode := atLE sec 2 1, clipSched := atLE sec 4 2, sums := atLE sec 8 4
    schedules := (updateScheds sec).map (scheduleOf sec), layers := (updateLayers sec).map layerOf
    shards := (updateShards sec).map shardOf, encs := (updateEncs sec).map (fun r => encOf (atLE r 0 8) 0) }

/-- Section 0x0006 holds every table that it names, with the reserved fields zero (R328-R330). -/
def updateLayoutOk (sec : List Nat) : Bool :=
  decide (64 + 64 * atLE sec 0 2 ≤ sec.length ∧ atLE sec 12 4 + 16 * atLE sec 6 2 ≤ sec.length ∧
    atLE sec 16 4 + 32 * updateShardCount sec ≤ sec.length ∧ atLE sec 20 4 + 8 * updateEncCount sec ≤ sec.length) &&
  allZero sec 3 1 && allZero sec 24 40 &&
  (updateLayers sec).all (fun r => decide (atLE r 5 1 < 4) && allZero r 62 2) &&
  (updateShards sec).all (fun r => allZero r 27 5) &&
  (updateEncs sec).all (fun r => decide (atLE r 0 2 % 1024 = 0)) &&
  (updateScheds sec).all (fun r => decide (atLE r 0 1 < 3) && allZero r 1 3 && decide (atLE r 8 4 + scheduleBytes r ≤ sec.length))

/-! ## Expert directory (R273-R276) -/

def expertLayerOf (r : List Nat) : ExpertLayer :=
  let n := atLE r 10 2
  { layer := atLE r 0 2, experts := atLE r 2 2, topK := atLE r 4 1, second := (atLE r 5 1).testBit 0, weighting := atLE r 5 1 / 2 % 4
    gFp32 := (atLE r 5 1).testBit 3, capacity := atLE r 6 2, srcCount := atLE r 8 2, tokens := if n = 0 then 65536 else n
    entryFirst := atLE r 12 4, srcFirst := atLE r 16 4 }

def expertEntryOf (r : List Nat) : ExpertEntry :=
  let w := atLE r 0 8
  { device := w / 2 ^ 52, pile := w / 2 ^ 48 % 16, tileFirst := w / 2 ^ 45 % 8, tileCount := w / 2 ^ 41 % 16, slab := w / 2 ^ 32 % 512 }

def expertLayers (sec : List Nat) : List (List Nat) := records 32 (atLE sec 0 2) (sec.drop 32)
def expertEntries (sec : List Nat) : List (List Nat) := records 8 (atLE sec 4 4) (sec.drop (32 + 32 * atLE sec 0 2))
def expertSources (sec : List Nat) : List (List Nat) :=
  records 2 (atLE sec 8 4) (sec.drop (32 + 32 * atLE sec 0 2 + 8 * atLE sec 4 4))

def expertDirOf (sec : List Nat) : ExpertDir :=
  { layers := (expertLayers sec).map expertLayerOf, entries := (expertEntries sec).map expertEntryOf
    sources := (expertSources sec).map (fun r => atLE r 0 2) }

/-- Section 0x0007 holds what its header counts, with the reserved fields zero (R273-R277). A directory of no layers is that of a job
without such layers: R277 refuses by the ranges of R274 and R275 (log 16). -/
def expertLayoutOk (sec : List Nat) : Bool :=
  decide (atLE sec 0 2 ≤ 1024 ∧ 32 + 32 * atLE sec 0 2 + 8 * atLE sec 4 4 + 2 * atLE sec 8 4 ≤ sec.length) && allZero sec 2 2 &&
  allZero sec 12 20 && (expertLayers sec).all (fun r => decide (atLE r 5 1 < 16) && allZero r 20 12) &&
  (expertEntries sec).all (fun r => allZero r 0 4)

/-! ## Power plans (R507) -/

/-- The plans of section 0x000A in index order, one after another (log 16). -/
def plansFrom : Nat → Nat → List Nat → List PowerPlan
  | 0, _, _ => []
  | fuel + 1, i, bs =>
    if bs.length < 8 then []
    else
      let n := atLE bs 0 2
      { index := i, startA := atLE bs 4 4, entries := (records 4 n (bs.drop 8)).map (fun r => (atLE r 0 2, atLE r 2 1)) } ::
        plansFrom fuel (i + 1) (bs.drop (8 + 4 * n))

def plansOf (sec : List Nat) : List PowerPlan := plansFrom sec.length 0 sec

/-! ## The image -/

/-- The image that bytes spell, with the parts that come beside. -/
def imageOf (x : ImageParts) (bs : List Nat) : Image :=
  let phase := sectionOf bs 4
  let decl := sectionOf bs 5
  { magic := BitVec.ofNat 64 (atLE bs 0 8), format := atLE bs 8 2, device := atLE bs 10 2, domainSize := atLE bs 12 2
    timingRoot := atLE bs 14 2, jobId := BitVec.ofNat 128 (atLE bs 16 16), phaseEntries := atLE bs 32 2, pages := atLE bs 34 1
    head := (atLE bs 35 1).testBit 0, hostInput := (atLE bs 35 1).testBit 1, pileMask := BitVec.ofNat 16 (atLE bs 36 2)
    nTrackers := atLE bs 38 2, paramMax := (records 4 16 (bs.drop 40)).map (fun r => atLE r 0 4)
    linkLat := (bs.drop 104).take 32, gateUp := atLE bs 136 4, gateDown := atLE bs 140 4, gateGuard := atLE bs 144 4
    sections := directoryOf bs, hash := BitVec.ofNat 512 (atLE bs 448 64)
    programs := x.programs, pageImgs := x.pageImgs
    descLists := x.descLists.map (fun d => ⟨d.pile, d.page, d.words.map swDescOf⟩)
    paramInit := (records 4 16 phase).map (fun r => atLE r 0 4)
    phases := (records 32 (atLE bs 32 2) (phase.drop 64)).map phaseOf
    buffers := [1, 2, 3].flatMap (fun k => (declEntries decl k).map (bufferOf k))
    objects := (declEntries decl 4).map objectOf, buckets := (declEntries decl 5).map bucketFrom
    contribs := (declEntries decl 6).mapIdx (fun n r => contribFrom r (x.contribPiles.getD n 16))
    duals := (declEntries decl 7).map dualOf, gathers := (declEntries decl 8).map gatherOf
    fused := (declEntries decl 9).head?.map fusedOf, update := updateTablesOf (sectionOf bs 6)
    experts := expertDirOf (sectionOf bs 7), trackers := (records 256 (atLE bs 38 2) (sectionOf bs 8)).map trackerOf
    trackerLines := x.trackerLines, constants := x.constants, plans := plansOf (sectionOf bs 10) }

/-- The bytes hold the header, the phase table and the trackers whole, and section 0x0005 keeps its layout (R172-R174, R177). -/
def layoutOk (bs : List Nat) : Bool :=
  decide (512 ≤ bs.length ∧ 64 + 32 * atLE bs 32 2 ≤ (sectionOf bs 4).length ∧ 256 * atLE bs 38 2 ≤ (sectionOf bs 8).length) &&
  declLayoutOk (sectionOf bs 5)

end Sys2Proof.Machine
end

