-- ==== Sys2Proof/Machine/RueMath.lean ====
section
/-! DEFINITION. What the reduction and update engine computes (chapters 11 and 12): packets, accumulators and readout,
schedules, clipping, the update rules, and orthogonalisation. -/

namespace Sys2Proof.Machine

/-! ## FP32 arithmetic on numbers (R333) -/

/-- A number rounded to FP32. -/
def n32 (x : FNum) : FNum := num32 (rnd32 x)

/-- One rounding after the exact product and sum. -/
def fmaN (a b c : FNum) : FNum := n32 ((a.mul b).add c)
def mulN (a b : FNum) : FNum := n32 (a.mul b)
def addN (a b : FNum) : FNum := n32 (a.add b)
def subN (a b : FNum) : FNum := n32 (a.sub b)

/-- A correctly rounded quotient under the rules of IEEE 754. -/
def divN (a b : FNum) : FNum := match a, b with
  | .nan, _ => .nan
  | _, .nan => .nan
  | .inf _, .inf _ => .nan
  | .inf x, .fin y => .inf (x ^^ y.neg)
  | .fin x, .inf y => .fin (Dy.zero (x.neg ^^ y))
  | .fin x, .fin y =>
    if y.isZero then (if x.isZero then .nan else .inf (x.neg ^^ y.neg))
    else num32 (ratRound32 (x.neg ^^ y.neg) x.mag y.mag (x.exp - y.exp))

/-- A correctly rounded square root. -/
def sqrtN (a : FNum) : FNum := match a with
  | .nan => .nan
  | .inf neg => if neg then .nan else .inf false
  | .fin x => if x.isZero then a else if x.neg then .nan else n32 (.fin x.sqrt)

def oneN : FNum := .fin ⟨false, 1, 0⟩
def zeroN : FNum := .fin (Dy.zero false)

/-- a <= b; false when either is NaN. -/
def FNum.le (a b : FNum) : Bool := a.lt b || a.eqv b

/-! ## Packets (R299-R304) -/

/-- Lines of a bucket's packet without its trailer. -/
def packetLines (b : Bucket) : Nat :=
  if b.comp = 0 then 8 * b.blocks
  else if b.comp = 1 then ((256 * b.blocks + 2 ^ b.topkF - 1) / 2 ^ b.topkF + 24) / 25
  else (b.blocks + 2) / 3

/-- Pairs that a TOPK packet carries. -/
def topkPairs (b : Bucket) : Nat := (256 * b.blocks + 2 ^ b.topkF - 1) / 2 ^ b.topkF

/-- The trailer line. -/
def trailerLine (b : Bucket) (c step : Nat) (norm : Wide) (absmax nonfin : Nat) : Line :=
  rawLine (ofLE (bytesLE 4 b.id ++ bytesLE 4 c ++ bytesLE 8 step ++ wideBytes norm ++ bytesLE 4 absmax ++ bytesLE 4 nonfin))

/-- What a compression leaves: the packet's lines without trailer, the new residual, and its health counts. -/
structure Packet where
  lines    : List Line
  residual : List FNum
  counts   : XoCounts
  deriving DecidableEq, Repr

/-- FP32 lines of numbers that FP32 holds exactly, such as a READOUT's rounded sums: FLUSHED stays clear (DESIGN CHOICE, log 123). -/
def fp32Lines (vals : List FNum) (poison : Bool) : List Line :=
  (chunks 256 vals vals.length).flatMap (fun b => layPlain 2 (b.map (fun v => ⟨(fp32Exact v).bits, false, false⟩)) poison)

/-- The counts of R304 that every form makes. -/
def baseCounts (v : List FNum) : XoCounts :=
  { elements := v.length, zero := (v.filter FNum.isZero).length, nonfin := (v.filter (fun x => !x.finite)).length
    absmax := absMaxOf v }

/-- The selection key of R301. -/
def topkKey (x : FNum) : Nat := (fp32Exact x.abs).bits

/-- Whether element x is among the k largest keys, lower index first among equals. -/
def topkPicks (keys : List Nat) (k x : Nat) : Bool :=
  let mine := keys.getD x 0
  decide (((keys.mapIdx (fun y q => decide (mine < q ∨ (q = mine ∧ y < x)))).filter id).length < k)

/-- TOPK (R301). `draw` gives element x its random value. -/
def packTopk (b : Bucket) (v : List FNum) (draw : Nat → Nat) : Packet :=
  let keys := v.map topkKey
  let q := v.mapIdx (fun x e => (topkPicks keys (topkPairs b) x, bf16.packNum (.stoch (draw x)) true e))
  let pairs := (q.mapIdx (fun x r => (x, r.1, r.2.bits))).filter (fun p => p.2.1)
  let sel := (q.filter (fun r => r.1)).map Prod.snd
  let sat := (sel.filter FpOut.ovf).length
  let fl := (sel.filter FpOut.flush).length
  ⟨(chunks 25 pairs pairs.length).map (fun g => rawLine (ofLE (
     (g.flatMap (fun p => bytesLE 3 p.1 ++ bytesLE 2 p.2.2)) ++
     (List.replicate (25 - g.length) [0xFF, 0xFF, 0xFF, 0, 0]).flatten ++ [g.length]))),
   List.zipWith (fun e (r : Bool × FpOut) => if r.1 then subN e (bf16.decode r.2.bits) else e) v q,
   { baseCounts v with sat := sat, flush := fl, seen := (if sat > 0 then 2 else 0) + (if fl > 0 then 4 else 0) }⟩

/-- The sign bit of a number (R302): a negative zero's is 1. -/
def signBit (x : FNum) : Nat := if x.neg? then 1 else 0

/-- A SIGN block's scale: the mean magnitude, formed in the wide form and rounded to BF16. -/
def signScale (blk : List FNum) : FpOut :=
  match wideRound (exactSum (blk.map FNum.abs)) with
  | .fin d => bf16.pack .rne true ⟨d.neg, d.mag, d.exp - 8⟩
  | x => bf16.packNum .rne true x

/-- SIGN (R302). -/
def packSign (v : List FNum) : Packet :=
  let blks := chunks 256 v v.length
  let fs := blks.map (fun blk => (blk.map signBit, signScale blk))
  let sat := 256 * (fs.filter (fun f => f.2.ovf)).length
  let fl := 256 * (fs.filter (fun f => f.2.flush)).length
  let bits (ss : List Nat) : List Nat := (chunks 8 ss ss.length).map (fun g => g.foldr (fun s a => s + 2 * a) 0)
  ⟨(chunks 3 fs fs.length).map (fun g => rawLine (ofLE (
     (g.flatMap (fun f => bits f.1)) ++ List.replicate (96 - 32 * g.length) 0 ++
     (g.flatMap (fun f => bytesLE 2 f.2.bits)) ++ List.replicate (6 - 2 * g.length) 0 ++ [g.length]))),
   (List.zipWith (fun blk (f : List Nat × FpOut) => blk.map (fun e =>
      let s := bf16.decode f.2.bits
      if e.neg? then addN e s else subN e s)) blks fs).flatten,
   { baseCounts v with sat := sat, flush := fl, seen := (if sat > 0 then 2 else 0) + (if fl > 0 then 4 else 0) }⟩

/-- The packet of a contribution (R299-R302): `g` the gradient, `r` the committed residual. -/
def packBucket (b : Bucket) (g r : List FNum) (draw : Nat → Nat) : Packet × List FNum :=
  let v := if b.comp = 0 then g else List.zipWith addN g r
  (if b.comp = 0 then ⟨fp32Lines v false, [], baseCounts v⟩
   else if b.comp = 1 then packTopk b v draw else packSign v, v)

/-! ## Exact accumulation (R305-R309) -/

def negSentinel : Int := -(2 : Int) ^ 127
def posSentinel : Int := (2 : Int) ^ 127 - 1

/-- A contributed value taken into an accumulator, and whether it was out of range (R306, R307). -/
def accTake (eref : Int) (n : Int) (q : FNum) : Int × Bool :=
  let out (neg : Bool) : Int × Bool := (if neg ∨ n = negSentinel then negSentinel else posSentinel, true)
  match q with
  | .nan => out true
  | .inf neg => out neg
  | .fin d =>
    let k := (d.quant .rne (eref - 96)).scaled (eref - 96)
    if d.isZero then (n, false)
    else if k.natAbs ≤ 2 ^ 111 - 1 then (if n = negSentinel ∨ n = posSentinel then n else n + k, false)
    else out d.neg

/-- Accumulator j of a raw line. -/
def accOf (l : Line) (j : Nat) : Int := signedOf 128 (l.body.toNat / 2 ^ (128 * j))

/-- The line of eight accumulators. -/
def accLine (ns : List Int) : Line := rawLine (ofLE (ns.flatMap (bytesInt 16)))

/-- Contributed values of a packet line: element and value (R300-R302). -/
def lineValues (b : Bucket) (k : Nat) (l : Line) : List (Nat × FNum) :=
  if b.comp = 0 then (List.range 32).map (fun j => (32 * k + j, fp32.decode (l.word j)))
  else if b.comp = 1 then (List.range (min 25 (l.byte 125))).map (fun p =>
    (l.byte (5 * p) + 256 * l.byte (5 * p + 1) + 65536 * l.byte (5 * p + 2),
     bf16.decode (l.byte (5 * p + 3) + 256 * l.byte (5 * p + 4))))
  else (List.range (min 3 (b.blocks - 3 * k))).flatMap (fun j =>
    let s := bf16.decode (l.byte (96 + 2 * j) + 256 * l.byte (97 + 2 * j))
    (List.range 256).map (fun i => (256 * (3 * k + j) + i, if (l.byte (32 * j + i / 8)).testBit (i % 8) then s.negate else s)))

/-- Strictly increasing from above `prev`. -/
def rising : Option Nat → List Nat → Bool
  | _, [] => true
  | none, x :: r => rising (some x) r
  | some p, x :: r => decide (p < x) && rising (some x) r

/-- Whether a packet line passes the checks of R309: `prev` is the contributor's last pair index. -/
def lineGood (b : Bucket) (k : Nat) (prev : Option Nat) (l : Line) : Bool :=
  if l.poison then false
  else if b.comp = 0 then !plainMalformed 2 (k % 8) l
  else if l.tagByte 3 != 0xF0 then false
  else if b.comp = 1 then
    let n := if k + 1 = packetLines b then topkPairs b - 25 * k else 25
    let xs := (lineValues b k l).map Prod.fst
    l.byte 125 == n && rising prev xs && xs.all (fun x => decide (x < 256 * b.blocks))
  else true

/-- A sum as it reads (R308): FP32 of n * 2^(EREF - 96), a sentinel as a power of two. -/
def accRead (eref n : Int) : FNum :=
  if n = negSentinel then num32 (rnd32 (.fin ⟨true, 1, eref + 31⟩))
  else if n = posSentinel then num32 (rnd32 (.fin ⟨false, 1, eref + 31⟩))
  else n32 (.fin (Dy.ofInt n (eref - 96)))

/-- The readout digest (R320). -/
def redDigest (step : Nat) (ns : List Int) : Nat :=
  ns.foldl (fun d n =>
    let u := (n % (2 : Int) ^ 128).toNat
    mix64 (mix64 (d ^^^ (u % 2 ^ 64)) ^^^ (u / 2 ^ 64))) (mix64 step)

/-- A bucket record read out (R308, R319), and its elements. -/
def readBucket (eref : Int) (step received : Nat) (bad : Bool) (loc : Wide) (ns : List Int) : BktRec × List FNum :=
  let ys := ns.map (accRead eref)
  let neg := ns.any (· == negSentinel)
  let pos := ns.any (· == posSentinel)
  ({ eref := eref, flags := (if bad then 1 else 0) + (if pos then 2 else 0) + (if neg then 4 else 0), received := received
     oor := (ns.filter (fun n => n == negSentinel || n == posSentinel)).length, redNorm := wideEach ys, locNorm := loc
     digest := redDigest step ns, out := !bad && (neg || pos || ys.any (fun y => !y.finite)) }, ys)

/-! ## Schedules and clipping (R330-R332) -/

/-- The number v_i + (v_j - v_i) (s - s_i) / (s_j - s_i), rounded once. -/
def pwlAt (a b : Nat × Word) (step : Nat) : Word := match num32 a.2, num32 b.2 with
  | .fin x, .fin y =>
    let d := b.1 - a.1
    let n := ((⟨false, d - (step - a.1), 0⟩ : Dy).mul x).add ((⟨false, step - a.1, 0⟩ : Dy).mul y)
    if n.isZero then 0 else ratRound32 n.neg n.mag d n.exp
  | _, _ => rnd32 (num32 a.2)

/-- The segment of a step. -/
def pwlFrom : Nat → List (Nat × Word) → Word
  | _, [] => 0
  | _, [a] => a.2
  | step, a :: b :: r => if step < b.1 then pwlAt a b step else pwlFrom step (b :: r)

/-- A schedule's value at a step (R331). -/
def schedValue (c : Schedule) (step : Nat) : Word := match c with
  | .const v => v
  | .pwl ps => if step ≤ (ps.head?.map Prod.fst).getD 0 then (ps.head?.map Prod.snd).getD 0 else pwlFrom step ps
  | .table s0 vs => if step < s0 then 0 else vs.getD (step - s0) (vs.getLastD 0)

/-- The clip factor for a norm (R332). -/
def clipFactor (tau : FNum) (norm2 : Wide) : FNum :=
  let n := num32 (wideRoot norm2)
  if n.le tau || n.isZero then oneN else divN tau n

/-- The trust ratio (R335): one where a sum is zero or both roots are infinite. -/
def trustRatio (rhoMax : FNum) (w2 u2 : Wide) : FNum :=
  let rw := num32 (wideRoot w2)
  let ru := num32 (wideRoot u2)
  if w2.num.isZero || u2.num.isZero || (rw == .inf false && ru == .inf false) then oneN
  else
    let q := divN rw ru
    if q.lt rhoMax then q else rhoMax

/-! ## The rules (R334-R338) -/

/-- A layer's constants in a step. -/
structure Consts where
  kappa : FNum := oneN
  eta   : FNum
  etaR  : FNum
  lam   : FNum
  b1    : FNum
  b2    : FNum
  bc1   : FNum
  bc2   : FNum
  eps   : FNum
  deriving DecidableEq, Repr

/-- The lines of R334 up to d: m1, v1 and d. -/
def adaptive (c : Consts) (g1 m v : FNum) : FNum × FNum × FNum :=
  let m1 := fmaN c.b1 m (mulN (subN oneN c.b1) g1)
  let v1 := fmaN c.b2 v (mulN (subN oneN c.b2) (mulN g1 g1))
  (m1, v1, divN (divN m1 c.bc1) (addN (sqrtN (divN v1 c.bc2)) c.eps))

/-- u0 of R335. -/
def u0Of (c : Consts) (g m v w : FNum) : FNum := fmaN c.lam w (adaptive c g m v).2.2

/-- One element of pass 2: m1, v1 and w1. For UPD_C the weight comes from the iteration. -/
def stepElement (l : LayerRec) (c : Consts) (g m v w : FNum) : FNum × FNum × FNum :=
  let g1 := mulN c.kappa g
  if l.rule ≤ 1 then
    let a := adaptive c g1 m v
    (a.1, a.2.1, fmaN (if l.rule = 1 then c.etaR else c.eta).negate (fmaN c.lam w a.2.2) w)
  else
    let m1 := fmaN c.b1 m g1
    let d := if l.nesterov then fmaN c.b1 m1 g1 else m1
    (m1, v, if l.rule = 2 then w else fmaN c.eta.negate (fmaN c.lam w d) w)

/-- A layer's state line: UPD_COUNT, P1, P2 (R338). -/
def layerState (l : Line) : Nat × Word × Word :=
  (l.body.toNat % 2 ^ 64, BitVec.ofNat 32 (l.word 2), BitVec.ofNat 32 (l.word 3))

def layerStateLine (n : Nat) (p1 p2 : Word) : Line := rawLine (ofLE (bytesLE 8 n ++ bytesLE 4 p1.toNat ++ bytesLE 4 p2.toNat))

/-- A number rounded to BF16 as a converter stores it. -/
def storeBf16 (x : FNum) : FNum := bf16.decode (bf16.packNum .rne true x).bits

/-- The columns of a matrix given by rows. -/
def columns (rows : List (List FNum)) : List (List FNum) :=
  (List.range (rows.headD []).length).map (fun c => rows.map (fun r => r.getD c zeroN))

/-- A product on a backward array, stored in BF16. -/
def productBf16 (rows cols : List (List FNum)) (pre : Nat → Nat → Word) : List (List FNum) :=
  (bf16Product rows cols pre).map (fun r => r.map (fun w => storeBf16 (num32 w)))

/-- Element (i, j) of a matrix scaled into an FP32 preload. -/
def scaledPre (k : FNum) (m : List (List FNum)) (i j : Nat) : Word := rnd32 (k.mul ((m.getD i []).getD j zeroN))

/-- One iteration of R336: A = X X^T, B = bA + A(cA), X' = aX + BX. -/
def nsIterate (a b c : FNum) (x : List (List FNum)) : List (List FNum) :=
  let am := productBf16 x x (fun _ _ => 0)
  let ca := am.map (fun r => r.map (fun v => storeBf16 (mulN c v)))
  let bm := productBf16 am (columns ca) (scaledPre b am)
  productBf16 bm (columns x) (scaledPre a x)

def nsRun (a b c : FNum) : Nat → List (List FNum) → List (List FNum)
  | 0, x => x
  | n + 1, x => nsRun a b c n (nsIterate a b c x)

/-- The final X in the layer's own orientation, from the stored moment by rows and its norm (R336). -/
def orthogonal (l : LayerRec) (moment : List (List FNum)) (norm : FNum) : List (List FNum) :=
  let x := if l.trans then columns moment else moment
  let s := divN oneN (addN norm (num32 l.eps))
  let x0 := x.map (fun r => r.map (fun v => if norm.isZero then zeroN else storeBf16 (mulN v s)))
  let o := nsRun (num32 l.nsA) (num32 l.nsB) (num32 l.nsC) l.nsIters x0
  if l.trans then columns o else o

/-- The digest of a copy (R345). -/
def shardDigest (id : Nat) (lines : List Line) : Nat := operandDigest id lines

/-- The trailer of a shard's copies (R346). -/
def shardTrailer (id count dF dB : Nat) : Line :=
  rawLine (ofLE (bytesLE 4 id ++ [0, 0, 0, 0] ++ bytesLE 8 count ++ bytesLE 8 dF ++ bytesLE 8 dB))

end Sys2Proof.Machine
end

