-- ==== Sys2Proof/Machine/Loader.lean ====
section
/-! DEFINITION. The loader (R172-R183, R218, R277, R298, R329, R390, R456): the phase sequence, programs and pages as the image
writes them, its walk of every program, and the checks that refuse an image, in the order of R456. -/

namespace Sys2Proof.Machine

/-! ## The phase sequence (R178) -/

/-- The phase table expanded from an entry on: (entry, iteration) pairs, a group repeated as its parameter says. -/
def expandFrom (ps : List PhaseEntry) (params : List Nat) : Nat → Nat → List (Nat × Nat)
  | 0, _ => []
  | n + 1, i => match ps[i]? with
    | none => []
    | some e =>
      if e.loopParam = 0xFF then (i, 0) :: expandFrom ps params n (i + 1)
      else (List.range (params.getD e.loopParam 0)).flatMap (fun j => (List.range (max 1 e.loopLen)).map (fun k => (i + k, j))) ++
        expandFrom ps params n (i + max 1 e.loopLen)

def expandPhases (ps : List PhaseEntry) (params : List Nat) : List (Nat × Nat) := expandFrom ps params ps.length 0

/-- Every vector of values up to the maxima (R144). -/
def paramVectors (maxs : List Nat) : List (List Nat) :=
  maxs.foldr (fun m acc => (List.range (m + 1)).flatMap (fun v => acc.map (fun r => v :: r))) [[]]

/-- The phase table keeps R177 and R178. -/
def phasesOk (i : Image) : Bool :=
  i.phases.length == i.phaseEntries &&
  (List.range i.phases.length).all (fun k => match i.phases[k]? with
    | none => true
    | some e =>
      e.finish == (k + 1 == i.phases.length) &&
      (e.loopParam == 0xFF || (decide (e.loopParam < 16) && decide (1 ≤ e.loopLen) && decide (e.loopLen ≤ 255) &&
        (List.range e.loopLen).all (fun j => match i.phases[k + j]? with
          | none => false
          | some f => !f.finish && (j == 0 || f.loopParam == 0xFF))))) &&
  decide ((expandPhases i.phases i.paramMax).length ≤ 65535)

/-! ## What a load writes (R139, R169, R177, R216, R239) -/

/-- Lines of a program's region. -/
def programRegion (g : Program) : Nat := 64 * g.region8K

/-- A program written into a physical tile's region, ready to run from bundle 0. -/
def writeProgram (p t : Nat) (g : Program) : Act := Act.all [
  Act.all (g.lines.mapIdx (fun i l => emit (.sram (lsAddr p t (32768 - (programRegion g) + i)) { l with poison := false }))),
  modTile p t (fun x => { x with
    region := (programRegion g), bundles := g.bundles, opds := 2 * (g.mvdLine - g.opdLine), mvds := 4 * (g.encLine - g.mvdLine)
    encs := 16 * ((programRegion g) - g.encLine) }),
  setR (tk .TSQ_LAYOUT_OPD_LINE p t) g.opdLine, setR (tk .TSQ_LAYOUT_MVD_LINE p t) g.mvdLine,
  setR (tk .TSQ_LAYOUT_ENC_LINE p t) g.encLine,
  setR (tk .TSQ_STATUS_RUN p t) 1, setR (tk .TSQ_STATUS_PC p t) 0]

/-- The programs of a pile. -/
def writePrograms (i : Image) (p : Nat) : Act :=
  Act.each (i.programs.filter (fun g => g.pile == p)) (fun g => .ask fun s => writeProgram p (s.physOf p g.tile) g)

/-- The pages of a pile, one after another in the slot table; the reserved bit 3 of an entry reads zero (R5, R215). -/
def writePages (p first : Nat) : List PageImg → Act
  | [] => .done
  | g :: r => Act.all [
      Act.all (g.entries.mapIdx (fun k e => setR (pk .SLOT_TABLE p (first + k)) (e &&& ~~~8#32).toNat)),
      setR (pk .PAGE_DIR_FIRST p g.page) first, setR (pk .PAGE_DIR_COUNT p g.page) g.entries.length,
      setR (pk .PAGE_DIR_CYCLE p g.page) g.cycle,
      writePages p (first + g.entries.length) r]

def setParams (p : Nat) (vs : List Nat) : Act := Act.all (vs.mapIdx (fun k v => setR (pk .STEP_PARAM p k) v))

/-- Programs, pages and step parameters. -/
def writeImage (i : Image) : Act := Act.all [
  Act.each allPiles (fun p => setParams p i.paramInit),
  Act.each (allPiles.filter (fun p => i.pileMask.getLsbD p)) (writePrograms i),
  Act.each allPiles (fun p => writePages p 0 (i.pageImgs.filter (fun g => g.pile == p)))]

/-! ## The walk of a program (R65, R108, R144, R161) -/

/-- An array operation or vector store that a walk meets: the position of its phase and the phase's entry, pile and logical
tile, unit (0 to 2 the arrays, 3 a vector store) and its sequence number there; a store's line and keys stand in `op`. -/
structure OpRec where
  pos   : Nat
  entry : Nat
  pile  : Nat
  tile  : Nat
  unit  : Nat
  seq   : Nat
  op    : ArrOp
  deriving DecidableEq, Repr

/-- A vector store as an operation record's operation: its line, and, of a VST, its encode descriptor and block coordinates. A VSTI
stores plain lines and has neither (R149). -/
def State.storeOp (s : State) (p t : Nat) (b : Bundle) (seq : Nat) : ArrOp :=
  let v := vslot b
  let e := if v.vop = 0x41 then encOf (s.encDesc p t (b.imm % 1024)) (s.scalar p t (b.imm / 1024 % 16)) else encOf 0 0
  { mb := 1, nb := 1, kb := 0, fmtA := 0, fmtB := 0, fmtC := e.fmt, passes := 0, transA := false, transB := false
    preload := false, fscale := 0, aBase := 0, aRs := 0, aCs := 0, bBase := 0, bRs := 0, bCs := 0
    cBase := s.vLine p t v, cRs := 0, cCs := 0, c0Base := 0, c0Rs := 0, c0Cs := 0, fsBase := 0
    bi := if v.vop = 0x41 then s.scalar p t v.sy else 0, bj := if v.vop = 0x41 then s.scalar p t (v.sy + 1) else 0
    enc := e, seq := seq }

/-- Lines in a row of a space, on a physical tile of the pile for a local store. -/
structure Run where
  space : Space
  tile  : Nat
  first : Int
  lines : Nat
  deriving DecidableEq, Repr

/-- Lines of a pile that are read or written in a phase, by the phase's position in the sequence. -/
structure Touch where
  pos   : Nat
  pile  : Nat
  run   : Run
  write : Bool
  deriving DecidableEq, Repr

/-- What a walk has found: operations met, accesses, and the first trouble as a reason of R456. -/
structure Walk where
  ops   : List OpRec := []
  accs  : List Touch := []
  bad   : Option Nat := none
  deriving DecidableEq, Repr

/-- The control slot's effect. -/
def ctrlAct (p t : Nat) (b : Bundle) : Act := match cop b with
  | 2 => doSli p t b
  | 3 => doSalu p t b
  | 4 => doSmovp p t b
  | 5 => doLoop p t b
  | 6 => doBr p t b
  | _ => moveOn p t

/-- Whether a line lies in a run-ahead buffer declared for its place, in either bank (R161). -/
def State.inRunAhead (s : State) (i : Image) (p : Nat) (sp : Space) (t : Nat) (n : Int) : Bool :=
  i.buffers.any (fun b => b.kind == 1 && s.samePlace p sp t b.pile b.space b.tile &&
    [0, 1].any (fun k => let f : Int := bankLine b.firstLine b.bankStride k
      decide (f ≤ n ∧ n < f + (b.lines : Int))))

/-- An AHEAD descriptor writes outside the declared run-ahead buffers. A SCATTER's runs are checked by its lines as the
index list may choose them, which only a running program knows: its first run stands for all. -/
def State.aheadBad (s : State) (i : Image) (p t : Nat) (b : Bundle) : Bool :=
  let o := s.mvOp p t b
  mop b == 1 && o.ahead && !(List.range (if o.typ = 2 then 1 else o.count1)).all (fun j => (List.range o.count0).all (fun l =>
    s.inRunAhead i p o.dstSpace (s.mvTile p t o.dstTile) ((o.dstLine : Int) + (j : Int) * o.dstStride + (l : Int))))

/-- The lines that a bundle's slots write: an array operation's blocks, a vector store, and a mover's runs, but for those of a SCATTER,
which its index list chooses. -/
def State.writesOf (s : State) (p t : Nat) (b : Bundle) : List Run :=
  let a := s.arrOp p t b 0
  let v := vslot b
  let o := s.mvOp p t b
  (if aop b = 1 then (List.range a.mb).flatMap (fun i => (List.range a.nb).map (fun j =>
    (⟨.ls, t, (a.cLine i j : Int), fmtLines a.fmtC⟩ : Run))) else []) ++
  (if v.vop = 0x41 then [⟨.ls, t, (s.vLine p t v : Int), fmtLines (encOf (s.encDesc p t (b.imm % 1024)) 0).fmt⟩]
   else if v.vop = 0x43 then [⟨.ls, t, (s.vLine p t v : Int), 4⟩] else []) ++
  (if mop b = 1 ∧ o.typ ≠ 2 then (List.range o.count1).map (fun j =>
    (⟨o.dstSpace, s.mvTile p t o.dstTile, (o.dstLine : Int) + (j : Int) * o.dstStride, o.count0⟩ : Run)) else [])

/-- The lines that a bundle's slots read: an array operation's blocks, a vector load, and a mover's runs, but for those that a GATHER's
index list chooses. -/
def State.readsOf (s : State) (p t : Nat) (b : Bundle) : List Run :=
  let a := s.arrOp p t b 0
  let v := vslot b
  let o := s.mvOp p t b
  let grid (n m fmt : Nat) (line : Nat → Nat → Nat) : List Run :=
    (List.range n).flatMap (fun i => (List.range m).map (fun j => ⟨.ls, t, (line i j : Int), fmtLines fmt⟩))
  (if aop b = 1 then grid a.mb a.kb a.fmtA a.aLine ++ grid a.kb a.nb a.fmtB a.bLine ++
      (if a.preload then grid a.mb a.nb 2 a.c0Line else []) ++
      (if a.fscale = 1 then [⟨.ls, t, (a.fsBase : Int), a.tileRows⟩] else if a.fscale = 2 then [⟨.ls, t, (a.fsBase : Int), 2 * a.tileCols⟩] else [])
    else []) ++
  (if v.vop = 0x40 then [⟨.ls, t, (s.vLine p t v : Int), fmtLines v.vb⟩]
   else if v.vop = 0x42 then [⟨.ls, t, (s.vLine p t v : Int), 1⟩] else []) ++
  (if mop b = 1 then
    (if o.typ = 1 then [] else (List.range o.count1).map (fun j =>
      (⟨o.srcSpace, s.mvTile p t o.srcTile, (o.srcLine : Int) + (j : Int) * o.srcStride, o.count0⟩ : Run))) ++
    (if o.typ = 0 then [] else [⟨.ls, t, (o.indexLine : Int), (2 * o.count1 + 127) / 128⟩])
   else [])

/-- Two runs of a pile share a line. -/
def Run.meets (a b : Run) : Bool :=
  a.space == b.space && (a.space != .ls || a.tile == b.tile) && decide (a.first < b.first + (b.lines : Int) ∧ b.first < a.first + (a.lines : Int))

/-- A line of a pile. -/
def Touch.holds (x : Touch) (p : Nat) (r : Run) (n : Int) : Bool := x.pile == p && x.run.meets ⟨r.space, r.tile, n, 1⟩

/-- A write changes a line that a phase before it read and no phase up to that one wrote (R196). Within one phase the order turns on clocks
(log 131). -/
def readThenWritten (accs : List Touch) : Bool :=
  (accs.filter (fun a => !a.write)).any (fun a =>
    (accs.filter (fun w => w.write && decide (a.pos < w.pos) && w.pile == a.pile && w.run.meets a.run)).any (fun w =>
      (List.range a.run.lines).any (fun k =>
        let n := a.run.first + (k : Int)
        w.holds a.pile a.run n && !accs.any (fun v => v.write && decide (v.pos ≤ a.pos) && v.holds a.pile a.run n))))

/-- A run touches, or lies within, lines of a declared place. -/
def State.touches (s : State) (p : Nat) (r : Run) (pile : Nat) (sp : Space) (log : Nat) (first : Int) (n : Nat) : Bool :=
  s.samePlace p r.space r.tile pile sp log && decide (r.first < first + (n : Int) ∧ first < r.first + (r.lines : Int))
def State.within (s : State) (p : Nat) (r : Run) (pile : Nat) (sp : Space) (log : Nat) (first : Int) (n : Nat) : Bool :=
  s.samePlace p r.space r.tile pile sp log && decide (first ≤ r.first ∧ r.first + (r.lines : Int) ≤ first + (n : Int))

/-- Lines of a version of a shard that this device owns meet a test (R327). -/
def State.anyShard (i : Image) (v : Nat) (test : Nat → Int → Nat → Bool) : Bool :=
  (i.update.shards.mapIdx (fun n h => (n, h))).any (fun q => match layerOfShard i.update q.1 with
    | some l => q.2.ownerDev == i.device && test q.2.ownerPile (shardBase q.2 v : Int) (stateLines l.rule q.2.blocks)
    | none => false)

/-- A write changes a retained input of its step: bank (n mod 2) of a step-banked or an input buffer, a constant, or the committed state,
whose version goes with the step's parity as banks do (R196; log 131). -/
def State.breaksRetained (s : State) (i : Image) (p : Nat) (r : Run) : Bool :=
  i.buffers.any (fun b => b.kind != 1 && s.touches p r b.pile b.space b.tile (bankLine b.firstLine b.bankStride (s.step % 2)) b.lines) ||
  i.constants.any (fun c => s.touches p r c.pile .dram 0 c.line 1) ||
  State.anyShard i (s.step % 2) (fun q f n => s.touches p r q .dram 0 f n)

/-- A write of a HEAD phase lies neither in bank ((n + 1) mod 2) of a step-banked buffer nor in a shard's shadow version, or in a result
object (R196, R445). -/
def State.breaksHead (s : State) (i : Image) (p : Nat) (r : Run) : Bool :=
  !(i.buffers.any (fun b => b.kind == 2 && s.within p r b.pile b.space b.tile (bankLine b.firstLine b.bankStride ((s.step + 1) % 2)) b.lines) ||
    State.anyShard i ((s.step + 1) % 2) (fun q f n => s.within p r q .dram 0 f n)) ||
  i.objects.any (fun o => [0, 1].any (fun k => s.touches p r o.pile o.space o.tile (bankLine o.firstLine o.bankStride k) o.lines))

/-- A write breaks R196 or R445. -/
def State.breaksBanks (s : State) (i : Image) (p : Nat) (head : Bool) (r : Run) : Bool :=
  s.breaksRetained i p r || (head && s.breaksHead i p r)

/-- The lines that the descriptors of a list read or write in a phase, but for those that an index list chooses (R222). -/
def State.descAccs (s : State) (l : DescList) (pos iter last : Nat) : List Touch :=
  (l.descs.filter (fun d => d.indexLine == 0xFFFF)).flatMap (fun d =>
    ((List.range d.count).filter (fun k => decide (d.firstSlot + k * d.slotStride ≤ last))).map (fun k =>
      ⟨pos, l.pile, ⟨d.space, s.physOf l.pile d.tile, (d.line : Int) + (k : Int) * d.lineStride + (iter : Int) * d.iterStride +
        ((s.step % 2 : Nat) : Int) * d.bankStride, 1⟩, d.receive⟩))

/-- The accesses of the descriptors of the phase sequence. -/
def State.switchAccs (s : State) (i : Image) (phs : List (Nat × Nat)) : List Touch :=
  (phs.mapIdx (fun pos q => match i.phases[q.1]? with
    | some e => (i.descLists.filter (fun l => l.page == e.page)).flatMap (fun l => s.descAccs l pos q.2 e.lastSlot)
    | none => [])).flatten

/-- A phase of the sequence is a HEAD phase. -/
def headAt (i : Image) (phs : List (Nat × Nat)) (pos : Nat) : Bool :=
  ((phs[pos]?).bind (fun q => i.phases[q.1]?)).any PhaseEntry.head

/-- An access to a routing buffer breaks the banking of R288: with the expert work of micro-batch k, writes go to bank (k + 1) mod 2, and
reads to bank k mod 2. -/
def State.routingBad (s : State) (i : Image) (phs : List (Nat × Nat)) (us : List RoutingUse) (x : Touch) : Bool :=
  us.any (fun u => phs[x.pos]? == some (u.entry, u.iter) && i.buffers.any (fun b => b.kind == 1 && b.id == u.buffer &&
    s.touches x.pile x.run b.pile b.space b.tile
      (bankLine b.firstLine b.bankStride ((u.batch + (if x.write then 0 else 1)) % 2)) b.lines))

/-- What one bundle adds, and its trouble: a fault of R165, an AHEAD descriptor out of place, a STEP_PARAM read in a HEAD phase, or a
write that breaks the step's banks (R196, R445). -/
def State.walkBundle (s : State) (i : Image) (p t log pos entry : Nat) (head : Bool) (seqs : List Nat) (b : Bundle) : Walk :=
  let u := aArr b
  let arr := if aop b = 1 then [⟨pos, entry, p, log, u, seqs.getD u 0, s.arrOp p t b (seqs.getD u 0)⟩] else []
  let vst := if (vslot b).vop = 0x41 ∨ (vslot b).vop = 0x43 then [⟨pos, entry, p, log, 3, seqs.getD 3 0, s.storeOp p t b (seqs.getD 3 0)⟩] else []
  { ops := arr ++ vst
    accs := (s.readsOf p t b).map (⟨pos, p, ·, false⟩) ++ (s.writesOf p t b).map (⟨pos, p, ·, true⟩)
    bad := if !(s.bundleFaults p t b false).isEmpty || s.aheadBad i p t b then some 5
      else if (head && cop b == 4 && decide (0x10 ≤ bitsOf b.c 7 0 ∧ bitsOf b.c 7 0 ≤ 0x1F)) ||
        (s.writesOf p t b).any (s.breaksBanks i p head) then some 7 else none }

/-- Sequence numbers after a bundle. -/
def nextSeqs (seqs : List Nat) (b : Bundle) : List Nat :=
  seqs.mapIdx (fun u n => if (aop b == 1 && aArr b == u && u != 3) || (u == 3 && ((vslot b).vop == 0x41 || (vslot b).vop == 0x43))
    then n + 1 else n)

/-- The walk of a tile's program through the phase sequence, every wait and gate passed (R144): it must meet the phases' gates in
order, with FINISH at the last alone. -/
def walkTile (i : Image) (p t log : Nat) (phs : List (Nat × Nat)) : Nat → State → Nat → List Nat → Walk → Walk
  | 0, _, _, _, w => { w with bad := w.bad.or (some 5) }
  | n + 1, s, pos, seqs, w =>
    let pc := s.rd (tk .TSQ_STATUS_PC p t)
    if w.bad.isSome then w
    else if (s.tile p t).bundles ≤ pc ∨ phs.length ≤ pos then { w with bad := some 5 }
    else
      let b := s.bundle p t
      let e := (phs.getD pos (0, 0)).1
      let x := s.walkBundle i p t log pos e (((i.phases[e]?).map PhaseEntry.head).getD false) seqs b
      let w := { ops := w.ops ++ x.ops, accs := w.accs ++ x.accs, bad := x.bad : Walk }
      if cop b = 7 then
        if b.c.testBit 0 ≠ (pos + 1 == phs.length) then { w with bad := w.bad.or (some 5) }
        else if b.c.testBit 0 then w
        else walkTile i p t log phs n ((moveOn p t).run s) (pos + 1) [0, 0, 0, 0] w
      else walkTile i p t log phs n ((ctrlAct p t b).run s) pos (nextSeqs seqs b) w

/-- Bundles that a walk follows at most; a program that runs longer is taken to miss its gates (log 47). -/
def walkLimit : Nat := 1099511627776

/-- The tile's sequencer as an attempt starts it (R142). -/
def freshTile (x : Tile) : Tile := { x with sregs := [], lcs := [], loops := [], vregs := [], pregs := [], wregs := [], issued := {} }

/-- The walks of every program of an image under a vector of parameters and a step number: only its parity reaches a bank
(R196), so 0 and 1 stand for all (log 47). -/
def State.walkImage (s : State) (i : Image) (params : List Nat) (step : Nat) : Walk :=
  let phs := expandPhases i.phases params
  i.programs.foldl (fun w g =>
    let t := s.physOf g.pile g.tile
    if g.bundles = 0 ∨ w.bad.isSome then w
    else
      let st := (Act.all [setParams g.pile params, setR (dk .TB_STEP) step, modTile g.pile t freshTile,
        setR (tk .TSQ_STATUS_PC g.pile t) 0]).run s
      walkTile i g.pile t g.tile phs walkLimit st 0 [0, 0, 0, 0] w)
    (let u := (setR (dk .TB_STEP) step).run s
     let xs := u.switchAccs i phs
     { accs := xs, bad := if xs.any (fun x => x.write && u.breaksBanks i x.pile (headAt i phs x.pos) x.run) then some 7 else none })

/-- Two operations are the halves of a DUAL pair (R390). -/
def dualHalves (i : Image) (a b : OpRec) : Bool :=
  i.duals.any (fun d => d.pile == a.pile && d.pile == b.pile && d.phaseEntry == a.entry && a.pos == b.pos &&
    ((d.tileA == a.tile && d.unitA == a.unit && d.tileB == b.tile && d.unitB == b.unit) ||
     (d.tileA == b.tile && d.unitA == b.unit && d.tileB == a.tile && d.unitB == a.unit)) &&
    a.seq == b.seq && decide (d.firstSeq ≤ a.seq ∧ a.seq < d.firstSeq + d.count))

/-- R65 and R108 hold of the operations of one step; the operations that compute the same values are the declared halves of DUAL pairs
(DESIGN CHOICE, log 124). An operation of CLASS_GRAD may carry a TENSOR_ID of a bucket's GRAD_TID range: R65 is checked among operations
(DESIGN CHOICE, log 153). -/
def opsOk (i : Image) (ops : List OpRec) : Bool :=
  (pairsOf ops).all (fun q =>
    (!(q.1.op.enc.classGrad && q.2.op.enc.classGrad && q.1.op.enc.tensorId == q.2.op.enc.tensorId) || dualHalves i q.1 q.2) &&
    !(q.1.pile == q.2.pile && q.1.tile == q.2.tile && q.1.pos == q.2.pos && decide (q.1.unit < 3 ∧ q.2.unit < 3) &&
      q.1.unit != q.2.unit && q.1.op.enc.tensorId == q.2.op.enc.tensorId))

/-- What paired operations must share (R390): shape, formats, descriptors and keys. -/
def sameOp (a b : ArrOp) : Bool :=
  { a with aBase := 0, bBase := 0, cBase := 0, c0Base := 0, fsBase := 0, aRs := 0, aCs := 0, bRs := 0, bCs := 0, cRs := 0, cCs := 0
           c0Rs := 0, c0Cs := 0, seq := 0 } ==
  { b with aBase := 0, bBase := 0, cBase := 0, c0Base := 0, fsBase := 0, aRs := 0, aCs := 0, bRs := 0, bCs := 0, cRs := 0, cCs := 0
           c0Rs := 0, c0Cs := 0, seq := 0 }

/-- A DUAL pair's operations agree wherever its entry runs. -/
def dualOk (ops : List OpRec) (phs : List (Nat × Nat)) (d : DualPair) : Bool :=
  let find (pos t u q : Nat) : Option OpRec :=
    ops.find? (fun o => o.pos == pos && o.pile == d.pile && o.tile == t && o.unit == u && o.seq == q)
  (List.range phs.length).all (fun pos => (phs.getD pos (0, 0)).1 != d.phaseEntry ||
    (List.range d.count).all (fun k => match find pos d.tileA d.unitA (d.firstSeq + k), find pos d.tileB d.unitB (d.firstSeq + k) with
      | some a, some b => sameOp a.op b.op
      | _, _ => false))

/-- The lines that an operation record's operation stores: the blocks of an array operation, or a vector store's lines. -/
def OpRec.stores (o : OpRec) (t : Nat) : List Run :=
  if o.unit = 3 then [⟨.ls, t, (o.op.cBase : Int), if o.op.enc.fmt = 0 then 4 else fmtLines o.op.enc.fmt⟩]
  else (List.range o.op.mb).flatMap (fun i => (List.range o.op.nb).map (fun j => ⟨.ls, t, (o.op.cLine i j : Int), fmtLines o.op.fmtC⟩))

/-- The second half of a DUAL pair stores into lines that the schedule reads (R390). -/
def State.dualRead (s : State) (w : Walk) (d : DualPair) : Bool :=
  (w.ops.filter (fun o => o.pile == d.pile && o.entry == d.phaseEntry && o.tile == d.tileB && o.unit == d.unitB &&
    decide (d.firstSeq ≤ o.seq ∧ o.seq < d.firstSeq + d.count))).any (fun o =>
    (o.stores (s.physOf d.pile d.tileB)).any (fun r => w.accs.any (fun a => !a.write && a.pile == d.pile && a.run.meets r)))

/-! ## Refresh windows (R374) -/

/-- Whole units of 104 slots in the windows and the gate interval of one phase, from its opening. Windows at least as wide as their
period run into one another and are one. -/
def phaseUnits (e : PhaseEntry) (gate : Nat) : List Nat :=
  let windows := if e.refWidth = 0 then [] else if e.refPeriod = 0 then [(e.refFirst, e.refWidth)]
    else if e.refPeriod ≤ e.refWidth then [(e.refFirst, e.length)]
    else (List.range (e.length / e.refPeriod + 1)).map (fun k => (e.refFirst + k * e.refPeriod, e.refWidth))
  windows.flatMap (fun w => (List.range (min w.2 (e.length - w.1) / 104)).map (fun k => w.1 + 104 * k)) ++
  (List.range (gate / 104)).map (fun k => e.length + 104 * k)

/-- The gate latency that an image compiles (R192). -/
def gateLatency (i : Image) : Nat := i.gateUp + 1 + i.gateDown + i.gateGuard

/-- Units of a step in order, and the step's length in slots. -/
def stepUnits (i : Image) (phs : List (Nat × Nat)) : List Nat × Nat :=
  phs.foldl (fun (a : List Nat × Nat) x => match i.phases[x.1]? with
    | some e => (a.1 ++ (phaseUnits e (gateLatency i)).map (a.2 + ·), a.2 + e.length + (gateLatency i))
    | none => a) ([], 0)

/-- Units that lie whole in the 7,518,797 slots after a unit's start, over repeated steps. -/
def unitsAfter (units : List Nat) (len first : Nat) : Nat :=
  (units.map (fun u =>
    let d := (u + len - first - 1) % len
    let room := 7518797 - 104
    if room < d then 0 else (room - d) / len + 1)).sum

/-- The windows hold 4,178 units in every 16 ms (log 48). -/
def refreshOk (i : Image) (params : List Nat) : Bool :=
  let x := stepUnits i (expandPhases i.phases params)
  !x.1.isEmpty && decide (0 < x.2) && x.1.all (fun u => decide (4178 ≤ unitsAfter x.1 x.2 u))

/-! ## Slot-table pages (R218, R222, R223) -/

/-- The lead of a space. -/
def leadOf : Space → Nat
  | .dram => 56
  | .buf => 12
  | .ls => 10

/-- A way lies on a present port of a pile; 255 is the empty gondola's. -/
def wayPresent (p w : Nat) : Bool :=
  let q := wayPort w
  q != 8 && (decide (q < 4) || bridgePresent p (q - 4))

/-- The LOC way-slots that a page's entries name in a phase up to its last slot, in every cycle (R217): direction (receive), way and phase
slot. -/
def locNamed (g : PageImg) (last : Nat) : List (Bool × Nat × Nat) :=
  ((g.entries.map (fun w => slotEntryOf w.toNat)).filter (fun e => !e.gate)).flatMap (fun e =>
    ((List.range (last / max 1 g.cycle + 1)).map (fun n => e.slot + n * g.cycle)).flatMap (fun t =>
      if last < t + 2 then [] else
        (if e.ingress < 44 then [(false, e.ingress, t)] else []) ++ (if e.egress < 44 then [(true, e.egress, t + 2)] else [])))
    |>.eraseDups

/-- A descriptor has a gondola in a phase slot of its way. -/
def descCovers (d : SwDesc) (receive : Bool) (way t : Nat) : Bool :=
  d.receive == receive && d.way == way && decide (d.firstSlot ≤ t) && (t - d.firstSlot) % max 1 d.slotStride == 0 &&
  decide ((t - d.firstSlot) / max 1 d.slotStride < d.count)

/-- An entry of the page names a way-slot of a descriptor, in whatever cycle. -/
def pageNames (g : PageImg) (receive : Bool) (way t : Nat) : Bool :=
  ((g.entries.map (fun w => slotEntryOf w.toNat)).filter (fun e => !e.gate)).any (fun e =>
    if receive then e.egress == way && decide (2 ≤ t) && (t - 2) % max 1 g.cycle == e.slot
    else e.ingress == way && t % max 1 g.cycle == e.slot)

/-- The last slots of the phases that use a page; one cycle stands for a page that none uses. -/
def lastSlots (i : Image) (g : PageImg) : List Nat :=
  match ((i.phases.filter (fun e => e.page == g.page)).map PhaseEntry.lastSlot).eraseDups with
  | [] => [g.cycle + 1]
  | ls => ls

/-- An entry breaks R218 by itself. -/
def entryBad (p : Nat) (g : PageImg) (e : SlotEntry) : Bool :=
  decide (g.cycle ≤ e.slot) || !(e.ingress == 255 || wayPresent p e.ingress) || !(wayPresent p e.egress || (e.egress == 255 && e.gate)) ||
  (e.gate && (e.mcast || e.dig || e.drop || decide (e.ingress < 44) || decide (e.egress < 44)))

/-- A descriptor's fields are in range, and no send samples before its phase opens. -/
def descOk (d : SwDesc) : Bool :=
  decide (d.way < 44 ∧ 1 ≤ d.slotStride ∧ d.slotStride ≤ 65535 ∧ 1 ≤ d.count ∧ d.count ≤ 65535 ∧ d.condKind < 4 ∧ d.tile < 8 ∧
    d.condTile < 8 ∧ d.idxTile < 8) && (d.receive || decide (leadOf d.space ≤ d.firstSlot))

/-- Slots rise along a page, within one slot no egress way stands twice and no ingress way but 255 heads two groups, and no slot has
more than 192 entries. -/
def slotsOk (es : List SlotEntry) : Bool :=
  (pairsOf (es.map SlotEntry.slot)).all (fun q => decide (q.1 ≤ q.2)) &&
  (pairsOf es).all (fun q => q.1.slot != q.2.slot || q.1.egress == 255 || q.1.egress != q.2.egress) &&
  (pairsOf ((slotGroups es).filterMap List.head?)).all (fun q => q.1.slot != q.2.slot || q.1.ingress == 255 || q.1.ingress != q.2.ingress) &&
  es.all (fun e => decide ((es.filter (fun f => f.slot == e.slot)).length ≤ 192))

/-- A page and its descriptors keep R218: in every phase that uses the page, each LOC way-slot that acts has exactly one descriptor. -/
def pageOk (i : Image) (g : PageImg) : Bool :=
  let es := g.entries.map (fun w => slotEntryOf w.toNat)
  let ds := (i.descLists.filter (fun l => l.pile == g.pile && l.page == g.page)).flatMap DescList.descs
  decide (1 ≤ g.cycle ∧ g.cycle ≤ 1024 ∧ g.pile < 16 ∧ g.page < i.pages) && slotsOk es && es.all (fun e => !entryBad g.pile g e) &&
  ds.all descOk &&
  (lastSlots i g).all (fun l => (locNamed g l).all (fun n => (ds.filter (fun d => descCovers d n.1 n.2.1 n.2.2)).length == 1)) &&
  ds.all (fun d => (List.range d.count).all (fun k => pageNames g d.receive d.way (d.firstSlot + k * d.slotStride)))

/-- The page of a list of descriptors is in the image: entries of another page name none of their way-slots (R218). -/
def hasPage (i : Image) (l : DescList) : Bool := i.pageImgs.any (fun g => g.pile == l.pile && g.page == l.page)

/-! ## Expert directory, buckets, update tables (R277, R298, R329) -/

/-- The directory keeps R271, R274, R275 and R277. -/
def expertsOk (i : Image) : Bool :=
  let x := i.experts
  x.layers.all (fun l =>
    let es := (x.entries.drop l.entryFirst).take l.experts
    let ss := (x.sources.drop l.srcFirst).take l.srcCount
    decide (1 ≤ l.experts ∧ l.experts ≤ 4096 ∧ 1 ≤ l.topK ∧ l.topK ≤ (if l.second then 7 else 8) ∧ l.weighting < 3 ∧
      1 ≤ l.srcCount ∧ l.srcCount ≤ 4096 ∧ 16 ≤ l.tokens ∧ l.tokens ≤ 65536 ∧ l.tokens % 16 = 0 ∧
      16 ≤ l.capacity ∧ l.capacity ≤ 4096 ∧ l.capacity % 16 = 0 ∧ l.experts * l.capacity ≤ 65536 ∧ l.srcCount * l.capacity ≤ 65536) &&
    es.length == l.experts && ss.length == l.srcCount &&
    (pairsOf es).all (fun q => q.1.device != q.2.device || q.1.pile != q.2.pile || q.1.slab != q.2.slab) &&
    es.all (fun e => e.device != i.device || i.pileMask.getLsbD e.pile) &&
    ss.all (fun n => n / 16 != i.device || i.pileMask.getLsbD (n % 16))) &&
  (x.layers.zip x.layers.tail).all (fun q => decide (q.1.layer < q.2.layer)) &&
  x.entries.all (fun e => decide (e.device < 4096 ∧ e.pile < 16 ∧ 1 ≤ e.tileCount ∧ e.tileFirst + e.tileCount ≤ 8 ∧ e.slab < 512))

/-- The fields of a bucket descriptor lie in the ranges of R295 and R296. -/
def bucketRange (b : Bucket) : Bool :=
  decide (b.ownerDev < 4096 ∧ b.ownerPile < 16 ∧ b.comp < 3 ∧ 1 ≤ b.blocks ∧ b.blocks ≤ 4096 ∧ b.tracker < 4095 ∧ 1 ≤ b.contrib ∧
    b.contrib ≤ 65536) && b.accSpace != .ls && (if b.comp = 1 then decide (4 ≤ b.topkF ∧ b.topkF ≤ 10) else b.topkF == 0)

/-- A bucket's accumulators and output lie within their space, and a contribution's gradient, residuals and packet within theirs
(log 51). -/
def bucketLines (b : Bucket) : Bool :=
  decide (b.accLine + 32 * b.blocks ≤ Space.lines b.accSpace ∧ b.outLine + 8 * b.blocks ≤ dramLines)
def contribLines (c : Contribution) (b : Bucket) : Bool :=
  decide (c.gLine + 8 * b.blocks ≤ dramLines ∧ (b.comp = 0 ∨ c.resLine + 16 * b.blocks ≤ dramLines) ∧
    c.pktLine + packetLines b + 1 ≤ bufLines)

/-- Buckets and contributions keep R298. -/
def bucketsOk (i : Image) : Bool :=
  i.buckets.all (fun b => b.ownerDev != i.device || bucketLines b) &&
  (pairsOf i.buckets).all (fun q => q.1.id != q.2.id &&
    (decide (q.1.gradTid + q.1.contrib ≤ q.2.gradTid) || decide (q.2.gradTid + q.2.contrib ≤ q.1.gradTid))) &&
  i.contribs.all (fun c => decide (c.pile < 16) &&
    i.buckets.any (fun b => b.id == c.bucket && decide (c.index < b.contrib) && contribLines c b)) &&
  (pairsOf i.contribs).all (fun q => q.1.bucket != q.2.bucket || q.1.index != q.2.index) &&
  (i.domainSize != 1 || i.buckets.all (fun b => (i.contribs.filter (fun c => c.bucket == b.id)).length == b.contrib)) &&
  (match i.buckets.filter Bucket.noise with
   | [] => true
   | b :: r => b.contrib != 1 && r.all (fun x => x.contrib == b.contrib))

/-- A schedule keeps R330. -/
def scheduleOk : Schedule → Bool
  | .const _ => true
  | .pwl ps => decide (2 ≤ ps.length ∧ ps.length ≤ 257) && (ps.zip ps.tail).all (fun q => decide (q.1.1 < q.2.1))
  | .table _ vs => decide (1 ≤ vs.length ∧ vs.length ≤ 1048576)

/-- A layer's four encode descriptors write its state formats, rounding to nearest (R328, R329): first moment, second moment where
the rule keeps one, forward and backward copy. -/
def layerEncOk (u : UpdateTables) (l : LayerRec) : Bool :=
  let fmt (k n : Nat) : Bool := match u.encs[l.encIdx + k]? with
    | some e => e.fmt == n && !e.classGrad
    | none => false
  fmt 0 8 && (!hasV l.rule || fmt 1 10) && fmt 2 l.copyFwd && fmt 3 l.copyBwd

/-- The blocks of a layer's matrix. -/
def layerBlocks (l : LayerRec) : Nat := (l.rows + 15) / 16 * ((l.cols + 15) / 16)

/-- A layer's shards cover its n blocks, and no two overlap (R329). -/
def shardsCover (hs : List ShardRec) (n : Nat) : Bool :=
  hs.all (fun h => decide (1 ≤ h.blocks ∧ h.firstBlock + h.blocks ≤ n)) && (hs.map ShardRec.blocks).sum == n &&
  (pairsOf hs).all (fun q => decide (q.1.firstBlock + q.1.blocks ≤ q.2.firstBlock ∨ q.2.firstBlock + q.2.blocks ≤ q.1.firstBlock))

/-- Ranges (first, length) that together reach from a line to another without a gap. -/
def reaches : Nat → List (Nat × Nat) → Nat → Nat → Bool
  | 0, _, a, b => decide (b ≤ a)
  | n + 1, rs, a, b => decide (b ≤ a) ||
    (match rs.filter (fun r => decide (r.1 ≤ a ∧ a < r.1 + r.2)) with
     | [] => false
     | r :: _ => reaches n rs (r.1 + r.2) b)

/-- A shard that this device owns is the union of its buckets' outputs (R329). -/
def shardMeets (i : Image) (h : ShardRec) : Bool :=
  let bs := i.buckets.filter (fun b => b.ownerDev == h.ownerDev && b.ownerPile == h.ownerPile &&
    decide (h.gLine ≤ b.outLine ∧ b.outLine + 8 * b.blocks ≤ h.gLine + 8 * h.blocks))
  h.ownerDev != i.device || reaches (bs.length + 1) (bs.map (fun b => (b.outLine, 8 * b.blocks))) h.gLine (h.gLine + 8 * h.blocks)

/-- The extension sums that a layer names. -/
def layerSums (l : LayerRec) : List Nat := [l.g2Sum, l.w2Sum] ++ (if l.rule = 1 then [l.u2Sum] else [])

/-- The update tables keep R328 to R330. -/
def updateOk (i : Image) : Bool :=
  let u := i.update
  let hs (l : LayerRec) : List ShardRec := (u.shards.drop l.shardIdx).take l.shards
  let sched (n : Nat) : Bool := decide (n < u.schedules.length)
  decide (u.clipMode < 3 ∧ u.sums ≤ 32768 ∧ 1 ≤ u.layers.length ∧ u.layers.length ≤ 65535 ∧ 1 ≤ u.schedules.length ∧
    u.schedules.length ≤ 4096) && (if u.clipMode = 0 then u.clipSched == 0xFFFF else sched u.clipSched) &&
  u.schedules.all scheduleOk &&
  u.layers.all (fun l =>
    decide (l.rule < 4 ∧ 1 ≤ l.shards ∧ l.shards ≤ 65535 ∧ 1 ≤ l.rows ∧ 1 ≤ l.cols ∧ l.rows % 16 = 0 ∧ l.cols % 16 = 0) &&
    (l.rule == 1 || l.rule == 2 || l.ruleK == 0) && (l.rule == 2 || (l.nsA == 0 && l.nsB == 0 && l.nsC == 0)) && (!l.nesterov || l.rule == 3) && (!l.trans || l.rule == 2) &&
    (if l.rule = 2 then decide (1 ≤ l.nsIters ∧ l.nsIters ≤ 8) else l.nsIters == 0) && isV4 l.copyFwd &&
    (l.copyBwd == 8 || l.copyBwd == 9) && sched l.lrSched && sched l.wdSched && sched l.b1Sched &&
    (if hasV l.rule then sched l.b2Sched else l.b2Sched == 0xFFFF) &&
    (hs l).length == l.shards && shardsCover (hs l) (layerBlocks l) && (hs l).all (shardMeets i) &&
    (l.rule != 2 || (l.shards == 1 && decide ((if l.trans then l.rows else l.cols) ≤ 65536))) &&
    (layerSums l).all (fun n => decide (n < u.sums)) && (l.rule == 1 || l.u2Sum == 0xFFFF) && layerEncOk u l) &&
  (pairsOf u.layers).all (fun q => (layerSums q.1).all (fun n => !(layerSums q.2).contains n)) && (pairsOf u.shards).all (fun q => q.1.id != q.2.id) &&
  u.shards.all (fun h => decide (h.ownerDev < 4096 ∧ h.ownerPile < 16))

/-! ## The header and the buffer declarations (R172-R174) -/

/-- Bytes 0-447 with JOB_ID as zero, then every section in directory order. -/
def hashedBytes (i : Image) (bs : List Nat) : List Nat :=
  bs.take 16 ++ List.replicate 16 0 ++ (bs.drop 32).take 416 ++
  (i.sections.filter (fun e => e.type != 0)).flatMap (fun e => (bs.drop e.offset).take e.size)

/-- A place of a declaration: within its space, in every bank. -/
def placeOk (sp : Space) (tile first lines : Nat) (stride : Int) : Bool :=
  decide (tile < 8 ∧ first + lines ≤ Space.lines sp ∧ 0 ≤ (first : Int) + stride ∧
    (first : Int) + stride + (lines : Int) ≤ (Space.lines sp : Int))

/-- The entries of section 0x0005 lie in the ranges of R174 and of the rules that its entry layouts name. -/
def declsOk (i : Image) : Bool :=
  i.buffers.all (fun b => decide (1 ≤ b.kind ∧ b.kind ≤ 3 ∧ b.pile < 16) && placeOk b.space b.tile b.firstLine b.lines b.bankStride &&
    (b.kind == 1 || b.bankStride != 0)) &&
  (pairsOf i.buffers).all (fun q => q.1.id != q.2.id) &&
  i.buckets.all bucketRange &&
  i.duals.all (fun d => decide (d.tileA ≠ d.tileB ∧ d.tileA < 8 ∧ d.tileB < 8 ∧ 1 ≤ d.count ∧ d.pile < 16 ∧ d.phaseEntry < i.phaseEntries)) &&
  i.objects.all (fun o => decide (o.pile < 16 ∧ o.bytes ≤ 128 * o.lines) && placeOk o.space o.tile o.firstLine o.lines o.bankStride) &&
  i.gathers.all (fun g => decide (g.copy < 2 ∧ g.pile < 16 ∧ g.page < i.pages) &&
    (((i.descLists.filter (fun l => l.pile == g.pile && l.page == g.page)).flatMap DescList.descs)[g.desc]?).any SwDesc.receive) &&
  (match i.fused with
   | some f => decide (f.mbParam < 16 ∧ f.fusedLine < bufLines ∧ f.recordLine < bufLines)
   | none => true)

/-- A program's layout (R100, R137, R139). -/
def programOk (i : Image) (g : Program) : Bool :=
  i.pileMask.getLsbD g.pile && decide (g.pile < 16 ∧ g.tile < 8 ∧ g.region8K ≤ 32 ∧ g.lines.length ≤ (programRegion g) ∧ g.bundles ≤ 8192 ∧
    g.bundles ≤ 4 * g.opdLine ∧ g.opdLine ≤ g.mvdLine ∧ g.mvdLine ≤ g.encLine ∧ g.encLine ≤ (programRegion g))

/-- Header, directory and HASH, and what breaks a section's layout. -/
def headerSound (i : Image) (bs : List Nat) : Bool :=
  layoutOk bs && i.magic.toNat == ofLE (ascii "VXSCHED1") && i.format == 1 &&
  decide (i.device < 4096 ∧ 1 ≤ i.domainSize ∧ i.domainSize ≤ 4096 ∧ i.timingRoot < 4096 ∧ 1 ≤ i.phaseEntries ∧
    i.phaseEntries ≤ 4096 ∧ 1 ≤ i.pages ∧ i.pages ≤ 16 ∧ i.nTrackers ≤ 4095 ∧ 8 ≤ i.gateGuard) &&
  (List.range 11).all (fun t => t == 0 || (i.sections.filter (fun e => e.type == t)).length == 1) &&
  i.sections.all (fun e => decide (e.type ≤ 10) && (e.type == 0 || decide (512 ≤ e.offset ∧ e.offset + e.size ≤ bs.length))) &&
  sha512 (hashedBytes i bs) == bytesLE 64 i.hash.toNat &&
  declsOk i && i.programs.all (programOk i) && (pairsOf i.programs).all (fun q => q.1.pile != q.2.pile || q.1.tile != q.2.tile) &&
  i.constants.all (fun c => decide (c.pile < 16 ∧ c.line < dramLines)) &&
  i.plans.all (fun x => decide (x.entries.length ≤ 1024 ∧ x.startA ≤ 36800)) &&
  i.phases.all (fun e => e.powerPlan == 0xFFFF || i.plans.any (fun x => x.index == e.powerPlan)) &&
  i.trackers.all (fun t => decide (t.index ≤ 4094)) && i.trackerLines.length == i.nTrackers &&
  i.trackerLines.all (fun n => decide (n + 2 ≤ dramLines)) && (i.trackers.map (fun t => t.index)).Nodup

/-! ## The checks of R456 -/

/-- A used port fails check 4 (R251, R252). -/
def State.portBad (s : State) (i : Image) (n : Nat) : Bool :=
  let lat := i.linkLat.getD n 0
  let meas := s.rd (pk .LNK_STATUS_LAT_MEAS (n / 2) (n % 2))
  lat != 0 && (s.rd (pk .LNK_STATUS_STATE (n / 2) (n % 2)) != 7 || meas == 0 || decide (lat < meas ∨ meas + 32 < lat))

/-- A page of a pile uses a bridge that is retired (R264). -/
def State.bridgeBad (s : State) (i : Image) (n : Nat) : Bool :=
  s.portRetired (n / 4) (4 + n % 4) && (i.pageImgs.filter (fun g => g.pile == n / 4)).any (fun g => g.entries.any (fun w =>
    let e := slotEntryOf w.toNat
    wayPort e.ingress == 4 + n % 4 || wayPort e.egress == 4 + n % 4))

/-- Zero under a failed condition: the entry that a reason names where it names none. -/
def failIf (c : Bool) : Option Nat := if c then some 0 else none

/-- Every walk of an image: parameters up to the maxima, both step parities. -/
def State.walks (s : State) (i : Image) : List (List Nat × Walk) :=
  let t := (writeImage i).run s
  (paramVectors i.paramMax).flatMap (fun v => [0, 1].map (fun n => (v, t.walkImage i v n)))

/-- The first check that fails, with the offending entry, as DETAIL gives them; none where the image loads. -/
def State.imageRefusal (s : State) (x : ImageParts) (tm : LoadTiming) (bs : List Nat) : Option Nat :=
  let i := imageOf x bs
  let ws := s.walks i
  let checks : List (Nat × Option Nat) := [
    (1, failIf (!headerSound i bs)),
    (2, failIf (s.job.domain != some (i.device, i.domainSize, i.timingRoot))),
    (3, failIf (allPiles.any (fun p => i.pileMask.getLsbD p && (s.rd (dk .BR_STATUS_UNUSABLE)).testBit p))),
    (4, ((List.range 32).find? (s.portBad i)).or ((List.range 64).find? (s.bridgeBad i))),
    (5, (failIf (!phasesOk i || (i.paramInit.zip i.paramMax).any (fun q => decide (q.2 < q.1)) ||
        ws.any (fun w => w.2.bad == some 5 || !opsOk i w.2.ops))).or tm.aheadCross),
    (6, (List.range i.phases.length).find? (fun k => match tm.minSlack[k]?, i.phases[k]? with
      | some m, some e => decide (m < 0 ∨ m < (e.slack : Int))
      | _, _ => false)),
    (7, (failIf (ws.any (fun w => w.2.bad == some 7 || readThenWritten w.2.accs ||
        w.2.accs.any (s.routingBad i (expandPhases i.phases w.1) tm.routing)))).or tm.bankBreak),
    (8, failIf ((paramVectors i.paramMax).any (fun v => !refreshOk i v))),
    (9, (((failIf (!x.descLists.all (fun d => d.words.all swDescSpaceOk))).or (i.pageImgs.findIdx? (fun g => !pageOk i g))).or (i.descLists.findIdx? (fun l => !l.descs.isEmpty && !hasPage i l))).or
      (failIf (allPiles.any (fun p => decide (131072 < ((i.pageImgs.filter (fun g => g.pile == p)).map (fun g => g.entries.length)).sum))))),
    (10, (failIf (!expertLayoutOk (sectionOf bs 7) || !expertsOk i)).or
      ((tm.dispatch.find? (fun q => (((i.pageImgs[q.1]?).bind (fun g => g.entries[q.2]?)).map (fun w => (slotEntryOf w.toNat).drop)).getD false)).map
        (fun q => q.2))),
    (11, ((failIf (!bucketsOk i)).or tm.readoutEarly).or tm.sealLate),
    (12, (failIf (!updateLayoutOk (sectionOf bs 6) || !updateOk i)).or tm.shadowEarly),
    (13, i.duals.findIdx? (fun d => ws.any (fun w => !dualOk w.2.ops (expandPhases i.phases w.1) d || s.dualRead w.2 d)))]
  checks.findSome? (fun c => c.2.map (fun e => c.1 * 2 ^ 24 + e % 2 ^ 24))

end Sys2Proof.Machine
end

