-- ==== Sys2Proof/Machine/Mover.lean ====
section
/-! DEFINITION. The tile block mover (R152-R158, R163): its queue, the runs of COPY, GATHER and SCATTER, and completion. -/

namespace Sys2Proof.Machine

/-- MVGO: the descriptor joins the queue. -/
def actMvgo (p t : Nat) : Act :=
  mSlot p t (fun b => mop b == 1) fun b => .ask fun s => modTile p t (fun x => { x with queue := x.queue ++ [s.mvOp p t b] })
def execMvgo (p : PileId) (t : TileId) (s : State) : Host.Outcome State Fault Refusal := (actMvgo p.val t.val).answer s

/-- Clocks from a line's read to its write (R156). -/
def moveLatency (o : MvOp) : Nat := match o.srcSpace, o.dstSpace with
  | .dram, .dram => 208
  | .dram, _ => 112
  | _, .dram => 104
  | .ls, .ls => if o.srcTile = o.dstTile then 12 else 20
  | _, _ => 28

/-! ## Index lists (R153, R154) -/

/-- What run j does: it moves with a multiplier, does nothing for an entry of 0xFFFF, or meets an index fault. -/
inductive RunPick where
  | move (v : Nat)
  | none
  | fault
  deriving DecidableEq, Repr

/-- Every line of a run lies in its space and outside a program region. -/
def State.runOk (s : State) (p : Nat) (sp : Space) (t : Nat) (first : Int) (n : Nat) : Bool :=
  s.lineOk p sp t first && s.lineOk p sp t (first + ((n : Int) - 1))

def State.runPick (s : State) (p t : Nat) (o : MvOp) (j : Nat) : RunPick :=
  if o.typ = 0 then .move j
  else
    let l := s.sramLine (lsAddr p t (o.indexLine + j / 64))
    let v := indexEntry l j
    let first (base : Nat) (stride : Int) : Int := (base : Int) + (v : Int) * stride
    if l.poison then .fault
    else if v = 0xFFFF then .none
    else if o.typ = 1 then
      (if s.runOk p o.srcSpace o.srcTile (first o.srcLine o.srcStride) o.count0 then .move v else .fault)
    else if s.runOk p o.dstSpace o.dstTile (first o.dstLine o.dstStride) o.count0 then .move v else .fault

/-! ## Lines on their way -/

/-- A line is written and counted (R170); a write to a MEM domain that is OFF is discarded. -/
def moverWrite (p t : Nat) (w : InFlight) : Act :=
  .ask fun s => if w.space = .dram ∧ s.power (domMem p) = 2 then .done
    else (putLine p w.space w.tile w.at' w.line).seq (bump (tk .MOV_LINES p t))

/-- A line is read; with CHECK or under block checking one that fails is poisoned and counted (R157, R393), and a read of a MEM
domain that is OFF sets OFF_ERR. -/
def moverRead (p t : Nat) (o : MvOp) (line : Nat) (k : Line → Act) : Act :=
  .ask fun s =>
    (Act.when (o.srcSpace == .dram && s.power (domMem p) == 2) (setR (tk .MOV_STATUS_OFF_ERR p t) 1)).seq
      (getLine p o.srcSpace o.srcTile line fun l => .ask fun s =>
        let bad := (o.check || s.checking p) && !lineCheckOk l
        (Act.when bad (bump (tk .MOV_CHECK_FAIL p t))).seq (k { l with poison := l.poison || bad }))

/-- Place of a line i of run j, whose multiplier on that side is v. -/
def runLine (base : Nat) (stride : Int) (v i : Nat) : Nat := ((base : Int) + (v : Int) * stride).toNat + i

/-- What line i of run j delivers and where: nothing for a SCATTER that writes nothing. -/
def moverLine (p t : Nat) (o : MvOp) (q : RunPick) (j i : Nat) (k : Option (Nat × Line) → Act) : Act :=
  let dst (v : Nat) : Nat := runLine o.dstLine o.dstStride v i
  match q with
  | .move v =>
    moverRead p t o (runLine o.srcLine o.srcStride (if o.typ = 1 then v else j) i) (fun l =>
      k (some (dst (if o.typ = 2 then v else j), l)))
  | .none => if o.typ = 1 then k (some (dst j, fillLine o.fillFmt i false)) else k none
  | .fault => if o.typ = 1 then k (some (dst j, fillLine o.fillFmt i true)) else k none

/-- A line in flight goes to a place. -/
def InFlight.goesTo (w : InFlight) (sp : Space) (t line : Nat) : Bool := w.space == sp && (sp != .ls || w.tile == t) && w.at' == line

/-- The lines in flight that land, and those that stay: what is due, and what was read before it for the same place, since writes of
two descriptors to one line take effect in descriptor order (R158). -/
def landing (due : InFlight → Bool) : List InFlight → List InFlight × List InFlight
  | [] => ([], [])
  | w :: r =>
    let q := landing due r
    if due w || q.1.any (fun v => v.goesTo w.space w.tile w.at') then (w :: q.1, q.2) else (q.1, w :: q.2)

/-- Lines in flight are written. -/
def moverLand (p t : Nat) (due : InFlight → Bool) (fl : List InFlight) (k : List InFlight → Act) : Act :=
  (Act.each (landing due fl).1 (moverWrite p t)).seq (k (landing due fl).2)

/-- What was written to a place in a clock before `now` and is still in flight. A line of a transfer reaches memory when the transfer
completes (R21), or when the mover itself reads it again (R156; log 10). -/
def dueAt (now : Int) (sp : Space) (t : Nat) (line : Option Nat) (w : InFlight) : Bool :=
  decide (w.clk < now) && line.any (fun n => w.goesTo sp t n)

/-- The line that line i of run j reads. -/
def moverSource (o : MvOp) (q : RunPick) (j i : Nat) : Option Nat := match q with
  | .move v => some (runLine o.srcLine o.srcStride (if o.typ = 1 then v else j) i)
  | _ => none

/-- Lines i, i + 1, ... of run j of the descriptor at place `own`: line k of the descriptor is read in clock floor(5k / 208),
after the writes of earlier clocks to the same line. -/
def moverRun (p t own : Nat) (o : MvOp) (q : RunPick) (j : Nat) : Nat → Nat → List InFlight → (List InFlight → Act) → Act
  | 0, _, fl, k => k fl
  | n + 1, i, fl, k =>
    let now : Nat := 5 * (j * o.count0 + i) / 208
    moverLand p t (dueAt now o.srcSpace o.srcTile (moverSource o q j i)) fl fun fl => moverLine p t o q j i fun w =>
      moverRun p t own o q j n (i + 1)
        (fl ++ (match w with
          | some w => [⟨own, ((now + moveLatency o : Nat) : Int), o.dstSpace, o.dstTile, w.1, w.2⟩]
          | none => [])) k

/-- The line of the index list that run j reads. -/
def MvOp.indexAt (o : MvOp) (j : Nat) : Option Nat := if o.typ = 0 then none else some (o.indexLine + j / 64)

/-- Runs j, j + 1, ...; an index fault is counted and raises XFER_HAZARD. -/
def moverRuns (p t own : Nat) (o : MvOp) : Nat → Nat → List InFlight → (List InFlight → Act) → Act
  | 0, _, fl, k => k fl
  | n + 1, j, fl, k =>
    moverLand p t (dueAt ((5 * (j * o.count0) / 208 : Nat) : Int) .ls t (o.indexAt j)) fl fun fl => .ask fun s =>
      let q := s.runPick p t o j
      (Act.when (q == .fault) ((bump (tk .MOV_INDEX_ERR p t)).seq (causeAt p cHazard))).seq
        (moverRun p t own o q j o.count0 0 fl (fun r => moverRuns p t own o n (j + 1) r k))

/-! ## Starting and completing (R156, R163, R502) -/

/-- The next descriptor waits for a domain, whose wake it starts. -/
def moverWaits (p t d : Nat) : Act := (modTile p t (fun x => { x with mover := .waking d })).seq (demandWake d)

/-- A descriptor with its tiles by the map in force (R14). -/
def State.mvPlaced (s : State) (p t : Nat) (o : MvOp) : MvOp :=
  { o with srcTile := s.mvTile p t o.srcTile, dstTile := s.mvTile p t o.dstTile }

/-- The first descriptor that has not started. -/
def Tile.nextMove (x : Tile) : Option MvOp := x.queue[x.begun]?

/-- The queue once a descriptor has started: its last write comes `last` clk after the mover's next clk 0, which lies `ends` clk after
its own. -/
def Tile.startedQueue (x : Tile) (ends last : Int) : List MvOp := x.queue.mapIdx (fun i m =>
  if i < x.begun then { m with done := m.done - ends } else if i = x.begun then { m with done := last } else m)

/-- Clocks over which a descriptor reads its lines. -/
def MvOp.readClocks (o : MvOp) : Nat := 5 * (o.count0 * o.count1 - 1) / 208 + 1

/-- The descriptor is started, with its lines in flight; where its destination is asleep the first of them waits for its wake (R163). -/
def moverStarted (p t : Nat) (o : MvOp) (fl : List InFlight) : Act :=
  .ask fun s =>
    let x := s.tile p t
    let waits := s.mustWait p o.dstSpace o.dstTile && fl.any (fun w => w.own == x.begun)
    let d := spaceDomain p o.dstSpace o.dstTile
    (modTile p t (fun y => { y with
      mover := if waits then .waking d else .moving, begun := y.begun + 1
      queue := y.startedQueue o.readClocks (moveLatency o - 1)
      flight := fl.map (fun w => { w with clk := w.clk - o.readClocks }) })).seq (Act.when waits (demandWake d))

/-- The first descriptor not yet started, of the type named, starts in the clk after the one before it has read its last line, or
at its issue: it wakes its source where it is asleep, and reads its lines; what it writes is in flight. -/
def actMove (p t typ : Nat) : Act :=
  .ask fun s =>
    let x := s.tile p t
    match x.nextMove with
    | none => .done
    | some q =>
      let o := s.mvPlaced p t q
      if q.typ ≠ typ ∨ x.mover ≠ x.moverRests ∨ !s.unitsRun p t then .done
      else (setR (tk .MOV_STATUS_MVD p t) q.mvd).seq
        (if s.mustWait p o.srcSpace o.srcTile then moverWaits p t (spaceDomain p o.srcSpace o.srcTile)
         else moverRuns p t x.begun o o.count1 0 x.flight (moverStarted p t o))

def execCopy (p : PileId) (t : TileId) (s : State) : Host.Outcome State Fault Refusal := (actMove p.val t.val 0).answer s
def execGather (p : PileId) (t : TileId) (s : State) : Host.Outcome State Fault Refusal := (actMove p.val t.val 1).answer s
def execScatter (p : PileId) (t : TileId) (s : State) : Host.Outcome State Fault Refusal := (actMove p.val t.val 2).answer s

/-- The place in the queue of the started descriptor that completes next: the one whose last write comes first (R156). -/
def Tile.firstDone (x : Tile) : Nat :=
  let d (i : Nat) : Int := (x.queue[i]?.map MvOp.done).getD 0
  (List.range x.begun).foldl (fun b i => if d i < d b then i else b) 0

/-- The lines that are written up to the completion of the descriptor at place `i`. -/
def doneDue (i : Nat) (o : MvOp) (w : InFlight) : Bool := w.own == i || decide (w.clk ≤ o.done)

/-- The tile once the descriptor at place `i` has left the queue. -/
def Tile.moveDone (y : Tile) (i : Nat) (fl : List InFlight) : Tile :=
  { y with
    queue := y.queue.eraseIdx i, begun := y.begun - 1
    flight := fl.map (fun w => { w with own := if i < w.own then w.own - 1 else w.own })
    mover := if y.begun = 1 ∧ y.mover = .moving then .idle else y.mover }

/-- MOVER_DONE: the last write of the descriptor that completes next, with what is in flight until then; an AHEAD descriptor that no
gate has passed counts for the next phase. A RET that a plan holds back for AHEAD transfers begins after the last (R507). A write to a
domain that is asleep waits for its wake (R163). -/
def actMoverDone (p t : Nat) : Act :=
  .ask fun s =>
    let x := s.tile p t
    let i := x.firstDone
    match x.queue[i]? with
    | none => .done
    | some o =>
      if x.begun = 0 ∨ !s.unitsRun p t then .done
      else match (landing (doneDue i o) x.flight).1.find? (fun w => s.mustWait p w.space w.tile) with
        | some w => (Act.when (x.mover == .moving) (modTile p t (fun y => { y with mover := .waking (spaceDomain p w.space w.tile) }))).seq
            (demandWake (spaceDomain p w.space w.tile))
        | none => moverLand p t (doneDue i o) x.flight fun fl => Act.all [
            modTile p t (fun y => y.moveDone i fl),
            bump (tk (if o.ahead && !o.crossed then .SYNC_NEXT else .SYNC) p t o.syncIdx),
            Act.when ((s.dom (domTile p t)).retDue && !(x.queue.eraseIdx i).any MvOp.ahead)
              ((modDom (domTile p t) (fun x => { x with retDue := false })).seq (enter (domTile p t) 1))]
def execMoverDone (p : PileId) (t : TileId) (s : State) : Host.Outcome State Fault Refusal := (actMoverDone p.val t.val).answer s

end Sys2Proof.Machine
end

