-- ==== Sys2Proof/Machine/Faults.lean ====
section
/-! DEFINITION. Faults and wear (chapter 14): the records of an attempt and their classification, pattern-fault records, DUAL
comparison and arbitration, spare substitution, and ageing. -/

namespace Sys2Proof.Machine

/-! ## The records of an attempt (R395) -/

/-- The last hit of an array of a tile, or the first of its sequencer, gives the phase of the record. -/
def State.hitPhase (s : State) (p t unit : Nat) : Nat :=
  let hs := (s.pile p).flt.hits.filter (fun h => h.phys == t && h.unit == unit)
  ((if unit = 3 then hs.head? else hs.getLast?).map Hit.phase).getD (s.rd (pk .GATE_STATUS_PHASE p))

/-- The record of a failing array: for the comparison ARR_CHK_PREV counts where the attempt saw two failures, since of one it holds a
failure of another attempt (DEDUCED, log 66). -/
def State.arrayRec (s : State) (p t a : Nat) : List FaultRec :=
  let n := s.rd (tk .ARR_CHK_MISMATCH p t a)
  if n = 0 then [] else
    [⟨1, s.hitPhase p t a, t, a, s.named "ARR_CHK_LAST" p t a 0, if 2 ≤ n then s.named "ARR_CHK_PREV" p t a 0 else 0,
      s.rd (tk .ARR_CHK_DIG_D_A p t a), s.rd (tk .ARR_CHK_DIG_D_B p t a)⟩]

def State.seqRec (s : State) (p t : Nat) : List FaultRec :=
  if s.on (tk .TSQ_FAULT_VALID p t) then
    [⟨3, s.hitPhase p t 3, t, 3, s.rd (tk .TSQ_FAULT_CODE p t), s.rd (tk .TSQ_FAULT_SLOT p t), s.rd (tk .TSQ_FAULT_PC p t), 0⟩]
  else []

def State.dualRec (s : State) (p : Nat) : List FaultRec :=
  if s.on (pk .DUAL_LAST_VALID p) then
    [⟨2, s.rd (pk .DUAL_LAST_PHASE p), 0, s.rd (pk .DUAL_LAST_PAIR p), s.rd (pk .DUAL_LAST_SEQ p), 0,
      s.rd (pk .DUAL_LAST_DIG_A p), s.rd (pk .DUAL_LAST_DIG_B p)⟩]
  else []

/-- Every fault record of the running attempt. -/
def State.faultRecs (s : State) (p : Nat) : List FaultRec :=
  (List.range 9).flatMap (fun t => (List.range 3).flatMap (s.arrayRec p t) ++ s.seqRec p t) ++ s.dualRec p

/-- Two records agree in every field of R395. -/
def sameFault (x y : FaultRec) : Bool :=
  x.kind == y.kind && x.unit == y.unit && x.a == y.a &&
  (if x.kind = 2 then x.phase == y.phase
   else x.phys == y.phys && x.b == y.b && x.c == y.c && x.d == y.d)

/-! ## Pattern-fault records (R399) -/

/-- A record's fields beside those of the fault itself. -/
def State.pfBase (s : State) (p phys kind phase : Nat) : PfRec :=
  { step := s.step, phase := phase, kind := kind, pile := p, device := s.deviceNo, phys := phys, log := (s.logOf p phys).getD 0
    months := s.rd (dk .AGE_EOL_MONTHS (9 * p + phys)) }

/-- Enter a record into the ring and raise its event. -/
def putRecord (p : Nat) (r : PfRec) : Act :=
  .ask fun s =>
    let i := (s.pile p).flt.next
    Act.all [
      modFlt p (fun x => { x with ring := SMap.set x.ring i (some r), next := (i + 1) % 32 }),
      setR (pk .FLT_TILE_PF_INDEX p r.phys) i,
      raiseEvent 0x000F p ([i, r.kind, r.phys, r.action] ++ bytesLE 8 r.step)]

/-- The fuse entry of a tile (R491). -/
def tileEntry (p t : Nat) : BitVec 32 := BitVec.ofNat 32 (2 ^ 29 + p * 2 ^ 25 + t)

/-- Where a tile's fault comes from, as a proposal says (R494): 5 ageing, else 2 a pattern fault. -/
def tileSource (kind : Nat) : Nat := if kind = 5 then 5 else 2

/-- A record of a tile that no spare can replace, with the tile-retired event (R402). The tile stays in service, and is proposed, so that
the next boot excludes it (R492; log 135). -/
def noSpare (p : Nat) (r : PfRec) : Act := Act.all [
  putRecord p { r with action := 2 }, raiseEvent 0x0010 p [r.phys], propose (tileSource r.kind) (tileEntry p r.phys), waxDirty]

/-- A queue with a substitution added: one for ageing stays behind the others (R409). -/
def withSubst (q : Subst) (xs : List Subst) : List Subst :=
  if q.kind = 5 then xs ++ [q] else xs.filter (fun x => x.kind != 5) ++ [q] ++ xs.filter (fun x => x.kind == 5)

/-- Queue a tile's substitution; one already queued stays once, but an arbitration's swap has its own place. -/
def queueSubst (p phys kind : Nat) : Act :=
  modFlt p (fun x => if x.queue.any (fun q => q.phys == phys && (kind != 0 || q.kind == 0)) then x
    else { x with queue := withSubst ⟨phys, kind⟩ x.queue })

/-- A tile is found permanent (kinds 1 to 3) or marginal (4, 5): its record is made, and its substitution queued where a spare
is free and AUTO_SPARE allows it (R396, R397, R402, R403, R408). A tile becomes marginal by its transients once (log 68). -/
def condemn (p : Nat) (r : PfRec) : Act :=
  .ask fun s =>
    if r.kind == 4 && s.on (pk .FLT_TILE_MARGINAL p r.phys) then .done
    else (setR (if r.kind < 4 then pk .FLT_TILE_PERMANENT p r.phys else pk .FLT_TILE_MARGINAL p r.phys) 1).seq
      (if !s.on (dk .CHK_CTL_AUTO_SPARE) then putRecord p { r with action := 3 }
       else if (s.pile p).flt.spare.isNone then noSpare p r
       else (putRecord p { r with action := 0 }).seq (queueSubst p r.phys r.kind))

/-! ## Transients (R396) -/

/-- Count a tile's transients within the window; at the limit it is marginal (log 67). -/
def countTransients (p t : Nat) : Act :=
  .ask fun s =>
    let w := s.rd (dk .CHK_CTL_TRANSIENT_WINDOW)
    let old := SMap.getD (s.pile p).flt.trans t []
    let ts := old.filter (fun n => decide (s.job.ended ≤ n + w))
    Act.when (!old.isEmpty) (Act.all [
      modFlt p (fun x => { x with trans := SMap.put [] x.trans t ts }),
      setR (pk .FLT_TILE_TRANSIENTS p t) (min 255 ts.length),
      Act.when (!ts.isEmpty && decide (s.rd (dk .CHK_CTL_TRANSIENT_LIMIT) ≤ ts.length))
        (condemn p (s.pfBase p t 4 (s.rd (pk .GATE_STATUS_PHASE p))))])

def transientOn (p t : Nat) : Act :=
  .ask fun s => (modFlt p (fun x => { x with trans := SMap.set x.trans t (some (SMap.getD x.trans t [] ++ [s.job.ended])) })).seq
    (countTransients p t)

/-! ## DUAL pairs (R390-R392, R397, R398) -/

/-- The pair of an index. -/
def State.dualPair (s : State) (i : Nat) : Option DualPair := s.job.image.bind (fun g => g.duals[i]?)

/-- An output digest of the phase, with its poison flag. -/
def State.outDigest (s : State) (p t unit seq : Nat) : Option (Nat × Bool) :=
  (SMap.find? (s.tile p t).outDigs (unit * 65536 + seq)).map (fun v => (v / 2, v % 2 == 1))

/-- Compare operation i of a pair; a half that wrote nothing, or poison, is not compared. -/
def comparePair (p idx : Nat) (d : DualPair) (i : Nat) : Act :=
  .ask fun s =>
    match s.outDigest p (s.physOf p d.tileA) d.unitA (d.firstSeq + i), s.outDigest p (s.physOf p d.tileB) d.unitB (d.firstSeq + i) with
    | some (a, false), some (b, false) =>
      (bump (pk .DUAL_COMPARE p)).seq (Act.when (a != b) (Act.all [
        bump (pk .DUAL_MISMATCH p),
        modFlt p (fun x => { x with mism := x.mism ++ [⟨2, s.rd (pk .GATE_STATUS_PHASE p), 0, idx, i, 0, a, b⟩] }),
        Act.when (!s.on (pk .DUAL_LAST_VALID p)) (Act.all [
          setR (pk .DUAL_LAST_DIG_A p) a, setR (pk .DUAL_LAST_DIG_B p) b,
          setR (pk .DUAL_LAST_PHASE p) (s.rd (pk .GATE_STATUS_PHASE p)), setR (pk .DUAL_LAST_PAIR p) idx,
          setR (pk .DUAL_LAST_SEQ p) i, setR (pk .DUAL_LAST_VALID p) 1]),
        Act.when (s.on (dk .CHK_CTL_DUAL_EN)) (causeAt p cDual)]))
    | _, _ => .done

/-- The comparisons of a phase, in pair-table order (R392). -/
def comparePairs (p : Nat) : Act :=
  .ask fun s => match s.job.image with
    | none => .done
    | some g => Act.all (g.duals.mapIdx (fun idx d =>
        Act.when (d.pile == p && d.phaseEntry == (s.pile p).gate.entry) (Act.each (List.range d.count) (comparePair p idx d))))

/-- The record of one half of a mismatching pair: the half on a physical tile is the faulty one. -/
def State.dualPf (s : State) (p : Nat) (f : FaultRec) (phys : Nat) (isA : Bool) (attempts : Nat) : PfRec :=
  let unit := match s.dualPair f.unit with
    | some d => if isA then d.unitA else d.unitB
    | none => 3
  { s.pfBase p phys 2 f.phase with
    locLast := f.unit * 65536 + f.a
    dig1 := (if isA then f.c else f.d)
    dig2 := (if isA then f.d else f.c)
    attempts := attempts, array := min 3 unit }

/-- The halves of a pair: physical tile and whether it is HALF_A, the lower-numbered tile first. -/
def State.halves (s : State) (p pair : Nat) : List (Nat × Bool) := match s.dualPair pair with
  | none => []
  | some d =>
    let a := s.physOf p d.tileA
    let b := s.physOf p d.tileB
    if a < b then [(a, true), (b, false)] else [(b, false), (a, true)]

/-- Whether the operation of a half failed under R111 in this attempt or the one before. -/
def State.halfHit (s : State) (p : Nat) (f : FaultRec) (h : Nat × Bool) : Bool := match s.dualPair f.unit with
  | none => false
  | some d =>
    let unit := if h.2 then d.unitA else d.unitB
    decide (unit < 3) && ((s.pile p).flt.hits ++ (s.pile p).flt.hitsPrev).contains ⟨f.phase, h.1, unit, d.firstSeq + f.a⟩

/-- Both halves are condemned, where the pile cannot arbitrate (R398). -/
def condemnBoth (p : Nat) (f : FaultRec) (attempts : Nat) : Act :=
  .ask fun s => Act.each (s.halves p f.unit) (fun h => condemn p (s.dualPf p f h.1 h.2 attempts))

/-- A reproduced mismatch: a half with a failing operation is permanent, else the pair is arbitrated (R397, R398), where the pile's spare is
free, which one that a queued substitution will take is not. -/
def dualReproduced (p : Nat) (f : FaultRec) : Act :=
  .ask fun s => match (s.halves p f.unit).filter (s.halfHit p f) with
    | h :: hs => Act.each (h :: hs) (fun h => condemn p (s.dualPf p f h.1 h.2 2))
    | [] =>
      match s.halves p f.unit, (s.pile p).flt.spare with
      | a :: b :: _, some _ =>
        if !s.on (dk .CHK_CTL_AUTO_SPARE) || !(s.pile p).flt.queue.isEmpty then condemnBoth p f 2
        else Act.all [
          modFlt p (fun x => { x with arb := some ⟨f.unit, a.1, b.1, 0, 0, f⟩ }),
          putRecord p { s.dualPf p f a.1 a.2 2 with action := 1 },
          queueSubst p a.1 0]
      | _, _ => condemnBoth p f 2

/-- Whether the half on a physical tile was HALF_A when the mismatch was found. -/
def State.wasA (s : State) (p : Nat) (x : Arb) (phys : Nat) : Bool :=
  match s.dualPair x.pair with
  | none => true
  | some d => s.physOf p d.tileA == phys || (s.physOf p d.tileA == x.spare && s.physOf p d.tileB != phys)

/-- A tile is permanent and the spare stays in its place: retired and proposed (R398, R400). -/
def retireTile (p t source : Nat) : Act := Act.all [
  setR (pk .FLT_TILE_RETIRED p t) 1, propose source (tileEntry p t), waxDirty]

/-- A half is found faulty by arbitration, after some number of attempts that showed it; the spare stands in for it or not. -/
def arbFaulty (p : Nat) (x : Arb) (phys attempts : Nat) (replaced : Bool) : Act :=
  .ask fun s =>
    let r := { s.dualPf p x.start phys (s.wasA p x phys) attempts with
      log := ((s.logOf p phys).or (s.logOf p x.spare)).getD 0 }
    (setR (pk .FLT_TILE_PERMANENT p phys) 1).seq
      (if replaced then (putRecord p { r with action := 0 }).seq (retireTile p phys 2) else noSpare p r)

def endArb (p : Nat) : Act := modFlt p (fun x => { x with arb := none })

/-- The outcome of an attempt in which the spare runs a half (R398). -/
def arbOutcome (p : Nat) (x : Arb) (mismatch : Bool) : Act :=
  if x.stage = 1 then
    (if mismatch then (modFlt p (fun y => { y with arb := some { x with stage := 2 } })).seq (queueSubst p x.physB 0)
     else (arbFaulty p x x.physA 2 true).seq (endArb p))
  else if x.stage = 3 then
    (if mismatch then Act.all [arbFaulty p x x.physA 4 false, arbFaulty p x x.physB 4 true, endArb p]
     else (arbFaulty p x x.physB 3 true).seq (endArb p))
  else .done

/-! ## Classification (R395-R398) -/

/-- A fault that has reproduced in this step is classified, and not again (DEDUCED, log 68). -/
def State.knownFault (s : State) (p : Nat) (f : FaultRec) : Bool := (s.pile p).flt.found.any (fun g => sameFault g f)

/-- A fault that reproduced. -/
def reproduced (p : Nat) (f : FaultRec) : Act :=
  ((bump (pk .FLT_PERMANENT p)).seq (modFlt p (fun x => { x with found := x.found ++ [f] }))).seq (.ask fun s =>
    if f.kind = 2 then dualReproduced p f
    else if f.kind = 1 then condemn p { s.pfBase p f.phys 1 f.phase with
      locLast := f.a, locPrev := s.named "ARR_CHK_PREV" p f.phys f.unit 0, dig1 := f.c, dig2 := f.d, attempts := 2, array := f.unit }
    else condemn p { s.pfBase p f.phys 3 f.phase with
      locLast := 2 ^ 31 + f.a * 2 ^ 26 + f.b * 2 ^ 24 + f.c, attempts := 2 })

/-- A fault that did not reproduce: a mismatch names neither half, so both tiles count it (log 69). -/
def passed (p : Nat) (f : FaultRec) : Act :=
  (bump (pk .FLT_TRANSIENT p)).seq (.ask fun s =>
    if f.kind = 2 then Act.each (s.halves p f.unit) (fun h => transientOn p h.1) else transientOn p f.phys)

/-- The patrol core's work at finish-gate readiness: the attempt's records against those of the discarded attempt of the same
step before it. A pair under arbitration is not classified anew (log 65). -/
def classify (p : Nat) : Act :=
  .ask fun s =>
    let x := (s.pile p).flt
    let cur := s.faultRecs p
    let ours (f : FaultRec) : Bool := match x.arb with
      | some a => sameFault a.start f
      | none => false
    let old := if s.job.replayOf then x.prev.filter (fun f => !ours f && !s.knownFault p f) else []
    Act.all [
      Act.when (!s.job.replayOf) (modFlt p (fun y => { y with found := [] })),
      (match x.arb with
       | some a => arbOutcome p a (x.mism.any (sameFault a.start))
       | none => .done),
      Act.each old (fun f => match cur.find? (sameFault f) with
        | some g => reproduced p g
        | none => passed p f),
      modFlt p (fun y => { y with prev := cur, hitsPrev := y.hits })]

/-! ## Substitution (R400-R403) -/

/-- Lines of a local store up to its program region, as written. -/
def State.storeLines (s : State) (p t : Nat) : List (Nat × Line) :=
  (s.sram.filter (fun kv => inRun kv.1 (lsAddr p t 0) (s.regionFirst p t))).map (fun kv => (kv.1 - lsAddr p t 0, kv.2))

/-- A line copied with block checking in force: one that fails is poisoned and counted at the tile that receives it (log 70), and that new
poison is watched for (R362). Poison that the line keeps has been written before. -/
def copyLine (p dst : Nat) (x : Nat × Line) : Act :=
  let l : Line := { x.2 with poison := x.2.poison || !lineCheckOk x.2 }
  Act.all [
    Act.when (!lineCheckOk x.2) (bump (tk .MOV_CHECK_FAIL p dst)), emit (.sram (lsAddr p dst x.1) l),
    Act.when (!x.2.poison) (poisonWatch p .ls dst x.1 l)]

/-- The lines of the data region that nothing has written are copied as they read, and counted where they fail. -/
def countBlank (p old new : Nat) : Act :=
  .ask fun s => Act.when (!lineCheckOk blankLine)
    (bump (tk .MOV_CHECK_FAIL p new) (s.regionFirst p old - (s.storeLines p old).length))

/-- The program of a logical tile. -/
def State.programOf (s : State) (p j : Nat) : Option Program :=
  s.job.image.bind (fun i => i.programs.find? (fun g => g.pile == p && g.tile == j))

/-- A physical tile goes OFF. -/
def tileOff (p t : Nat) : Act := Act.all [
  setR (dk .PWR_STATE_STATE (domTile p t)) 2, setR (pHeld (domTile p t)) 1, modDom (domTile p t) (fun _ => {}), clearTile p t]

/-- The transfers ahead of their phase that logical tile j has pending move with it, with the counts they have raised, and what the
pile's movers have in flight for its local store lands in the new one (R14, R22; DESIGN CHOICE, log 122). -/
def moveTransfers (p old new : Nat) : Act :=
  .ask fun s => Act.all [
    modTile p new (fun x =>
      let y := s.tile p old
      { x with arrived := y.arrived, gatePc := y.gatePc, queue := y.queue, begun := y.begun, flight := y.flight, mover := y.moverRests }),
    Act.each (List.range 9) (fun i => modTile p i (fun x => { x with
      flight := x.flight.map (fun w => if w.space = .ls ∧ w.tile = old then { w with tile := new } else w) })),
    Act.each [.SYNC, .SYNC_NEXT] (fun f => Act.each (List.range 16) (fun n => setR (tk f p new n) (s.rd (tk f p old n))))]

/-- Logical tile j moves from one physical tile to another: data, program from the image, map, pending transfers, and the old tile
OFF. -/
def swapTile (p j old new : Nat) : Act :=
  .ask fun s => Act.all [
    domainUp (domTile p new),
    emit (.dropSram (lsAddr p new 0) lsLines),
    setR (pk .FLT_STATUS_MAP p) (s.rd (pk .FLT_STATUS_MAP p) - old * 16 ^ j + new * 16 ^ j),
    Act.each (s.storeLines p old) (copyLine p new), countBlank p old new,
    (match s.programOf p j with
     | some g => writeProgram p new g
     | none => .done),
    setR (tk .TSQ_STATUS_IN_GATE p new) (s.rd (tk .TSQ_STATUS_IN_GATE p old)),
    moveTransfers p old new,
    modRue p (fun r => { r with nfGone := r.nfGone + s.tileNonfinites p old }),
    tileOff p old,
    bump (pk .FLT_SUBST p)]

/-- The spare fails its self-test: retired for this boot. -/
def spareFails (p t : Nat) : Act := Act.all [
  domainUp (domTile p t), setR (pk .FLT_TILE_RETIRED p t) 1, modFlt p (fun x => { x with spare := none })]

/-- R402 for a tile whose queued substitution cannot be made: its record again, with ACTION 2. -/
def noSpareNow (p phys : Nat) : Act :=
  .ask fun s => match SMap.find? (s.pile p).flt.ring (s.rd (pk .FLT_TILE_PF_INDEX p phys)) with
    | some r => noSpare p { r with step := s.step }
    | none => .done

/-- A queued substitution of a permanent, marginal or ageing tile. -/
def substitute (p : Nat) (q : Subst) (ok : Bool) : Act :=
  .ask fun s => match s.logOf p q.phys, (s.pile p).flt.spare with
    | some j, some t =>
      if ok then Act.all [
        swapTile p j q.phys t, modFlt p (fun x => { x with spare := none }),
        retireTile p q.phys (tileSource q.kind)]
      else (spareFails p t).seq (noSpareNow p q.phys)
    | some _, none => noSpareNow p q.phys
    | none, _ => .done

/-- An arbitration's substitution: the spare into the first half, or out of it and into the second (R398; log 71). -/
def arbSubstitute (p : Nat) (x : Arb) (ok : Bool) : Act :=
  .ask fun s =>
    if x.stage = 0 then
      match s.logOf p x.physA, (s.pile p).flt.spare with
      | some j, some t =>
        if ok then Act.all [
          swapTile p j x.physA t,
          modFlt p (fun y => { y with spare := none, arb := some { x with spare := t, stage := 1 } })]
        else Act.all [endArb p, spareFails p t, condemnBoth p x.start 2]
      | _, _ => (endArb p).seq (condemnBoth p x.start 2)
    else match s.logOf p x.spare, s.logOf p x.physB with
      | some j, some i => (swapTile p j x.spare x.physA).seq
          (if ok then Act.all [
             swapTile p i x.physB x.spare,
             modFlt p (fun y => { y with arb := some { x with stage := 3 } })]
           else Act.all [endArb p, spareFails p x.spare, condemnBoth p x.start 3])
      | _, _ => endArb p

/-- SPARE_SUBSTITUTION: the first queued substitution runs, one within a step boundary; `ok` is the self-test of the spare. -/
def actSpareSubstitution (p : Nat) (ok : Bool) : Act :=
  .ask fun s => match (s.pile p).flt.queue with
    | [] => .done
    | q :: rest =>
      if !s.atBoundary p || (s.jobLoaded && (s.pile p).flt.did) then .done
      else Act.all [
        modFlt p (fun x => { x with queue := rest, did := true }),
        (match q.kind, (s.pile p).flt.arb with
         | 0, some x => arbSubstitute p x ok
         | 0, none => .done
         | _, _ => substitute p q ok)]

def execSpareSubstitution (p : PileId) (selfTestOk : Bool) (s : State) : Host.Outcome State Fault Refusal :=
  (actSpareSubstitution p.val selfTestOk).answer s

/-- A job's end drops an arbitration: the tile out of service that is not retired is the spare (log 71). -/
def dropArb (p : Nat) : Act :=
  .ask fun s => match (s.pile p).flt.arb with
    | none => .done
    | some _ =>
      let idle := (List.range 9).find? (fun t => (s.logOf p t).isNone && !s.on (pk .FLT_TILE_RETIRED p t))
      Act.all [
        modFlt p (fun x => { x with arb := none, spare := idle, queue := x.queue.filter (fun q => q.kind != 0) }),
        (match idle with
         | some t => (domainUp (domTile p t)).seq (setR (dk .PWR_STATE_STATE (domTile p t)) 1)
         | none => .done)]

/-! ## Ageing (R404-R409) -/

/-- The largest number whose fifth power is at most n, by bits from the highest of k down. -/
def fifthRoot (n : Nat) : Nat → Nat → Nat
  | 0, r => r
  | k + 1, r => fifthRoot n k (if (r + 2 ^ k) ^ 5 ≤ n then r + 2 ^ k else r)

/-- t^0.2 and t^0.4 in units of 2^-40. -/
def pow02 (t : Nat) : Nat := fifthRoot (t * 2 ^ 200) 64 0
def pow04 (t : Nat) : Nat := fifthRoot (t ^ 2 * 2 ^ 200) 64 0

/-- A prediction of n / d months: negative reads 0, and past 65,534 no end. The rounding to whole months is open, so a free
bit chooses between the two nearest (R406; log 72). -/
def monthsOf (n : Int) (d : Nat) (f : Nat) : Nat :=
  if d = 0 then 0xFFFF
  else if n < 0 then 0
  else
    let q := n.toNat / d + (if n.toNat % d = 0 then 0 else f % 2)
    if 65534 < q then 0xFFFF else q

/-- A tile's prediction from its samples; a fit that does not grow predicts no end (log 72). -/
def tileMonths (xs : List AgeSample) (f : Nat) : Nat :=
  let num := ((xs.map (fun x => x.quantity * (pow02 x.hours : Int))).sum).toNat
  let den := (xs.map (fun x => pow04 x.hours)).sum
  let t := (xs.getLast?.map AgeSample.hours).getD 0
  let r := max (100 * (xs.getLast?.map AgeSample.onShare).getD 0) 65536
  let x := den * 65536
  let y := 20 * num
  if num = 0 then 0xFFFF
  else monthsOf ((((x ^ 5 : Nat) : Int) - ((t * y ^ 5 : Nat) : Int)) * 13107200) (y ^ 5 * r * 1461) f

/-- A linear prediction: samples by day against a limit in tenths of 2^-16. -/
def linearMonths (xs : List AgeSample) (limit : Nat) (f : Nat) : Nat :=
  let n : Int := xs.length
  let sx : Int := (((xs.map AgeSample.hours).sum : Nat) : Int)
  let sy : Int := (xs.map (fun x => 10 * x.quantity)).sum
  let sxx : Int := (((xs.map (fun x => x.hours ^ 2)).sum : Nat) : Int)
  let sxy : Int := (xs.map (fun x => (x.hours : Int) * (10 * x.quantity))).sum
  let b := n * sxy - sx * sy
  let d := n * sxx - sx ^ 2
  let now : Int := (xs.getLast?.map AgeSample.hours).getD 0
  if d ≤ 0 ∨ 0 ≤ b then 0xFFFF
  else monthsOf (-((limit * n * d - sy * d + b * sx) - n * b * now) * 100) ((-(n * b)).toNat * 3044) f

/-- 1.10 x 10^8 A h in units of 1/16 A ms. -/
def coreLimit : Nat := 110000000 * 57600000

/-- The core's prediction from the charges of its samples by day. -/
def coreMonths (xs : List AgeSample) (charge : Nat) (f : Nat) : Nat :=
  let now := (xs.getLast?.map AgeSample.hours).getD 0
  let first := xs.headD ⟨0, 0, 0⟩
  match xs.find? (fun x => decide (now < x.hours + 31)) with
  | none => 0xFFFF
  | some x =>
    if first.hours + 30 ≤ now then monthsOf ((coreLimit : Int) - charge) (charge - x.quantity.toNat) f
    else monthsOf (((coreLimit : Int) - charge) * (100 * (now - first.hours))) ((charge - first.quantity.toNat) * 3044) f

/-- A domain's prediction. -/
def ageMonths (d : Nat) (xs : List AgeSample) (charge f : Nat) : Nat :=
  if d < 144 then tileMonths xs f
  else if d < 160 then linearMonths xs 1310720 f
  else if d < 192 then linearMonths xs 262144 f
  else coreMonths xs charge f

/-- The pile of an ageing domain; 0xFF for the package's. -/
def agePile (d : Nat) : Nat := if d < 144 then d / 9 else if d < 160 then d - 144 else if d < 192 then (d - 160) / 2 else 0xFF

/-- Rows of the weak-row map that the patrol core moves: those of the weakest monitor banks, which a free value names. -/
def queueWeak (p : Nat) : List Nat → Act
  | [] => .done
  | r :: rest => withFree fun f => (Act.when (f % 2 == 1) (queueMove p r)).seq (queueWeak p rest)

/-- The action of a crossing (R408). A free value says which lane has the smallest eye and in which direction: a receive lane is spared as
R261 spares a marginal one, and the spare of a transmit lane is the far end's to ask for, which receives it (DEDUCED, log 72). -/
def ageAction (d : Nat) : Act :=
  .ask fun s =>
    if d < 144 then condemn (d / 9) { s.pfBase (d / 9) (d % 9) 5 (s.rd (pk .GATE_STATUS_PHASE (d / 9))) with attempts := 0 }
    else if d < 160 then (setR (pk .GROOM_CTL_PERIOD_MIN (d - 144)) 60).seq (queueWeak (d - 144) (s.pile (d - 144)).mem.weak)
    else if d < 192 then
      let p := (d - 160) / 2
      let k := (d - 160) % 2
      withFree fun f => Act.when (f % 2 == 0 && (spareLane (s.port p k).rxMap (s.port p k).rxBad).isSome)
        (needSpare p k ((s.port p k).rxMap.getD (f / 2 % 8) 8))
    else .done

/-- One domain's sample and prediction. A core's sample is the charge integrated so far. -/
def ageOne (d : Nat) (x : AgeSample) : Act :=
  withFree fun f => .ask fun s =>
    let x := if d = 192 then { x with quantity := s.pwr.charge } else x
    let all := SMap.getD s.pwr.age d [] ++ [x]
    let xs := all.drop (all.length - 90)
    let valid := agesEnough d xs.length
    let old := s.rd (dk .AGE_EOL_MONTHS d)
    let new := ageMonths d xs s.pwr.charge f
    let th := s.rd (dk .AGE_CTL_THRESH_MONTHS)
    Act.all [
      modPwr (fun w => { w with age := SMap.put [] w.age d xs }),
      setR (dk .AGE_EOL_SAMPLES d) xs.length,
      Act.when valid (Act.all [
        setR (dk .AGE_EOL_VALID d) 1, setR (dk .AGE_EOL_MONTHS d) new,
        Act.when (decide (new < th ∧ th ≤ old)) (Act.all [
          setR (dk .AGE_EOL_QUEUED d) 1, raiseEvent 0x0011 (agePile d) (bytesLE 2 d ++ bytesLE 2 new), ageAction d])])]

/-- AGEING_SAMPLE: the daily samples of the domains, in the order of R404. -/
def actAgeingSample (xs : List AgeSample) : Act :=
  .ask fun s => Act.when (s.on (dk .AGE_CTL_ENABLE) && s.ready 1)
    ((Act.all ((xs.take 193).mapIdx ageOne)).seq waxDirty)

def execAgeingSample (samples : List AgeSample) (s : State) : Host.Outcome State Fault Refusal := (actAgeingSample samples).answer s

end Sys2Proof.Machine
end

