-- ==== Sys2Proof/Machine/Rue.lean ====
section
/-! DEFINITION. The reduction and update engine's operations (chapters 11 and 12): COMPRESS, READOUT, the two update passes,
and what it does with each line that a receive delivers. -/

namespace Sys2Proof.Machine

/-! ## Reading and running -/

/-- A packet, state, gather or accumulator line as the RUE takes it: under block checking one that fails is poisoned and counted (R393). A
line that is poisoned already fails as poison, and its tag is not examined (R43). -/
def rueTakes (p : Nat) (l : Line) (k : Line → Act) : Act :=
  .ask fun s =>
    let bad := s.checking p && !l.poison && !lineCheckOk l
    (Act.when bad (bump (pk .RUE_CHECK_FAIL p))).seq (k { l with poison := l.poison || bad })

def rueRead (p : Nat) (sp : Space) (line : Nat) (k : Line → Act) : Act := getLine p sp 0 line (rueTakes p · k)

def rueLines (p : Nat) (sp : Space) (line : Nat) : Nat → (List Line → Act) → Act
  | 0, k => k []
  | n + 1, k => rueRead p sp line (fun l => rueLines p sp (line + 1) n (fun r => k (l :: r)))

/-- Blocks of a format from lines, decoded into FP32: a value beyond its range is infinite (R63). -/
def blocksOf (f : Nat) (ls : List Line) : List DBlock :=
  (chunks (fmtLines f) ls ls.length).map (fun b => let d := decodeBlock f b
    { d with vals := d.vals.map (fun x => num32 (BitVec.ofNat 32 (fp32Exact x).bits)) })

/-- What a converter counts as it decodes (R63, R81): zeros and non-finite values, overflows among them; elements read as poisoned count
nothing (log 118). -/
def decodeCounts (bs : List DBlock) : XoCounts :=
  let seen := bs.flatMap (fun b => ((b.vals.zip b.poison).filter (fun q => !q.2)).map Prod.fst)
  { nonfin := (seen.filter (fun x => !x.finite)).length, zero := (seen.filter FNum.isZero).length }

def blockVals (bs : List DBlock) : List FNum := bs.flatMap DBlock.vals

/-- Whether a block's values are not all good. -/
def DBlock.bad (b : DBlock) : Bool := b.malformed || b.poison.any id

/-- Row 5 of XO_OP_COUNT for FP32 blocks that the RUE's converters write, unless they are poisoned: zeros and non-finite inputs (R60, R81;
log 37). -/
def countWritten (p : Nat) (vals : List FNum) (bad : Bool) : Act := Act.when (!bad) (countXo p 0 5 (baseCounts vals))

/-- A RUE operation runs in a phase of its pile, once its memory is awake; RUE_DONE counts it (R222; log 36). -/
def rueOp (p : Nat) (usesBuf : Bool) (k : Act) : Act :=
  .ask fun s =>
    if !s.inPhase p || !s.ready (domCtl p) || (s.pile p).resetSrc != 0 then .done
    else if s.mustWait p .dram 0 then demandWake (domMem p)
    else if usesBuf && s.mustWait p .buf 0 then demandWake (domBuf p)
    else k.seq (modRue p (fun r => { r with rueDone := r.rueDone + 1 }))

def bucketOf (i : Image) (id : Nat) : Option Bucket := i.buckets.find? (fun b => b.id == id)

/-! ## COMPRESS (R299-R304) -/

/-- What follows once G and the residual are read: packet, residual, counts. -/
def compressInto (p : Nat) (b : Bucket) (c : Contribution) (g r : List DBlock) : Act :=
  .ask fun s =>
    let bad := g.any DBlock.bad || r.any DBlock.bad
    let tid := (b.gradTid + c.index) % 2 ^ 32
    let o := packBucket b (blockVals g) (blockVals r) (fun x => (⟨s.job.seed, s.step, tid, 0, x / 256⟩ : DrawKey).draw (x % 256))
    let tr := trailerLine b c.index s.step (wideSquares (blockVals g)) (absMaxOf o.2).toNat o.1.counts.nonfin
    let ls := o.1.lines ++ [tr]
    Act.all [
      putLines p .buf 0 c.pktLine (ls.map (fun l => { l with poison := l.poison || bad })),
      bump (pk .RED_SENT p) ls.length,
      Act.when (b.comp != 0) (putLines p .dram 0 (c.resLine + 8 * b.blocks * (1 - s.ver p)) (fp32Lines o.1.residual bad)),
      countHealth p b.tracker tid o.1.counts, clearXo p 0 5, countXo p 0 5 (decodeCounts (g ++ r)), countXo p 0 5 o.1.counts,
      Act.when (b.comp != 0) (countWritten p o.1.residual bad)]

def actCompress (p bucket index : Nat) : Act :=
  .ask fun s => match s.job.image with
    | none => .done
    | some i => match bucketOf i bucket, i.contribs.find? (fun c => c.bucket == bucket && c.index == index && c.pile == p) with
      | some b, some c => rueOp p true (rueLines p .dram c.gLine (8 * b.blocks) (fun g =>
          if b.comp = 0 then compressInto p b c (blocksOf 2 g) []
          else rueLines p .dram (c.resLine + 8 * b.blocks * s.ver p) (8 * b.blocks) (fun r =>
            compressInto p b c (blocksOf 2 g) (blocksOf 2 r))))
      | _, _ => .done

/-- COMPRESS: one contribution of the pile. -/
def execCompress (p : PileId) (bucket index : Nat) (s : State) : Host.Outcome State Fault Refusal :=
  (actCompress p.val bucket index).answer s

/-! ## Accumulating (R305-R307, R309) -/

def State.bktRun (s : State) (p id : Nat) : Option BktRun := SMap.find? (s.pile p).rue.bkts id
def modBkt (p id : Nat) (f : BktRun → BktRun) : Act :=
  modRue p (fun r => { r with bkts := SMap.set r.bkts id (some (f (SMap.getD r.bkts id {}))) })

/-- A bucket's record in the current set changes (R319). -/
def modRec (p id : Nat) (f : BktRec → BktRec) : Act :=
  modPile p (fun x => { x with bktRecs := { x.bktRecs with
    cur := SMap.set x.bktRecs.cur id (some (f (SMap.getD x.bktRecs.cur id ⟨0, 0, 0, 0, {}, {}, 0, false⟩))) } })

/-- EREF of a tracker in effect for the running step, as the pile's copy of the record holds it (R85, R87). -/
def State.eref (s : State) (p tracker : Nat) : Int := ((s.tracker p tracker).map Tracker.eref).getD 0

/-- The accumulators are zero before the first contribution of an attempt. -/
def clearAcc (p : Nat) (b : Bucket) : Act :=
  .ask fun s => Act.when (s.bktRun p b.id).isNone
    ((modBkt p b.id id).seq (putLines p b.accSpace 0 b.accLine (List.replicate (32 * b.blocks) (accLine (List.replicate 8 0)))))

/-- Add values to the accumulators of one line; a poisoned line stays so, and its bucket with it. -/
def addToLine (p : Nat) (b : Bucket) (j : Nat) (vs : List (Nat × FNum)) : Act :=
  rueRead p b.accSpace (b.accLine + j) fun l => .ask fun s =>
    let step (a : List Int × Nat) (v : Nat × FNum) : List Int × Nat :=
      let r := accTake (s.eref p b.tracker) (a.1.getD (v.1 % 8) 0) v.2
      (a.1.set (v.1 % 8) r.1, if r.2 then a.2 + 1 else a.2)
    let r := vs.foldl step ((List.range 8).map (accOf l), 0)
    Act.all [
      putLine p b.accSpace 0 (b.accLine + j) { accLine r.1 with poison := l.poison }, bump (pk .RED_OOR p) r.2,
      Act.when l.poison (modBkt p b.id (fun x => { x with bad := true }))]

/-- Values by the accumulator line they fall in. -/
def addValues (p : Nat) (b : Bucket) (vs : List (Nat × FNum)) : Act :=
  let keys := (vs.foldl (fun (m : SMap Unit) v => SMap.set m (v.1 / 8) (some ())) []).map Prod.fst
  Act.each keys (fun j => addToLine p b j (vs.filter (fun v => v.1 / 8 == j)))

/-- A packet's trailer: received, and good where it names this bucket and step; the bucket's record shows it as it arrives (R319). -/
def takeTrailer (p : Nat) (b : Bucket) (l : Line) : Act :=
  .ask fun s =>
    let bs := lineBytes128 l
    let good := !l.poison && l.tagByte 3 == 0xF0 && ofLE (bs.take 4) == b.id && ofLE ((bs.drop 8).take 8) == s.step
    Act.all [
      bump (pk .RED_CONTRIB p),
      Act.when (!good) (bump (pk .RED_PKT_INVALID p)),
      modBkt p b.id (fun x => { x with
        received := x.received + 1, bad := x.bad || !good
        locNorm := if good then x.locNorm.add (wideOf ((bs.drop 16).take 16) false) else x.locNorm }),
      .ask fun t => modRec p b.id (fun r => { r with
        received := ((t.bktRun p b.id).getD {}).received, locNorm := ((t.bktRun p b.id).getD {}).locNorm })]

/-- ACCUMULATE: line `k` of contributor `c`'s packet. -/
def accumulate (p : Nat) (b : Bucket) (c k : Nat) (l : Line) : Act :=
  (clearAcc p b).seq (.ask fun s =>
    if k = packetLines b then takeTrailer p b l
    else if packetLines b < k then .done
    else
      let prev := match s.bktRun p b.id with
        | some x => SMap.find? x.lastIdx c
        | none => none
      if lineGood b k prev l then
        let vs := lineValues b k l
        (addValues p b vs).seq (Act.when (b.comp == 1) (modBkt p b.id (fun x => { x with
          lastIdx := SMap.set x.lastIdx c ((vs.getLast?.map Prod.fst).or prev) })))
      else (bump (pk .RED_PKT_INVALID p)).seq (modBkt p b.id (fun x => { x with bad := true })))

/-! ## READOUT (R308, R309, R319, R320) -/

def actReadout (p bucket : Nat) : Act :=
  .ask fun s => match s.job.image with
    | none => .done
    | some i => match bucketOf i bucket with
      | none => .done
      | some b =>
        if b.ownerDev != i.device || b.ownerPile != p then .done
        else rueOp p (b.accSpace == .buf) ((clearAcc p b).seq (rueLines p b.accSpace b.accLine (32 * b.blocks) fun ls => .ask fun t =>
          let run := (t.bktRun p b.id).getD {}
          let bad := run.bad || decide (run.received ≠ b.contrib) || ls.any Line.poison
          let r := readBucket (t.eref p b.tracker) t.step run.received bad run.locNorm
            (ls.flatMap (fun l => (List.range 8).map (accOf l)))
          Act.all [
            putLines p .dram 0 b.outLine (fp32Lines r.2 bad), clearXo p 0 5, countWritten p r.2 bad,
            modRec p b.id (fun _ => r.1),
            modRue p (fun x => { x with readOut := if x.readOut.contains b.id then x.readOut else x.readOut ++ [b.id] }),
            Act.when bad ((bump (pk .RED_POISON_BKT p)).seq (causeNow p cPoison))]))

/-- READOUT of a bucket at its owner. -/
def execReadout (p : PileId) (bucket : Nat) (s : State) : Host.Outcome State Fault Refusal := (actReadout p.val bucket).answer s

/-! ## The update passes (R326-R346) -/

/-- A schedule's value in the running step. -/
def State.sched (s : State) (p i : Nat) : FNum := num32 ((s.pile p).rue.scheds.getD i 0)

/-- A layer's constants: `p1` and `p2` are the new running products, `kappa` and `rho` the step's factors. -/
def State.consts (s : State) (p : Nat) (l : LayerRec) (p1 p2 : Word) (kappa rho : FNum) : Consts :=
  let eta := mulN (num32 l.lrScale) (s.sched p l.lrSched)
  { kappa := kappa, eta := eta, etaR := mulN eta rho, lam := s.sched p l.wdSched, b1 := s.sched p l.b1Sched
    b2 := if hasV l.rule then s.sched p l.b2Sched else oneN
    bc1 := subN oneN (num32 p1), bc2 := subN oneN (num32 p2), eps := num32 l.eps }

/-- The new running products of R338. -/
def State.products (s : State) (p : Nat) (l : LayerRec) (p1 p2 : Word) : Word × Word :=
  (rnd32 ((num32 p1).mul (s.sched p l.b1Sched)), if hasV l.rule then rnd32 ((num32 p2).mul (s.sched p l.b2Sched)) else p2)

/-- The shards of a layer that a pile owns. -/
def State.ownShards (s : State) (i : Image) (p : Nat) (l : LayerRec) : List ShardRec :=
  ((i.update.shards.drop l.shardIdx).take l.shards).filter (s.ownsShard i p)

/-- A shard as a pass reads it: g, m, v and w, the layer state, and which blocks and whether any state is bad. -/
structure ShardData where
  g     : List DBlock
  m     : List DBlock
  v     : List DBlock
  w     : List DBlock
  state : Line
  deriving DecidableEq, Repr

/-- A zero block, where a rule has no second moment. -/
def zeroDBlock : DBlock := ⟨List.replicate 256 zeroN, List.replicate 256 false, false⟩

/-- Read a shard's reduced gradient and committed state; a state line that is not raw is malformed (R339). -/
def readShard (p ver : Nat) (l : LayerRec) (h : ShardRec) (k : ShardData → Act) : Act :=
  let base := shardBase h ver
  let b := h.blocks
  rueRead p .dram base fun st =>
  rueLines p .dram h.gLine (8 * b) fun g =>
  rueLines p .dram (base + 1) (8 * b) fun w =>
  rueLines p .dram (base + 8 * b + 1) (2 * b) fun m =>
  rueLines p .dram (base + 10 * b + 1) (if hasV l.rule then 2 * b else 0) fun v =>
    k ⟨blocksOf 2 g, blocksOf 8 m, if hasV l.rule then blocksOf 10 v else List.replicate b zeroDBlock, blocksOf 2 w,
      { st with poison := st.poison || st.tagByte 3 != 0xF0 }⟩

/-- A state line of the shard is poisoned or malformed (R339). -/
def ShardData.stateBad (d : ShardData) : Bool := d.state.poison || (d.m ++ d.v ++ d.w).any DBlock.bad

/-- Block j has an input that is poisoned. -/
def ShardData.blockBad (d : ShardData) (j : Nat) : Bool :=
  d.state.poison || [d.g, d.m, d.v, d.w].any (fun bs => (bs[j]?.map DBlock.bad).getD true)

/-- Elements of a shard: g, m, v, w. -/
def ShardData.elements (d : ShardData) : List (FNum × FNum × FNum × FNum) :=
  (blockVals d.g).zip ((blockVals d.m).zip ((blockVals d.v).zip (blockVals d.w)))

/-- Add to an extension sum of the pile. -/
def addSum (p i : Nat) (w : Wide) : Act :=
  modRue p (fun r => { r with sums := SMap.set r.sums i (some ((SMap.getD r.sums i {}).add w)) })

/-- What the reads of a shard count (R81, R339): m and v into the health records of their descriptors, w under the descriptor of m, and g,
which has none, in the converter's counters alone (log 37). -/
def countReads (p : Nat) (i : Image) (l : LayerRec) (d : ShardData) : Act :=
  let enc (j : Nat) : EncDesc := i.update.encs.getD (l.encIdx + j) ⟨0, 0xFFF, 0, false, false, 0⟩
  let count (j : Nat) (c : XoCounts) : Act := (countHealth p (enc j).tracker (enc j).tensorId c).seq (countXo p 0 5 c)
  Act.all [
    countXo p 0 5 (decodeCounts d.g), count 0 (decodeCounts (d.m ++ d.w)),
    Act.when (hasV l.rule) (count 1 (decodeCounts d.v))]

/-- Pass 1 over a shard (R335, R339). -/
def passOneShard (p : Nat) (i : Image) (l : LayerRec) (h : ShardRec) : Act :=
  .ask fun s => readShard p (s.ver p) l h fun d => .ask fun t =>
    let st := layerState d.state
    let pr := t.products p l st.2.1 st.2.2
    let c := t.consts p l pr.1 pr.2 oneN oneN
    Act.all [
      addSum p l.g2Sum (wideEach (blockVals d.g)), addSum p l.w2Sum (wideEach (blockVals d.w)),
      Act.when (l.rule == 1) (addSum p l.u2Sum (wideEach (d.elements.map (fun e => u0Of c e.1 e.2.1 e.2.2.1 e.2.2.2)))),
      Act.when d.stateBad (causeNow p cPoison),
      countReads p i l d,
      bump (pk .UPD_P1_ELEM p) (256 * h.blocks)]

/-- A bucket of a layer's shards: its OUT_LINE lies in a shard's gradient of the same owner (R329). -/
def bucketInLayer (i : Image) (l : LayerRec) (b : Bucket) : Bool :=
  ((i.update.shards.drop l.shardIdx).take l.shards).any (fun h =>
    h.ownerDev == b.ownerDev && h.ownerPile == b.ownerPile && inRun b.outLine h.gLine (8 * h.blocks))

/-- Run a pass over one layer. -/
def onLayer (p layer pass : Nat) (usesBuf : Bool) (may : State → Image → LayerRec → Bool) (k : Image → LayerRec → Act) : Act :=
  .ask fun s => match s.job.image with
    | none => .done
    | some i => match i.update.layers[layer]? with
      | none => .done
      | some l => Act.when (may s i l) (rueOp p usesBuf (Act.all [
          setR (pk .UPD_STATUS_LAYER p) layer, modRue p (fun r => { r with passes := if r.passes.contains pass then r.passes else r.passes ++ [pass] }),
          clearXo p 0 5, k i l]))

/-- Pass 1 has its place: in a phase marked REDUCE, after the readout of the buckets of the layer's shards on the pile, and before the pile
seals its verdict record (R339). -/
def State.passOneNow (s : State) (p : Nat) (i : Image) (l : LayerRec) : Bool :=
  ((s.phaseEntry p).map PhaseEntry.reduce).getD false && !s.on (pk .RED_STATUS_SEALED p) &&
  i.buckets.all (fun b => !(b.ownerDev == i.device && b.ownerPile == p && bucketInLayer i l b) || (s.pile p).rue.readOut.contains b.id)

/-- UPDATE_PASS_1 of a layer's shards on the pile. -/
def execUpdatePass1 (p : PileId) (layer : Nat) (s : State) : Host.Outcome State Fault Refusal :=
  (onLayer p.val layer 1 false (fun t i l => t.passOneNow p.val i l)
    (fun i l => .ask fun t => Act.each (t.ownShards i p.val l) (passOneShard p.val i l))).answer s

/-- The fused verdict as it arrived at the pile, for the gate and the reports of the step. -/
def State.fusedVerdict (s : State) (p : Nat) : Verdict := verdictOf ((SMap.find? (s.pile p).rue.verd 0).getD blankLine)

/-- The fused result has arrived, its extension lines with it (R314, R340, R341). -/
def State.fusedHere (s : State) (p : Nat) (i : Image) : Bool :=
  s.on (pk .RED_STATUS_FUSED_VALID p) &&
  (List.range (1 + extLines i.update)).all (fun k => (SMap.find? (s.pile p).rue.verd k).isSome)

/-- The lines of the fused result as the pile buffer holds them, from FUSED_LINE (R174, R314). -/
def readFused (p : Nat) (i : Image) (k : List Line → Act) : Act :=
  rueLines p .buf ((i.fused.map FusedDecl.fusedLine).getD 0) (1 + extLines i.update) k

/-- The verdict that a result's lines hold, and extension sum i of them. -/
def verdictIn (ls : List Line) : Verdict := verdictOf (ls.headD blankLine)
def sumIn (ls : List Line) (i : Nat) : Wide :=
  wideOf (((lineBytes128 (ls.getD (1 + i / 8) blankLine)).drop (16 * (i % 8))).take 16) false

/-- Pass 2 is suppressed (R314): bits 0-8 or bit 10 of HEALTH, a poisoned line of the result standing for bit 0. -/
def suppresses (ls : List Line) : Bool := (verdictIn ls).health &&& 0x5FF != 0 || ls.any Line.poison

/-- Copy n lines bit for bit, as the RUE reads them (R342, R393). -/
def copyLines (p src dst n : Nat) : Act :=
  Act.each (List.range n) (fun j => rueRead p .dram (src + j) (fun l => putLine p .dram 0 (dst + j) l))

/-- Suppressed pass 2 (R342): the committed version and the residual copies are copied. The iteration of an UPD_C layer writes nothing
(R343): its results reach memory through orthoWeights alone, which does not run here. -/
def copyLayer (p : Nat) (i : Image) (l : LayerRec) : Act :=
  .ask fun s => Act.all [
    Act.when (!s.on (pk .UPD_STATUS_SUPPRESSED p)) ((setR (pk .UPD_STATUS_SUPPRESSED p) 1).seq (bump (pk .UPD_SUPPRESS p))),
    Act.each (s.ownShards i p l) (fun h =>
      (copyLines p (shardBase h (s.ver p)) (shardBase h (1 - s.ver p)) (stateLines l.rule h.blocks)).seq
        (bump (pk .UPD_P2_ELEM p) (256 * h.blocks))),
    Act.each (i.contribs.filter (fun c => c.pile == p)) (fun c => match bucketOf i c.bucket with
      | some b => Act.when (b.comp != 0 && bucketInLayer i l b)
          (copyLines p (c.resLine + 8 * b.blocks * s.ver p) (c.resLine + 8 * b.blocks * (1 - s.ver p)) (8 * b.blocks))
      | none => .done)]

/-- The clip factor of a layer, from the fused result (R332). -/
def State.kappa (s : State) (p : Nat) (u : UpdateTables) (l : LayerRec) (ls : List Line) : FNum :=
  if u.clipMode = 1 then clipFactor (s.sched p u.clipSched) (verdictIn ls).gnorm
  else if u.clipMode = 2 then clipFactor (s.sched p u.clipSched) (sumIn ls l.g2Sum)
  else oneN

/-- UPD_KAPPA takes the smallest factor of the attempt (R349), and a layer that the pile owns with a factor below one counts at the
step's end (R351). -/
def noteKappa (p : Nat) (k : FNum) (owned : Bool) : Act :=
  .ask fun s => Act.all [
    Act.when (!(s.pile p).rue.kappaSet || k.lt (num32 (BitVec.ofNat 32 (s.rd (pk .UPD_KAPPA p)))))
      (setR (pk .UPD_KAPPA p) (rnd32 k).toNat),
    modRue p (fun r => { r with kappaSet := true, clipped := r.clipped || (owned && k.lt oneN) })]

/-- Encode and write consecutive blocks of a shard, counting each, and hand on the lines written. -/
def writeBlocks (p : Nat) (d : EncDesc) (cols first line : Nat) (bad : Nat → Bool) : List (List FNum) → Nat → (List Line → Act) → Act
  | [], _, k => k []
  | b :: r, j, k => encoding d ((first + j) / cols) ((first + j) % cols) b (bad j) fun ls c =>
      Act.all [
        putLines p .dram 0 (line + j * fmtLines d.fmt) ls, countHealth p d.tracker d.tensorId c, countXo p 0 5 c,
        writeBlocks p d cols first line bad r (j + 1) (fun rest => k (ls ++ rest))]

/-- Rows of a layer's matrix from the blocks of its one shard, and back (R28). -/
def matrixRows (l : LayerRec) (vals : List (List FNum)) : List (List FNum) :=
  (List.range l.rows).map (fun r => (List.range l.cols).map (fun c =>
    (vals.getD (r / 16 * (l.cols / 16) + c / 16) []).getD (16 * (r % 16) + c % 16) zeroN))

def matrixBlocks (l : LayerRec) (rows : List (List FNum)) (n : Nat) : List FNum :=
  (List.range (256 * n)).map (fun x =>
    let b := x / 256
    let e := x % 256
    (rows.getD (16 * (b / (l.cols / 16)) + e / 16) []).getD (16 * (b % (l.cols / 16)) + e % 16) zeroN)

/-- Weights of UPD_C from the stored moment (R336, stages 2 and 3). -/
def orthoWeights (l : LayerRec) (c : Consts) (stored : List Line) (w : List FNum) : List FNum :=
  let bs := (blocksOf 8 stored).map DBlock.vals
  let norm := num32 (wideRoot (wideEach bs.flatten))
  let o := matrixBlocks l (orthogonal l (matrixRows l bs) norm) bs.length
  List.zipWith (fun w o => fmaN c.eta.negate (fmaN c.lam w (mulN (num32 l.ruleK) o)) w) w o

/-- What the second read of UPD_C's stored moment counts (R63, R81, R336). -/
def countMoment (p : Nat) (d : EncDesc) (stored : List Line) : Act :=
  let c := decodeCounts (blocksOf 8 stored)
  (countHealth p d.tracker d.tensorId c).seq (countXo p 0 5 c)

/-- Pass 2 over a shard: the shadow version (R341, R345, R346). -/
def passTwoShard (p : Nat) (i : Image) (l : LayerRec) (kappa rho : FNum) (h : ShardRec) : Act :=
  .ask fun s => readShard p (s.ver p) l h fun d => .ask fun t =>
    let st := layerState d.state
    let pr := t.products p l st.2.1 st.2.2
    let c := t.consts p l pr.1 pr.2 kappa rho
    let es := d.elements.map (fun e => stepElement l c e.1 e.2.1 e.2.2.1 e.2.2.2)
    let enc (j : Nat) : EncDesc := i.update.encs.getD (l.encIdx + j) ⟨0, 0xFFF, 8, false, false, 0⟩
    let blks (xs : List FNum) : List (List FNum) := chunks 256 xs xs.length
    let b := h.blocks
    let cols := max 1 (l.cols / 16)
    let base := shardBase h (1 - s.ver p)
    let fw := base + 10 * b + 1 + (if hasV l.rule then 2 * b else 0)
    let count := (st.1 + 1) % 2 ^ 64
    let put (j line : Nat) (xs : List FNum) (k : List Line → Act) : Act := writeBlocks p (enc j) cols h.firstBlock line d.blockBad (blks xs) 0 k
    (countReads p i l d).seq <| put 0 (base + 8 * b + 1) (es.map (fun e => e.1)) fun mLines =>
      let w1 := if l.rule = 2 then orthoWeights l c mLines (blockVals d.w) else es.map (fun e => e.2.2)
      Act.all [
        Act.when (l.rule == 2) (countMoment p (enc 0) mLines),
        putLine p .dram 0 base { layerStateLine count pr.1 pr.2 with poison := d.state.poison },
        Act.each ((blks w1).mapIdx (fun j x => (j, x))) (fun jx =>
          (putLines p .dram 0 (base + 1 + 8 * jx.1) (fp32Lines jx.2 (d.blockBad jx.1))).seq (countWritten p jx.2 (d.blockBad jx.1))),
        Act.when (hasV l.rule) (put 1 (base + 10 * b + 1) (es.map (fun e => e.2.1)) (fun _ => .done)),
        put 2 fw w1 (fun fs => put 3 (fw + b + 1) w1 (fun bs =>
          let tr := shardTrailer h.id count (shardDigest h.id fs) (shardDigest h.id bs)
          (putLine p .dram 0 (fw + b) tr).seq (putLine p .dram 0 (fw + b + 1 + 2 * b) tr))),
        bump (pk .UPD_P2_ELEM p) (256 * b)]

/-- Pass 2 of a layer, from the lines of the fused result. The clip factor is formed whether or not the result suppresses the update. -/
def passTwo (p : Nat) (i : Image) (l : LayerRec) (ls : List Line) : Act :=
  .ask fun s =>
    let k := s.kappa p i.update l ls
    let rho := if l.rule = 1 then trustRatio (num32 l.ruleK) (sumIn ls l.w2Sum) (sumIn ls l.u2Sum) else oneN
    let owned := !(s.ownShards i p l).isEmpty
    (Act.when (owned || i.update.clipMode != 2) (noteKappa p k owned)).seq
      (if suppresses ls then copyLayer p i l else Act.each (s.ownShards i p l) (passTwoShard p i l k rho))

/-- UPDATE_PASS_2 of a layer on the pile: it starts once the fused result has arrived, and waits till then. -/
def execUpdatePass2 (p : PileId) (layer : Nat) (s : State) : Host.Outcome State Fault Refusal :=
  (onLayer p.val layer 2 true (fun t i _ => t.fusedHere p.val i) (fun i l => readFused p.val i (passTwo p.val i l))).answer s

/-! ## Gathers (R344, R347) -/

/-- Lines of a copy. -/
def copySize (h : ShardRec) (copy : Nat) : Nat := if copy = 0 then h.blocks else 2 * h.blocks

/-- A failed gather (R347, R350). -/
def gatherFails (p shard copy : Nat) (transit : Bool) : Act :=
  .ask fun s => Act.all [
    bump (pk .SHARD_CHECK_FAIL p), setR (pk .SHARD_MISMATCH_LAST_VALID p) 1, setR (pk .SHARD_MISMATCH_LAST_BACKWARD p) copy,
    setB (pk .SHARD_MISMATCH_LAST_TRANSIT p) transit, setR (pk .SHARD_MISMATCH_LAST_SHARD_ID p) shard,
    setR (pk .SHARD_MISMATCH_LAST_STEP p) s.step, causeAt p cCheckMismatch]

/-- A gather's trailer against its digest and the record of the attempt it belongs to. -/
def gatherTrailer (p shard copy digest : Nat) (l : Line) : Act :=
  .ask fun s =>
    let bs := lineBytes128 l
    let at' (o : Nat) : Nat := ofLE ((bs.drop o).take 8)
    let mine : ShardSeen := ⟨at' 8, at' 16, at' 24⟩
    let head := s.on (pk .GATE_STATUS_HEAD_PHASE p)
    let m := if head then (s.pile p).rue.seenCarry else (s.pile p).rue.seen
    let held := SMap.getD m shard mine
    let transit := digest != at' (if copy = 0 then 16 else 24)
    Act.all [
      bump (pk .SHARD_GATHERS p), Act.when l.poison (causeAt p cPoison),
      modRue p (fun r =>
        if head then { r with seenCarry := SMap.set r.seenCarry shard (some held) } else { r with seen := SMap.set r.seen shard (some held) }),
      Act.when (transit || held != mine) (gatherFails p shard copy transit)]

/-- A line of a declared gather; the last is the trailer. -/
def gatherLine (p decl k count : Nat) (l : Line) : Act :=
  .ask fun s => match s.job.image with
    | none => .done
    | some i => match i.gathers[decl]? with
      | none => .done
      | some g =>
        let n := match i.update.shards.find? (fun h => h.id == g.shard) with
          | some h => copySize h g.copy
          | none => count - 1
        let d := if k = 0 then mix64 g.shard else SMap.getD (s.pile p).rue.gathers decl (mix64 g.shard)
        if k < n then modRue p (fun r => { r with gathers := SMap.set r.gathers decl (some (mix64 (d ^^^ (l.tag.toNat / 2 ^ 112)))) })
        else (modRue p (fun r => { r with gathers := SMap.set r.gathers decl none })).seq (gatherTrailer p g.shard g.copy d l)

/-! ## SWITCH_RECEIVE (R182, R224, R228) -/

/-- The uses that an operand tells: packets, and the records of a round on their way up the tree. -/
def toldUse : RecvUse → RecvUse
  | .contribution b c k => .contribution b c k
  | .verdictRecord k => .verdictRecord k
  | .recordRound k => .recordRound k
  | _ => .plain

/-- What the RUE does with a line that has arrived; `src` is the way by which it entered the switch. -/
def useLine (p src count : Nat) (use : RecvUse) (l : Line) : Act := match use with
  | .plain => .done
  | .contribution bucket c k => .ask fun s => match s.job.image with
      | none => .done
      | some i => match bucketOf i bucket with
        | some b => Act.when (b.ownerDev == i.device && b.ownerPile == p) (rueTakes p l (accumulate p b c k))
        | none => .done
  | .verdictRecord line => (Act.when l.poison (causeNow p cPoison)).seq
      (modRue p (fun r => { r with kidVerd := SMap.set r.kidVerd (src * 65536 + line % 65536) (some l) }))
  | .fusedResult line => Act.all [
      Act.when l.poison (causeNow p cPoison),
      modRue p (fun r => { r with verd := SMap.set r.verd line (some l) }),
      Act.when (line == 0) ((setR (pk .RED_STATUS_FUSED_VALID p) 1).seq (setR (pk .FUSED_RESULT p) l.body.toNat))]
  | .recordRound line => (Act.when l.poison (causeNow p cPoison)).seq <|
      modRue p (fun r => { r with kidRec := SMap.set r.kidRec (src * 65536 + line % 65536) (some l) })
  | .recordResult line => (Act.when l.poison (causeNow p cPoison)).seq
      (modRue p (fun r => { r with recs := SMap.set r.recs line (some l) }))
  | .gather decl k => rueTakes p l (gatherLine p decl k count)

/-- What the RUE does with a line that a receive descriptor of the page in force writes at line n: a declared gather, the fused result and the
domain-wide records are what the image declares them to be (R174, R314, R315, R344); of the others, which the image does not name, the
operand tells the packet or record (log 19). -/
def State.useOf (s : State) (p desc : Nat) (d : SwDesc) (n k : Nat) (use : RecvUse) : RecvUse := match s.job.image with
  | none => .plain
  | some i =>
    let buf (first len : Nat) : Bool := d.space == .buf && inRun n first len
    match (i.gathers.mapIdx (fun x g => (x, g))).find? (fun x => x.2.pile == p && x.2.page == s.page p && x.2.desc == desc), i.fused with
    | some x, _ => .gather x.1 k
    | none, some f =>
      if buf f.fusedLine (1 + extLines i.update) then .fusedResult (n - f.fusedLine)
      else if buf f.recordLine (trackerList i).length then .recordResult (n - f.recordLine)
      else toldUse use
    | none, none => toldUse use

/-- A use's accumulators that lie in a domain asleep. -/
def State.accWaits (s : State) (p : Nat) (use : RecvUse) : Option Nat := match use, s.job.image with
  | .contribution b _ _, some i => (bucketOf i b).bind (fun b =>
      if b.ownerDev == i.device && b.ownerPile == p && s.mustWait p b.accSpace 0 then some (spaceDomain p b.accSpace 0) else none)
  | _, _ => none

/-- The line that an arriving gondola brings, if any (R228). -/
def arriving (d : SwDesc) (k : Nat) (o : LocOut) : Option Line :=
  let l := gondolaLine o.g
  if o.g.empty && o.g.destReset then (if o.drop then none else some { l with poison := true })
  else if o.g.poison then some { l with poison := true }
  else if o.g.empty then (if d.emptyFill then some (fillLine d.fillFmt k false) else none)
  else some l

/-- Write an arriving line where the descriptor says; an unmet release condition is an overrun. -/
def receiveLine (p : Nat) (d : SwDesc) (n : Nat) (o : LocOut) (use : RecvUse) (l : Line) : Act :=
  .ask fun s =>
    let bad := d.check && !o.g.empty && !lineCheckOk l
    let met := s.condMet p d
    let l' : Line := { l with poison := l.poison || bad || !met }
    Act.all [
      Act.when bad (bump (pk .SW_CHECK_FAIL p)), Act.when (!met) (hazard p),
      putLine p d.space (s.physOf p d.tile) n l', useLine p o.from' d.count use l']

def actSwitchReceive (p desc k : Nat) (use : RecvUse) : Act :=
  .ask fun s => match s.swDesc p desc with
    | none => .done
    | some d =>
      let key := ((s.pile p).gate.openSlot + d.firstSlot + k * d.slotStride) * 256 + d.way
      let ls := s.physOf p d.tile
      if !d.receive || decide (d.count ≤ k) || !s.inPhase p || !s.ready (domSw p) || s.on (pk .SW_STATUS_STAND_IN p) ||
          (s.pile p).sw.done.contains (desc * 65536 + k) then .done
      else match SMap.find? (s.pile p).sw.locOut key with
        | none => .done
        | some o =>
          let use := match s.pick p d k with
            | .line n => s.useOf p desc d n k use
            | _ => .plain
          if s.listWaits p d then demandWake (domTile p (s.physOf p d.idxTile))
          else if s.mustWait p d.space ls then demandWake (spaceDomain p d.space ls)
          else match s.accWaits p use with
          | some x => demandWake x
          | none => Act.all [
            modSw p (fun w => { w with locOut := SMap.set w.locOut key none, done := w.done ++ [desc * 65536 + k] }),
            Act.when (o.g.empty && o.g.destReset) (bump (pk .SW_DR_RX p)),
            (match s.pick p d k, arriving d k o with
             | .fault, _ => indexFault p
             | .line n, some l => receiveLine p d n o use l
             | _, _ => .done)]

/-- SWITCH_RECEIVE: gondola k of a receive descriptor of the page in force. -/
def execSwitchReceive (p : PileId) (desc k : Nat) (use : RecvUse) (s : State) : Host.Outcome State Fault Refusal :=
  (actSwitchReceive p.val desc k use).answer s

end Sys2Proof.Machine
end

