-- ==== Sys2Proof/Machine/Gate.lean ====
section
/-! DEFINITION. Gates (chapter 07): arrivals with the bookkeeping before them, the gate tree, the verdict, and what an opening does:
the pending set, the verdict's effects, the start of an attempt, power plans and the first slot of a phase. -/

namespace Sys2Proof.Machine

/-! ## The phase sequence of the running step (R178, R197) -/

/-- STEP_PARAM as the step runs with it: every used pile holds the same values, and the lowest gives them. -/
def State.params (s : State) : List Nat := (List.range 16).map (fun k => s.rd (pk .STEP_PARAM s.firstPile k))

/-- The phase sequence that an attempt starting now would run. -/
def State.sequence (s : State) : List (Nat × Nat) := match s.job.image with
  | some i => expandPhases i.phases s.params
  | none => []

/-- A pile stands at the start gate or at a finish gate. -/
def State.endsStep (s : State) (p : Nat) : Bool := (s.pile p).gate.start || s.on (pk .GATE_STATUS_FINISH_PHASE p)

/-- The phase that a pile's gate opens. -/
def State.nextOf (s : State) (p : Nat) : Option PhaseEntry :=
  let x := if s.endsStep p then s.sequence.head? else s.job.phases[s.rd (pk .GATE_STATUS_PHASE p) + 1]?
  match s.job.image, x with
  | some i, some q => i.phases[q.1]?
  | _, _ => none

/-- The step whose inputs that phase reads. -/
def State.readsStep (s : State) (p : Nat) (e : PhaseEntry) : Nat :=
  s.step + oneIf (!(s.pile p).gate.start && s.on (pk .GATE_STATUS_FINISH_PHASE p)) + oneIf e.head

/-- A gate that opens a phase with READS_INPUT waits for that step's inputs (R181, R197). -/
def State.inputsReady (s : State) (p : Nat) : Bool := match s.job.image, s.nextOf p with
  | some i, some e => !i.hostInput || !e.readsInput || s.job.ready.contains (s.readsStep p e)
  | _, _ => true

/-! ## Arrival of a pile (R181, R203) -/

/-- Every tile that has a program has signalled its arrival. -/
def State.tilesArrived (s : State) (p : Nat) : Bool := match s.job.image with
  | some i => (i.programs.filter (fun g => g.pile == p)).all (fun g => (s.tile p (s.physOf p g.tile)).arrived)
  | none => false

/-- The switch block movers have completed the descriptor list of the page in force. -/
def State.listsDone (s : State) (p : Nat) : Bool := match s.job.image with
  | some i => (i.descLists.filter (fun d => d.pile == p && d.page == s.page p)).all (fun l =>
      (l.descs.mapIdx (fun n d => (List.range d.count).all (fun k => (s.pile p).sw.done.contains (n * 65536 + k)))).all id)
  | none => false

/-- The conditions of R181 but the bookkeeping and the step-boundary work. -/
def State.phaseDone (s : State) (p slot : Nat) : Bool :=
  s.inPhase p && (s.pile p).resetSrc == 0 && !s.on (pk .SW_STATUS_GATE_HELD p) && s.tilesArrived p && s.listsDone p &&
  decide ((s.pile p).gate.openSlot + ((s.phaseEntry p).map PhaseEntry.lastSlot).getD 0 < slot) && s.inputsReady p

/-- A micro-batch's counts added to a dispatch record (R292): the fullest pair, the lowest expert on a tie. -/
def addCounts (a b : DispatchCounts) : DispatchCounts :=
  { layer := b.layer
    maxExpert := if a.maxFill < b.maxFill then b.maxExpert else if b.maxFill < a.maxFill then a.maxExpert
      else min a.maxExpert b.maxExpert
    maxFill := max a.maxFill b.maxFill, tokens := a.tokens + b.tokens, assign := a.assign + b.assign
    placed := a.placed + b.placed, fallback := a.fallback + b.fallback, dropped := a.dropped + b.dropped
    noChoice := a.noChoice + b.noChoice, slots := a.slots + b.slots }

/-- The counts of a layer entered into a set. -/
def putDispatch (m : SMap DispatchCounts) (c : DispatchCounts) : SMap DispatchCounts :=
  SMap.set m c.layer (some (match SMap.find? m c.layer with
    | some a => addCounts a c
    | none => c))

/-- Counts of the phase enter the current record, or the carry set for HEAD work (R198, R293). -/
def addCountsOf (p : Nat) (c : DispatchCounts) : Act :=
  .ask fun s => if s.on (pk .GATE_STATUS_HEAD_PHASE p)
    then modPile p (fun x => { x with disp := { x.disp with carry := putDispatch x.disp.carry c } })
    else modPile p (fun x => { x with disp := { x.disp with cur := putDispatch x.disp.cur c } })

/-- The counts that a routing program's micro-batch makes, by the layer's record in the expert directory (R281, R292). -/
def addDispatch (p : Nat) (r : Routing) : Act :=
  .ask fun s => match (s.job.image.map (fun i => i.experts.layers.find? (fun l => l.layer == r.layer))).join with
    | some l => addCountsOf p (routedCounts l r.choices)
    | none => .done

/-- A port's pattern test (R259): lanes that fail it are permanent; where none does, the fault was transient. -/
def patternTest (p k : Nat) (lanes : List Nat) : Act :=
  .ask fun s => Act.when (s.port p k).patTest ((modPort p k (fun x => { x with patTest := false })).seq
    (if lanes.isEmpty then bump (pk .FLT_TRANSIENT p) else Act.each lanes (needSpare p k)))

/-- The run core's and the patrol core's bookkeeping of a phase that is complete, once. -/
def book (p : Nat) (routed : List Routing) (patFails : List (XPort × Nat)) : Act :=
  .ask fun s => Act.when (!(s.pile p).gate.booked) (Act.all [
    modGate p (fun g => { g with booked := true }),
    Act.each routed (addDispatch p),
    comparePairs p,
    Act.when (s.on (pk .GATE_STATUS_FINISH_PHASE p)) (Act.all [
      classify p,
      Act.each [0, 1] (fun k => patternTest p k ((patFails.filter (fun f => f.1.val == k)).map Prod.snd))])])

/-- A lane swap holds the pile: one that is agreed, or whose acknowledgement is still waited for (R261). -/
def State.swapHolds (s : State) (p k : Nat) : Bool :=
  let x := s.port p k
  let st := s.rd (pk .LNK_STATUS_STATE p k)
  (st == 7 || st == 9) && (x.farLane.isSome || (x.swapLane.isSome && !x.skip))

/-- Step-boundary work that a finish gate waits for (R203). -/
def State.boundaryDue (s : State) (p : Nat) : Bool :=
  s.on (pk .GATE_STATUS_FINISH_PHASE p) &&
  ((!(s.pile p).flt.queue.isEmpty && !(s.pile p).flt.did) || (!(s.pile p).mem.moves.isEmpty && s.ready (domMem p)) ||
   s.swapHolds p 0 || s.swapHolds p 1 ||
   (List.range 4).any (fun d => !(s.bridge p d).suspect.isEmpty && s.portUp p (4 + d)))

/-! ## The gate tree (R190-R192) -/

/-- The gate root is CP0 of the timing root (R192). -/
def State.isRoot (s : State) (p : Nat) : Bool := p == 0 && s.on (dk .TB_CTL_ROOT)

/-- A pile's own discard causes: what its health word holds, and a non-finite value raised after it sealed its record (R311). -/
def State.ownCause (s : State) (p : Nat) : Nat :=
  (s.healthWord p &&& 0x1FF) |||
  (if s.on (pk .RED_STATUS_SEALED p) && decide ((s.pile p).rue.nfSeal < s.nonfinites p) then 2 ^ cLate else 0)

/-- A pile's causes with its children's. -/
def State.gateCause (s : State) (p : Nat) : Nat :=
  (s.pile p).gate.kids.foldl (fun a k => a ||| k.2.cause.toNat) (s.ownCause p)

/-- The phase index that a pile's gate tokens carry; the start gate ends none and carries 0. -/
def State.gatePhase (s : State) (p : Nat) : Nat := if (s.pile p).gate.start then 0 else s.rd (pk .GATE_STATUS_PHASE p)

/-- A pile's combined ARRIVE. -/
def State.arriveToken (s : State) (p : Nat) : GateToken :=
  { step := s.step, phase := s.gatePhase p, jobTag := s.jobTag, cause := BitVec.ofNat 32 (s.gateCause p)
    slipped := (s.pile p).gate.kids.foldl (fun a k => satSum 32 a k.2.slipped) (s.pile p).gate.slipped }

/-- The port to a pile's parent in the gate tree; 8 at the root. -/
def State.parentPort (s : State) (p : Nat) : Nat := ((s.pile p).gate.parent.map wayPort).getD 8

/-- The ports to a pile's children: those of its gate egress ways but the parent's (R190, R226). -/
def State.childPorts (s : State) (p : Nat) : List Nat :=
  (((s.pageEntries p).filter (fun e => e.gate && e.valid && e.egress != 255)).map (fun e => wayPort e.egress)).eraseDups.filter
    (fun q => q != s.parentPort p)

/-- A token waits for gate slots of a port, both its copies. -/
def queueToken (p q : Nat) (up : Bool) (t : GateToken) : Act :=
  modGate p (fun g => { g with sends := g.sends ++ [⟨q, up, { t with copy := 0 }⟩, ⟨q, up, { t with copy := 1 }⟩] })

/-- A token goes out twice, in two consecutive gate slots: ARRIVE to the parent, RELEASE to every child. -/
def sendArrive (p : Nat) (t : GateToken) : Act := .ask fun s => queueToken p (s.parentPort p) true t
def sendRelease (p : Nat) (t : GateToken) : Act := .ask fun s => Act.each (s.childPorts p) (fun q => queueToken p q false t)

/-- A gate token as a gondola (R190): its body, a raw tag, and GATE set. -/
def tokenGondola (up check : Bool) (t : GateToken) : Gondola :=
  let body := BitVec.ofNat 1024 (ofLE (bytesLE 8 t.step ++ bytesLE 2 t.phase ++ [if up then 1 else 2, t.copy % 256] ++ bytesLE 4 t.jobTag ++
    bytesLE 4 t.cause.toNat ++ bytesLE 4 t.slipped ++ bytesLE 8 (if up then 0 else t.openSlot) ++
    bytesLE 4 (if up then 0 else t.verdict.toNat)))
  { body := body, tag := rawTag body, gate := true, checkMode := check }

/-- The token in a gondola, and whether it is an ARRIVE; none where it carries no token or arrived in error (R190). -/
def tokenOf (g : Gondola) : Option (Bool × GateToken) :=
  let bs := bytesLE 128 g.body.toNat
  let at' (o n : Nat) : Nat := ofLE ((bs.drop o).take n)
  if !g.gate || g.empty || g.poison || !(at' 10 1 == 1 || at' 10 1 == 2) then none
  else some (at' 10 1 == 1, ⟨at' 0 8, at' 8 2, at' 11 1, at' 12 4, BitVec.ofNat 32 (at' 16 4), at' 20 4, at' 24 8, BitVec.ofNat 32 (at' 32 4)⟩)

/-- CODE of a verdict (R199, R202). -/
def verdictCode (cause attempt limit : Nat) : Nat :=
  if cause &&& 0x1FF ≠ 0 then (if limit ≤ attempt then 3 else 2) else if cause.testBit cNonfinite then 1 else 0

/-- HEALTH of the fused result; a poisoned line of it is POISON. -/
def State.fusedHealth (s : State) (p : Nat) : Nat :=
  (s.fusedVerdict p).health ||| (if (s.pile p).rue.verd.any (fun kv => kv.2.poison) then 1 else 0)

/-- The verdict of a finish gate, from its arrivals and the fused result. -/
def State.verdict (s : State) : Nat :=
  let cause := (s.gateCause 0 ||| s.fusedHealth 0) &&& 0x5FF
  verdictCode cause (s.rd (pk .GATE_STATUS_ATTEMPT 0)) (s.rd (dk .GATE_CTL_REPLAY_LIMIT)) * 2 ^ 24 + cause

/-- The opening slot of a gate complete in slot r. -/
def State.openingFrom (s : State) (r : Nat) : Nat := match s.job.image with
  | some i => r + 1 + i.gateDown + i.gateGuard
  | none => r + 1

/-- A pile holds a copy of RELEASE, and forwards it. -/
def release (p : Nat) (t : GateToken) : Act := Act.all [
  modGate p (fun g => { g with rel := some (t.openSlot, t.verdict) }), setR (pk .GATE_STATUS_STATE p) 2, sendRelease p t]

/-- The halt event names the verdict and the attempts made (R202). -/
def haltEvent (v : Nat) : Act :=
  .ask fun s => Act.when (v / 2 ^ 24 == 3) (raiseEvent 0x0006 0 (bytesLE 4 v ++ [min 255 (s.rd (pk .GATE_STATUS_ATTEMPT 0) + 1)]))

/-- The root is complete in slot r and releases the gate. -/
def rootComplete (r : Nat) : Act :=
  .ask fun s =>
    let finish := !(s.pile 0).gate.start && s.on (pk .GATE_STATUS_FINISH_PHASE 0)
    let v := if finish then s.verdict else 0
    Act.all [
      modGate 0 (fun g => { g with sentUp := true }),
      release 0 { step := s.step, phase := s.gatePhase 0, jobTag := s.jobTag, openSlot := s.openingFrom r
                  cause := BitVec.ofNat 32 (s.gateCause 0), slipped := (s.arriveToken 0).slipped, verdict := BitVec.ofNat 32 v },
      haltEvent v]

/-- A pile that has arrived, and whose children all have, sends ARRIVE or, at the root, releases. -/
def combine (p slot children : Nat) : Act :=
  .ask fun s =>
    let g := (s.pile p).gate
    if g.arrivedAt.isNone || g.sentUp || decide (g.kids.length < children) then .done
    else if s.isRoot p then rootComplete (max (g.arrivedAt.getD 0) slot)
    else (modGate p (fun g => { g with sentUp := true })).seq (sendArrive p (s.arriveToken p))

/-- The slip of a pile that arrives in a slot (R193). -/
def State.slipOf (s : State) (p slot : Nat) : Nat :=
  if (s.pile p).gate.start then 0
  else slot - ((s.pile p).gate.openSlot + ((s.phaseEntry p).map PhaseEntry.length).getD 0)

/-- A pile has arrived; the gate tree gives its parent's way and the number of its children. -/
def arriveNow (p slot children : Nat) (parent : Option Nat) : Act :=
  .ask fun s => Act.all [
    modGate p (fun g => { g with
      arrivedAt := some slot, slipped := oneIf (decide (0 < s.slipOf p slot)), parent := parent, children := children }),
    setR (pk .GATE_STATUS_STATE p) 1,
    Act.when (decide (0 < s.slipOf p slot)) ((bump (pk .SLIP_COUNT p)).seq
      (setR (pk .SLIP_MAX p) (max (s.rd (pk .SLIP_MAX p)) (min (2 ^ 32 - 1) (s.slipOf p slot))))),
    combine p slot children]

/-- START_A of the plan of the phase that a gate opens, in units of 10 uA. -/
def State.startA (s : State) (p : Nat) : Nat := match s.job.image, s.nextOf p with
  | some i, some e => ((i.plans.find? (fun x => x.index == e.powerPlan)).map PowerPlan.startA).getD 0 * 6250
  | _, _ => 0

/-- The device's first arrival at a gate sets the governor's floor, and arrivals wait until the current reaches it (R512, R513). -/
def governed (p slot children : Nat) (parent : Option Nat) : Act :=
  .ask fun s => (Act.when (!s.pwr.inGate || s.pwr.since.isSome) (modPwr (fun x => { x with
      inGate := true, since := none, floor := if s.startA p = 0 then x.act else (s.startA p : Int) }))).seq
    (.ask fun t => if t.pwr.act < t.floorNow then setR (dk .GOV_STATUS_HOLDING) 1 else arriveNow p slot children parent)

/-- A device that must leave its timing domain stops at its next gate and sends no arrival (R19, R189); its job ends with its
last pile. -/
def stopHere (p : Nat) : Act :=
  (setR (pk .GATE_STATUS_STATE p) 3).seq (.ask fun s =>
    Act.when (s.usedPiles.all (fun q => s.rd (pk .GATE_STATUS_STATE q) == 3)) (setR (dk .JOB_STATE_STATE) jsStopped))

/-- Lane swaps and wire repairs that a pile's step boundary holds start (R261, R264). -/
def startBoundary (p : Nat) : Act := (Act.each [0, 1] (startSwap p)).seq (Act.each (List.range 4) (startRepair p))

def actPileArrival (p slot children : Nat) (parent : Option Nat) (routed : List Routing) (patFails : List (XPort × Nat)) : Act :=
  .ask fun s =>
    if (s.pile p).gate.start then
      (if s.jobState != jsStarting || !s.usesPile p || (s.pile p).gate.arrivedAt.isSome || !s.inputsReady p ||
          s.on (pk .SW_STATUS_GATE_HELD p) then .done
       else if s.job.stopNext then stopHere p else governed p slot children parent)
    else if !s.phaseDone p slot then .done
    else (book p routed patFails).seq (.ask fun t =>
      if t.boundaryDue p then startBoundary p else if t.job.stopNext then stopHere p else governed p slot children parent)

/-- PILE_ARRIVAL: the run core looks whether the pile has arrived, in a slot; the operands carry the number of its children and the way
to its parent in the gate tree, the micro-batches its routing programs routed, the lanes that fail a pattern test and the SRAM bits that
changed since the pile's last row of this kind. -/
def execPileArrival (p : PileId) (slot : Nat) (tree : TreePlace) (routed : List Routing)
    (patFails : List (XPort × Nat)) (s : State) : Host.Outcome State Fault Refusal :=
  ((Act.each tree.upsets (upset p.val)).seq (actPileArrival p.val slot tree.children tree.parent routed patFails)).answer s

/-- A gate token of another job (R176): a started job ends (R204; log 130). -/
def tagError (p : Nat) : Act :=
  Act.all [bump (pk .GATE_TAG_ERR p), causeNow p cTiming,
    .ask fun s => Act.when s.jobStarted ((setR (pk .GATE_STATUS_STATE p) 3).seq (setR (dk .JOB_STATE_STATE) jsStopped))]

/-- A child's token for the gate that a pile stands at; while the job is only loaded, the step that it will start with is not yet
known, and the token waits for JOB_START. -/
def State.ownGate (s : State) (p : Nat) (tok : GateToken) : Bool :=
  s.jobState == jsLoaded ||
  (s.jobStarted && tok.step == s.step && tok.phase == s.gatePhase p && decide (s.rd (pk .GATE_STATUS_STATE p) < 2))

/-- A token of a child reaches a pile's gate logic: the first copy that arrives counts. -/
def actArrive (p slot child children : Nat) (tok : GateToken) : Act :=
  .ask fun s =>
    let g := (s.pile p).gate
    if !s.jobLoaded || !s.usesPile p || !s.ready (domSw p) then .done
    else if tok.jobTag != s.jobTag then tagError p
    else if !s.ownGate p tok || g.kids.any (fun k => k.1 == child) then .done
    else (modGate p (fun x => { x with kids := x.kids ++ [(child, tok)] })).seq (combine p slot children)

/-- ARRIVE: in a slot, from the child that a way names; `children` counts the pile's children. -/
def execArrive (p : PileId) (slot child children : Nat) (tok : GateToken) (s : State) : Host.Outcome State Fault Refusal :=
  (actArrive p.val slot child children tok).answer s

/-- A pile may take RELEASE: it has arrived and holds none, or the job is halted and the gate is released again (R461). -/
def State.takesRelease (s : State) (p : Nat) : Bool :=
  (s.pile p).gate.rel.isNone &&
  ((s.jobStarted && s.rd (pk .GATE_STATUS_STATE p) == 1) || (s.jobState == jsHalted && s.rd (pk .GATE_STATUS_STATE p) == 3))

def actRelease (p : Nat) (tok : GateToken) : Act :=
  .ask fun s =>
    if !s.jobLoaded || !s.usesPile p || !s.ready (domSw p) then .done
    else if tok.jobTag != s.jobTag then tagError p
    else if !s.takesRelease p || tok.step != s.step || tok.phase != s.gatePhase p then .done
    else release p tok

/-- RELEASE: the parent's token. -/
def execRelease (p : PileId) (tok : GateToken) (s : State) : Host.Outcome State Fault Refusal := (actRelease p.val tok).answer s

/-! ## Gate slots (R190, R226) -/

/-- What a gate entry's ingress way brought: a token goes to the gate logic, by the way it came on. -/
def takeToken (p slot way : Nat) (g : Option Gondola) : Act :=
  .ask fun s => match g.bind tokenOf with
    | some (true, t) => actArrive p slot way (s.pile p).gate.children t
    | some (false, t) => actRelease p t
    | none => .done

/-- A gate egress way-slot: the first token that waits for its port, else an EMPTY gondola. A port that retrains holds it (R261), and
one that is down sends nothing. -/
def gateEgress (p slot way : Nat) : Act :=
  .ask fun s =>
    let q := wayPort way
    if !s.portUp p q || s.retraining p q then .done
    else (bump (pk .SW_FWD p)).seq (match (s.pile p).gate.sends.find? (fun x => x.port == q) with
      | some x => Act.all [
          modGate p (fun g => { g with sends := g.sends.erase x }), send (if x.up then .arrive p x.tok else .release p x.tok),
          sendOn p slot way (tokenGondola x.up (s.origCheck p) x.tok)]
      | none => sendOn p slot way (emptyGondola (s.origCheck p) false false))

/-- The gate entries of a way-slot: the token that came, and what their egress ways carry two slots later. -/
def gateSlot (p slot way : Nat) (es : List SlotEntry) (g : Option Gondola) : Act :=
  (Act.when (way != 255) (takeToken p slot way g)).seq
    (Act.each (es.filter (fun e => e.egress != 255)) (fun e => gateEgress p (slot + 2) e.egress))

def actGondolaIngress (p slot way : Nat) (g : Option Gondola) (parityErr : Bool) : Act :=
  takeWay p slot way g parityErr (gateSlot p slot way)

/-- GONDOLA_INGRESS: one ingress way-slot; `slot` counts as TB_SLOT does, and way 255 stands for the slot's generated gondolas and
for the gate entries that take none. -/
def execGondolaIngress (p : PileId) (slot way : Nat) (g : Option Gondola) (parityErr : Bool) (s : State) :
    Host.Outcome State Fault Refusal :=
  (actGondolaIngress p.val slot way g parityErr).answer s

/-- GATE_TIMEOUT (R194): the root is not complete in time. -/
def actGateTimeout : Act :=
  .ask fun s =>
    if !s.on (dk .TB_CTL_ROOT) || !s.on (dk .GATE_CTL_TIMEOUT) || !s.jobStarted || (s.pile 0).gate.rel.isSome ||
        decide (2 ≤ s.rd (pk .GATE_STATUS_STATE 0)) then .done
    else
      let mask := ((s.usedPiles.filter (fun p => (s.pile p).gate.arrivedAt.isSome)).map (fun p => 2 ^ p)).sum
      raiseEvent 0x0005 0 (bytesLE 2 (s.gatePhase 0) ++ bytesLE 2 mask)

def execGateTimeout (s : State) : Host.Outcome State Fault Refusal := actGateTimeout.answer s

/-! ## The time base (R186-R189) -/

/-- The latency of the upstream port by which a timing mark loads the counter: the estimate of the round-trip probes (R185, R252). -/
def State.upLatency (s : State) : Nat := (s.port (s.rd (dk .TB_CTL_UP_PILE)) (s.rd (dk .TB_CTL_UP_PORT))).estLat

/-- TIMING_MARK: the marker of the upstream port loads the counter. -/
def actTimingMark (slot : Nat) : Act :=
  .ask fun s => Act.when (s.on (dk .TB_CTL_ENABLE) && !s.on (dk .TB_CTL_ROOT))
    (Act.all [setR (dk .TB_SLOT) (slot + s.upLatency), emit (.tbLoaded true), showAligned])

def execTimingMark (slot : Nat) (s : State) : Host.Outcome State Fault Refusal := (actTimingMark slot).answer s

/-- FREQUENCY_LOCK: the core PLLs lock to the upstream clock. -/
def execFrequencyLock (s : State) : Host.Outcome State Fault Refusal :=
  (Act.ask fun t => Act.when (t.on (dk .TB_CTL_ENABLE)) (setR (dk .TB_STATUS_LOCKED) 1)).answer s

/-- HOLDOVER (R189): the device loses lock to its upstream port. -/
def execHoldover (s : State) : Host.Outcome State Fault Refusal := loseLock.answer s

/-! ## The pending set at an opening (R6-R8, R195; log 60) -/

def applyHeld (ws : List HeldWrite) : Act := Act.each ws (fun w => setR w.key w.value)

/-- The values that fields have before writes, for those not yet kept. -/
def State.keepBase (s : State) (ws : List HeldWrite) : List HeldWrite :=
  ws.foldl (fun a w => if a.any (fun x => x.key == w.key) then a else a ++ [⟨w.key, s.rd w.key, w.strict⟩]) s.hold.base

/-- The start gate applies the RW@G changes that wait; an RW@S write that a discard of an earlier job left pending goes on to wait. -/
def heldAtStart : Act :=
  .ask fun s => (applyHeld (s.hold.waiting.filter (fun w => !w.strict))).seq
    (modHold (fun h => { h with waiting := h.waiting.filter HeldWrite.strict, log := [], base := [] }))

/-- A gate within a step: a first attempt applies and notes what waits, a replay repeats what was noted for this gate. -/
def heldInside (phase : Nat) : Act :=
  .ask fun s =>
    if s.job.replayOf then applyHeld ((s.hold.log.filter (fun x => x.1 == phase)).map Prod.snd)
    else
      let ws := s.hold.waiting.filter (fun w => !w.strict)
      (modHold (fun h => { h with
        waiting := h.waiting.filter HeldWrite.strict, log := h.log ++ ws.map (fun w => (phase, w)), base := s.keepBase ws })).seq
        (applyHeld ws)

/-- A finish gate that ends the step: it applies what stands pending, but what arrived during a replay (R8). -/
def heldAtCommit : Act :=
  .ask fun s =>
    if s.job.replayOf then (applyHeld s.hold.frozen).seq (modHold (fun h => { h with frozen := [], log := [], base := [] }))
    else (applyHeld (s.hold.frozen ++ s.hold.waiting)).seq (modHold (fun _ => {}))

/-- RW@S writes that stand pending at a finish gate that discards join those that the next committing gate applies, a later write to
a field in place of an earlier one (R6, R8). -/
def freezeHeld : Act := modHold (fun h =>
  let ws := h.waiting.filter HeldWrite.strict
  { h with
    waiting := h.waiting.filter (fun w => !w.strict)
    frozen := h.frozen.filter (fun w => !ws.any (fun x => x.key == w.key)) ++ ws })

/-- A finish gate that discards the attempt: fields return to what they were when it began. -/
def heldAtDiscard : Act := (Act.ask fun s => applyHeld s.hold.base).seq freezeHeld

/-! ## Scale trackers (R86-R89) -/

/-- A share of a count (R87). Of a record whose ELEMENTS is 0 while another count is not, the spec states no
quotient: a free value stands for it (log 152). -/
def shareOf (n all : Nat) : Nat := if n = 0 then 0 else min 0xFFFF (max 1 (if all = 0 then Config.shareOfNone n else n * 65536 / all))

/-- Exponent of a finite magnitude, none for zero. -/
def expOf (w : Word) : Option Int := match num32 w with
  | .fin d => if d.isZero then none else some d.log2
  | _ => none

/-- The entry of a window k steps before its latest. -/
def trackBack (t : Tracker) (k : Nat) : TrackerEntry := t.window.getD ((t.head + 16 - k % 16) % 16) {}

/-- EREF for the next step, from the valid entries. -/
def nextEref (t : Tracker) : Int :=
  let a := (List.range t.fill).foldl (fun m k => max32 m (trackBack t k).absmax) 0
  match expOf a with
  | none => t.erefInit
  | some e => max (-126) (min 128 (e + 1 + (t.margin : Int)))

/-- TREND after an entry, `old` being the EREF that was in effect (R88). -/
def nextTrend (t : Tracker) (old : Int) : BitVec 8 :=
  let e (k : Nat) : Option Int := expOf (trackBack t k).absmax
  let grown : Option Int := match e 0, e 4 with
    | some a, some b => if 5 ≤ t.fill then some (a - b) else none
    | _, _ => none
  let st (k : Nat) : Nat := (trackBack t k).sat
  let grow : Bool := match grown with
    | some d => decide (3 ≤ d)
    | none => false
  let shrink : Bool := match grown with
    | some d => decide (d ≤ -3)
    | none => false
  let head : Bool := match e 0 with
    | some a => decide (old + 16 ≤ a)
    | none => false
  let rise : Bool := decide (3 ≤ t.fill ∧ st 2 ≠ 0 ∧ st 1 ≠ 0 ∧ st 0 ≠ 0 ∧ st 2 ≤ st 1 ∧ st 1 ≤ st 0 ∧ st 2 < st 0)
  BitVec.ofNat 8 (oneIf grow + 2 * oneIf shrink + 4 * oneIf rise + 8 * oneIf ((trackBack t 0).nonfinite != 0) +
    16 * oneIf (decide (t.flushLimit < (trackBack t 0).flush)) + 32 * oneIf head)

/-- A tracker at a finish gate that ends a step, from the domain-wide record of its index (R86). -/
def advanceTracker (t : Tracker) (c : XoCounts) (step : Nat) : Tracker :=
  let head := (t.head + 1) % 16
  let e : TrackerEntry := ⟨c.absmax, shareOf c.zero c.elements, shareOf c.flush c.elements, shareOf c.sat c.elements,
    shareOf c.nonfin c.elements⟩
  let t1 := { t with head := head, window := t.window.set head e, fill := min 16 (t.fill + 1), lastStep := step }
  { t1 with eref := nextEref t1, trend := nextTrend t1 t.eref }

/-- The domain-wide record at a place of the tracker list, zeros where its line has not come. -/
def State.domainRecord (s : State) (place : Nat) : XoCounts := match SMap.find? (s.pile s.firstPile).rue.recs place with
  | some l => (healthOf (lineBytes128 l)).2
  | none => {}

/-- Bits that go from 0 to 1 (R89). -/
def newBits (old new : BitVec 8) : Nat := (new &&& ~~~old).toNat

/-- A pile's copy of a tracker advances: its run core loads the record and writes it back (log 64). -/
def advanceCopy (c : XoCounts) (step idx p : Nat) : Act :=
  .ask fun s => match SMap.find? s.job.trackers idx with
    | some line => loadTracker p idx (fun t => putTracker p line (advanceTracker t c step))
    | none => .done

/-- The timing root reports the trends that a tracker's next record raises, by CP0's EVENT_MASK (R89). -/
def reportTrend (c : XoCounts) (step idx : Nat) : Act :=
  .ask fun s => match s.tracker s.firstPile idx with
    | none => .done
    | some t =>
      let u := advanceTracker t c step
      let bits := newBits t.trend u.trend &&& s.rd (pk .TRK_CTL_EVENT_MASK 0)
      Act.when (s.on (dk .TB_CTL_ROOT) && bits != 0) (raiseEvent 0x0002 0 (bytesLE 4 idx ++ [u.trend.toNat, bits]))

/-- Every copy of every tracker advances. -/
def advanceTrackers (step : Nat) : Act :=
  .ask fun s => match s.job.image with
    | none => .done
    | some i => Act.all ((trackerList i).mapIdx (fun place idx =>
        (reportTrend (s.domainRecord place) step idx).seq (Act.each s.usedPiles (advanceCopy (s.domainRecord place) step idx))))

/-! ## Statistics and reports of an ended step (R294, R318, R321, R322) -/

/-- m: the number of contributors of the NOISE buckets. -/
def noiseM (i : Image) : Option Nat := (i.buckets.find? Bucket.noise).map Bucket.contrib

/-- B = SAMPLES_PER_MB x STEP_PARAM[MB_PARAM]. -/
def State.samples (s : State) : Nat := match s.job.image.bind Image.fused with
  | some f => f.samplesPerMb * s.rd (pk .STEP_PARAM s.firstPile f.mbParam)
  | none => 0

/-- Flag and value of the noise scale (R321). -/
def noiseScale (m : Option Nat) (b : Nat) (v : Verdict) : Nat × Word :=
  match m with
  | none => (4, 0)
  | some m =>
    let num := (wideNat b).mul (((wideNat m).mul v.sLoc).sub v.sRed)
    let den := (wideNat m).mul (v.sRed.sub v.sLoc)
    if !v.sLoc.num.finite || !v.sRed.num.finite || !num.num.finite || !den.num.finite || v.health.testBit cNonfinite then
      (3, rnd32 .nan)
    else if !FNum.lt (.fin ⟨false, 0, 0⟩) den.num then (1, rnd32 (.inf false))
    else if !FNum.lt (.fin ⟨false, 0, 0⟩) num.num then (2, 0)
    else (0, rnd32 (divN num.num den.num))

/-- STEP_STATS of a step that ends with a verdict. -/
def State.statsBytes (s : State) (verdict : Nat) : List Nat :=
  let v := s.fusedVerdict s.firstPile
  let m := s.job.image.bind noiseM
  let n := noiseScale m s.samples v
  bytesLE 8 s.step ++ bytesLE 4 verdict ++ bytesLE 4 n.1 ++ bytesLE 4 n.2.toNat ++ bytesLE 4 (wideRoot v.gnorm).toNat ++
  wideBytes v.sLoc ++ wideBytes v.sRed ++ bytesLE 4 s.samples ++ bytesLE 4 (m.getD 0)

/-- A record's drop share exceeds another's, compared exactly. -/
def dropAbove (a b : DispatchCounts) : Bool := decide (b.dropped * a.assign < a.dropped * b.assign)

/-- Whether a record's share lies above the limit. -/
def dropOver (limit : Nat) (d : DispatchCounts) : Bool := decide (limit * d.assign < d.dropped * 65536)

/-- The records of the ended step over DROP_LIMIT, by pile and then layer. -/
def State.dropsOver (s : State) : List (Nat × DispatchCounts) :=
  s.usedPiles.flatMap (fun p => ((s.pile p).disp.last.filter (fun kv => dropOver (s.rd (dk .XD_CTL_DROP_LIMIT)) kv.2)).map
    (fun kv => (p, kv.2)))

/-- The dispatch-drop event of a step (R294). -/
def dropEvent : Act :=
  .ask fun s => Act.when (s.on (dk .XD_CTL_DROP_LIMIT)) (match s.dropsOver with
    | [] => .done
    | x :: r =>
      let w := r.foldl (fun a b => if dropAbove b.2 a.2 then b else a) x
      raiseEvent 0x000A 0xFF ([w.1, 0] ++ bytesLE 2 w.2.layer ++ bytesLE 4 (w.2.dropped * 65536 / w.2.assign)))

/-- A skipped step is recorded, and the timing root reports it (R318). -/
def skipReport : Act :=
  .ask fun s =>
    let v := s.fusedVerdict s.firstPile
    Act.all [
      setR (dk .SKIP_LAST_STEP) s.step, setR (dk .SKIP_LAST_ORIGIN) v.origin,
      Act.when (s.on (dk .TB_CTL_ROOT)) (raiseEvent 0x000B 0xFF (bytesLE 8 v.origin ++ bytesLE 4 v.nfPiles))]

/-! ## A pile at a finish gate (R83, R198, R201, R231, R260) -/

/-- The sets of records move. -/
def RecSets.move {α : Type} (r : RecSets α) (ended : Bool) (step : Nat) : RecSets α :=
  if ended then { r with last := r.cur, lastStep := step, cur := r.carry, carry := [] }
  else { r with disc := r.cur, discStep := step, cur := [], carry := [] }

/-- Records, causes and gathers of a pile move by the verdict. -/
def moveRecords (p : Nat) (ended : Bool) (step : Nat) : Act :=
  modPile p (fun x => { x with
    health := x.health.move ended step, disp := x.disp.move ended step, bktRecs := x.bktRecs.move ended step
    rue := { x.rue with
      causes := if ended then x.rue.causeCarry else 0, causeCarry := 0
      seen := if ended then x.rue.seenCarry else [], seenCarry := [] } })

/-- The attempt's digests enter the history of its step, or those of the discarded attempt (R231, R243). -/
def storeDigests (p : Nat) (ended : Bool) (step : Nat) : Act :=
  .ask fun s =>
    let h := step % 64
    (Act.each (List.range 16) (fun n =>
      let d := s.rd (pk .DIG_CUR p (n / 2) (n % 2))
      if ended then setR (pk .DIG_HIST p h n) d else setR (pk .DIG_DISC p (n / 2) (n % 2)) d)).seq
    (if ended then (setR (pk .DIG_HIST_STEP_STEP p h) step).seq
       (setR (pk .DIG_HIST_STEP_REPLAYS p h) (s.rd (pk .GATE_STATUS_ATTEMPT p)))
     else setR (pk .DIG_DISC_STEP p) step)

/-- Suspicions are of one attempt (R259, R264): an attempt starts with none of its own, and a job's first with none before it. -/
def openLinks (p : Nat) (first : Bool) : Act := (Act.each [0, 1] (fun k => modPort p k (fun x => { x with
    susp := [], portSusp := false, patTest := false
    suspPrev := if first then [] else x.suspPrev, portPrev := !first && x.portPrev }))).seq
  (Act.each (List.range 4) (fun d => modBridge p d (fun b => { b with
    failNow := [], failPrev := if first then [] else b.failPrev })))

/-- A lane's history of steps over its limit: at four of sixteen it is marginal (R260). -/
def laneHistory (p k m : Nat) : Act :=
  .ask fun s =>
    let h := (SMap.getD (s.port p k).history m 0 <<< 1) ||| (if s.laneOver p k m then 1 else 0)
    (modPort p k (fun x => { x with history := SMap.put 0 x.history m h })).seq
      (Act.when (decide (4 ≤ popcount 16 h.toNat)) (needSpare p k m))

/-- What an attempt leaves on the ports and bridges of a pile. -/
def closeLinks (p : Nat) (ended : Bool) : Act := Act.all [
  Act.each [0, 1] (fun k => Act.all [
    Act.when ended (Act.each (List.range 9) (laneHistory p k)),
    modPort p k (fun x => { x with suspPrev := x.susp, susp := [], portPrev := x.portSusp, portSusp := false, skip := false })]),
  Act.each (List.range 4) (fun d => modBridge p d (fun b => { b with failPrev := b.failNow, failNow := [] })),
  modFlt p (fun x => { x with did := false })]

/-- A pile applies the verdict of the step that it ends (R201). -/
def pileEnds (p step code : Nat) : Act :=
  .ask fun s => Act.all [
    storeDigests p true step, closeLinks p true, moveRecords p true step,
    setR (pk .UPD_STATUS_VER_SEL p) (1 - s.ver p),
    Act.when (code == 1) (bump (pk .SKIP_COUNT p)),
    Act.when (s.pile p).rue.clipped (bump (pk .UPD_CLIPPED p)),
    setR (pk .GATE_STATUS_ATTEMPT p) 0]

/-- A pile applies a verdict that discards its attempt. -/
def pileDiscards (p step : Nat) : Act := Act.all [storeDigests p false step, closeLinks p false, moveRecords p false step]

/-! ## A finish gate on the device -/

/-- VERDICT_LAST (R209). -/
def showVerdict (v : Nat) : Act :=
  .ask fun s => Act.all [
    setR (dk .VERDICT_LAST_STEP) s.step, setR (dk .VERDICT_LAST_CODE) (v / 2 ^ 24), setR (dk .VERDICT_LAST_CAUSE) v]

/-- COMMIT and SKIP: the step ends, its objects are published (R446), and the step number rises (R187). The ended step is judged by the
limits that were in force in it; what stood pending takes effect after (R195; DEDUCED, log 60). -/
def stepEnds (ps : List Nat) (v : Nat) : Act :=
  .ask fun s =>
    let names := s.objectNames
    Act.all [
      Act.when (v / 2 ^ 24 == 1) skipReport,
      modJob (fun j => { j with
        stats := toBytes (s.statsBytes v), gens := names.map (fun n => (n, s.step))
        ready := j.ready.filter (fun n => decide (s.step < n)), ended := j.ended + 1 }),
      Act.each ps (fun p => pileEnds p s.step (v / 2 ^ 24)),
      advanceTrackers s.step,
      Act.each ps (fun p => Act.each (List.range 9) (countTransients p)),
      dropEvent,
      heldAtCommit,
      setR (dk .TB_STEP) (s.step + 1),
      modJob (fun j => { j with replayOf := false })]

/-- DISCARD and HALT. A halted gate that is released again has moved its sets already (R461); the writes made meanwhile stand pending
at it as at any gate that discards. -/
def stepDiscarded (ps : List Nat) (again : Bool) : Act :=
  .ask fun s => Act.all [
    heldAtDiscard, Act.when (!again) (Act.each ps (fun p => pileDiscards p s.step)),
    modJob (fun j => { j with replayOf := true })]

/-- Under HALT no pile opens a next phase (R202). -/
def haltHere (ps : List Nat) : Act := Act.all [
  Act.each ps (fun p => (setR (pk .GATE_STATUS_STATE p) 3).seq (modGate p (fun g => { g with rel := none }))),
  setR (dk .JOB_STATE_STATE) jsHalted]

/-! ## The start of an attempt (R142, R162, R168, R323, R331) -/

/-- Counters and flags that count within the current attempt, of a pile and its tiles. -/
def attemptFlds : List Nat := ([
  .ARR_STATUS_CHK_FAIL, .ARR_POISON_OUT, .ARR_CHK_MISMATCH, .VEC_STATUS_WIDE_INF, .VEC_NONFINITE_IN, .VEC_NONFINITE_OUT,
  .VEC_DOMAIN, .VEC_FLUSH_OUT, .MOV_CHECK_FAIL, .MOV_INDEX_ERR, .MOV_STATUS_OFF_ERR, .CHK_BLOCK_FAIL, .TSQ_STATUS_FAULT_MODE,
  .TSQ_STATUS_IN_IDLE, .TSQ_STATUS_STALL, .TSQ_STATUS_PC, .TSQ_FAULT_VALID, .TSQ_FAULT_CODE, .TSQ_FAULT_SLOT, .TSQ_FAULT_PC, .VNARROW,
  .XFER_HAZARD, .SW_MISSING, .SW_ORPHAN, .SW_CHECK_FAIL, .SW_INDEX_ERR, .SW_DR_RX,
  .LNK_UE_BLOCKS, .LNK_FCRC_ERR, .LNK_LANE_CE, .LNK_LANE_UE, .BRG_CRC_ERR] ++ [
  .FUSED_RESULT, .RED_STATUS_BUSY, .RED_STATUS_SEALED, .RED_STATUS_FUSED_VALID, .RED_STATUS_REC_SEALED, .RED_STATUS_HEALTH_LOCAL,
  .RED_OOR, .RED_POISON_BKT, .RED_PKT_INVALID, .UPD_STATUS_BUSY, .UPD_STATUS_PASS, .UPD_STATUS_SUPPRESSED, .UPD_STATUS_LAYER,
  .SHARD_CHECK_FAIL, .MEM_UE, .MEM_POISON_READ, .MEM_UNWRITTEN_READ, .MEM_POISON_WRITE, .RUE_CHECK_FAIL, .DUAL_MISMATCH,
  .DUAL_LAST_DIG_A, .DUAL_LAST_DIG_B, .DUAL_LAST_PHASE, .DUAL_LAST_PAIR, .DUAL_LAST_SEQ, .DUAL_LAST_VALID] : List Fld).map
  (fun f => f.ctorIdx)

/-- A tile's fault record becomes the record of the attempt before. -/
def keepFault (p t : Nat) : Act :=
  .ask fun s => Act.all [
    setR (tk .TSQ_FAULT_PREV_VALID p t) (s.rd (tk .TSQ_FAULT_VALID p t)), setR (tk .TSQ_FAULT_PREV_CODE p t) (s.rd (tk .TSQ_FAULT_CODE p t)),
    setR (tk .TSQ_FAULT_PREV_SLOT p t) (s.rd (tk .TSQ_FAULT_SLOT p t)), setR (tk .TSQ_FAULT_PREV_PC p t) (s.rd (tk .TSQ_FAULT_PC p t)),
    modTile p t freshTile]

/-- The RUE as an attempt starts it, with the schedules at the step number. -/
def freshRue (r : RueSt) (scheds : List Word) : RueSt :=
  { r with bkts := [], rueDone := 0, kidVerd := [], kidRec := [], verd := [], recs := [], scheds := scheds, sums := [], gathers := []
           nfSeal := 0, nfGone := 0, readOut := [], passes := [], clipped := false, kappaSet := false }

/-- The current set holds a record of every bucket that the pile owns (R319). -/
def openBuckets (p : Nat) : Act :=
  .ask fun s => match s.job.image with
    | none => .done
    | some i => Act.each (i.buckets.filter (fun b => b.ownerDev == i.device && b.ownerPile == p)) (fun b => modRec p b.id (fun _ =>
        ⟨s.eref p b.tracker, 0, 0, 0, {}, {}, 0, false⟩))

def startAttempt (p : Nat) : Act :=
  .ask fun s =>
    let scheds := (s.job.image.map (fun i => i.update.schedules.map (fun c => schedValue c s.step))).getD []
    Act.all [
      Act.each (List.range 9) (keepFault p), openBuckets p, openLinks p (s.pile p).gate.start,
      emit (.clearRegs (fun c => codePile c == p && attemptFlds.contains (codeFld c))),
      modRue p (fun r => freshRue r scheds),
      modFlt p (fun x => { x with hits := [], mism := [] }),
      Act.each (List.range 16) (fun n => setR (pk .DIG_CUR p (n / 2) (n % 2)) (mix64 s.step))]

/-! ## The opening of a phase (R160, R178, R507) -/

/-- A tile at the opening: counts for the phase start anew, and what runs ahead has crossed a gate. -/
def openTile (p t : Nat) : Act :=
  .ask fun s => Act.all [
    Act.when (s.on (tk .TSQ_STATUS_IN_GATE p t)) (stallClocks p t 7),
    Act.when (s.tile p t).arrived (tileFiller p t false),
    Act.each (List.range 16) (fun n => (setR (tk .SYNC p t n) (s.rd (tk .SYNC_NEXT p t n))).seq (setR (tk .SYNC_NEXT p t n) 0)),
    Act.each (List.range 3) (fun a => setR (tk .ARR_DONE p t a) 0),
    setR (tk .TSQ_STATUS_IN_GATE p t) 0, setR (tk .VEC_STATUS_OP_SEQ p t) 0,
    modTile p t (fun x => { x with
      arrived := false, fa := { x.fa with seq := 0 }, bda := { x.bda with seq := 0 }, bwa := { x.bwa with seq := 0 }
      vecSeq := 0, sfuUsed := false, topUsed := false, vstSeq := 0, outDigs := [], queue := x.queue.map (fun o => { o with crossed := true }) })]

/-- The gate logic at an opening. -/
def openedGate (slot entry iter : Nat) : GateSt := { openSlot := slot, entry := entry, iter := iter }

/-- Block checking in force from an opening (R394). -/
def State.checksBlocks (s : State) : Bool :=
  s.on (dk .CHK_CTL_BLOCK_CHECK) || (s.job.replayOf && s.on (dk .CHK_CTL_REPLAY_CHECK))

def openPile (p slot idx entry iter : Nat) (e : PhaseEntry) : Act :=
  .ask fun s => Act.all [
    Act.each (List.range 9) (openTile p),
    modRue p (fun r => { r with rueDone := 0, passes := [] }),
    modSw p (fun w => { w with
      done := [], locIn := [], linkIn := w.linkIn.filter (fun x => x.2.gate), wires := w.wires.filter (fun x => x.2.gate || x.2.tc != 0), locOut := [] }),
    modGate p (fun _ => openedGate slot entry iter),
    setR (pk .GATE_STATUS_STATE p) 0, setB (pk .GATE_STATUS_HEAD_PHASE p) e.head, setB (pk .GATE_STATUS_FINISH_PHASE p) e.finish,
    setR (pk .GATE_STATUS_PHASE p) idx,
    setR (pk .SW_STATUS_MODE p) 2, setR (pk .SW_STATUS_PAGE p) e.page,
    setB (pk .FLT_STATUS_BLOCK_CHECKING p) s.checksBlocks]

/-- The domain that a plan's entry names, where it names one. -/
def State.planDomain (s : State) (d : Nat) : Option Nat :=
  let n := (d - 32) / 32
  let j := (d - 32) % 32
  if d < 32 ∨ 544 ≤ d then none
  else if 2 ≤ j ∧ j ≤ 9 then some (domTile n (s.physOf n (j - 2)))
  else if j = 11 ∨ j = 12 then some d
  else none

/-- A plan's entry may act on a domain: it keeps R501, and does not name a MEM that is OFF, which POWER_SET alone brings ON (R503). -/
def State.planOk (s : State) (d target : Nat) : Bool :=
  s.depsOk d target && !((d - 32) % 32 == 12 && s.effPower d == 2)

/-- One entry of a power plan; one that may not act is ignored and counted (log 136). -/
def planEntry (x : Nat × Nat) : Act :=
  .ask fun s => match s.planDomain x.1, x.2 with
    | some d, 0 => if !s.planOk d 0 then bump (dk .PWR_PLAN_IGN) else (modDom d (fun y => { y with retDue := false })).seq (wake d true)
    | some d, 1 =>
      let n := (d - 32) / 32
      let j := (d - 32) % 32
      if s.on (pk .PWR_PLAN_OVR n) then .done
      else if !s.planOk d 1 then bump (dk .PWR_PLAN_IGN)
      else if decide (2 ≤ j ∧ j ≤ 10) && (s.tile n (j - 2)).queue.any MvOp.ahead then modDom d (fun y => { y with retDue := true })
      else enter d 1
    | _, _ => bump (dk .PWR_PLAN_IGN)

/-- The plan of the phase that opens. -/
def applyPlan (e : PhaseEntry) : Act :=
  .ask fun s => match s.job.image.bind (fun i => i.plans.find? (fun x => x.index == e.powerPlan)) with
    | some x => if e.powerPlan = 0xFFFF then .done else Act.each x.entries planEntry
    | none => .done

/-- A request that waited for the first phase is answered. -/
def answerWaiting (r : Option Req) : Act := match r with
  | some q => reply q stOk
  | none => .done

/-- The phase of an index opens on the piles that hold the opening slot. -/
def openPhase (ps : List Nat) (slot idx : Nat) : Act :=
  .ask fun s => match s.job.image, s.job.phases[idx]? with
    | some i, some q => match i.phases[q.1]? with
      | some e => Act.all [
          Act.each ps (fun p => openPile p slot idx q.1 q.2 e),
          applyPlan e,
          modPwr (fun x => { x with since := some 0 }),
          setR (dk .TB_SLOT) slot,
          modJob (fun j => { j with startReq := none, resumeReq := none }),
          setR (dk .JOB_STATE_STATE) jsRunning,
          answerWaiting s.job.startReq, answerWaiting s.job.resumeReq]
      | none => .done
    | _, _ => .done

/-- An attempt starts on the piles and its first phase opens. -/
def openAttempt (ps : List Nat) (slot : Nat) : Act := Act.all [
  .ask fun s => modJob (fun j => { j with phases := s.sequence }),
  Act.each ps startAttempt,
  openPhase ps slot 0]

/-- Slots from arrival to opening (R210); a gate that halts opens nothing. -/
def countWait (slot p : Nat) : Act :=
  .ask fun s => match (s.pile p).gate.arrivedAt with
    | some a => bump (pk .GATE_WAIT p) (slot - a)
    | none => .done

/-- The start gate: sets of records of an earlier job are cleared (R83). -/
def openStart (ps : List Nat) (slot : Nat) : Act := Act.all [
  heldAtStart,
  Act.each ps (fun p => (modPile p (fun x => { x with
    health := { x.health with cur := [], carry := [] }, disp := { x.disp with cur := [], carry := [] }
    bktRecs := { x.bktRecs with cur := [], carry := [] }
    rue := { x.rue with causes := 0, causeCarry := 0, seen := [], seenCarry := [] } })).seq (setR (pk .GATE_STATUS_ATTEMPT p) 0)),
  modJob (fun j => { j with replayOf := false }),
  openAttempt ps slot]

/-- A finish gate opens with its verdict. -/
def openFinish (ps : List Nat) (slot : Nat) (v : Nat) : Act :=
  .ask fun s =>
    let code := v / 2 ^ 24
    let again := s.jobState == jsHalted
    Act.all [
      Act.each ps foldDigests,
      showVerdict v,
      (if code < 2 then stepEnds ps v else stepDiscarded ps again),
      Act.when (code == 2) (Act.each ps (fun p => (bump (pk .REPLAY_COUNT p)).seq
        (if again then setR (pk .GATE_STATUS_ATTEMPT p) 0 else bump (pk .GATE_STATUS_ATTEMPT p)))),
      (if code = 3 then haltHere ps else openAttempt ps slot)]

/-- GATE_OPEN: slot g begins on the piles whose RELEASE names it. -/
def actGateOpen (slot : Nat) : Act :=
  .ask fun s =>
    let ps := s.usedPiles.filter (fun p => s.jobStarted && s.rd (pk .GATE_STATUS_STATE p) == 2 &&
      ((s.pile p).gate.rel.map Prod.fst) == some slot)
    match ps with
    | [] => .done
    | p :: _ =>
      let v := (((s.pile p).gate.rel.map Prod.snd).getD 0).toNat
      (Act.when (v / 2 ^ 24 != 3) (Act.each ps (countWait slot))).seq
        (if (s.pile p).gate.start then openStart ps slot
         else if s.on (pk .GATE_STATUS_FINISH_PHASE p) then openFinish ps slot v
         else Act.all [
           Act.each ps foldDigests,
           heldInside (s.rd (pk .GATE_STATUS_PHASE p)),
           openPhase ps slot (s.rd (pk .GATE_STATUS_PHASE p) + 1)])

def execGateOpen (slot : Nat) (s : State) : Host.Outcome State Fault Refusal := (actGateOpen slot).answer s

end Sys2Proof.Machine
end

