-- ==== Sys2Proof/Machine/Job.lean ====
section
/-! DEFINITION. Jobs (chapter 16): JOB_LOAD and what its acceptance does, JOB_START, INPUT_READY, RESUME, JOB_UNLOAD, aborts
and the self-abort (R468-R471, R563), and pile resets (R232-R234, R463). -/

namespace Sys2Proof.Machine

/-! ## JOB_LOAD (R175, R456, R506) -/

/-- Whether a bring-up runs, or a MEM_FILL in some pile, which hold the memory that a load writes. -/
def State.loadBusy (s : State) : Option Nat :=
  if s.boot.run.isSome then some 0 else allPiles.find? (fun p => (s.pile p).mem.fill.isSome)

/-- SCAN is granted (R542). -/
def State.scanGranted (s : State) : Bool := (s.rd (dk .SEC_STATUS_DEBUG_SCOPE)).testBit 0

def actJobLoad (m : LiftMsg) (xfer size : Nat) (x : ImageParts) (tm : LoadTiming) : Act :=
  request m (.jobLoad m xfer size x tm) (some 16) fun r => .ask fun s =>
    let n := (size + 127) / 128
    let no (st d : Nat) : Act := refuseXfer r xfer n (.image size x tm) st d
    if s.jobState != jsNone || s.scanGranted then no stWrongState s.jobState
    else match s.loadBusy with
      | some p => no stBusy p
      | none => if size = 0 then no stImageRefused (2 ^ 24) else openXfer r xfer 0 n (.image size x tm)

/-- A load brings a domain ON and releases its pads. -/
def loadUp (d : Nat) : Act :=
  .ask fun s => if s.ready d then .done else Act.all [domainUp d, linkReturns d, resumeMovers d]

/-- The domains of a pile that a load brings ON: those of R235 where pages use the pile, and all but tiles out of service where
PILE_MASK names it. -/
def State.loadDomains (s : State) (i : Image) (p : Nat) : List Nat :=
  let fabric := [domSw p, domX p 0, domX p 1] ++ ((List.range 4).filter (bridgePresent p)).map (domB p)
  let inner := [domCtl p, domBuf p, domMem p] ++ (List.range 8).map (fun j => domTile p (s.physOf p j))
  if i.pileMask.getLsbD p then fabric ++ inner
  else if i.pageImgs.any (fun g => g.pile == p) then fabric else []

/-- Counters that count since load. -/
def loadFlds : List Nat := ([.SLIP_COUNT, .SLIP_MAX, .GATE_WAIT, .GATE_TAG_ERR, .REPLAY_COUNT, .SKIP_COUNT, .UPD_SUPPRESS,
  .UPD_CLIPPED, .DUAL_COMPARE, .PWR_PLAN_IGN] : List Fld).map (fun f => f.ctorIdx)

/-- The padding of every used port (R252). -/
def setPadding (i : Image) : Act :=
  .ask fun s => Act.each (List.range 32) (fun n =>
    let lat := i.linkLat.getD n 0
    Act.when (lat != 0) (setR (pk .LNK_STATUS_LAT_PAD (n / 2) (n % 2)) (lat - s.rd (pk .LNK_STATUS_LAT_MEAS (n / 2) (n % 2)))))

/-- An image is accepted. -/
def acceptImage (i : Image) : Act :=
  .ask fun s => Act.all [
    Act.each allPiles (fun p => Act.each (s.loadDomains i p) loadUp),
    emit (.clearRegs (fun c => loadFlds.contains (codeFld c))),
    writeImage i,
    Act.each i.constants (fun c => dramWrite c.pile c.line c.data),
    setPadding i,
    Act.each allPiles (fun p => setR (pk .TRK_CTL_TRACKERS p) i.nTrackers),
    setR (dk .XD_CTL_LAYERS) i.experts.layers.length,
    Act.each allPiles (fun p => modGate p (fun _ => {})),
    modJob (fun j => { j with
      image := some i, gens := [], replayOf := false, phases := [], ready := []
      trackers := (i.trackers.zip i.trackerLines).foldl (fun a t => SMap.set a t.1.index (some t.2)) [] }),
    Act.each (allPiles.filter (fun p => i.pileMask.getLsbD p)) (fun p => Act.each (i.trackers.zip i.trackerLines) (fun t => putTracker p t.2 t.1)),
    setR (dk .JOB_STATE_STATE) jsLoaded]

/-- The bytes of an image have arrived: the checks of R456, and the load. -/
def imageArrived (r : Req) (size : Nat) (x : ImageParts) (tm : LoadTiming) (lines : List Line) : Act :=
  .ask fun s =>
    if s.jobState ≠ jsNone then reply r stWrongState s.jobState
    else if s.boot.run.isSome then reply r stBusy
    else match s.imageRefusal x tm (bundleBytes lines size) with
      | some d => reply r stImageRefused d
      | none => (acceptImage (imageOf x (bundleBytes lines size))).seq (reply r stOk)

/-! ## JOB_START, INPUT_READY, RESUME, JOB_UNLOAD -/

/-- A command that acts on the job during ABORTING (R471). -/
def onJob (r : Req) (ok : List Nat) (k : Act) : Act :=
  .ask fun s => if s.jobState = jsAborting then reply r stAborting else inStates r ok k

/-- JOB_START: every used pile stands at the start gate, with the tokens that children sent for it while the job was loaded (R191). A
device in holdover is to stop at its next gate (R189). -/
def actJobStart (m : LiftMsg) (step seed : BitVec 64) : Act :=
  request m (.jobStart m step seed) (some 16) fun r => inStates r [jsLoaded] (.ask fun s =>
    if !s.on (dk .TB_STATUS_ALIGNED) then reply r stNotAligned
    else Act.all [
      setR (dk .TB_STEP) step.toNat,
      modJob (fun j => { j with
        seed := seed.toNat, startReq := some r, stopNext := s.boot.failed || s.on (dk .TB_STATUS_HOLDOVER), phases := [], ready := [], replayOf := false }),
      Act.each s.usedPiles (fun p => Act.all [
        modGate p (fun g => { start := true, kids := g.kids.filter (fun k => k.2.step == step.toNat && k.2.phase == 0) }),
        setR (pk .GATE_STATUS_STATE p) 0, setR (pk .GATE_STATUS_HEAD_PHASE p) 0, setR (pk .GATE_STATUS_FINISH_PHASE p) 0,
        setR (pk .GATE_STATUS_ATTEMPT p) 0, setR (pk .GATE_STATUS_PHASE p) 0]),
      setR (dk .JOB_STATE_STATE) jsStarting])

/-- INPUT_READY (R460). -/
def actInputReady (m : LiftMsg) (step : Nat) : Act :=
  request m (.inputReady m step) (some 8) fun r => onJob r [jsStarting, jsRunning, jsHalted] (.ask fun s =>
    if ((s.job.image.map Image.hostInput).getD false) = false then reply r stBadParam 0
    else if step < s.step ∨ s.step + 1 < step then reply r stBankClosed (step % 2 ^ 32)
    else if s.job.ready.contains step then reply r stOk 1
    else (modJob (fun j => { j with ready := j.ready ++ [step] })).seq (reply r stOk))

/-- RESUME (R461): the root releases the halted gate again. -/
def actResume (m : LiftMsg) : Act :=
  request m (.resume m) (some 0) fun r => onJob r [jsHalted] (tickClocks.seq (.ask fun s =>
    if !s.on (dk .TB_CTL_ROOT) then reply r stNotRoot (match s.job.domain with
      | some d => d.2.2
      | none => 0xFFFF)
    else if s.job.resumeReq.isSome then reply r stBusy
    else (modJob (fun j => { j with resumeReq := some r })).seq
      (release 0 { step := s.step, phase := s.gatePhase 0, jobTag := s.jobTag, openSlot := s.openingFrom (s.rd (dk .TB_SLOT))
                   verdict := BitVec.ofNat 32 (2 * 2 ^ 24 + s.rd (dk .VERDICT_LAST_CAUSE)) })))

/-- A pile's stand-in ends, and what clears with it (R234, R241). -/
def endStandIn (p : Nat) : Act := Act.all [
  setR (pk .SW_STATUS_STAND_IN p) 0, setR (pk .SW_STATUS_GATE_HELD p) 0, setR (pk .SW_DR_LOG_VALID p) 0,
  setR (pk .SW_DR_LOG_WAY p) 0, setR (pk .SW_DR_LOG_PHASE p) 0, setR (pk .SW_DR_LOG_SLOT p) 0]

/-- A swap that is agreed starts with no further step boundary to wait for, one that was put off to the next one too (R261, R265). -/
def startDueSwap (p k : Nat) : Act := (modPort p k (fun x => { x with skip := false })).seq (enterSwap p k)

def startDueSwaps (p : Nat) : Act := Act.each [0, 1] (startDueSwap p)

/-- JOB_UNLOAD. -/
def actJobUnload (m : LiftMsg) : Act :=
  request m (.jobUnload m) (some 0) fun r => inStates r [jsLoaded, jsStopped] (.ask fun s => Act.all [
    setR (dk .JOB_STATE_STATE) jsNone,
    modJob (fun j => { j with image := none, replayOf := false, stopNext := false, phases := [], ready := [] }),
    modPwr (fun x => { x with inGate := false, since := none }),
    Act.each (List.range 32) (fun n => setR (pk .LNK_STATUS_LAT_PAD (n / 2) (n % 2)) 0),
    setR (dk .XD_CTL_LAYERS) 0,
    Act.each allPiles (fun p => Act.all [
      setR (pk .TRK_CTL_TRACKERS p) 0,
      Act.when ((s.pile p).resetSrc == 0) (endStandIn p),
      Act.when (s.power (domSw p) == 0) (setR (pk .SW_STATUS_MODE p) 1),
      Act.each (List.range 9) (fun t => setR (tk .TSQ_STATUS_RUN p t) 0),
      dropArb p, startDueSwaps p, Act.each (List.range 4) (startRepair p)]),
    reply r stOk])

/-! ## Aborts (R468-R471, R563) -/

/-- A fill is cut off on the piles where it still runs: how many lines of each it had written only the machine knows, so the
number is free (log 30). -/
def cutFill (r : Req) : List (Nat × FillRun) → Nat → Act
  | [], n => reply r stAborted n
  | (p, f) :: rest, n => withFree fun x =>
      Act.all [fillLines p f 0 (x % (f.lines + 1)), modMem p (fun y => { y with fill := none }), cutFill r rest (n + x % (f.lines + 1))]

/-- Every running fill ends ABORTED. -/
def cutFills : Act :=
  .ask fun s => Act.each (((List.range 16).filterMap (fun p => (s.pile p).mem.fill.map FillRun.req)).eraseDups) (fun r =>
    .ask fun t => match t.fillsOf r with
      | [] => .done
      | (p, f) :: rest => cutFill r ((p, f) :: rest) ((f.piles - (rest.length + 1)) * f.lines))

/-- Transfers of some kinds end ABORTED; what their sequence still brings is discarded (R437). -/
def cutXfers (which : XKind → Bool) : Act :=
  .ask fun s => Act.each s.sessions (fun x => Act.each (x.xfers.filter (fun t => !t.drop && which t.kind)) (fun t =>
    (modXfer x.id t.id (fun y => { y with drop := true })).seq (reply t.req stAborted t.next)))

/-- Requests that still wait (R442, R502) end ABORTED, those of some commands. -/
def cutParked (which : Instr → Bool) : Act :=
  .ask fun s => (modLift (fun l => { l with parked := l.parked.filter (fun x => !which x.2) })).seq
    (Act.each (s.lift.parked.filter (fun x => which x.2)) (fun x => reply x.1 stAborted))

def isMemWrite : XKind → Bool
  | .memWrite _ => true
  | _ => false

def isImage : XKind → Bool
  | .image _ _ _ => true
  | _ => false

/-- An array's operations are cut off: the clocks in which it had made a K-step or stalled stay counted, and how many they were
depends on time (R117; log 5). -/
def cutArray (p t a : Nat) : Act :=
  .ask fun s => Act.each ((s.tile p t).arr a).running (fun q =>
    withFree fun f => withFree fun g =>
      (bump (tk .ARR_BUSY_CLK p t a) (f % (q.2.sweeps * q.2.ksteps * (q.2.lastIdx + 1) + 1))).seq (bump (tk .ARR_STALL_CLK p t a) g))

/-- A tile stops in the clk an abort arrives: what is in flight is discarded (R166, R469). -/
def stopTile (p t : Nat) : Act := Act.all [
  Act.each [0, 1, 2] (cutArray p t),
  .ask (fun s => Act.when (s.on (tk .TSQ_STATUS_RUN p t) && !(s.tile p t).arrived) (tileFiller p t true)),
  setR (tk .TSQ_STATUS_RUN p t) 0, setR (tk .TSQ_STATUS_STALL p t) 0, setR (tk .TSQ_STATUS_IN_IDLE p t) 0,
  modTile p t (fun x => { x with
    fa := { x.fa with running := [], pending := none }, bda := { x.bda with running := [], pending := none }
    bwa := { x.bwa with running := [], pending := none }, queue := [], mover := .idle, begun := 0, flight := [], issued := {} })]

/-- An abort reaches a pile: its units stop, its switch stands in and holds its arrival, its current sets become the discarded
sets, and an agreed swap goes on (R265). -/
def stopPile (p : Nat) : Act :=
  .ask fun s => Act.all [
    Act.each (List.range 9) (stopTile p), dropWork p,
    setR (pk .SW_STATUS_STAND_IN p) 1, setR (pk .SW_STATUS_GATE_HELD p) 1,
    modPile p (fun x => { x with
      gate := { x.gate with rel := none, start := false }
      health := x.health.move false s.step, disp := x.disp.move false s.step, bktRecs := x.bktRecs.move false s.step }),
    startDueSwaps p]

/-- A request that the abort cuts off. -/
def cutReq (r : Option Req) : Act := match r with
  | some q => reply q stAborted
  | none => .done

/-- The abort of a started job begins. -/
def abortStarted : Act :=
  .ask fun s => Act.all [
    setR (dk .JOB_STATE_STATE) jsAborting, setR (dk .JOB_STATE_WATCHDOG) 0, setR (dk .JOB_STATE_ABORT_PILES) 0,
    Act.each allPiles stopPile,
    modHold (fun _ => {}),
    cutXfers isMemWrite, cutParked (fun c => (runsOf c).any LineRun.writes),
    cutReq s.job.startReq, cutReq s.job.resumeReq,
    modJob (fun j => { j with startReq := none, resumeReq := none }),
    modPwr (fun x => { x with inGate := false, since := none })]

/-- An abort in a state in which no job is started. -/
def abortIdle : Act :=
  .ask fun s => Act.all [
    setR (dk .JOB_STATE_WATCHDOG) 0, setR (dk .JOB_STATE_ABORT_PILES) 0,
    cutFills, cutXfers (fun k => isMemWrite k || isImage k), cutParked (fun c => (runsOf c).any LineRun.writes),
    Act.when (s.jobState == jsLoaded) ((setR (dk .JOB_STATE_STATE) jsStopped).seq (Act.each allPiles startDueSwaps))]

/-- A lane swap is under way at some port (R261). -/
def State.swapping (s : State) : Bool :=
  allPiles.any (fun p => [0, 1].any (fun k => s.rd (pk .LNK_STATUS_STATE p k) == 9))

/-- The abort of R468 in the job state it finds; `k` follows it at once where it is complete at once, and `late` notes who waits for it
where it is not: a started job's, or one that finds a lane swap under way (R265). -/
def abortNow (thermal : Bool) (late k : Act) : Act :=
  .ask fun s =>
    if s.boot.run.isSome then (Act.when thermal (setR (dk .THERM_STATUS_HOT_ABORT) 1)).seq k
    else Act.all [setB (dk .THERM_STATUS_HOT_ABORT) thermal,
      if s.jobStarted then late.seq abortStarted
      else if s.jobState = jsAborting then late
      else abortIdle.seq (.ask fun t => if t.swapping then late else k)]

/-- ABORT: the reply is sent when the abort is complete. During a bring-up it changes nothing (R475). -/
def actAbort (m : LiftMsg) : Act :=
  request m (.abort m) (some 0) fun r => .ask fun s =>
    abortNow (s.jobState == jsAborting && s.on (dk .THERM_STATUS_HOT_ABORT) && s.boot.run.isNone)
      (modJob (fun j => { j with abortReqs := j.abortReqs ++ [r] })) (reply r stOk)

/-- The abort-done event. -/
def abortDone (mask micros : Nat) : Act := raiseEvent 0x0013 0xFF (bytesLE 2 mask ++ bytesLE 4 micros)

/-- The device aborts itself (R563): ABORT_DONE follows in every case. Where the abort is complete at once, its time is a free
value (log 5). -/
def selfAbort (thermal : Bool) : Act :=
  .ask fun s => abortNow thermal (Act.when (!(s.jobStarted || s.jobState == jsAborting)) (modJob (fun j => { j with doneDue := true })))
    (withFree fun f => abortDone 0 (f % 2 ^ 32))

/-- The last lane swap that an abort waited for is over: who waits is answered, and the event raised (R265). -/
def abortSettled : Act :=
  .ask fun s => Act.when (!s.swapping && !s.jobStarted && s.jobState != jsAborting) (Act.all [
    modJob (fun j => { j with abortReqs := [], doneDue := false }),
    Act.each s.job.abortReqs (fun r => reply r stOk (s.rd (dk .JOB_STATE_ABORT_PILES))),
    Act.when s.job.doneDue (withFree fun f => abortDone 0 (f % 2 ^ 32))])

/-- What a reset of a pile's control cores, tiles and buffer clears (R232, R469). -/
def resetInner (p : Nat) : Act := Act.all [Act.each (List.range 9) (clearTile p), clearBuf p, dropWork p]

/-- Frames that waited for an endpoint of the pile are discarded, each with a DEST_RESET reply (R232). -/
def bounceFrames (p : Nat) : Act :=
  .ask fun s => (modSw p (fun w => { w with toWake := [] })).seq
    (Act.each (s.pile p).sw.toWake (fun f => routeFrame p 0 (replyFrame s.deviceNo p f 1) 2))

/-- A pile reset is under way, its event is raised (R233), and the record of the first discard after it is armed (R241). -/
def beginReset (p source : Nat) : Act := Act.all [
  modPile p (fun x => { x with resetSrc := source }), setR (pk .SW_DR_LOG_VALID p) 0, bounceFrames p, raiseEvent 0x0007 p [source]]

/-- ABORT_WATCHDOG: piles whose run core has not reported idle are reset (R469). -/
def actAbortWatchdog (stuck : BitVec 16) : Act :=
  .ask fun s => Act.when (s.jobState == jsAborting && stuck != 0) (Act.all [
    setR (dk .JOB_STATE_WATCHDOG) 1, setR (dk .JOB_STATE_ABORT_PILES) (s.rd (dk .JOB_STATE_ABORT_PILES) ||| stuck.toNat),
    Act.each (allPiles.filter (fun p => stuck.getLsbD p)) (fun p => (resetInner p).seq (beginReset p 2))])

def execAbortWatchdog (stuck : BitVec 16) (s : State) : Host.Outcome State Fault Refusal := (actAbortWatchdog stuck).answer s

/-- ABORT_COMPLETE: every pile is idle. -/
def actAbortComplete (micros : Nat) : Act :=
  .ask fun s =>
    let mask := s.rd (dk .JOB_STATE_ABORT_PILES)
    Act.when (s.jobState == jsAborting) (Act.all [
      Act.each allPiles (fun p => Act.when ((s.pile p).resetSrc == 2) (modPile p (fun x => { x with resetSrc := 0 }))),
      setR (dk .JOB_STATE_STATE) jsStopped,
      modJob (fun j => { j with abortReqs := [] }),
      Act.each s.job.abortReqs (fun r => reply r stOk mask),
      abortDone mask micros])

/-! ## PILE_RESET (R232-R234, R463) -/

/-- Registers of CPn.MEM and its groomer: settings, logs, the armed injection, and what counts since the reset (R376-R379, R382-R385). -/
def memFlds : List Nat := ([.MEM_READS, .MEM_CE_LINES, .MEM_CE_BYTES, .MEM_UE, .MEM_UE_TOTAL, .MEM_POISON_READ, .MEM_UNWRITTEN_READ,
  .MEM_POISON_WRITE, .MEM_BUCKET_OVF, .MEM_ROW_MOVES, .GROOM_CE, .GROOM_UE, .GROOM_STATUS_PASSES, .GROOM_STATUS_BEHIND,
  .GROOM_STATUS_NEXT_LINE, .MEM_BUCKET, .MEM_BUCKET_CTL_LEAK_S, .MEM_BUCKET_CTL_DEPTH, .GROOM_CTL_ENABLE, .GROOM_CTL_TARGETED,
  .GROOM_CTL_PERIOD_MIN, .MEM_CE_LOG_VALID, .MEM_CE_LOG_GROOMED, .MEM_CE_LOG_RECUR, .MEM_CE_LOG_BYTES, .MEM_CE_LOG_TSV, .MEM_CE_LOG_LINE,
  .MEM_UE_LOG_STEP, .MEM_UE_LOG_VALID, .MEM_UE_LOG_GROOMER, .MEM_UE_LOG_QUEUED, .MEM_UE_LOG_LINE, .MEM_INJECT_ARMED, .MEM_INJECT_COUNT,
  .MEM_INJECT_FIRST, .MEM_INJECT_XOR, .MEM_INJECT_LINE] : List Fld).map (fun f => f.ctorIdx)

/-- What a reset of CPn.MEM clears beside (R232; log 61): the lines that wait for the groomer, the moves that are queued, and its registers.
The lines of DRAM and the rows that spares replace stay. -/
def resetMem (p : Nat) : Act := Act.all [
  modMem p (fun m => { m with grooms := [], ueGrooms := [], moves := [], ceOrder := [], ceHold := 0 }),
  emit (.clearRegs (fun c => codePile c == p && memFlds.contains (codeFld c)))]

/-- PILE_RESET: the switch and its ports go on, DRAM and the pile's registers keep what they hold; a fill in that pile is cut
off. -/
def actPileReset (m : LiftMsg) (p : Nat) : Act :=
  request m (.pileReset m p) (some 8) fun r => .ask fun s =>
    if s.jobState = jsAborting then reply r stWrongState s.jobState
    else if 16 ≤ p then reply r stNoObject
    else if s.boot.run.isSome then reply r stBusy p
    else Act.all [
      (match (s.pile p).mem.fill with
       | some f => cutFill f.req [(p, f)] ((f.piles - (s.fillsOf f.req).length) * f.lines)
       | none => .done),
      modPile p (fun x => { x with resetReqs := x.resetReqs ++ [r] }),
      setR (pk .SW_STATUS_STAND_IN p) 1, setR (pk .SW_STATUS_GATE_HELD p) 1,
      resetInner p, resetMem p, beginReset p 1]

/-- PILE_RESET_END: the control cores report ready. -/
def actPileResetEnd (p : Nat) : Act :=
  .ask fun s => Act.when ((s.pile p).resetSrc != 0) (Act.all [
    modPile p (fun x => { x with resetSrc := 0, resetReqs := [] }),
    Act.when (!s.jobLoaded) (endStandIn p),
    Act.each (s.pile p).resetReqs (fun r => reply r stOk)])

def execPileResetEnd (pile : PileId) (s : State) : Host.Outcome State Fault Refusal := (actPileResetEnd pile.val).answer s

end Sys2Proof.Machine
end

