-- ==== Sys2Proof/Machine/BulkData.lean ====
section
/-! DEFINITION. Bulk transfers (R434-R438, R446): what a BULK_DATA message brings, and the messages that the device sends. -/

namespace Sys2Proof.Machine

/-! ## From the host -/

/-- The subheader of a BULK_DATA payload (R435), and the data. -/
structure BulkMsg where
  xfer   : Nat
  last   : Bool
  lines  : Bool
  units  : Nat
  offset : Nat
  poison : Nat
  data   : List Nat
  deriving DecidableEq, Repr

def bulkOf (m : LiftMsg) : BulkMsg :=
  let bs := m.payload
  let f := natBE (bytesAt bs 4 2)
  ⟨natBE (bytesAt bs 0 4), f.testBit 0, f.testBit 2, natBE (bytesAt bs 6 2), natBE (bytesAt bs 8 8), natBE (bytesAt bs 16 8),
   ofBytes (bs.drop 24)⟩

/-- Bytes of a line in a form. -/
def formBytes (lines : Bool) : Nat := if lines then 144 else 128

/-- A message is well formed: 1 to 64 lines, as many bytes as they take. -/
def BulkMsg.sound (b : BulkMsg) : Bool :=
  decide (1 ≤ b.units ∧ b.units ≤ 64) && b.data.length == b.units * formBytes b.lines

/-- Line k of a message, before its check; in body form the device gives it the raw tag (R436). -/
def BulkMsg.line (b : BulkMsg) (k : Nat) : Line :=
  let bs := b.data.drop (k * formBytes b.lines)
  let body := BitVec.ofNat 1024 (ofLE (bs.take 128))
  ⟨body, if b.lines then BitVec.ofNat 128 (ofLE ((bs.drop 128).take 16)) else rawTag body, b.poison.testBit k⟩

/-- The form of a transfer's data from the host. -/
def lineFormOf : XKind → Bool
  | .memWrite p => p.lineForm
  | .memRead p => p.lineForm
  | _ => false

/-- The host sends this kind of transfer. -/
def fromHost : XKind → Bool
  | .memWrite _ => true
  | .bundle _ => true
  | .wax _ => true
  | .image _ _ _ => true
  | _ => false

/-- One line of a MEM_WRITE lands, poisoned and counted where its BLOCK_CHECK fails; a line that may no longer land ends the
command (R197, R437). Memory that has gone to RET since the command was taken up is woken (R502). -/
def landLine (id : Nat) (t : Xfer) (w : MemWriteP) (l : Line) : Act :=
  .ask fun s => match (s.session? id).bind (fun x => xferOf x t.id) with
    | none => .done
    | some y =>
      if y.drop then .done
      else match s.landing w.pile (w.first + y.next) with
        | some e => (modXfer id t.id (fun z => { z with drop := true })).seq (reply t.req e.1 e.2)
        | none =>
          let bad := w.lineForm && !lineCheckOk l
          Act.all [
            Act.when bad (bump (dk .BULK_CHECK_FAIL)),
            Act.when (s.power (domMem w.pile) == 1) (demandWake (domMem w.pile)),
            putLine w.pile .dram 0 (w.first + y.next) { l with poison := l.poison || bad },
            modXfer id t.id (fun z => { z with next := z.next + 1, counted := z.counted + oneIf bad })]

/-- A transfer is complete: what it brought is taken. -/
def xferDone (id : Nat) (t : Xfer) : Act :=
  (closeXfer id t.id).seq (if t.drop then .done else match t.kind with
    | .memWrite _ => reply t.req stOk t.counted
    | .bundle n => bundleArrived t.req n t.lines
    | .wax f => waxArrived t.req f t.lines
    | .image n i tm => imageArrived t.req n i tm t.lines
    | _ => .done)

/-- The lines of a message enter their transfer. -/
def takeLines (id : Nat) (t : Xfer) (b : BulkMsg) : Act :=
  let n := if t.total = 0 then b.units else min b.units (t.total - t.next)
  let ls := (List.range n).map b.line
  if t.drop then modXfer id t.id (fun y => { y with next := y.next + n })
  else match t.kind with
    | .memWrite w => Act.each ls (landLine id t w)
    | _ => modXfer id t.id (fun y => { y with next := y.next + n, lines := y.lines ++ ls })

/-- A BULK_DATA message in its turn: data of no transfer, or out of place in its own, is discarded (log 76). -/
def bulkArrived (id : Nat) (b : BulkMsg) : Act :=
  .ask fun s => match (s.session? id).bind (fun x => xferOf x b.xfer) with
    | none => .done
    | some t =>
      if !fromHost t.kind || !b.sound || b.lines != lineFormOf t.kind || b.offset != t.next then .done
      else (takeLines id t b).seq (.ask fun u => match (u.session? id).bind (fun x => xferOf x b.xfer) with
        | some y => Act.when (b.last || (y.total != 0 && decide (y.total ≤ t.next + b.units))) (xferDone id y)
        | none => .done)

/-- BULK_DATA: its bytes count as disposed of once written or discarded, and the limit that rises is sent (R434). -/
def actBulkData (m : LiftMsg) : Act :=
  (if m.type ≠ tyBulk then .done else sequenced m (.bulkData m) m.payload.length fun id => Act.all [
    bulkArrived id (bulkOf m),
    modSession id (fun x => { x with disposed := x.disposed + m.payload.length }),
    sendPlain id tyAckOnly]).seq pfcCheck

/-! ## To the host -/

/-- Lines in a message of a session (R436). -/
def unitsOfMsg (x : Session) (lines : Bool) : Nat :=
  min 64 (min (8192 / formBytes lines) ((x.mtu - (if x.v6 then 40 else 20) - 112) / formBytes lines))

/-- The 16 bytes of a line in the tag view, which a read decodes, with its poison. -/
def tagBytes (p line : Nat) (k : List (Nat × Bool) → Act) : Act :=
  getLine p .dram 0 line (fun l => k ((bytesLE 16 l.tag.toNat).map (fun b => (b, l.poison))))

/-- The 16 bytes of a line in the check view: the check field as it stands, of a codeword that is read and not decoded (R355, R385). -/
def checkBytes (p line : Nat) (k : List (Nat × Bool) → Act) : Act :=
  .ask fun s =>
    let bs (n : Nat) : List (Nat × Bool) := (bytesLE 16 n).map (fun b => (b, false))
    if s.power (domMem p) = 2 then k (bs 0) else (bump (pk .MEM_READS p)).seq (k (bs (s.dramWord (dramAddr p line)).check.toNat))

/-- The bytes of n lines in a view, from one on (R355). -/
def viewBytes (view p line : Nat) : Nat → (List (Nat × Bool) → Act) → Act
  | 0, k => k []
  | n + 1, k => (if view = 1 then tagBytes p line else checkBytes p line) (fun a => viewBytes view p (line + 1) n (fun r => k (a ++ r)))

/-- A line of 128 bytes from bytes with poison marks. -/
def viewLine (bs : List (Nat × Bool)) : Line :=
  let b := BitVec.ofNat 1024 (ofLE (bs.map Prod.fst))
  ⟨b, rawTag b, bs.any Prod.snd⟩

/-- Lines of a MEM_READ. -/
def readView (q : MemReadP) (line : Nat) : Nat → (List Line → Act) → Act
  | 0, k => k []
  | n + 1, k =>
    if q.view = 0 then getLine q.pile .dram 0 line (fun l => readView q (line + 1) n (fun r => k (l :: r)))
    else viewBytes q.view q.pile (8 * line) 8 (fun bs => readView q (line + 1) n (fun r => k (viewLine bs :: r)))

/-- The next lines of a transfer to the host: read now from memory, or gathered when it opened. -/
def nextLines (t : Xfer) (n : Nat) (k : List Line → Act) : Act := match t.kind with
  | .memRead q => readView q (q.first + t.next) n k
  | _ => k ((t.lines.drop t.next).take n)

/-- A BULK_DATA payload of lines. -/
def bulkPayload (t : Xfer) (lines last : Bool) (unsync : Bool) (ls : List Line) : Bytes :=
  let marks := (ls.mapIdx (fun k l => if l.poison then 2 ^ k else 0)).sum
  toBytes (bytesBE 4 t.id ++ bytesBE 2 (oneIf last + 2 * oneIf unsync + 4 * oneIf lines) ++ bytesBE 2 ls.length ++
    bytesBE 8 t.next ++ bytesBE 8 marks ++
    ls.flatMap (fun l => bytesLE 128 l.body.toNat ++ (if lines then bytesLE 16 l.tag.toNat else [])))

/-- The reply after a transfer's last line (R438, R446). -/
def sentReply (t : Xfer) (poisoned : Nat) : Act := match t.kind with
  | .memRead _ => reply t.req stUnsync poisoned
  | .fetch _ g n => reply t.req stOk 0 (bytesLE 8 g ++ bytesLE 8 n)
  | _ => reply t.req stOk

def isMemRead : XKind → Bool
  | .memRead _ => true
  | _ => false

/-- A fetch whose object has a newer generation (R446). -/
def State.staleGen (s : State) : XKind → Option Nat
  | .fetch name g _ => if s.gen name = g then none else some (s.gen name)
  | _ => none

/-- The next message of a transfer, within the host's limit (R433, R434). -/
def sendBulk (x : Session) (t : Xfer) : Act :=
  let lines := lineFormOf t.kind
  let n := min (unitsOfMsg x lines) (t.total - t.next)
  let last := decide (t.total ≤ t.next + n)
  if x.hostLim < x.bulkSent + 24 + n * formBytes lines || n = 0 then .done
  else nextLines t n (fun ls =>
    let bad := (ls.filter Line.poison).length
    Act.all [
      modSession x.id (fun y => { y with bulkSent := y.bulkSent + 24 + n * formBytes lines }),
      modXfer x.id t.id (fun y => { y with next := y.next + n, counted := y.counted + bad }),
      transmit x.id tyBulk 0xFF (bulkPayload t lines last (isMemRead t.kind) ls),
      Act.when last ((closeXfer x.id t.id).seq (sentReply t (t.counted + bad)))])

/-- A MEM_READ whose memory sleeps waits for it (R502); one whose memory is OFF reads poisoned (R503). -/
def State.sleeping (s : State) : XKind → Option Nat
  | .memRead q => if s.ready (domMem q.pile) || s.power (domMem q.pile) == 2 then none else some (domMem q.pile)
  | _ => none

def actBulkDataSend (ses xfer : Nat) : Act :=
  .ask fun s =>
    if !s.hostUp || s.lift.xoffGot then .done
    else match s.session? ses with
      | none => .done
      | some x => match xferOf x xfer with
        | none => .done
        | some t =>
          if fromHost t.kind || t.drop then .done
          else match s.staleGen t.kind with
            | some g => (closeXfer ses xfer).seq (reply t.req stStale (g % 2 ^ 32))
            | none => if t.total = 0 then (closeXfer ses xfer).seq (sentReply t 0)
                else match s.sleeping t.kind with
                  | some d => demandWake d
                  | none => sendBulk x t

end Sys2Proof.Machine
end

