-- ==== Sys2Proof/Machine/Thermal.lean ====
section
/-! DEFINITION. Temperatures and rails (R375, R517-R519): alerts, thermal aborts and the trip, and the PMBus. -/

namespace Sys2Proof.Machine

/-! ## Temperatures: sensors read in 1/16 °C -/

/-- ALERT in 1/16 °C. -/
def State.alertLevel (s : State) : Int := (s.rd (dk .THERM_CTL) : Int) * 16

/-- The highest base-die sensor: TEMP shows it, and at ALERT or above the pin is asserted, with one event for each crossing. -/
def dieTemp (t : Int) : Act :=
  .ask fun s => Act.all [
    setR (dk .THERM_STATUS_TEMP) (signed16 t),
    Act.when (decide (s.alertLevel ≤ t)) ((setR (dk .THERM_STATUS_ALERT_ON) 1).seq
      (Act.when (!s.pwr.above) (raiseEvent 0x0014 0xFF (bytesLE 2 (signed16 t))))),
    modPwr (fun x => { x with above := decide (s.alertLevel ≤ t) })]

/-- The highest base-die sensor is one of a pile's (R466). -/
def dieTempAt (p : Nat) (t : Int) : Act := (modPile p (fun x => { x with dieTemp := some (signed16 t) })).seq (dieTemp t)

/-- THERM_ALERT: the highest base-die sensor, in a pile, reaches ALERT. -/
def execThermAlert (p : PileId) (temp : Int) (s : State) : Host.Outcome State Fault Refusal := (dieTempAt p.val temp).answer s

/-- THERM_ALERT_RELEASE: the highest base-die and the highest DRAM sensor have cooled, and what was reported of a pile's holds no longer. -/
def actThermRelease (die dram : Int) : Act :=
  .ask fun s => ((Act.each allPiles (fun p => modPile p (fun x => { x with dieTemp := none }))).seq (dieTemp die)).seq
    (Act.when (decide (die ≤ s.alertLevel - 32 ∧ dram ≤ 95 * 16)) (setR (dk .THERM_STATUS_ALERT_ON) 0))

def execThermAlertRelease (die dram : Int) (s : State) : Host.Outcome State Fault Refusal := (actThermRelease die dram).answer s

/-- HOT_ABORT at 105 °C: the device aborts itself, and every tile and BUF domain goes OFF. -/
def actHotAbort (p : Nat) (t : Int) : Act :=
  (dieTempAt p t).seq (Act.when (decide (105 * 16 ≤ t)) ((selfAbort true).seq
    (Act.each allPiles (fun p => (Act.each (List.range 9) (fun i => toState (domTile p i) 2 true)).seq (toState (domBuf p) 2 true)))))

/-- TRIPPED at 110 °C: the AON island takes every domain but AON OFF. -/
def actTripped (t : Int) : Act :=
  Act.when (decide (110 * 16 ≤ t)) (Act.all [cutBurn, powerDown, setR (dk .THERM_STATUS_TRIPPED) 1])

def execTripped (temp : Int) (s : State) : Host.Outcome State Fault Refusal := (actTripped temp).answer s

/-- DRAM_HOT_ABORT at 100 °C: the device aborts itself, and every MEM domain enters self-refresh; one that is OFF stays OFF. -/
def actDramHotAbort (p : Nat) (t0 t1 : Int) : Act := Act.all [
  dramTemp p t0 t1, hotCheck p t0 t1, overCheck p t0 t1,
  Act.when (decide (100 * 16 ≤ max t0 t1)) ((selfAbort true).seq
    (.ask fun s => Act.each (allPiles.filter (fun q => s.power (domMem q) != 2)) (fun q => toState (domMem q) 1 true)))]

/-! ## The PMBus -/

/-- A signed number in the n low bits of a word, from bit lo on. -/
def signedBits (w lo n : Nat) : Int := signedOf n (w / 2 ^ lo)

/-- m * 2^e * k as a whole number; where it is none, a free bit chooses one of the two nearest (log 74). -/
def scaleTo (m e : Int) (k f : Nat) : Int :=
  if 0 ≤ e then m * k * 2 ^ e.toNat
  else
    let d : Int := 2 ^ (-e).toNat
    m * k / d + (if m * k % d = 0 then 0 else ((f % 2 : Nat) : Int))

/-- A LINEAR11 word in 1/16 of its unit. -/
def linear11 (w : BitVec 16) (f : Nat) : Int := scaleTo (signedBits w.toNat 0 11) (signedBits w.toNat 11 5) 16 f

/-- One rail's readings: PMB_RAIL in mV, 1/16 A and 1/16 °C, and the charge of the core rails (R405). -/
def pollRail (x : RailReading) : Act :=
  withFree fun f => .ask fun s =>
    let r := x.rail.val
    let i := linear11 x.iout (f / 2)
    Act.when (s.on (dk .PMB_MAP_VALID r)) (Act.all [
      setR (dk .PMB_RAIL_VOUT r) (scaleTo (x.vout.toNat : Int) (signedBits x.voutMode.toNat 0 5) 1000 f).toNat,
      setR (dk .PMB_RAIL_IOUT r) (i % 65536).toNat, setR (dk .PMB_RAIL_TEMP r) (signed16 (linear11 x.temp (f / 4))),
      Act.when (s.rd (dk .PMB_MAP_RAIL r) == 0) (modPwr (fun y => { y with charge := y.charge + i.toNat * s.rd (dk .PMB_CTL_PERIOD_MS) }))])

def actPmbusPoll (rs : List RailReading) : Act :=
  .ask fun s => Act.when (s.on (dk .PMB_CTL_ENABLE) && s.ready 1) (Act.each rs pollRail)

def execPmbusPoll (rs : List RailReading) (s : State) : Host.Outcome State Fault Refusal := (actPmbusPoll rs).answer s

/-- One rail's STATUS_WORD is read and latched, and its faults are cleared. -/
def latchStatus (x : Nat × BitVec 16) : Act :=
  .ask fun s => Act.all [
    setR (dk .PMB_RAIL_STATUS x.1) x.2.toNat,
    Act.when (x.2 != 0) ((setR (dk .PMB_FAULT_RAILS) (s.rd (dk .PMB_FAULT_RAILS) ||| 2 ^ x.1)).seq
      (setR (dk .PMB_FAULT_BITS) (s.rd (dk .PMB_FAULT_BITS) ||| x.2.toNat))),
    send (.clearFaults x.1)]

/-- OFF, or a fault of VOUT or IOUT: bits 6, 5 and 4 of STATUS_WORD (PRESUMED: PMBus; log 75). -/
def railFault (w : BitVec 16) : Bool := w.getLsbD 6 || w.getLsbD 5 || w.getLsbD 4

def actPmbAlert (status : List (Nat × BitVec 16)) : Act :=
  .ask fun s =>
    let xs := status.filter (fun x => decide (x.1 < 16) && s.on (dk .PMB_MAP_VALID x.1))
    Act.when (s.ready 1) ((Act.each xs latchStatus).seq (Act.when (xs.any (fun x => railFault x.2)) (selfAbort false)))

end Sys2Proof.Machine
end

