-- ==== Sys2Proof/Machine/Order.lean ====
section
/-! DEFINITION. The order of messages and of requests: messages held early are delivered in their turn (R431), and requests that
waited, for earlier ones on the same lines or for a domain, go on (R442, R502). Here stand the meanings of the rows that carry a
session's messages, and of those after which something that waited may go on. -/

namespace Sys2Proof.Machine

/-! ## What waits -/

/-- What a row that carries a sequenced message does in its turn; other rows carry none. -/
def rowAct : Instr → Act
  | .close fromDevice m => actClose fromDevice m
  | .bulkData m => actBulkData m
  | .hpCtl m r => regWrite m (.hpCtl m r) r
  | .eventAck m => actEventAck m
  | .deviceInfo m => actDeviceInfo m
  | .identity m => actIdentity m
  | .attest m nonce => actAttest m nonce
  | .bundleLoad m xfer size => actBundleLoad m xfer size
  | .debugChallenge m scope => actDebugChallenge m scope
  | .debugUnlock m response => actDebugUnlock m response
  | .deviceReset m => actDeviceReset m
  | .netConfig m cfg => actNetConfig m cfg
  | .regRead m r => actRegRead m r
  | .regWrite m r => regWrite m (.regWrite m r) r
  | .memWrite m p => actMemWrite m p
  | .memRead m p => actMemRead m p
  | .memFill m p => actMemFill m p
  | .tagWrite m pile line tag => actTagWrite m pile line tag
  | .domainSet m device size root => actDomainSet m device size root
  | .bringup m xfer flags => actBringup m xfer flags
  | .waxRead m xfer => actWaxRead m xfer
  | .spareList m => actSpareList m
  | .spareCommit m indices => actSpareCommit m indices
  | .pileReset m pile => actPileReset m pile
  | .powerSet m domain state => actPowerSet m domain state
  | .jobLoad m xfer size parts timing => actJobLoad m xfer size parts timing
  | .jobStart m step seed => actJobStart m step seed
  | .inputReady m step => actInputReady m step
  | .resume m => actResume m
  | .abort m => actAbort m
  | .jobUnload m => actJobUnload m
  | .jobStatus m => actJobStatus m
  | .fetch m name gmin xfer => actFetch m name gmin xfer
  | .listObjects m first => actListObjects m first
  | .records m p => actRecords m p
  | .pileHealth m pile => actPileHealth m pile
  | .tbCtlEnable m r => regWrite m (.tbCtlEnable m r) r
  | .lnkCtlEnable m r => regWrite m (.lnkCtlEnable m r) r
  | .memInject m r => regWrite m (.memInject m r) r
  | .memBucketCtl m r => regWrite m (.memBucketCtl m r) r
  | .padRelease m r => regWrite m (.padRelease m r) r
  | .unknownCommand m => actUnknownCommand m
  | _ => .done

/-- The row of a message that is held and whose turn has come, if there is one (R431). -/
def State.nextDue (s : State) : Option Instr :=
  s.sessions.findSome? (fun x => (x.held.find? (fun h => h.seq == x.dlv)).map Early.row)

/-- Held messages whose turn has come are delivered, at most n of them. -/
def deliverDue : Nat → Act
  | 0 => .done
  | n + 1 => .ask fun s => match s.nextDue with
    | none => .done
    | some c => Act.all [modLift (fun l => { l with due := true }), rowAct c, modLift (fun l => { l with due := false }), deliverDue n]

/-- A request that waited goes on. -/
def goOn (x : Req × Instr) : Act := Act.all [
  modLift (fun l => { l with again := some x.1 }), rowAct x.2, modLift (fun l => { l with again := none })]

/-- Requests that waited are taken up again in their order; one that must wait still does (R442, R502). -/
def retryParked : Act :=
  .ask fun s => Act.when (!s.lift.parked.isEmpty) ((modLift (fun l => { l with parked := [] })).seq (Act.each s.lift.parked goOn))

/-- An action, and what it lets go on. -/
def settled (a : Act) : Act :=
  a.seq ((Act.ask fun s => deliverDue ((s.sessions.map (fun x => x.held.length)).sum)).seq retryParked)

/-! ## Meanings -/

/-- ACK_ONLY: acknowledgements are taken (R432). -/
def execAckOnly (m : LiftMsg) (s : State) : Host.Outcome State Fault Refusal :=
  (settled (authed m (fun _ => .done))).answer s

/-- A message unacknowledged for 2 s ends its session (R432). -/
def execSessionFail (session seq : Nat) (s : State) : Host.Outcome State Fault Refusal :=
  (settled (Act.ask fun s => match s.session? session with
    | some x => if x.unacked.any (fun u => u.seq == seq) then (bump (dk .LIFT_SESSION_FAIL)).seq (endSession session) else .done
    | none => .done)).answer s

/-- KEEPALIVE: an authenticated message and nothing more (R430). -/
def execKeepalive (m : LiftMsg) (s : State) : Host.Outcome State Fault Refusal :=
  (settled (authed m (fun _ => .done))).answer s

/-- IDLE_S seconds without an authenticated message (R430). -/
def execIdleTimeout (session : Nat) (s : State) : Host.Outcome State Fault Refusal :=
  (settled (endSession session)).answer s

def execClose (fromDevice : Bool) (m : LiftMsg) (s : State) : Host.Outcome State Fault Refusal :=
  (settled (actClose fromDevice m)).answer s

def execBulkData (m : LiftMsg) (s : State) : Host.Outcome State Fault Refusal :=
  (settled (actBulkData m)).answer s

/-- BULK_DATA_SEND: the next message of a bulk read. -/
def execBulkDataSend (session xfer : Nat) (s : State) : Host.Outcome State Fault Refusal :=
  (settled (actBulkDataSend session xfer)).answer s

/-- A write of HP_CTL (R449). -/
def execHpCtl (m : LiftMsg) (r : RegReq) (s : State) : Host.Outcome State Fault Refusal :=
  (settled (regWrite m (.hpCtl m r) r)).answer s

def execEventAck (m : LiftMsg) (s : State) : Host.Outcome State Fault Refusal :=
  (settled (actEventAck m)).answer s

def execDeviceInfo (m : LiftMsg) (s : State) : Host.Outcome State Fault Refusal :=
  (settled (actDeviceInfo m)).answer s

def execIdentity (m : LiftMsg) (s : State) : Host.Outcome State Fault Refusal :=
  (settled (actIdentity m)).answer s

def execAttest (m : LiftMsg) (nonce : BitVec 256) (s : State) : Host.Outcome State Fault Refusal :=
  (settled (actAttest m nonce)).answer s

def execBundleLoad (m : LiftMsg) (xfer size : Nat) (s : State) : Host.Outcome State Fault Refusal :=
  (settled (actBundleLoad m xfer size)).answer s

def execDebugChallenge (m : LiftMsg) (scope : BitVec 32) (s : State) : Host.Outcome State Fault Refusal :=
  (settled (actDebugChallenge m scope)).answer s

def execDebugUnlock (m : LiftMsg) (response : Bytes) (s : State) : Host.Outcome State Fault Refusal :=
  (settled (actDebugUnlock m response)).answer s

def execDeviceReset (m : LiftMsg) (s : State) : Host.Outcome State Fault Refusal :=
  (settled (actDeviceReset m)).answer s

def execNetConfig (m : LiftMsg) (cfg : NetCfg) (s : State) : Host.Outcome State Fault Refusal :=
  (settled (actNetConfig m cfg)).answer s

def execRegRead (m : LiftMsg) (r : RegReq) (s : State) : Host.Outcome State Fault Refusal :=
  (settled (actRegRead m r)).answer s

/-- REG_WRITE of a register without a row of its own. -/
def execRegWrite (m : LiftMsg) (r : RegReq) (s : State) : Host.Outcome State Fault Refusal :=
  (settled (regWrite m (.regWrite m r) r)).answer s

def execMemWrite (m : LiftMsg) (p : MemWriteP) (s : State) : Host.Outcome State Fault Refusal :=
  (settled (actMemWrite m p)).answer s

def execMemRead (m : LiftMsg) (p : MemReadP) (s : State) : Host.Outcome State Fault Refusal :=
  (settled (actMemRead m p)).answer s

def execMemFill (m : LiftMsg) (p : MemFillP) (s : State) : Host.Outcome State Fault Refusal :=
  (settled (actMemFill m p)).answer s

def execTagWrite (m : LiftMsg) (pile line : Nat) (tag : BitVec 128) (s : State) : Host.Outcome State Fault Refusal :=
  (settled (actTagWrite m pile line tag)).answer s

def execDomainSet (m : LiftMsg) (device size root : Nat) (s : State) : Host.Outcome State Fault Refusal :=
  (settled (actDomainSet m device size root)).answer s

def execBringup (m : LiftMsg) (xfer : Nat) (flags : BitVec 32) (s : State) : Host.Outcome State Fault Refusal :=
  (settled (actBringup m xfer flags)).answer s

def execWaxRead (m : LiftMsg) (xfer : Nat) (s : State) : Host.Outcome State Fault Refusal :=
  (settled (actWaxRead m xfer)).answer s

def execSpareList (m : LiftMsg) (s : State) : Host.Outcome State Fault Refusal :=
  (settled (actSpareList m)).answer s

def execSpareCommit (m : LiftMsg) (indices : List Nat) (s : State) : Host.Outcome State Fault Refusal :=
  (settled (actSpareCommit m indices)).answer s

def execPileReset (m : LiftMsg) (pile : Nat) (s : State) : Host.Outcome State Fault Refusal :=
  (settled (actPileReset m pile)).answer s

def execPowerSet (m : LiftMsg) (domain state : Nat) (s : State) : Host.Outcome State Fault Refusal :=
  (settled (actPowerSet m domain state)).answer s

/-- JOB_LOAD opens the transfer that brings the image; `parts` is what sections of it hold whose framing is not stated (log 16). -/
def execJobLoad (m : LiftMsg) (xfer size : Nat) (parts : ImageParts) (timing : LoadTiming) (s : State) : Host.Outcome State Fault Refusal :=
  (settled (actJobLoad m xfer size parts timing)).answer s

def execJobStart (m : LiftMsg) (step seed : BitVec 64) (s : State) : Host.Outcome State Fault Refusal :=
  (settled (actJobStart m step seed)).answer s

def execInputReady (m : LiftMsg) (step : Nat) (s : State) : Host.Outcome State Fault Refusal :=
  (settled (actInputReady m step)).answer s

def execResume (m : LiftMsg) (s : State) : Host.Outcome State Fault Refusal :=
  (settled (actResume m)).answer s

def execAbort (m : LiftMsg) (s : State) : Host.Outcome State Fault Refusal :=
  (settled (actAbort m)).answer s

def execAbortComplete (micros : Nat) (s : State) : Host.Outcome State Fault Refusal :=
  (settled (actAbortComplete micros)).answer s

def execJobUnload (m : LiftMsg) (s : State) : Host.Outcome State Fault Refusal :=
  (settled (actJobUnload m)).answer s

def execJobStatus (m : LiftMsg) (s : State) : Host.Outcome State Fault Refusal :=
  (settled (actJobStatus m)).answer s

def execFetch (m : LiftMsg) (name : BitVec 128) (gmin xfer : Nat) (s : State) : Host.Outcome State Fault Refusal :=
  (settled (actFetch m name gmin xfer)).answer s

def execListObjects (m : LiftMsg) (first : Nat) (s : State) : Host.Outcome State Fault Refusal :=
  (settled (actListObjects m first)).answer s

def execRecords (m : LiftMsg) (p : RecordsP) (s : State) : Host.Outcome State Fault Refusal :=
  (settled (actRecords m p)).answer s

def execPileHealth (m : LiftMsg) (pile : Nat) (s : State) : Host.Outcome State Fault Refusal :=
  (settled (actPileHealth m pile)).answer s

/-- A write of TB_CTL (R185, R205). -/
def execTbCtlEnable (m : LiftMsg) (r : RegReq) (s : State) : Host.Outcome State Fault Refusal :=
  (settled (regWrite m (.tbCtlEnable m r) r)).answer s

/-- A write of LNK_CTL (R266). -/
def execLnkCtlEnable (m : LiftMsg) (r : RegReq) (s : State) : Host.Outcome State Fault Refusal :=
  (settled (regWrite m (.lnkCtlEnable m r) r)).answer s

/-- A write of MEM_INJECT (R376, R384). -/
def execMemInject (m : LiftMsg) (r : RegReq) (s : State) : Host.Outcome State Fault Refusal :=
  (settled (regWrite m (.memInject m r) r)).answer s

/-- A write of MEM_BUCKET_CTL (R367, R379). -/
def execMemBucketCtl (m : LiftMsg) (r : RegReq) (s : State) : Host.Outcome State Fault Refusal :=
  (settled (regWrite m (.memBucketCtl m r) r)).answer s

/-- A write of PAD_RELEASE (R505, R521). -/
def execPadRelease (m : LiftMsg) (r : RegReq) (s : State) : Host.Outcome State Fault Refusal :=
  (settled (regWrite m (.padRelease m r) r)).answer s

def execWakeComplete (domain : Nat) (s : State) : Host.Outcome State Fault Refusal :=
  (settled (actWakeComplete domain)).answer s

def execDramHotAbort (p : PileId) (temp0 temp1 : Int) (s : State) : Host.Outcome State Fault Refusal :=
  (settled (actDramHotAbort p.val temp0 temp1)).answer s

/-- LANE_RETRAIN: the swap of a port in that state ends (R261). -/
def execLaneRetrain (p : PileId) (k : XPort) (ok : Bool) (s : State) : Host.Outcome State Fault Refusal :=
  (settled ((actLaneRetrain p.val k.val ok).seq abortSettled)).answer s

def execHotAbort (p : PileId) (temp : Int) (s : State) : Host.Outcome State Fault Refusal :=
  (settled (actHotAbort p.val temp)).answer s

def execUnknownCommand (m : LiftMsg) (s : State) : Host.Outcome State Fault Refusal :=
  (settled (actUnknownCommand m)).answer s

def execMemFillDone (p : PileId) (s : State) : Host.Outcome State Fault Refusal :=
  (settled (actMemFillDone p.val)).answer s

/-- PMB_ALERT: the STATUS_WORD of each rail. -/
def execPmbAlert (status : List (Nat × BitVec 16)) (s : State) : Host.Outcome State Fault Refusal :=
  (settled (actPmbAlert status)).answer s

end Sys2Proof.Machine
end

