-- ==== Sys2Proof/Machine/Sfu.lean ====
section
/-! DEFINITION. The special-function unit (R126, R127; log 18). Where the spec gives a bound, the result is the device's own
(`Config.sfu`) as far as it keeps the bound, judged in fixed point at 256 fraction bits, and else the nearest value. -/

namespace Sys2Proof.Machine

/-! ## Fixed point at 2^-256 -/

def fxOne : Int := 2 ^ 256
def fxMul (a b : Int) : Int := a * b / fxOne
def fxDiv (a b : Int) : Int := a * fxOne / b

/-- A number in fixed point, truncated. -/
def fxOf (d : Dy) : Int := (d.quant .trunc (-256)).scaled (-256)
/-- A fixed-point value by 2^k as a number. -/
def fxDy (v k : Int) : Dy := Dy.ofInt v (k - 256)

/-- Sum of r^n / n! from a term on. -/
def expTerms (r : Int) : Nat → Nat → Int → Int → Int
  | 0, _, _, acc => acc
  | f + 1, n, term, acc =>
    let t := fxMul term r / n
    expTerms r f (n + 1) t (acc + t)

/-- e^r for |r| at most 1. -/
def fxExp (r : Int) : Int := expTerms r 70 1 fxOne fxOne

/-- Sum of w^k z / (2k + 1) from a power on: atanh with w = z^2, atan with w = -z^2. -/
def oddTerms (w : Int) : Nat → Nat → Int → Int → Int
  | 0, _, _, acc => acc
  | f + 1, n, pow, acc => oddTerms w f (n + 2) (fxMul pow w) (acc + pow / n)

def fxAtanh (z : Int) : Int := oddTerms (fxMul z z) 120 1 z 0
def fxAtan (z : Int) : Int := oddTerms (-(fxMul z z)) 120 1 z 0

def fxLn2 : Int := 2 * fxAtanh (fxOne / 3)
def fxPi : Int := 16 * fxAtan (fxOne / 5) - 4 * fxAtan (fxOne / 239)

/-- v / m to the nearest integer. -/
def fxRound (v m : Int) : Int := (2 * v + m) / (2 * m)

/-- e^x of a fixed-point value. -/
def expDy (x : Int) : Dy :=
  let k := fxRound x fxLn2
  fxDy (fxExp (x - k * fxLn2)) k

/-- ln of a positive number, in fixed point. -/
def fxLn (d : Dy) : Int :=
  let m := fxOf ⟨false, d.mag, -(d.mag.log2 : Int)⟩
  let up : Bool := decide (4 * fxOne < 3 * m)
  let m := if up then m / 2 else m
  let e : Int := d.log2 + (if up then 1 else 0)
  2 * fxAtanh (fxDiv (m - fxOne) (m + fxOne)) + e * fxLn2

/-- Sum of the series of sine or cosine from a term on. -/
def trigTerms (w : Int) : Nat → Nat → Int → Int → Int
  | 0, _, _, acc => acc
  | f + 1, n, term, acc =>
    let t := -(fxMul term w / (n * (n + 1)))
    trigTerms w f (n + 2) t (acc + t)

def fxSin (r : Int) : Int := trigTerms (fxMul r r) 40 2 r r
def fxCos (r : Int) : Int := trigTerms (fxMul r r) 40 1 fxOne fxOne

/-- Sine of a value, `shift` quarter turns on. -/
def fxSinAt (x shift : Int) : Int :=
  let k := fxRound (2 * x) fxPi
  let r := x - k * fxPi / 2
  match ((k + shift) % 4).toNat with
  | 0 => fxSin r
  | 1 => fxCos r
  | 2 => -(fxSin r)
  | _ => -(fxCos r)

/-- Sum of (-1)^n x^(2n + 1) / (n! (2n + 1)) from a term on. -/
def erfTerms (w : Int) : Nat → Nat → Int → Int → Int
  | 0, _, _, acc => acc
  | f + 1, n, term, acc =>
    let t := -(fxMul term w / n)
    erfTerms w f (n + 1) t (acc + t / (2 * n + 1))

/-- erf x; beyond 6 it is within 2^-54 of 1. -/
def fxErf (x : Int) : Int :=
  if 6 * fxOne < x then fxOne
  else if x < -(6 * fxOne) then -fxOne
  else fxDiv (2 * erfTerms (fxMul x x) 260 1 x x) (isqrt (fxPi * fxOne).toNat)

/-! ## The functions (R126) -/

/-- The exact value of function f at a number of its bound domain, far below its bound's width. -/
def sfuExact (f : Nat) (d : Dy) : Dy :=
  let x := fxOf d
  match f with
  | 0 => expDy x
  | 1 => expDy (fxMul x fxLn2)
  | 2 => fxDy (fxLn d) 0
  | 3 => fxDy (fxDiv (fxLn d) fxLn2) 0
  | 4 => ⟨d.neg, 2 ^ 256 / d.mag, -256 - d.exp⟩
  | 5 =>
    let e := if d.exp % 2 = 0 then d.exp else d.exp - 1
    ⟨false, isqrt (2 ^ 512 / (d.mag <<< (d.exp - e).toNat)), -256 - e / 2⟩
  | 6 => d.sqrt
  | 7 =>
    if d.neg && decide (200 * fxOne < -x) then fxDy 0 0
    else if decide (200 * fxOne < x) then fxDy fxOne 0
    else
      let e := expDy (fxOf d.abs.negate)
      let q := fxDiv fxOne (fxOne + fxOf e)
      if d.neg then ⟨false, e.mag * q.toNat, e.exp - 256⟩ else fxDy q 0
  | 8 =>
    if decide (200 * fxOne < x.natAbs) then ⟨d.neg, 1, 0⟩
    else
      let e := fxOf (expDy (-(2 * (x.natAbs : Int))))
      let q := fxDiv (fxOne - e) (fxOne + e)
      fxDy (if d.neg then -q else q) 0
  | 9 => fxDy (fxErf x) 0
  | 10 => fxDy (fxSinAt x 0) 0
  | _ => fxDy (fxSinAt x 1) 0

/-- x > n / 10 for an integer n. -/
def aboveTenths (d : Dy) (n : Int) : Bool := Dy.lt (Dy.ofInt n 0) (d.mul ⟨false, 10, 0⟩)
def belowTenths (d : Dy) (n : Int) : Bool := Dy.lt (d.mul ⟨false, 10, 0⟩) (Dy.ofInt n 0)

/-- The special values of R127; none where the input lies in the function's bound domain. -/
def sfuSpecial (f : Nat) (n : FNum) : Option FNum :=
  let zero (neg : Bool) : FNum := .fin (Dy.zero neg)
  match n with
  | .nan => some .nan
  | .inf neg => some (match f with
    | 0 => if neg then zero false else .inf false
    | 1 => if neg then zero false else .inf false
    | 2 => if neg then .nan else .inf false
    | 3 => if neg then .nan else .inf false
    | 4 => zero neg
    | 5 => if neg then .nan else zero false
    | 6 => if neg then .nan else .inf false
    | 7 => if neg then zero false else .fin ⟨false, 1, 0⟩
    | 8 => .fin ⟨neg, 1, 0⟩
    | 9 => .fin ⟨neg, 1, 0⟩
    | _ => .nan)
  | .fin d =>
    let big (e : Int) : Bool := Dy.lt ⟨false, 1, e⟩ d.abs
    match f with
    | 0 => if aboveTenths d 887 then some (.inf false) else if belowTenths d (-873) then some (zero false) else none
    | 1 => if Dy.le ⟨false, 128, 0⟩ d then some (.inf false) else if d.lt ⟨true, 126, 0⟩ then some (zero false) else none
    | 2 => if d.isZero then some (.inf true) else if d.neg then some .nan else none
    | 3 => if d.isZero then some (.inf true) else if d.neg then some .nan else none
    | 4 => if d.isZero then some (.inf d.neg) else if big 126 then some (zero d.neg) else none
    | 5 => if d.isZero then some (.inf d.neg) else if d.neg then some .nan else none
    | 6 => if d.isZero then some n else if d.neg then some .nan else none
    | 7 => none
    | 8 => if d.isZero then some n else none
    | 9 => if d.isZero then some n else none
    | _ => if big 20 then some .nan else none

/-- Inputs that VEC_DOMAIN counts: infinite, negative where the function has no value there, or out of range. Zeros count for
RSQRT alone, whose domain leaves them out and which R127 does not exempt; a subnormal input of LOG or LOG2, computed to the bound,
does not count (DESIGN CHOICE, log 18). -/
def sfuDomain (f : Nat) (n : FNum) : Bool := match n with
  | .nan => false
  | .inf _ => true
  | .fin d =>
    if d.isZero then f == 5
    else if f = 4 then Dy.lt ⟨false, 1, 126⟩ d.abs || d.log2 < -126
    else if f = 2 ∨ f = 3 ∨ f = 5 ∨ f = 6 then d.neg
    else (sfuSpecial f n).isSome

/-- How far a result may lie from the exact value y of an input x: a bound that R126 states absolutely holds wherever its
condition does. -/
def sfuBound (f : Nat) (x y : Dy) : Dy :=
  let ulps (k : Nat) : Dy := ⟨false, k, y.log2 - 23⟩
  let orAbs (c : Bool) (e : Int) (b : Dy) : Dy := if c then ⟨false, 1, e⟩ else b
  let near : Bool := Dy.le ⟨false, 1, -1⟩ x && Dy.le x ⟨false, 2, 0⟩
  let atLeast (hundredths : Int) : Bool := Dy.le (Dy.ofInt hundredths 0) (x.abs.mul ⟨false, 100, 0⟩)
  match f with
  | 0 => ulps 2
  | 1 => ulps 1
  | 2 => orAbs near (-24) (ulps 2)
  | 3 => orAbs near (-24) (ulps 1)
  | 7 => orAbs (Dy.lt ⟨false, 1, -1⟩ y) (-25) (ulps 3)
  | 8 => orAbs (atLeast 55) (-24) (ulps 3)
  | 9 => orAbs (atLeast 48) (-24) (ulps 3)
  | 10 => ⟨false, 1, -23⟩
  | 11 => ⟨false, 1, -23⟩
  | _ => ulps 1

/-- A device result that keeps the bound: a zero or a normal number no farther from the exact value. -/
def sfuKeeps (f : Nat) (x y : Dy) (w : BitVec 32) : Bool := match num32 w with
  | .fin r => (r.isZero || decide (-126 ≤ r.log2)) && Dy.le (r.add y.negate).abs (sfuBound f x y)
  | _ => false

/-- The result of function f at FP32 input bits, whether it counts in VEC_DOMAIN, and whether a non-zero value was written
as zero. Where the exact value is zero or flushes, an absolute bound allows several results and the nearest is taken, the
zero positive (DESIGN CHOICE, log 18). EXP and EXP2 below their domain, whose +0 R127 gives without naming R53, count as a value written
as zero (DESIGN CHOICE, log 140). -/
def sfu (f : Nat) (w : BitVec 32) : BitVec 32 × Bool × Bool :=
  let n := num32 w
  let dom := sfuDomain f n
  match sfuSpecial f n, n with
  | some r, _ => (rnd32 r, dom, n.finite && !n.isZero && r.isZero)
  | none, .fin d =>
    let y := sfuExact f d
    let o := fp32.pack .rne false y
    let near := BitVec.ofNat 32 o.bits
    let tiny := o.flush || (y.isZero && f == 7)
    (if f = 6 || dom || tiny || o.ovf || y.isZero then near
     else if sfuKeeps f d y (Config.sfu f w) then Config.sfu f w else near, dom, tiny)
  | none, _ => (w, dom, false)

end Sys2Proof.Machine
end

