-- ==== Sys2Proof/Machine/VectorUnit.lean ====
section
/-! DEFINITION. The vector unit (chapter 05, R148-R151): lane operations under a predicate, wide scalars, reductions, top-k,
permutations, loads and stores. -/

namespace Sys2Proof.Machine

/-! ## Lanes and predicates (R121, R148) -/

/-- With PR = 0 and PN = 1 an operation is unpredicated, whatever P0 holds. -/
def VSlot.plain (v : VSlot) : Bool := v.pr == 0 && v.pn

/-- Lane i is active. -/
def State.laneOn (s : State) (p t : Nat) (v : VSlot) (i : Nat) : Bool :=
  v.plain || ((s.preg p t v.pr).bits.getLsbD i != v.pn)

/-- Lane i's predicate bit is poisoned (log 38). -/
def State.lanePoison (s : State) (p t : Nat) (v : VSlot) (i : Nat) : Bool :=
  !v.plain && (s.preg p t v.pr).poison.getLsbD i

def lane (xs : List Lane) (i : Nat) : Lane := xs.getD i {}

/-- A register's lanes with one of them replaced. -/
def setLane (xs : List Lane) (i : Nat) (x : Lane) : List Lane := (List.range 256).map (fun k => if k = i then x else lane xs k)

/-- The active lanes, lowest first. -/
def State.activeLanes (s : State) (p t : Nat) (v : VSlot) : List Nat := (List.range 256).filter (s.laneOn p t v)

/-- A vector operation issues; it takes the next sequence number of the phase (R133). -/
def vecOp (p t vop : Nat) (k : VSlot → Bundle → Act) : Act :=
  vSlot p t vop fun v b => .ask fun s => Act.all [
    setR (tk .VEC_STATUS_OP_SEQ p t) ((s.tile p t).vecSeq % 65536), modTile p t (fun x => { x with
      vecSeq := x.vecSeq + 1, sfuUsed := x.sfuUsed || vop == 0x20, topUsed := x.topUsed || vop == 0x38 }),
    k v b]

/-- Active lanes of VD take their results, with their counts; inactive lanes keep their values. -/
def laneOp (p t vop : Nat) (f : State → VSlot → Bundle → Nat → LaneOut) : Act :=
  vecOp p t vop fun v b => .ask fun s =>
    let old := s.vreg p t v.vd
    let outs := (List.range 256).map (fun i => if s.laneOn p t v i then some (f s v b i) else none)
    let new := outs.mapIdx (fun i o => match o with
      | some o => { o.lane with poison := o.lane.poison || s.lanePoison p t v i }
      | none => lane old i)
    (setVreg p t v.vd new).seq (countLanes p t (outs.filterMap id))

/-- A lane operation on VA alone, or on VA and VB. -/
def laneOne (p t vop : Nat) (f : RMode → Lane → LaneOut) : Act :=
  laneOp p t vop fun s v _ i => f (s.vmode p t v.vd) (lane (s.vreg p t v.va) i)
def laneTwo (p t vop : Nat) (f : RMode → Lane → Lane → LaneOut) : Act :=
  laneOp p t vop fun s v _ i => f (s.vmode p t v.vd) (lane (s.vreg p t v.va) i) (lane (s.vreg p t v.vb) i)

/-- Arithmetic on one or two lanes: the exact value, rounded once. -/
def arithOne (p t vop : Nat) (f : FNum → FNum) : Act := laneOne p t vop (fun m a => laneArith m [a] (f (num32 a.bits)))
def arithTwo (p t vop : Nat) (f : FNum → FNum → FNum) : Act :=
  laneTwo p t vop (fun m a b => laneArith m [a, b] (f (num32 a.bits) (num32 b.bits)))

/-! ## Lane arithmetic (R122) -/

def execVadd (p : PileId) (t : TileId) (s : State) : Host.Outcome State Fault Refusal := (arithTwo p.val t.val 1 FNum.add).answer s
def execVsub (p : PileId) (t : TileId) (s : State) : Host.Outcome State Fault Refusal := (arithTwo p.val t.val 2 FNum.sub).answer s
def execVmul (p : PileId) (t : TileId) (s : State) : Host.Outcome State Fault Refusal := (arithTwo p.val t.val 3 FNum.mul).answer s

/-- VFMA rounds once, after the exact product and sum. -/
def actVfma (p t : Nat) : Act :=
  laneOp p t 4 fun s v _ i =>
    let a := lane (s.vreg p t v.va) i
    let b := lane (s.vreg p t v.vb) i
    let c := lane (s.vreg p t v.vc) i
    laneArith (s.vmode p t v.vd) [a, b, c] (((num32 a.bits).mul (num32 b.bits)).add (num32 c.bits))
def execVfma (p : PileId) (t : TileId) (s : State) : Host.Outcome State Fault Refusal := (actVfma p.val t.val).answer s

def execVmin (p : PileId) (t : TileId) (s : State) : Host.Outcome State Fault Refusal := (arithTwo p.val t.val 5 fnumMin).answer s
def execVmax (p : PileId) (t : TileId) (s : State) : Host.Outcome State Fault Refusal := (arithTwo p.val t.val 6 fnumMax).answer s
def execVabs (p : PileId) (t : TileId) (s : State) : Host.Outcome State Fault Refusal := (arithOne p.val t.val 7 FNum.abs).answer s
def execVneg (p : PileId) (t : TileId) (s : State) : Host.Outcome State Fault Refusal := (arithOne p.val t.val 8 FNum.negate).answer s

/-! ## Comparing, selecting, converting (R149) -/

/-- Bits by lane as a predicate's word. -/
def packBits (f : Nat → Bool) : BitVec 256 := BitVec.ofNat 256 ((List.range 256).foldl (fun a i => if f i then a + 2 ^ i else a) 0)

/-- VCMP: active lanes of the predicate take the comparison. -/
def actVcmp (p t : Nat) : Act :=
  vecOp p t 0x10 fun v _ => .ask fun s =>
    let a := s.vreg p t v.va
    let b := s.vreg p t v.vb
    let old := s.preg p t v.vd
    let ins (i : Nat) : List Lane := [lane a i, lane b i]
    let new : PReg :=
      { bits := packBits (fun i => if s.laneOn p t v i then fnumCond v.fn (num32 (lane a i).bits) (num32 (lane b i).bits)
          else old.bits.getLsbD i)
        poison := packBits (fun i => if s.laneOn p t v i then poisonOf (ins i) || s.lanePoison p t v i
          else old.poison.getLsbD i) }
    (setPreg p t v.vd new).seq (countLanes p t ((s.activeLanes p t v).map (fun i => laneBits (ins i) 0)))
def execVcmp (p : PileId) (t : TileId) (s : State) : Host.Outcome State Fault Refusal := (actVcmp p.val t.val).answer s

/-- Bits that pass through an operation, a NaN as the canonical one (R55). -/
def passBits (w : Word) : Word := if (num32 w).isNan then BitVec.ofNat 32 fp32.qnan else w

/-- VSEL: each active lane is VA's or VB's by the predicate that FN names; it reads both, so poison follows from either (R135). -/
def actVsel (p t : Nat) : Act :=
  laneOp p t 0x11 fun s v _ i =>
    let a := lane (s.vreg p t v.va) i
    let b := lane (s.vreg p t v.vb) i
    let q := s.preg p t v.fn
    let r := if q.bits.getLsbD i then a else b
    { lane := ⟨passBits r.bits, poisonOf [a, b] || q.poison.getLsbD i⟩, nfIn := nonfiniteOf [a, b] }
def execVsel (p : PileId) (t : TileId) (s : State) : Host.Outcome State Fault Refusal := (actVsel p.val t.val).answer s

/-- VCVT: FP32 to int32, or int32 to FP32. -/
def actVcvt (p t : Nat) : Act :=
  laneOp p t 0x18 fun s v _ i =>
    let a := lane (s.vreg p t v.va) i
    if v.fn = 0 then laneBits [a] (toInt32 (num32 a.bits))
    else { lane := ⟨(laneArith (s.vmode p t v.vd) [] (ofInt32 a.bits)).lane.bits, a.poison⟩ }
def execVcvt (p : PileId) (t : TileId) (s : State) : Host.Outcome State Fault Refusal := (actVcvt p.val t.val).answer s

/-- VSFU (R126, R127). -/
def actVsfu (p t : Nat) : Act :=
  laneOp p t 0x20 fun s v _ i =>
    let a := lane (s.vreg p t v.va) i
    let r := sfu v.fn a.bits
    { lane := ⟨r.1, a.poison⟩, nfIn := nonfiniteOf [a]
      nfOut := oneIf ((num32 a.bits).finite && !(num32 r.1).finite), flush := oneIf r.2.2, domain := oneIf r.2.1 }
def execVsfu (p : PileId) (t : TileId) (s : State) : Host.Outcome State Fault Refusal := (actVsfu p.val t.val).answer s

/-! ## Wide reductions (R124) -/

/-- The active lanes of VA, with the poison that a reduction takes from them. -/
def State.reduced (s : State) (p t : Nat) (v : VSlot) : List Lane := (s.activeLanes p t v).map (lane (s.vreg p t v.va))

def State.reducedPoison (s : State) (p t : Nat) (v : VSlot) : Bool :=
  poisonOf (s.reduced p t v) || (List.range 256).any (s.lanePoison p t v)

def putWide (p t n : Nat) (w : Wide) : Act := (setWreg p t n w).seq (wideFlag p t w)

/-- W += the exact sum of f of the active lanes, rounded once. -/
def sumOp (p t vop : Nat) (f : FNum → FNum) : Act :=
  vecOp p t vop fun v _ => .ask fun s =>
    let xs := s.reduced p t v
    let w := s.wreg p t v.vd
    (putWide p t v.vd ⟨wideRound (w.num.add (exactSum (xs.map (fun x => f (num32 x.bits))))), w.poison || s.reducedPoison p t v⟩).seq
      (countLanes p t [laneBits xs 0])
def execVsumw (p : PileId) (t : TileId) (s : State) : Host.Outcome State Fault Refusal := (sumOp p.val t.val 0x28 id).answer s
def execVssqw (p : PileId) (t : TileId) (s : State) : Host.Outcome State Fault Refusal :=
  (sumOp p.val t.val 0x29 (fun x => x.mul x)).answer s

/-- A wide scalar operation. -/
def wideOp (p t vop : Nat) (f : Wide → Wide → Wide) : Act :=
  vecOp p t vop fun v _ => .ask fun s => putWide p t v.vd (f (s.wreg p t v.va) (s.wreg p t v.vb))
def execWadd (p : PileId) (t : TileId) (s : State) : Host.Outcome State Fault Refusal := (wideOp p.val t.val 0x30 Wide.add).answer s
def execWsub (p : PileId) (t : TileId) (s : State) : Host.Outcome State Fault Refusal := (wideOp p.val t.val 0x31 Wide.sub).answer s
def execWmul (p : PileId) (t : TileId) (s : State) : Host.Outcome State Fault Refusal := (wideOp p.val t.val 0x32 Wide.mul).answer s

/-- A wide accumulator rounded to FP32, to nearest (R124). -/
def wideLane (w : Wide) : LaneOut :=
  let o := fp32.packNum .rne false w.num
  let bits := BitVec.ofNat 32 o.bits
  { lane := ⟨bits, w.poison⟩, nfOut := oneIf (w.num.finite && !(num32 bits).finite), flush := oneIf o.flush }

/-- WRD: one lane, where it is active. -/
def actWrd (p t : Nat) : Act :=
  vecOp p t 0x33 fun v _ => .ask fun s =>
    let o := wideLane (s.wreg p t v.va)
    Act.when (s.laneOn p t v v.fn) ((setVreg p t v.vd (setLane (s.vreg p t v.vd) v.fn
      { o.lane with poison := o.lane.poison || s.lanePoison p t v v.fn })).seq (countLanes p t [o]))
def execWrd (p : PileId) (t : TileId) (s : State) : Host.Outcome State Fault Refusal := (actWrd p.val t.val).answer s

/-- WBC: every active lane. -/
def actWbc (p t : Nat) : Act := laneOp p t 0x34 fun s v _ _ => wideLane (s.wreg p t v.va)
def execWbc (p : PileId) (t : TileId) (s : State) : Host.Outcome State Fault Refusal := (actWbc p.val t.val).answer s

/-- WSET: exactly a lane's value. -/
def actWset (p t : Nat) : Act :=
  vecOp p t 0x35 fun v _ => .ask fun s =>
    let x := lane (s.vreg p t v.va) v.fn
    (putWide p t v.vd ⟨num32 x.bits, x.poison⟩).seq (Act.when (s.laneOn p t v v.fn) (countLanes p t [laneBits [x] 0]))
def execWset (p : PileId) (t : TileId) (s : State) : Host.Outcome State Fault Refusal := (actWset p.val t.val).answer s

/-! ## Extremes (R125) -/

/-- The extreme of lanes under an order; the first one where none is before it. -/
def extreme (best : FNum → FNum → FNum) (start : FNum) (xs : List Lane) : FNum := (xs.map (fun x => num32 x.bits)).foldl best start

/-- Lane FN of VD = the extreme of the active lanes of VA; among lanes with a NaN the spec states no extreme, and some active
lane's value results, by a fixed function of the lanes (log 41). -/
def extremeOp (p t vop : Nat) (max : Bool) (best : FNum → FNum → FNum) (start : FNum) : Act :=
  vecOp p t vop fun v _ => .ask fun s =>
    let xs := s.reduced p t v
    let put (w : Word) : Act :=
      (setVreg p t v.vd (setLane (s.vreg p t v.vd) v.fn ⟨w, s.reducedPoison p t v⟩)).seq (countLanes p t [laneBits xs 0])
    if xs.any (fun x => (num32 x.bits).isNan) then
      put (BitVec.ofNat 32 (fp32Exact (num32 (lane xs (Config.extremeOfNan max (xs.map Lane.bits) % xs.length)).bits)).bits)
    else put (BitVec.ofNat 32 (fp32Exact (extreme best start xs)).bits)
def execVmaxr (p : PileId) (t : TileId) (s : State) : Host.Outcome State Fault Refusal :=
  (extremeOp p.val t.val 0x2A true fnumMax (.inf true)).answer s
def execVminr (p : PileId) (t : TileId) (s : State) : Host.Outcome State Fault Refusal :=
  (extremeOp p.val t.val 0x2B false fnumMin (.inf false)).answer s

/-! ## Top-k (R128) -/

/-- A candidate: its value and its index. -/
structure Cand where
  num : FNum
  idx : Nat
  deriving DecidableEq, Repr

/-- a ranks above b: the larger value, NaN below every other; of equal values the lower index. -/
def Cand.above (a b : Cand) : Bool :=
  if a.num.isNan && b.num.isNan then decide (a.idx ≤ b.idx)
  else if a.num.isNan then false
  else if b.num.isNan then true
  else b.num.lt a.num || (a.num.eqv b.num && decide (a.idx ≤ b.idx))

def insertCand (x : Cand) : List Cand → List Cand
  | [] => [x]
  | y :: r => if x.above y then x :: y :: r else y :: insertCand x r

def rankCands (xs : List Cand) : List Cand := xs.foldr insertCand []

/-- The k best, filled up with -infinity and 0xFFFF. -/
def topCands (k : Nat) (xs : List Cand) : List Cand := ((rankCands xs).take k ++ List.replicate k (Cand.mk (.inf true) 0xFFFF)).take k

/-- The previous selection, without its unused outputs; none outside merge mode. An output with index 0xFFFF is taken as unused whatever its
value, since R128 says what unused outputs hold and not how they are told (DESIGN CHOICE, log 139). -/
def State.topPrev (s : State) (p t : Nat) (v : VSlot) : List (Lane × Lane) :=
  if v.fn.testBit 4 then
    ((List.range (v.fn % 16)).map (fun j => (lane (s.vreg p t v.vd) j, lane (s.vreg p t v.vc) j))).filter (fun q => q.2.bits != 0xFFFF)
  else []

/-- The candidates: those of the previous selection, and the active lanes under their indices. -/
def State.topAll (s : State) (p t : Nat) (v : VSlot) : List Cand :=
  (s.topPrev p t v).map (fun q => (⟨num32 q.1.bits, q.2.bits.toNat⟩ : Cand)) ++
  (s.activeLanes p t v).map (fun i => (⟨num32 (lane (s.vreg p t v.va) i).bits, s.scalar p t v.sx + i⟩ : Cand))

/-- VTOPK: values to the first k lanes of VD, indices to those of VC. Where VD = VC the indices overwrite the values, and a NaN of the
previous selection counts again at each merge: the spec states neither (DESIGN CHOICE, log 139). -/
def actVtopk (p t : Nat) : Act :=
  vecOp p t 0x38 fun v _ => .ask fun s =>
    let prev := s.topPrev p t v
    let best := topCands (v.fn % 16) (s.topAll p t v)
    let bad := s.reducedPoison p t v || prev.any (fun q => q.1.poison || q.2.poison)
    let put (old : List Lane) (f : Cand → Word) : List Lane := best.map (fun c => Lane.mk (f c) bad) ++ old.drop (v.fn % 16)
    let nans := (prev.filter (fun q => (num32 q.1.bits).isNan)).length
    Act.all [
      setVreg p t v.vd (put (s.vreg p t v.vd) (fun c => BitVec.ofNat 32 (fp32Exact c.num).bits)),
      .ask fun u => setVreg p t v.vc (put (u.vreg p t v.vc) (fun c => BitVec.ofNat 32 c.idx)),
      countLanes p t [{ lane := {}, nfIn := nonfiniteOf (s.reduced p t v) + nans }]]
def execVtopk (p : PileId) (t : TileId) (s : State) : Host.Outcome State Fault Refusal := (actVtopk p.val t.val).answer s

/-! ## Permutations (R150) -/

/-- The lane that a pattern takes for lane i. -/
def permLane (fn i : Nat) : Nat :=
  let r := i / 16
  let c := i % 16
  let n := bitsOf fn 7 4
  match fn % 8 with
  | 0 => 16 * c + r
  | 1 => 255 - i
  | 2 => 16 * r + (c + n) % 16
  | 3 => 16 * ((r + n) % 16) + c
  | 4 => 16 * n + c
  | 5 => 16 * r + n
  | _ => i ^^^ bitsOf fn 15 8

/-- VPERM: lanes move. -/
def actVperm (p t : Nat) : Act :=
  laneOp p t 0x3C fun s v _ i =>
    let a := lane (s.vreg p t v.va) (permLane v.fn i)
    laneBits [a] (passBits a.bits)
def execVperm (p : PileId) (t : TileId) (s : State) : Host.Outcome State Fault Refusal := (actVperm p.val t.val).answer s

/-! ## Loads and stores (R131, R135, R151) -/

/-- VLD fills every lane. Its converter counts zeros and non-finite values, and a finite value beyond FP32's range, which decodes
to infinity (R63, R81); elements read as poisoned count nothing (log 118). -/
def actVld (p t : Nat) : Act :=
  vecOp p t 0x40 fun v _ => .ask fun s =>
    let f := s.fed p t (s.vLine p t v) v.vb (v.fn.testBit 15)
    let outs := f.block.vals.map fp32Exact
    let seen := ((f.block.vals.zip f.block.poison).filter (fun q => !q.2)).map Prod.fst
    let c : XoCounts := { nonfin := (seen.filter (fun v => !(num32 (BitVec.ofNat 32 (fp32Exact v).bits)).finite)).length
                          zero := (seen.filter FNum.isZero).length }
    Act.all [
      setVreg p t v.vd ((outs.zip f.block.poison).map (fun q => ⟨BitVec.ofNat 32 q.1.bits, q.2⟩)),
      bump (tk .CHK_BLOCK_FAIL p t) f.bad,
      clearXo p t 4, countXo p t 4 c, countHealth p 0xFFF 0 c]
def execVld (p : PileId) (t : TileId) (s : State) : Host.Outcome State Fault Refusal := (actVld p.val t.val).answer s

/-- A vector store's lines: written in order, with their digest (R391). -/
def storeLines (p t line : Nat) (ls : List Line) : Act :=
  .ask fun s => Act.all [
    putLines p .ls t line ls,
    keepDigest p t 3 (s.tile p t).vstSeq (outputDigest ls * 2 + oneIf (ls.any Line.poison)),
    modTile p t (fun x => { x with vstSeq := x.vstSeq + 1 })]

/-- VST: VA as one block under the encode descriptor and keys that the slot names. -/
def actVst (p t : Nat) : Act :=
  vecOp p t 0x41 fun v b => .ask fun s =>
    let a := s.vreg p t v.va
    let d := encOf (s.encDesc p t (b.imm % 1024)) (s.scalar p t (bitsOf b.imm 13 10))
    encoding d (s.scalar p t v.sy) (s.scalar p t (v.sy + 1)) (a.map (fun x => num32 x.bits)) (poisonOf a) fun ls c => Act.all [
      storeLines p t (s.vLine p t v) ls, clearXo p t 3, countXo p t 3 c, countHealth p d.tracker d.tensorId c]
def execVst (p : PileId) (t : TileId) (s : State) : Host.Outcome State Fault Refusal := (actVst p.val t.val).answer s

/-- VLDM: a quarter of a raw line into a predicate register. -/
def actVldm (p t : Nat) : Act :=
  vecOp p t 0x42 fun v _ => .ask fun s =>
    let l := s.feedLine p t (s.vLine p t v)
    let bad := l.1.poison || l.1.tagByte 3 != 0xF0
    (setPreg p t v.vd ⟨BitVec.ofNat 256 (l.1.body.toNat / 2 ^ (256 * v.vb)), if bad then BitVec.allOnes 256 else 0⟩).seq
      (bump (tk .CHK_BLOCK_FAIL p t) l.2)
def execVldm (p : PileId) (t : TileId) (s : State) : Host.Outcome State Fault Refusal := (actVldm p.val t.val).answer s

/-- VSTI: the low 16 bits of each lane, inactive lanes as 0xFFFF, as four raw lines. -/
def actVsti (p t : Nat) : Act :=
  vecOp p t 0x43 fun v _ => .ask fun s =>
    let a := s.vreg p t v.va
    let half (i : Nat) : Nat := if s.laneOn p t v i then (lane a i).bits.toNat % 65536 else 0xFFFF
    let bad (i : Nat) : Bool := (s.laneOn p t v i && (lane a i).poison) || s.lanePoison p t v i
    storeLines p t (s.vLine p t v) ((List.range 4).map (fun q =>
      let is := (List.range 64).map (fun k => 64 * q + k)
      { rawLine (is.foldr (fun i acc => acc * 65536 + half i) 0) with poison := is.any bad }))
def execVsti (p : PileId) (t : TileId) (s : State) : Host.Outcome State Fault Refusal := (actVsti p.val t.val).answer s

/-! ## Moves and marks (R149) -/

def execVmovi (p : PileId) (t : TileId) (s : State) : Host.Outcome State Fault Refusal :=
  (laneOp p.val t.val 0x48 (fun _ _ b _ => { lane := ⟨BitVec.ofNat 32 b.imm, false⟩ })).answer s
def execVmovs (p : PileId) (t : TileId) (s : State) : Host.Outcome State Fault Refusal :=
  (laneOp p.val t.val 0x49 (fun s v _ _ => { lane := ⟨s.sreg p.val t.val v.sx, false⟩ })).answer s
def execVmark (p : PileId) (t : TileId) (s : State) : Host.Outcome State Fault Refusal :=
  (vecOp p.val t.val 0x4C (fun _ b => setR (tk .VNARROW p.val t.val) b.imm)).answer s

end Sys2Proof.Machine
end

