-- ==== Sys2Proof/Machine/Dispatch.lean ====
section
/-! DEFINITION. What each command does: one arm per row of spec/opcode_table.json, each one direct call of its meaning. -/

namespace Sys2Proof.Machine

def exec (i : Instr) (s : State) : Host.Outcome State Fault Refusal :=
  match i with
  | .hello m => Sys2Proof.Machine.execHello m s
  | .confirm m => Sys2Proof.Machine.execConfirm m s
  | .halfOpenExpire session => Sys2Proof.Machine.execHalfOpenExpire session s
  | .ackOnly m => Sys2Proof.Machine.execAckOnly m s
  | .retransmitTimeout session seq => Sys2Proof.Machine.execRetransmitTimeout session seq s
  | .sessionFail session seq => Sys2Proof.Machine.execSessionFail session seq s
  | .keepalive m => Sys2Proof.Machine.execKeepalive m s
  | .idleTimeout session => Sys2Proof.Machine.execIdleTimeout session s
  | .close fromDevice m => Sys2Proof.Machine.execClose fromDevice m s
  | .retainExpire hostKey => Sys2Proof.Machine.execRetainExpire hostKey s
  | .bulkData m => Sys2Proof.Machine.execBulkData m s
  | .bulkDataSend session xfer => Sys2Proof.Machine.execBulkDataSend session xfer s
  | .pfcFrame prio quanta => Sys2Proof.Machine.execPfcFrame prio quanta s
  | .pauseFrame => Sys2Proof.Machine.execPauseFrame s
  | .arpRequest target senderMac senderIp => Sys2Proof.Machine.execArpRequest target senderMac senderIp s
  | .neighbourSolicitation target sender => Sys2Proof.Machine.execNeighbourSolicitation target sender s
  | .echoRequest v6 src dst payload => Sys2Proof.Machine.execEchoRequest v6 src dst payload s
  | .hostLinkTrain ok lanes => Sys2Proof.Machine.execHostLinkTrain ok lanes s
  | .hpCtl m r => Sys2Proof.Machine.execHpCtl m r s
  | .eventAck m => Sys2Proof.Machine.execEventAck m s
  | .deviceInfo m => Sys2Proof.Machine.execDeviceInfo m s
  | .identity m => Sys2Proof.Machine.execIdentity m s
  | .attest m nonce => Sys2Proof.Machine.execAttest m nonce s
  | .bundleLoad m xfer size => Sys2Proof.Machine.execBundleLoad m xfer size s
  | .debugChallenge m scope => Sys2Proof.Machine.execDebugChallenge m scope s
  | .challengeExpire => Sys2Proof.Machine.execChallengeExpire s
  | .debugUnlock m response => Sys2Proof.Machine.execDebugUnlock m response s
  | .deviceReset m => Sys2Proof.Machine.execDeviceReset m s
  | .netConfig m cfg => Sys2Proof.Machine.execNetConfig m cfg s
  | .regRead m r => Sys2Proof.Machine.execRegRead m r s
  | .regWrite m r => Sys2Proof.Machine.execRegWrite m r s
  | .memWrite m p => Sys2Proof.Machine.execMemWrite m p s
  | .memRead m p => Sys2Proof.Machine.execMemRead m p s
  | .memFill m p => Sys2Proof.Machine.execMemFill m p s
  | .tagWrite m pile line tag => Sys2Proof.Machine.execTagWrite m pile line tag s
  | .domainSet m device size root => Sys2Proof.Machine.execDomainSet m device size root s
  | .bringup m xfer flags => Sys2Proof.Machine.execBringup m xfer flags s
  | .waxRead m xfer => Sys2Proof.Machine.execWaxRead m xfer s
  | .spareList m => Sys2Proof.Machine.execSpareList m s
  | .spareCommit m indices => Sys2Proof.Machine.execSpareCommit m indices s
  | .pileReset m pile => Sys2Proof.Machine.execPileReset m pile s
  | .pileResetEnd pile => Sys2Proof.Machine.execPileResetEnd pile s
  | .powerSet m domain state => Sys2Proof.Machine.execPowerSet m domain state s
  | .jobLoad m xfer size parts timing => Sys2Proof.Machine.execJobLoad m xfer size parts timing s
  | .jobStart m step seed => Sys2Proof.Machine.execJobStart m step seed s
  | .inputReady m step => Sys2Proof.Machine.execInputReady m step s
  | .resume m => Sys2Proof.Machine.execResume m s
  | .abort m => Sys2Proof.Machine.execAbort m s
  | .abortWatchdog stuck => Sys2Proof.Machine.execAbortWatchdog stuck s
  | .abortComplete micros => Sys2Proof.Machine.execAbortComplete micros s
  | .jobUnload m => Sys2Proof.Machine.execJobUnload m s
  | .jobStatus m => Sys2Proof.Machine.execJobStatus m s
  | .fetch m name gmin xfer => Sys2Proof.Machine.execFetch m name gmin xfer s
  | .listObjects m first => Sys2Proof.Machine.execListObjects m first s
  | .records m p => Sys2Proof.Machine.execRecords m p s
  | .pileHealth m pile => Sys2Proof.Machine.execPileHealth m pile s
  | .tbCtlEnable m r => Sys2Proof.Machine.execTbCtlEnable m r s
  | .lnkCtlEnable m r => Sys2Proof.Machine.execLnkCtlEnable m r s
  | .memInject m r => Sys2Proof.Machine.execMemInject m r s
  | .memBucketCtl m r => Sys2Proof.Machine.execMemBucketCtl m r s
  | .padRelease m r => Sys2Proof.Machine.execPadRelease m r s
  | .cnop p t => Sys2Proof.Machine.execCnop p t s
  | .idle p t => Sys2Proof.Machine.execIdle p t s
  | .idleEnd p t => Sys2Proof.Machine.execIdleEnd p t s
  | .sli p t => Sys2Proof.Machine.execSli p t s
  | .salu p t => Sys2Proof.Machine.execSalu p t s
  | .smovp p t => Sys2Proof.Machine.execSmovp p t s
  | .loop p t => Sys2Proof.Machine.execLoop p t s
  | .br p t => Sys2Proof.Machine.execBr p t s
  | .gatew p t => Sys2Proof.Machine.execGatew p t s
  | .tileArrival p t => Sys2Proof.Machine.execTileArrival p t s
  | .waitLimit p t => Sys2Proof.Machine.execWaitLimit p t s
  | .amm p t => Sys2Proof.Machine.execAmm p t s
  | .anop p t => Sys2Proof.Machine.execAnop p t s
  | .pendingStart p t a => Sys2Proof.Machine.execPendingStart p t a s
  | .arrayDone p t a => Sys2Proof.Machine.execArrayDone p t a s
  | .vnop p t => Sys2Proof.Machine.execVnop p t s
  | .vadd p t => Sys2Proof.Machine.execVadd p t s
  | .vsub p t => Sys2Proof.Machine.execVsub p t s
  | .vmul p t => Sys2Proof.Machine.execVmul p t s
  | .vfma p t => Sys2Proof.Machine.execVfma p t s
  | .vmin p t => Sys2Proof.Machine.execVmin p t s
  | .vmax p t => Sys2Proof.Machine.execVmax p t s
  | .vabs p t => Sys2Proof.Machine.execVabs p t s
  | .vneg p t => Sys2Proof.Machine.execVneg p t s
  | .vcmp p t => Sys2Proof.Machine.execVcmp p t s
  | .vsel p t => Sys2Proof.Machine.execVsel p t s
  | .vcvt p t => Sys2Proof.Machine.execVcvt p t s
  | .vsfu p t => Sys2Proof.Machine.execVsfu p t s
  | .vsumw p t => Sys2Proof.Machine.execVsumw p t s
  | .vssqw p t => Sys2Proof.Machine.execVssqw p t s
  | .vmaxr p t => Sys2Proof.Machine.execVmaxr p t s
  | .vminr p t => Sys2Proof.Machine.execVminr p t s
  | .wadd p t => Sys2Proof.Machine.execWadd p t s
  | .wsub p t => Sys2Proof.Machine.execWsub p t s
  | .wmul p t => Sys2Proof.Machine.execWmul p t s
  | .wrd p t => Sys2Proof.Machine.execWrd p t s
  | .wbc p t => Sys2Proof.Machine.execWbc p t s
  | .wset p t => Sys2Proof.Machine.execWset p t s
  | .vtopk p t => Sys2Proof.Machine.execVtopk p t s
  | .vperm p t => Sys2Proof.Machine.execVperm p t s
  | .vld p t => Sys2Proof.Machine.execVld p t s
  | .vst p t => Sys2Proof.Machine.execVst p t s
  | .vldm p t => Sys2Proof.Machine.execVldm p t s
  | .vsti p t => Sys2Proof.Machine.execVsti p t s
  | .vmovi p t => Sys2Proof.Machine.execVmovi p t s
  | .vmovs p t => Sys2Proof.Machine.execVmovs p t s
  | .vmark p t => Sys2Proof.Machine.execVmark p t s
  | .mnop p t => Sys2Proof.Machine.execMnop p t s
  | .mvgo p t => Sys2Proof.Machine.execMvgo p t s
  | .wait p t => Sys2Proof.Machine.execWait p t s
  | .copy p t => Sys2Proof.Machine.execCopy p t s
  | .gather p t => Sys2Proof.Machine.execGather p t s
  | .scatter p t => Sys2Proof.Machine.execScatter p t s
  | .moverDone p t => Sys2Proof.Machine.execMoverDone p t s
  | .wakeComplete domain => Sys2Proof.Machine.execWakeComplete domain s
  | .entryComplete domain => Sys2Proof.Machine.execEntryComplete domain s
  | .leak p => Sys2Proof.Machine.execLeak p s
  | .groom p => Sys2Proof.Machine.execGroom p s
  | .targetedGroom p => Sys2Proof.Machine.execTargetedGroom p s
  | .spareMove p => Sys2Proof.Machine.execSpareMove p s
  | .refresh p => Sys2Proof.Machine.execRefresh p s
  | .doubledRefresh p temp0 temp1 => Sys2Proof.Machine.execDoubledRefresh p temp0 temp1 s
  | .overTemp p temp0 temp1 => Sys2Proof.Machine.execOverTemp p temp0 temp1 s
  | .dramHotAbort p temp0 temp1 => Sys2Proof.Machine.execDramHotAbort p temp0 temp1 s
  | .sendSample p desc k sealed => Sys2Proof.Machine.execSendSample p desc k sealed s
  | .gondolaIngress p slot way g parityErr => Sys2Proof.Machine.execGondolaIngress p slot way g parityErr s
  | .switchReceive p desc k use => Sys2Proof.Machine.execSwitchReceive p desc k use s
  | .unschedFrame p port useq f => Sys2Proof.Machine.execUnschedFrame p port useq f s
  | .ulink p port credits ackNext resend => Sys2Proof.Machine.execUlink p port credits ackNext resend s
  | .unschedRetry p port => Sys2Proof.Machine.execUnschedRetry p port s
  | .linkBlock p k at' block => Sys2Proof.Machine.execLinkBlock p k at' block s
  | .bridgeWaySlot p d slot way data crc => Sys2Proof.Machine.execBridgeWaySlot p d slot way data crc s
  | .realignTimeout p k => Sys2Proof.Machine.execRealignTimeout p k s
  | .portTraining p port o => Sys2Proof.Machine.execPortTraining p port o s
  | .swapRequest p k lane => Sys2Proof.Machine.execSwapRequest p k lane s
  | .swapAck p k => Sys2Proof.Machine.execSwapAck p k s
  | .swapAckTimeout p k => Sys2Proof.Machine.execSwapAckTimeout p k s
  | .laneRetrain p k ok => Sys2Proof.Machine.execLaneRetrain p k ok s
  | .wireRepair p d group failing => Sys2Proof.Machine.execWireRepair p d group failing s
  | .timingMark slot => Sys2Proof.Machine.execTimingMark slot s
  | .holdover => Sys2Proof.Machine.execHoldover s
  | .pileArrival p slot tree routed patFails => Sys2Proof.Machine.execPileArrival p slot tree routed patFails s
  | .spareSubstitution p selfTestOk => Sys2Proof.Machine.execSpareSubstitution p selfTestOk s
  | .arrive p slot child children tok => Sys2Proof.Machine.execArrive p slot child children tok s
  | .release p tok => Sys2Proof.Machine.execRelease p tok s
  | .gateTimeout => Sys2Proof.Machine.execGateTimeout s
  | .gateOpen slot => Sys2Proof.Machine.execGateOpen slot s
  | .compress p bucket index => Sys2Proof.Machine.execCompress p bucket index s
  | .readout p bucket => Sys2Proof.Machine.execReadout p bucket s
  | .updatePass1 p layer => Sys2Proof.Machine.execUpdatePass1 p layer s
  | .updatePass2 p layer => Sys2Proof.Machine.execUpdatePass2 p layer s
  | .relayLine l empty => Sys2Proof.Machine.execRelayLine l empty s
  | .ageingSample samples => Sys2Proof.Machine.execAgeingSample samples s
  | .governorUpdate w => Sys2Proof.Machine.execGovernorUpdate w s
  | .pmbusPoll rs => Sys2Proof.Machine.execPmbusPoll rs s
  | .pmbAlert status => Sys2Proof.Machine.execPmbAlert status s
  | .thermAlert p temp => Sys2Proof.Machine.execThermAlert p temp s
  | .thermAlertRelease die dram => Sys2Proof.Machine.execThermAlertRelease die dram s
  | .hotAbort p temp => Sys2Proof.Machine.execHotAbort p temp s
  | .tripped temp => Sys2Proof.Machine.execTripped temp s
  | .wake held => Sys2Proof.Machine.execWake held s
  | .signalDetect => Sys2Proof.Machine.execSignalDetect s
  | .pwrGoodFall => Sys2Proof.Machine.execPwrGoodFall s
  | .pwrGoodRise => Sys2Proof.Machine.execPwrGoodRise s
  | .resetNAssert => Sys2Proof.Machine.execResetNAssert s
  | .resetNRelease => Sys2Proof.Machine.execResetNRelease s
  | .uvTrip rail => Sys2Proof.Machine.execUvTrip rail s
  | .hubFault => Sys2Proof.Machine.execHubFault s
  | .frequencyLock => Sys2Proof.Machine.execFrequencyLock s
  | .hostLinkDown => Sys2Proof.Machine.execHostLinkDown s
  | .unknownCommand m => Sys2Proof.Machine.execUnknownCommand m s
  | .memFillDone p => Sys2Proof.Machine.execMemFillDone p s
  | .bringupStageEnd tests => Sys2Proof.Machine.execBringupStageEnd tests s
  | .fuseWordBurned => Sys2Proof.Machine.execFuseWordBurned s
  | .hubEntryStart domain => Sys2Proof.Machine.execHubEntryStart domain s
  | .aonPowerUp => Sys2Proof.Machine.execAonPowerUp s
  | .aonPowerLoss => Sys2Proof.Machine.execAonPowerLoss s
  | .referenceClockChange clock ok => Sys2Proof.Machine.execReferenceClockChange clock ok s

end Sys2Proof.Machine
end

