-- ==== Sys2Proof/WellFormed.lean ====
section
/-! DEFINITION. Well-formed commands: every operand within the width or range its rule gives it, a request's type, code and
length as its row has them, and its parameters as its payload carries them wherever R457, R458, R462 or R465 state the
packing (log 11, 16, 28). -/

namespace Sys2Proof

open Machine

/-- Every field of a Lift header within its width (R422). -/
def LiftMsg.fits (m : LiftMsg) : Bool :=
  decide (m.port < 2 ^ 16 ∧ m.magic < 2 ^ 16 ∧ m.version < 2 ^ 8 ∧ m.type < 2 ^ 8 ∧ m.session < 2 ^ 32 ∧ m.seq < 2 ^ 64 ∧
    m.ack < 2 ^ 64 ∧ m.credit < 2 ^ 64 ∧ m.mailbox < 2 ^ 8 ∧ m.flags < 2 ^ 8 ∧ m.length < 2 ^ 16 ∧ m.rsvd < 2 ^ 32) &&
  (match m.vid with
   | some v => decide (v < 2 ^ 12)
   | none => true)

/-- A message of a type. -/
def LiftMsg.ofType (t : Nat) (m : LiftMsg) : Bool := m.fits && m.type == t

/-- A request of a command code (R439): a REQUEST to a mailbox with a whole command header. -/
def LiftMsg.asks (code : Nat) (m : LiftMsg) : Bool :=
  m.ofType tyRequest && decide (m.mailbox ≤ 63) && decide (16 ≤ m.payload.length) && reqCommand m == code

/-- The request's parameters are these bytes, reserved fields aside; a request of another length carries none of its command's
and is answered so (R457). -/
def LiftMsg.params (m : LiftMsg) (bs : List Nat) : Bool :=
  let free (i : Nat) : Bool := (reservedParams (reqCommand m)).any (fun o => decide (o.1 ≤ i ∧ i < o.1 + o.2))
  m.payload.length != 16 + bs.length ||
    (List.range bs.length).all (fun i => free i || (m.payload.getD (16 + i) 0).toNat == bs.getD i 0)

/-- Bytes padded with zeros to a multiple of eight (R457). -/
def padded (bs : List Nat) : List Nat := bs ++ List.replicate ((8 - bs.length % 8) % 8) 0

/-- The 80 bytes of REG_READ's and REG_WRITE's parameters (R458). -/
def RegReq.bytes (r : RegReq) : List Nat :=
  ((r.name.toList.map Char.toNat) ++ List.replicate 24 0).take 24 ++ [r.scope, r.pile, r.tile, 0] ++ bytesLE 4 r.idx0 ++ bytesLE 4 r.idx1 ++
  bytesLE 4 r.idx2 ++ bytesLE 4 r.count ++ [0, 0, 0, 0] ++ bytesLE 16 r.mask.toNat ++ bytesLE 16 r.value.toNat

/-- A register request of a code, with its parameters as the payload carries them. -/
def LiftMsg.asksReg (code : Nat) (m : LiftMsg) (r : RegReq) : Bool := m.asks code && m.params r.bytes

/-- A write of one register. -/
def LiftMsg.writes (m : LiftMsg) (n : String) (r : RegReq) : Bool := m.asksReg 0x0011 r && r.name == n

/-- The registers whose writes have rows of their own. -/
def ownRows : List String := ["HP_CTL", "TB_CTL", "LNK_CTL", "MEM_INJECT", "MEM_BUCKET_CTL", "PAD_RELEASE"]

/-- A gondola's way and slot: a way 0 to 162, or 255 for the slot's generated gondolas (R211, R217). -/
def wayOk (way : Nat) : Bool := decide (way < 163 ∨ way = 255)

/-- A port of R230's index. -/
def portOk (q : Nat) : Bool := decide (q < 8)

/-- The wires of a bridge's way group (R253). -/
def groupOk (g : Nat) : Bool := decide (g < 28)

/-- A frame's addresses and its payload, at most 112 B (R227). -/
def UFrame.fits (f : UFrame) : Bool :=
  decide (f.dstDev < 4096 ∧ f.dstPile < 256 ∧ f.dstEp < 256 ∧ f.srcDev < 4096 ∧ f.srcPile < 256 ∧ f.srcEp < 256 ∧ f.msgId < 2 ^ 32 ∧
    f.ukind < 256 ∧ f.payload.length ≤ 112)

/-- A gate token's fields within their widths (R190). -/
def GateToken.fits (t : GateToken) : Bool :=
  decide (t.step < 2 ^ 64 ∧ t.phase < 2 ^ 16 ∧ t.copy < 2 ∧ t.jobTag < 2 ^ 32 ∧ t.slipped < 2 ^ 32 ∧ t.openSlot < 2 ^ 64)

/-- A gondola's fields within their widths (R213). -/
def Gondola.fits (g : Gondola) : Bool := decide (g.useq < 256 ∧ g.tc < 4)

/-- A temperature as a 12-bit sensor in 1/16 °C can give it, -128 to +255 °C. -/
def tempOk (t : Int) : Bool := decide (-2048 ≤ t ∧ t ≤ 4095)

/-- Whether a command's operands are ones its row can have. -/
def Instr.wf : Instr → Bool
  | .hello m => m.ofType tyHello
  | .confirm m => m.ofType tyConfirm
  | .halfOpenExpire session => decide (session < 2 ^ 32)
  | .ackOnly m => m.ofType tyAckOnly
  | .retransmitTimeout session seq => decide (session < 2 ^ 32 ∧ seq < 2 ^ 64)
  | .sessionFail session seq => decide (session < 2 ^ 32 ∧ seq < 2 ^ 64)
  | .keepalive m => m.ofType tyKeepalive
  | .idleTimeout session => decide (session < 2 ^ 32)
  | .close _ m => m.ofType tyClose
  | .retainExpire hostKey => hostKey.length == 32
  | .bulkData m => m.ofType tyBulk
  | .bulkDataSend session xfer => decide (session < 2 ^ 32 ∧ xfer < 2 ^ 32)
  | .pfcFrame prio quanta => decide (prio < 8 ∧ quanta < 2 ^ 16)
  | .pauseFrame => true
  | .arpRequest _ _ _ => true
  | .neighbourSolicitation _ _ => true
  | .echoRequest v6 src dst _ => v6 || decide (src.toNat < 2 ^ 32 ∧ dst.toNat < 2 ^ 32)
  | .hostLinkTrain _ _ => true
  | .hpCtl m r => m.writes "HP_CTL" r
  | .eventAck m => m.ofType tyEventAck
  | .deviceInfo m => m.asks 0x0001
  | .identity m => m.asks 0x0002
  | .attest m nonce => m.asks 0x0003 && m.params (bytesLE 32 nonce.toNat)
  | .bundleLoad m xfer size => m.asks 0x0004 && decide (xfer < 2 ^ 32 ∧ size < 2 ^ 64) && m.params (padded (bytesLE 4 xfer ++ bytesLE 8 size))
  | .debugChallenge m scope => m.asks 0x0005 && m.params (padded (bytesLE 4 scope.toNat))
  | .challengeExpire => true
  | .debugUnlock m response => m.asks 0x0006 && response.length == 288 && m.params (ofBytes response)
  | .deviceReset m => m.asks 0x0007
  | .netConfig m cfg => m.asks 0x0008 && decide (cfg.prefix4 < 256 ∧ cfg.prefix6 < 256 ∧ cfg.mtu < 2 ^ 16)
  | .regRead m r => m.asksReg 0x0010 r
  | .regWrite m r => m.asksReg 0x0011 r && !ownRows.contains r.name
  | .memWrite m p => m.asks 0x0020 && decide (p.pile < 256 ∧ p.xfer < 2 ^ 32)
  | .memRead m p => m.asks 0x0021 && decide (p.pile < 256 ∧ p.view < 256 ∧ p.xfer < 2 ^ 32)
  | .memFill m p => m.asks 0x0022 && decide (p.pile < 256 ∧ p.mode < 256 ∧ p.fmt < 256)
  | .tagWrite m pile _ _ => m.asks 0x0023 && decide (pile < 256)
  | .domainSet m device size root => m.asks 0x0030 && decide (device < 2 ^ 32 ∧ size < 2 ^ 32 ∧ root < 2 ^ 32)
  | .bringup m xfer flags => m.asks 0x0031 && decide (xfer < 2 ^ 32) && m.params (bytesLE 4 xfer ++ bytesLE 4 flags.toNat)
  | .waxRead m xfer => m.asks 0x0032 && decide (xfer < 2 ^ 32) && m.params (padded (bytesLE 4 xfer))
  | .spareList m => m.asks 0x0033
  | .spareCommit m indices => m.asks 0x0034 && indices.all (fun i => decide (i < 2 ^ 16))
  | .pileReset m pile => m.asks 0x0035 && decide (pile < 256) && m.params (padded [pile])
  | .pileResetEnd _ => true
  | .powerSet m domain state =>
    m.asks 0x0036 && decide (domain < 2 ^ 16 ∧ state < 256) && m.params (padded (bytesLE 2 domain ++ [state]))
  | .jobLoad m xfer size _ _ =>
    m.asks 0x0040 && decide (xfer < 2 ^ 32 ∧ size < 2 ^ 64) && m.params (padded (bytesLE 4 xfer ++ bytesLE 8 size))
  | .jobStart m step seed => m.asks 0x0041 && m.params (bytesLE 8 step.toNat ++ bytesLE 8 seed.toNat)
  | .inputReady m step => m.asks 0x0042 && decide (step < 2 ^ 64) && m.params (bytesLE 8 step)
  | .resume m => m.asks 0x0043
  | .abort m => m.asks 0x0044
  | .abortWatchdog _ => true
  | .abortComplete micros => decide (micros < 2 ^ 32)
  | .jobUnload m => m.asks 0x0045
  | .jobStatus m => m.asks 0x0046
  | .fetch m name gmin xfer =>
    m.asks 0x0050 && decide (gmin < 2 ^ 64 ∧ xfer < 2 ^ 32) &&
      m.params (padded (bytesLE 16 name.toNat ++ bytesLE 8 gmin ++ bytesLE 4 xfer))
  | .listObjects m first => m.asks 0x0051 && decide (first < 2 ^ 32)
  | .records m p =>
    m.asks 0x0052 && decide (p.kind < 256 ∧ p.set < 256 ∧ p.pile < 256 ∧ p.first < 2 ^ 32 ∧ p.count < 2 ^ 32) &&
      m.params (padded ([p.kind, p.set, p.pile, 0] ++ bytesLE 4 p.first ++ bytesLE 4 p.count))
  | .pileHealth m pile => m.asks 0x0053 && decide (pile < 256) && m.params (padded [pile])
  | .tbCtlEnable m r => m.writes "TB_CTL" r
  | .lnkCtlEnable m r => m.writes "LNK_CTL" r
  | .memInject m r => m.writes "MEM_INJECT" r
  | .memBucketCtl m r => m.writes "MEM_BUCKET_CTL" r
  | .padRelease m r => m.writes "PAD_RELEASE" r
  | .cnop _ _ => true
  | .idle _ _ => true
  | .idleEnd _ _ => true
  | .sli _ _ => true
  | .salu _ _ => true
  | .smovp _ _ => true
  | .loop _ _ => true
  | .br _ _ => true
  | .gatew _ _ => true
  | .tileArrival _ _ => true
  | .waitLimit _ _ => true
  | .amm _ _ => true
  | .anop _ _ => true
  | .pendingStart _ _ _ => true
  | .arrayDone _ _ _ => true
  | .vnop _ _ => true
  | .vadd _ _ => true
  | .vsub _ _ => true
  | .vmul _ _ => true
  | .vfma _ _ => true
  | .vmin _ _ => true
  | .vmax _ _ => true
  | .vabs _ _ => true
  | .vneg _ _ => true
  | .vcmp _ _ => true
  | .vsel _ _ => true
  | .vcvt _ _ => true
  | .vsfu _ _ => true
  | .vsumw _ _ => true
  | .vssqw _ _ => true
  | .vmaxr _ _ => true
  | .vminr _ _ => true
  | .wadd _ _ => true
  | .wsub _ _ => true
  | .wmul _ _ => true
  | .wrd _ _ => true
  | .wbc _ _ => true
  | .wset _ _ => true
  | .vtopk _ _ => true
  | .vperm _ _ => true
  | .vld _ _ => true
  | .vst _ _ => true
  | .vldm _ _ => true
  | .vsti _ _ => true
  | .vmovi _ _ => true
  | .vmovs _ _ => true
  | .vmark _ _ => true
  | .mnop _ _ => true
  | .mvgo _ _ => true
  | .wait _ _ => true
  | .copy _ _ => true
  | .gather _ _ => true
  | .scatter _ _ => true
  | .moverDone _ _ => true
  | .wakeComplete domain => decide (domain < 2 ^ 16)
  | .entryComplete domain => decide (domain < 2 ^ 16)
  | .leak _ => true
  | .groom _ => true
  | .targetedGroom _ => true
  | .spareMove _ => true
  | .refresh _ => true
  | .doubledRefresh _ temp0 temp1 => tempOk temp0 && tempOk temp1
  | .overTemp _ temp0 temp1 => tempOk temp0 && tempOk temp1
  | .dramHotAbort _ temp0 temp1 => tempOk temp0 && tempOk temp1
  | .sendSample _ desc k _ => decide (desc < 4096 ∧ k < 65536)
  | .gondolaIngress _ _ way g _ => wayOk way && (match g with
    | some x => x.fits
    | none => true)
  | .switchReceive _ desc k _ => decide (desc < 4096 ∧ k < 65536)
  | .unschedFrame _ port useq f => portOk port && decide (useq < 256) && f.fits
  | .ulink _ port credits ackNext _ => portOk port && decide (credits < 256 ∧ ackNext < 256)
  | .unschedRetry _ port => portOk port
  | .linkBlock _ _ _ _ => true
  | .bridgeWaySlot _ _ _ way _ _ => wayOk way
  | .realignTimeout _ _ => true
  | .portTraining _ port _ => portOk port && port != 2 && port != 3
  | .swapRequest _ _ lane => decide (lane < 9)
  | .swapAck _ _ => true
  | .swapAckTimeout _ _ => true
  | .laneRetrain _ _ _ => true
  | .wireRepair _ _ group _ => groupOk group
  | .timingMark slot => decide (slot < 2 ^ 64)
  | .holdover => true
  | .pileArrival _ slot tree _ _ => decide (slot < 2 ^ 64 ∧ tree.children ≤ 8) && tree.parent.all wayOk &&
      tree.upsets.all (fun u => decide (u.line < if u.tile.isSome then 32768 else 131072))
  | .spareSubstitution _ _ => true
  | .arrive _ slot child children tok => decide (slot < 2 ^ 64 ∧ children ≤ 8) && wayOk child && tok.fits
  | .release _ tok => tok.fits
  | .gateTimeout => true
  | .gateOpen slot => decide (slot < 2 ^ 64)
  | .compress _ bucket index => decide (bucket < 2 ^ 32 ∧ index < 65536)
  | .readout _ bucket => decide (bucket < 2 ^ 32)
  | .updatePass1 _ layer => decide (layer < 65536)
  | .updatePass2 _ layer => decide (layer < 65536)
  | .relayLine _ _ => true
  | .ageingSample samples => decide (samples.length ≤ 193)
  | .governorUpdate w => decide (w < 2 ^ 16)
  | .pmbusPoll rs => decide (rs.length ≤ 16)
  | .pmbAlert status => status.all (fun x => decide (x.1 < 16))
  | .thermAlert _ temp => tempOk temp
  | .thermAlertRelease die dram => tempOk die && tempOk dram
  | .hotAbort _ temp => tempOk temp
  | .tripped temp => tempOk temp
  | .wake _ => true
  | .signalDetect => true
  | .pwrGoodFall => true
  | .pwrGoodRise => true
  | .resetNAssert => true
  | .resetNRelease => true
  | .uvTrip rail => decide (rail < 4)
  | .hubFault => true
  | .frequencyLock => true
  | .hostLinkDown => true
  | .unknownCommand m => m.ofType tyRequest && decide (m.mailbox ≤ 63) && decide (16 ≤ m.payload.length)
  | .memFillDone _ => true
  | .bringupStageEnd tests => decide (tests.length ≤ 16)
  | .fuseWordBurned => true
  | .hubEntryStart domain => decide (domain < 3)
  | .aonPowerUp => true
  | .aonPowerLoss => true
  | .referenceClockChange clock _ => decide (clock < 3)

end Sys2Proof
end

