-- ==== Sys2Proof/Safety.lean ====
section
/-! DEFINITION. What a safe run is, and the terms that statements use: the limits the spec sets on the block's state, when a
Lift message is taken, a request accepted and answered, and when a tile's bundle issues. -/

namespace Sys2Proof.Machine

/-! ## Legal states -/

/-- A register field's stored value lies within its width (R4). -/
def State.fieldsFit (s : State) : Prop := ∀ k : FKey, s.rd k < 2 ^ k.f.width

/-- The limits that hold in every state a run reaches: canonical memory and register map (log 6), fields within their widths,
at most four sessions and 16 half-open ones (R428, R430), at most 256 queued events (R444), and a field bank of at most 2,048
entries (R491). -/
structure State.Legal (s : State) : Prop where
  memory   : Memory.wf s = true
  sorted   : SMap.sorted s.regs = true
  fields   : s.fieldsFit
  sessions : s.sessions.length ≤ 4
  halfOpen : s.halfOpen.length ≤ 16
  events   : s.events.length ≤ 256
  bank     : s.fuses.field.length ≤ 2048

/-- Every bit of one number is set in another. -/
def Within {w : Nat} (a b : BitVec w) : Prop := a &&& b = a

/-- Fuses as they may follow other fuses (R528): burned bits stay, and the field bank only gains entries. -/
structure Fuses.Follows (before after : Fuses) : Prop where
  sv        : Within before.sv after.sv
  ownerKey  : Within before.ownerKey after.ownerKey
  ownerOk   : Within before.ownerOk after.ownerOk
  ownerHost : Within before.ownerHost after.ownerHost
  hostOk    : Within before.hostOk after.hostOk
  field     : before.field <+: after.field
  factory   : before.factory = after.factory

/-! ## Lift messages taken -/

/-- A frame that the host port passes on to Lift (R419, R420): the link is UP, it is whole and carries UDP, and VLAN, size and UDP port are
accepted. -/
structure State.Reaches (s : State) (m : LiftMsg) : Prop where
  up    : s.hostUp = true
  vlan  : s.rd (dk .HP_CTL_VID) = 0 ∨ m.vid = some (s.rd (dk .HP_CTL_VID))
  size  : datagramBytes m ≤ s.mtuFor m
  whole : m.frag = false
  udp   : m.udp = true
  port  : s.udpOk m = true

/-- No early message or request is being taken up (R431, R442, R502): between commands this always holds of the two marks. No request
waits, and no message is held that is due or that the next message of its session would make due. -/
structure State.Quiet (s : State) : Prop where
  due    : s.lift.due = false
  again  : s.lift.again = none
  parked : s.lift.parked = []
  held   : ∀ x ∈ s.sessions, ∀ h ∈ x.held, x.dlv + 1 < h.seq

/-- A message of open session `x` with a good header and TAG (R422, R429). -/
structure State.Genuine (s : State) (m : LiftMsg) (x : Session) : Prop where
  reaches : s.Reaches m
  open'   : s.session? m.session = some x
  header  : headerOk m = true
  tag     : m.tag = msgTag x.kIn m

/-- The state after an authenticated header's acknowledgements have been taken (R432). -/
def State.heard (s : State) (m : LiftMsg) : State := (authed m (fun _ => .done)).run s

/-- A genuine sequenced message whose turn it is (R431): its session is still open once its acknowledgements are taken, as `x`,
it carries the SEQ that is delivered next, and nothing waits that it would let go on. -/
structure State.InTurn (s : State) (m : LiftMsg) (x : Session) : Prop where
  genuine : ∃ y, s.Genuine m y
  open'   : (s.heard m).session? m.session = some x
  seq     : m.seq = x.dlv
  quiet   : s.Quiet

/-- Bulk bytes that a session's window takes (R434): none, or within the limit granted, counted in SEQ order. -/
def Session.within (x : Session) (m : LiftMsg) (b : Nat) : Prop := b = 0 ∨ x.bulkBefore m.seq + b ≤ x.granted

/-- The state after a message of the given bulk size was delivered and acknowledged (R431, R434). Its row matters only to a message that
is held. -/
def State.delivered (s : State) (m : LiftMsg) (bulk : Nat) : State := (sequenced m (.keepalive m) bulk (fun _ => .done)).run s

/-- The state after a request was taken by its mailbox, with nothing of its command done yet (R440). -/
def State.started (s : State) (m : LiftMsg) : State := (requestAny m (.keepalive m) (fun _ => .done)).run s

/-- A request that its mailbox takes (R439, R440): in its turn, to a mailbox that is free or its host's and is IDLE (an ABORT
excepted), with PARAM_LEN as the payload has it; in a boot-ROM session, a command that such a session takes (R427). -/
structure State.Taken (s : State) (m : LiftMsg) (x : Session) : Prop where
  inTurn : s.InTurn m x
  mb     : m.mailbox ≠ 0
  owner  : ((s.heard m).mailbox m.mailbox).owner = none ∨ ((s.heard m).mailbox m.mailbox).owner = some x.host
  idle   : ((s.heard m).mailbox m.mailbox).st = .idle ∨ reqCommand m = abortCode
  boot   : x.boot = true → bootCommands.contains (reqCommand m) = true
  length : reqParamLen m + 16 = m.payload.length

/-- An ABORT finds no other request outstanding on its mailbox, so that its reply need not wait (R443). -/
def State.lone (s : State) (m : LiftMsg) : Prop := reqCommand m = abortCode →
  ((s.heard m).mailbox m.mailbox).busy = ((s.heard m).mailbox m.mailbox).aborts ∧ ((s.heard m).mailbox m.mailbox).deferred = []

/-- A request taken whose parameters are whole words of 8 bytes and whose reserved parameter fields are zero (R455, R457). -/
structure State.Heeded (s : State) (m : LiftMsg) (x : Session) : Prop extends s.Taken m x where
  words    : reqParamLen m % 8 = 0
  reserved : reservedBad m = none

/-- One whose reply need not wait for another. -/
structure State.Accepted (s : State) (m : LiftMsg) (x : Session) : Prop extends s.Heeded m x where
  lone : s.lone m

/-- The request that an accepted message makes. -/
def reqOf (m : LiftMsg) (x : Session) : Req := ⟨m.session, x.host, m.mailbox, reqCommand m, reqTag m⟩

/-- A mailbox has been handed a reply (R439, R440): it is DONE, and the reply follows those it held before. -/
def Answered (before after : State) (r : Req) (status detail : Nat) (data : List Nat) : Prop :=
  (after.mailbox r.mb).st = .done ∧
  ((before.mailbox r.mb).replies ++ [replyBytes r status detail data]) <+: (after.mailbox r.mb).replies

/-- A transfer stands open in a session. -/
def State.HasXfer (s : State) (session : Nat) (x : Xfer) : Prop := ∃ y, s.session? session = some y ∧ x ∈ y.xfers

/-- A request has opened a transfer and has no reply yet: its mailbox stands as it did when it took the request. -/
structure Opened (before after : State) (m : LiftMsg) (z : Xfer) : Prop where
  xfer : after.HasXfer m.session z
  busy : after.mailbox m.mailbox = (before.started m).mailbox m.mailbox

/-- No other session of a session's host key is open. -/
def State.lonely (s : State) (id : Nat) : Prop := ∀ x, s.session? id = some x → ∀ y ∈ s.sessions, y.host = x.host → y.id = id

/-- No open transfer of a session, and no fill, acts on lines that a run meets (R442). -/
def State.noneAhead (s : State) (session : Nat) (a : LineRun) : Prop :=
  (∀ y ∈ s.sessions, y.id = session → ∀ z ∈ y.xfers, ∀ b ∈ xferRuns z, a.meets b = false) ∧
  ∀ p f, p < 16 → (s.pile p).mem.fill = some f → a.meets ⟨p, f.first, f.lines, true⟩ = false

/-- A command reaches a pile's memory at once (R17, R475, R502): the switch is ON, core and memory are awake, and no bring-up runs. -/
structure State.MemUp (s : State) (p : Nat) : Prop where
  pile : p < 16
  boot : s.boot.run = none
  sw   : s.power (domSw p) = 0
  ctl  : s.ready (domCtl p) = true
  mem  : s.ready (domMem p) = true

/-- A register write that is not refused (R458, R459): of `y`, the register that `r` names. -/
structure State.Writable (s : State) (r : RegReq) (y : RegPlace) : Prop where
  place   : regPlace r = .ok y
  present : s.regAbsent y = false
  one     : r.count = 1
  width   : y.spec.width ≤ 128
  free    : s.jobState ≠ jsAborting ∨ writeDetail (y.spec.fields.filter (Machine.touches r)) = 0
  allowed : s.writeRefused r y = none

/-! ## Tiles at issue -/

/-- Bundle `b` is at PC and issues: the sequencer runs outside fault mode, no fault condition of R165 is met, and no slot is
held back (R138). -/
structure State.Issues (s : State) (p t : Nat) (b : Bundle) : Prop where
  go     : s.seqGo p t = true
  sound  : s.faultMode p t = false
  at'    : s.bundle p t = b
  legal  : (s.tile p t).issued.checked = true ∨ s.bundleFaults p t b false = []
  free   : (s.tile p t).issued.started = true ∨ s.heldBy p t b = 0

/-- Bundle `b` is at PC, and its control slot issues it: its other slots have issued or have nothing to issue. In fault mode the
control slot alone counts (R166). -/
structure State.IssuesLast (s : State) (p t : Nat) (b : Bundle) : Prop where
  go    : s.seqGo p t = true
  at'   : s.bundle p t = b
  legal : (s.tile p t).issued.checked = true ∨ s.bundleFaults p t b (s.faultMode p t) = []
  free  : (s.tile p t).issued.started = true ∨ s.faultMode p t = true ∨ s.heldBy p t b = 0
  done  : s.slotsDone p t b = true

/-- The bundle's vector slot is operation `v` and has not issued. -/
def State.IssuesV (s : State) (p t : Nat) (b : Bundle) (v : VSlot) : Prop :=
  s.Issues p t b ∧ vslot b = v ∧ (s.tile p t).issued.v = false

/-! ## Counters and frames -/

/-- A counter raised (R4): one below 64 bits stops at all ones, a 64-bit one wraps (log 22). -/
def State.counted (s : State) (k : FKey) (n : Nat) : Nat :=
  if k.f.width < 64 then min (s.rd k + n) (2 ^ k.f.width - 1) else (s.rd k + n) % 2 ^ k.f.width

/-- No register field changes but those named; two keys name one field where their codes agree. -/
def RegsKept (before after : State) (but : FKey → Prop) : Prop :=
  ∀ k : FKey, (∀ j : FKey, but j → j.code ≠ k.code) → after.rd k = before.rd k

/-- The counters that receiving and sending raise. -/
def liftFlds : List Fld := [
  .HP_RX_FRAMES, .HP_TX_FRAMES, .HP_RX_OVERSIZE, .HP_RX_DISCARD, .LIFT_MAC_FAIL, .LIFT_RETX, .LIFT_DUP, .LIFT_CREDIT_VIOL, .LIFT_MB_REFUSED]

/-- What receiving, acknowledging and replying leave unchanged. -/
structure LiftSame (s t : State) : Prop where
  rd      : ∀ k : FKey, k.f ∉ liftFlds → t.rd k = s.rd k
  tile    : ∀ p n, t.tile p n = s.tile p n
  pile    : ∀ p, t.pile p = s.pile p
  port    : ∀ p k, t.port p k = s.port p k
  bridge  : ∀ p d, t.bridge p d = s.bridge p d
  dram    : t.dram = s.dram
  sram    : t.sram = s.sram
  hold    : t.hold = s.hold
  halves  : t.halfOpen = s.halfOpen
  events  : t.events = s.events
  job     : t.job = s.job
  fuses   : t.fuses = s.fuses
  sec     : t.sec = s.sec
  boot    : t.boot = s.boot
  pwr     : t.pwr = s.pwr
  free    : t.free = s.free
  pending : t.pending = s.pending

/-- No tile changes but the one named, nor a line of DRAM, a session, a fuse or the job. -/
structure OnlyTile (before after : State) (p t : Nat) : Prop where
  tiles    : ∀ p' t', p' * 9 + t' ≠ p * 9 + t → after.tile p' t' = before.tile p' t'
  dram     : ∀ a, after.dramWord a = before.dramWord a
  sessions : after.sessions = before.sessions
  fuses    : after.fuses = before.fuses
  job      : after.job = before.job

/-- Fields of tile `t` of pile `p`. -/
def ofTile (p t : Nat) (fs : List Fld) (k : FKey) : Prop := ∃ f ∈ fs, ∃ i, k = tk f p t i

/-- What a slot leaves unchanged that touches neither memory nor its pile: beside the tile's own state, every register field but
those named and the stall's. -/
structure Slotted (before after : State) (p t : Nat) (fs : List Fld) : Prop where
  only  : OnlyTile before after p t
  piles : ∀ q, after.pile q = before.pile q
  sram  : after.sram = before.sram
  out   : after.out = before.out
  regs  : RegsKept before after (ofTile p t ([.TSQ_STATUS_STALL, .TSQ_STALL_CLK] ++ fs))

/-! ## What tiles do -/

/-- A bundle has issued, and issue goes on at the next bundle or a loop's first (R140, R142), from the given counters and active
loops. -/
structure MovedOn (s t : State) (p n : Nat) (lcs : SMap Word) (loops : List LoopFrame) : Prop where
  pc    : t.rd (tk .TSQ_STATUS_PC p n) = clipTo 13 (loopNext lcs (s.rd (tk .TSQ_STATUS_PC p n)) loops).pc
  left  : (t.tile p n).loops = (loopNext lcs (s.rd (tk .TSQ_STATUS_PC p n)) loops).loops
  count : ∀ k, SMap.getD (t.tile p n).lcs k 0 = match (loopNext lcs (s.rd (tk .TSQ_STATUS_PC p n)) loops).lc with
    | some q => if k = q.1 then BitVec.ofNat 32 q.2 else SMap.getD lcs k 0
    | none => SMap.getD lcs k 0

/-- A control slot has issued, and its bundle with it (R170); `gate` is the PC of the tile's last GATEW. -/
structure CtlDone (s t : State) (p n : Nat) (fs : List Fld) (gate : Nat) : Prop where
  slot  : Slotted s t p n ([.TSQ_ISSUE, .TSQ_STATUS_PC] ++ fs)
  issue : t.rd (tk .TSQ_ISSUE p n) = s.counted (tk .TSQ_ISSUE p n) 1
  tile  : t.tile p n = { s.tile p n with
    issued := { fetch := (t.tile p n).issued.fetch }, loops := (t.tile p n).loops, lcs := (t.tile p n).lcs, sregs := (t.tile p n).sregs, gatePc := gate }

/-- A scalar register takes a value; S0 stays zero (R142). -/
def SregTaken (s t : State) (p n d : Nat) (w : Word) : Prop := ∀ k, t.sreg p n k = if k = d ∧ k ≠ 0 then w else s.sreg p n k

/-- The counters of a vector unit. -/
def vecCounters : List (Fld × (LaneOut → Nat)) := [
  (.VEC_NONFINITE_IN, LaneOut.nfIn), (.VEC_NONFINITE_OUT, LaneOut.nfOut), (.VEC_DOMAIN, LaneOut.domain), (.VEC_FLUSH_OUT, LaneOut.flush)]

/-- A vector operation has issued: it takes the next sequence number, and beside vector, predicate and wide registers nothing else
of the tile changes (R133). -/
structure VecDone (s t : State) (p n : Nat) : Prop where
  seq  : t.rd (tk .VEC_STATUS_OP_SEQ p n) = (s.tile p n).vecSeq % 65536
  tile : t.tile p n = { s.tile p n with
    issued := (t.tile p n).issued, vecSeq := (s.tile p n).vecSeq + 1
    sfuUsed := (t.tile p n).sfuUsed, topUsed := (t.tile p n).topUsed, vregs := (t.tile p n).vregs, pregs := (t.tile p n).pregs
    wregs := (t.tile p n).wregs }
  once : (t.tile p n).issued.v = true

/-- What a vector operation leaves unchanged that touches no memory. -/
def VecSlotted (s t : State) (p n : Nat) : Prop :=
  Slotted s t p n (.VEC_STATUS_OP_SEQ :: .VEC_STATUS_WIDE_INF :: vecCounters.map Prod.fst)

/-- Vector registers but those named, predicates and wide accumulators are unchanged. -/
structure OnlyVregs (s t : State) (p n : Nat) (ds : List Nat) : Prop where
  vregs : ∀ k, k ∉ ds → t.vreg p n k = s.vreg p n k
  pregs : (t.tile p n).pregs = (s.tile p n).pregs
  wregs : (t.tile p n).wregs = (s.tile p n).wregs

/-- Active lanes of VD have taken their results, poisoned also where their predicate bit is (R135), inactive lanes keep their
values (R121), and the counters rise by what the active lanes count (R134). -/
structure LanesTaken (s t : State) (p n : Nat) (v : VSlot) (f : Nat → LaneOut) : Prop where
  done   : VecDone s t p n
  frame  : VecSlotted s t p n
  regs   : OnlyVregs s t p n [v.vd]
  on     : ∀ i, i < 256 → s.laneOn p n v i = true →
    lane (t.vreg p n v.vd) i = { (f i).lane with poison := (f i).lane.poison || s.lanePoison p n v i }
  off    : ∀ i, i < 256 → s.laneOn p n v i = false → lane (t.vreg p n v.vd) i = lane (s.vreg p n v.vd) i
  counts : ∀ q ∈ vecCounters, t.rd (tk q.1 p n) = s.counted (tk q.1 p n) (((s.activeLanes p n v).map (fun i => q.2 (f i))).sum)

/-- A wide accumulator has taken a value, and WIDE_INF shows one that is not finite (R124, R133). -/
structure WideTaken (s t : State) (p n d : Nat) (w : Wide) : Prop where
  done  : VecDone s t p n
  frame : VecSlotted s t p n
  value : t.wreg p n d = w
  rest  : ∀ k, k ≠ d → t.wreg p n k = s.wreg p n k
  vregs : (t.tile p n).vregs = (s.tile p n).vregs
  pregs : (t.tile p n).pregs = (s.tile p n).pregs
  inf   : t.rd (tk .VEC_STATUS_WIDE_INF p n) = if w.num.finite = true then s.rd (tk .VEC_STATUS_WIDE_INF p n) else 1

/-- Memory is unchanged but at the addresses named. -/
def StoreKept (before after : State) (but : Bool → Nat → Prop) : Prop :=
  (∀ a, ¬ but true a → after.dramWord a = before.dramWord a) ∧ ∀ a, ¬ but false a → after.sramLine a = before.sramLine a

/-- A line as a read delivers it (R358, R503). -/
def State.lineAt (s : State) (p : Nat) (sp : Space) (t line : Nat) : Line := match sp with
  | .dram => if s.power (domMem p) = 2 then blankLine else (decodeWord (s.dramWord (dramAddr p line))).line
  | .buf => s.sramLine (bufAddr p line)
  | .ls => s.sramLine (lsAddr p t line)

/-- A MEM domain is written as it stands: it is not OFF and no injection is armed (R376, R503). -/
def State.memPlain (s : State) (p : Nat) : Prop := s.power (domMem p) ≠ 2 ∧ s.on (pk .MEM_INJECT_ARMED p) = false

/-- A line of the tile's local store, one of a run from `first` on. -/
def inLs (p t first n : Nat) (dram : Bool) (a : Nat) : Prop := dram = false ∧ lsAddr p t first ≤ a ∧ a < lsAddr p t first + n

/-- A run of lines stands in the tile's local store, and no other line has changed. -/
def LinesStored (s t : State) (p n first : Nat) (ls : List Line) : Prop :=
  (∀ k l, ls[k]? = some l → t.sramLine (lsAddr p n (first + k)) = l) ∧ StoreKept s t (inLs p n first ls.length)

/-- An operation has started on an array: what it delivers is what its operands give now (R147, log 9). -/
structure OpStarted (s t : State) (p n a : Nat) (o : ArrOp) : Prop where
  running : ((t.tile p n).arr a).running = ((s.tile p n).arr a).running ++
    [(o, arrResult a o ((s.tile p n).arr a).bank (s.tileOuts p n a o))]
  fmts    : t.rd (tk .ARR_STATUS_FMT_A p n a) = clipTo 4 o.fmtA ∧ t.rd (tk .ARR_STATUS_FMT_B p n a) = clipTo 4 o.fmtB ∧
    t.rd (tk .ARR_STATUS_FMT_C p n a) = clipTo 4 o.fmtC
  checks  : t.rd (tk .CHK_BLOCK_FAIL p n) =
    s.counted (tk .CHK_BLOCK_FAIL p n) (((s.tileOuts p n a o).map TileOut.bad).sum)

/-- A line's home: in DRAM or on the die, and its address there. -/
def homeOf (p : Nat) (sp : Space) (t line : Nat) : Bool × Nat := match sp with
  | .dram => (true, dramAddr p line)
  | .buf => (false, bufAddr p line)
  | .ls => (false, lsAddr p t line)

/-- Where line `i` of run `j` of a descriptor reads (R153). -/
def State.moveFrom (s : State) (p t : Nat) (o : MvOp) (j i : Nat) : Option Nat := match s.runPick p t o j with
  | .move v => some (runLine o.srcLine o.srcStride (if o.typ = 1 then v else j) i)
  | _ => none

/-- Where it writes. -/
def State.moveTo (s : State) (p t : Nat) (o : MvOp) (j i : Nat) : Option Nat := match s.runPick p t o j with
  | .move v => some (runLine o.dstLine o.dstStride (if o.typ = 2 then v else j) i)
  | _ => if o.typ = 1 then some (runLine o.dstLine o.dstStride j i) else none

/-- What arrives there (R154, R157): the source's line, poisoned where it fails its check, or for a GATHER's entry that names none a
line of zeros, poisoned at an index fault. -/
def State.moved (s : State) (p t : Nat) (o : MvOp) (j i : Nat) : Line := match s.moveFrom p t o j i with
  | some n =>
    let l := s.lineAt p o.srcSpace o.srcTile n
    { l with poison := l.poison || ((o.check || s.checking p) && !lineCheckOk l) }
  | none => fillLine o.fillFmt i (s.runPick p t o j == .fault)

/-- A DRAM line and an on-die line as they stand once what a tile's mover has in flight is written: the last write to a line
stays (R158). -/
def State.soonDram (s : State) (p t a : Nat) : Codeword :=
  (((s.tile p t).flight.reverse.find? (fun w => homeOf p w.space w.tile w.at' == (true, a))).map (fun w => encodeWord w.line)).getD (s.dramWord a)
def State.soonSram (s : State) (p t a : Nat) : Line :=
  (((s.tile p t).flight.reverse.find? (fun w => homeOf p w.space w.tile w.at' == (false, a))).map InFlight.line).getD (s.sramLine a)

/-- A line as it stands once what is in flight is written. -/
def State.SoonHolds (s : State) (p t : Nat) (sp : Space) (tile line : Nat) (l : Line) : Prop := match homeOf p sp tile line with
  | (true, a) => s.soonDram p t a = encodeWord l
  | (false, a) => s.soonSram p t a = l

/-- Once what is in flight is written, memory is unchanged but at the addresses named. -/
def SoonKept (before after : State) (p t : Nat) (but : Bool → Nat → Prop) : Prop :=
  (∀ a, a < 16 * dramLines → ¬ but true a → after.soonDram p t a = before.soonDram p t a) ∧
  ∀ a, a < sramLines → ¬ but false a → after.soonSram p t a = before.soonSram p t a

/-- A mover starts descriptor `q`, which is `o` with its tiles by the map in force: its memories are awake, its lines lie in their
spaces, no line that it writes is one that it reads or writes again, and nothing in flight is going to a line that it reads. -/
structure State.MoveGo (s : State) (p t : Nat) (q o : MvOp) : Prop where
  next : (s.tile p t).nextMove = some q
  tiles : o = s.mvPlaced p t q
  rests : (s.tile p t).mover = (s.tile p t).moverRests
  run  : s.unitsRun p t = true
  src  : s.mustWait p o.srcSpace o.srcTile = false
  dst  : s.mustWait p o.dstSpace o.dstTile = false
  span : s.mvSpan p t q = []
  tile : o.dstTile < 9
  dram : (o.srcSpace = .dram ∨ o.dstSpace = .dram ∨ ∃ w ∈ (s.tile p t).flight, w.space = .dram) → s.memPlain p
  clear : ∀ w ∈ (s.tile p t).flight, ∀ j i, j < o.count1 → i < o.count0 →
    (∀ b, s.moveFrom p t o j i = some b → homeOf p w.space w.tile w.at' ≠ homeOf p o.srcSpace o.srcTile b) ∧
    (o.typ = 0 ∨ homeOf p w.space w.tile w.at' ≠ homeOf p .ls t (o.indexLine + j / 64))
  once : ∀ j i j' i' a b, j < o.count1 → i < o.count0 → j' < o.count1 → i' < o.count0 → s.moveTo p t o j i = some a →
    s.moveTo p t o j' i' = some b → homeOf p o.dstSpace o.dstTile a = homeOf p o.dstSpace o.dstTile b → j = j' ∧ i = i'
  apart : ∀ j i j' i' a b, j < o.count1 → i < o.count0 → j' < o.count1 → i' < o.count0 → s.moveTo p t o j i = some a →
    s.moveFrom p t o j' i' = some b → homeOf p o.dstSpace o.dstTile a ≠ homeOf p o.srcSpace o.srcTile b
  index : ∀ j i j' a, j < o.count1 → i < o.count0 → j' < o.count1 → s.moveTo p t o j i = some a →
    o.typ = 0 ∨ homeOf p o.dstSpace o.dstTile a ≠ homeOf p .ls t (o.indexLine + j' / 64)

/-! ## Power -/

/-- Everything but AON is OFF with its outputs held, and what it held is lost (R553). -/
structure State.Down (s : State) : Prop where
  off      : ∀ d, domainExists d = true → d ≠ 0 → s.power d = 2 ∧ s.on (pHeld d) = true
  sessions : s.sessions = []
  halves   : s.halfOpen = []
  events   : s.events = []
  job      : s.jobState = jsNone
  memory   : s.dram = [] ∧ s.sram = []

/-- Stage 1 of bring-up runs: the hub is ON, and nothing else but AON (R473). -/
structure State.Booting (s : State) : Prop where
  hub      : s.power 1 = 0 ∧ s.on (pHeld 1) = false
  off      : ∀ d, domainExists d = true → 2 ≤ d → s.power d = 2
  stage    : s.boot.stage1 = false ∧ s.boot.run = none
  sessions : s.sessions = []
  halves   : s.halfOpen = []
  job      : s.jobState = jsNone
  bundle   : s.rd (dk .SEC_STATUS_BUNDLE_OK) = 0

/-- What the AON island keeps is unchanged (R498, R553), but for the fields named. -/
def AonKept (before after : State) (but : List Fld) : Prop :=
  ∀ f ∈ aonFlds, f ∉ but → ∀ i, after.rd (dk f i) = before.rd (dk f i)

/-- A domain is in no transition. -/
structure State.Still (s : State) (d : Nat) : Prop where
  entering : s.on (pEnter d) = false
  waking   : s.on (pWake d) = false
  to'      : (s.dom d).to' = none
  next     : (s.dom d).next = none

/-- One event has been raised (R444, R467): sent at once where MB00 is held and nothing is outstanding, queued while fewer than
256 are, and else counted as lost. -/
def Raised (before after : State) (code pile : Nat) (payload : List Nat) : Prop :=
  if before.lift.outEvt = none ∧ before.events = [] ∧ before.lift.mb00Ses.isSome = true then
    ∃ e, after.lift.outEvt = some e ∧ e.code = code ∧ e.pile = pile ∧ e.payload = toBytes payload ∧ after.events = []
  else if before.events.length < 256 then
    ∃ e, after.events = before.events ++ [e] ∧ e.number = before.lift.lastNum + 1 ∧ e.code = code ∧ e.pile = pile ∧
      e.payload = toBytes payload
  else after.events = before.events ∧ after.lift.lost = before.lift.lost + 1 ∧ after.rd (dk .EVT_LOST) = before.counted (dk .EVT_LOST) 1

/-! ## Memory, gates -/

/-- A line as the RUE reads it (R393). -/
def State.rueLine (s : State) (p : Nat) (sp : Space) (line : Nat) : Line :=
  let l := s.lineAt p sp 0 line
  { l with poison := l.poison || (s.checking p && !lineCheckOk l) }

/-- A line as it is stored. -/
def State.Holds (s : State) (p : Nat) (sp : Space) (t line : Nat) (l : Line) : Prop := match sp with
  | .dram => s.dramWord (dramAddr p line) = encodeWord l
  | .buf => s.sramLine (bufAddr p line) = l
  | .ls => s.sramLine (lsAddr p t line) = l

/-- A line's place: in DRAM, or on the die. -/
def isHome (p : Nat) (sp : Space) (t line : Nat) (dram : Bool) (a : Nat) : Prop := match sp, dram with
  | .dram, true => a = dramAddr p line
  | .buf, false => a = bufAddr p line
  | .ls, false => a = lsAddr p t line
  | _, _ => False

/-- A RUE operation can run: a phase of the pile runs, its control cores are ON and its memory is awake (R222, R502). -/
structure State.RueGo (s : State) (p : Nat) (usesBuf : Bool) : Prop where
  phase : s.inPhase p = true
  ctl   : s.ready (domCtl p) = true
  reset : (s.pile p).resetSrc = 0
  mem   : s.mustWait p .dram 0 = false
  buf   : usesBuf = true → s.mustWait p .buf 0 = false
  plain : s.memPlain p

/-- The piles whose RELEASE names an opening slot. -/
def State.opening (s : State) (slot : Nat) : List Nat :=
  s.usedPiles.filter (fun p => s.jobStarted && s.rd (pk .GATE_STATUS_STATE p) == 2 && ((s.pile p).gate.rel.map Prod.fst) == some slot)

/-- A phase has opened on a pile (R160, R178). -/
structure PhaseOpened (t : State) (p slot idx entry iter : Nat) (e : PhaseEntry) : Prop where
  state  : t.rd (pk .GATE_STATUS_STATE p) = 0
  phase  : t.rd (pk .GATE_STATUS_PHASE p) = clipTo 16 idx
  finish : t.on (pk .GATE_STATUS_FINISH_PHASE p) = e.finish
  head   : t.on (pk .GATE_STATUS_HEAD_PHASE p) = e.head
  mode   : t.rd (pk .SW_STATUS_MODE p) = 2
  page   : t.rd (pk .SW_STATUS_PAGE p) = clipTo 4 e.page
  gate   : (t.pile p).gate = openedGate slot entry iter
  tiles  : ∀ i, i < 9 → (t.tile p i).arrived = false ∧ t.on (tk .TSQ_STATUS_IN_GATE p i) = false

/-- Writes wait as their registers' columns have it (R6, R7), each field once, and only such fields are kept for R8. -/
def State.heldRight (s : State) : Prop :=
  (∀ w ∈ s.hold.waiting, w.key.f.spec.acc = if w.strict then .rws else .rwg) ∧ (s.hold.waiting.map (fun w => w.key.code)).Nodup ∧
  ∀ w ∈ s.hold.frozen ++ s.hold.base ++ s.hold.log.map Prod.snd, w.key.f.spec.acc = .rws ∨ w.key.f.spec.acc = .rwg

/-- A request that waits can be answered at once: a session of its host key is open, and an ABORT's reply waits for no other (R443). -/
def State.hears (s : State) (r : Req) : Prop := (∃ x, s.replySession r = some x) ∧
  (r.cmd = abortCode → (s.mailbox r.mb).busy = (s.mailbox r.mb).aborts ∧ (s.mailbox r.mb).deferred = [])

end Sys2Proof.Machine
end

