-- ==== Sys2Proof/Certificates/Slice0/Obligations.lean ====
section
/-! DEFINITION. The statements for the provers. -/

section

open Sys2Proof Sys2Proof.Machine

/-! ## The machine -/

/-- A step runs the command at the front of the queue on the state with the queue's rest; with an empty queue the block idles
(the model's own choice, log 20). -/
def Obligations.StepRunsFront : Prop :=
  ∀ s : State, (s.pending = [] → step s = .next s) ∧
    ∀ (c : Instr) (rest : List Instr), s.pending = c :: rest → step s = exec c { s with pending := rest }

/-- The state after reset is legal. -/
def Obligations.ResetLegal : Prop := State.Legal State.reset

/-- Every step from a legal state leads to a legal state: memory and register map in canonical form, every field within its
width, and the limits on sessions, half-open sessions, events and fuse entries. -/
def Obligations.StepKeepsLegal : Prop := ∀ s t : State, s.Legal → step s = .next t → t.Legal

/-- No command clears a burned fuse bit or a fuse entry (R528). -/
def Obligations.FusesStayBurned : Prop := ∀ (c : Instr) (s t : State), exec c s = .next t → Fuses.Follows s.fuses t.fuses

/-- A command ends in a next state, leaves the queue of waiting commands alone and takes nothing back that was sent (the model's
own bookkeeping, log 7 and 20). -/
def Obligations.CommandsGoOn : Prop :=
  ∀ (c : Instr) (s : State), ∃ t, exec c s = .next t ∧ t.pending = s.pending ∧ s.out <+: t.out ∧ s.free ≤ t.free

/-- Reserved bits read as zero, and a write ignores what it carries in them (R5). -/
def Obligations.ReservedBitsReadZero : Prop :=
  (∀ (s : State) (r : RegSpec) (p t i j b : Nat), s.Legal → r ∈ regTable →
    (∀ f ∈ r.fields, ¬ (f.spec.lo ≤ b ∧ b < f.spec.lo + f.width)) → (s.regValue r p t i j).testBit b = false) ∧
  (∀ (s : State) (m : LiftMsg) (r : RegReq) (x : RegPlace) (v : BitVec 128), regPlace r = .ok x →
    (∀ f ∈ x.spec.fields, fieldBits f v.toNat = fieldBits f r.value.toNat) →
    exec (.regWrite m { r with value := v }) s = exec (.regWrite m r) s)

/-! ## Sessions (chapter 15) -/

/-- An acceptable HELLO is answered (R424-R428): with an ACCEPT and a session half open under a fresh identifier, or, where the
shared secret is all zero, with REJECT reason 6. The device's ephemeral key is a free value (log 15). -/
def Obligations.HelloAnswered : Prop :=
  ∀ (s : State) (m : LiftMsg), s.Reaches m → s.halfOpen.length < 16 → s.sessions.length < 4 → m.magic = 0x4C46 → m.version = 1 →
    m.type = tyHello → m.payload.length = 104 → m.length = 104 → m.session = 0 → 1280 ≤ natBE (bytesAt m.payload 96 2) →
    s.hostKeyOk (bytesAt m.payload 64 32) = true →
    ∃ t a, exec (.hello m) s = .next t ∧ t.sessions = s.sessions ∧ t.out = s.out ++ [.lift m.src a] ∧
      if x25519 (Config.random s.free).toNat (ofLE ((ofBytes m.payload).take 32)) = 0 then
        t.halfOpen = s.halfOpen ∧ a.type = tyReject ∧ a.payload = toBytes (bytesBE 4 6)
      else ∃ h, t.halfOpen = s.halfOpen ++ [h] ∧ h.src = m.src ∧ h.host = (m.payload.drop 64).take 32 ∧ h.hello = m.payload ∧
        h.mtu = min (natBE (bytesAt m.payload 96 2)) s.lift.mtu ∧ h.boot = !s.on (dk .SEC_STATUS_BUNDLE_OK) ∧
        h.id ≠ 0 ∧ (∀ x ∈ s.sessions, x.id ≠ h.id) ∧ (∀ y ∈ s.halfOpen, y.id ≠ h.id) ∧
        a.type = tyAccept ∧ a.session = h.id ∧ a.payload = h.accept

/-- A HELLO that the device does not take (R428): with 16 sessions half open it is dropped; else a REJECT carries the reason of
the first check that fails, in the order of log 13 (DESIGN CHOICE). -/
def Obligations.HelloRefused : Prop :=
  ∀ (s : State) (m : LiftMsg), s.Reaches m →
    (16 ≤ s.halfOpen.length → ∃ t, exec (.hello m) s = .next t ∧ t.halfOpen = s.halfOpen ∧ t.out = s.out) ∧
    ∀ reason, s.halfOpen.length < 16 →
      (reason = 1 ∧ (m.magic ≠ 0x4C46 ∨ m.version ≠ 1) ∨
       (m.magic = 0x4C46 ∧ m.version = 1 ∧ m.type = tyHello ∧ m.payload.length = 104 ∧ m.length = 104 ∧ m.session = 0 ∧
        (reason = 5 ∧ natBE (bytesAt m.payload 96 2) < 1280 ∨
         (1280 ≤ natBE (bytesAt m.payload 96 2) ∧
          (reason = 2 ∧ s.hostKeyOk (bytesAt m.payload 64 32) = false ∨
           (s.hostKeyOk (bytesAt m.payload 64 32) = true ∧ reason = 3 ∧ 4 ≤ s.sessions.length)))))) →
      ∃ t a, exec (.hello m) s = .next t ∧ t.halfOpen = s.halfOpen ∧ t.sessions = s.sessions ∧ t.out = s.out ++ [.lift m.src a] ∧
        a.type = tyReject ∧ a.session = 0 ∧ a.tag = [] ∧ a.payload = toBytes (bytesBE 4 reason)

/-- A CONFIRM whose signature and TAG verify opens the half-open session it names, and is acknowledged (R426). -/
def Obligations.ConfirmOpens : Prop :=
  ∀ (s : State) (m : LiftMsg) (h : HalfOpen), s.Reaches m → s.half? m.session = some h → s.session? m.session = none →
    s.sessions.length < 4 → headerOk m = true → m.type = tyConfirm → m.seq = 0 → m.tag = msgTag h.kIn m →
    edVerify (ofBytes h.host) (sha512 (ofBytes h.hello ++ ofBytes h.accept)) (ofBytes m.payload) = true →
    ∃ t x a, exec (.confirm m) s = .next t ∧ t.half? m.session = none ∧ t.session? m.session = some x ∧
      t.sessions.length = s.sessions.length + 1 ∧ x.host = h.host ∧ x.kIn = h.kIn ∧ x.kOut = h.kOut ∧ x.mtu = h.mtu ∧
      x.boot = h.boot ∧ x.src = m.src ∧ x.dlv = 1 ∧ Out.lift m.src a ∈ t.out ∧ a.type = tyAckOnly ∧ a.session = m.session ∧
      (h.events = true → s.mb00Free h.host = true → t.lift.mb00 = some h.host ∧ t.lift.mb00Ses = some m.session)

/-- ACK_ONLY and KEEPALIVE do what every authenticated header does (R430, R432): replies follow the sender, the host's limit is
taken, what is acknowledged is released, what is not is kept; and where the device's CLOSE is acknowledged the session ends. -/
def Obligations.AcksTaken : Prop :=
  ∀ (s : State) (m : LiftMsg) (x : Session), s.Quiet → s.Genuine m x →
    ∃ t, exec (.ackOnly m) s = .next t ∧ exec (.keepalive m) s = .next t ∧
      if x.unacked.any (fun u => u.msg.type == tyClose && acks m u.seq) = true then t.session? m.session = none
      else ∃ y, t.session? m.session = some y ∧ y.src = m.src ∧ y.hostLim = max x.hostLim m.credit ∧ y.dlv = x.dlv ∧
        (∀ u ∈ y.unacked, acks m u.seq = false ∨ x.txNext ≤ u.seq) ∧
        (∀ u ∈ x.unacked, acks m u.seq = false → ∃ v ∈ y.unacked, v.seq = u.seq)

/-- The ways a session ends (R430, R432): IDLE_S without a message, a message unacknowledged for 2 s, which is counted, and a
CLOSE of the host's, once acknowledged. Where it is its key's only session and no transfer of its stands open, mailboxes stay held for
its key (R441) and other sessions are as they were; a transfer's request ends ABORTED (the model's choice, log 149). A half-open
session that gets no CONFIRM is discarded (R428). -/
def Obligations.SessionsEnd : Prop :=
  (∀ (s : State) (id : Nat), s.Quiet → ∃ t, exec (.idleTimeout id) s = .next t ∧ t.session? id = none ∧
    (s.lonely id → (∀ x, s.session? id = some x → x.xfers = []) → (∀ j, j ≠ id → t.session? j = s.session? j) ∧
      t.mailboxes = s.mailboxes ∧ t.lift.mb00 = s.lift.mb00 ∧
      (s.lift.mb00Ses = some id → (s.session? id).isSome = true → t.lift.mb00Ses = none)) ∧
    (∀ x z, s.lonely id → s.session? id = some x → x.xfers = [z] → z.drop = false → z.req.hostKey = x.host → z.req.cmd ≠ abortCode →
      (s.mailbox z.req.mb).expired = false → Answered s t z.req stAborted z.next [])) ∧
  (∀ (s : State) (id q : Nat) (x : Session), s.Quiet → s.session? id = some x → (∃ u ∈ x.unacked, u.seq = q) →
    ∃ t, exec (.sessionFail id q) s = .next t ∧ t.session? id = none ∧
      t.rd (dk .LIFT_SESSION_FAIL) = s.counted (dk .LIFT_SESSION_FAIL) 1 ∧
      (s.lonely id → x.xfers = [] → (∀ j, j ≠ id → t.session? j = s.session? j) ∧ t.mailboxes = s.mailboxes)) ∧
  (∀ (s : State) (m : LiftMsg) (x : Session), s.InTurn m x →
    ∃ t, exec (.close false m) s = .next t ∧ t.session? m.session = none ∧
      ((s.heard m).lonely m.session → x.xfers = [] → t.mailboxes = (s.heard m).mailboxes)) ∧
  (∀ (s : State) (id : Nat), ∃ t, exec (.halfOpenExpire id) s = .next t ∧ t.half? id = none ∧
    (∀ j, j ≠ id → t.half? j = s.half? j) ∧ t.sessions = s.sessions)

/-- The device's own CLOSE is sent as a sequenced message while fewer than 256 are unacknowledged and none waits, and waits
otherwise (R423, R433). A message that the timeout of R432 finds unacknowledged is sent again with RETX and its SEQ, and
counted. -/
def Obligations.DeviceSends : Prop :=
  (∀ (s : State) (m : LiftMsg) (x : Session), s.Quiet → s.session? m.session = some x →
    ∃ t y, exec (.close true m) s = .next t ∧ t.session? m.session = some y ∧
      if unackedOther x < 256 ∧ x.waiting = [] then
        y.txNext = x.txNext + 1 ∧ y.waiting = [] ∧
        ∃ u, y.unacked = x.unacked ++ [u] ∧ u.seq = x.txNext ∧ u.msg.type = tyClose ∧ (s.hostUp = true → t.out = s.out ++ [.lift x.src (s.tagged u.msg)])
      else y.txNext = x.txNext ∧ y.unacked = x.unacked ∧ t.out = s.out ∧ ∃ w, y.waiting = x.waiting ++ [w] ∧ w.type = tyClose) ∧
  (∀ (s : State) (id q : Nat) (x : Session) (u : Unacked), s.session? id = some x → x.unacked.find? (fun u => u.seq == q) = some u →
    s.hostUp = true →
    ∃ t a, exec (.retransmitTimeout id q) s = .next t ∧ t.out = s.out ++ [.lift x.src a] ∧ a.seq = q ∧ a.flags = 1 ∧
      a.type = u.msg.type ∧ a.payload = u.msg.payload ∧ t.rd (dk .LIFT_RETX) = s.counted (dk .LIFT_RETX) 1)

/-- RETAIN_S after a key's last session ended (R441): its idle mailboxes are free, its busy ones drop their replies, other
keys' mailboxes stay, and MB00 held over for it is free. -/
def Obligations.RetainExpires : Prop :=
  ∀ (s : State) (key : Bytes), (∀ x ∈ s.sessions, x.host ≠ key) →
    ∃ t, exec (.retainExpire key) s = .next t ∧
      (∀ i, i < 64 → (s.mailbox i).owner = some key → (s.mailbox i).busy = 0 → t.mailbox i = {}) ∧
      (∀ i, i < 64 → (s.mailbox i).owner = some key → (s.mailbox i).busy ≠ 0 →
        (t.mailbox i).replies = [] ∧ (t.mailbox i).expired = true ∧ (t.mailbox i).owner = some key) ∧
      (∀ i, (s.mailbox i).owner ≠ some key → t.mailbox i = s.mailbox i) ∧
      (s.lift.mb00 = some key → s.lift.mb00Ses = none → t.lift.mb00 = none)

/-- An EVENT_ACK that carries the number of the outstanding event, from the session that holds MB00, lets the next queued event
go out (R444). -/
def Obligations.EventAcked : Prop :=
  ∀ (s : State) (m : LiftMsg) (x : Session) (e : Event), s.InTurn m x → s.lift.outEvt = some e → s.lift.mb00Ses = some m.session →
    m.payload.length = 8 → natBE m.payload = e.number →
    ∃ t, exec (.eventAck m) s = .next t ∧ t.lift.outEvt = s.events.head? ∧ t.lift.mb00Ses = some m.session ∧
      (s.lift.lost = 0 → t.events = s.events.tail)

/-- A message that fails its check, or names no open session, has no effect but to be counted: whatever row carries it
(R422, R429). -/
def Obligations.ForgedHasNoEffect : Prop :=
  ∀ (s : State) (m : LiftMsg), s.Quiet → s.Reaches m →
    (∀ x, s.session? m.session = some x → headerOk m = false ∨ m.tag ≠ msgTag x.kIn m) →
    ∀ c : Instr, c ∈ [Instr.ackOnly m, .keepalive m, .close false m, .eventAck m, .deviceInfo m, .identity m, .deviceReset m,
        .spareList m, .resume m, .abort m, .jobUnload m, .jobStatus m] ∨
      (∃ n, c = .attest m n) ∨ (∃ a b, c = .bundleLoad m a b) ∨ (∃ a, c = .debugChallenge m a) ∨ (∃ a, c = .debugUnlock m a) ∨
      (∃ a, c = .netConfig m a) ∨ (∃ r, c = .regRead m r ∨ c = .regWrite m r ∨ c = .hpCtl m r ∨ c = .tbCtlEnable m r ∨
        c = .lnkCtlEnable m r ∨ c = .memInject m r ∨ c = .memBucketCtl m r ∨ c = .padRelease m r) ∨
      (∃ p, c = .memWrite m p) ∨ (∃ p, c = .memRead m p) ∨ (∃ p, c = .memFill m p) ∨ (∃ a b d, c = .tagWrite m a b d) ∨
      (∃ a b d, c = .domainSet m a b d) ∨ (∃ a b, c = .bringup m a b) ∨ (∃ a, c = .waxRead m a) ∨ (∃ a, c = .spareCommit m a) ∨
      (∃ a, c = .pileReset m a) ∨ (∃ a b, c = .powerSet m a b) ∨ (∃ a b d e, c = .jobLoad m a b d e) ∨ (∃ a b, c = .jobStart m a b) ∨
      (∃ a, c = .inputReady m a) ∨ (∃ a b d, c = .fetch m a b d) ∨ (∃ a, c = .listObjects m a) ∨ (∃ p, c = .records m p) ∨
      (∃ a, c = .pileHealth m a) →
    ∃ t, exec c s = .next t ∧ LiftSame s t ∧ t.sessions = s.sessions ∧ t.mailboxes = s.mailboxes ∧ t.lift = s.lift ∧ t.out = s.out ∧
      t.rd (dk .LIFT_MAC_FAIL) = s.counted (dk .LIFT_MAC_FAIL) 1

/-- A duplicate of a sequenced message is not acted on: whatever row carries it, it is counted and acknowledged again (R431). -/
def Obligations.DuplicateNotActedOn : Prop :=
  ∀ (s : State) (m : LiftMsg) (x y : Session), s.Quiet → s.Genuine m y → (s.heard m).session? m.session = some x → m.seq < x.dlv →
    ∀ c : Instr, (c ∈ [Instr.close false m, .eventAck m, .deviceInfo m, .identity m, .deviceReset m, .spareList m, .resume m, .abort m,
        .jobUnload m, .jobStatus m] ∨ (∃ a b, c = .powerSet m a b) ∨ (∃ a b, c = .jobStart m a b) ∨ (∃ a, c = .pileReset m a) ∨
        (∃ r, c = .regWrite m r) ∨ (∃ p, c = .memWrite m p) ∨ (∃ a, c = .debugUnlock m a) ∨ (∃ a, c = .spareCommit m a)) →
    ∃ t, exec c s = .next t ∧ LiftSame s t ∧ t.mailboxes = (s.heard m).mailboxes ∧ t.lift = (s.heard m).lift ∧
      t.rd (dk .LIFT_DUP) = (s.heard m).counted (dk .LIFT_DUP) 1

/-! ## The host port (chapter 15) -/

/-- The network's own questions, while the link is up (R419, R420): ARP, neighbour solicitation and echo for an address of the
device are answered, with the port's VLAN, and others are not; one of another VLAN, too large, or a fragment is not answered, and a
fragment is counted; global PAUSE is ignored and counted; a PFC frame counts for the configured priority where PFC is enabled. -/
def Obligations.NetworkAnswers : Prop :=
  ∀ s : State, s.hostUp = true →
    let answers (c : Instr) (vid : Option Nat) (frag : Bool) (size : Nat) (own : Prop) (o : Out) : Prop :=
      ∃ t, exec c s = .next t ∧
        (s.vlanOk vid = true → size ≤ s.lift.mtu → frag = false → own →
          t.out = s.out ++ [o] ∧ t.rd (dk .HP_TX_FRAMES) = s.counted (dk .HP_TX_FRAMES) 1) ∧
        (¬ own ∨ s.vlanOk vid = false ∨ s.lift.mtu < size ∨ frag = true → t.out = s.out) ∧
        (s.vlanOk vid = true → size ≤ s.lift.mtu → frag = true → t.rd (dk .HP_RX_DISCARD) = s.counted (dk .HP_RX_DISCARD) 1)
    (∃ t, exec .pauseFrame s = .next t ∧ t.rd (dk .HP_RX_DISCARD) = s.counted (dk .HP_RX_DISCARD) 1 ∧ t.out = s.out ∧ t.lift = s.lift) ∧
    (∀ target (mac : Framed (BitVec 48)) ip,
      answers (.arpRequest target mac ip) mac.vid mac.frag 28 (s.ownIp4 target = true) (.arp s.vlan mac.val ip)) ∧
    (∀ target (sender : Framed (BitVec 128)),
      answers (.neighbourSolicitation target sender) sender.vid sender.frag 72 (s.ownIp6 target = true) (.advert s.vlan sender.val)) ∧
    (∀ (src dst : BitVec 128) (b : Framed Bytes), answers (.echoRequest true src dst b) b.vid b.frag (48 + b.val.length)
      (s.ownIp6 dst = true) (.echo s.vlan true src b.val)) ∧
    (∀ (src dst : BitVec 128) (b : Framed Bytes), answers (.echoRequest false src dst b) b.vid b.frag (28 + b.val.length)
      (dst.toNat < 2 ^ 32 ∧ s.ownIp4 (dst.setWidth 32) = true) (.echo s.vlan false src b.val)) ∧
    (∀ prio quanta, ∃ t, exec (.pfcFrame prio quanta) s = .next t ∧
      t.lift.xoffGot = if s.on (dk .HP_CTL_PFC_EN) = true ∧ prio = s.rd (dk .HP_CTL_PFC_PRIO) then quanta != 0 else s.lift.xoffGot)

/-- The host link (R417, R418, R449, R450): on copper auto-negotiation comes first; training that succeeds brings the link UP at the
rate chosen, with the lanes trained; one that fails counts, at 800 Gb/s with no speed forced, towards the three failures after which
400 Gb/s is used; a link that goes down shows no state, and its count of failures starts over. -/
def Obligations.HostLinkTrains : Prop :=
  (∀ (s : State) (lanes : BitVec 8), s.on (dk .HP_CTL_ENABLE) = true → s.ready 1 = true → s.ready 2 = true → s.rd (dk .HP_STATUS_STATE) ≠ 3 →
    (s.on (dk .HP_CTL_MEDIA) = true ∨ s.rd (dk .HP_STATUS_STATE) = 2 →
      (∃ t, exec (.hostLinkTrain true lanes) s = .next t ∧ t.rd (dk .HP_STATUS_STATE) = 3 ∧ t.hostUp = true ∧
        t.rd (dk .HP_STATUS_RATE) = s.trainRate ∧ t.lift.fails800 = 0 ∧
        t.rd (dk .HP_STATUS_LANES_UP) = (if s.trainRate = 2 then lanes.toNat else lanes.toNat % 16)) ∧
      (∃ t, exec (.hostLinkTrain false lanes) s = .next t ∧
        t.rd (dk .HP_STATUS_STATE) = (if s.on (dk .HP_CTL_MEDIA) = true then 2 else 1) ∧ t.rd (dk .HP_STATUS_RATE) = 0 ∧
        t.rd (dk .HP_STATUS_LANES_UP) = (if s.trainRate = 2 then lanes.toNat else lanes.toNat % 16) ∧
        t.lift.fails800 = s.lift.fails800 + (if s.trainRate = 2 ∧ s.rd (dk .HP_CTL_SPEED) ≠ 1 then 1 else 0))) ∧
    (s.on (dk .HP_CTL_MEDIA) = false → s.rd (dk .HP_STATUS_STATE) ≠ 2 → ∀ ok : Bool,
      ∃ t, exec (.hostLinkTrain ok lanes) s = .next t ∧ t.rd (dk .HP_STATUS_STATE) = (if ok = true then 2 else 1) ∧
        t.lift.fails800 = s.lift.fails800)) ∧
  (∀ s : State, ∃ t, exec .hostLinkDown s = .next t ∧ t.rd (dk .HP_STATUS_STATE) = 0 ∧ t.rd (dk .HP_STATUS_RATE) = 0 ∧
    t.rd (dk .HP_STATUS_LANES_UP) = 0 ∧ t.lift.fails800 = 0 ∧ t.hostUp = false ∧ t.sessions = s.sessions)

/-! ## Requests (chapter 16) -/

/-- Commands that report (R457, R464-R466, R494, R537): an accepted request is answered OK, UNSYNC for records, with the data
its rule gives. Clocks and sensors that an answer shows are free values (log 5). -/
def Obligations.QueriesAnswer : Prop :=
  ∀ (s : State) (m : LiftMsg) (x : Session), s.Accepted m x →
    let u := tickClocks.run (s.started m)
    (reqParamLen m = 0 →
      (∃ t, exec (.deviceInfo m) s = .next t ∧ Answered (s.started m) t (reqOf m x) stOk 0 s.deviceInfo) ∧
      (∃ t, exec (.identity m) s = .next t ∧ Answered (s.started m) t (reqOf m x) stOk 0 (identityPub ++ endorsementBytes)) ∧
      (∃ t, exec (.spareList m) s = .next t ∧ Answered (s.started m) t (reqOf m x) stOk 0 s.spareBytes) ∧
      (∃ t, exec (.jobStatus m) s = .next t ∧ Answered (s.started m) t (reqOf m x) stOk 0 u.jobStatus)) ∧
    (∀ nonce, reqParamLen m = 32 → ∃ t, exec (.attest m nonce) s = .next t ∧
      Answered (s.started m) t (reqOf m x) stOk 0 (u.attestBody nonce ++ edSign identitySeed (sha512 (u.attestBody nonce)))) ∧
    (∀ first, reqParamLen m = packedLen 0x0051 → first ≤ s.objectNames.length → ∃ t, exec (.listObjects m first) s = .next t ∧
      Answered (s.started m) t (reqOf m x) stOk 0
        (((s.objectNames.drop first).take 341).flatMap (fun n => bytesLE 16 n.toNat ++ bytesLE 8 (s.gen n)))) ∧
    (∀ p, p < 16 → s.power (domSw p) = 0 → s.ready (domCtl p) = true → reqParamLen m = 8 → ∃ t, exec (.pileHealth m p) s = .next t ∧
      Answered (s.started m) t (reqOf m x) stOk 0 (s.pileHealth p (Config.freeValue s.free).toNat)) ∧
    (∀ q : RecordsP, reqParamLen m = 16 → 1 ≤ q.kind → q.kind ≤ 6 → (q.kind < 4 → q.set ≤ 2) → q.pile < 16 → s.power (domSw q.pile) = 0 →
      s.ready (domCtl q.pile) = true → q.count ≤ recordsMax q.kind →
      q.first + q.count ≤ (s.recordsOf q.kind q.set q.pile).1.length → ∃ t, exec (.records m q) s = .next t ∧
      Answered (s.started m) t (reqOf m x) stUnsync 0
        (bytesLE 8 ((s.recordsOf q.kind q.set q.pile).2.getD (Config.freeValue s.free).toNat) ++
          bytesLE 4 (s.recordsOf q.kind q.set q.pile).1.length ++ List.replicate 4 0 ++
          (((s.recordsOf q.kind q.set q.pile).1.drop q.first).take q.count).flatten)) ∧
    (commandCodes.contains (reqCommand m) = false → ∃ t, exec (.unknownCommand m) s = .next t ∧
      Answered (s.started m) t (reqOf m x) stBadCommand 0 [])

/-- Commands that report leave everything else as it was (R457): registers but the host port's and Lift's counters, tiles,
piles, ports, memory, settings, the job, fuses, bring-up and power. -/
def Obligations.QueriesChangeNothingElse : Prop :=
  ∀ (s t : State) (m : LiftMsg) (c : Instr), s.Quiet →
    c ∈ [Instr.deviceInfo m, .identity m, .spareList m, .unknownCommand m] ∨ (∃ first, c = .listObjects m first) →
    exec c s = .next t → LiftSame s t

/-- REG_READ (R458, R459) of registers that are there and within reach (R17): UNSYNC, the register's width in DETAIL, and the values as
the registers read. -/
def Obligations.RegisterReads : Prop :=
  ∀ (s : State) (m : LiftMsg) (x : Session) (r : RegReq) (y : RegPlace), s.Accepted m x → reqParamLen m = 80 → regPlace r = .ok y →
    (∀ c, c < r.count → (tickClocks.run (s.started m)).regAbsent (y.stepIdx c) = false) → 1 ≤ r.count → r.count ≤ 1024 → (y.spec.dims = [] → r.count = 1) →
    (y.spec.dims ≠ [] → y.idx.getLastD 0 + r.count ≤ y.spec.dims.getLastD 0) →
    ∃ t, exec (.regRead m r) s = .next t ∧
      Answered (s.started m) t (reqOf m x) stUnsync y.spec.width ((tickClocks.run (s.started m)).regData y r.count)

/-- REG_WRITE, on whatever register (R4, R6, R459): fields that apply at once take the value written, fields that wait for a
gate or a step boundary are pending with it and keep the value in effect, and the answer names the latest of the points. -/
def Obligations.RegisterWrites : Prop :=
  ∀ (s : State) (m : LiftMsg) (x : Session) (r : RegReq) (y : RegPlace), s.Accepted m x → reqParamLen m = 80 →
    s.Writable r y →
    ∀ c : Instr, c ∈ [Instr.regWrite m r, .hpCtl m r, .tbCtlEnable m r, .lnkCtlEnable m r, .memInject m r, .memBucketCtl m r,
        .padRelease m r] →
    ∃ t, exec c s = .next t ∧
      Answered (s.started m) t (reqOf m x) stOk (writeDetail (y.spec.fields.filter (touches r))) [] ∧
      ∀ f ∈ y.spec.fields, touches r f = true →
        ((f.spec.acc = .rw ∨ f.spec.acc = .w1c) → t.rd (y.key f) = clipTo f.width (s.written r (y.key f))) ∧
        ((f.spec.acc = .rwg ∨ f.spec.acc = .rws) → t.rd (y.key f) = s.rd (y.key f) ∧
          t.hold.waiting.filter (fun w => w.key == y.key f) = [⟨y.key f, s.written r (y.key f), f.spec.acc == .rws⟩])

/-- What the writes of certain registers do beside storing their fields: TB_CTL.ENABLE set on the root starts its slot counter
at 0 (R185, R188); LNK_CTL.ENABLE starts or ends a port's training (R255); a changed HP_CTL retrains the host link (R449); a
DEPTH below LEVEL clamps it (R367); PAD_RELEASE releases the held outputs of a domain that is ON (R505). -/
def Obligations.RegisterWriteEffects : Prop :=
  ∀ (s : State) (m : LiftMsg) (x : Session) (r : RegReq) (y : RegPlace), s.Accepted m x → reqParamLen m = 80 →
    s.Writable r y →
    (r.name = "TB_CTL" → s.on (dk .TB_CTL_ENABLE) = false → touches r .TB_CTL_ENABLE = true → fieldBits .TB_CTL_ENABLE r.value.toNat = 1 →
      touches r .TB_CTL_ROOT = false → s.on (dk .TB_CTL_ROOT) = true →
      ∃ t, exec (.tbCtlEnable m r) s = .next t ∧ t.rd (dk .TB_CTL_ENABLE) = 1 ∧ t.rd (dk .TB_SLOT) = 0 ∧ t.rd (dk .TB_STATUS_LOCKED) = 1) ∧
    (r.name = "MEM_BUCKET_CTL" → s.Legal → ∃ t, exec (.memBucketCtl m r) s = .next t ∧
      t.rd (pk .MEM_BUCKET y.p) = min (s.rd (pk .MEM_BUCKET y.p)) (t.rd (pk .MEM_BUCKET_CTL_DEPTH y.p))) ∧
    (r.name = "LNK_CTL" → s.rd (pk .LNK_STATUS_STATE y.p (y.idx.headD 0)) ≠ 10 → s.ready (domX y.p (y.idx.headD 0)) = true →
      ∃ t, exec (.lnkCtlEnable m r) s = .next t ∧
        (t.on (pk .LNK_CTL_ENABLE y.p (y.idx.headD 0)) ≠ s.on (pk .LNK_CTL_ENABLE y.p (y.idx.headD 0)) →
          t.rd (pk .LNK_STATUS_STATE y.p (y.idx.headD 0)) = if t.on (pk .LNK_CTL_ENABLE y.p (y.idx.headD 0)) = true then 1 else 0)) ∧
    (r.name = "HP_CTL" → ∃ t, exec (.hpCtl m r) s = .next t ∧
      ((t.rd (dk .HP_CTL_SPEED) ≠ s.rd (dk .HP_CTL_SPEED) ∨ t.rd (dk .HP_CTL_MEDIA) ≠ s.rd (dk .HP_CTL_MEDIA) ∨
        t.rd (dk .HP_CTL_PFC_EN) ≠ s.rd (dk .HP_CTL_PFC_EN)) → t.rd (dk .HP_STATUS_RATE) = 0 ∧ t.hostUp = false)) ∧
    (r.name = "PAD_RELEASE" → touches r .PAD_RELEASE = true →
      let d := fieldBits .PAD_RELEASE (r.value.toNat &&& r.mask.toNat)
      domainExists d = true → s.power d = 0 → s.on (pEnter d) = false →
      ∃ t, exec (.padRelease m r) s = .next t ∧ t.rd (pHeld d) = 0)

/-- Commands that set the device's network, its place in a domain, and a step's inputs ready (R419, R420, R457, R460). -/
def Obligations.SettingsTake : Prop :=
  ∀ (s : State) (m : LiftMsg) (x : Session), s.Accepted m x →
    (∀ c : NetCfg, reqParamLen m = packedLen 0x0008 → c.prefix4 ≤ 32 → c.prefix6 ≤ 128 → 1280 ≤ c.mtu → c.mtu ≤ 9216 →
      ∃ t, exec (.netConfig m c) s = .next t ∧ Answered (s.started m) t (reqOf m x) stOk 0 [] ∧ t.lift.ip4 = c.ip4 ∧
        t.lift.prefix4 = c.prefix4 ∧ t.lift.gw4 = c.gw4 ∧ t.lift.ip6 = c.ip6 ∧ t.lift.prefix6 = c.prefix6 ∧ t.lift.gw6 = c.gw6 ∧
        t.lift.mtu = c.mtu) ∧
    (∀ device size root, reqParamLen m = packedLen 0x0030 → s.jobState = jsNone → 1 ≤ size → size ≤ 4096 → device < size → root < size →
      ∃ t, exec (.domainSet m device size root) s = .next t ∧ Answered (s.started m) t (reqOf m x) stOk 0 [] ∧
        t.job = { s.job with domain := some (device, size, root) }) ∧
    (∀ step (i : Image), reqParamLen m = 8 → s.jobStarted = true → s.job.image = some i → i.hostInput = true → s.step ≤ step →
      step ≤ s.step + 1 → ∃ t, exec (.inputReady m step) s = .next t ∧
        if step ∈ s.job.ready then Answered (s.started m) t (reqOf m x) stOk 1 [] ∧ t.job = s.job
        else Answered (s.started m) t (reqOf m x) stOk 0 [] ∧ t.job = { s.job with ready := s.job.ready ++ [step] })

/-- A command sent in a job state that its row does not accept is refused with WRONG_STATE and the state, and changes nothing
else (R457); INPUT_READY and RESUME during ABORTING answer ABORTING (R471). -/
def Obligations.WrongStateRefused : Prop :=
  ∀ (s : State) (m : LiftMsg) (x : Session), s.Accepted m x →
    let no (c : Instr) : Prop := ∃ t, exec c s = .next t ∧ LiftSame s t ∧ Answered (s.started m) t (reqOf m x) stWrongState s.jobState []
    (s.jobState ≠ jsNone → (reqParamLen m = packedLen 0x0022 → ∀ q, no (.memFill m q)) ∧
      (reqParamLen m = packedLen 0x0023 → ∀ p l g, no (.tagWrite m p l g)) ∧
      (reqParamLen m = packedLen 0x0030 → ∀ d n r, no (.domainSet m d n r)) ∧
      (∀ is, no (.spareCommit m is)) ∧ (reqParamLen m = 8 → ∀ sc, no (.debugChallenge m sc)) ∧
      (reqParamLen m = 288 → ∀ b, no (.debugUnlock m b)) ∧ (reqParamLen m = 8 → ∀ i, no (.waxRead m i))) ∧
    (s.jobState ≠ jsLoaded → reqParamLen m = 16 → ∀ a b, no (.jobStart m a b)) ∧
    (s.jobState ≠ jsLoaded → s.jobState ≠ jsStopped → reqParamLen m = 0 → no (.jobUnload m)) ∧
    (s.jobState = jsStarting ∨ s.jobState = jsRunning ∨ s.jobState = jsAborting → reqParamLen m = 0 → no (.deviceReset m)) ∧
    (s.jobState ≠ jsHalted → s.jobState ≠ jsAborting → reqParamLen m = 0 → no (.resume m)) ∧
    (s.jobStarted = false → s.jobState ≠ jsAborting → reqParamLen m = 8 → ∀ n, no (.inputReady m n)) ∧
    (s.jobState = jsAborting → reqParamLen m = 0 → ∃ t, exec (.resume m) s = .next t ∧ LiftSame s t ∧
      Answered (s.started m) t (reqOf m x) stAborting 0 []) ∧
    (s.jobState = jsAborting → reqParamLen m = 8 → ∀ n, ∃ t, exec (.inputReady m n) s = .next t ∧ LiftSame s t ∧
      Answered (s.started m) t (reqOf m x) stAborting 0 [])

/-- A request whose PARAM_LEN is not its command's is answered BAD_LENGTH with the length the command has; one of the right
length with a reserved parameter field that is not zero is answered BAD_PARAM with the field's offset, which the model checks
before anything else (log 28; R439, R455, R458). -/
def Obligations.WrongLengthRefused : Prop :=
  (∀ (s : State) (m : LiftMsg) (x : Session) (c : Instr) (n : Nat), s.Taken m x → s.lone m →
    (n = 0 ∧ c ∈ [Instr.deviceInfo m, .identity m, .spareList m, .jobStatus m, .deviceReset m, .resume m, .jobUnload m, .abort m] ∨
      n = 80 ∧ (∃ r, c = .regRead m r ∨ c = .regWrite m r) ∨ n = 32 ∧ (∃ v, c = .attest m v) ∨
      n = 16 ∧ (∃ a b, c = .jobStart m a b) ∨ n = 8 ∧ (∃ a b, c = .powerSet m a b) ∨ n = 288 ∧ (∃ b, c = .debugUnlock m b) ∨
      n = packedLen 0x0008 ∧ (∃ a, c = .netConfig m a) ∨ n = packedLen 0x0020 ∧ (∃ w, c = .memWrite m w) ∨
      n = packedLen 0x0021 ∧ (∃ w, c = .memRead m w) ∨ n = packedLen 0x0022 ∧ (∃ w, c = .memFill m w) ∨
      n = packedLen 0x0023 ∧ (∃ p l g, c = .tagWrite m p l g) ∨ n = packedLen 0x0030 ∧ (∃ a b d, c = .domainSet m a b d) ∨
      n = packedLen 0x0051 ∧ (∃ a, c = .listObjects m a)) →
    reqParamLen m ≠ n →
    ∃ t, exec c s = .next t ∧ LiftSame s t ∧ Answered (s.started m) t (reqOf m x) stBadLength n []) ∧
  (∀ (s : State) (m : LiftMsg) (x : Session) (c : Instr) (o : Nat), s.Taken m x → s.lone m → reservedBad m = some o →
    (reqParamLen m = 80 ∧ (∃ r, c = .regRead m r ∨ c = .regWrite m r) ∨
      reqParamLen m = 8 ∧ ((∃ p, c = .pileHealth m p ∨ c = .pileReset m p) ∨ (∃ d n, c = .powerSet m d n) ∨ (∃ v, c = .debugChallenge m v)) ∨
      reqParamLen m = 32 ∧ (∃ a b d, c = .fetch m a b d) ∨ reqParamLen m = 16 ∧ (∃ q, c = .records m q)) →
    ∃ t, exec c s = .next t ∧ LiftSame s t ∧ Answered (s.started m) t (reqOf m x) stBadParam o [])

/-! ## Bulk transfers and memory commands (chapters 13, 15, 16) -/

/-- Commands that carry XFER open a transfer of their kind and size: the request stays BUSY at its mailbox, with no reply yet
(R435-R438, R446, R457). Stated of commands that need wait neither for a domain nor for a request ahead of them; the parameter
lengths that the spec leaves open are log 28's. -/
def Obligations.TransfersOpen : Prop :=
  (∀ (s : State) (m : LiftMsg) (x : Session) (w : MemWriteP), s.Accepted m x → reqParamLen m = packedLen 0x0020 →
    (∀ z ∈ x.xfers, z.id ≠ w.xfer) → s.jobState ≠ jsAborting → s.MemUp w.pile → 1 ≤ w.lines → w.first + w.lines ≤ dramLines →
    s.landingRun w.pile w.first w.lines = none → s.noneAhead m.session ⟨w.pile, w.first, w.lines, true⟩ →
    ∃ t, exec (.memWrite m w) s = .next t ∧ LiftSame s t ∧ Opened s t m ⟨w.xfer, reqOf m x, .memWrite w, w.lines, 0, 0, [], false⟩) ∧
  (∀ (s : State) (m : LiftMsg) (x : Session) (w : MemReadP), s.Accepted m x → reqParamLen m = packedLen 0x0021 →
    (∀ z ∈ x.xfers, z.id ≠ w.xfer) → s.MemUp w.pile → w.view ≤ 2 → 1 ≤ w.lines → w.first + w.lines ≤ viewLines w.view →
    s.noneAhead m.session (readRun w) →
    ∃ t, exec (.memRead m w) s = .next t ∧ LiftSame s t ∧ Opened s t m ⟨w.xfer, reqOf m x, .memRead w, w.lines, 0, 0, [], false⟩) ∧
  (∀ (s : State) (m : LiftMsg) (x : Session) (id size : Nat), s.Accepted m x → reqParamLen m = 16 → (∀ z ∈ x.xfers, z.id ≠ id) →
    s.on (dk .SEC_STATUS_BUNDLE_OK) = false → 256 ≤ size → size ≤ bundleMax →
    ∃ t, exec (.bundleLoad m id size) s = .next t ∧ LiftSame s t ∧
      Opened s t m ⟨id, reqOf m x, .bundle size, (size + 127) / 128, 0, 0, [], false⟩) ∧
  (∀ (s : State) (m : LiftMsg) (x : Session) (id size : Nat) (i : ImageParts) (tm : LoadTiming), s.Accepted m x → reqParamLen m = 16 →
    (∀ z ∈ x.xfers, z.id ≠ id) → s.jobState = jsNone → s.scanGranted = false → s.loadBusy = none → size ≠ 0 →
    ∃ t, exec (.jobLoad m id size i tm) s = .next t ∧ LiftSame s t ∧
      Opened s t m ⟨id, reqOf m x, .image size i tm, (size + 127) / 128, 0, 0, [], false⟩) ∧
  (∀ (s : State) (m : LiftMsg) (x : Session) (id : Nat), s.Accepted m x → reqParamLen m = 8 → (∀ z ∈ x.xfers, z.id ≠ id) →
    s.jobState = jsNone → s.boot.recorded = true →
    ∃ t, exec (.waxRead m id) s = .next t ∧ LiftSame s t ∧
      Opened s t m ⟨id, reqOf m x, .waxRead, (packBytes (s.waxRecord.map (fun b => (b, false)))).length, 0, 0,
        packBytes (s.waxRecord.map (fun b => (b, false))), false⟩) ∧
  (∀ (s : State) (m : LiftMsg) (x : Session) (name : BitVec 128) (gmin id : Nat), s.Accepted m x → reqParamLen m = 32 →
    (∀ z ∈ x.xfers, z.id ≠ id) → s.objectNames.contains name = true → s.gen name ≠ 0 → gmin ≤ s.gen name →
    (∀ i, s.job.image = some i → ∀ d ∈ s.partDoms i name, s.ready d = true) →
    ∃ t n ls, exec (.fetch m name gmin id) s = .next t ∧ Opened s t m ⟨id, reqOf m x, .fetch name (s.gen name) n, ls.length, 0, 0, ls, false⟩ ∧
      (name = stepStats → n = s.job.stats.length ∧ ls = packBytes ((ofBytes s.job.stats).map (fun b => (b, false))))) ∧
  (∀ (s : State) (m : LiftMsg) (x : Session) (id : Nat) (flags : BitVec 32), s.Accepted m x → reqParamLen m = 8 →
    (∀ z ∈ x.xfers, z.id ≠ id) → s.jobState = jsNone → s.on (dk .SEC_STATUS_BUNDLE_OK) = true → s.boot.run = none → flags.toNat ≤ 3 → id ≠ 0 →
    ∃ t, exec (.bringup m id flags) s = .next t ∧ LiftSame s t ∧ Opened s t m ⟨id, reqOf m x, .wax flags, 0, 0, 0, [], false⟩)

/-- A BULK_DATA message in its turn (R434-R436): its lines join their transfer, or, for a MEM_WRITE, land in memory, poisoned
where a line's BLOCK_CHECK fails; its bytes count as disposed of. Stated of a message that does not complete its transfer, a
MEM_WRITE of one line. -/
def Obligations.BulkDataArrives : Prop :=
  ∀ (s : State) (m : LiftMsg) (x : Session) (z : Xfer), s.InTurn m x → m.type = tyBulk → x.within m m.payload.length →
    xferOf x (bulkOf m).xfer = some z → fromHost z.kind = true → z.drop = false → (bulkOf m).sound = true →
    (bulkOf m).lines = lineFormOf z.kind → (bulkOf m).offset = z.next → (bulkOf m).last = false →
    z.next + (bulkOf m).units < z.total →
    ∃ t y, exec (.bulkData m) s = .next t ∧ t.session? m.session = some y ∧ y.disposed = x.disposed + m.payload.length ∧ y.dlv = x.dlv + 1 ∧
      (isMemWrite z.kind = false → t.HasXfer m.session { z with
        next := z.next + (bulkOf m).units, lines := z.lines ++ (List.range (bulkOf m).units).map (bulkOf m).line }) ∧
      (∀ w, z.kind = .memWrite w → (bulkOf m).units = 1 → w.pile < 16 → s.landing w.pile (w.first + z.next) = none →
        s.power (domMem w.pile) ≠ 2 → s.on (pk .MEM_INJECT_ARMED w.pile) = false → w.first + z.next < dramLines →
        t.dramWord (dramAddr w.pile (w.first + z.next)) =
          encodeWord { (bulkOf m).line 0 with
            poison := ((bulkOf m).line 0).poison || (w.lineForm && !lineCheckOk ((bulkOf m).line 0)) })

/-- The next message of a bulk read whose lines were gathered when it opened (R433, R434, R438, R446): it carries the next
lines in order, within the host's limit and in a sequenced message; the last one closes the transfer and is followed by the reply. -/
def Obligations.BulkDataSent : Prop :=
  ∀ (s : State) (id xfer : Nat) (x : Session) (z : Xfer), s.Quiet → s.session? id = some x → xferOf x xfer = some z → s.hostUp = true →
    s.lift.xoffGot = false → (z.kind = .waxRead ∨ ∃ name n, z.kind = .fetch name (s.gen name) n) → z.drop = false → z.total = z.lines.length →
    let n := min (unitsOfMsg x false) (z.total - z.next)
    n ≠ 0 → x.bulkSent + 24 + n * 128 ≤ x.hostLim →
    ∃ t y, exec (.bulkDataSend id xfer) s = .next t ∧ t.session? id = some y ∧ y.bulkSent = x.bulkSent + 24 + n * 128 ∧
      (∃ u ∈ y.unacked, u.seq = x.txNext ∧ u.msg.type = tyBulk ∧
        u.msg.payload = bulkPayload z false (decide (z.total ≤ z.next + n)) false ((z.lines.drop z.next).take n)) ∧
      (z.next + n < z.total → ∃ w ∈ y.xfers, w.id = xfer ∧ w.next = z.next + n) ∧
      (z.total ≤ z.next + n → (∀ w ∈ y.xfers, w.id ≠ xfer) ∧ (x.host = z.req.hostKey → z.req.session = id → z.req.cmd ≠ abortCode →
        (t.mailbox z.req.mb).st = .done))

/-- MEM_FILL starts a fill on each pile named, and its end writes the fill line of the format, or the line supplied, to every
line of the run (R365); TAG_WRITE replaces a line's tag and keeps its body, a line that does not read as data staying poisoned
(R355). Stated with no injection armed on the pile. -/
def Obligations.MemoryFills : Prop :=
  (∀ (s : State) (m : LiftMsg) (x : Session) (q : MemFillP), s.Accepted m x → reqParamLen m = packedLen 0x0022 →
    s.jobState = jsNone → (∀ p ∈ fillPiles q.pile, s.MemUp p ∧ (s.pile p).mem.fill = none ∧ s.noneAhead m.session ⟨p, q.first, q.lines, true⟩) →
    q.mode ≤ 1 → (q.mode = 0 → isFillFmt q.fmt = true) → 1 ≤ q.lines → q.first + q.lines ≤ dramLines →
    ∃ t, exec (.memFill m q) s = .next t ∧ ∀ p ∈ fillPiles q.pile, (t.pile p).mem.fill =
      some ⟨q.first, q.lines, q.body, q.tag, if q.mode = 0 then some q.fmt else none, reqOf m x, (fillPiles q.pile).length⟩) ∧
  (∀ (s : State) (p : PileId) (f : FillRun), s.Quiet → (s.pile p.val).mem.fill = some f → f.first + f.lines ≤ dramLines →
    s.on (pk .MEM_INJECT_ARMED p.val) = false →
    ∃ t, exec (.memFillDone p) s = .next t ∧ (t.pile p.val).mem.fill = none ∧
      ∀ a, t.dramWord (dramAddr p.val a) = if f.first ≤ a ∧ a < f.first + f.lines then encodeWord (f.line (a - f.first))
        else s.dramWord (dramAddr p.val a)) ∧
  (∀ (s : State) (m : LiftMsg) (x : Session) (p line : Nat) (tag : BitVec 128), s.Accepted m x → reqParamLen m = packedLen 0x0023 →
    s.jobState = jsNone → s.MemUp p → line < dramLines → (s.pile p).mem.fill = none → s.noneAhead m.session ⟨p, line, 1, true⟩ → s.on (pk .MEM_INJECT_ARMED p) = false →
    ∃ t, exec (.tagWrite m p line tag) s = .next t ∧
      t.dramWord (dramAddr p line) = encodeWord ⟨(decodeWord (s.dramWord (dramAddr p line))).line.body, tag,
        (decodeWord (s.dramWord (dramAddr p line))).kind != .data⟩ ∧
      (∀ a, a ≠ dramAddr p line → t.dramWord a = s.dramWord a) ∧ (t.mailbox m.mailbox).st = .done)

/-! ## The security core and bring-up (chapters 17, 19) -/

/-- Debug unlock (R540, R541): DEBUG_CHALLENGE answers the 96 bytes of a challenge and keeps that one only; it expires at its event
or at its first use; a DEBUG_UNLOCK consumes it, and grants its scope where it is the challenge kept and the vendor's key and
signature, and the owner's where the owner's key is burned, verify; else it is refused with AUTH_FAILED. -/
def Obligations.DebugUnlocks : Prop :=
  ∀ (s : State) (m : LiftMsg) (x : Session), s.Accepted m x → s.jobState = jsNone →
    (∀ scope : BitVec 32, reqParamLen m = 8 → scope.toNat ≤ 3 → ∃ t c nonce uptime, exec (.debugChallenge m scope) s = .next t ∧
      c = [0x56, 0x58, 0x44, 0x42, 0x47, 0x43, 0x48, 0x4C] ++ serialBytes ++ bytesLE 4 scope.toNat ++ List.replicate 4 0 ++ nonce ++
        uptime ++ List.replicate 24 0 ∧
      serialBytes.length = 16 ∧ nonce.length = 32 ∧ uptime.length = 8 ∧ c.length = 96 ∧
      Answered (s.started m) t (reqOf m x) stOk 0 c ∧ t.sec.challenge = some (toBytes c) ∧ t.fuses = s.fuses) ∧
    (∀ scope : BitVec 32, reqParamLen m = 8 → 3 < scope.toNat → ∃ t, exec (.debugChallenge m scope) s = .next t ∧
      Answered (s.started m) t (reqOf m x) stBadParam 0 [] ∧ t.sec = s.sec ∧ t.fuses = s.fuses) ∧
    (∃ t, exec .challengeExpire s = .next t ∧ t.sec = { s.sec with challenge := none }) ∧
    (∀ resp : Bytes, reqParamLen m = 288 →
      let bs := ofBytes resp
      let field (k n : Nat) : List Nat := (bs.drop k).take n
      let digest := sha512 (field 0 96)
      let proved : Prop := (∃ c, s.sec.challenge = some c ∧ ofBytes c = field 0 96) ∧
        (sha512 (field 96 32) = bytesLE 64 Config.vendorKeyHash.toNat ∧ edVerify (field 96 32) digest (field 128 64) = true) ∧
        (s.fuses.ownerValid = true →
          sha512 (field 192 32) = bytesLE 64 s.fuses.ownerKey.toNat ∧ edVerify (field 192 32) digest (field 224 64) = true)
      ∃ t, exec (.debugUnlock m resp) s = .next t ∧ t.sec.challenge = none ∧ t.fuses = s.fuses ∧
        (proved → Answered (s.started m) t (reqOf m x) stOk 0 [] ∧
          t.rd (dk .SEC_STATUS_DEBUG_SCOPE) = (s.rd (dk .SEC_STATUS_DEBUG_SCOPE) ||| (atLE bs 24 4 % 4)) % 4) ∧
        (¬ proved → Answered (s.started m) t (reqOf m x) stAuthFailed 0 [] ∧
          t.rd (dk .SEC_STATUS_DEBUG_SCOPE) = s.rd (dk .SEC_STATUS_DEBUG_SCOPE)))

/-- SPARE_COMMIT burns the proposals it names that the bank does not hold, in their order, and waits while other burns run; a
word's burn changes the fuses as it says; when the last is done SPARE_COMMIT is answered with how many were burned, and a
bundle's acceptance ends boot-ROM sessions (R477, R495, R528, R534). A claim's VALID words take effect together (R535; the model's
choice, log 151). -/
def Obligations.FusesBurn : Prop :=
  (∀ (s : State) (m : LiftMsg) (x : Session) (is : List Nat), s.Accepted m x → s.jobState = jsNone →
    ((∃ i ∈ is, s.boot.proposals.length ≤ i) → ∃ t d, exec (.spareCommit m is) s = .next t ∧ t.sec = s.sec ∧
      Answered (s.started m) t (reqOf m x) stBadRange d []) ∧
    ((∀ i ∈ is, i < s.boot.proposals.length) →
      let es := is.filterMap (fun i => (s.boot.proposals[i]?).map Proposal.entry)
      ∃ t, exec (.spareCommit m is) s = .next t ∧ t.fuses = s.fuses ∧
        (s.sec.burns ≠ [] → t.sec = { s.sec with commits := s.sec.commits ++ [(reqOf m x, es)] }) ∧
        (s.sec.burns = [] → s.sec.commits = [] →
          if commitBurns s.fuses.field es = [] then Answered (s.started m) t (reqOf m x) stOk 0 []
          else t.sec.burns = (commitBurns s.fuses.field es).map Burn.entry ∧ t.sec.burnReq = some (reqOf m x) ∧ t.sec.burned = 0))) ∧
  (∀ (s : State) (b : Burn) (rest : List Burn), s.sec.burns = b :: rest →
    ∃ t, exec .fuseWordBurned s = .next t ∧ t.fuses = b.lasting.foldl Fuses.burn s.fuses ∧
      (rest ≠ [] → t.sec = { s.sec with burns := rest, burned := s.sec.burned + 1 }) ∧
      (rest = [] → s.sec.resetDue = false → s.sec.commits = [] → t.sec.burns = [] ∧ t.sec.burnReq = none ∧
        (∀ r, s.sec.burnReq = some r → r.cmd = 0x0034 → s.hears r →
          Answered s t r stOk (s.sec.burned + 1) []) ∧
        ((∀ r, s.sec.burnReq = some r → r.cmd ≠ 0x0034) → ∀ y ∈ t.sessions, y.boot = false)))

/-- BRINGUP without a record starts a cold bring-up; each stage's end leads to the next, 3c only where a pile runs it, and stage
4 only once every port has settled; the last one's end answers BRINGUP with the discrepancies and shows stage 7 (R473, R474, R480-R484, R490, R497). -/
def Obligations.BringupRuns : Prop :=
  (∀ (s : State) (m : LiftMsg) (x : Session) (flags : BitVec 32), s.Accepted m x → reqParamLen m = 8 → s.jobState = jsNone →
    s.on (dk .SEC_STATUS_BUNDLE_OK) = true → s.boot.run = none → flags.toNat ≤ 3 →
    ∃ t z, exec (.bringup m 0 flags) s = .next t ∧ t.boot.run = some z ∧ z.req = reqOf m x ∧ z.flags = flags ∧ z.stage = 0 ∧
      z.cold = true ∧ t.rd (dk .BR_STATUS_STAGE) = 2 ∧ t.rd (dk .BR_STATUS_WAX_AUTH) = 0 ∧ t.rd (dk .BR_STATUS_WAX_VALID) = 0 ∧
      t.rd (dk .BR_STATUS_DISCREP) = 0 ∧ t.rd (dk .BR_STATUS_UNUSABLE) = 0) ∧
  (∀ (s : State) (tests : List PileTest), s.boot.stage1 = false → ∃ t, exec (.bringupStageEnd tests) s = .next t ∧
    t.boot.stage1 = true ∧ t.fuses = s.fuses ∧ t.sessions = [] ∧ t.power 1 = 0 ∧ t.power 2 = 0 ∧
    (∀ p, p < 16 → t.power (domSw p) = 0 ∧ t.rd (pk .SW_STATUS_MODE p) = 1 ∧ t.power (domMem p) = 2 ∧ ∀ i, i < 9 → t.power (domTile p i) = 2)) ∧
  (∀ (s : State) (tests : List PileTest) (x : BringRun), s.boot.stage1 = true → s.boot.run = some x → x.stage < 6 →
    (x.stage = 5 → ∀ p k, p < 16 → k < 2 → s.portSettled p k = true) →
    ∃ t y, exec (.bringupStageEnd tests) s = .next t ∧ t.boot.run = some y ∧ y.req = x.req ∧ y.flags = x.flags ∧
      y.stage = (if x.stage = 2 ∧ x.piles = 0 then 4 else x.stage + 1) ∧
      t.rd (dk .BR_STATUS_STAGE) = [2, 3, 3, 6, 3, 4, 5].getD y.stage 7 ∧
      ∀ p, p < 16 → (x.stage = 0 → t.power (domCtl p) = 0 ∧ t.power (domBuf p) = 0) ∧ (x.stage = 1 → t.power (domMem p) = 0) ∧
        (x.stage = 4 → t.rd (pk .MEM_STATUS_TESTED p) = 1 ∧ ∀ a, a < dramLines → t.dramWord (dramAddr p a) = unwritten) ∧
        (x.stage = 4 → t.power (domX p 0) = 0 ∧ t.power (domX p 1) = 0)) ∧
  (∀ (s : State) (tests : List PileTest) (x : BringRun), s.boot.stage1 = true → s.boot.run = some x → x.stage = 5 →
    (∃ p k, p < 16 ∧ k < 2 ∧ s.portSettled p k = false) → exec (.bringupStageEnd tests) s = .next s) ∧
  (∀ (s : State) (tests : List PileTest) (x : BringRun), s.boot.stage1 = true → s.boot.run = some x → x.stage = 6 →
    s.hears x.req → (∀ d, (s.dom d).reqs = []) →
    ∃ t, exec (.bringupStageEnd tests) s = .next t ∧ t.boot.run = none ∧ t.rd (dk .BR_STATUS_STAGE) = 7 ∧
      Answered s t x.req stOk t.boot.discreps [])

/-- A relayed bundle line that is the first good copy of its index is kept and forwarded; the first line fixes the bundle's
length (R478, R479; log 46). One that is poisoned, empty, fails its block check or is held already has no effect. -/
def Obligations.RelayedLinesKept : Prop :=
  ∀ (s : State) (l : Line), s.ready 1 = true → s.boot.stage1 = true → s.on (dk .SEC_STATUS_BUNDLE_OK) = false →
    let i := l.tag.toNat / 2 ^ 32 % 2 ^ 32
    let n := l.tag.toNat / 2 ^ 64 % 2 ^ 32
    (l.poison = false → lineCheckOk l = true → (s.boot.relay = [] ∨ n = s.boot.relayLen) → i < n → n ≤ bundleMax / 128 →
      SMap.find? s.boot.relay i = none →
      ∃ t, exec (.relayLine l false) s = .next t ∧ Out.relay l ∈ t.out ∧
        (s.boot.relay.length + 1 < n → t.out = s.out ++ [.relay l] ∧ SMap.find? t.boot.relay i = some l ∧ t.boot.relayLen = n ∧
          ∀ j, j ≠ i → SMap.find? t.boot.relay j = SMap.find? s.boot.relay j)) ∧
    (∀ empty : Bool, l.poison = true ∨ empty = true ∨ lineCheckOk l = false ∨ (SMap.find? s.boot.relay i).isSome = true →
      exec (.relayLine l empty) s = .next s)

/-! ## Resets, power and pins (chapters 17, 18) -/

/-- Resets (R19, R232, R457, R463): DEVICE_RESET starts the boot ROM, once a burn in progress is done; a failed hub leaves its
timing domain at the next gate; PILE_RESET clears the pile's tiles and buffer, keeps DRAM and makes the switch stand in; its
end answers. -/
def Obligations.ResetsAct : Prop :=
  (∀ (s : State) (m : LiftMsg) (x : Session), s.Legal → s.Accepted m x → reqParamLen m = 0 →
    s.jobState ∈ [jsNone, jsLoaded, jsHalted, jsStopped] →
    ∃ t, exec (.deviceReset m) s = .next t ∧ t.fuses = s.fuses ∧
      if s.sec.burns = [] then t.Booting ∧ AonKept s t []
      else t.sec = { s.sec with resetDue := true } ∧ Answered (s.started m) t (reqOf m x) stOk 0 []) ∧
  (∀ s : State, ∃ t, exec .hubFault s = .next t ∧ t.boot = { s.boot with failed := true } ∧ t.job = { s.job with stopNext := true } ∧
    t.regs = s.regs ∧ t.piles = s.piles) ∧
  (∀ (s : State) (m : LiftMsg) (x : Session) (p : Nat), s.Accepted m x → reqParamLen m = 8 → s.jobState ≠ jsAborting → p < 16 →
    s.boot.run = none → (s.pile p).mem.fill = none →
    ∃ t, exec (.pileReset m p) s = .next t ∧ (t.pile p).resetSrc = 1 ∧ (t.pile p).resetReqs = (s.pile p).resetReqs ++ [reqOf m x] ∧
      t.rd (pk .SW_STATUS_STAND_IN p) = 1 ∧ t.rd (pk .SW_STATUS_GATE_HELD p) = 1 ∧ t.dram = s.dram ∧
      (∀ i, i < 9 → t.tile p i = {} ∧ ∀ a, a < lsLines → t.sramLine (lsAddr p i a) = blankLine) ∧
      ∀ a, a < bufLines → t.sramLine (bufAddr p a) = blankLine) ∧
  (∀ (s : State) (p : PileId), (s.pile p.val).resetSrc ≠ 0 →
    ∃ t, exec (.pileResetEnd p) s = .next t ∧ (t.pile p.val).resetSrc = 0 ∧ (t.pile p.val).resetReqs = [] ∧
      (s.jobLoaded = false → t.rd (pk .SW_STATUS_STAND_IN p.val) = 0 ∧ t.rd (pk .SW_STATUS_GATE_HELD p.val) = 0) ∧
      ∀ r, (s.pile p.val).resetReqs = [r] → s.hears r → Answered s t r stOk 0 [])

/-- POWER_SET (R462, R508): a domain that is there already is answered; any other starts its transition, a wake where it is to be
ON or stands OFF, and the reply waits; an entry of HUB or HOST_PHY is answered before it starts, ends the sessions when it
does, and does not start where a domain that has come ON since needs it (R501). -/
def Obligations.PowerSetActs : Prop :=
  (∀ (s : State) (m : LiftMsg) (x : Session) (d n : Nat), s.Accepted m x → reqParamLen m = 8 → domainExists d = true → 32 ≤ d → n ≤ 2 →
    s.boot.run = none → s.jobLoaded = false → s.depsOk d n = true → (s.pile ((d - 32) / 32)).mem.fill = none →
    (n ≠ 0 → s.domainInUse d = false) → s.Still d →
    ∃ t, exec (.powerSet m d n) s = .next t ∧ t.power d = s.power d ∧
      (s.power d = n → Answered (s.started m) t (reqOf m x) stOk 0 []) ∧
      (s.power d ≠ n → (t.dom d).reqs = (s.dom d).reqs ++ [reqOf m x] ∧
        if n = 0 ∨ s.power d = 2 then t.on (pWake d) = true ∧ (t.dom d).to' = some 0 ∧ (t.dom d).next = (if n = 0 then none else some n)
        else t.on (pEnter d) = true ∧ (t.dom d).to' = some n)) ∧
  (∀ (s : State) (m : LiftMsg) (x : Session) (d n : Nat), s.Accepted m x → reqParamLen m = 8 → (d = 1 ∨ d = 2) → (n = 1 ∨ n = 2) →
    s.jobLoaded = false → s.depsOk d n = true →
    ∃ t, exec (.powerSet m d n) s = .next t ∧ Answered (s.started m) t (reqOf m x) stOk 0 [] ∧ t.pwr.due.getLast? = some (d, n) ∧
      t.power d = s.power d) ∧
  (∀ (s : State) (d n : Nat) (rest : List (Nat × Nat)), s.pwr.due = (d, n) :: rest → n ≠ 0 → s.power d = 0 → s.Still d →
    (({ s with pwr := { s.pwr with due := rest } } : State).depsOk d n = true →
    ∃ t, exec (.hubEntryStart d) s = .next t ∧ t.sessions = [] ∧ t.pwr.due = rest ∧ t.on (pEnter d) = true ∧ (t.dom d).to' = some n) ∧
    (({ s with pwr := { s.pwr with due := rest } } : State).depsOk d n = false →
      exec (.hubEntryStart d) s = .next { s with pwr := { s.pwr with due := rest } }))

/-- A transition's end (R504, R505, R508, R509): the domain is in the state it led to, one that goes OFF holds its outputs and
loses what it held, what was latched follows at once, and who waited is answered. -/
def Obligations.TransitionsEnd : Prop :=
  (∀ (s : State) (d : Nat), s.Quiet → s.on (pWake d) = true →
    ∃ t, exec (.wakeComplete d) s = .next t ∧ t.power d = 0 ∧ t.on (pWake d) = false ∧
      ((s.dom d).own = true → t.on (pHeld d) = false) ∧
      (∀ n, (s.dom d).next = some n → n ≠ 0 → t.on (pEnter d) = true ∧ (t.dom d).to' = some n) ∧
      ((s.dom d).next = none → (t.dom d).reqs = [] ∧
        ∀ r, (s.dom d).reqs = [r] → s.hears r → Answered s t r stOk 0 [])) ∧
  (∀ (s : State) (d n : Nat), s.on (pEnter d) = true → (s.dom d).to' = some n → n ≤ 2 → d ≠ 1 →
    ∃ t, exec (.entryComplete d) s = .next t ∧ t.power d = n ∧ (n = 2 → t.on (pHeld d) = true) ∧
      ((s.dom d).next = some 0 → n ≠ 0 → t.on (pWake d) = true) ∧
      ((s.dom d).next = none → t.on (pEnter d) = false ∧ (t.dom d).reqs = []) ∧
      (∀ m, (s.dom d).next = some m → m ≠ 0 → m ≠ n → s.on (pWake d) = false →
        (n = 1 → t.on (pEnter d) = true ∧ (t.dom d).to' = some m) ∧ (n = 2 → t.on (pWake d) = true ∧ (t.dom d).next = some m)) ∧
      ∀ p i, d = domTile p i → p < 16 → i < 9 → n = 2 → t.tile p i = {} ∧ ∀ a, a < lsLines → t.sramLine (lsAddr p i a) = blankLine) ∧
  (∀ s : State, s.on (pEnter 1) = true → (s.dom 1).to' = some 2 →
    ∃ t, exec (.entryComplete 1) s = .next t ∧ t.fuses = s.fuses ∧ if (s.dom 1).next = some 0 then t.Booting else t.Down)

/-- Power and reset pins (R551-R553, R562): power lost takes everything but AON OFF; power good with reset released starts stage 1;
an undervoltage names its rail; AON's own power coming or going starts its kept state anew; and the trip at 110 C (R517). -/
def Obligations.PinsAct : Prop :=
  (∀ s : State, s.Legal → ∃ t, exec .pwrGoodFall s = .next t ∧ t.Down ∧ t.rd (dk .PIN_STATUS_PWR_GOOD) = 0 ∧
    AonKept s t [.PIN_STATUS_PWR_GOOD] ∧ (s.sec.burns = [] → t.fuses = s.fuses)) ∧
  (∀ s : State, s.Legal → ∃ t, exec .pwrGoodRise s = .next t ∧ t.rd (dk .PIN_STATUS_PWR_GOOD) = 1 ∧ t.fuses = s.fuses ∧
    if s.on (dk .PIN_STATUS_RESET_N) = true then t.Booting ∧ t.pwr.pinWake = false
    else RegsKept s t (fun k => k = dk .PIN_STATUS_PWR_GOOD) ∧ t.sessions = s.sessions) ∧
  (∀ s : State, s.Legal → ∃ t, exec .resetNAssert s = .next t ∧ t.rd (dk .PIN_STATUS_RESET_N) = 0 ∧
    (s.on (dk .PIN_STATUS_PWR_GOOD) = true → t.Down ∧ AonKept s t [.PIN_STATUS_RESET_N] ∧
      ∀ b rest, s.sec.burns = b :: rest → t.fuses = b.completed.foldl Fuses.burn s.fuses)) ∧
  (∀ s : State, s.Legal → ∃ t, exec .resetNRelease s = .next t ∧ t.rd (dk .PIN_STATUS_RESET_N) = 1 ∧ t.fuses = s.fuses ∧
    if s.on (dk .PIN_STATUS_PWR_GOOD) = true then t.Booting ∧ t.pwr.pinWake = false
    else RegsKept s t (fun k => k = dk .PIN_STATUS_RESET_N) ∧ t.sessions = s.sessions) ∧
  (∀ (s : State) (rail : Nat), s.on (dk .PIN_STATUS_PWR_GOOD) = true → ∃ t, exec (.uvTrip rail) s = .next t ∧ t.Down ∧
    t.rd (dk .PIN_STATUS_UV_TRIP) = 1 ∧ t.rd (dk .PIN_STATUS_UV_RAIL) = rail % 4) ∧
  (∀ s : State, ∃ t, exec .aonPowerUp s = .next t ∧ t.Down ∧ t.rd (dk .PIN_STATUS_PWR_GOOD) = 0 ∧ t.rd (dk .PIN_STATUS_RESET_N) = 0 ∧
    t.rd (dk .PIN_STATUS_XTAL_OK) = 1 ∧
    ∀ f ∈ aonFlds, f ∉ [Fld.PIN_STATUS_PWR_GOOD, .PIN_STATUS_RESET_N, .PIN_STATUS_XTAL_OK] → ∀ i, t.rd (dk f i) = f.spec.reset) ∧
  (∀ s : State, ∃ t, exec .aonPowerLoss s = .next t ∧ t.Down ∧ t.rd (dk .PIN_STATUS_PWR_GOOD) = 0 ∧ t.rd (dk .PIN_STATUS_XTAL_OK) = 0 ∧
    t.rd (dk .BR_TIME) = 0) ∧
  (∀ (s : State) (temp : Int), (110 * 16 ≤ temp → ∃ t, exec (.tripped temp) s = .next t ∧ t.Down ∧ t.rd (dk .THERM_STATUS_TRIPPED) = 1) ∧
    (temp < 110 * 16 → exec (.tripped temp) s = .next s)) ∧
  (∀ (s : State) (ok : Bool), (∃ t, exec (.referenceClockChange 0 ok) s = .next t ∧ t.on (dk .PIN_STATUS_XTAL_OK) = ok) ∧
    (∃ t, exec (.referenceClockChange 1 ok) s = .next t ∧ t.on (dk .PIN_STATUS_FREF_OK) = ok) ∧
    ∃ t, exec (.referenceClockChange 2 ok) s = .next t ∧ t.on (dk .PIN_STATUS_HREF_OK) = ok)

/-- Wake events (R509, R553): WAKE held for 1,000 AON clocks where it is enabled is latched and wakes the hub, and waits while
power or reset is missing; signal detect wakes HOST_PHY from RET where it is enabled, and does nothing otherwise. -/
def Obligations.WakesAct : Prop :=
  (∀ (s : State) (held : Nat), s.Legal → 1000 ≤ held → s.on (dk .WAKE_CTL_PIN_EN) = true →
    ∃ t, exec (.wake held) s = .next t ∧ t.rd (dk .WAKE_LATCH_PIN) = 1 ∧
      (s.on (dk .PIN_STATUS_PWR_GOOD) = false ∨ s.on (dk .PIN_STATUS_RESET_N) = false → t.pwr = { s.pwr with pinWake := true }) ∧
      (s.on (dk .PIN_STATUS_PWR_GOOD) = true → s.on (dk .PIN_STATUS_RESET_N) = true →
        (s.power 1 = 2 → t.Booting) ∧ (s.power 1 = 1 → s.Still 1 → t.on (pWake 1) = true) ∧
        (s.power 1 = 0 → s.on (pEnter 1) = false → s.power 2 ≠ 0 → s.Still 2 → t.on (pWake 2) = true))) ∧
  (∀ (s : State) (held : Nat), held < 1000 ∨ s.on (dk .WAKE_CTL_PIN_EN) = false →
    ∃ t, exec (.wake held) s = .next t ∧ RegsKept s t (fun k => k = dk .PIN_STATUS_WAKE) ∧ t.pwr = s.pwr) ∧
  (∀ s : State, s.Legal → s.on (dk .WAKE_CTL_DETECT_EN) = true → s.power 2 = 1 →
    ∃ t, exec .signalDetect s = .next t ∧ t.rd (dk .WAKE_LATCH_DETECT) = 1 ∧
      (s.power 1 = 0 → s.on (pEnter 1) = false → s.Still 2 → t.on (pWake 2) = true)) ∧
  (∀ s : State, s.on (dk .WAKE_CTL_DETECT_EN) = false ∨ s.power 2 ≠ 1 → exec .signalDetect s = .next s)

/-- Temperatures (R517): TEMP shows the highest base-die sensor, ALERT asserts the pin and each crossing raises one event; it
releases 2 C below; at 105 C the device aborts itself and its tiles go OFF. -/
def Obligations.TemperaturesAct : Prop :=
  (∀ (s : State) (p : PileId) (temp : Int), ∃ t, exec (.thermAlert p temp) s = .next t ∧ t.rd (dk .THERM_STATUS_TEMP) = signed16 temp ∧
    if s.alertLevel ≤ temp then t.rd (dk .THERM_STATUS_ALERT_ON) = 1 ∧ t.pwr.above = true ∧
      (s.pwr.above = false → Raised s t 0x0014 0xFF (bytesLE 2 (signed16 temp))) ∧ (s.pwr.above = true → t.events = s.events)
    else t.rd (dk .THERM_STATUS_ALERT_ON) = s.rd (dk .THERM_STATUS_ALERT_ON) ∧ t.pwr.above = false ∧ t.events = s.events) ∧
  (∀ (s : State) (die dram : Int), die ≤ s.alertLevel - 32 → dram ≤ 95 * 16 →
    ∃ t, exec (.thermAlertRelease die dram) s = .next t ∧ t.rd (dk .THERM_STATUS_TEMP) = signed16 die ∧ t.rd (dk .THERM_STATUS_ALERT_ON) = 0) ∧
  (∀ (s : State) (p : PileId) (temp : Int), s.Quiet → 105 * 16 ≤ temp → s.jobStarted = true → s.boot.run = none →
    ∃ t, exec (.hotAbort p temp) s = .next t ∧ t.jobState = jsAborting ∧ t.rd (dk .THERM_STATUS_HOT_ABORT) = 1 ∧
      t.rd (dk .THERM_STATUS_TEMP) = signed16 temp ∧
      ∀ q i, q < 16 → i < 9 → s.Still (domTile q i) → s.power (domTile q i) < 2 →
        t.on (pEnter (domTile q i)) = true ∧ (t.dom (domTile q i)).to' = some 2)

/-- Rails, the governor and ageing (R404-R406, R512-R514, R518, R519): a poll shows a rail's readings in mV, 1/16 A and 1/16 C
(rounding open, log 74); an alert latches STATUS_WORD, clears the rail's faults and aborts on OFF or an output fault; the
governor's current moves by at most its slew; a sample joins its domain's last 90. -/
def Obligations.TelemetryActs : Prop :=
  (∀ (s : State) (x : RailReading), s.on (dk .PMB_CTL_ENABLE) = true → s.ready 1 = true → s.on (dk .PMB_MAP_VALID x.rail.val) = true →
    ∃ t f, exec (.pmbusPoll [x]) s = .next t ∧
      t.rd (dk .PMB_RAIL_VOUT x.rail.val) = clipTo 16 (scaleTo (x.vout.toNat : Int) (signedBits x.voutMode.toNat 0 5) 1000 f).toNat ∧
      t.rd (dk .PMB_RAIL_IOUT x.rail.val) = (linear11 x.iout (f / 2) % 65536).toNat ∧
      t.rd (dk .PMB_RAIL_TEMP x.rail.val) = signed16 (linear11 x.temp (f / 4))) ∧
  (∀ (s : State) (r : Nat) (w : BitVec 16), s.Quiet → r < 16 → s.ready 1 = true → s.on (dk .PMB_MAP_VALID r) = true →
    ∃ t, exec (.pmbAlert [(r, w)]) s = .next t ∧ t.rd (dk .PMB_RAIL_STATUS r) = w.toNat ∧ Out.clearFaults r ∈ t.out ∧
      (w ≠ 0 → (t.rd (dk .PMB_FAULT_RAILS)).testBit r = true ∧
        t.rd (dk .PMB_FAULT_BITS) = (s.rd (dk .PMB_FAULT_BITS) ||| w.toNat) % 65536) ∧
      (railFault w = true → s.jobStarted = true → s.boot.run = none → t.jobState = jsAborting)) ∧
  (∀ (s : State) (w : Nat), ∃ t, exec (.governorUpdate w) s = .next t ∧ (w : Int) * 6250 ≤ t.pwr.act ∧
      t.rd (dk .GOV_STATUS_CURRENT) = amps16 t.pwr.act ∧ t.on (dk .GOV_STATUS_HOLDING) = decide (t.pwr.act < s.floorNow) ∧
      t.pwr.act - (w : Int) * 6250 ≤ s.fillerMax ∧ t.pwr.act - (w : Int) * 6250 ≤ max 0 (t.pwr.prev - (w : Int) * 6250) ∧
      (s.jobStarted = false → t.pwr.prev = max ((w : Int) * 6250) (s.pwr.prev - s.slew16)) ∧
      (s.jobStarted = true → s.pwr.prev - s.slew16 ≤ t.pwr.prev ∧ t.pwr.prev ≤ s.pwr.prev + s.slew16)) ∧
  (∀ (s : State) (xs : List AgeSample) (d : Nat) (x : AgeSample), s.on (dk .AGE_CTL_ENABLE) = true → s.ready 1 = true → d < 193 →
    xs[d]? = some x →
    let y := if d = 192 then { x with quantity := s.pwr.charge } else x
    let all := SMap.getD s.pwr.age d [] ++ [y]
    ∃ t f, exec (.ageingSample xs) s = .next t ∧ SMap.getD t.pwr.age d [] = all.drop (all.length - 90) ∧
      t.rd (dk .AGE_EOL_SAMPLES d) = (all.drop (all.length - 90)).length ∧
      (agesEnough d (all.drop (all.length - 90)).length = true → t.rd (dk .AGE_EOL_VALID d) = 1 ∧
        t.rd (dk .AGE_EOL_MONTHS d) = clipTo 16 (ageMonths d (all.drop (all.length - 90)) s.pwr.charge f)))

/-! ## Jobs and gates (chapters 07, 16) -/

/-- Job commands (R457, R461, R468-R471, R475): JOB_START on a device that is aligned sets the step and the seed and puts every used pile
at the start gate, with the tokens its children have sent for that step, and its request stays BUSY; RESUME at the root releases the
halted gate with DISCARD, and its request stays BUSY; elsewhere it is answered NOT_ROOT with the root's number; an ABORT of a started job
stops every pile's tiles, makes its switch stand in, and joins the requests that the abort's end answers; of a job only loaded, it leaves
STOPPED; during an abort it joins those that wait; piles that stay busy are reset; the abort's end leaves STOPPED, raises the event and
answers; JOB_UNLOAD leaves NONE and is answered. -/
def Obligations.JobCommandsAct : Prop :=
  (∀ (s : State) (m : LiftMsg) (x : Session) (step seed : BitVec 64), s.Accepted m x → reqParamLen m = 16 → s.jobState = jsLoaded →
    s.on (dk .TB_STATUS_ALIGNED) = true →
    ∃ t, exec (.jobStart m step seed) s = .next t ∧ t.jobState = jsStarting ∧ t.step = step.toNat ∧ t.job.seed = seed.toNat ∧
      t.job.startReq = some (reqOf m x) ∧ t.mailbox m.mailbox = (s.started m).mailbox m.mailbox ∧
      ∀ p, p < 16 → s.usesPile p = true → (t.pile p).gate.start = true ∧ (t.pile p).gate.arrivedAt = none ∧
        (t.pile p).gate.kids = (s.pile p).gate.kids.filter (fun k => k.2.step == step.toNat && k.2.phase == 0) ∧
        t.rd (pk .GATE_STATUS_STATE p) = 0) ∧
  (∀ (s : State) (m : LiftMsg) (x : Session) (step seed : BitVec 64), s.Accepted m x → reqParamLen m = 16 → s.jobState = jsLoaded →
    s.on (dk .TB_STATUS_ALIGNED) = false →
    ∃ t, exec (.jobStart m step seed) s = .next t ∧ LiftSame s t ∧ Answered (s.started m) t (reqOf m x) stNotAligned 0 []) ∧
  (∀ (s : State) (m : LiftMsg) (x : Session), s.Accepted m x → reqParamLen m = 0 → s.jobState = jsHalted →
    s.on (dk .TB_CTL_ROOT) = true → s.job.resumeReq = none →
    ∃ t slot, exec (.resume m) s = .next t ∧ t.jobState = jsHalted ∧ t.job.resumeReq = some (reqOf m x) ∧
      t.mailbox m.mailbox = (s.started m).mailbox m.mailbox ∧ t.rd (pk .GATE_STATUS_STATE 0) = 2 ∧
      (t.pile 0).gate.rel = some (slot, BitVec.ofNat 32 (2 * 2 ^ 24 + s.rd (dk .VERDICT_LAST_CAUSE)))) ∧
  (∀ (s : State) (m : LiftMsg) (x : Session) (dev size root : Nat), s.Accepted m x → reqParamLen m = 0 → s.jobState = jsHalted →
    s.on (dk .TB_CTL_ROOT) = false → s.job.domain = some (dev, size, root) →
    ∃ t, exec (.resume m) s = .next t ∧ t.jobState = jsHalted ∧ Answered (s.started m) t (reqOf m x) stNotRoot root []) ∧
  (∀ (s : State) (m : LiftMsg) (x : Session), s.Heeded m x → reqParamLen m = 0 → s.jobStarted = true → s.boot.run = none →
    ∃ t, exec (.abort m) s = .next t ∧ t.jobState = jsAborting ∧ t.job.abortReqs = s.job.abortReqs ++ [reqOf m x] ∧
      t.step = s.step ∧ t.hold = {} ∧
      ∀ p, p < 16 → t.rd (pk .SW_STATUS_STAND_IN p) = 1 ∧ t.rd (pk .SW_STATUS_GATE_HELD p) = 1 ∧
        t.rd (pk .UPD_STATUS_VER_SEL p) = s.rd (pk .UPD_STATUS_VER_SEL p) ∧
        ∀ i, i < 9 → t.rd (tk .TSQ_STATUS_RUN p i) = 0 ∧ (t.tile p i).queue = [] ∧ (t.tile p i).flight = []) ∧
  (∀ (s : State) (m : LiftMsg) (x : Session), s.Heeded m x → reqParamLen m = 0 → s.jobState = jsLoaded → s.boot.run = none →
    ∃ t, exec (.abort m) s = .next t ∧ t.jobState = jsStopped ∧ t.job.image = s.job.image ∧
      t.job.abortReqs = if t.swapping = true then s.job.abortReqs ++ [reqOf m x] else s.job.abortReqs) ∧
  (∀ (s : State) (m : LiftMsg) (x : Session), s.Heeded m x → reqParamLen m = 0 → s.jobState = jsAborting → s.boot.run = none →
    ∃ t, exec (.abort m) s = .next t ∧ t.jobState = jsAborting ∧ t.job.abortReqs = s.job.abortReqs ++ [reqOf m x]) ∧
  (∀ (s : State) (stuck : BitVec 16), s.jobState = jsAborting → stuck ≠ 0 →
    ∃ t, exec (.abortWatchdog stuck) s = .next t ∧ t.jobState = jsAborting ∧ t.rd (dk .JOB_STATE_WATCHDOG) = 1 ∧
      t.rd (dk .JOB_STATE_ABORT_PILES) = (s.rd (dk .JOB_STATE_ABORT_PILES) ||| stuck.toNat) % 65536 ∧ t.dram = s.dram ∧
      ∀ p, p < 16 → stuck.getLsbD p = true → (t.pile p).resetSrc = 2 ∧ (∀ i, i < 9 → t.tile p i = {} ∧
        ∀ a, a < lsLines → t.sramLine (lsAddr p i a) = blankLine) ∧ ∀ a, a < bufLines → t.sramLine (bufAddr p a) = blankLine) ∧
  (∀ (s : State) (micros : Nat), s.Quiet → s.jobState = jsAborting →
    ∃ t, exec (.abortComplete micros) s = .next t ∧ t.jobState = jsStopped ∧ t.job.abortReqs = [] ∧
      Raised s t 0x0013 0xFF (bytesLE 2 (s.rd (dk .JOB_STATE_ABORT_PILES)) ++ bytesLE 4 micros) ∧
      (∀ p, p < 16 → (s.pile p).resetSrc = 2 → (t.pile p).resetSrc = 0) ∧
      ∀ r, s.job.abortReqs = [r] → s.hears r → Answered s t r stOk (s.rd (dk .JOB_STATE_ABORT_PILES)) []) ∧
  (∀ (s : State) (m : LiftMsg) (x : Session), s.Accepted m x → reqParamLen m = 0 → (s.jobState = jsLoaded ∨ s.jobState = jsStopped) →
    ∃ t, exec (.jobUnload m) s = .next t ∧ t.jobState = jsNone ∧ t.job.image = none ∧ t.dram = s.dram ∧
      Answered (s.started m) t (reqOf m x) stOk 0 [])

/-- A pile arrives at its gate (R181, R191, R193, R203): its arrival and slip are noted, and it waits while fewer children's
tokens have come than it has children; else, unless it is the root, its token waits twice for its parent's port. A phase that is complete is booked
once. A device that must leave its timing domain stops there (R189). -/
def Obligations.PilesArrive : Prop :=
  (∀ (s : State) (p : PileId) (slot : Nat) (tree : TreePlace) (routed : List Routing) (fails : List (XPort × Nat)),
    tree.upsets = [] → (s.pile p.val).gate.start = false → s.phaseDone p.val slot = true →
    ∃ t, exec (.pileArrival p slot tree routed fails) s = .next t ∧ (t.pile p.val).gate.booked = true) ∧
  (∀ (s : State) (p : PileId) (slot : Nat) (tree : TreePlace) (routed : List Routing) (fails : List (XPort × Nat)),
    tree.upsets = [] →
    ((s.pile p.val).gate.start = true ∧ s.jobState = jsStarting ∧ s.usesPile p.val = true ∧ (s.pile p.val).gate.arrivedAt = none ∧
      s.inputsReady p.val = true ∧ s.on (pk .SW_STATUS_GATE_HELD p.val) = false ∨
     s.jobStarted = true ∧ (s.pile p.val).gate.start = false ∧ (s.pile p.val).gate.booked = true ∧ s.phaseDone p.val slot = true ∧
      s.boundaryDue p.val = false) →
    ∃ t, exec (.pileArrival p slot tree routed fails) s = .next t ∧
      (s.job.stopNext = true → t.rd (pk .GATE_STATUS_STATE p.val) = 3 ∧ t.out = s.out) ∧
      (s.job.stopNext = false →
        (s.pwr.inGate = false ∧ s.startA p.val = 0 ∨ s.pwr.inGate = true ∧ s.pwr.since = none ∧ s.pwr.floor ≤ s.pwr.act) →
        (t.pile p.val).gate.arrivedAt = some slot ∧ (t.pile p.val).gate.parent = tree.parent ∧ t.pwr.inGate = true ∧
        t.rd (pk .SLIP_COUNT p.val) = (if 0 < s.slipOf p.val slot then s.counted (pk .SLIP_COUNT p.val) 1 else s.rd (pk .SLIP_COUNT p.val)) ∧
        (((s.pile p.val).gate.kids.length < tree.children ∨ (s.pile p.val).gate.sentUp = true) →
          t.rd (pk .GATE_STATUS_STATE p.val) = 1 ∧ (t.pile p.val).gate.sends = (s.pile p.val).gate.sends) ∧
        (tree.children ≤ (s.pile p.val).gate.kids.length → (s.pile p.val).gate.sentUp = false → s.isRoot p.val = false →
          t.rd (pk .GATE_STATUS_STATE p.val) = 1 ∧ (t.pile p.val).gate.sentUp = true ∧
          ∃ k : GateToken, (t.pile p.val).gate.sends = (s.pile p.val).gate.sends ++
            [⟨(tree.parent.map wayPort).getD 8, true, { k with copy := 0 }⟩, ⟨(tree.parent.map wayPort).getD 8, true, { k with copy := 1 }⟩] ∧ k.step = s.step ∧
            k.phase = s.gatePhase p.val ∧ k.jobTag = s.jobTag)))

/-- Gate tokens, the gate's timeout and the time base (R176, R187-R194): a child's first token is held, and combined upwards once
all have come; RELEASE is held, and waits twice for the port of every child; a token of another job counts as an error; the timeout reports the piles
that have arrived; the marker loads the counter with the upstream port's estimated latency added; a lock is shown; holdover ends the timing domain. -/
def Obligations.GateTokensAct : Prop :=
  (∀ (s : State) (p : PileId) (slot child children : Nat) (k : GateToken), s.jobLoaded = true → s.usesPile p.val = true →
    s.ready (domSw p.val) = true →
    (k.jobTag ≠ s.jobTag → ∃ t, exec (.arrive p slot child children k) s = .next t ∧
      t.rd (pk .GATE_TAG_ERR p.val) = s.counted (pk .GATE_TAG_ERR p.val) 1 ∧ (t.pile p.val).gate = (s.pile p.val).gate ∧
      (s.jobStarted = true → t.jobState = jsStopped)) ∧
    (k.jobTag = s.jobTag → s.jobStarted = true → k.step = s.step → k.phase = s.gatePhase p.val → s.rd (pk .GATE_STATUS_STATE p.val) < 2 →
      (∀ c ∈ (s.pile p.val).gate.kids, c.1 ≠ child) →
      ∃ t, exec (.arrive p slot child children k) s = .next t ∧ (t.pile p.val).gate.kids = (s.pile p.val).gate.kids ++ [(child, k)] ∧
        ((s.pile p.val).gate.arrivedAt = none → (t.pile p.val).gate.sends = (s.pile p.val).gate.sends) ∧
        ((s.pile p.val).gate.arrivedAt ≠ none → (s.pile p.val).gate.sentUp = false → children ≤ (s.pile p.val).gate.kids.length + 1 →
          s.isRoot p.val = false → ∃ u : GateToken, (t.pile p.val).gate.sends = (s.pile p.val).gate.sends ++
            [⟨s.parentPort p.val, true, { u with copy := 0 }⟩, ⟨s.parentPort p.val, true, { u with copy := 1 }⟩] ∧
            u.cause &&& k.cause = k.cause ∧ u.step = s.step))) ∧
  (∀ (s : State) (p : PileId) (k : GateToken), s.jobLoaded = true → s.usesPile p.val = true → s.ready (domSw p.val) = true →
    k.jobTag = s.jobTag → s.takesRelease p.val = true → k.step = s.step → k.phase = s.gatePhase p.val →
    ∃ t, exec (.release p k) s = .next t ∧ (t.pile p.val).gate.rel = some (k.openSlot, k.verdict) ∧
      t.rd (pk .GATE_STATUS_STATE p.val) = 2 ∧
      (t.pile p.val).gate.sends = (s.pile p.val).gate.sends ++
        (s.childPorts p.val).flatMap (fun q => [⟨q, false, { k with copy := 0 }⟩, ⟨q, false, { k with copy := 1 }⟩])) ∧
  (∀ s : State, s.on (dk .TB_CTL_ROOT) = true → s.on (dk .GATE_CTL_TIMEOUT) = true → s.jobStarted = true → (s.pile 0).gate.rel = none →
    s.rd (pk .GATE_STATUS_STATE 0) < 2 →
    ∃ t, exec .gateTimeout s = .next t ∧ Raised s t 0x0005 0 (bytesLE 2 (s.gatePhase 0) ++
      bytesLE 2 ((s.usedPiles.filter (fun p => (s.pile p).gate.arrivedAt.isSome)).map (fun p => 2 ^ p)).sum)) ∧
  (∀ (s : State) (slot : Nat), s.on (dk .TB_CTL_ENABLE) = true → s.on (dk .TB_CTL_ROOT) = false →
    ∃ t, exec (.timingMark slot) s = .next t ∧ t.tbLoaded = true ∧ t.rd (dk .TB_SLOT) =
      (slot + (s.port (s.rd (dk .TB_CTL_UP_PILE)) (s.rd (dk .TB_CTL_UP_PORT))).estLat) % 2 ^ 64) ∧
  (∀ s : State, s.on (dk .TB_CTL_ENABLE) = true → ∃ t, exec .frequencyLock s = .next t ∧ t.rd (dk .TB_STATUS_LOCKED) = 1) ∧
  (∀ s : State, s.on (dk .TB_CTL_ENABLE) = true → s.on (dk .TB_CTL_ROOT) = false →
    ∃ t, exec .holdover s = .next t ∧ t.rd (dk .TB_STATUS_HOLDOVER) = 1 ∧ t.rd (dk .TB_STATUS_LOCKED) = 0 ∧
      t.rd (dk .TB_STATUS_LOSS_COUNT) = s.counted (dk .TB_STATUS_LOSS_COUNT) 1 ∧
      Raised s t 0x0003 0xFF ([s.rd (dk .TB_CTL_UP_PILE), s.rd (dk .TB_CTL_UP_PORT)] ++ bytesLE 2 (s.counted (dk .TB_STATUS_LOSS_COUNT) 1)) ∧
      t.job = (if s.jobStarted = true then { s.job with stopNext := true } else s.job))

/-- Openings (R6, R7, R160, R178, R187, R195, R199-R202): the start gate opens the attempt's first phase and applies the RW@G
writes that wait; a gate inside a step opens the next phase; COMMIT and SKIP end the step, apply every write that waits and show
the verdict; DISCARD repeats the step; HALT opens nothing. -/
def Obligations.GatesOpen : Prop :=
  ∀ (s : State) (slot idx : Nat) (v : BitVec 32) (i : Image), s.opening slot ≠ [] → s.job.image = some i → s.heldRight →
    (∀ p ∈ s.opening slot, (s.pile p).gate.rel = some (slot, v) ∧ s.rd (pk .GATE_STATUS_PHASE p) = idx) →
    ((∀ p ∈ s.opening slot, (s.pile p).gate.start = true) →
      ∀ q e, s.sequence[0]? = some q → i.phases[q.1]? = some e →
      ∃ t, exec (.gateOpen slot) s = .next t ∧ t.jobState = jsRunning ∧ t.rd (dk .TB_SLOT) = clipTo 64 slot ∧ t.step = s.step ∧
        t.job.phases = s.sequence ∧ t.hold.waiting = s.hold.waiting.filter HeldWrite.strict ∧
        (∀ p ∈ s.opening slot, PhaseOpened t p slot 0 q.1 q.2 e ∧ t.rd (pk .GATE_STATUS_ATTEMPT p) = 0) ∧
        (∀ w ∈ s.hold.waiting, w.strict = false → t.rd w.key = clipTo w.key.f.width w.value) ∧
        ∀ r, s.job.startReq = some r → s.job.resumeReq = none → s.hears r → Answered s t r stOk 0 []) ∧
    ((∀ p ∈ s.opening slot, (s.pile p).gate.start = false ∧ s.on (pk .GATE_STATUS_FINISH_PHASE p) = false) →
      ∀ q e, s.job.phases[idx + 1]? = some q → i.phases[q.1]? = some e →
      ∃ t, exec (.gateOpen slot) s = .next t ∧ t.jobState = jsRunning ∧ t.rd (dk .TB_SLOT) = clipTo 64 slot ∧ t.step = s.step ∧
        (∀ p ∈ s.opening slot, PhaseOpened t p slot (idx + 1) q.1 q.2 e) ∧
        (s.job.replayOf = false → t.hold.waiting = s.hold.waiting.filter HeldWrite.strict ∧
          ∀ w ∈ s.hold.waiting, w.strict = false → t.rd w.key = clipTo w.key.f.width w.value)) ∧
    ((∀ p ∈ s.opening slot, (s.pile p).gate.start = false ∧ s.on (pk .GATE_STATUS_FINISH_PHASE p) = true) →
      ∃ t, exec (.gateOpen slot) s = .next t ∧ t.rd (dk .VERDICT_LAST_CODE) = v.toNat / 2 ^ 24 ∧
        t.rd (dk .VERDICT_LAST_CAUSE) = v.toNat % 65536 ∧ t.rd (dk .VERDICT_LAST_STEP) = clipTo 64 s.step ∧
        (v.toNat / 2 ^ 24 < 2 → t.step = (s.step + 1) % 2 ^ 64 ∧ t.job.ended = s.job.ended + 1 ∧ t.job.replayOf = false ∧
          t.job.gens = s.objectNames.map (fun n => (n, s.step)) ∧
          (∀ p ∈ s.opening slot, t.rd (pk .GATE_STATUS_ATTEMPT p) = 0 ∧ t.rd (pk .UPD_STATUS_VER_SEL p) = 1 - s.ver p) ∧
          (s.job.replayOf = false → t.hold = {} ∧
            ∀ w ∈ s.hold.waiting, t.rd w.key = clipTo w.key.f.width w.value)) ∧
        (v.toNat / 2 ^ 24 = 2 → s.jobState = jsRunning → t.step = s.step ∧ t.job.replayOf = true ∧ t.job.ended = s.job.ended ∧
          ∀ p ∈ s.opening slot, t.rd (pk .GATE_STATUS_ATTEMPT p) = s.counted (pk .GATE_STATUS_ATTEMPT p) 1 ∧
            t.rd (pk .REPLAY_COUNT p) = s.counted (pk .REPLAY_COUNT p) 1 ∧ t.rd (pk .UPD_STATUS_VER_SEL p) = s.rd (pk .UPD_STATUS_VER_SEL p)) ∧
        (v.toNat / 2 ^ 24 = 3 → t.jobState = jsHalted ∧ t.step = s.step ∧ t.job.replayOf = true ∧
          ∀ p ∈ s.opening slot, t.rd (pk .GATE_STATUS_STATE p) = 3 ∧ (t.pile p).gate.rel = none))

/-! ## Pile memory and spares (chapters 13, 14) -/

/-- The memory agent (R367-R369, R374, R375): the bucket leaks; a groomed line that reads clean or poisoned stays, a corrected one
is written back, an uncorrectable one is written poisoned and its row queued; refresh keeps contents; temperatures set TEMP, HOT
and OVER_TEMP, and at 100 C the device aborts itself. -/
def Obligations.MemoryAgentActs : Prop :=
  (∀ (s : State) (p : PileId), s.Legal → ∃ t, exec (.leak p) s = .next t ∧ t.rd (pk .MEM_BUCKET p.val) = s.rd (pk .MEM_BUCKET p.val) - 1 ∧
    t.dram = s.dram ∧ RegsKept s t (fun k => k = pk .MEM_BUCKET p.val)) ∧
  (∀ (s : State) (p : PileId) (line : Nat), s.grooms p.val = true → s.on (pk .MEM_INJECT_ARMED p.val) = false → line < dramLines →
    let r := decodeWord (s.dramWord (dramAddr p.val line))
    let groomed (t : State) : Prop := (∀ a, a ≠ dramAddr p.val line → t.dramWord a = s.dramWord a) ∧
      (r.kind = .uncorrectable → t.dramWord (dramAddr p.val line) = encodeWord { r.line with poison := true } ∧
        rowOf line ∈ (t.pile p.val).mem.moves ∧ t.rd (pk .GROOM_UE p.val) = s.counted (pk .GROOM_UE p.val) 1) ∧
      (r.corrected = true → t.dramWord (dramAddr p.val line) = encodeWord r.line ∧
        t.rd (pk .GROOM_CE p.val) = s.counted (pk .GROOM_CE p.val) 1) ∧
      (r.kind ≠ .uncorrectable → r.corrected = false → t.dramWord (dramAddr p.val line) = s.dramWord (dramAddr p.val line))
    (s.rd (pk .GROOM_STATUS_NEXT_LINE p.val) = line → (s.pile p.val).mem.grooms = [] →
      ∃ t, exec (.groom p) s = .next t ∧ groomed t ∧
        t.rd (pk .GROOM_STATUS_NEXT_LINE p.val) = if line + 1 = dramLines then 0 else line + 1) ∧
    (∀ rest, (s.pile p.val).mem.grooms = line :: rest →
      ∃ t, exec (.targetedGroom p) s = .next t ∧ groomed t ∧ line ∉ (t.pile p.val).mem.grooms)) ∧
  (∀ (s : State) (p : PileId), exec (.refresh p) s = .next s) ∧
  (∀ (s : State) (p : PileId) (t0 t1 : Int), s.Quiet → ∀ c : Instr, c ∈ [Instr.doubledRefresh p t0 t1, .overTemp p t0 t1, .dramHotAbort p t0 t1] →
    ∃ t, exec c s = .next t ∧ t.rd (pk .MEM_STATUS_TEMP p.val) = signed16 (max t0 t1) ∧
      t.rd (pk .MEM_STATUS_HOT p.val) = (if 85 * 16 < max t0 t1 then 1 else if max t0 t1 < 83 * 16 then 0 else s.rd (pk .MEM_STATUS_HOT p.val)) ∧
      t.rd (pk .MEM_STATUS_OVER_TEMP p.val) = (if 95 * 16 < max t0 t1 then 1 else 0) ∧ (max t0 t1 < 100 * 16 → t.dram = s.dram) ∧
      (95 * 16 < max t0 t1 → t.rd (dk .THERM_STATUS_ALERT_ON) = 1) ∧
      (max t0 t1 < 100 * 16 → 95 * 16 < max t0 t1 → s.on (pk .MEM_STATUS_OVER_TEMP p.val) = false →
        Raised s t 0x000E p.val (bytesLE 2 (signed16 (max t0 t1)))) ∧
      (c = .dramHotAbort p t0 t1 → 100 * 16 ≤ max t0 t1 → s.jobStarted = true → s.boot.run = none → t.jobState = jsAborting ∧
        ∀ q, q < 16 → s.Still (domMem q) → s.power (domMem q) = 0 → t.on (pEnter (domMem q)) = true ∧ (t.dom (domMem q)).to' = some 1))

/-- Spares (R261-R264, R371-R373, R400): at a step boundary the first queued row moves to a spare row, and lines that read as data
keep it; the spare tile takes a condemned tile's place in the map; a lane swap takes the spare lane or retires the port; a
bridge group's failing wires take spare wires or retire the bridge. -/
def Obligations.SparesTake : Prop :=
  (∀ (s : State) (p : PileId) (r : Nat) (rest : List Nat), (s.pile p.val).mem.moves = r :: rest → s.atBoundary p.val = true →
    s.ready (domMem p.val) = true → s.on (pk .MEM_INJECT_ARMED p.val) = false →
    ∃ t, exec (.spareMove p) s = .next t ∧
      if 656 ≤ SMap.getD (s.pile p.val).mem.used (rowBank r) 0 then t.dram = s.dram ∧ (t.pile p.val).mem.moves = rest.filter (fun x => x != r)
      else SMap.find? (t.pile p.val).mem.remap r = some (SMap.getD (s.pile p.val).mem.used (rowBank r) 0) ∧
        SMap.getD (t.pile p.val).mem.used (rowBank r) 0 = SMap.getD (s.pile p.val).mem.used (rowBank r) 0 + 1 ∧
        t.rd (pk .MEM_ROW_MOVES p.val) = s.counted (pk .MEM_ROW_MOVES p.val) 1 ∧ (∃ q ∈ t.boot.proposals, q.entry = rowEntry p.val r) ∧
        (∀ l ∈ rowLines r, l < dramLines → (decodeWord (s.dramWord (dramAddr p.val l))).kind = .data →
          t.dramWord (dramAddr p.val l) = encodeWord (decodeWord (s.dramWord (dramAddr p.val l))).line) ∧
        ∀ a, (∀ l ∈ rowLines r, a ≠ dramAddr p.val l) → t.dramWord a = s.dramWord a) ∧
  (∀ (s : State) (p : PileId) (q : Subst) (rest : List Subst) (j u : Nat), (s.pile p.val).flt.queue = q :: rest → q.kind ≠ 0 →
    s.atBoundary p.val = true → (s.jobLoaded = true → (s.pile p.val).flt.did = false) → s.logOf p.val q.phys = some j →
    (s.pile p.val).flt.spare = some u → u < 9 → q.phys < 9 → u ≠ q.phys →
    (∃ t, exec (.spareSubstitution p true) s = .next t ∧ t.physOf p.val j = u ∧ (∀ i, i < 8 → i ≠ j → t.physOf p.val i = s.physOf p.val i) ∧
      (t.pile p.val).flt.queue = rest ∧ (t.pile p.val).flt.spare = none ∧ t.rd (pk .FLT_TILE_RETIRED p.val q.phys) = 1 ∧
      t.power (domTile p.val u) = 0 ∧ t.power (domTile p.val q.phys) = 2 ∧ (∃ x ∈ t.boot.proposals, x.entry = tileEntry p.val q.phys) ∧
      t.rd (pk .FLT_SUBST p.val) = s.counted (pk .FLT_SUBST p.val) 1) ∧
    (∃ t, exec (.spareSubstitution p false) s = .next t ∧ (t.pile p.val).flt.spare = none ∧ t.rd (pk .FLT_TILE_RETIRED p.val u) = 1 ∧
      t.rd (pk .FLT_STATUS_MAP p.val) = s.rd (pk .FLT_STATUS_MAP p.val))) ∧
  (∀ (s : State) (p : PileId) (k : XPort) (lane : Nat), (s.port p.val k.val).swapLane = some lane → (s.port p.val k.val).swapAcked = true →
    (s.port p.val k.val).skip = false → (s.port p.val k.val).farLane = none → (s.port p.val k.val).swapWait = [] →
    s.rd (pk .LNK_STATUS_STATE p.val k.val) = 9 → s.Quiet →
    (∀ u, spareLane (s.port p.val k.val).rxMap (s.port p.val k.val).rxBad = some u →
      ∃ t, exec (.laneRetrain p k true) s = .next t ∧ t.rd (pk .LNK_STATUS_STATE p.val k.val) = 7 ∧
        (t.port p.val k.val).rxMap = (s.port p.val k.val).rxMap.map (fun m => if m = lane then u else m) ∧
        (t.port p.val k.val).swapLane = none ∧ t.rd (pk .LNK_SWAPS p.val k.val) = s.counted (pk .LNK_SWAPS p.val k.val) 1) ∧
    ∃ t, exec (.laneRetrain p k false) s = .next t ∧ t.rd (pk .LNK_STATUS_STATE p.val k.val) = 10 ∧ (t.port p.val k.val).swapLane = none) ∧
  (∀ (s : State) (p : PileId) (d : BrgEnd) (g n : Nat), g ∈ (s.bridge p.val d.val).suspect →
    s.rd (pk .BRG_STATUS_STATE p.val d.val) = 9 →
    ∃ t, exec (.wireRepair p d g n) s = .next t ∧ g ∉ (t.bridge p.val d.val).suspect ∧
      let u := SMap.getD (s.bridge p.val d.val).used g 0 + n
      (n = 0 → t.rd (pk .FLT_TRANSIENT p.val) = s.counted (pk .FLT_TRANSIENT p.val) 1) ∧
      (n ≠ 0 → u ≤ 4 → SMap.getD (t.bridge p.val d.val).used g 0 = u ∧
        t.rd (pk .BRG_REPAIRS p.val d.val) = s.counted (pk .BRG_REPAIRS p.val d.val) n) ∧
      (n ≠ 0 → 4 < u → t.rd (pk .BRG_STATUS_STATE p.val d.val) = 10))

/-! ## The fabric (chapters 08, 09) -/

/-- The switch block movers (R182, R217, R222-R225, R228): a send leaves its line for its way-slot, poisoned where it fails its check
or its condition; an ingress gondola is forwarded, poisoned where it is damaged, generated poisoned where it is missing, and
counted where no entry takes it; on a bridge it is under way to the far end; a receive writes its line where its descriptor says and nothing else. -/
def Obligations.SwitchMoves : Prop :=
  (∀ (s : State) (p : PileId) (i k : Nat) (d : SwDesc), s.swDesc p.val i = some d → d.receive = false → k < d.count →
    s.inPhase p.val = true → s.ready (domSw p.val) = true → s.on (pk .SW_STATUS_STAND_IN p.val) = false →
    s.actingGroups p.val (d.firstSlot + k * d.slotStride) d.way ≠ [] → (s.pile p.val).sw.done.contains (i * 65536 + k) = false →
    s.listWaits p.val d = false → s.mustWait p.val d.space (s.physOf p.val d.tile) = false →
    let key := ((s.pile p.val).gate.openSlot + (d.firstSlot + k * d.slotStride)) * 256 + d.way
    ∃ t, exec (.sendSample p i k .none) s = .next t ∧ (t.pile p.val).sw.done = (s.pile p.val).sw.done ++ [i * 65536 + k] ∧
      t.dram = s.dram ∧ t.sram = s.sram ∧
      (∀ n, s.pick p.val d k = .line n →
        let l := s.lineAt p.val d.space (s.physOf p.val d.tile) n
        SMap.find? (t.pile p.val).sw.locIn key = some (gondolaOf
          { l with poison := l.poison || ((d.check || s.checking p.val) && !lineCheckOk l) || !s.condMet p.val d } (s.origCheck p.val))) ∧
      (s.pick p.val d k = .nothing → SMap.find? (t.pile p.val).sw.locIn key = some (emptyGondola (s.origCheck p.val) false (!s.condMet p.val d))) ∧
      (s.pick p.val d k = .fault → SMap.find? (t.pile p.val).sw.locIn key = some (emptyGondola (s.origCheck p.val) false true) ∧
        t.rd (pk .SW_INDEX_ERR p.val) = s.counted (pk .SW_INDEX_ERR p.val) 1) ∧
      (s.condMet p.val d = false → t.rd (pk .XFER_HAZARD p.val) = s.counted (pk .XFER_HAZARD p.val) 1)) ∧
  (∀ (s : State) (p : PileId) (slot way ph : Nat) (g : Option Gondola) (bad : Bool), s.ready (domSw p.val) = true → way < 163 →
    s.phaseSlot p.val slot = some ph → s.gateSlots p.val ph way = [] → s.awaitsRelease p.val = false →
    s.on (pk .SW_STATUS_STAND_IN p.val) = false → (44 ≤ way → s.portDelivers p.val (wayPort way) = true) →
    ∃ t, exec (.gondolaIngress p slot way g bad) s = .next t ∧ SMap.find? (t.pile p.val).sw.locIn (slot * 256 + way) = none ∧
      SMap.find? (t.pile p.val).sw.linkIn (slot * 256 + way) = none ∧
      (∀ e h, (s.actingGroups p.val ph way).flatMap (fun grp => grp.filter SlotEntry.valid) = [e] →
        s.wayGondola p.val slot way g = some h →
        let h' := { h with poison := h.poison || bad || (h.checkMode && !h.empty && !lineCheckOk (gondolaLine h)) }
        (e.egress < 44 ∨ s.portUp p.val (wayPort e.egress) = true → t.rd (pk .SW_FWD p.val) = s.counted (pk .SW_FWD p.val) 1) ∧
        (44 ≤ e.egress → s.portUp p.val (wayPort e.egress) = true → t.out = s.out ++ [.gondola p.val (slot + 2) e.egress h']) ∧
        (44 ≤ e.egress → s.portUp p.val (wayPort e.egress) = false → t.out = s.out) ∧
        (∀ far, 4 ≤ wayPort e.egress → wayPort e.egress ≤ 7 → s.portUp p.val (wayPort e.egress) = true →
          far = farBridge p.val (wayPort e.egress - 4) → s.portUp far.1 (4 + far.2) = true →
          SMap.find? (t.pile far.1).sw.wires ((slot + 5) * 256 + portFirst (4 + far.2) + (e.egress - portFirst (wayPort e.egress))) = some h') ∧
        (e.egress < 44 → SMap.find? (t.pile p.val).sw.locOut ((slot + 2) * 256 + e.egress) = some ⟨h', way, e.drop⟩)) ∧
      (∀ e, (s.actingGroups p.val ph way).flatMap (fun grp => grp.filter SlotEntry.valid) = [e] →
        s.wayGondola p.val slot way g = none → t.rd (pk .SW_MISSING p.val) = s.counted (pk .SW_MISSING p.val) 1 ∧
        (44 ≤ e.egress → s.portUp p.val (wayPort e.egress) = true →
          t.out = s.out ++ [.gondola p.val (slot + 2) e.egress (emptyGondola (s.origCheck p.val) false true)])) ∧
      (s.actingGroups p.val ph way = [] → t.out = s.out ∧
        ((s.wayGondola p.val slot way g).isSome = true → t.rd (pk .SW_ORPHAN p.val) = s.counted (pk .SW_ORPHAN p.val) 1))) ∧
  (∀ (s : State) (p : PileId) (i k : Nat) (d : SwDesc) (o : LocOut), s.swDesc p.val i = some d → d.receive = true → k < d.count →
    s.inPhase p.val = true → s.ready (domSw p.val) = true → s.on (pk .SW_STATUS_STAND_IN p.val) = false →
    (s.pile p.val).sw.done.contains (i * 65536 + k) = false →
    SMap.find? (s.pile p.val).sw.locOut (((s.pile p.val).gate.openSlot + d.firstSlot + k * d.slotStride) * 256 + d.way) = some o →
    s.listWaits p.val d = false → s.mustWait p.val d.space (s.physOf p.val d.tile) = false → s.memPlain p.val → s.physOf p.val d.tile < 9 →
    ∃ t, exec (.switchReceive p i k .plain) s = .next t ∧ (t.pile p.val).sw.done = (s.pile p.val).sw.done ++ [i * 65536 + k] ∧
      (∀ n l, s.pick p.val d k = .line n → arriving d k o = some l →
        t.Holds p.val d.space (s.physOf p.val d.tile) n
          { l with poison := l.poison || (d.check && !o.g.empty && !lineCheckOk l) || !s.condMet p.val d } ∧
        StoreKept s t (isHome p.val d.space (s.physOf p.val d.tile) n)) ∧
      ((s.pick p.val d k = .nothing ∨ s.pick p.val d k = .fault ∨ arriving d k o = none) → t.dram = s.dram ∧ t.sram = s.sram) ∧
      (s.pick p.val d k = .fault → t.rd (pk .SW_INDEX_ERR p.val) = s.counted (pk .SW_INDEX_ERR p.val) 1))

/-- The unscheduled class (R220, R227-R229): a frame in its turn is accepted, counted, routed, and answered by a ULINK frame; one out of turn
is answered with the number awaited; one that finds its port's buffer full is not taken; a frame for this pile is handed to its endpoint,
or waits for the endpoint's domain; a ULINK frame brings credits and acknowledges; what is not acknowledged is to be sent again; and a
free way-slot carries what its port has waiting, the ULINK frames first, a new frame against a credit. -/
def Obligations.UnscheduledActs : Prop :=
  (∀ (s : State) (p : PileId) (n : Nat) (f : UFrame), s.ready (domSw p.val) = true → f.dstDev = s.deviceNo → f.dstPile = p.val →
    (s.pile p.val).resetSrc = 0 →
    ∃ t, exec (.unschedFrame p 0 n f) s = .next t ∧
      (s.endpointWaits p.val f.dstEp = false → t.out = s.out ++ [.deliver p.val f]) ∧
      (s.endpointWaits p.val f.dstEp = true → t.out = s.out ∧ (t.pile p.val).sw.toWake = (s.pile p.val).sw.toWake ++ [f])) ∧
  (∀ (s : State) (p : PileId) (q n : Nat) (f : UFrame), s.ready (domSw p.val) = true → 1 ≤ q → q ≤ 7 → s.portDelivers p.val q = true →
    (q < 4 ∨ s.onWire p.val q n f ≠ none) →
    ((s.hop p.val q).rxNext = n % 256 → s.heldFrom p.val q < (freshHop q).credits →
      ∃ t, exec (.unschedFrame p q n f) s = .next t ∧ (t.hop p.val q).rxNext = (n % 256 + 1) % 256 ∧
        t.rd (pk .SW_UNSCHED_RX p.val) = s.counted (pk .SW_UNSCHED_RX p.val) 1 ∧
        (⟨(n + 1) % 256, if s.goesOn p.val f = true then 0 else 1, false⟩ : Ulink) ∈ (t.hop p.val q).acks ∧
        (f.dstDev = s.deviceNo → f.dstPile = p.val → (s.pile p.val).resetSrc = 0 → s.endpointWaits p.val f.dstEp = false →
          Out.deliver p.val f ∈ t.out)) ∧
    ((s.hop p.val q).rxNext = n % 256 → (freshHop q).credits ≤ s.heldFrom p.val q →
      ∃ t, exec (.unschedFrame p q n f) s = .next t ∧ t.hop p.val q = s.hop p.val q ∧ t.out = s.out ∧ (q < 4 → t = s)) ∧
    ((s.hop p.val q).rxNext ≠ n % 256 → ∃ t, exec (.unschedFrame p q n f) s = .next t ∧ t.out = s.out ∧
      t.hop p.val q = { s.hop p.val q with acks := (s.hop p.val q).acks ++
        [⟨(s.hop p.val q).rxNext, 0, decide ((n + 256 - (s.hop p.val q).rxNext) % 256 < 128)⟩] })) ∧
  (∀ (s : State) (p : PileId) (q n a : Nat) (again : Bool), s.ready (domSw p.val) = true → 1 ≤ q → q ≤ 7 → s.portDelivers p.val q = true →
    (q < 4 ∨ (q, (⟨a, n, again⟩ : Ulink)) ∈ (s.pile p.val).sw.ulinks) →
    ∃ t, exec (.ulink p q n a again) s = .next t ∧ t.out = s.out ∧
      let h := ackedHop (s.hop p.val q) a
      t.hop p.val q = { h with
        credits := min (freshHop q).credits ((s.hop p.val q).credits + n)
        again := if again = true then h.unacked.map Prod.fst else h.again }) ∧
  (∀ (s : State) (p : PileId) (q : Nat), s.ready (domSw p.val) = true → 1 ≤ q → q ≤ 7 → s.portUp p.val q = true →
    ∃ t, exec (.unschedRetry p q) s = .next t ∧ t.out = s.out ∧
      t.hop p.val q = { s.hop p.val q with again := (s.hop p.val q).unacked.map Prod.fst }) ∧
  (∀ (s : State) (p : PileId) (slot ph q way : Nat) (rest : List Nat), s.ready (domSw p.val) = true → s.phaseSlot p.val slot = some ph →
    s.gateSlots p.val ph 255 = [] → s.actingGroups p.val ph 255 = [] → s.awaitsRelease p.val = false →
    (s.pile p.val).sw.freeAt ≠ some (slot + 2) → 1 ≤ q → q ≤ 7 → s.maySend p.val q = true →
    s.freeWays p.val (slot + 2) q = way :: rest → (∀ q', q' ≠ q → 1 ≤ q' → q' ≤ 7 → (s.hop p.val q').waiting = []) →
    ∃ t, exec (.gondolaIngress p slot 255 none false) s = .next t ∧ (t.pile p.val).sw.freeAt = some (slot + 2) ∧
      (∀ u r, (s.hop p.val q).acks = u :: r → Out.ack p.val (slot + 2) way u ∈ t.out) ∧
      ((s.hop p.val q).acks = [] →
        (∀ u r, (s.hop p.val q).unacked.filter (fun u => (s.hop p.val q).again.contains u.1) = u :: r →
          Out.frame p.val (slot + 2) way u.1 u.2 ∈ t.out) ∧
        ((s.hop p.val q).unacked.filter (fun u => (s.hop p.val q).again.contains u.1) = [] → ∀ x r, (s.hop p.val q).waiting = x :: r →
          (s.hop p.val q).credits ≠ 0 → Out.frame p.val (slot + 2) way (s.hop p.val q).txNext x.2 ∈ t.out ∧
          ((s.hop p.val q).txNext, x.2) ∈ (t.hop p.val q).unacked)))

/-- What links deliver (R249, R250, R252, R253, R259): a block that decodes and agrees delivers its gondolas, one that fails FCRC
poisoned; one that does not decode, or disagrees, counts, raises LINK and delivers poison where the page takes a gondola, and after four
disagreeing blocks (outside a replay, in which a block may retire the port), or with its elastic buffer outside the window, the port
realigns, until a block agrees; a bridge brings what the far end sent, poisoned and counted where its check wires or FCRC fail. -/
def Obligations.LinksCarry : Prop :=
  (∀ (s : State) (p : PileId) (k : XPort) (slot : Nat) (b : BitVec 3808) (fill : Int), s.ready (domX p.val k.val) = true →
    (s.on (pk .LNK_CTL_NEAR_LOOP p.val k.val) = true → s.loopsBack p.val k.val slot (bytesLE 476 b.toNat) = true) →
    (s.rd (pk .LNK_STATUS_STATE p.val k.val) = 7 → s.offWindow fill = false →
      ∃ t, exec (.linkBlock p k ⟨slot, fill⟩ b) s = .next t ∧ t.rd (pk .LNK_BLOCKS p.val k.val) = s.counted (pk .LNK_BLOCKS p.val k.val) 1 ∧
        (∀ bs, decodeBlockFec (bytesLE 476 b.toNat) = some bs → s.headerAgrees p.val k.val slot bs = true →
          (t.port p.val k.val).disagree = 0 ∧
          ∀ ph j, s.phaseSlot p.val slot = some ph → j < 3 → headerWord bs / 2 ^ (23 + j) % 2 = 1 →
            let g := gondolaFrom ((bs.drop (8 + 148 * j)).take 148)
            g.1.tc = 0 →
            SMap.find? (t.pile p.val).sw.linkIn (slot * 256 + (45 + 3 * k.val + j)) = some { g.1 with poison := g.1.poison || !g.2 }) ∧
        (∀ bs, bs = (decodeBlockFec (bytesLE 476 b.toNat)).getD (bytesLE 476 b.toNat) →
          (decodeBlockFec (bytesLE 476 b.toNat) = none ∨ s.headerAgrees p.val k.val slot bs = false) →
          t.rd (pk .LNK_UE_BLOCKS p.val k.val) = s.counted (pk .LNK_UE_BLOCKS p.val k.val) 1 ∧
          t.rd (pk .LNK_CE_BYTES p.val k.val) = s.rd (pk .LNK_CE_BYTES p.val k.val) ∧
          (s.on (pk .GATE_STATUS_HEAD_PHASE p.val) = false → (t.pile p.val).rue.causes.testBit cLink = true) ∧
          (∀ j ∈ s.usedOffsets p.val k.val slot, SMap.find? (t.pile p.val).sw.linkIn (slot * 256 + (45 + 3 * k.val + j)) =
            some (emptyGondola false false true)) ∧
          (s.headerAgrees p.val k.val slot bs = false → 3 ≤ (s.port p.val k.val).disagree → s.job.replayOf = false →
            t.rd (pk .LNK_STATUS_STATE p.val k.val) = 8 ∧ t.rd (pk .LNK_REALIGN p.val k.val) = s.counted (pk .LNK_REALIGN p.val k.val) 1))) ∧
    (s.rd (pk .LNK_STATUS_STATE p.val k.val) = 7 → s.offWindow fill = true →
      ∃ t, exec (.linkBlock p k ⟨slot, fill⟩ b) s = .next t ∧ t.rd (pk .LNK_STATUS_STATE p.val k.val) = 8 ∧
        t.rd (pk .LNK_REALIGN p.val k.val) = s.counted (pk .LNK_REALIGN p.val k.val) 1) ∧
    (s.rd (pk .LNK_STATUS_STATE p.val k.val) = 8 →
      ∃ t, exec (.linkBlock p k ⟨slot, fill⟩ b) s = .next t ∧ t.rd (pk .LNK_BLOCKS p.val k.val) = s.counted (pk .LNK_BLOCKS p.val k.val) 1 ∧
        (∀ bs, decodeBlockFec (bytesLE 476 b.toNat) = some bs → s.headerAgrees p.val k.val slot bs = true →
          t.rd (pk .LNK_STATUS_STATE p.val k.val) = (if s.atBoundary p.val = true ∧ (s.port p.val k.val).swapDue = true then 9 else 7) ∧
          (t.port p.val k.val).disagree = 0))) ∧
  (∀ (s : State) (p : PileId) (k : XPort) (slot : Nat) (b : BitVec 3808) (fill : Int),
    (s.on (pk .LNK_CTL_NEAR_LOOP p.val k.val) = true ∧ s.loopsBack p.val k.val slot (bytesLE 476 b.toNat) = false) ∨
      s.rd (pk .LNK_STATUS_STATE p.val k.val) < 7 ∨ 8 < s.rd (pk .LNK_STATUS_STATE p.val k.val) →
    exec (.linkBlock p k ⟨slot, fill⟩ b) s = .next s) ∧
  (∀ (s : State) (p : PileId) (d : BrgEnd) (slot way : Nat) (v : BitVec 1184) (crc : BitVec 32) (h : Gondola),
    s.portDelivers p.val (4 + d.val) = true → wayPort way = 4 + d.val → SMap.find? (s.pile p.val).sw.wires (slot * 256 + way) = some h →
    let w := (waySlot (some h)).flipped v crc
    let g := gondolaFrom w.data
    let ok := crc32 w.data == w.crc && g.2
    ∃ t, exec (.bridgeWaySlot p d slot way v crc) s = .next t ∧
      SMap.find? (t.pile p.val).sw.wires (slot * 256 + way) = none ∧
      (∀ ph, s.phaseSlot p.val slot = some ph → g.1.tc = 0 →
        SMap.find? (t.pile p.val).sw.linkIn (slot * 256 + way) = some { g.1 with poison := g.1.poison || !ok }) ∧
      (ok = false → t.rd (pk .BRG_CRC_ERR p.val d.val) = s.counted (pk .BRG_CRC_ERR p.val d.val) 1 ∧
        t.rd (pk .BRG_CRC_TOTAL p.val d.val) = s.counted (pk .BRG_CRC_TOTAL p.val d.val) 1 ∧
        way - portFirst (4 + d.val) ∈ (t.bridge p.val d.val).failNow)) ∧
  (∀ (s : State) (p : PileId) (d : BrgEnd) (slot way : Nat) (v : BitVec 1184) (crc : BitVec 32),
    SMap.find? (s.pile p.val).sw.wires (slot * 256 + way) = none ∨ s.portDelivers p.val (4 + d.val) = false → exec (.bridgeWaySlot p d slot way v crc) s = .next s)

/-- How links change state (R250, R255, R261, R263, R265): the stages of training in order, up to READY with the latency measured; a
bridge at both its ends; a port that does not realign in time is down and reported, and retired while a job is loaded; a swap asked for
is acknowledged, and starts at once where no job holds it back or at the step boundary. -/
def Obligations.LinksChange : Prop :=
  (∀ (s : State) (p : PileId) (k : XPort), s.ready (domX p.val k.val) = true →
    let st := s.rd (pk .LNK_STATUS_STATE p.val k.val)
    let goes (o : TrainOutcome) (n : Nat) : Prop :=
      ∃ t, exec (.portTraining p k.val o) s = .next t ∧ t.rd (pk .LNK_STATUS_STATE p.val k.val) = n
    (st = 0 → s.on (pk .LNK_CTL_ENABLE p.val k.val) = true → (s.port p.val k.val).verFails < 4 → goes .detect 1) ∧
    (st = 1 → goes .equalise 2) ∧ (st = 2 → goes .adapt 3) ∧ (st = 3 → goes .align 4) ∧ (st = 4 → goes .verify 5) ∧
    (st = 5 → goes .calibrate 6 ∧ ((s.port p.val k.val).verFails < 3 → goes .verifyFailed 2) ∧
      (3 ≤ (s.port p.val k.val).verFails → goes .verifyFailed 0)) ∧
    (st = 6 → 8 ≤ (laneMap ((s.port p.val k.val).txBad ||| lanesOf s.fused p.val k.val 0)).length →
      8 ≤ (laneMap ((s.port p.val k.val).rxBad ||| lanesOf s.fused p.val k.val 1)).length →
      ∀ lat inv trip, ∃ t, exec (.portTraining p k.val (.ready lat inv trip)) s = .next t ∧
        t.rd (pk .LNK_STATUS_STATE p.val k.val) = (if s.atBoundary p.val = true ∧ (s.port p.val k.val).swapDue = true then 9 else 7) ∧ t.rd (pk .LNK_STATUS_LAT_MEAS p.val k.val) = clipTo 8 lat ∧
        t.on (pk .LNK_STATUS_POL_INV p.val k.val) = inv ∧ (t.port p.val k.val).estLat = estimatedLatency trip) ∧
    (st = 6 → (laneMap ((s.port p.val k.val).rxBad ||| lanesOf s.fused p.val k.val 1)).length < 8 →
      ∀ lat inv trip, goes (.ready lat inv trip) 10)) ∧
  (∀ (s : State) (p : PileId) (d : BrgEnd), bridgePresent p.val d.val = true → s.ready (domB p.val d.val) = true →
    let far := farBridge p.val d.val
    s.ready (domB far.1 far.2) = true → s.rd (pk .BRG_STATUS_STATE far.1 far.2) ≠ 10 →
    let st := s.rd (pk .BRG_STATUS_STATE p.val d.val)
    let goes (o : TrainOutcome) (n : Nat) : Prop := ∃ t, exec (.portTraining p (4 + d.val) o) s = .next t ∧
      t.rd (pk .BRG_STATUS_STATE p.val d.val) = n ∧ t.rd (pk .BRG_STATUS_STATE far.1 far.2) = n
    (st = 0 → (s.bridge p.val d.val).verFails < 4 → goes .align 4) ∧ (st = 4 → goes .verify 5) ∧ (st = 5 → goes (.ready 0 false 0) 7) ∧
    (st = 5 → (s.bridge p.val d.val).verFails < 3 → goes .verifyFailed 4) ∧
    (st = 5 → 3 ≤ (s.bridge p.val d.val).verFails → goes .verifyFailed 0)) ∧
  (∀ (s : State) (p : PileId) (k : XPort), s.rd (pk .LNK_STATUS_STATE p.val k.val) = 8 →
    ∃ t, exec (.realignTimeout p k) s = .next t ∧
      t.rd (pk .LNK_STATUS_STATE p.val k.val) = (if s.jobLoaded = true then 10 else 0) ∧
      (s.jobLoaded = false → s.on (dk .TB_STATUS_LOCKED) = false → Raised s t 0x0008 p.val [k.val])) ∧
  (∀ (s : State) (p : PileId) (k : XPort) (lane : Nat), s.portUp p.val (2 + k.val) = true →
    ∃ t, exec (.swapRequest p k lane) s = .next t ∧ (t.port p.val k.val).farLane = some lane ∧ t.out = s.out ++ [.swapAck p.val k.val] ∧
      t.rd (pk .LNK_STATUS_STATE p.val k.val) = (if s.atBoundary p.val = true ∧ s.rd (pk .LNK_STATUS_STATE p.val k.val) = 7 then 9
        else s.rd (pk .LNK_STATUS_STATE p.val k.val))) ∧
  (∀ (s : State) (p : PileId) (k : XPort), (s.port p.val k.val).swapLane ≠ none →
    (∃ t, exec (.swapAck p k) s = .next t ∧ (t.port p.val k.val).swapAcked = true ∧
      ((s.port p.val k.val).skip = false → (s.port p.val k.val).farLane = none →
        t.rd (pk .LNK_STATUS_STATE p.val k.val) = (if s.atBoundary p.val = true ∧ s.rd (pk .LNK_STATUS_STATE p.val k.val) = 7 then 9
          else s.rd (pk .LNK_STATUS_STATE p.val k.val)))) ∧
    (s.atBoundary p.val = true → (s.port p.val k.val).swapAcked = false →
      ∃ t, exec (.swapAckTimeout p k) s = .next t ∧ t.port p.val k.val = { s.port p.val k.val with skip := true }))

/-! ## The reduction and update engine (chapters 11, 12) -/

/-- COMPRESS and READOUT (R299-R304, R308, R309, R319): a contribution's packet with its trailer stands in the pile buffer, poisoned
where an input is; a bucket is read out into its lines and its record, poisoned where a contribution is missing or bad. -/
def Obligations.ReductionsRun : Prop :=
  (∀ (s : State) (p : PileId) (id n : Nat) (i : Image) (b : Bucket) (c : Contribution), s.job.image = some i → bucketOf i id = some b →
    i.contribs.find? (fun c => c.bucket == id && c.index == n && c.pile == p.val) = some c → s.RueGo p.val true →
    let lines (first k : Nat) : List DBlock := blocksOf 2 ((List.range k).map (fun j => s.rueLine p.val .dram (first + j)))
    let g := lines c.gLine (8 * b.blocks)
    let r := if b.comp = 0 then [] else lines (c.resLine + 8 * b.blocks * s.ver p.val) (8 * b.blocks)
    let bad := g.any DBlock.bad || r.any DBlock.bad
    let o := packBucket b (blockVals g) (blockVals r)
      (fun x => (⟨s.job.seed, s.step, (b.gradTid + c.index) % 2 ^ 32, 0, x / 256⟩ : DrawKey).draw (x % 256))
    let ls := o.1.lines ++ [trailerLine b c.index s.step (wideSquares (blockVals g)) (absMaxOf o.2).toNat o.1.counts.nonfin]
    ∃ t, exec (.compress p id n) s = .next t ∧ (t.pile p.val).rue.rueDone = (s.pile p.val).rue.rueDone + 1 ∧
      t.rd (pk .RED_SENT p.val) = s.counted (pk .RED_SENT p.val) ls.length ∧ (b.comp = 0 → t.dram = s.dram) ∧
      ∀ k l, ls[k]? = some l → c.pktLine + k < bufLines →
        t.sramLine (bufAddr p.val (c.pktLine + k)) = { l with poison := l.poison || bad }) ∧
  (∀ (s : State) (p : PileId) (id : Nat) (i : Image) (b : Bucket) (run : BktRun), s.job.image = some i → bucketOf i id = some b →
    b.ownerDev = i.device → b.ownerPile = p.val → s.bktRun p.val b.id = some run → s.RueGo p.val (b.accSpace == .buf) →
    let ls := (List.range (32 * b.blocks)).map (fun j => s.rueLine p.val b.accSpace (b.accLine + j))
    let bad := run.bad || decide (run.received ≠ b.contrib) || ls.any Line.poison
    let r := readBucket (s.eref p.val b.tracker) s.step run.received bad run.locNorm (ls.flatMap (fun l => (List.range 8).map (accOf l)))
    ∃ t, exec (.readout p id) s = .next t ∧ (t.pile p.val).rue.rueDone = (s.pile p.val).rue.rueDone + 1 ∧
      SMap.find? (t.pile p.val).bktRecs.cur b.id = some r.1 ∧ t.sram = s.sram ∧
      (bad = true → t.rd (pk .RED_POISON_BKT p.val) = s.counted (pk .RED_POISON_BKT p.val) 1 ∧
        (t.pile p.val).rue.causes.testBit cPoison = true) ∧
      ∀ k l, (fp32Lines r.2 bad)[k]? = some l → b.outLine + k < dramLines →
        t.dramWord (dramAddr p.val (b.outLine + k)) = encodeWord l)

/-- The update passes (R335, R339, R341, R342): pass 1 has its place in a phase marked REDUCE, after the readout and before the seal; it
completes there, adds its shards' sums and leaves memory alone, and elsewhere does nothing; pass 2 waits for the whole fused result; with
it, it completes, copies the committed version where the result suppresses the update, and else writes the new layer state; both count
their elements and one RUE operation done. -/
def Obligations.UpdatesRun : Prop :=
  (∀ (s : State) (p : PileId) (n : Nat) (i : Image) (l : LayerRec) (hs : List ShardRec), s.job.image = some i →
    i.update.layers[n]? = some l → s.RueGo p.val false → s.ownShards i p.val l = hs → hs ≠ [] →
    (s.passOneNow p.val i l = false → exec (.updatePass1 p n) s = .next s) ∧
    (s.passOneNow p.val i l = true →
      ∃ t, exec (.updatePass1 p n) s = .next t ∧ (t.pile p.val).rue.rueDone = (s.pile p.val).rue.rueDone + 1 ∧
        t.rd (pk .UPD_STATUS_LAYER p.val) = clipTo Fld.UPD_STATUS_LAYER.width n ∧
        t.rd (pk .UPD_P1_ELEM p.val) = s.counted (pk .UPD_P1_ELEM p.val) ((hs.map (fun h => 256 * h.blocks)).sum) ∧
        t.dram = s.dram ∧ t.sram = s.sram ∧
        ∀ h, hs = [h] → l.g2Sum ≠ l.w2Sum → l.g2Sum ≠ l.u2Sum →
          SMap.getD (t.pile p.val).rue.sums l.g2Sum {} = (SMap.getD (s.pile p.val).rue.sums l.g2Sum {}).add
            (wideEach (blockVals (blocksOf 2 ((List.range (8 * h.blocks)).map (fun j => s.rueLine p.val .dram (h.gLine + j)))))))) ∧
  (∀ (s : State) (p : PileId) (n : Nat), (∀ i, s.job.image = some i → s.fusedHere p.val i = false) → exec (.updatePass2 p n) s = .next s) ∧
  (∀ (s : State) (p : PileId) (n : Nat) (i : Image) (l : LayerRec) (hs : List ShardRec), s.job.image = some i →
    i.update.layers[n]? = some l → s.RueGo p.val true → s.ownShards i p.val l = hs → hs ≠ [] → s.fusedHere p.val i = true →
    let ls := (List.range (1 + extLines i.update)).map (fun k => s.rueLine p.val .buf ((i.fused.map FusedDecl.fusedLine).getD 0 + k))
    ∃ t, exec (.updatePass2 p n) s = .next t ∧ (t.pile p.val).rue.rueDone = (s.pile p.val).rue.rueDone + 1 ∧
      t.rd (pk .UPD_STATUS_LAYER p.val) = clipTo Fld.UPD_STATUS_LAYER.width n ∧
      t.rd (pk .UPD_P2_ELEM p.val) = s.counted (pk .UPD_P2_ELEM p.val) ((hs.map (fun h => 256 * h.blocks)).sum) ∧
      t.sram = s.sram ∧ (suppresses ls = true → t.on (pk .UPD_STATUS_SUPPRESSED p.val) = true) ∧
      ∀ h, hs = [h] → s.ver p.val ≤ 1 →
        (suppresses ls = true → stateLines l.rule h.blocks ≤ h.vstride → (∀ c ∈ i.contribs, c.pile ≠ p.val) →
          h.stateLine + 2 * h.vstride ≤ dramLines → ∀ j, j < stateLines l.rule h.blocks →
          t.dramWord (dramAddr p.val (shardBase h (1 - s.ver p.val) + j)) =
            encodeWord (s.rueLine p.val .dram (shardBase h (s.ver p.val) + j))) ∧
        (suppresses ls = false → shardBase h (1 - s.ver p.val) < dramLines →
          let x := s.rueLine p.val .dram (shardBase h (s.ver p.val))
          let q := s.products p.val l (layerState x).2.1 (layerState x).2.2
          t.dramWord (dramAddr p.val (shardBase h (1 - s.ver p.val))) =
            encodeWord { layerStateLine (((layerState x).1 + 1) % 2 ^ 64) q.1 q.2 with poison := x.poison || x.tagByte 3 != 0xF0 }))
/-! ## Tiles (chapters 04-06) -/

/-- The control slot (R140-R143, R159, R170): a bundle whose other slots have issued issues by it; a scalar register takes its value
and S0 stays zero; loops, branches and back-edges move PC; GATEW and IDLE hold the bundle that follows. -/
def Obligations.ControlSlotIssues : Prop :=
  (∀ (s : State) (p : PileId) (n : TileId) (b : Bundle), s.IssuesLast p.val n.val b →
    let x := s.tile p.val n.val
    let f (hi lo : Nat) : Nat := bitsOf b.c hi lo
    let r (hi lo : Nat) : Word := s.sreg p.val n.val (f hi lo)
    let ends (t : State) (fs : List Fld) : Prop := CtlDone s t p.val n.val fs x.gatePc ∧ MovedOn s t p.val n.val x.lcs x.loops
    let sets (c : Instr) (w : Word) : Prop := ∃ t, exec c s = .next t ∧ ends t [] ∧ SregTaken s t p.val n.val (f 26 23) w
    (cop b = 0 → ∃ t, exec (.cnop p n) s = .next t ∧ ends t [] ∧ (t.tile p.val n.val).sregs = x.sregs) ∧
    (cop b = 1 → ∃ t, exec (.idle p n) s = .next t ∧ ends t [.TSQ_STATUS_IN_IDLE] ∧ (t.tile p.val n.val).sregs = x.sregs ∧
      t.rd (tk .TSQ_STATUS_IN_IDLE p.val n.val) = if b.c.testBit 26 = true ∧ b.imm = 0 then 0 else 1) ∧
    (cop b = 2 → sets (.sli p n) (if b.c.testBit 22 = true then BitVec.ofNat 32 b.imm else (BitVec.ofNat 16 b.c).signExtend 32)) ∧
    (cop b = 3 → ∀ w : Word, w = (if b.c.testBit 11 = true then (BitVec.ofNat 11 b.c).signExtend 32 else r 18 15) →
      ∀ q ∈ ([(0, r 22 19 + w), (1, r 22 19 - w), (2, r 22 19 * w), (3, r 22 19 <<< w.toNat), (4, r 22 19 >>> w.toNat),
        (5, r 22 19 &&& w), (6, r 22 19 ||| w), (7, r 22 19 ^^^ w)] : List (Nat × Word)), f 14 12 = q.1 → sets (.salu p n) q.2) ∧
    (cop b = 4 → (∀ k, k < 4 → f 7 0 = k → sets (.smovp p n) (SMap.getD x.lcs k 0)) ∧
      (∀ k, k < 16 → f 7 0 = 0x10 + k → sets (.smovp p n) (BitVec.ofNat 32 (s.rd (pk .STEP_PARAM p.val k)))) ∧
      ∀ q ∈ ([(0x20, (s.logOf p.val n.val).getD 0), (0x21, p.val), (0x22, s.deviceNo), (0x23, s.step), (0x24, s.step / 2 ^ 32)] :
        List (Nat × Nat)), f 7 0 = q.1 → sets (.smovp p n) (BitVec.ofNat 32 q.2)) ∧
    (cop b = 5 → ∀ k, k = (if b.c.testBit 24 = true then s.rd (pk .STEP_PARAM p.val (f 23 20)) else b.imm) →
      ∃ t, exec (.loop p n) s = .next t ∧ CtlDone s t p.val n.val [] x.gatePc ∧ (t.tile p.val n.val).sregs = x.sregs ∧
        (k = 0 → t.rd (tk .TSQ_STATUS_PC p.val n.val) = clipTo 13 (f 12 0 + 1) ∧ (t.tile p.val n.val).loops = x.loops ∧
          ∀ j, SMap.getD (t.tile p.val n.val).lcs j 0 = if j = f 26 25 then 0 else SMap.getD x.lcs j 0) ∧
        (k ≠ 0 → MovedOn s t p.val n.val (SMap.put 0 x.lcs (f 26 25) 0)
          (⟨f 26 25, s.rd (tk .TSQ_STATUS_PC p.val n.val) + 1, f 12 0, k⟩ :: x.loops))) ∧
    (cop b = 6 → ∀ q ∈ ([(0, r 26 23 == r 22 19), (1, r 26 23 != r 22 19), (2, (r 26 23).slt (r 22 19)), (3, !(r 26 23).slt (r 22 19)),
        (4, (r 26 23).ult (r 22 19)), (5, !(r 26 23).ult (r 22 19)), (6, true)] : List (Nat × Bool)), f 18 16 = q.1 →
      ∃ t, exec (.br p n) s = .next t ∧ CtlDone s t p.val n.val [] x.gatePc ∧ (t.tile p.val n.val).sregs = x.sregs ∧
        (q.2 = true → t.rd (tk .TSQ_STATUS_PC p.val n.val) = f 12 0 ∧ (t.tile p.val n.val).loops = loopsAt (f 12 0) x.loops ∧
          (t.tile p.val n.val).lcs = x.lcs) ∧
        (q.2 = false → MovedOn s t p.val n.val x.lcs x.loops)) ∧
    (cop b = 7 → ∃ t, exec (.gatew p n) s = .next t ∧ CtlDone s t p.val n.val [.TSQ_STATUS_IN_GATE] (s.rd (tk .TSQ_STATUS_PC p.val n.val)) ∧
      (t.tile p.val n.val).sregs = x.sregs ∧ t.rd (tk .TSQ_STATUS_IN_GATE p.val n.val) = 1 ∧
      (b.c.testBit 0 = true → t.rd (tk .TSQ_STATUS_PC p.val n.val) = 0) ∧
      (b.c.testBit 0 = false → MovedOn s t p.val n.val x.lcs x.loops))) ∧
  (∀ (s : State) (p : PileId) (n : TileId), ∃ t, exec (.idleEnd p n) s = .next t ∧
    Slotted s t p.val n.val [.TSQ_STATUS_IN_IDLE] ∧ t.tile p.val n.val = s.tile p.val n.val ∧
    t.rd (tk .TSQ_STATUS_IN_IDLE p.val n.val) = 0)

/-- How bundles come to issue (R138, R155, R159, R165, R166): an empty slot and a satisfied WAIT do nothing; a slot held back stalls
the whole bundle; a faulting bundle issues no slot, its first fault is recorded and fault mode entered; a tile arrives once its
gate wait is satisfied; a wait beyond its limit faults. -/
def Obligations.BundlesHoldAndFault : Prop :=
  (∀ (s : State) (p : PileId) (n : TileId) (b : Bundle), s.Issues p.val n.val b →
    let x := s.tile p.val n.val
    let ends (c : Instr) (i : Issued → Issued) : Prop := ∃ t, exec c s = .next t ∧ Slotted s t p.val n.val [] ∧
      t.tile p.val n.val = { x with issued := i (t.tile p.val n.val).issued }
    (aop b = 0 → x.issued.a = false → ends (.anop p n) (fun i => { i with a := true })) ∧
    ((vslot b).vop = 0 → x.issued.v = false → ends (.vnop p n) (fun i => { i with v := true })) ∧
    (mop b = 0 → x.issued.m = false → ends (.mnop p n) (fun i => { i with m := true })) ∧
    (mop b = 2 → x.issued.m = false → ends (.wait p n) (fun i => { i with m := true }))) ∧
  (∀ (s : State) (p : PileId) (n : TileId) (c : Instr), s.seqGo p.val n.val = true →
    c ∈ [Instr.anop p n, .amm p n, .vnop p n, .vadd p n, .mnop p n, .mvgo p n, .wait p n, .cnop p n, .idle p n, .sli p n, .salu p n,
      .smovp p n, .loop p n, .br p n, .gatew p n] →
    let x := s.tile p.val n.val
    let b := s.bundle p.val n.val
    let fs := s.bundleFaults p.val n.val b (s.faultMode p.val n.val)
    (x.issued.started = false → (x.issued.checked = true ∨ fs = []) → s.faultMode p.val n.val = false → s.heldBy p.val n.val b ≠ 0 →
      ∃ t, exec c s = .next t ∧ Slotted s t p.val n.val [] ∧ t.stallNow p.val n.val = s.heldBy p.val n.val b ∧
        t.tile p.val n.val = { x with issued := { x.issued with checked := true } }) ∧
    (x.issued.checked = false → fs ≠ [] →
      ∃ t, exec c s = .next t ∧ OnlyTile s t p.val n.val ∧ t.sram = s.sram ∧ t.rd (tk .TSQ_STATUS_FAULT_MODE p.val n.val) = 1 ∧
        t.rd (tk .TSQ_ISSUE p.val n.val) = s.rd (tk .TSQ_ISSUE p.val n.val) ∧
        (s.on (tk .TSQ_FAULT_VALID p.val n.val) = false → t.rd (tk .TSQ_FAULT_VALID p.val n.val) = 1 ∧
          t.rd (tk .TSQ_FAULT_PC p.val n.val) = clipTo 13 (s.rd (tk .TSQ_STATUS_PC p.val n.val)) ∧
          ∃ q ∈ fs, t.rd (tk .TSQ_FAULT_CODE p.val n.val) = q.1 ∧ t.rd (tk .TSQ_FAULT_SLOT p.val n.val) = q.2) ∧
        (s.on (tk .TSQ_FAULT_VALID p.val n.val) = true →
          ∀ f ∈ [Fld.TSQ_FAULT_VALID, .TSQ_FAULT_CODE, .TSQ_FAULT_SLOT, .TSQ_FAULT_PC],
            t.rd (tk f p.val n.val) = s.rd (tk f p.val n.val)) ∧
        (s.cFaults p.val n.val b = [] → t.tile p.val n.val = x ∧
          t.rd (tk .TSQ_STATUS_PC p.val n.val) = s.rd (tk .TSQ_STATUS_PC p.val n.val)) ∧
        (s.cFaults p.val n.val b ≠ [] → MovedOn s t p.val n.val x.lcs x.loops ∧ t.tile p.val n.val = { x with
          issued := { fetch := (t.tile p.val n.val).issued.fetch }
          loops := (t.tile p.val n.val).loops, lcs := (t.tile p.val n.val).lcs }))) ∧
  (∀ (s : State) (p : PileId) (n : TileId), s.inGateWait p.val n.val = true →
    ∃ t, exec (.tileArrival p n) s = .next t ∧ OnlyTile s t p.val n.val ∧ (∀ q, t.pile q = s.pile q) ∧ t.sram = s.sram ∧ t.out = s.out ∧
      RegsKept s t (fun k => ofTile p.val n.val [.TSQ_STATUS_STALL, .TSQ_STALL_CLK] k ∨
        (s.drained p.val n.val = true ∧ k = dk .GOV_STATUS_FILLER)) ∧
      t.tile p.val n.val = { s.tile p.val n.val with arrived := s.drained p.val n.val } ∧
      t.rd (tk .TSQ_STATUS_STALL p.val n.val) = if s.drained p.val n.val = true then 0 else 5) ∧
  (∀ (s : State) (p : PileId) (n : TileId), s.on (tk .TSQ_WAIT_LIMIT p.val n.val) = true →
    s.on (tk .TSQ_FAULT_VALID p.val n.val) = false →
    let b := s.bundle p.val n.val
    let faulted (t : State) (slot pc : Nat) : Prop := OnlyTile s t p.val n.val ∧ t.sram = s.sram ∧
      t.rd (tk .TSQ_STATUS_FAULT_MODE p.val n.val) = 1 ∧ t.rd (tk .TSQ_FAULT_VALID p.val n.val) = 1 ∧
      t.rd (tk .TSQ_FAULT_CODE p.val n.val) = 6 ∧ t.rd (tk .TSQ_FAULT_SLOT p.val n.val) = slot ∧
      t.rd (tk .TSQ_FAULT_PC p.val n.val) = clipTo 13 pc ∧
      ∀ f ∈ [Fld.TSQ_STATUS_PC, .TSQ_STATUS_IN_GATE, .TSQ_ISSUE], t.rd (tk f p.val n.val) = s.rd (tk f p.val n.val)
    (s.inGateWait p.val n.val = true → s.drained p.val n.val = false →
      ∃ t, exec (.waitLimit p n) s = .next t ∧ faulted t 0 (s.tile p.val n.val).gatePc ∧ t.tile p.val n.val = s.tile p.val n.val) ∧
    (s.seqGo p.val n.val = true → s.faultMode p.val n.val = false → (s.tile p.val n.val).issued.started = false → mop b = 2 →
      s.bundleFaults p.val n.val b false = [] → s.waitMet p.val n.val b = false →
      ∃ t, exec (.waitLimit p n) s = .next t ∧ faulted t 3 (s.rd (tk .TSQ_STATUS_PC p.val n.val)) ∧ t.tile p.val n.val = { s.tile p.val n.val with issued := {} }))

/-- The block mover (R152-R158): MVGO queues its descriptor; COPY, GATHER and SCATTER deliver each line that they read to its place
and change no other line, once what they leave in flight is written, an index fault counted and never moving the lines it names;
completion, in the order of the last writes, writes what is in flight until then, waiting for a domain that is asleep, and raises SYNC, or
SYNC_NEXT for a transfer ahead of its phase. -/
def Obligations.MoversRun : Prop :=
  (∀ (s : State) (p : PileId) (n : TileId) (b : Bundle), s.Issues p.val n.val b → mop b = 1 → (s.tile p.val n.val).issued.m = false →
    ∃ t, exec (.mvgo p n) s = .next t ∧ Slotted s t p.val n.val [] ∧ (t.tile p.val n.val).issued.m = true ∧
      t.tile p.val n.val = { s.tile p.val n.val with
        issued := (t.tile p.val n.val).issued, queue := (s.tile p.val n.val).queue ++ [s.mvOp p.val n.val b] }) ∧
  (∀ (s : State) (p : PileId) (n : TileId) (q o : MvOp) (c : Instr), s.Legal → s.MoveGo p.val n.val q o →
    (o.typ, c) ∈ [(0, Instr.copy p n), (1, .gather p n), (2, .scatter p n)] →
    ∃ t, exec c s = .next t ∧ t.tile p.val n.val = { s.tile p.val n.val with
        mover := .moving, begun := (s.tile p.val n.val).begun + 1, flight := (t.tile p.val n.val).flight
        queue := (s.tile p.val n.val).startedQueue o.readClocks (moveLatency o - 1) } ∧
      t.rd (tk .MOV_STATUS_MVD p.val n.val) = clipTo 12 o.mvd ∧
      t.rd (tk .MOV_INDEX_ERR p.val n.val) = s.counted (tk .MOV_INDEX_ERR p.val n.val)
        ((List.range o.count1).filter (fun j => s.runPick p.val n.val o j == .fault)).length ∧
      (∀ j i a, j < o.count1 → i < o.count0 → s.moveTo p.val n.val o j i = some a →
        t.SoonHolds p.val n.val o.dstSpace o.dstTile a (s.moved p.val n.val o j i)) ∧
      SoonKept s t p.val n.val (fun dram x => ∃ j i a, j < o.count1 ∧ i < o.count0 ∧ s.moveTo p.val n.val o j i = some a ∧
        homeOf p.val o.dstSpace o.dstTile a = (dram, x))) ∧
  (∀ (s : State) (p : PileId) (n : TileId) (o : MvOp), (s.tile p.val n.val).begun ≠ 0 → s.unitsRun p.val n.val = true →
    (s.tile p.val n.val).queue[(s.tile p.val n.val).firstDone]? = some o →
    let y := s.tile p.val n.val
    let i := y.firstDone
    let mine := (landing (doneDue i o) y.flight).1
    ((∃ w ∈ mine, s.mustWait p.val w.space w.tile = true) →
      ∃ t, exec (.moverDone p n) s = .next t ∧ t.dram = s.dram ∧ t.sram = s.sram ∧ (t.tile p.val n.val).flight = y.flight ∧
        (t.tile p.val n.val).queue = y.queue) ∧
    ((∀ w ∈ mine, s.mustWait p.val w.space w.tile = false) → (s.dom (domTile p.val n.val)).retDue = false →
      ∃ t, exec (.moverDone p n) s = .next t ∧ t.tile p.val n.val = y.moveDone i (landing (doneDue i o) y.flight).2 ∧
        ((∀ w ∈ y.flight, (w.space = .dram → s.memPlain p.val) ∧ w.at' < Space.lines w.space ∧ w.tile < 9) →
          SoonKept s t p.val n.val (fun _ _ => False) ∧
          t.rd (tk .MOV_LINES p.val n.val) = s.counted (tk .MOV_LINES p.val n.val) mine.length) ∧
        StoreKept s t (fun dram x => ∃ w ∈ mine, homeOf p.val w.space w.tile w.at' = (dram, x)) ∧
        (∀ p' t', p' * 9 + t' ≠ p.val * 9 + n.val → t.tile p' t' = s.tile p' t') ∧
        let k := tk (if o.ahead = true ∧ o.crossed = false then .SYNC_NEXT else .SYNC) p.val n.val o.syncIdx
        t.rd k = s.counted k 1 ∧ (mine = [] → RegsKept s t (fun j => j = k) ∧ OnlyTile s t p.val n.val ∧ t.sram = s.sram)))

/-- Arrays (R81, R103, R109, R111, R116, R147): an operation starts at once on an idle array and else waits, and the pending one starts
when its time comes; completion writes each line the operation delivers, the last one to a line standing, and no other line, counts
the operation and its poisoned blocks, and counts and flags failed checksums. -/
def Obligations.ArraysRun : Prop :=
  (∀ (s : State) (p : PileId) (n : TileId) (b : Bundle), s.Issues p.val n.val b → aop b = 1 → aArr b < 3 →
    (s.tile p.val n.val).issued.a = false →
    let y := (s.tile p.val n.val).arr (aArr b)
    let o := s.arrOp p.val n.val b y.seq
    ∃ t, exec (.amm p n) s = .next t ∧ OnlyTile s t p.val n.val ∧ t.sram = s.sram ∧
      ((t.tile p.val n.val).arr (aArr b)).seq = y.seq + 1 ∧
      (∀ a, a < 3 → a ≠ aArr b → (t.tile p.val n.val).arr a = (s.tile p.val n.val).arr a) ∧
      (y.running = [] → ((t.tile p.val n.val).arr (aArr b)).pending = y.pending ∧ OpStarted s t p.val n.val (aArr b) o) ∧
      (y.running ≠ [] → (t.tile p.val n.val).arr (aArr b) = { y with pending := some o, seq := y.seq + 1 })) ∧
  (∀ (s : State) (p : PileId) (n : TileId) (a : ArrId) (o : ArrOp), ((s.tile p.val n.val).arr a.val).pending = some o →
    s.unitsRun p.val n.val = true → ((s.tile p.val n.val).arr a.val).running.length < 3 →
    ∃ t, exec (.pendingStart p n a) s = .next t ∧ OnlyTile s t p.val n.val ∧ t.sram = s.sram ∧
      ((t.tile p.val n.val).arr a.val).pending = none ∧ OpStarted s t p.val n.val a.val o) ∧
  (∀ (s : State) (p : PileId) (n : TileId) (a : ArrId) (o : ArrOp) (r : ArrResult) (rest : List (ArrOp × ArrResult)),
    ((s.tile p.val n.val).arr a.val).running = (o, r) :: rest → s.unitsRun p.val n.val = true → (∀ w ∈ r.writes, w.1 < lsLines) →
    ∃ t, exec (.arrayDone p n a) s = .next t ∧ OnlyTile s t p.val n.val ∧
      ((t.tile p.val n.val).arr a.val) = { (s.tile p.val n.val).arr a.val with running := rest } ∧
      (∀ x, x < lsLines → t.sramLine (lsAddr p.val n.val x) =
        ((r.writes.reverse.find? (fun w => w.1 == x)).map Prod.snd).getD (s.sramLine (lsAddr p.val n.val x))) ∧
      StoreKept s t (inLs p.val n.val 0 lsLines) ∧
      SMap.find? (t.tile p.val n.val).outDigs (a.val * 65536 + o.seq) = some r.outDig ∧
      t.rd (tk .ARR_DONE p.val n.val a.val) = s.counted (tk .ARR_DONE p.val n.val a.val) 1 ∧
      t.rd (tk .ARR_POISON_OUT p.val n.val a.val) = s.counted (tk .ARR_POISON_OUT p.val n.val a.val) r.counts.poison ∧
      (r.fails ≠ [] → t.rd (tk .ARR_STATUS_CHK_FAIL p.val n.val a.val) = 1 ∧
        t.rd (tk .ARR_CHK_MISMATCH p.val n.val a.val) = s.counted (tk .ARR_CHK_MISMATCH p.val n.val a.val) r.fails.length))

/-- Lane operations (R122, R126, R149, R150): each active lane of VD takes the operation's result, rounded once where it is arithmetic,
with the poison of what it reads; an inactive lane keeps its value; the counters rise by what active lanes count. Where an active lane
of VMAXR or VMINR is a NaN, the result is some active lane's value (the model's choice, log 41). -/
def Obligations.LanesCompute : Prop :=
  ∀ (s : State) (p : PileId) (n : TileId) (b : Bundle) (v : VSlot), s.IssuesV p.val n.val b v →
    let a (i : Nat) : Lane := lane (s.vreg p.val n.val v.va) i
    let c (i : Nat) : Lane := lane (s.vreg p.val n.val v.vb) i
    let d (i : Nat) : Lane := lane (s.vreg p.val n.val v.vc) i
    let m := s.vmode p.val n.val v.vd
    let one (f : FNum → FNum) (i : Nat) : LaneOut := laneArith m [a i] (f (num32 (a i).bits))
    let two (f : FNum → FNum → FNum) (i : Nat) : LaneOut := laneArith m [a i, c i] (f (num32 (a i).bits) (num32 (c i).bits))
    let plain (x : Lane) : LaneOut := { lane := x }
    let q := s.preg p.val n.val v.fn
    (∀ o ∈ ([
      (1, Instr.vadd p n, two FNum.add), (2, .vsub p n, two FNum.sub), (3, .vmul p n, two FNum.mul),
      (4, .vfma p n, fun i => laneArith m [a i, c i, d i] (((num32 (a i).bits).mul (num32 (c i).bits)).add (num32 (d i).bits))),
      (5, .vmin p n, two fnumMin), (6, .vmax p n, two fnumMax), (7, .vabs p n, one FNum.abs), (8, .vneg p n, one FNum.negate),
      (0x11, .vsel p n, fun i =>
        let r := if q.bits.getLsbD i = true then a i else c i
        { plain ⟨passBits r.bits, (a i).poison || (c i).poison || q.poison.getLsbD i⟩ with nfIn := nonfiniteOf [a i, c i] }),
      (0x18, .vcvt p n, fun i => if v.fn = 0 then laneBits [a i] (toInt32 (num32 (a i).bits))
        else plain ⟨(laneArith m [] (.fin ⟨(a i).bits.msb, (a i).bits.toInt.natAbs, 0⟩)).lane.bits, (a i).poison⟩),
      (0x20, .vsfu p n, fun i =>
        let r := sfu v.fn (a i).bits
        { lane := ⟨r.1, (a i).poison⟩, nfIn := nonfiniteOf [a i]
          nfOut := oneIf ((num32 (a i).bits).finite && !(num32 r.1).finite), flush := oneIf r.2.2, domain := oneIf r.2.1 }),
      (0x34, .wbc p n, fun _ => wideLane (s.wreg p.val n.val v.va)),
      (0x3C, .vperm p n, fun i => laneBits [a (permLane v.fn i)] (passBits (a (permLane v.fn i)).bits)),
      (0x48, .vmovi p n, fun _ => plain ⟨BitVec.ofNat 32 b.imm, false⟩),
      (0x49, .vmovs p n, fun _ => plain ⟨s.sreg p.val n.val v.sx, false⟩)] : List (Nat × Instr × (Nat → LaneOut))), v.vop = o.1 →
      ∃ t, exec o.2.1 s = .next t ∧ LanesTaken s t p.val n.val v o.2.2) ∧
    (∀ o ∈ [(0x2A, Instr.vmaxr p n), (0x2B, .vminr p n)], v.vop = o.1 → v.fn < 256 →
      (∃ x ∈ s.reduced p.val n.val v, (num32 x.bits).isNan = true) →
      ∃ t, exec o.2 s = .next t ∧ ∃ x ∈ s.reduced p.val n.val v,
        (lane (t.vreg p.val n.val v.vd) v.fn).bits = BitVec.ofNat 32 (fp32Exact (num32 x.bits)).bits)

/-- Predicates (R121), and what reductions and wide scalars give (R124, R125, R128, R149): inactive lanes keep their values and count
nothing, add exact zero to sums, and are no extreme and no candidate; with none active the extremes are infinite and VTOPK finds
nothing. -/
def Obligations.InactiveLanesStayOut : Prop :=
  ∀ (s : State) (p : PileId) (n : TileId) (b : Bundle) (v : VSlot), s.IssuesV p.val n.val b v →
    let a (i : Nat) : Lane := lane (s.vreg p.val n.val v.va) i
    let c (i : Nat) : Lane := lane (s.vreg p.val n.val v.vb) i
    let xs := s.reduced p.val n.val v
    let bad := s.reducedPoison p.val n.val v
    let w := s.wreg p.val n.val
    let inK := tk .VEC_NONFINITE_IN p.val n.val
    let none := ∀ i, i < 256 → s.laneOn p.val n.val v i = false
    let reads (i : Nat) : List Lane :=
      if [1, 2, 3, 5, 6, 0x11].contains v.vop = true then [a i, c i]
      else if v.vop = 4 then [a i, c i, lane (s.vreg p.val n.val v.vc) i]
      else if v.vop = 7 ∨ v.vop = 8 ∨ v.vop = 0x20 ∨ v.vop = 0x18 ∧ v.fn = 0 then [a i]
      else if v.vop = 0x3C then [a (permLane v.fn i)] else []
    (∀ o ∈ [(1, Instr.vadd p n), (2, .vsub p n), (3, .vmul p n), (4, .vfma p n), (5, .vmin p n), (6, .vmax p n), (7, .vabs p n),
        (8, .vneg p n), (0x11, .vsel p n), (0x18, .vcvt p n), (0x20, .vsfu p n), (0x34, .wbc p n), (0x3C, .vperm p n), (0x48, .vmovi p n),
        (0x49, .vmovs p n)], v.vop = o.1 →
      ∃ t, exec o.2 s = .next t ∧
        (∀ i, i < 256 → s.laneOn p.val n.val v i = false → lane (t.vreg p.val n.val v.vd) i = lane (s.vreg p.val n.val v.vd) i) ∧
        t.rd inK = s.counted inK (((s.activeLanes p.val n.val v).map (fun i => nonfiniteOf (reads i))).sum)) ∧
    (v.vop = 0x10 → ∃ t, exec (.vcmp p n) s = .next t ∧ VecDone s t p.val n.val ∧ VecSlotted s t p.val n.val ∧
      t.rd inK = s.counted inK (((s.activeLanes p.val n.val v).map (fun i => nonfiniteOf [a i, c i])).sum) ∧
      (∀ k, k ≠ v.vd → t.preg p.val n.val k = s.preg p.val n.val k) ∧ (t.tile p.val n.val).vregs = (s.tile p.val n.val).vregs ∧
      (t.tile p.val n.val).wregs = (s.tile p.val n.val).wregs ∧
      ∀ i, i < 256 → (t.preg p.val n.val v.vd).bits.getLsbD i =
          (if s.laneOn p.val n.val v i = true then fnumCond v.fn (num32 (a i).bits) (num32 (c i).bits)
            else (s.preg p.val n.val v.vd).bits.getLsbD i) ∧
        (t.preg p.val n.val v.vd).poison.getLsbD i =
          (if s.laneOn p.val n.val v i = true then (a i).poison || (c i).poison || s.lanePoison p.val n.val v i
            else (s.preg p.val n.val v.vd).poison.getLsbD i)) ∧
    (∀ o ∈ ([(0x28, Instr.vsumw p n, id), (0x29, .vssqw p n, fun x => x.mul x)] : List (Nat × Instr × (FNum → FNum))), v.vop = o.1 →
      ∃ t, exec o.2.1 s = .next t ∧ t.rd inK = s.counted inK (nonfiniteOf xs) ∧
        WideTaken s t p.val n.val v.vd
          ⟨wideRound ((w v.vd).num.add (exactSum (xs.map (fun x => o.2.2 (num32 x.bits))))), (w v.vd).poison || bad⟩) ∧
    (∀ o ∈ ([(0x30, Instr.wadd p n, FNum.add), (0x31, .wsub p n, FNum.sub), (0x32, .wmul p n, FNum.mul)] :
        List (Nat × Instr × (FNum → FNum → FNum))), v.vop = o.1 →
      ∃ t, exec o.2.1 s = .next t ∧ WideTaken s t p.val n.val v.vd
        ⟨wideRound (o.2.2 (w v.va).num (w v.vb).num), (w v.va).poison || (w v.vb).poison⟩) ∧
    (v.vop = 0x35 → ∃ t, exec (.wset p n) s = .next t ∧
      WideTaken s t p.val n.val v.vd ⟨num32 (a v.fn).bits, (a v.fn).poison⟩) ∧
    (v.vop = 0x33 → v.fn < 256 → ∃ t, exec (.wrd p n) s = .next t ∧ VecDone s t p.val n.val ∧ VecSlotted s t p.val n.val ∧
      OnlyVregs s t p.val n.val [v.vd] ∧
      ∀ i, i < 256 → lane (t.vreg p.val n.val v.vd) i =
        if i = v.fn ∧ s.laneOn p.val n.val v i = true then
          ⟨rnd32 (w v.va).num, (w v.va).poison || s.lanePoison p.val n.val v i⟩
        else lane (s.vreg p.val n.val v.vd) i) ∧
    (∀ o ∈ ([(0x2A, Instr.vmaxr p n, fun x y => FNum.lt x y, 0xFF800000#32, 0x80000000#32, 0x00000000#32),
          (0x2B, .vminr p n, fun x y => FNum.lt y x, 0x7F800000#32, 0x00000000#32, 0x80000000#32)] :
        List (Nat × Instr × (FNum → FNum → Bool) × Word × Word × Word)), v.vop = o.1 → v.fn < 256 →
      ∃ t, exec o.2.1 s = .next t ∧ VecDone s t p.val n.val ∧ VecSlotted s t p.val n.val ∧ OnlyVregs s t p.val n.val [v.vd] ∧
        t.rd inK = s.counted inK (nonfiniteOf xs) ∧
        (∀ i, i < 256 → i ≠ v.fn → lane (t.vreg p.val n.val v.vd) i = lane (s.vreg p.val n.val v.vd) i) ∧
        let y := lane (t.vreg p.val n.val v.vd) v.fn
        y.poison = bad ∧ (none → y.bits = o.2.2.2.1) ∧
        (xs ≠ [] → (∀ x ∈ xs, (num32 x.bits).isNan = false) → (∃ x ∈ xs, x.bits = y.bits) ∧
          (∀ x ∈ xs, o.2.2.1 (num32 y.bits) (num32 x.bits) = false) ∧
          (y.bits = o.2.2.2.2.1 → ∀ x ∈ xs, x.bits ≠ o.2.2.2.2.2))) ∧
    (v.vop = 0x38 → v.fn % 16 ≤ 8 → ∃ t, exec (.vtopk p n) s = .next t ∧ VecDone s t p.val n.val ∧ VecSlotted s t p.val n.val ∧
      OnlyVregs s t p.val n.val [v.vd, v.vc] ∧
      (∀ i, i < 256 → v.fn % 16 ≤ i → lane (t.vreg p.val n.val v.vd) i = lane (s.vreg p.val n.val v.vd) i ∧
        lane (t.vreg p.val n.val v.vc) i = lane (s.vreg p.val n.val v.vc) i) ∧
      (none → v.fn.testBit 4 = false → ∀ i, i < v.fn % 16 → (lane (t.vreg p.val n.val v.vc) i).bits = 0xFFFF#32 ∧
        (v.vd ≠ v.vc → (lane (t.vreg p.val n.val v.vd) i).bits = 0xFF800000#32)) ∧
      ∃ ranked : List Cand, ranked.Perm (s.topAll p.val n.val v) ∧ ranked.Pairwise (fun x y => x.above y = true) ∧
        ∀ i, i < v.fn % 16 →
          let g := (ranked[i]?).getD ⟨.inf true, 0xFFFF⟩
          (lane (t.vreg p.val n.val v.vc) i).bits = BitVec.ofNat 32 g.idx ∧
          (v.vd ≠ v.vc → (lane (t.vreg p.val n.val v.vd) i).bits = BitVec.ofNat 32 (fp32Exact g.num).bits))

/-- Vector loads and stores (R63, R131, R135, R151): a load fills every lane from the block at its line; a store writes VA as one block
under its encode descriptor; a predicate load takes a quarter of a raw line; an index store writes the low halves of the active
lanes, 0xFFFF for the others; no other line changes; VMARK sets VNARROW. -/
def Obligations.VectorMemoryActs : Prop :=
  ∀ (s : State) (p : PileId) (n : TileId) (b : Bundle) (v : VSlot), s.IssuesV p.val n.val b v → s.vFaults p.val n.val b = [] →
    let first := s.vLine p.val n.val v
    let r := s.vreg p.val n.val v.va
    let x := s.tile p.val n.val
    (v.vop = 0x40 → ∀ f, f = s.fed p.val n.val first v.vb (v.fn.testBit 15) →
      ∃ t, exec (.vld p n) s = .next t ∧ VecDone s t p.val n.val ∧ OnlyTile s t p.val n.val ∧ t.sram = s.sram ∧
        OnlyVregs s t p.val n.val [v.vd] ∧
        t.vreg p.val n.val v.vd = (f.block.vals.zip f.block.poison).map (fun q => ⟨BitVec.ofNat 32 (fp32Exact q.1).bits, q.2⟩) ∧
        t.rd (tk .CHK_BLOCK_FAIL p.val n.val) = s.counted (tk .CHK_BLOCK_FAIL p.val n.val) f.bad) ∧
    (v.vop = 0x41 → ∀ d, d = encOf (s.encDesc p.val n.val (b.imm % 1024)) (s.scalar p.val n.val (bitsOf b.imm 13 10)) →
      ∃ t, exec (.vst p n) s = .next t ∧ OnlyTile s t p.val n.val ∧ (t.tile p.val n.val).vstSeq = x.vstSeq + 1 ∧
        (t.tile p.val n.val).vregs = x.vregs ∧
        let key : DrawKey := ⟨s.job.seed, s.step, d.tensorId, s.scalar p.val n.val v.sy, s.scalar p.val n.val (v.sy + 1)⟩
        LinesStored s t p.val n.val first (encodeBlock d key (r.map (fun l => num32 l.bits)) (poisonOf r)).1) ∧
    (v.vop = 0x42 → ∀ l, l = s.feedLine p.val n.val first →
      ∃ t, exec (.vldm p n) s = .next t ∧ VecDone s t p.val n.val ∧ OnlyTile s t p.val n.val ∧ t.sram = s.sram ∧
        (∀ k, k ≠ v.vd → t.preg p.val n.val k = s.preg p.val n.val k) ∧ (t.tile p.val n.val).vregs = x.vregs ∧
        (t.tile p.val n.val).wregs = x.wregs ∧
        (t.preg p.val n.val v.vd).bits = BitVec.ofNat 256 (l.1.body.toNat / 2 ^ (256 * v.vb)) ∧
        (t.preg p.val n.val v.vd).poison = (if l.1.poison = true ∨ l.1.tagByte 3 ≠ 0xF0 then BitVec.allOnes 256 else 0) ∧
        t.rd (tk .CHK_BLOCK_FAIL p.val n.val) = s.counted (tk .CHK_BLOCK_FAIL p.val n.val) l.2) ∧
    (v.vop = 0x43 → ∃ t ls, exec (.vsti p n) s = .next t ∧ OnlyTile s t p.val n.val ∧ (t.tile p.val n.val).vstSeq = x.vstSeq + 1 ∧
      (t.tile p.val n.val).vregs = x.vregs ∧ LinesStored s t p.val n.val first ls ∧ ls.length = 4 ∧
      ∀ q l, ls[q]? = some l → l.tagByte 3 = 0xF0 ∧
        (∀ k, k < 64 → l.half k = if s.laneOn p.val n.val v (64 * q + k) = true then (lane r (64 * q + k)).bits.toNat % 65536 else 0xFFFF) ∧
        (l.poison = true ↔ ∃ k, k < 64 ∧ (s.laneOn p.val n.val v (64 * q + k) = true ∧ (lane r (64 * q + k)).poison = true ∨
          s.lanePoison p.val n.val v (64 * q + k) = true))) ∧
    (v.vop = 0x4C → ∃ t, exec (.vmark p n) s = .next t ∧ VecDone s t p.val n.val ∧
      Slotted s t p.val n.val [.VEC_STATUS_OP_SEQ, .VNARROW] ∧ OnlyVregs s t p.val n.val [] ∧
      t.rd (tk .VNARROW p.val n.val) = clipTo 32 b.imm)

end
end

