-- ==== Sys2Proof/Laws/SMap.lean ====
section
/-! SUPPORT. Laws of sparse maps: reading after writing, and that writing keeps the canonical form. -/

namespace Sys2Proof.Machine

variable {α : Type}

theorem SMap.find?_insert_self (m : SMap α) (k : Nat) (y : α) : SMap.find? (SMap.insert m k y) k = some y := by
  induction m with
  | nil => simp [SMap.insert, SMap.find?]
  | cons q r ih =>
    obtain ⟨a, x⟩ := q
    by_cases h : a = k
    · simp [SMap.insert, SMap.find?, h]
    · by_cases hk : k < a <;> simp [SMap.insert, SMap.find?, h, hk, ih]

theorem SMap.find?_insert_of_ne (m : SMap α) {j k : Nat} (y : α) (h : j ≠ k) :
    SMap.find? (SMap.insert m k y) j = SMap.find? m j := by
  induction m with
  | nil => simp [SMap.insert, SMap.find?, Ne.symm h]
  | cons q r ih =>
    obtain ⟨a, x⟩ := q
    by_cases ha : a = k
    · subst ha; simp [SMap.insert, SMap.find?, Ne.symm h]
    · by_cases hk : k < a <;> simp [SMap.insert, SMap.find?, ha, hk, ih, Ne.symm h]

theorem SMap.find?_filter_self (m : SMap α) (k : Nat) : SMap.find? (m.filter (fun kv => kv.1 != k)) k = none := by
  induction m with
  | nil => rfl
  | cons q r ih =>
    obtain ⟨a, x⟩ := q
    by_cases h : a = k <;> simp [SMap.find?, h, ih]

theorem SMap.find?_filter_of_ne (m : SMap α) {j k : Nat} (h : j ≠ k) :
    SMap.find? (m.filter (fun kv => kv.1 != k)) j = SMap.find? m j := by
  induction m with
  | nil => rfl
  | cons q r ih =>
    obtain ⟨a, x⟩ := q
    by_cases ha : a = k
    · subst ha; simp [SMap.find?, ih, Ne.symm h]
    · by_cases hj : a = j <;> simp [SMap.find?, ha, hj, ih]
      subst hj; simp [h, SMap.find?]

/-- A key that was set reads as it was set. -/
@[simp] theorem SMap.find?_set_self (m : SMap α) (k : Nat) (v : Option α) : SMap.find? (SMap.set m k v) k = v := by
  cases v with
  | none => exact SMap.find?_filter_self m k
  | some y => exact SMap.find?_insert_self m k y

/-- Setting one key leaves every other key as it was. -/
theorem SMap.find?_set_of_ne (m : SMap α) {j k : Nat} (v : Option α) (h : j ≠ k) :
    SMap.find? (SMap.set m k v) j = SMap.find? m j := by
  cases v with
  | none => exact SMap.find?_filter_of_ne m h
  | some y => exact SMap.find?_insert_of_ne m y h

variable [DecidableEq α]

/-- A key that was put reads as the value put. -/
@[simp] theorem SMap.getD_put_self (d : α) (m : SMap α) (k : Nat) (v : α) : SMap.getD (SMap.put d m k v) k d = v := by
  by_cases h : v = d <;> simp [SMap.getD, SMap.put, h]

theorem SMap.getD_put_of_ne (d : α) (m : SMap α) {j k : Nat} (v : α) (h : j ≠ k) :
    SMap.getD (SMap.put d m k v) j d = SMap.getD m j d := by
  simp [SMap.getD, SMap.put, SMap.find?_set_of_ne m _ h]

/-! ## The canonical form -/

omit [DecidableEq α] in
theorem SMap.sortedFrom_mono {lo lo' : Nat} {m : SMap α} (h : lo' ≤ lo) (hm : SMap.sortedFrom lo m = true) :
    SMap.sortedFrom lo' m = true := by
  cases m with
  | nil => rfl
  | cons q r =>
    obtain ⟨a, x⟩ := q
    simp only [SMap.sortedFrom, Bool.and_eq_true, decide_eq_true_eq] at hm ⊢
    exact ⟨h.trans hm.1, hm.2⟩

omit [DecidableEq α] in
/-- Leaving keys out keeps the order. -/
theorem SMap.sortedFrom_filter {lo : Nat} {m : SMap α} (p : Nat × α → Bool) (hm : SMap.sortedFrom lo m = true) :
    SMap.sortedFrom lo (m.filter p) = true := by
  induction m generalizing lo with
  | nil => rfl
  | cons q r ih =>
    obtain ⟨a, x⟩ := q
    simp only [SMap.sortedFrom, Bool.and_eq_true, decide_eq_true_eq] at hm
    by_cases h : p (a, x) = true
    · simp only [List.filter_cons_of_pos h, SMap.sortedFrom, Bool.and_eq_true, decide_eq_true_eq]
      exact ⟨hm.1, ih hm.2⟩
    · rw [List.filter_cons_of_neg h]
      exact ih (SMap.sortedFrom_mono (by omega) hm.2)

omit [DecidableEq α] in
theorem SMap.sortedFrom_insert {lo k : Nat} {m : SMap α} (y : α) (hk : lo ≤ k) (hm : SMap.sortedFrom lo m = true) :
    SMap.sortedFrom lo (SMap.insert m k y) = true := by
  induction m generalizing lo with
  | nil => simpa [SMap.insert, SMap.sortedFrom] using hk
  | cons q r ih =>
    obtain ⟨a, x⟩ := q
    simp only [SMap.sortedFrom, Bool.and_eq_true, decide_eq_true_eq] at hm
    by_cases h : a = k
    · subst h; simpa [SMap.insert, SMap.sortedFrom] using hm
    · by_cases hlt : k < a
      · simp only [SMap.insert, h, hlt, if_true, if_false, SMap.sortedFrom, Bool.and_eq_true, decide_eq_true_eq]
        exact ⟨hk, by omega, hm.2⟩
      · simp only [SMap.insert, h, hlt, if_false, SMap.sortedFrom, Bool.and_eq_true, decide_eq_true_eq]
        exact ⟨hm.1, ih (by omega) hm.2⟩

omit [DecidableEq α] in
/-- Setting a key keeps the order. -/
theorem SMap.sorted_set {m : SMap α} (k : Nat) (v : Option α) (hm : SMap.sorted m = true) : SMap.sorted (SMap.set m k v) = true := by
  cases v with
  | none => exact SMap.sortedFrom_filter _ hm
  | some y => exact SMap.sortedFrom_insert y (Nat.zero_le k) hm

omit [DecidableEq α] in
theorem SMap.mem_insert {m : SMap α} {k : Nat} {y : α} {q : Nat × α} (h : q ∈ SMap.insert m k y) : q = (k, y) ∨ q ∈ m := by
  induction m with
  | nil => simp [SMap.insert] at h; exact Or.inl h
  | cons c r ih =>
    obtain ⟨a, x⟩ := c
    simp only [SMap.insert] at h
    split at h
    · rcases List.mem_cons.mp h with h | h
      · exact Or.inl h
      · exact Or.inr (List.mem_cons_of_mem _ h)
    · split at h
      · rcases List.mem_cons.mp h with h | h
        · exact Or.inl h
        · exact Or.inr h
      · rcases List.mem_cons.mp h with h | h
        · exact Or.inr (h ▸ List.mem_cons_self)
        · exact (ih h).imp id (List.mem_cons_of_mem _)

/-- What a put map lists: pairs it listed before, or the pair put. -/
theorem SMap.mem_put {d : α} {m : SMap α} {k : Nat} {v : α} {q : Nat × α} (h : q ∈ SMap.put d m k v) :
    (q = (k, v) ∧ v ≠ d) ∨ q ∈ m := by
  by_cases hv : v = d
  · simp only [SMap.put, hv, if_true, SMap.set] at h
    exact Or.inr (List.mem_filter.mp h).1
  · simp only [SMap.put, hv, if_false, SMap.set] at h
    exact (SMap.mem_insert h).imp (fun e => ⟨e, hv⟩) id

/-- Putting a value keeps the canonical form. -/
theorem SMap.canon_put {d : α} {m : SMap α} (k : Nat) (v : α) (hm : SMap.canon d m = true) :
    SMap.canon d (SMap.put d m k v) = true := by
  simp only [SMap.canon, Bool.and_eq_true, List.all_eq_true, decide_eq_true_eq] at hm ⊢
  refine ⟨SMap.sorted_set k _ hm.1, fun q hq => ?_⟩
  rcases SMap.mem_put hq with ⟨rfl, hv⟩ | hq
  · exact hv
  · exact hm.2 q hq

/-- Leaving keys out keeps the canonical form. -/
theorem SMap.canon_dropKeys {d : α} {m : SMap α} (p : Nat → Bool) (hm : SMap.canon d m = true) :
    SMap.canon d (SMap.dropKeys m p) = true := by
  simp only [SMap.canon, Bool.and_eq_true, List.all_eq_true, decide_eq_true_eq] at hm ⊢
  exact ⟨SMap.sortedFrom_filter _ hm.1, fun q hq => hm.2 q (List.mem_filter.mp hq).1⟩

end Sys2Proof.Machine
end

