-- ==== Sys2Proof/Laws/State.lean ====
section
/-! SUPPORT. The laws of the state: for every change and every reading of the state, one lemma that says what the reading is
after the change. -/

namespace Sys2Proof.Machine

/-! ## Register fields -/

theorem State.rd_eq (s : State) (k : FKey) : s.rd k = (SMap.find? s.regs k.code).getD k.f.spec.reset := rfl

/-- A field written reads as the value clipped to its width. -/
@[simp] theorem Upd.rd_reg_self (k : FKey) (v : Nat) (s : State) : ((Upd.reg k v).apply s).rd k = clipTo k.f.width v := by
  by_cases h : clipTo k.f.width v = k.f.spec.reset <;> simp [Upd.apply, State.setReg, State.rd, h]

/-- A field with another home keeps its value. -/
theorem Upd.rd_reg_of_ne {k k' : FKey} (v : Nat) (s : State) (h : k'.code ≠ k.code) :
    ((Upd.reg k v).apply s).rd k' = s.rd k' := by
  simp [Upd.apply, State.setReg, State.rd, SMap.find?_set_of_ne _ _ h]

theorem SMap.find?_dropKeys {α : Type} (m : SMap α) (w : Nat → Bool) (k : Nat) :
    SMap.find? (SMap.dropKeys m w) k = if w k then none else SMap.find? m k := by
  induction m with
  | nil => simp [SMap.dropKeys, SMap.find?]
  | cons q r ih =>
    obtain ⟨a, x⟩ := q
    by_cases hw : w a = true
    · by_cases ha : a = k
      · subst ha; simpa [SMap.dropKeys, SMap.find?, hw] using ih
      · simpa [SMap.dropKeys, SMap.find?, hw, ha] using ih
    · by_cases ha : a = k
      · subst ha; simp [SMap.dropKeys, SMap.find?, hw]
      · simpa [SMap.dropKeys, SMap.find?, hw, ha] using ih

/-- Fields cleared read as at reset. -/
@[simp] theorem Upd.rd_clearRegs (w : Nat → Bool) (s : State) (k : FKey) :
    ((Upd.clearRegs w).apply s).rd k = if w k.code then k.f.spec.reset else s.rd k := by
  by_cases h : w k.code = true <;> simp [Upd.apply, State.rd, SMap.find?_dropKeys, h]

/-! ## Memory -/

@[simp] theorem Upd.dramWord_dram_self (a : Nat) (c : Codeword) (s : State) (h : a < 16 * 536870912) :
    ((Upd.dram a c).apply s).dramWord a = c := by simp [Upd.apply, State.dramWord, h]
theorem Upd.dramWord_dram_of_ne {a a' : Nat} (c : Codeword) (s : State) (h : a' ≠ a) :
    ((Upd.dram a c).apply s).dramWord a' = s.dramWord a' := by
  by_cases hb : a < 16 * 536870912 <;> simp [Upd.apply, State.dramWord, hb, SMap.getD_put_of_ne _ _ _ h]
@[simp] theorem Upd.sramLine_sram_self (a : Nat) (l : Line) (s : State) (h : a < sramLines) :
    ((Upd.sram a l).apply s).sramLine a = l := by simp [Upd.apply, State.sramLine, h]
theorem Upd.sramLine_sram_of_ne {a a' : Nat} (l : Line) (s : State) (h : a' ≠ a) :
    ((Upd.sram a l).apply s).sramLine a' = s.sramLine a' := by
  by_cases hb : a < sramLines <;> simp [Upd.apply, State.sramLine, hb, SMap.getD_put_of_ne _ _ _ h]
/-- Lines of the stack that lost its contents read as the unwritten word. -/
@[simp] theorem Upd.dramWord_dropDram (p a : Nat) (s : State) :
    ((Upd.dropDram p).apply s).dramWord a = if a / 536870912 = p then unwritten else s.dramWord a := by
  by_cases h : a / 536870912 = p <;> simp [Upd.apply, State.dramWord, SMap.getD, SMap.find?_dropKeys, h]
/-- Lines of a store that lost its contents read poisoned. -/
@[simp] theorem Upd.sramLine_dropSram (lo n a : Nat) (s : State) :
    ((Upd.dropSram lo n).apply s).sramLine a = if lo ≤ a ∧ a < lo + n then blankLine else s.sramLine a := by
  by_cases h : lo ≤ a ∧ a < lo + n <;> simp [Upd.apply, State.sramLine, SMap.getD, SMap.find?_dropKeys, h]

/-! ## Units -/

@[simp] theorem Upd.tile_tile_self (p t : Nat) (v : Tile) (s : State) : ((Upd.tile p t v).apply s).tile p t = v := by
  simp [Upd.apply, State.tile]
theorem Upd.tile_tile_of_ne {p t p' t' : Nat} (v : Tile) (s : State) (h : p' * 9 + t' ≠ p * 9 + t) :
    ((Upd.tile p t v).apply s).tile p' t' = s.tile p' t' := by simp [Upd.apply, State.tile, SMap.getD_put_of_ne _ _ _ h]
@[simp] theorem Upd.pile_pile_self (p : Nat) (v : Pile) (s : State) : ((Upd.pile p v).apply s).pile p = v := by
  simp [Upd.apply, State.pile]
theorem Upd.pile_pile_of_ne {p p' : Nat} (v : Pile) (s : State) (h : p' ≠ p) :
    ((Upd.pile p v).apply s).pile p' = s.pile p' := by simp [Upd.apply, State.pile, SMap.getD_put_of_ne _ _ _ h]
@[simp] theorem Upd.port_port_self (p k : Nat) (v : Port) (s : State) : ((Upd.port p k v).apply s).port p k = v := by
  simp [Upd.apply, State.port]
theorem Upd.port_port_of_ne {p k p' k' : Nat} (v : Port) (s : State) (h : p' * 2 + k' ≠ p * 2 + k) :
    ((Upd.port p k v).apply s).port p' k' = s.port p' k' := by simp [Upd.apply, State.port, SMap.getD_put_of_ne _ _ _ h]
@[simp] theorem Upd.bridge_bridge_self (p d : Nat) (v : Bridge) (s : State) : ((Upd.bridge p d v).apply s).bridge p d = v := by
  simp [Upd.apply, State.bridge]
theorem Upd.bridge_bridge_of_ne {p d p' d' : Nat} (v : Bridge) (s : State) (h : p' * 4 + d' ≠ p * 4 + d) :
    ((Upd.bridge p d v).apply s).bridge p' d' = s.bridge p' d' := by simp [Upd.apply, State.bridge, SMap.getD_put_of_ne _ _ _ h]
@[simp] theorem Upd.mailbox_mailbox_self (i : Nat) (v : Mailbox) (s : State) : ((Upd.mailbox i v).apply s).mailbox i = v := by
  simp [Upd.apply, State.mailbox]
theorem Upd.mailbox_mailbox_of_ne {i i' : Nat} (v : Mailbox) (s : State) (h : i' ≠ i) :
    ((Upd.mailbox i v).apply s).mailbox i' = s.mailbox i' := by simp [Upd.apply, State.mailbox, SMap.getD_put_of_ne _ _ _ h]

/-! ## Sessions -/

/-- Replacing a session by another of its identifier. -/
theorem find?_map_replace {α : Type} (xs : List α) (key : α → Nat) (v : α) (i : Nat) :
    (xs.map (fun x => if key x == key v then v else x)).find? (fun x => key x == i) =
      if i = key v then (xs.find? (fun x => key x == i)).map (fun _ => v) else xs.find? (fun x => key x == i) := by
  induction xs with
  | nil => simp
  | cons x r ih =>
    rw [List.map_cons, List.find?_cons, List.find?_cons, ih]
    by_cases h : key x = key v
    · by_cases hi : i = key v
      · subst hi; simp [h]
      · have : (key v == i) = false := by simp [Ne.symm hi]
        simp [h, hi, this]
    · by_cases hi : key x = i
      · subst hi; simp [h]
      · have : (key x == i) = false := by simp [hi]
        simp [h, this]

@[simp] theorem Upd.session?_setSession (v : Session) (s : State) (i : Nat) :
    ((Upd.setSession v).apply s).session? i = if i = v.id then (s.session? i).map (fun _ => v) else s.session? i :=
  find?_map_replace s.sessions Session.id v i

@[simp] theorem Upd.session?_dropSession (id i : Nat) (s : State) :
    ((Upd.dropSession id).apply s).session? i = if i = id then none else s.session? i := by
  simp only [Upd.apply, State.session?, List.find?_filter]
  by_cases h : i = id
  · subst h
    rw [if_pos rfl, List.find?_eq_none]
    intro x _ hx
    simp at hx
  · rw [if_neg h]
    congr 1
    funext x
    by_cases hx : x.id = i <;> simp [hx, h]

/-- The session of an identifier has that identifier. -/
theorem State.id_of_session? {s : State} {i : Nat} {x : Session} (h : s.session? i = some x) : x.id = i := by
  have := List.find?_some h
  simpa using this

/-! ## What each change leaves as it was -/

/-! ### `Upd.reg` -/

@[simp] theorem Upd.tile_reg (k : FKey) (v : Nat) (s : State) (p' t' : Nat) :
    ((Upd.reg k v).apply s).tile p' t' = s.tile p' t' := rfl
@[simp] theorem Upd.pile_reg (k : FKey) (v : Nat) (s : State) (p' : Nat) :
    ((Upd.reg k v).apply s).pile p' = s.pile p' := rfl
@[simp] theorem Upd.port_reg (k : FKey) (v : Nat) (s : State) (p' k' : Nat) :
    ((Upd.reg k v).apply s).port p' k' = s.port p' k' := rfl
@[simp] theorem Upd.bridge_reg (k : FKey) (v : Nat) (s : State) (p' d' : Nat) :
    ((Upd.reg k v).apply s).bridge p' d' = s.bridge p' d' := rfl
@[simp] theorem Upd.mailbox_reg (k : FKey) (v : Nat) (s : State) (i' : Nat) :
    ((Upd.reg k v).apply s).mailbox i' = s.mailbox i' := rfl
@[simp] theorem Upd.session?_reg (k : FKey) (v : Nat) (s : State) (i' : Nat) :
    ((Upd.reg k v).apply s).session? i' = s.session? i' := rfl
@[simp] theorem Upd.half?_reg (k : FKey) (v : Nat) (s : State) (i' : Nat) :
    ((Upd.reg k v).apply s).half? i' = s.half? i' := rfl
@[simp] theorem Upd.dramWord_reg (k : FKey) (v : Nat) (s : State) (a' : Nat) :
    ((Upd.reg k v).apply s).dramWord a' = s.dramWord a' := rfl
@[simp] theorem Upd.sramLine_reg (k : FKey) (v : Nat) (s : State) (a' : Nat) :
    ((Upd.reg k v).apply s).sramLine a' = s.sramLine a' := rfl
@[simp] theorem Upd.pending_reg (k : FKey) (v : Nat) (s : State) :
    ((Upd.reg k v).apply s).pending = s.pending := rfl
@[simp] theorem Upd.hold_reg (k : FKey) (v : Nat) (s : State) :
    ((Upd.reg k v).apply s).hold = s.hold := rfl
@[simp] theorem Upd.dram_reg (k : FKey) (v : Nat) (s : State) :
    ((Upd.reg k v).apply s).dram = s.dram := rfl
@[simp] theorem Upd.sram_reg (k : FKey) (v : Nat) (s : State) :
    ((Upd.reg k v).apply s).sram = s.sram := rfl
@[simp] theorem Upd.sessions_reg (k : FKey) (v : Nat) (s : State) :
    ((Upd.reg k v).apply s).sessions = s.sessions := rfl
@[simp] theorem Upd.halfOpen_reg (k : FKey) (v : Nat) (s : State) :
    ((Upd.reg k v).apply s).halfOpen = s.halfOpen := rfl
@[simp] theorem Upd.events_reg (k : FKey) (v : Nat) (s : State) :
    ((Upd.reg k v).apply s).events = s.events := rfl
@[simp] theorem Upd.lift_reg (k : FKey) (v : Nat) (s : State) :
    ((Upd.reg k v).apply s).lift = s.lift := rfl
@[simp] theorem Upd.job_reg (k : FKey) (v : Nat) (s : State) :
    ((Upd.reg k v).apply s).job = s.job := rfl
@[simp] theorem Upd.fuses_reg (k : FKey) (v : Nat) (s : State) :
    ((Upd.reg k v).apply s).fuses = s.fuses := rfl
@[simp] theorem Upd.sec_reg (k : FKey) (v : Nat) (s : State) :
    ((Upd.reg k v).apply s).sec = s.sec := rfl
@[simp] theorem Upd.boot_reg (k : FKey) (v : Nat) (s : State) :
    ((Upd.reg k v).apply s).boot = s.boot := rfl
@[simp] theorem Upd.pwr_reg (k : FKey) (v : Nat) (s : State) :
    ((Upd.reg k v).apply s).pwr = s.pwr := rfl
@[simp] theorem Upd.tap_reg (k : FKey) (v : Nat) (s : State) :
    ((Upd.reg k v).apply s).tap = s.tap := rfl
@[simp] theorem Upd.tbLoaded_reg (k : FKey) (v : Nat) (s : State) :
    ((Upd.reg k v).apply s).tbLoaded = s.tbLoaded := rfl
@[simp] theorem Upd.out_reg (k : FKey) (v : Nat) (s : State) :
    ((Upd.reg k v).apply s).out = s.out := rfl
@[simp] theorem Upd.free_reg (k : FKey) (v : Nat) (s : State) :
    ((Upd.reg k v).apply s).free = s.free := rfl

/-! ### `Upd.clearRegs` -/

@[simp] theorem Upd.tile_clearRegs (w : Nat → Bool) (s : State) (p' t' : Nat) :
    ((Upd.clearRegs w).apply s).tile p' t' = s.tile p' t' := rfl
@[simp] theorem Upd.pile_clearRegs (w : Nat → Bool) (s : State) (p' : Nat) :
    ((Upd.clearRegs w).apply s).pile p' = s.pile p' := rfl
@[simp] theorem Upd.port_clearRegs (w : Nat → Bool) (s : State) (p' k' : Nat) :
    ((Upd.clearRegs w).apply s).port p' k' = s.port p' k' := rfl
@[simp] theorem Upd.bridge_clearRegs (w : Nat → Bool) (s : State) (p' d' : Nat) :
    ((Upd.clearRegs w).apply s).bridge p' d' = s.bridge p' d' := rfl
@[simp] theorem Upd.mailbox_clearRegs (w : Nat → Bool) (s : State) (i' : Nat) :
    ((Upd.clearRegs w).apply s).mailbox i' = s.mailbox i' := rfl
@[simp] theorem Upd.session?_clearRegs (w : Nat → Bool) (s : State) (i' : Nat) :
    ((Upd.clearRegs w).apply s).session? i' = s.session? i' := rfl
@[simp] theorem Upd.half?_clearRegs (w : Nat → Bool) (s : State) (i' : Nat) :
    ((Upd.clearRegs w).apply s).half? i' = s.half? i' := rfl
@[simp] theorem Upd.dramWord_clearRegs (w : Nat → Bool) (s : State) (a' : Nat) :
    ((Upd.clearRegs w).apply s).dramWord a' = s.dramWord a' := rfl
@[simp] theorem Upd.sramLine_clearRegs (w : Nat → Bool) (s : State) (a' : Nat) :
    ((Upd.clearRegs w).apply s).sramLine a' = s.sramLine a' := rfl
@[simp] theorem Upd.pending_clearRegs (w : Nat → Bool) (s : State) :
    ((Upd.clearRegs w).apply s).pending = s.pending := rfl
@[simp] theorem Upd.hold_clearRegs (w : Nat → Bool) (s : State) :
    ((Upd.clearRegs w).apply s).hold = s.hold := rfl
@[simp] theorem Upd.dram_clearRegs (w : Nat → Bool) (s : State) :
    ((Upd.clearRegs w).apply s).dram = s.dram := rfl
@[simp] theorem Upd.sram_clearRegs (w : Nat → Bool) (s : State) :
    ((Upd.clearRegs w).apply s).sram = s.sram := rfl
@[simp] theorem Upd.sessions_clearRegs (w : Nat → Bool) (s : State) :
    ((Upd.clearRegs w).apply s).sessions = s.sessions := rfl
@[simp] theorem Upd.halfOpen_clearRegs (w : Nat → Bool) (s : State) :
    ((Upd.clearRegs w).apply s).halfOpen = s.halfOpen := rfl
@[simp] theorem Upd.events_clearRegs (w : Nat → Bool) (s : State) :
    ((Upd.clearRegs w).apply s).events = s.events := rfl
@[simp] theorem Upd.lift_clearRegs (w : Nat → Bool) (s : State) :
    ((Upd.clearRegs w).apply s).lift = s.lift := rfl
@[simp] theorem Upd.job_clearRegs (w : Nat → Bool) (s : State) :
    ((Upd.clearRegs w).apply s).job = s.job := rfl
@[simp] theorem Upd.fuses_clearRegs (w : Nat → Bool) (s : State) :
    ((Upd.clearRegs w).apply s).fuses = s.fuses := rfl
@[simp] theorem Upd.sec_clearRegs (w : Nat → Bool) (s : State) :
    ((Upd.clearRegs w).apply s).sec = s.sec := rfl
@[simp] theorem Upd.boot_clearRegs (w : Nat → Bool) (s : State) :
    ((Upd.clearRegs w).apply s).boot = s.boot := rfl
@[simp] theorem Upd.pwr_clearRegs (w : Nat → Bool) (s : State) :
    ((Upd.clearRegs w).apply s).pwr = s.pwr := rfl
@[simp] theorem Upd.tap_clearRegs (w : Nat → Bool) (s : State) :
    ((Upd.clearRegs w).apply s).tap = s.tap := rfl
@[simp] theorem Upd.tbLoaded_clearRegs (w : Nat → Bool) (s : State) :
    ((Upd.clearRegs w).apply s).tbLoaded = s.tbLoaded := rfl
@[simp] theorem Upd.out_clearRegs (w : Nat → Bool) (s : State) :
    ((Upd.clearRegs w).apply s).out = s.out := rfl
@[simp] theorem Upd.free_clearRegs (w : Nat → Bool) (s : State) :
    ((Upd.clearRegs w).apply s).free = s.free := rfl

/-! ### `Upd.dram` -/

@[simp] theorem Upd.rd_dram (a : Nat) (c : Codeword) (s : State) (k' : FKey) :
    ((Upd.dram a c).apply s).rd k' = s.rd k' := by
  simp only [Upd.apply]; split <;> rfl
@[simp] theorem Upd.on_dram (a : Nat) (c : Codeword) (s : State) (k' : FKey) :
    ((Upd.dram a c).apply s).on k' = s.on k' := by
  simp only [Upd.apply]; split <;> rfl
@[simp] theorem Upd.tile_dram (a : Nat) (c : Codeword) (s : State) (p' t' : Nat) :
    ((Upd.dram a c).apply s).tile p' t' = s.tile p' t' := by
  simp only [Upd.apply]; split <;> rfl
@[simp] theorem Upd.pile_dram (a : Nat) (c : Codeword) (s : State) (p' : Nat) :
    ((Upd.dram a c).apply s).pile p' = s.pile p' := by
  simp only [Upd.apply]; split <;> rfl
@[simp] theorem Upd.port_dram (a : Nat) (c : Codeword) (s : State) (p' k' : Nat) :
    ((Upd.dram a c).apply s).port p' k' = s.port p' k' := by
  simp only [Upd.apply]; split <;> rfl
@[simp] theorem Upd.bridge_dram (a : Nat) (c : Codeword) (s : State) (p' d' : Nat) :
    ((Upd.dram a c).apply s).bridge p' d' = s.bridge p' d' := by
  simp only [Upd.apply]; split <;> rfl
@[simp] theorem Upd.mailbox_dram (a : Nat) (c : Codeword) (s : State) (i' : Nat) :
    ((Upd.dram a c).apply s).mailbox i' = s.mailbox i' := by
  simp only [Upd.apply]; split <;> rfl
@[simp] theorem Upd.session?_dram (a : Nat) (c : Codeword) (s : State) (i' : Nat) :
    ((Upd.dram a c).apply s).session? i' = s.session? i' := by
  simp only [Upd.apply]; split <;> rfl
@[simp] theorem Upd.half?_dram (a : Nat) (c : Codeword) (s : State) (i' : Nat) :
    ((Upd.dram a c).apply s).half? i' = s.half? i' := by
  simp only [Upd.apply]; split <;> rfl
@[simp] theorem Upd.sramLine_dram (a : Nat) (c : Codeword) (s : State) (a' : Nat) :
    ((Upd.dram a c).apply s).sramLine a' = s.sramLine a' := by
  simp only [Upd.apply]; split <;> rfl
@[simp] theorem Upd.pending_dram (a : Nat) (c : Codeword) (s : State) :
    ((Upd.dram a c).apply s).pending = s.pending := by
  simp only [Upd.apply]; split <;> rfl
@[simp] theorem Upd.regs_dram (a : Nat) (c : Codeword) (s : State) :
    ((Upd.dram a c).apply s).regs = s.regs := by
  simp only [Upd.apply]; split <;> rfl
@[simp] theorem Upd.hold_dram (a : Nat) (c : Codeword) (s : State) :
    ((Upd.dram a c).apply s).hold = s.hold := by
  simp only [Upd.apply]; split <;> rfl
@[simp] theorem Upd.sram_dram (a : Nat) (c : Codeword) (s : State) :
    ((Upd.dram a c).apply s).sram = s.sram := by
  simp only [Upd.apply]; split <;> rfl
@[simp] theorem Upd.sessions_dram (a : Nat) (c : Codeword) (s : State) :
    ((Upd.dram a c).apply s).sessions = s.sessions := by
  simp only [Upd.apply]; split <;> rfl
@[simp] theorem Upd.halfOpen_dram (a : Nat) (c : Codeword) (s : State) :
    ((Upd.dram a c).apply s).halfOpen = s.halfOpen := by
  simp only [Upd.apply]; split <;> rfl
@[simp] theorem Upd.events_dram (a : Nat) (c : Codeword) (s : State) :
    ((Upd.dram a c).apply s).events = s.events := by
  simp only [Upd.apply]; split <;> rfl
@[simp] theorem Upd.lift_dram (a : Nat) (c : Codeword) (s : State) :
    ((Upd.dram a c).apply s).lift = s.lift := by
  simp only [Upd.apply]; split <;> rfl
@[simp] theorem Upd.job_dram (a : Nat) (c : Codeword) (s : State) :
    ((Upd.dram a c).apply s).job = s.job := by
  simp only [Upd.apply]; split <;> rfl
@[simp] theorem Upd.fuses_dram (a : Nat) (c : Codeword) (s : State) :
    ((Upd.dram a c).apply s).fuses = s.fuses := by
  simp only [Upd.apply]; split <;> rfl
@[simp] theorem Upd.sec_dram (a : Nat) (c : Codeword) (s : State) :
    ((Upd.dram a c).apply s).sec = s.sec := by
  simp only [Upd.apply]; split <;> rfl
@[simp] theorem Upd.boot_dram (a : Nat) (c : Codeword) (s : State) :
    ((Upd.dram a c).apply s).boot = s.boot := by
  simp only [Upd.apply]; split <;> rfl
@[simp] theorem Upd.pwr_dram (a : Nat) (c : Codeword) (s : State) :
    ((Upd.dram a c).apply s).pwr = s.pwr := by
  simp only [Upd.apply]; split <;> rfl
@[simp] theorem Upd.tap_dram (a : Nat) (c : Codeword) (s : State) :
    ((Upd.dram a c).apply s).tap = s.tap := by
  simp only [Upd.apply]; split <;> rfl
@[simp] theorem Upd.tbLoaded_dram (a : Nat) (c : Codeword) (s : State) :
    ((Upd.dram a c).apply s).tbLoaded = s.tbLoaded := by
  simp only [Upd.apply]; split <;> rfl
@[simp] theorem Upd.out_dram (a : Nat) (c : Codeword) (s : State) :
    ((Upd.dram a c).apply s).out = s.out := by
  simp only [Upd.apply]; split <;> rfl
@[simp] theorem Upd.free_dram (a : Nat) (c : Codeword) (s : State) :
    ((Upd.dram a c).apply s).free = s.free := by
  simp only [Upd.apply]; split <;> rfl

/-! ### `Upd.sram` -/

@[simp] theorem Upd.rd_sram (a : Nat) (l : Line) (s : State) (k' : FKey) :
    ((Upd.sram a l).apply s).rd k' = s.rd k' := by
  simp only [Upd.apply]; split <;> rfl
@[simp] theorem Upd.on_sram (a : Nat) (l : Line) (s : State) (k' : FKey) :
    ((Upd.sram a l).apply s).on k' = s.on k' := by
  simp only [Upd.apply]; split <;> rfl
@[simp] theorem Upd.tile_sram (a : Nat) (l : Line) (s : State) (p' t' : Nat) :
    ((Upd.sram a l).apply s).tile p' t' = s.tile p' t' := by
  simp only [Upd.apply]; split <;> rfl
@[simp] theorem Upd.pile_sram (a : Nat) (l : Line) (s : State) (p' : Nat) :
    ((Upd.sram a l).apply s).pile p' = s.pile p' := by
  simp only [Upd.apply]; split <;> rfl
@[simp] theorem Upd.port_sram (a : Nat) (l : Line) (s : State) (p' k' : Nat) :
    ((Upd.sram a l).apply s).port p' k' = s.port p' k' := by
  simp only [Upd.apply]; split <;> rfl
@[simp] theorem Upd.bridge_sram (a : Nat) (l : Line) (s : State) (p' d' : Nat) :
    ((Upd.sram a l).apply s).bridge p' d' = s.bridge p' d' := by
  simp only [Upd.apply]; split <;> rfl
@[simp] theorem Upd.mailbox_sram (a : Nat) (l : Line) (s : State) (i' : Nat) :
    ((Upd.sram a l).apply s).mailbox i' = s.mailbox i' := by
  simp only [Upd.apply]; split <;> rfl
@[simp] theorem Upd.session?_sram (a : Nat) (l : Line) (s : State) (i' : Nat) :
    ((Upd.sram a l).apply s).session? i' = s.session? i' := by
  simp only [Upd.apply]; split <;> rfl
@[simp] theorem Upd.half?_sram (a : Nat) (l : Line) (s : State) (i' : Nat) :
    ((Upd.sram a l).apply s).half? i' = s.half? i' := by
  simp only [Upd.apply]; split <;> rfl
@[simp] theorem Upd.dramWord_sram (a : Nat) (l : Line) (s : State) (a' : Nat) :
    ((Upd.sram a l).apply s).dramWord a' = s.dramWord a' := by
  simp only [Upd.apply]; split <;> rfl
@[simp] theorem Upd.pending_sram (a : Nat) (l : Line) (s : State) :
    ((Upd.sram a l).apply s).pending = s.pending := by
  simp only [Upd.apply]; split <;> rfl
@[simp] theorem Upd.regs_sram (a : Nat) (l : Line) (s : State) :
    ((Upd.sram a l).apply s).regs = s.regs := by
  simp only [Upd.apply]; split <;> rfl
@[simp] theorem Upd.hold_sram (a : Nat) (l : Line) (s : State) :
    ((Upd.sram a l).apply s).hold = s.hold := by
  simp only [Upd.apply]; split <;> rfl
@[simp] theorem Upd.dram_sram (a : Nat) (l : Line) (s : State) :
    ((Upd.sram a l).apply s).dram = s.dram := by
  simp only [Upd.apply]; split <;> rfl
@[simp] theorem Upd.sessions_sram (a : Nat) (l : Line) (s : State) :
    ((Upd.sram a l).apply s).sessions = s.sessions := by
  simp only [Upd.apply]; split <;> rfl
@[simp] theorem Upd.halfOpen_sram (a : Nat) (l : Line) (s : State) :
    ((Upd.sram a l).apply s).halfOpen = s.halfOpen := by
  simp only [Upd.apply]; split <;> rfl
@[simp] theorem Upd.events_sram (a : Nat) (l : Line) (s : State) :
    ((Upd.sram a l).apply s).events = s.events := by
  simp only [Upd.apply]; split <;> rfl
@[simp] theorem Upd.lift_sram (a : Nat) (l : Line) (s : State) :
    ((Upd.sram a l).apply s).lift = s.lift := by
  simp only [Upd.apply]; split <;> rfl
@[simp] theorem Upd.job_sram (a : Nat) (l : Line) (s : State) :
    ((Upd.sram a l).apply s).job = s.job := by
  simp only [Upd.apply]; split <;> rfl
@[simp] theorem Upd.fuses_sram (a : Nat) (l : Line) (s : State) :
    ((Upd.sram a l).apply s).fuses = s.fuses := by
  simp only [Upd.apply]; split <;> rfl
@[simp] theorem Upd.sec_sram (a : Nat) (l : Line) (s : State) :
    ((Upd.sram a l).apply s).sec = s.sec := by
  simp only [Upd.apply]; split <;> rfl
@[simp] theorem Upd.boot_sram (a : Nat) (l : Line) (s : State) :
    ((Upd.sram a l).apply s).boot = s.boot := by
  simp only [Upd.apply]; split <;> rfl
@[simp] theorem Upd.pwr_sram (a : Nat) (l : Line) (s : State) :
    ((Upd.sram a l).apply s).pwr = s.pwr := by
  simp only [Upd.apply]; split <;> rfl
@[simp] theorem Upd.tap_sram (a : Nat) (l : Line) (s : State) :
    ((Upd.sram a l).apply s).tap = s.tap := by
  simp only [Upd.apply]; split <;> rfl
@[simp] theorem Upd.tbLoaded_sram (a : Nat) (l : Line) (s : State) :
    ((Upd.sram a l).apply s).tbLoaded = s.tbLoaded := by
  simp only [Upd.apply]; split <;> rfl
@[simp] theorem Upd.out_sram (a : Nat) (l : Line) (s : State) :
    ((Upd.sram a l).apply s).out = s.out := by
  simp only [Upd.apply]; split <;> rfl
@[simp] theorem Upd.free_sram (a : Nat) (l : Line) (s : State) :
    ((Upd.sram a l).apply s).free = s.free := by
  simp only [Upd.apply]; split <;> rfl

/-! ### `Upd.dropDram` -/

@[simp] theorem Upd.rd_dropDram (p : Nat) (s : State) (k' : FKey) :
    ((Upd.dropDram p).apply s).rd k' = s.rd k' := rfl
@[simp] theorem Upd.on_dropDram (p : Nat) (s : State) (k' : FKey) :
    ((Upd.dropDram p).apply s).on k' = s.on k' := rfl
@[simp] theorem Upd.tile_dropDram (p : Nat) (s : State) (p' t' : Nat) :
    ((Upd.dropDram p).apply s).tile p' t' = s.tile p' t' := rfl
@[simp] theorem Upd.pile_dropDram (p : Nat) (s : State) (p' : Nat) :
    ((Upd.dropDram p).apply s).pile p' = s.pile p' := rfl
@[simp] theorem Upd.port_dropDram (p : Nat) (s : State) (p' k' : Nat) :
    ((Upd.dropDram p).apply s).port p' k' = s.port p' k' := rfl
@[simp] theorem Upd.bridge_dropDram (p : Nat) (s : State) (p' d' : Nat) :
    ((Upd.dropDram p).apply s).bridge p' d' = s.bridge p' d' := rfl
@[simp] theorem Upd.mailbox_dropDram (p : Nat) (s : State) (i' : Nat) :
    ((Upd.dropDram p).apply s).mailbox i' = s.mailbox i' := rfl
@[simp] theorem Upd.session?_dropDram (p : Nat) (s : State) (i' : Nat) :
    ((Upd.dropDram p).apply s).session? i' = s.session? i' := rfl
@[simp] theorem Upd.half?_dropDram (p : Nat) (s : State) (i' : Nat) :
    ((Upd.dropDram p).apply s).half? i' = s.half? i' := rfl
@[simp] theorem Upd.sramLine_dropDram (p : Nat) (s : State) (a' : Nat) :
    ((Upd.dropDram p).apply s).sramLine a' = s.sramLine a' := rfl
@[simp] theorem Upd.pending_dropDram (p : Nat) (s : State) :
    ((Upd.dropDram p).apply s).pending = s.pending := rfl
@[simp] theorem Upd.regs_dropDram (p : Nat) (s : State) :
    ((Upd.dropDram p).apply s).regs = s.regs := rfl
@[simp] theorem Upd.hold_dropDram (p : Nat) (s : State) :
    ((Upd.dropDram p).apply s).hold = s.hold := rfl
@[simp] theorem Upd.sram_dropDram (p : Nat) (s : State) :
    ((Upd.dropDram p).apply s).sram = s.sram := rfl
@[simp] theorem Upd.sessions_dropDram (p : Nat) (s : State) :
    ((Upd.dropDram p).apply s).sessions = s.sessions := rfl
@[simp] theorem Upd.halfOpen_dropDram (p : Nat) (s : State) :
    ((Upd.dropDram p).apply s).halfOpen = s.halfOpen := rfl
@[simp] theorem Upd.events_dropDram (p : Nat) (s : State) :
    ((Upd.dropDram p).apply s).events = s.events := rfl
@[simp] theorem Upd.lift_dropDram (p : Nat) (s : State) :
    ((Upd.dropDram p).apply s).lift = s.lift := rfl
@[simp] theorem Upd.job_dropDram (p : Nat) (s : State) :
    ((Upd.dropDram p).apply s).job = s.job := rfl
@[simp] theorem Upd.fuses_dropDram (p : Nat) (s : State) :
    ((Upd.dropDram p).apply s).fuses = s.fuses := rfl
@[simp] theorem Upd.sec_dropDram (p : Nat) (s : State) :
    ((Upd.dropDram p).apply s).sec = s.sec := rfl
@[simp] theorem Upd.boot_dropDram (p : Nat) (s : State) :
    ((Upd.dropDram p).apply s).boot = s.boot := rfl
@[simp] theorem Upd.pwr_dropDram (p : Nat) (s : State) :
    ((Upd.dropDram p).apply s).pwr = s.pwr := rfl
@[simp] theorem Upd.tap_dropDram (p : Nat) (s : State) :
    ((Upd.dropDram p).apply s).tap = s.tap := rfl
@[simp] theorem Upd.tbLoaded_dropDram (p : Nat) (s : State) :
    ((Upd.dropDram p).apply s).tbLoaded = s.tbLoaded := rfl
@[simp] theorem Upd.out_dropDram (p : Nat) (s : State) :
    ((Upd.dropDram p).apply s).out = s.out := rfl
@[simp] theorem Upd.free_dropDram (p : Nat) (s : State) :
    ((Upd.dropDram p).apply s).free = s.free := rfl

/-! ### `Upd.dropSram` -/

@[simp] theorem Upd.rd_dropSram (lo n : Nat) (s : State) (k' : FKey) :
    ((Upd.dropSram lo n).apply s).rd k' = s.rd k' := rfl
@[simp] theorem Upd.on_dropSram (lo n : Nat) (s : State) (k' : FKey) :
    ((Upd.dropSram lo n).apply s).on k' = s.on k' := rfl
@[simp] theorem Upd.tile_dropSram (lo n : Nat) (s : State) (p' t' : Nat) :
    ((Upd.dropSram lo n).apply s).tile p' t' = s.tile p' t' := rfl
@[simp] theorem Upd.pile_dropSram (lo n : Nat) (s : State) (p' : Nat) :
    ((Upd.dropSram lo n).apply s).pile p' = s.pile p' := rfl
@[simp] theorem Upd.port_dropSram (lo n : Nat) (s : State) (p' k' : Nat) :
    ((Upd.dropSram lo n).apply s).port p' k' = s.port p' k' := rfl
@[simp] theorem Upd.bridge_dropSram (lo n : Nat) (s : State) (p' d' : Nat) :
    ((Upd.dropSram lo n).apply s).bridge p' d' = s.bridge p' d' := rfl
@[simp] theorem Upd.mailbox_dropSram (lo n : Nat) (s : State) (i' : Nat) :
    ((Upd.dropSram lo n).apply s).mailbox i' = s.mailbox i' := rfl
@[simp] theorem Upd.session?_dropSram (lo n : Nat) (s : State) (i' : Nat) :
    ((Upd.dropSram lo n).apply s).session? i' = s.session? i' := rfl
@[simp] theorem Upd.half?_dropSram (lo n : Nat) (s : State) (i' : Nat) :
    ((Upd.dropSram lo n).apply s).half? i' = s.half? i' := rfl
@[simp] theorem Upd.dramWord_dropSram (lo n : Nat) (s : State) (a' : Nat) :
    ((Upd.dropSram lo n).apply s).dramWord a' = s.dramWord a' := rfl
@[simp] theorem Upd.pending_dropSram (lo n : Nat) (s : State) :
    ((Upd.dropSram lo n).apply s).pending = s.pending := rfl
@[simp] theorem Upd.regs_dropSram (lo n : Nat) (s : State) :
    ((Upd.dropSram lo n).apply s).regs = s.regs := rfl
@[simp] theorem Upd.hold_dropSram (lo n : Nat) (s : State) :
    ((Upd.dropSram lo n).apply s).hold = s.hold := rfl
@[simp] theorem Upd.dram_dropSram (lo n : Nat) (s : State) :
    ((Upd.dropSram lo n).apply s).dram = s.dram := rfl
@[simp] theorem Upd.sessions_dropSram (lo n : Nat) (s : State) :
    ((Upd.dropSram lo n).apply s).sessions = s.sessions := rfl
@[simp] theorem Upd.halfOpen_dropSram (lo n : Nat) (s : State) :
    ((Upd.dropSram lo n).apply s).halfOpen = s.halfOpen := rfl
@[simp] theorem Upd.events_dropSram (lo n : Nat) (s : State) :
    ((Upd.dropSram lo n).apply s).events = s.events := rfl
@[simp] theorem Upd.lift_dropSram (lo n : Nat) (s : State) :
    ((Upd.dropSram lo n).apply s).lift = s.lift := rfl
@[simp] theorem Upd.job_dropSram (lo n : Nat) (s : State) :
    ((Upd.dropSram lo n).apply s).job = s.job := rfl
@[simp] theorem Upd.fuses_dropSram (lo n : Nat) (s : State) :
    ((Upd.dropSram lo n).apply s).fuses = s.fuses := rfl
@[simp] theorem Upd.sec_dropSram (lo n : Nat) (s : State) :
    ((Upd.dropSram lo n).apply s).sec = s.sec := rfl
@[simp] theorem Upd.boot_dropSram (lo n : Nat) (s : State) :
    ((Upd.dropSram lo n).apply s).boot = s.boot := rfl
@[simp] theorem Upd.pwr_dropSram (lo n : Nat) (s : State) :
    ((Upd.dropSram lo n).apply s).pwr = s.pwr := rfl
@[simp] theorem Upd.tap_dropSram (lo n : Nat) (s : State) :
    ((Upd.dropSram lo n).apply s).tap = s.tap := rfl
@[simp] theorem Upd.tbLoaded_dropSram (lo n : Nat) (s : State) :
    ((Upd.dropSram lo n).apply s).tbLoaded = s.tbLoaded := rfl
@[simp] theorem Upd.out_dropSram (lo n : Nat) (s : State) :
    ((Upd.dropSram lo n).apply s).out = s.out := rfl
@[simp] theorem Upd.free_dropSram (lo n : Nat) (s : State) :
    ((Upd.dropSram lo n).apply s).free = s.free := rfl

/-! ### `Upd.tile` -/

@[simp] theorem Upd.rd_tile (p t : Nat) (v : Tile) (s : State) (k' : FKey) :
    ((Upd.tile p t v).apply s).rd k' = s.rd k' := rfl
@[simp] theorem Upd.on_tile (p t : Nat) (v : Tile) (s : State) (k' : FKey) :
    ((Upd.tile p t v).apply s).on k' = s.on k' := rfl
@[simp] theorem Upd.pile_tile (p t : Nat) (v : Tile) (s : State) (p' : Nat) :
    ((Upd.tile p t v).apply s).pile p' = s.pile p' := rfl
@[simp] theorem Upd.port_tile (p t : Nat) (v : Tile) (s : State) (p' k' : Nat) :
    ((Upd.tile p t v).apply s).port p' k' = s.port p' k' := rfl
@[simp] theorem Upd.bridge_tile (p t : Nat) (v : Tile) (s : State) (p' d' : Nat) :
    ((Upd.tile p t v).apply s).bridge p' d' = s.bridge p' d' := rfl
@[simp] theorem Upd.mailbox_tile (p t : Nat) (v : Tile) (s : State) (i' : Nat) :
    ((Upd.tile p t v).apply s).mailbox i' = s.mailbox i' := rfl
@[simp] theorem Upd.session?_tile (p t : Nat) (v : Tile) (s : State) (i' : Nat) :
    ((Upd.tile p t v).apply s).session? i' = s.session? i' := rfl
@[simp] theorem Upd.half?_tile (p t : Nat) (v : Tile) (s : State) (i' : Nat) :
    ((Upd.tile p t v).apply s).half? i' = s.half? i' := rfl
@[simp] theorem Upd.dramWord_tile (p t : Nat) (v : Tile) (s : State) (a' : Nat) :
    ((Upd.tile p t v).apply s).dramWord a' = s.dramWord a' := rfl
@[simp] theorem Upd.sramLine_tile (p t : Nat) (v : Tile) (s : State) (a' : Nat) :
    ((Upd.tile p t v).apply s).sramLine a' = s.sramLine a' := rfl
@[simp] theorem Upd.pending_tile (p t : Nat) (v : Tile) (s : State) :
    ((Upd.tile p t v).apply s).pending = s.pending := rfl
@[simp] theorem Upd.regs_tile (p t : Nat) (v : Tile) (s : State) :
    ((Upd.tile p t v).apply s).regs = s.regs := rfl
@[simp] theorem Upd.hold_tile (p t : Nat) (v : Tile) (s : State) :
    ((Upd.tile p t v).apply s).hold = s.hold := rfl
@[simp] theorem Upd.dram_tile (p t : Nat) (v : Tile) (s : State) :
    ((Upd.tile p t v).apply s).dram = s.dram := rfl
@[simp] theorem Upd.sram_tile (p t : Nat) (v : Tile) (s : State) :
    ((Upd.tile p t v).apply s).sram = s.sram := rfl
@[simp] theorem Upd.sessions_tile (p t : Nat) (v : Tile) (s : State) :
    ((Upd.tile p t v).apply s).sessions = s.sessions := rfl
@[simp] theorem Upd.halfOpen_tile (p t : Nat) (v : Tile) (s : State) :
    ((Upd.tile p t v).apply s).halfOpen = s.halfOpen := rfl
@[simp] theorem Upd.events_tile (p t : Nat) (v : Tile) (s : State) :
    ((Upd.tile p t v).apply s).events = s.events := rfl
@[simp] theorem Upd.lift_tile (p t : Nat) (v : Tile) (s : State) :
    ((Upd.tile p t v).apply s).lift = s.lift := rfl
@[simp] theorem Upd.job_tile (p t : Nat) (v : Tile) (s : State) :
    ((Upd.tile p t v).apply s).job = s.job := rfl
@[simp] theorem Upd.fuses_tile (p t : Nat) (v : Tile) (s : State) :
    ((Upd.tile p t v).apply s).fuses = s.fuses := rfl
@[simp] theorem Upd.sec_tile (p t : Nat) (v : Tile) (s : State) :
    ((Upd.tile p t v).apply s).sec = s.sec := rfl
@[simp] theorem Upd.boot_tile (p t : Nat) (v : Tile) (s : State) :
    ((Upd.tile p t v).apply s).boot = s.boot := rfl
@[simp] theorem Upd.pwr_tile (p t : Nat) (v : Tile) (s : State) :
    ((Upd.tile p t v).apply s).pwr = s.pwr := rfl
@[simp] theorem Upd.tap_tile (p t : Nat) (v : Tile) (s : State) :
    ((Upd.tile p t v).apply s).tap = s.tap := rfl
@[simp] theorem Upd.tbLoaded_tile (p t : Nat) (v : Tile) (s : State) :
    ((Upd.tile p t v).apply s).tbLoaded = s.tbLoaded := rfl
@[simp] theorem Upd.out_tile (p t : Nat) (v : Tile) (s : State) :
    ((Upd.tile p t v).apply s).out = s.out := rfl
@[simp] theorem Upd.free_tile (p t : Nat) (v : Tile) (s : State) :
    ((Upd.tile p t v).apply s).free = s.free := rfl

/-! ### `Upd.pile` -/

@[simp] theorem Upd.rd_pile (p : Nat) (v : Pile) (s : State) (k' : FKey) :
    ((Upd.pile p v).apply s).rd k' = s.rd k' := rfl
@[simp] theorem Upd.on_pile (p : Nat) (v : Pile) (s : State) (k' : FKey) :
    ((Upd.pile p v).apply s).on k' = s.on k' := rfl
@[simp] theorem Upd.tile_pile (p : Nat) (v : Pile) (s : State) (p' t' : Nat) :
    ((Upd.pile p v).apply s).tile p' t' = s.tile p' t' := rfl
@[simp] theorem Upd.port_pile (p : Nat) (v : Pile) (s : State) (p' k' : Nat) :
    ((Upd.pile p v).apply s).port p' k' = s.port p' k' := rfl
@[simp] theorem Upd.bridge_pile (p : Nat) (v : Pile) (s : State) (p' d' : Nat) :
    ((Upd.pile p v).apply s).bridge p' d' = s.bridge p' d' := rfl
@[simp] theorem Upd.mailbox_pile (p : Nat) (v : Pile) (s : State) (i' : Nat) :
    ((Upd.pile p v).apply s).mailbox i' = s.mailbox i' := rfl
@[simp] theorem Upd.session?_pile (p : Nat) (v : Pile) (s : State) (i' : Nat) :
    ((Upd.pile p v).apply s).session? i' = s.session? i' := rfl
@[simp] theorem Upd.half?_pile (p : Nat) (v : Pile) (s : State) (i' : Nat) :
    ((Upd.pile p v).apply s).half? i' = s.half? i' := rfl
@[simp] theorem Upd.dramWord_pile (p : Nat) (v : Pile) (s : State) (a' : Nat) :
    ((Upd.pile p v).apply s).dramWord a' = s.dramWord a' := rfl
@[simp] theorem Upd.sramLine_pile (p : Nat) (v : Pile) (s : State) (a' : Nat) :
    ((Upd.pile p v).apply s).sramLine a' = s.sramLine a' := rfl
@[simp] theorem Upd.pending_pile (p : Nat) (v : Pile) (s : State) :
    ((Upd.pile p v).apply s).pending = s.pending := rfl
@[simp] theorem Upd.regs_pile (p : Nat) (v : Pile) (s : State) :
    ((Upd.pile p v).apply s).regs = s.regs := rfl
@[simp] theorem Upd.hold_pile (p : Nat) (v : Pile) (s : State) :
    ((Upd.pile p v).apply s).hold = s.hold := rfl
@[simp] theorem Upd.dram_pile (p : Nat) (v : Pile) (s : State) :
    ((Upd.pile p v).apply s).dram = s.dram := rfl
@[simp] theorem Upd.sram_pile (p : Nat) (v : Pile) (s : State) :
    ((Upd.pile p v).apply s).sram = s.sram := rfl
@[simp] theorem Upd.sessions_pile (p : Nat) (v : Pile) (s : State) :
    ((Upd.pile p v).apply s).sessions = s.sessions := rfl
@[simp] theorem Upd.halfOpen_pile (p : Nat) (v : Pile) (s : State) :
    ((Upd.pile p v).apply s).halfOpen = s.halfOpen := rfl
@[simp] theorem Upd.events_pile (p : Nat) (v : Pile) (s : State) :
    ((Upd.pile p v).apply s).events = s.events := rfl
@[simp] theorem Upd.lift_pile (p : Nat) (v : Pile) (s : State) :
    ((Upd.pile p v).apply s).lift = s.lift := rfl
@[simp] theorem Upd.job_pile (p : Nat) (v : Pile) (s : State) :
    ((Upd.pile p v).apply s).job = s.job := rfl
@[simp] theorem Upd.fuses_pile (p : Nat) (v : Pile) (s : State) :
    ((Upd.pile p v).apply s).fuses = s.fuses := rfl
@[simp] theorem Upd.sec_pile (p : Nat) (v : Pile) (s : State) :
    ((Upd.pile p v).apply s).sec = s.sec := rfl
@[simp] theorem Upd.boot_pile (p : Nat) (v : Pile) (s : State) :
    ((Upd.pile p v).apply s).boot = s.boot := rfl
@[simp] theorem Upd.pwr_pile (p : Nat) (v : Pile) (s : State) :
    ((Upd.pile p v).apply s).pwr = s.pwr := rfl
@[simp] theorem Upd.tap_pile (p : Nat) (v : Pile) (s : State) :
    ((Upd.pile p v).apply s).tap = s.tap := rfl
@[simp] theorem Upd.tbLoaded_pile (p : Nat) (v : Pile) (s : State) :
    ((Upd.pile p v).apply s).tbLoaded = s.tbLoaded := rfl
@[simp] theorem Upd.out_pile (p : Nat) (v : Pile) (s : State) :
    ((Upd.pile p v).apply s).out = s.out := rfl
@[simp] theorem Upd.free_pile (p : Nat) (v : Pile) (s : State) :
    ((Upd.pile p v).apply s).free = s.free := rfl

/-! ### `Upd.port` -/

@[simp] theorem Upd.rd_port (p k : Nat) (v : Port) (s : State) (k' : FKey) :
    ((Upd.port p k v).apply s).rd k' = s.rd k' := rfl
@[simp] theorem Upd.on_port (p k : Nat) (v : Port) (s : State) (k' : FKey) :
    ((Upd.port p k v).apply s).on k' = s.on k' := rfl
@[simp] theorem Upd.tile_port (p k : Nat) (v : Port) (s : State) (p' t' : Nat) :
    ((Upd.port p k v).apply s).tile p' t' = s.tile p' t' := rfl
@[simp] theorem Upd.pile_port (p k : Nat) (v : Port) (s : State) (p' : Nat) :
    ((Upd.port p k v).apply s).pile p' = s.pile p' := rfl
@[simp] theorem Upd.bridge_port (p k : Nat) (v : Port) (s : State) (p' d' : Nat) :
    ((Upd.port p k v).apply s).bridge p' d' = s.bridge p' d' := rfl
@[simp] theorem Upd.mailbox_port (p k : Nat) (v : Port) (s : State) (i' : Nat) :
    ((Upd.port p k v).apply s).mailbox i' = s.mailbox i' := rfl
@[simp] theorem Upd.session?_port (p k : Nat) (v : Port) (s : State) (i' : Nat) :
    ((Upd.port p k v).apply s).session? i' = s.session? i' := rfl
@[simp] theorem Upd.half?_port (p k : Nat) (v : Port) (s : State) (i' : Nat) :
    ((Upd.port p k v).apply s).half? i' = s.half? i' := rfl
@[simp] theorem Upd.dramWord_port (p k : Nat) (v : Port) (s : State) (a' : Nat) :
    ((Upd.port p k v).apply s).dramWord a' = s.dramWord a' := rfl
@[simp] theorem Upd.sramLine_port (p k : Nat) (v : Port) (s : State) (a' : Nat) :
    ((Upd.port p k v).apply s).sramLine a' = s.sramLine a' := rfl
@[simp] theorem Upd.pending_port (p k : Nat) (v : Port) (s : State) :
    ((Upd.port p k v).apply s).pending = s.pending := rfl
@[simp] theorem Upd.regs_port (p k : Nat) (v : Port) (s : State) :
    ((Upd.port p k v).apply s).regs = s.regs := rfl
@[simp] theorem Upd.hold_port (p k : Nat) (v : Port) (s : State) :
    ((Upd.port p k v).apply s).hold = s.hold := rfl
@[simp] theorem Upd.dram_port (p k : Nat) (v : Port) (s : State) :
    ((Upd.port p k v).apply s).dram = s.dram := rfl
@[simp] theorem Upd.sram_port (p k : Nat) (v : Port) (s : State) :
    ((Upd.port p k v).apply s).sram = s.sram := rfl
@[simp] theorem Upd.sessions_port (p k : Nat) (v : Port) (s : State) :
    ((Upd.port p k v).apply s).sessions = s.sessions := rfl
@[simp] theorem Upd.halfOpen_port (p k : Nat) (v : Port) (s : State) :
    ((Upd.port p k v).apply s).halfOpen = s.halfOpen := rfl
@[simp] theorem Upd.events_port (p k : Nat) (v : Port) (s : State) :
    ((Upd.port p k v).apply s).events = s.events := rfl
@[simp] theorem Upd.lift_port (p k : Nat) (v : Port) (s : State) :
    ((Upd.port p k v).apply s).lift = s.lift := rfl
@[simp] theorem Upd.job_port (p k : Nat) (v : Port) (s : State) :
    ((Upd.port p k v).apply s).job = s.job := rfl
@[simp] theorem Upd.fuses_port (p k : Nat) (v : Port) (s : State) :
    ((Upd.port p k v).apply s).fuses = s.fuses := rfl
@[simp] theorem Upd.sec_port (p k : Nat) (v : Port) (s : State) :
    ((Upd.port p k v).apply s).sec = s.sec := rfl
@[simp] theorem Upd.boot_port (p k : Nat) (v : Port) (s : State) :
    ((Upd.port p k v).apply s).boot = s.boot := rfl
@[simp] theorem Upd.pwr_port (p k : Nat) (v : Port) (s : State) :
    ((Upd.port p k v).apply s).pwr = s.pwr := rfl
@[simp] theorem Upd.tap_port (p k : Nat) (v : Port) (s : State) :
    ((Upd.port p k v).apply s).tap = s.tap := rfl
@[simp] theorem Upd.tbLoaded_port (p k : Nat) (v : Port) (s : State) :
    ((Upd.port p k v).apply s).tbLoaded = s.tbLoaded := rfl
@[simp] theorem Upd.out_port (p k : Nat) (v : Port) (s : State) :
    ((Upd.port p k v).apply s).out = s.out := rfl
@[simp] theorem Upd.free_port (p k : Nat) (v : Port) (s : State) :
    ((Upd.port p k v).apply s).free = s.free := rfl

/-! ### `Upd.bridge` -/

@[simp] theorem Upd.rd_bridge (p d : Nat) (v : Bridge) (s : State) (k' : FKey) :
    ((Upd.bridge p d v).apply s).rd k' = s.rd k' := rfl
@[simp] theorem Upd.on_bridge (p d : Nat) (v : Bridge) (s : State) (k' : FKey) :
    ((Upd.bridge p d v).apply s).on k' = s.on k' := rfl
@[simp] theorem Upd.tile_bridge (p d : Nat) (v : Bridge) (s : State) (p' t' : Nat) :
    ((Upd.bridge p d v).apply s).tile p' t' = s.tile p' t' := rfl
@[simp] theorem Upd.pile_bridge (p d : Nat) (v : Bridge) (s : State) (p' : Nat) :
    ((Upd.bridge p d v).apply s).pile p' = s.pile p' := rfl
@[simp] theorem Upd.port_bridge (p d : Nat) (v : Bridge) (s : State) (p' k' : Nat) :
    ((Upd.bridge p d v).apply s).port p' k' = s.port p' k' := rfl
@[simp] theorem Upd.mailbox_bridge (p d : Nat) (v : Bridge) (s : State) (i' : Nat) :
    ((Upd.bridge p d v).apply s).mailbox i' = s.mailbox i' := rfl
@[simp] theorem Upd.session?_bridge (p d : Nat) (v : Bridge) (s : State) (i' : Nat) :
    ((Upd.bridge p d v).apply s).session? i' = s.session? i' := rfl
@[simp] theorem Upd.half?_bridge (p d : Nat) (v : Bridge) (s : State) (i' : Nat) :
    ((Upd.bridge p d v).apply s).half? i' = s.half? i' := rfl
@[simp] theorem Upd.dramWord_bridge (p d : Nat) (v : Bridge) (s : State) (a' : Nat) :
    ((Upd.bridge p d v).apply s).dramWord a' = s.dramWord a' := rfl
@[simp] theorem Upd.sramLine_bridge (p d : Nat) (v : Bridge) (s : State) (a' : Nat) :
    ((Upd.bridge p d v).apply s).sramLine a' = s.sramLine a' := rfl
@[simp] theorem Upd.pending_bridge (p d : Nat) (v : Bridge) (s : State) :
    ((Upd.bridge p d v).apply s).pending = s.pending := rfl
@[simp] theorem Upd.regs_bridge (p d : Nat) (v : Bridge) (s : State) :
    ((Upd.bridge p d v).apply s).regs = s.regs := rfl
@[simp] theorem Upd.hold_bridge (p d : Nat) (v : Bridge) (s : State) :
    ((Upd.bridge p d v).apply s).hold = s.hold := rfl
@[simp] theorem Upd.dram_bridge (p d : Nat) (v : Bridge) (s : State) :
    ((Upd.bridge p d v).apply s).dram = s.dram := rfl
@[simp] theorem Upd.sram_bridge (p d : Nat) (v : Bridge) (s : State) :
    ((Upd.bridge p d v).apply s).sram = s.sram := rfl
@[simp] theorem Upd.sessions_bridge (p d : Nat) (v : Bridge) (s : State) :
    ((Upd.bridge p d v).apply s).sessions = s.sessions := rfl
@[simp] theorem Upd.halfOpen_bridge (p d : Nat) (v : Bridge) (s : State) :
    ((Upd.bridge p d v).apply s).halfOpen = s.halfOpen := rfl
@[simp] theorem Upd.events_bridge (p d : Nat) (v : Bridge) (s : State) :
    ((Upd.bridge p d v).apply s).events = s.events := rfl
@[simp] theorem Upd.lift_bridge (p d : Nat) (v : Bridge) (s : State) :
    ((Upd.bridge p d v).apply s).lift = s.lift := rfl
@[simp] theorem Upd.job_bridge (p d : Nat) (v : Bridge) (s : State) :
    ((Upd.bridge p d v).apply s).job = s.job := rfl
@[simp] theorem Upd.fuses_bridge (p d : Nat) (v : Bridge) (s : State) :
    ((Upd.bridge p d v).apply s).fuses = s.fuses := rfl
@[simp] theorem Upd.sec_bridge (p d : Nat) (v : Bridge) (s : State) :
    ((Upd.bridge p d v).apply s).sec = s.sec := rfl
@[simp] theorem Upd.boot_bridge (p d : Nat) (v : Bridge) (s : State) :
    ((Upd.bridge p d v).apply s).boot = s.boot := rfl
@[simp] theorem Upd.pwr_bridge (p d : Nat) (v : Bridge) (s : State) :
    ((Upd.bridge p d v).apply s).pwr = s.pwr := rfl
@[simp] theorem Upd.tap_bridge (p d : Nat) (v : Bridge) (s : State) :
    ((Upd.bridge p d v).apply s).tap = s.tap := rfl
@[simp] theorem Upd.tbLoaded_bridge (p d : Nat) (v : Bridge) (s : State) :
    ((Upd.bridge p d v).apply s).tbLoaded = s.tbLoaded := rfl
@[simp] theorem Upd.out_bridge (p d : Nat) (v : Bridge) (s : State) :
    ((Upd.bridge p d v).apply s).out = s.out := rfl
@[simp] theorem Upd.free_bridge (p d : Nat) (v : Bridge) (s : State) :
    ((Upd.bridge p d v).apply s).free = s.free := rfl

/-! ### `Upd.hold` -/

@[simp] theorem Upd.rd_hold (v : HoldSt) (s : State) (k' : FKey) :
    ((Upd.hold v).apply s).rd k' = s.rd k' := rfl
@[simp] theorem Upd.on_hold (v : HoldSt) (s : State) (k' : FKey) :
    ((Upd.hold v).apply s).on k' = s.on k' := rfl
@[simp] theorem Upd.tile_hold (v : HoldSt) (s : State) (p' t' : Nat) :
    ((Upd.hold v).apply s).tile p' t' = s.tile p' t' := rfl
@[simp] theorem Upd.pile_hold (v : HoldSt) (s : State) (p' : Nat) :
    ((Upd.hold v).apply s).pile p' = s.pile p' := rfl
@[simp] theorem Upd.port_hold (v : HoldSt) (s : State) (p' k' : Nat) :
    ((Upd.hold v).apply s).port p' k' = s.port p' k' := rfl
@[simp] theorem Upd.bridge_hold (v : HoldSt) (s : State) (p' d' : Nat) :
    ((Upd.hold v).apply s).bridge p' d' = s.bridge p' d' := rfl
@[simp] theorem Upd.mailbox_hold (v : HoldSt) (s : State) (i' : Nat) :
    ((Upd.hold v).apply s).mailbox i' = s.mailbox i' := rfl
@[simp] theorem Upd.session?_hold (v : HoldSt) (s : State) (i' : Nat) :
    ((Upd.hold v).apply s).session? i' = s.session? i' := rfl
@[simp] theorem Upd.half?_hold (v : HoldSt) (s : State) (i' : Nat) :
    ((Upd.hold v).apply s).half? i' = s.half? i' := rfl
@[simp] theorem Upd.dramWord_hold (v : HoldSt) (s : State) (a' : Nat) :
    ((Upd.hold v).apply s).dramWord a' = s.dramWord a' := rfl
@[simp] theorem Upd.sramLine_hold (v : HoldSt) (s : State) (a' : Nat) :
    ((Upd.hold v).apply s).sramLine a' = s.sramLine a' := rfl
@[simp] theorem Upd.pending_hold (v : HoldSt) (s : State) :
    ((Upd.hold v).apply s).pending = s.pending := rfl
@[simp] theorem Upd.regs_hold (v : HoldSt) (s : State) :
    ((Upd.hold v).apply s).regs = s.regs := rfl
@[simp] theorem Upd.dram_hold (v : HoldSt) (s : State) :
    ((Upd.hold v).apply s).dram = s.dram := rfl
@[simp] theorem Upd.sram_hold (v : HoldSt) (s : State) :
    ((Upd.hold v).apply s).sram = s.sram := rfl
@[simp] theorem Upd.sessions_hold (v : HoldSt) (s : State) :
    ((Upd.hold v).apply s).sessions = s.sessions := rfl
@[simp] theorem Upd.halfOpen_hold (v : HoldSt) (s : State) :
    ((Upd.hold v).apply s).halfOpen = s.halfOpen := rfl
@[simp] theorem Upd.events_hold (v : HoldSt) (s : State) :
    ((Upd.hold v).apply s).events = s.events := rfl
@[simp] theorem Upd.lift_hold (v : HoldSt) (s : State) :
    ((Upd.hold v).apply s).lift = s.lift := rfl
@[simp] theorem Upd.job_hold (v : HoldSt) (s : State) :
    ((Upd.hold v).apply s).job = s.job := rfl
@[simp] theorem Upd.fuses_hold (v : HoldSt) (s : State) :
    ((Upd.hold v).apply s).fuses = s.fuses := rfl
@[simp] theorem Upd.sec_hold (v : HoldSt) (s : State) :
    ((Upd.hold v).apply s).sec = s.sec := rfl
@[simp] theorem Upd.boot_hold (v : HoldSt) (s : State) :
    ((Upd.hold v).apply s).boot = s.boot := rfl
@[simp] theorem Upd.pwr_hold (v : HoldSt) (s : State) :
    ((Upd.hold v).apply s).pwr = s.pwr := rfl
@[simp] theorem Upd.tap_hold (v : HoldSt) (s : State) :
    ((Upd.hold v).apply s).tap = s.tap := rfl
@[simp] theorem Upd.tbLoaded_hold (v : HoldSt) (s : State) :
    ((Upd.hold v).apply s).tbLoaded = s.tbLoaded := rfl
@[simp] theorem Upd.out_hold (v : HoldSt) (s : State) :
    ((Upd.hold v).apply s).out = s.out := rfl
@[simp] theorem Upd.free_hold (v : HoldSt) (s : State) :
    ((Upd.hold v).apply s).free = s.free := rfl

/-! ### `Upd.openHalf` -/

@[simp] theorem Upd.rd_openHalf (v : HalfOpen) (s : State) (k' : FKey) :
    ((Upd.openHalf v).apply s).rd k' = s.rd k' := by
  simp only [Upd.apply]; split <;> rfl
@[simp] theorem Upd.on_openHalf (v : HalfOpen) (s : State) (k' : FKey) :
    ((Upd.openHalf v).apply s).on k' = s.on k' := by
  simp only [Upd.apply]; split <;> rfl
@[simp] theorem Upd.tile_openHalf (v : HalfOpen) (s : State) (p' t' : Nat) :
    ((Upd.openHalf v).apply s).tile p' t' = s.tile p' t' := by
  simp only [Upd.apply]; split <;> rfl
@[simp] theorem Upd.pile_openHalf (v : HalfOpen) (s : State) (p' : Nat) :
    ((Upd.openHalf v).apply s).pile p' = s.pile p' := by
  simp only [Upd.apply]; split <;> rfl
@[simp] theorem Upd.port_openHalf (v : HalfOpen) (s : State) (p' k' : Nat) :
    ((Upd.openHalf v).apply s).port p' k' = s.port p' k' := by
  simp only [Upd.apply]; split <;> rfl
@[simp] theorem Upd.bridge_openHalf (v : HalfOpen) (s : State) (p' d' : Nat) :
    ((Upd.openHalf v).apply s).bridge p' d' = s.bridge p' d' := by
  simp only [Upd.apply]; split <;> rfl
@[simp] theorem Upd.mailbox_openHalf (v : HalfOpen) (s : State) (i' : Nat) :
    ((Upd.openHalf v).apply s).mailbox i' = s.mailbox i' := by
  simp only [Upd.apply]; split <;> rfl
@[simp] theorem Upd.session?_openHalf (v : HalfOpen) (s : State) (i' : Nat) :
    ((Upd.openHalf v).apply s).session? i' = s.session? i' := by
  simp only [Upd.apply]; split <;> rfl
@[simp] theorem Upd.dramWord_openHalf (v : HalfOpen) (s : State) (a' : Nat) :
    ((Upd.openHalf v).apply s).dramWord a' = s.dramWord a' := by
  simp only [Upd.apply]; split <;> rfl
@[simp] theorem Upd.sramLine_openHalf (v : HalfOpen) (s : State) (a' : Nat) :
    ((Upd.openHalf v).apply s).sramLine a' = s.sramLine a' := by
  simp only [Upd.apply]; split <;> rfl
@[simp] theorem Upd.pending_openHalf (v : HalfOpen) (s : State) :
    ((Upd.openHalf v).apply s).pending = s.pending := by
  simp only [Upd.apply]; split <;> rfl
@[simp] theorem Upd.regs_openHalf (v : HalfOpen) (s : State) :
    ((Upd.openHalf v).apply s).regs = s.regs := by
  simp only [Upd.apply]; split <;> rfl
@[simp] theorem Upd.hold_openHalf (v : HalfOpen) (s : State) :
    ((Upd.openHalf v).apply s).hold = s.hold := by
  simp only [Upd.apply]; split <;> rfl
@[simp] theorem Upd.dram_openHalf (v : HalfOpen) (s : State) :
    ((Upd.openHalf v).apply s).dram = s.dram := by
  simp only [Upd.apply]; split <;> rfl
@[simp] theorem Upd.sram_openHalf (v : HalfOpen) (s : State) :
    ((Upd.openHalf v).apply s).sram = s.sram := by
  simp only [Upd.apply]; split <;> rfl
@[simp] theorem Upd.sessions_openHalf (v : HalfOpen) (s : State) :
    ((Upd.openHalf v).apply s).sessions = s.sessions := by
  simp only [Upd.apply]; split <;> rfl
@[simp] theorem Upd.events_openHalf (v : HalfOpen) (s : State) :
    ((Upd.openHalf v).apply s).events = s.events := by
  simp only [Upd.apply]; split <;> rfl
@[simp] theorem Upd.lift_openHalf (v : HalfOpen) (s : State) :
    ((Upd.openHalf v).apply s).lift = s.lift := by
  simp only [Upd.apply]; split <;> rfl
@[simp] theorem Upd.job_openHalf (v : HalfOpen) (s : State) :
    ((Upd.openHalf v).apply s).job = s.job := by
  simp only [Upd.apply]; split <;> rfl
@[simp] theorem Upd.fuses_openHalf (v : HalfOpen) (s : State) :
    ((Upd.openHalf v).apply s).fuses = s.fuses := by
  simp only [Upd.apply]; split <;> rfl
@[simp] theorem Upd.sec_openHalf (v : HalfOpen) (s : State) :
    ((Upd.openHalf v).apply s).sec = s.sec := by
  simp only [Upd.apply]; split <;> rfl
@[simp] theorem Upd.boot_openHalf (v : HalfOpen) (s : State) :
    ((Upd.openHalf v).apply s).boot = s.boot := by
  simp only [Upd.apply]; split <;> rfl
@[simp] theorem Upd.pwr_openHalf (v : HalfOpen) (s : State) :
    ((Upd.openHalf v).apply s).pwr = s.pwr := by
  simp only [Upd.apply]; split <;> rfl
@[simp] theorem Upd.tap_openHalf (v : HalfOpen) (s : State) :
    ((Upd.openHalf v).apply s).tap = s.tap := by
  simp only [Upd.apply]; split <;> rfl
@[simp] theorem Upd.tbLoaded_openHalf (v : HalfOpen) (s : State) :
    ((Upd.openHalf v).apply s).tbLoaded = s.tbLoaded := by
  simp only [Upd.apply]; split <;> rfl
@[simp] theorem Upd.out_openHalf (v : HalfOpen) (s : State) :
    ((Upd.openHalf v).apply s).out = s.out := by
  simp only [Upd.apply]; split <;> rfl
@[simp] theorem Upd.free_openHalf (v : HalfOpen) (s : State) :
    ((Upd.openHalf v).apply s).free = s.free := by
  simp only [Upd.apply]; split <;> rfl

/-! ### `Upd.dropHalf` -/

@[simp] theorem Upd.rd_dropHalf (id : Nat) (s : State) (k' : FKey) :
    ((Upd.dropHalf id).apply s).rd k' = s.rd k' := rfl
@[simp] theorem Upd.on_dropHalf (id : Nat) (s : State) (k' : FKey) :
    ((Upd.dropHalf id).apply s).on k' = s.on k' := rfl
@[simp] theorem Upd.tile_dropHalf (id : Nat) (s : State) (p' t' : Nat) :
    ((Upd.dropHalf id).apply s).tile p' t' = s.tile p' t' := rfl
@[simp] theorem Upd.pile_dropHalf (id : Nat) (s : State) (p' : Nat) :
    ((Upd.dropHalf id).apply s).pile p' = s.pile p' := rfl
@[simp] theorem Upd.port_dropHalf (id : Nat) (s : State) (p' k' : Nat) :
    ((Upd.dropHalf id).apply s).port p' k' = s.port p' k' := rfl
@[simp] theorem Upd.bridge_dropHalf (id : Nat) (s : State) (p' d' : Nat) :
    ((Upd.dropHalf id).apply s).bridge p' d' = s.bridge p' d' := rfl
@[simp] theorem Upd.mailbox_dropHalf (id : Nat) (s : State) (i' : Nat) :
    ((Upd.dropHalf id).apply s).mailbox i' = s.mailbox i' := rfl
@[simp] theorem Upd.session?_dropHalf (id : Nat) (s : State) (i' : Nat) :
    ((Upd.dropHalf id).apply s).session? i' = s.session? i' := rfl
@[simp] theorem Upd.dramWord_dropHalf (id : Nat) (s : State) (a' : Nat) :
    ((Upd.dropHalf id).apply s).dramWord a' = s.dramWord a' := rfl
@[simp] theorem Upd.sramLine_dropHalf (id : Nat) (s : State) (a' : Nat) :
    ((Upd.dropHalf id).apply s).sramLine a' = s.sramLine a' := rfl
@[simp] theorem Upd.pending_dropHalf (id : Nat) (s : State) :
    ((Upd.dropHalf id).apply s).pending = s.pending := rfl
@[simp] theorem Upd.regs_dropHalf (id : Nat) (s : State) :
    ((Upd.dropHalf id).apply s).regs = s.regs := rfl
@[simp] theorem Upd.hold_dropHalf (id : Nat) (s : State) :
    ((Upd.dropHalf id).apply s).hold = s.hold := rfl
@[simp] theorem Upd.dram_dropHalf (id : Nat) (s : State) :
    ((Upd.dropHalf id).apply s).dram = s.dram := rfl
@[simp] theorem Upd.sram_dropHalf (id : Nat) (s : State) :
    ((Upd.dropHalf id).apply s).sram = s.sram := rfl
@[simp] theorem Upd.sessions_dropHalf (id : Nat) (s : State) :
    ((Upd.dropHalf id).apply s).sessions = s.sessions := rfl
@[simp] theorem Upd.events_dropHalf (id : Nat) (s : State) :
    ((Upd.dropHalf id).apply s).events = s.events := rfl
@[simp] theorem Upd.lift_dropHalf (id : Nat) (s : State) :
    ((Upd.dropHalf id).apply s).lift = s.lift := rfl
@[simp] theorem Upd.job_dropHalf (id : Nat) (s : State) :
    ((Upd.dropHalf id).apply s).job = s.job := rfl
@[simp] theorem Upd.fuses_dropHalf (id : Nat) (s : State) :
    ((Upd.dropHalf id).apply s).fuses = s.fuses := rfl
@[simp] theorem Upd.sec_dropHalf (id : Nat) (s : State) :
    ((Upd.dropHalf id).apply s).sec = s.sec := rfl
@[simp] theorem Upd.boot_dropHalf (id : Nat) (s : State) :
    ((Upd.dropHalf id).apply s).boot = s.boot := rfl
@[simp] theorem Upd.pwr_dropHalf (id : Nat) (s : State) :
    ((Upd.dropHalf id).apply s).pwr = s.pwr := rfl
@[simp] theorem Upd.tap_dropHalf (id : Nat) (s : State) :
    ((Upd.dropHalf id).apply s).tap = s.tap := rfl
@[simp] theorem Upd.tbLoaded_dropHalf (id : Nat) (s : State) :
    ((Upd.dropHalf id).apply s).tbLoaded = s.tbLoaded := rfl
@[simp] theorem Upd.out_dropHalf (id : Nat) (s : State) :
    ((Upd.dropHalf id).apply s).out = s.out := rfl
@[simp] theorem Upd.free_dropHalf (id : Nat) (s : State) :
    ((Upd.dropHalf id).apply s).free = s.free := rfl

/-! ### `Upd.openSession` -/

@[simp] theorem Upd.rd_openSession (v : Session) (s : State) (k' : FKey) :
    ((Upd.openSession v).apply s).rd k' = s.rd k' := by
  simp only [Upd.apply]; split <;> rfl
@[simp] theorem Upd.on_openSession (v : Session) (s : State) (k' : FKey) :
    ((Upd.openSession v).apply s).on k' = s.on k' := by
  simp only [Upd.apply]; split <;> rfl
@[simp] theorem Upd.tile_openSession (v : Session) (s : State) (p' t' : Nat) :
    ((Upd.openSession v).apply s).tile p' t' = s.tile p' t' := by
  simp only [Upd.apply]; split <;> rfl
@[simp] theorem Upd.pile_openSession (v : Session) (s : State) (p' : Nat) :
    ((Upd.openSession v).apply s).pile p' = s.pile p' := by
  simp only [Upd.apply]; split <;> rfl
@[simp] theorem Upd.port_openSession (v : Session) (s : State) (p' k' : Nat) :
    ((Upd.openSession v).apply s).port p' k' = s.port p' k' := by
  simp only [Upd.apply]; split <;> rfl
@[simp] theorem Upd.bridge_openSession (v : Session) (s : State) (p' d' : Nat) :
    ((Upd.openSession v).apply s).bridge p' d' = s.bridge p' d' := by
  simp only [Upd.apply]; split <;> rfl
@[simp] theorem Upd.mailbox_openSession (v : Session) (s : State) (i' : Nat) :
    ((Upd.openSession v).apply s).mailbox i' = s.mailbox i' := by
  simp only [Upd.apply]; split <;> rfl
@[simp] theorem Upd.half?_openSession (v : Session) (s : State) (i' : Nat) :
    ((Upd.openSession v).apply s).half? i' = s.half? i' := by
  simp only [Upd.apply]; split <;> rfl
@[simp] theorem Upd.dramWord_openSession (v : Session) (s : State) (a' : Nat) :
    ((Upd.openSession v).apply s).dramWord a' = s.dramWord a' := by
  simp only [Upd.apply]; split <;> rfl
@[simp] theorem Upd.sramLine_openSession (v : Session) (s : State) (a' : Nat) :
    ((Upd.openSession v).apply s).sramLine a' = s.sramLine a' := by
  simp only [Upd.apply]; split <;> rfl
@[simp] theorem Upd.pending_openSession (v : Session) (s : State) :
    ((Upd.openSession v).apply s).pending = s.pending := by
  simp only [Upd.apply]; split <;> rfl
@[simp] theorem Upd.regs_openSession (v : Session) (s : State) :
    ((Upd.openSession v).apply s).regs = s.regs := by
  simp only [Upd.apply]; split <;> rfl
@[simp] theorem Upd.hold_openSession (v : Session) (s : State) :
    ((Upd.openSession v).apply s).hold = s.hold := by
  simp only [Upd.apply]; split <;> rfl
@[simp] theorem Upd.dram_openSession (v : Session) (s : State) :
    ((Upd.openSession v).apply s).dram = s.dram := by
  simp only [Upd.apply]; split <;> rfl
@[simp] theorem Upd.sram_openSession (v : Session) (s : State) :
    ((Upd.openSession v).apply s).sram = s.sram := by
  simp only [Upd.apply]; split <;> rfl
@[simp] theorem Upd.halfOpen_openSession (v : Session) (s : State) :
    ((Upd.openSession v).apply s).halfOpen = s.halfOpen := by
  simp only [Upd.apply]; split <;> rfl
@[simp] theorem Upd.events_openSession (v : Session) (s : State) :
    ((Upd.openSession v).apply s).events = s.events := by
  simp only [Upd.apply]; split <;> rfl
@[simp] theorem Upd.lift_openSession (v : Session) (s : State) :
    ((Upd.openSession v).apply s).lift = s.lift := by
  simp only [Upd.apply]; split <;> rfl
@[simp] theorem Upd.job_openSession (v : Session) (s : State) :
    ((Upd.openSession v).apply s).job = s.job := by
  simp only [Upd.apply]; split <;> rfl
@[simp] theorem Upd.fuses_openSession (v : Session) (s : State) :
    ((Upd.openSession v).apply s).fuses = s.fuses := by
  simp only [Upd.apply]; split <;> rfl
@[simp] theorem Upd.sec_openSession (v : Session) (s : State) :
    ((Upd.openSession v).apply s).sec = s.sec := by
  simp only [Upd.apply]; split <;> rfl
@[simp] theorem Upd.boot_openSession (v : Session) (s : State) :
    ((Upd.openSession v).apply s).boot = s.boot := by
  simp only [Upd.apply]; split <;> rfl
@[simp] theorem Upd.pwr_openSession (v : Session) (s : State) :
    ((Upd.openSession v).apply s).pwr = s.pwr := by
  simp only [Upd.apply]; split <;> rfl
@[simp] theorem Upd.tap_openSession (v : Session) (s : State) :
    ((Upd.openSession v).apply s).tap = s.tap := by
  simp only [Upd.apply]; split <;> rfl
@[simp] theorem Upd.tbLoaded_openSession (v : Session) (s : State) :
    ((Upd.openSession v).apply s).tbLoaded = s.tbLoaded := by
  simp only [Upd.apply]; split <;> rfl
@[simp] theorem Upd.out_openSession (v : Session) (s : State) :
    ((Upd.openSession v).apply s).out = s.out := by
  simp only [Upd.apply]; split <;> rfl
@[simp] theorem Upd.free_openSession (v : Session) (s : State) :
    ((Upd.openSession v).apply s).free = s.free := by
  simp only [Upd.apply]; split <;> rfl

/-! ### `Upd.setSession` -/

@[simp] theorem Upd.rd_setSession (v : Session) (s : State) (k' : FKey) :
    ((Upd.setSession v).apply s).rd k' = s.rd k' := rfl
@[simp] theorem Upd.on_setSession (v : Session) (s : State) (k' : FKey) :
    ((Upd.setSession v).apply s).on k' = s.on k' := rfl
@[simp] theorem Upd.tile_setSession (v : Session) (s : State) (p' t' : Nat) :
    ((Upd.setSession v).apply s).tile p' t' = s.tile p' t' := rfl
@[simp] theorem Upd.pile_setSession (v : Session) (s : State) (p' : Nat) :
    ((Upd.setSession v).apply s).pile p' = s.pile p' := rfl
@[simp] theorem Upd.port_setSession (v : Session) (s : State) (p' k' : Nat) :
    ((Upd.setSession v).apply s).port p' k' = s.port p' k' := rfl
@[simp] theorem Upd.bridge_setSession (v : Session) (s : State) (p' d' : Nat) :
    ((Upd.setSession v).apply s).bridge p' d' = s.bridge p' d' := rfl
@[simp] theorem Upd.mailbox_setSession (v : Session) (s : State) (i' : Nat) :
    ((Upd.setSession v).apply s).mailbox i' = s.mailbox i' := rfl
@[simp] theorem Upd.half?_setSession (v : Session) (s : State) (i' : Nat) :
    ((Upd.setSession v).apply s).half? i' = s.half? i' := rfl
@[simp] theorem Upd.dramWord_setSession (v : Session) (s : State) (a' : Nat) :
    ((Upd.setSession v).apply s).dramWord a' = s.dramWord a' := rfl
@[simp] theorem Upd.sramLine_setSession (v : Session) (s : State) (a' : Nat) :
    ((Upd.setSession v).apply s).sramLine a' = s.sramLine a' := rfl
@[simp] theorem Upd.pending_setSession (v : Session) (s : State) :
    ((Upd.setSession v).apply s).pending = s.pending := rfl
@[simp] theorem Upd.regs_setSession (v : Session) (s : State) :
    ((Upd.setSession v).apply s).regs = s.regs := rfl
@[simp] theorem Upd.hold_setSession (v : Session) (s : State) :
    ((Upd.setSession v).apply s).hold = s.hold := rfl
@[simp] theorem Upd.dram_setSession (v : Session) (s : State) :
    ((Upd.setSession v).apply s).dram = s.dram := rfl
@[simp] theorem Upd.sram_setSession (v : Session) (s : State) :
    ((Upd.setSession v).apply s).sram = s.sram := rfl
@[simp] theorem Upd.halfOpen_setSession (v : Session) (s : State) :
    ((Upd.setSession v).apply s).halfOpen = s.halfOpen := rfl
@[simp] theorem Upd.events_setSession (v : Session) (s : State) :
    ((Upd.setSession v).apply s).events = s.events := rfl
@[simp] theorem Upd.lift_setSession (v : Session) (s : State) :
    ((Upd.setSession v).apply s).lift = s.lift := rfl
@[simp] theorem Upd.job_setSession (v : Session) (s : State) :
    ((Upd.setSession v).apply s).job = s.job := rfl
@[simp] theorem Upd.fuses_setSession (v : Session) (s : State) :
    ((Upd.setSession v).apply s).fuses = s.fuses := rfl
@[simp] theorem Upd.sec_setSession (v : Session) (s : State) :
    ((Upd.setSession v).apply s).sec = s.sec := rfl
@[simp] theorem Upd.boot_setSession (v : Session) (s : State) :
    ((Upd.setSession v).apply s).boot = s.boot := rfl
@[simp] theorem Upd.pwr_setSession (v : Session) (s : State) :
    ((Upd.setSession v).apply s).pwr = s.pwr := rfl
@[simp] theorem Upd.tap_setSession (v : Session) (s : State) :
    ((Upd.setSession v).apply s).tap = s.tap := rfl
@[simp] theorem Upd.tbLoaded_setSession (v : Session) (s : State) :
    ((Upd.setSession v).apply s).tbLoaded = s.tbLoaded := rfl
@[simp] theorem Upd.out_setSession (v : Session) (s : State) :
    ((Upd.setSession v).apply s).out = s.out := rfl
@[simp] theorem Upd.free_setSession (v : Session) (s : State) :
    ((Upd.setSession v).apply s).free = s.free := rfl

/-! ### `Upd.dropSession` -/

@[simp] theorem Upd.rd_dropSession (id : Nat) (s : State) (k' : FKey) :
    ((Upd.dropSession id).apply s).rd k' = s.rd k' := rfl
@[simp] theorem Upd.on_dropSession (id : Nat) (s : State) (k' : FKey) :
    ((Upd.dropSession id).apply s).on k' = s.on k' := rfl
@[simp] theorem Upd.tile_dropSession (id : Nat) (s : State) (p' t' : Nat) :
    ((Upd.dropSession id).apply s).tile p' t' = s.tile p' t' := rfl
@[simp] theorem Upd.pile_dropSession (id : Nat) (s : State) (p' : Nat) :
    ((Upd.dropSession id).apply s).pile p' = s.pile p' := rfl
@[simp] theorem Upd.port_dropSession (id : Nat) (s : State) (p' k' : Nat) :
    ((Upd.dropSession id).apply s).port p' k' = s.port p' k' := rfl
@[simp] theorem Upd.bridge_dropSession (id : Nat) (s : State) (p' d' : Nat) :
    ((Upd.dropSession id).apply s).bridge p' d' = s.bridge p' d' := rfl
@[simp] theorem Upd.mailbox_dropSession (id : Nat) (s : State) (i' : Nat) :
    ((Upd.dropSession id).apply s).mailbox i' = s.mailbox i' := rfl
@[simp] theorem Upd.half?_dropSession (id : Nat) (s : State) (i' : Nat) :
    ((Upd.dropSession id).apply s).half? i' = s.half? i' := rfl
@[simp] theorem Upd.dramWord_dropSession (id : Nat) (s : State) (a' : Nat) :
    ((Upd.dropSession id).apply s).dramWord a' = s.dramWord a' := rfl
@[simp] theorem Upd.sramLine_dropSession (id : Nat) (s : State) (a' : Nat) :
    ((Upd.dropSession id).apply s).sramLine a' = s.sramLine a' := rfl
@[simp] theorem Upd.pending_dropSession (id : Nat) (s : State) :
    ((Upd.dropSession id).apply s).pending = s.pending := rfl
@[simp] theorem Upd.regs_dropSession (id : Nat) (s : State) :
    ((Upd.dropSession id).apply s).regs = s.regs := rfl
@[simp] theorem Upd.hold_dropSession (id : Nat) (s : State) :
    ((Upd.dropSession id).apply s).hold = s.hold := rfl
@[simp] theorem Upd.dram_dropSession (id : Nat) (s : State) :
    ((Upd.dropSession id).apply s).dram = s.dram := rfl
@[simp] theorem Upd.sram_dropSession (id : Nat) (s : State) :
    ((Upd.dropSession id).apply s).sram = s.sram := rfl
@[simp] theorem Upd.halfOpen_dropSession (id : Nat) (s : State) :
    ((Upd.dropSession id).apply s).halfOpen = s.halfOpen := rfl
@[simp] theorem Upd.events_dropSession (id : Nat) (s : State) :
    ((Upd.dropSession id).apply s).events = s.events := rfl
@[simp] theorem Upd.lift_dropSession (id : Nat) (s : State) :
    ((Upd.dropSession id).apply s).lift = s.lift := rfl
@[simp] theorem Upd.job_dropSession (id : Nat) (s : State) :
    ((Upd.dropSession id).apply s).job = s.job := rfl
@[simp] theorem Upd.fuses_dropSession (id : Nat) (s : State) :
    ((Upd.dropSession id).apply s).fuses = s.fuses := rfl
@[simp] theorem Upd.sec_dropSession (id : Nat) (s : State) :
    ((Upd.dropSession id).apply s).sec = s.sec := rfl
@[simp] theorem Upd.boot_dropSession (id : Nat) (s : State) :
    ((Upd.dropSession id).apply s).boot = s.boot := rfl
@[simp] theorem Upd.pwr_dropSession (id : Nat) (s : State) :
    ((Upd.dropSession id).apply s).pwr = s.pwr := rfl
@[simp] theorem Upd.tap_dropSession (id : Nat) (s : State) :
    ((Upd.dropSession id).apply s).tap = s.tap := rfl
@[simp] theorem Upd.tbLoaded_dropSession (id : Nat) (s : State) :
    ((Upd.dropSession id).apply s).tbLoaded = s.tbLoaded := rfl
@[simp] theorem Upd.out_dropSession (id : Nat) (s : State) :
    ((Upd.dropSession id).apply s).out = s.out := rfl
@[simp] theorem Upd.free_dropSession (id : Nat) (s : State) :
    ((Upd.dropSession id).apply s).free = s.free := rfl

/-! ### `Upd.mailbox` -/

@[simp] theorem Upd.rd_mailbox (i : Nat) (v : Mailbox) (s : State) (k' : FKey) :
    ((Upd.mailbox i v).apply s).rd k' = s.rd k' := rfl
@[simp] theorem Upd.on_mailbox (i : Nat) (v : Mailbox) (s : State) (k' : FKey) :
    ((Upd.mailbox i v).apply s).on k' = s.on k' := rfl
@[simp] theorem Upd.tile_mailbox (i : Nat) (v : Mailbox) (s : State) (p' t' : Nat) :
    ((Upd.mailbox i v).apply s).tile p' t' = s.tile p' t' := rfl
@[simp] theorem Upd.pile_mailbox (i : Nat) (v : Mailbox) (s : State) (p' : Nat) :
    ((Upd.mailbox i v).apply s).pile p' = s.pile p' := rfl
@[simp] theorem Upd.port_mailbox (i : Nat) (v : Mailbox) (s : State) (p' k' : Nat) :
    ((Upd.mailbox i v).apply s).port p' k' = s.port p' k' := rfl
@[simp] theorem Upd.bridge_mailbox (i : Nat) (v : Mailbox) (s : State) (p' d' : Nat) :
    ((Upd.mailbox i v).apply s).bridge p' d' = s.bridge p' d' := rfl
@[simp] theorem Upd.session?_mailbox (i : Nat) (v : Mailbox) (s : State) (i' : Nat) :
    ((Upd.mailbox i v).apply s).session? i' = s.session? i' := rfl
@[simp] theorem Upd.half?_mailbox (i : Nat) (v : Mailbox) (s : State) (i' : Nat) :
    ((Upd.mailbox i v).apply s).half? i' = s.half? i' := rfl
@[simp] theorem Upd.dramWord_mailbox (i : Nat) (v : Mailbox) (s : State) (a' : Nat) :
    ((Upd.mailbox i v).apply s).dramWord a' = s.dramWord a' := rfl
@[simp] theorem Upd.sramLine_mailbox (i : Nat) (v : Mailbox) (s : State) (a' : Nat) :
    ((Upd.mailbox i v).apply s).sramLine a' = s.sramLine a' := rfl
@[simp] theorem Upd.pending_mailbox (i : Nat) (v : Mailbox) (s : State) :
    ((Upd.mailbox i v).apply s).pending = s.pending := rfl
@[simp] theorem Upd.regs_mailbox (i : Nat) (v : Mailbox) (s : State) :
    ((Upd.mailbox i v).apply s).regs = s.regs := rfl
@[simp] theorem Upd.hold_mailbox (i : Nat) (v : Mailbox) (s : State) :
    ((Upd.mailbox i v).apply s).hold = s.hold := rfl
@[simp] theorem Upd.dram_mailbox (i : Nat) (v : Mailbox) (s : State) :
    ((Upd.mailbox i v).apply s).dram = s.dram := rfl
@[simp] theorem Upd.sram_mailbox (i : Nat) (v : Mailbox) (s : State) :
    ((Upd.mailbox i v).apply s).sram = s.sram := rfl
@[simp] theorem Upd.sessions_mailbox (i : Nat) (v : Mailbox) (s : State) :
    ((Upd.mailbox i v).apply s).sessions = s.sessions := rfl
@[simp] theorem Upd.halfOpen_mailbox (i : Nat) (v : Mailbox) (s : State) :
    ((Upd.mailbox i v).apply s).halfOpen = s.halfOpen := rfl
@[simp] theorem Upd.events_mailbox (i : Nat) (v : Mailbox) (s : State) :
    ((Upd.mailbox i v).apply s).events = s.events := rfl
@[simp] theorem Upd.lift_mailbox (i : Nat) (v : Mailbox) (s : State) :
    ((Upd.mailbox i v).apply s).lift = s.lift := rfl
@[simp] theorem Upd.job_mailbox (i : Nat) (v : Mailbox) (s : State) :
    ((Upd.mailbox i v).apply s).job = s.job := rfl
@[simp] theorem Upd.fuses_mailbox (i : Nat) (v : Mailbox) (s : State) :
    ((Upd.mailbox i v).apply s).fuses = s.fuses := rfl
@[simp] theorem Upd.sec_mailbox (i : Nat) (v : Mailbox) (s : State) :
    ((Upd.mailbox i v).apply s).sec = s.sec := rfl
@[simp] theorem Upd.boot_mailbox (i : Nat) (v : Mailbox) (s : State) :
    ((Upd.mailbox i v).apply s).boot = s.boot := rfl
@[simp] theorem Upd.pwr_mailbox (i : Nat) (v : Mailbox) (s : State) :
    ((Upd.mailbox i v).apply s).pwr = s.pwr := rfl
@[simp] theorem Upd.tap_mailbox (i : Nat) (v : Mailbox) (s : State) :
    ((Upd.mailbox i v).apply s).tap = s.tap := rfl
@[simp] theorem Upd.tbLoaded_mailbox (i : Nat) (v : Mailbox) (s : State) :
    ((Upd.mailbox i v).apply s).tbLoaded = s.tbLoaded := rfl
@[simp] theorem Upd.out_mailbox (i : Nat) (v : Mailbox) (s : State) :
    ((Upd.mailbox i v).apply s).out = s.out := rfl
@[simp] theorem Upd.free_mailbox (i : Nat) (v : Mailbox) (s : State) :
    ((Upd.mailbox i v).apply s).free = s.free := rfl

/-! ### `Upd.pushEvent` -/

@[simp] theorem Upd.rd_pushEvent (e : Event) (s : State) (k' : FKey) :
    ((Upd.pushEvent e).apply s).rd k' = s.rd k' := by
  simp only [Upd.apply]; split <;> rfl
@[simp] theorem Upd.on_pushEvent (e : Event) (s : State) (k' : FKey) :
    ((Upd.pushEvent e).apply s).on k' = s.on k' := by
  simp only [Upd.apply]; split <;> rfl
@[simp] theorem Upd.tile_pushEvent (e : Event) (s : State) (p' t' : Nat) :
    ((Upd.pushEvent e).apply s).tile p' t' = s.tile p' t' := by
  simp only [Upd.apply]; split <;> rfl
@[simp] theorem Upd.pile_pushEvent (e : Event) (s : State) (p' : Nat) :
    ((Upd.pushEvent e).apply s).pile p' = s.pile p' := by
  simp only [Upd.apply]; split <;> rfl
@[simp] theorem Upd.port_pushEvent (e : Event) (s : State) (p' k' : Nat) :
    ((Upd.pushEvent e).apply s).port p' k' = s.port p' k' := by
  simp only [Upd.apply]; split <;> rfl
@[simp] theorem Upd.bridge_pushEvent (e : Event) (s : State) (p' d' : Nat) :
    ((Upd.pushEvent e).apply s).bridge p' d' = s.bridge p' d' := by
  simp only [Upd.apply]; split <;> rfl
@[simp] theorem Upd.mailbox_pushEvent (e : Event) (s : State) (i' : Nat) :
    ((Upd.pushEvent e).apply s).mailbox i' = s.mailbox i' := by
  simp only [Upd.apply]; split <;> rfl
@[simp] theorem Upd.session?_pushEvent (e : Event) (s : State) (i' : Nat) :
    ((Upd.pushEvent e).apply s).session? i' = s.session? i' := by
  simp only [Upd.apply]; split <;> rfl
@[simp] theorem Upd.half?_pushEvent (e : Event) (s : State) (i' : Nat) :
    ((Upd.pushEvent e).apply s).half? i' = s.half? i' := by
  simp only [Upd.apply]; split <;> rfl
@[simp] theorem Upd.dramWord_pushEvent (e : Event) (s : State) (a' : Nat) :
    ((Upd.pushEvent e).apply s).dramWord a' = s.dramWord a' := by
  simp only [Upd.apply]; split <;> rfl
@[simp] theorem Upd.sramLine_pushEvent (e : Event) (s : State) (a' : Nat) :
    ((Upd.pushEvent e).apply s).sramLine a' = s.sramLine a' := by
  simp only [Upd.apply]; split <;> rfl
@[simp] theorem Upd.pending_pushEvent (e : Event) (s : State) :
    ((Upd.pushEvent e).apply s).pending = s.pending := by
  simp only [Upd.apply]; split <;> rfl
@[simp] theorem Upd.regs_pushEvent (e : Event) (s : State) :
    ((Upd.pushEvent e).apply s).regs = s.regs := by
  simp only [Upd.apply]; split <;> rfl
@[simp] theorem Upd.hold_pushEvent (e : Event) (s : State) :
    ((Upd.pushEvent e).apply s).hold = s.hold := by
  simp only [Upd.apply]; split <;> rfl
@[simp] theorem Upd.dram_pushEvent (e : Event) (s : State) :
    ((Upd.pushEvent e).apply s).dram = s.dram := by
  simp only [Upd.apply]; split <;> rfl
@[simp] theorem Upd.sram_pushEvent (e : Event) (s : State) :
    ((Upd.pushEvent e).apply s).sram = s.sram := by
  simp only [Upd.apply]; split <;> rfl
@[simp] theorem Upd.sessions_pushEvent (e : Event) (s : State) :
    ((Upd.pushEvent e).apply s).sessions = s.sessions := by
  simp only [Upd.apply]; split <;> rfl
@[simp] theorem Upd.halfOpen_pushEvent (e : Event) (s : State) :
    ((Upd.pushEvent e).apply s).halfOpen = s.halfOpen := by
  simp only [Upd.apply]; split <;> rfl
@[simp] theorem Upd.lift_pushEvent (e : Event) (s : State) :
    ((Upd.pushEvent e).apply s).lift = s.lift := by
  simp only [Upd.apply]; split <;> rfl
@[simp] theorem Upd.job_pushEvent (e : Event) (s : State) :
    ((Upd.pushEvent e).apply s).job = s.job := by
  simp only [Upd.apply]; split <;> rfl
@[simp] theorem Upd.fuses_pushEvent (e : Event) (s : State) :
    ((Upd.pushEvent e).apply s).fuses = s.fuses := by
  simp only [Upd.apply]; split <;> rfl
@[simp] theorem Upd.sec_pushEvent (e : Event) (s : State) :
    ((Upd.pushEvent e).apply s).sec = s.sec := by
  simp only [Upd.apply]; split <;> rfl
@[simp] theorem Upd.boot_pushEvent (e : Event) (s : State) :
    ((Upd.pushEvent e).apply s).boot = s.boot := by
  simp only [Upd.apply]; split <;> rfl
@[simp] theorem Upd.pwr_pushEvent (e : Event) (s : State) :
    ((Upd.pushEvent e).apply s).pwr = s.pwr := by
  simp only [Upd.apply]; split <;> rfl
@[simp] theorem Upd.tap_pushEvent (e : Event) (s : State) :
    ((Upd.pushEvent e).apply s).tap = s.tap := by
  simp only [Upd.apply]; split <;> rfl
@[simp] theorem Upd.tbLoaded_pushEvent (e : Event) (s : State) :
    ((Upd.pushEvent e).apply s).tbLoaded = s.tbLoaded := by
  simp only [Upd.apply]; split <;> rfl
@[simp] theorem Upd.out_pushEvent (e : Event) (s : State) :
    ((Upd.pushEvent e).apply s).out = s.out := by
  simp only [Upd.apply]; split <;> rfl
@[simp] theorem Upd.free_pushEvent (e : Event) (s : State) :
    ((Upd.pushEvent e).apply s).free = s.free := by
  simp only [Upd.apply]; split <;> rfl

/-! ### `Upd.popEvent` -/

@[simp] theorem Upd.rd_popEvent (s : State) (k' : FKey) :
    ((Upd.popEvent).apply s).rd k' = s.rd k' := rfl
@[simp] theorem Upd.on_popEvent (s : State) (k' : FKey) :
    ((Upd.popEvent).apply s).on k' = s.on k' := rfl
@[simp] theorem Upd.tile_popEvent (s : State) (p' t' : Nat) :
    ((Upd.popEvent).apply s).tile p' t' = s.tile p' t' := rfl
@[simp] theorem Upd.pile_popEvent (s : State) (p' : Nat) :
    ((Upd.popEvent).apply s).pile p' = s.pile p' := rfl
@[simp] theorem Upd.port_popEvent (s : State) (p' k' : Nat) :
    ((Upd.popEvent).apply s).port p' k' = s.port p' k' := rfl
@[simp] theorem Upd.bridge_popEvent (s : State) (p' d' : Nat) :
    ((Upd.popEvent).apply s).bridge p' d' = s.bridge p' d' := rfl
@[simp] theorem Upd.mailbox_popEvent (s : State) (i' : Nat) :
    ((Upd.popEvent).apply s).mailbox i' = s.mailbox i' := rfl
@[simp] theorem Upd.session?_popEvent (s : State) (i' : Nat) :
    ((Upd.popEvent).apply s).session? i' = s.session? i' := rfl
@[simp] theorem Upd.half?_popEvent (s : State) (i' : Nat) :
    ((Upd.popEvent).apply s).half? i' = s.half? i' := rfl
@[simp] theorem Upd.dramWord_popEvent (s : State) (a' : Nat) :
    ((Upd.popEvent).apply s).dramWord a' = s.dramWord a' := rfl
@[simp] theorem Upd.sramLine_popEvent (s : State) (a' : Nat) :
    ((Upd.popEvent).apply s).sramLine a' = s.sramLine a' := rfl
@[simp] theorem Upd.pending_popEvent (s : State) :
    ((Upd.popEvent).apply s).pending = s.pending := rfl
@[simp] theorem Upd.regs_popEvent (s : State) :
    ((Upd.popEvent).apply s).regs = s.regs := rfl
@[simp] theorem Upd.hold_popEvent (s : State) :
    ((Upd.popEvent).apply s).hold = s.hold := rfl
@[simp] theorem Upd.dram_popEvent (s : State) :
    ((Upd.popEvent).apply s).dram = s.dram := rfl
@[simp] theorem Upd.sram_popEvent (s : State) :
    ((Upd.popEvent).apply s).sram = s.sram := rfl
@[simp] theorem Upd.sessions_popEvent (s : State) :
    ((Upd.popEvent).apply s).sessions = s.sessions := rfl
@[simp] theorem Upd.halfOpen_popEvent (s : State) :
    ((Upd.popEvent).apply s).halfOpen = s.halfOpen := rfl
@[simp] theorem Upd.lift_popEvent (s : State) :
    ((Upd.popEvent).apply s).lift = s.lift := rfl
@[simp] theorem Upd.job_popEvent (s : State) :
    ((Upd.popEvent).apply s).job = s.job := rfl
@[simp] theorem Upd.fuses_popEvent (s : State) :
    ((Upd.popEvent).apply s).fuses = s.fuses := rfl
@[simp] theorem Upd.sec_popEvent (s : State) :
    ((Upd.popEvent).apply s).sec = s.sec := rfl
@[simp] theorem Upd.boot_popEvent (s : State) :
    ((Upd.popEvent).apply s).boot = s.boot := rfl
@[simp] theorem Upd.pwr_popEvent (s : State) :
    ((Upd.popEvent).apply s).pwr = s.pwr := rfl
@[simp] theorem Upd.tap_popEvent (s : State) :
    ((Upd.popEvent).apply s).tap = s.tap := rfl
@[simp] theorem Upd.tbLoaded_popEvent (s : State) :
    ((Upd.popEvent).apply s).tbLoaded = s.tbLoaded := rfl
@[simp] theorem Upd.out_popEvent (s : State) :
    ((Upd.popEvent).apply s).out = s.out := rfl
@[simp] theorem Upd.free_popEvent (s : State) :
    ((Upd.popEvent).apply s).free = s.free := rfl

/-! ### `Upd.lift` -/

@[simp] theorem Upd.rd_lift (v : LiftSt) (s : State) (k' : FKey) :
    ((Upd.lift v).apply s).rd k' = s.rd k' := rfl
@[simp] theorem Upd.on_lift (v : LiftSt) (s : State) (k' : FKey) :
    ((Upd.lift v).apply s).on k' = s.on k' := rfl
@[simp] theorem Upd.tile_lift (v : LiftSt) (s : State) (p' t' : Nat) :
    ((Upd.lift v).apply s).tile p' t' = s.tile p' t' := rfl
@[simp] theorem Upd.pile_lift (v : LiftSt) (s : State) (p' : Nat) :
    ((Upd.lift v).apply s).pile p' = s.pile p' := rfl
@[simp] theorem Upd.port_lift (v : LiftSt) (s : State) (p' k' : Nat) :
    ((Upd.lift v).apply s).port p' k' = s.port p' k' := rfl
@[simp] theorem Upd.bridge_lift (v : LiftSt) (s : State) (p' d' : Nat) :
    ((Upd.lift v).apply s).bridge p' d' = s.bridge p' d' := rfl
@[simp] theorem Upd.mailbox_lift (v : LiftSt) (s : State) (i' : Nat) :
    ((Upd.lift v).apply s).mailbox i' = s.mailbox i' := rfl
@[simp] theorem Upd.session?_lift (v : LiftSt) (s : State) (i' : Nat) :
    ((Upd.lift v).apply s).session? i' = s.session? i' := rfl
@[simp] theorem Upd.half?_lift (v : LiftSt) (s : State) (i' : Nat) :
    ((Upd.lift v).apply s).half? i' = s.half? i' := rfl
@[simp] theorem Upd.dramWord_lift (v : LiftSt) (s : State) (a' : Nat) :
    ((Upd.lift v).apply s).dramWord a' = s.dramWord a' := rfl
@[simp] theorem Upd.sramLine_lift (v : LiftSt) (s : State) (a' : Nat) :
    ((Upd.lift v).apply s).sramLine a' = s.sramLine a' := rfl
@[simp] theorem Upd.pending_lift (v : LiftSt) (s : State) :
    ((Upd.lift v).apply s).pending = s.pending := rfl
@[simp] theorem Upd.regs_lift (v : LiftSt) (s : State) :
    ((Upd.lift v).apply s).regs = s.regs := rfl
@[simp] theorem Upd.hold_lift (v : LiftSt) (s : State) :
    ((Upd.lift v).apply s).hold = s.hold := rfl
@[simp] theorem Upd.dram_lift (v : LiftSt) (s : State) :
    ((Upd.lift v).apply s).dram = s.dram := rfl
@[simp] theorem Upd.sram_lift (v : LiftSt) (s : State) :
    ((Upd.lift v).apply s).sram = s.sram := rfl
@[simp] theorem Upd.sessions_lift (v : LiftSt) (s : State) :
    ((Upd.lift v).apply s).sessions = s.sessions := rfl
@[simp] theorem Upd.halfOpen_lift (v : LiftSt) (s : State) :
    ((Upd.lift v).apply s).halfOpen = s.halfOpen := rfl
@[simp] theorem Upd.events_lift (v : LiftSt) (s : State) :
    ((Upd.lift v).apply s).events = s.events := rfl
@[simp] theorem Upd.job_lift (v : LiftSt) (s : State) :
    ((Upd.lift v).apply s).job = s.job := rfl
@[simp] theorem Upd.fuses_lift (v : LiftSt) (s : State) :
    ((Upd.lift v).apply s).fuses = s.fuses := rfl
@[simp] theorem Upd.sec_lift (v : LiftSt) (s : State) :
    ((Upd.lift v).apply s).sec = s.sec := rfl
@[simp] theorem Upd.boot_lift (v : LiftSt) (s : State) :
    ((Upd.lift v).apply s).boot = s.boot := rfl
@[simp] theorem Upd.pwr_lift (v : LiftSt) (s : State) :
    ((Upd.lift v).apply s).pwr = s.pwr := rfl
@[simp] theorem Upd.tap_lift (v : LiftSt) (s : State) :
    ((Upd.lift v).apply s).tap = s.tap := rfl
@[simp] theorem Upd.tbLoaded_lift (v : LiftSt) (s : State) :
    ((Upd.lift v).apply s).tbLoaded = s.tbLoaded := rfl
@[simp] theorem Upd.out_lift (v : LiftSt) (s : State) :
    ((Upd.lift v).apply s).out = s.out := rfl
@[simp] theorem Upd.free_lift (v : LiftSt) (s : State) :
    ((Upd.lift v).apply s).free = s.free := rfl

/-! ### `Upd.job` -/

@[simp] theorem Upd.rd_job (v : Job) (s : State) (k' : FKey) :
    ((Upd.job v).apply s).rd k' = s.rd k' := rfl
@[simp] theorem Upd.on_job (v : Job) (s : State) (k' : FKey) :
    ((Upd.job v).apply s).on k' = s.on k' := rfl
@[simp] theorem Upd.tile_job (v : Job) (s : State) (p' t' : Nat) :
    ((Upd.job v).apply s).tile p' t' = s.tile p' t' := rfl
@[simp] theorem Upd.pile_job (v : Job) (s : State) (p' : Nat) :
    ((Upd.job v).apply s).pile p' = s.pile p' := rfl
@[simp] theorem Upd.port_job (v : Job) (s : State) (p' k' : Nat) :
    ((Upd.job v).apply s).port p' k' = s.port p' k' := rfl
@[simp] theorem Upd.bridge_job (v : Job) (s : State) (p' d' : Nat) :
    ((Upd.job v).apply s).bridge p' d' = s.bridge p' d' := rfl
@[simp] theorem Upd.mailbox_job (v : Job) (s : State) (i' : Nat) :
    ((Upd.job v).apply s).mailbox i' = s.mailbox i' := rfl
@[simp] theorem Upd.session?_job (v : Job) (s : State) (i' : Nat) :
    ((Upd.job v).apply s).session? i' = s.session? i' := rfl
@[simp] theorem Upd.half?_job (v : Job) (s : State) (i' : Nat) :
    ((Upd.job v).apply s).half? i' = s.half? i' := rfl
@[simp] theorem Upd.dramWord_job (v : Job) (s : State) (a' : Nat) :
    ((Upd.job v).apply s).dramWord a' = s.dramWord a' := rfl
@[simp] theorem Upd.sramLine_job (v : Job) (s : State) (a' : Nat) :
    ((Upd.job v).apply s).sramLine a' = s.sramLine a' := rfl
@[simp] theorem Upd.pending_job (v : Job) (s : State) :
    ((Upd.job v).apply s).pending = s.pending := rfl
@[simp] theorem Upd.regs_job (v : Job) (s : State) :
    ((Upd.job v).apply s).regs = s.regs := rfl
@[simp] theorem Upd.hold_job (v : Job) (s : State) :
    ((Upd.job v).apply s).hold = s.hold := rfl
@[simp] theorem Upd.dram_job (v : Job) (s : State) :
    ((Upd.job v).apply s).dram = s.dram := rfl
@[simp] theorem Upd.sram_job (v : Job) (s : State) :
    ((Upd.job v).apply s).sram = s.sram := rfl
@[simp] theorem Upd.sessions_job (v : Job) (s : State) :
    ((Upd.job v).apply s).sessions = s.sessions := rfl
@[simp] theorem Upd.halfOpen_job (v : Job) (s : State) :
    ((Upd.job v).apply s).halfOpen = s.halfOpen := rfl
@[simp] theorem Upd.events_job (v : Job) (s : State) :
    ((Upd.job v).apply s).events = s.events := rfl
@[simp] theorem Upd.lift_job (v : Job) (s : State) :
    ((Upd.job v).apply s).lift = s.lift := rfl
@[simp] theorem Upd.fuses_job (v : Job) (s : State) :
    ((Upd.job v).apply s).fuses = s.fuses := rfl
@[simp] theorem Upd.sec_job (v : Job) (s : State) :
    ((Upd.job v).apply s).sec = s.sec := rfl
@[simp] theorem Upd.boot_job (v : Job) (s : State) :
    ((Upd.job v).apply s).boot = s.boot := rfl
@[simp] theorem Upd.pwr_job (v : Job) (s : State) :
    ((Upd.job v).apply s).pwr = s.pwr := rfl
@[simp] theorem Upd.tap_job (v : Job) (s : State) :
    ((Upd.job v).apply s).tap = s.tap := rfl
@[simp] theorem Upd.tbLoaded_job (v : Job) (s : State) :
    ((Upd.job v).apply s).tbLoaded = s.tbLoaded := rfl
@[simp] theorem Upd.out_job (v : Job) (s : State) :
    ((Upd.job v).apply s).out = s.out := rfl
@[simp] theorem Upd.free_job (v : Job) (s : State) :
    ((Upd.job v).apply s).free = s.free := rfl

/-! ### `Upd.fuse` -/

@[simp] theorem Upd.rd_fuse (b : Burn) (s : State) (k' : FKey) :
    ((Upd.fuse b).apply s).rd k' = s.rd k' := rfl
@[simp] theorem Upd.on_fuse (b : Burn) (s : State) (k' : FKey) :
    ((Upd.fuse b).apply s).on k' = s.on k' := rfl
@[simp] theorem Upd.tile_fuse (b : Burn) (s : State) (p' t' : Nat) :
    ((Upd.fuse b).apply s).tile p' t' = s.tile p' t' := rfl
@[simp] theorem Upd.pile_fuse (b : Burn) (s : State) (p' : Nat) :
    ((Upd.fuse b).apply s).pile p' = s.pile p' := rfl
@[simp] theorem Upd.port_fuse (b : Burn) (s : State) (p' k' : Nat) :
    ((Upd.fuse b).apply s).port p' k' = s.port p' k' := rfl
@[simp] theorem Upd.bridge_fuse (b : Burn) (s : State) (p' d' : Nat) :
    ((Upd.fuse b).apply s).bridge p' d' = s.bridge p' d' := rfl
@[simp] theorem Upd.mailbox_fuse (b : Burn) (s : State) (i' : Nat) :
    ((Upd.fuse b).apply s).mailbox i' = s.mailbox i' := rfl
@[simp] theorem Upd.session?_fuse (b : Burn) (s : State) (i' : Nat) :
    ((Upd.fuse b).apply s).session? i' = s.session? i' := rfl
@[simp] theorem Upd.half?_fuse (b : Burn) (s : State) (i' : Nat) :
    ((Upd.fuse b).apply s).half? i' = s.half? i' := rfl
@[simp] theorem Upd.dramWord_fuse (b : Burn) (s : State) (a' : Nat) :
    ((Upd.fuse b).apply s).dramWord a' = s.dramWord a' := rfl
@[simp] theorem Upd.sramLine_fuse (b : Burn) (s : State) (a' : Nat) :
    ((Upd.fuse b).apply s).sramLine a' = s.sramLine a' := rfl
@[simp] theorem Upd.pending_fuse (b : Burn) (s : State) :
    ((Upd.fuse b).apply s).pending = s.pending := rfl
@[simp] theorem Upd.regs_fuse (b : Burn) (s : State) :
    ((Upd.fuse b).apply s).regs = s.regs := rfl
@[simp] theorem Upd.hold_fuse (b : Burn) (s : State) :
    ((Upd.fuse b).apply s).hold = s.hold := rfl
@[simp] theorem Upd.dram_fuse (b : Burn) (s : State) :
    ((Upd.fuse b).apply s).dram = s.dram := rfl
@[simp] theorem Upd.sram_fuse (b : Burn) (s : State) :
    ((Upd.fuse b).apply s).sram = s.sram := rfl
@[simp] theorem Upd.sessions_fuse (b : Burn) (s : State) :
    ((Upd.fuse b).apply s).sessions = s.sessions := rfl
@[simp] theorem Upd.halfOpen_fuse (b : Burn) (s : State) :
    ((Upd.fuse b).apply s).halfOpen = s.halfOpen := rfl
@[simp] theorem Upd.events_fuse (b : Burn) (s : State) :
    ((Upd.fuse b).apply s).events = s.events := rfl
@[simp] theorem Upd.lift_fuse (b : Burn) (s : State) :
    ((Upd.fuse b).apply s).lift = s.lift := rfl
@[simp] theorem Upd.job_fuse (b : Burn) (s : State) :
    ((Upd.fuse b).apply s).job = s.job := rfl
@[simp] theorem Upd.sec_fuse (b : Burn) (s : State) :
    ((Upd.fuse b).apply s).sec = s.sec := rfl
@[simp] theorem Upd.boot_fuse (b : Burn) (s : State) :
    ((Upd.fuse b).apply s).boot = s.boot := rfl
@[simp] theorem Upd.pwr_fuse (b : Burn) (s : State) :
    ((Upd.fuse b).apply s).pwr = s.pwr := rfl
@[simp] theorem Upd.tap_fuse (b : Burn) (s : State) :
    ((Upd.fuse b).apply s).tap = s.tap := rfl
@[simp] theorem Upd.tbLoaded_fuse (b : Burn) (s : State) :
    ((Upd.fuse b).apply s).tbLoaded = s.tbLoaded := rfl
@[simp] theorem Upd.out_fuse (b : Burn) (s : State) :
    ((Upd.fuse b).apply s).out = s.out := rfl
@[simp] theorem Upd.free_fuse (b : Burn) (s : State) :
    ((Upd.fuse b).apply s).free = s.free := rfl

/-! ### `Upd.sec` -/

@[simp] theorem Upd.rd_sec (v : SecSt) (s : State) (k' : FKey) :
    ((Upd.sec v).apply s).rd k' = s.rd k' := rfl
@[simp] theorem Upd.on_sec (v : SecSt) (s : State) (k' : FKey) :
    ((Upd.sec v).apply s).on k' = s.on k' := rfl
@[simp] theorem Upd.tile_sec (v : SecSt) (s : State) (p' t' : Nat) :
    ((Upd.sec v).apply s).tile p' t' = s.tile p' t' := rfl
@[simp] theorem Upd.pile_sec (v : SecSt) (s : State) (p' : Nat) :
    ((Upd.sec v).apply s).pile p' = s.pile p' := rfl
@[simp] theorem Upd.port_sec (v : SecSt) (s : State) (p' k' : Nat) :
    ((Upd.sec v).apply s).port p' k' = s.port p' k' := rfl
@[simp] theorem Upd.bridge_sec (v : SecSt) (s : State) (p' d' : Nat) :
    ((Upd.sec v).apply s).bridge p' d' = s.bridge p' d' := rfl
@[simp] theorem Upd.mailbox_sec (v : SecSt) (s : State) (i' : Nat) :
    ((Upd.sec v).apply s).mailbox i' = s.mailbox i' := rfl
@[simp] theorem Upd.session?_sec (v : SecSt) (s : State) (i' : Nat) :
    ((Upd.sec v).apply s).session? i' = s.session? i' := rfl
@[simp] theorem Upd.half?_sec (v : SecSt) (s : State) (i' : Nat) :
    ((Upd.sec v).apply s).half? i' = s.half? i' := rfl
@[simp] theorem Upd.dramWord_sec (v : SecSt) (s : State) (a' : Nat) :
    ((Upd.sec v).apply s).dramWord a' = s.dramWord a' := rfl
@[simp] theorem Upd.sramLine_sec (v : SecSt) (s : State) (a' : Nat) :
    ((Upd.sec v).apply s).sramLine a' = s.sramLine a' := rfl
@[simp] theorem Upd.pending_sec (v : SecSt) (s : State) :
    ((Upd.sec v).apply s).pending = s.pending := rfl
@[simp] theorem Upd.regs_sec (v : SecSt) (s : State) :
    ((Upd.sec v).apply s).regs = s.regs := rfl
@[simp] theorem Upd.hold_sec (v : SecSt) (s : State) :
    ((Upd.sec v).apply s).hold = s.hold := rfl
@[simp] theorem Upd.dram_sec (v : SecSt) (s : State) :
    ((Upd.sec v).apply s).dram = s.dram := rfl
@[simp] theorem Upd.sram_sec (v : SecSt) (s : State) :
    ((Upd.sec v).apply s).sram = s.sram := rfl
@[simp] theorem Upd.sessions_sec (v : SecSt) (s : State) :
    ((Upd.sec v).apply s).sessions = s.sessions := rfl
@[simp] theorem Upd.halfOpen_sec (v : SecSt) (s : State) :
    ((Upd.sec v).apply s).halfOpen = s.halfOpen := rfl
@[simp] theorem Upd.events_sec (v : SecSt) (s : State) :
    ((Upd.sec v).apply s).events = s.events := rfl
@[simp] theorem Upd.lift_sec (v : SecSt) (s : State) :
    ((Upd.sec v).apply s).lift = s.lift := rfl
@[simp] theorem Upd.job_sec (v : SecSt) (s : State) :
    ((Upd.sec v).apply s).job = s.job := rfl
@[simp] theorem Upd.fuses_sec (v : SecSt) (s : State) :
    ((Upd.sec v).apply s).fuses = s.fuses := rfl
@[simp] theorem Upd.boot_sec (v : SecSt) (s : State) :
    ((Upd.sec v).apply s).boot = s.boot := rfl
@[simp] theorem Upd.pwr_sec (v : SecSt) (s : State) :
    ((Upd.sec v).apply s).pwr = s.pwr := rfl
@[simp] theorem Upd.tap_sec (v : SecSt) (s : State) :
    ((Upd.sec v).apply s).tap = s.tap := rfl
@[simp] theorem Upd.tbLoaded_sec (v : SecSt) (s : State) :
    ((Upd.sec v).apply s).tbLoaded = s.tbLoaded := rfl
@[simp] theorem Upd.out_sec (v : SecSt) (s : State) :
    ((Upd.sec v).apply s).out = s.out := rfl
@[simp] theorem Upd.free_sec (v : SecSt) (s : State) :
    ((Upd.sec v).apply s).free = s.free := rfl

/-! ### `Upd.boot` -/

@[simp] theorem Upd.rd_boot (v : BootSt) (s : State) (k' : FKey) :
    ((Upd.boot v).apply s).rd k' = s.rd k' := rfl
@[simp] theorem Upd.on_boot (v : BootSt) (s : State) (k' : FKey) :
    ((Upd.boot v).apply s).on k' = s.on k' := rfl
@[simp] theorem Upd.tile_boot (v : BootSt) (s : State) (p' t' : Nat) :
    ((Upd.boot v).apply s).tile p' t' = s.tile p' t' := rfl
@[simp] theorem Upd.pile_boot (v : BootSt) (s : State) (p' : Nat) :
    ((Upd.boot v).apply s).pile p' = s.pile p' := rfl
@[simp] theorem Upd.port_boot (v : BootSt) (s : State) (p' k' : Nat) :
    ((Upd.boot v).apply s).port p' k' = s.port p' k' := rfl
@[simp] theorem Upd.bridge_boot (v : BootSt) (s : State) (p' d' : Nat) :
    ((Upd.boot v).apply s).bridge p' d' = s.bridge p' d' := rfl
@[simp] theorem Upd.mailbox_boot (v : BootSt) (s : State) (i' : Nat) :
    ((Upd.boot v).apply s).mailbox i' = s.mailbox i' := rfl
@[simp] theorem Upd.session?_boot (v : BootSt) (s : State) (i' : Nat) :
    ((Upd.boot v).apply s).session? i' = s.session? i' := rfl
@[simp] theorem Upd.half?_boot (v : BootSt) (s : State) (i' : Nat) :
    ((Upd.boot v).apply s).half? i' = s.half? i' := rfl
@[simp] theorem Upd.dramWord_boot (v : BootSt) (s : State) (a' : Nat) :
    ((Upd.boot v).apply s).dramWord a' = s.dramWord a' := rfl
@[simp] theorem Upd.sramLine_boot (v : BootSt) (s : State) (a' : Nat) :
    ((Upd.boot v).apply s).sramLine a' = s.sramLine a' := rfl
@[simp] theorem Upd.pending_boot (v : BootSt) (s : State) :
    ((Upd.boot v).apply s).pending = s.pending := rfl
@[simp] theorem Upd.regs_boot (v : BootSt) (s : State) :
    ((Upd.boot v).apply s).regs = s.regs := rfl
@[simp] theorem Upd.hold_boot (v : BootSt) (s : State) :
    ((Upd.boot v).apply s).hold = s.hold := rfl
@[simp] theorem Upd.dram_boot (v : BootSt) (s : State) :
    ((Upd.boot v).apply s).dram = s.dram := rfl
@[simp] theorem Upd.sram_boot (v : BootSt) (s : State) :
    ((Upd.boot v).apply s).sram = s.sram := rfl
@[simp] theorem Upd.sessions_boot (v : BootSt) (s : State) :
    ((Upd.boot v).apply s).sessions = s.sessions := rfl
@[simp] theorem Upd.halfOpen_boot (v : BootSt) (s : State) :
    ((Upd.boot v).apply s).halfOpen = s.halfOpen := rfl
@[simp] theorem Upd.events_boot (v : BootSt) (s : State) :
    ((Upd.boot v).apply s).events = s.events := rfl
@[simp] theorem Upd.lift_boot (v : BootSt) (s : State) :
    ((Upd.boot v).apply s).lift = s.lift := rfl
@[simp] theorem Upd.job_boot (v : BootSt) (s : State) :
    ((Upd.boot v).apply s).job = s.job := rfl
@[simp] theorem Upd.fuses_boot (v : BootSt) (s : State) :
    ((Upd.boot v).apply s).fuses = s.fuses := rfl
@[simp] theorem Upd.sec_boot (v : BootSt) (s : State) :
    ((Upd.boot v).apply s).sec = s.sec := rfl
@[simp] theorem Upd.pwr_boot (v : BootSt) (s : State) :
    ((Upd.boot v).apply s).pwr = s.pwr := rfl
@[simp] theorem Upd.tap_boot (v : BootSt) (s : State) :
    ((Upd.boot v).apply s).tap = s.tap := rfl
@[simp] theorem Upd.tbLoaded_boot (v : BootSt) (s : State) :
    ((Upd.boot v).apply s).tbLoaded = s.tbLoaded := rfl
@[simp] theorem Upd.out_boot (v : BootSt) (s : State) :
    ((Upd.boot v).apply s).out = s.out := rfl
@[simp] theorem Upd.free_boot (v : BootSt) (s : State) :
    ((Upd.boot v).apply s).free = s.free := rfl

/-! ### `Upd.pwr` -/

@[simp] theorem Upd.rd_pwr (v : PwrSt) (s : State) (k' : FKey) :
    ((Upd.pwr v).apply s).rd k' = s.rd k' := rfl
@[simp] theorem Upd.on_pwr (v : PwrSt) (s : State) (k' : FKey) :
    ((Upd.pwr v).apply s).on k' = s.on k' := rfl
@[simp] theorem Upd.tile_pwr (v : PwrSt) (s : State) (p' t' : Nat) :
    ((Upd.pwr v).apply s).tile p' t' = s.tile p' t' := rfl
@[simp] theorem Upd.pile_pwr (v : PwrSt) (s : State) (p' : Nat) :
    ((Upd.pwr v).apply s).pile p' = s.pile p' := rfl
@[simp] theorem Upd.port_pwr (v : PwrSt) (s : State) (p' k' : Nat) :
    ((Upd.pwr v).apply s).port p' k' = s.port p' k' := rfl
@[simp] theorem Upd.bridge_pwr (v : PwrSt) (s : State) (p' d' : Nat) :
    ((Upd.pwr v).apply s).bridge p' d' = s.bridge p' d' := rfl
@[simp] theorem Upd.mailbox_pwr (v : PwrSt) (s : State) (i' : Nat) :
    ((Upd.pwr v).apply s).mailbox i' = s.mailbox i' := rfl
@[simp] theorem Upd.session?_pwr (v : PwrSt) (s : State) (i' : Nat) :
    ((Upd.pwr v).apply s).session? i' = s.session? i' := rfl
@[simp] theorem Upd.half?_pwr (v : PwrSt) (s : State) (i' : Nat) :
    ((Upd.pwr v).apply s).half? i' = s.half? i' := rfl
@[simp] theorem Upd.dramWord_pwr (v : PwrSt) (s : State) (a' : Nat) :
    ((Upd.pwr v).apply s).dramWord a' = s.dramWord a' := rfl
@[simp] theorem Upd.sramLine_pwr (v : PwrSt) (s : State) (a' : Nat) :
    ((Upd.pwr v).apply s).sramLine a' = s.sramLine a' := rfl
@[simp] theorem Upd.pending_pwr (v : PwrSt) (s : State) :
    ((Upd.pwr v).apply s).pending = s.pending := rfl
@[simp] theorem Upd.regs_pwr (v : PwrSt) (s : State) :
    ((Upd.pwr v).apply s).regs = s.regs := rfl
@[simp] theorem Upd.hold_pwr (v : PwrSt) (s : State) :
    ((Upd.pwr v).apply s).hold = s.hold := rfl
@[simp] theorem Upd.dram_pwr (v : PwrSt) (s : State) :
    ((Upd.pwr v).apply s).dram = s.dram := rfl
@[simp] theorem Upd.sram_pwr (v : PwrSt) (s : State) :
    ((Upd.pwr v).apply s).sram = s.sram := rfl
@[simp] theorem Upd.sessions_pwr (v : PwrSt) (s : State) :
    ((Upd.pwr v).apply s).sessions = s.sessions := rfl
@[simp] theorem Upd.halfOpen_pwr (v : PwrSt) (s : State) :
    ((Upd.pwr v).apply s).halfOpen = s.halfOpen := rfl
@[simp] theorem Upd.events_pwr (v : PwrSt) (s : State) :
    ((Upd.pwr v).apply s).events = s.events := rfl
@[simp] theorem Upd.lift_pwr (v : PwrSt) (s : State) :
    ((Upd.pwr v).apply s).lift = s.lift := rfl
@[simp] theorem Upd.job_pwr (v : PwrSt) (s : State) :
    ((Upd.pwr v).apply s).job = s.job := rfl
@[simp] theorem Upd.fuses_pwr (v : PwrSt) (s : State) :
    ((Upd.pwr v).apply s).fuses = s.fuses := rfl
@[simp] theorem Upd.sec_pwr (v : PwrSt) (s : State) :
    ((Upd.pwr v).apply s).sec = s.sec := rfl
@[simp] theorem Upd.boot_pwr (v : PwrSt) (s : State) :
    ((Upd.pwr v).apply s).boot = s.boot := rfl
@[simp] theorem Upd.tap_pwr (v : PwrSt) (s : State) :
    ((Upd.pwr v).apply s).tap = s.tap := rfl
@[simp] theorem Upd.tbLoaded_pwr (v : PwrSt) (s : State) :
    ((Upd.pwr v).apply s).tbLoaded = s.tbLoaded := rfl
@[simp] theorem Upd.out_pwr (v : PwrSt) (s : State) :
    ((Upd.pwr v).apply s).out = s.out := rfl
@[simp] theorem Upd.free_pwr (v : PwrSt) (s : State) :
    ((Upd.pwr v).apply s).free = s.free := rfl

/-! ### `Upd.tap` -/

@[simp] theorem Upd.rd_tap (v : TapSt) (s : State) (k' : FKey) :
    ((Upd.tap v).apply s).rd k' = s.rd k' := rfl
@[simp] theorem Upd.on_tap (v : TapSt) (s : State) (k' : FKey) :
    ((Upd.tap v).apply s).on k' = s.on k' := rfl
@[simp] theorem Upd.tile_tap (v : TapSt) (s : State) (p' t' : Nat) :
    ((Upd.tap v).apply s).tile p' t' = s.tile p' t' := rfl
@[simp] theorem Upd.pile_tap (v : TapSt) (s : State) (p' : Nat) :
    ((Upd.tap v).apply s).pile p' = s.pile p' := rfl
@[simp] theorem Upd.port_tap (v : TapSt) (s : State) (p' k' : Nat) :
    ((Upd.tap v).apply s).port p' k' = s.port p' k' := rfl
@[simp] theorem Upd.bridge_tap (v : TapSt) (s : State) (p' d' : Nat) :
    ((Upd.tap v).apply s).bridge p' d' = s.bridge p' d' := rfl
@[simp] theorem Upd.mailbox_tap (v : TapSt) (s : State) (i' : Nat) :
    ((Upd.tap v).apply s).mailbox i' = s.mailbox i' := rfl
@[simp] theorem Upd.session?_tap (v : TapSt) (s : State) (i' : Nat) :
    ((Upd.tap v).apply s).session? i' = s.session? i' := rfl
@[simp] theorem Upd.half?_tap (v : TapSt) (s : State) (i' : Nat) :
    ((Upd.tap v).apply s).half? i' = s.half? i' := rfl
@[simp] theorem Upd.dramWord_tap (v : TapSt) (s : State) (a' : Nat) :
    ((Upd.tap v).apply s).dramWord a' = s.dramWord a' := rfl
@[simp] theorem Upd.sramLine_tap (v : TapSt) (s : State) (a' : Nat) :
    ((Upd.tap v).apply s).sramLine a' = s.sramLine a' := rfl
@[simp] theorem Upd.pending_tap (v : TapSt) (s : State) :
    ((Upd.tap v).apply s).pending = s.pending := rfl
@[simp] theorem Upd.regs_tap (v : TapSt) (s : State) :
    ((Upd.tap v).apply s).regs = s.regs := rfl
@[simp] theorem Upd.hold_tap (v : TapSt) (s : State) :
    ((Upd.tap v).apply s).hold = s.hold := rfl
@[simp] theorem Upd.dram_tap (v : TapSt) (s : State) :
    ((Upd.tap v).apply s).dram = s.dram := rfl
@[simp] theorem Upd.sram_tap (v : TapSt) (s : State) :
    ((Upd.tap v).apply s).sram = s.sram := rfl
@[simp] theorem Upd.sessions_tap (v : TapSt) (s : State) :
    ((Upd.tap v).apply s).sessions = s.sessions := rfl
@[simp] theorem Upd.halfOpen_tap (v : TapSt) (s : State) :
    ((Upd.tap v).apply s).halfOpen = s.halfOpen := rfl
@[simp] theorem Upd.events_tap (v : TapSt) (s : State) :
    ((Upd.tap v).apply s).events = s.events := rfl
@[simp] theorem Upd.lift_tap (v : TapSt) (s : State) :
    ((Upd.tap v).apply s).lift = s.lift := rfl
@[simp] theorem Upd.job_tap (v : TapSt) (s : State) :
    ((Upd.tap v).apply s).job = s.job := rfl
@[simp] theorem Upd.fuses_tap (v : TapSt) (s : State) :
    ((Upd.tap v).apply s).fuses = s.fuses := rfl
@[simp] theorem Upd.sec_tap (v : TapSt) (s : State) :
    ((Upd.tap v).apply s).sec = s.sec := rfl
@[simp] theorem Upd.boot_tap (v : TapSt) (s : State) :
    ((Upd.tap v).apply s).boot = s.boot := rfl
@[simp] theorem Upd.pwr_tap (v : TapSt) (s : State) :
    ((Upd.tap v).apply s).pwr = s.pwr := rfl
@[simp] theorem Upd.tbLoaded_tap (v : TapSt) (s : State) :
    ((Upd.tap v).apply s).tbLoaded = s.tbLoaded := rfl
@[simp] theorem Upd.out_tap (v : TapSt) (s : State) :
    ((Upd.tap v).apply s).out = s.out := rfl
@[simp] theorem Upd.free_tap (v : TapSt) (s : State) :
    ((Upd.tap v).apply s).free = s.free := rfl

/-! ### `Upd.tbLoaded` -/

@[simp] theorem Upd.rd_tbLoaded (v : Bool) (s : State) (k' : FKey) :
    ((Upd.tbLoaded v).apply s).rd k' = s.rd k' := rfl
@[simp] theorem Upd.on_tbLoaded (v : Bool) (s : State) (k' : FKey) :
    ((Upd.tbLoaded v).apply s).on k' = s.on k' := rfl
@[simp] theorem Upd.tile_tbLoaded (v : Bool) (s : State) (p' t' : Nat) :
    ((Upd.tbLoaded v).apply s).tile p' t' = s.tile p' t' := rfl
@[simp] theorem Upd.pile_tbLoaded (v : Bool) (s : State) (p' : Nat) :
    ((Upd.tbLoaded v).apply s).pile p' = s.pile p' := rfl
@[simp] theorem Upd.port_tbLoaded (v : Bool) (s : State) (p' k' : Nat) :
    ((Upd.tbLoaded v).apply s).port p' k' = s.port p' k' := rfl
@[simp] theorem Upd.bridge_tbLoaded (v : Bool) (s : State) (p' d' : Nat) :
    ((Upd.tbLoaded v).apply s).bridge p' d' = s.bridge p' d' := rfl
@[simp] theorem Upd.mailbox_tbLoaded (v : Bool) (s : State) (i' : Nat) :
    ((Upd.tbLoaded v).apply s).mailbox i' = s.mailbox i' := rfl
@[simp] theorem Upd.session?_tbLoaded (v : Bool) (s : State) (i' : Nat) :
    ((Upd.tbLoaded v).apply s).session? i' = s.session? i' := rfl
@[simp] theorem Upd.half?_tbLoaded (v : Bool) (s : State) (i' : Nat) :
    ((Upd.tbLoaded v).apply s).half? i' = s.half? i' := rfl
@[simp] theorem Upd.dramWord_tbLoaded (v : Bool) (s : State) (a' : Nat) :
    ((Upd.tbLoaded v).apply s).dramWord a' = s.dramWord a' := rfl
@[simp] theorem Upd.sramLine_tbLoaded (v : Bool) (s : State) (a' : Nat) :
    ((Upd.tbLoaded v).apply s).sramLine a' = s.sramLine a' := rfl
@[simp] theorem Upd.pending_tbLoaded (v : Bool) (s : State) :
    ((Upd.tbLoaded v).apply s).pending = s.pending := rfl
@[simp] theorem Upd.regs_tbLoaded (v : Bool) (s : State) :
    ((Upd.tbLoaded v).apply s).regs = s.regs := rfl
@[simp] theorem Upd.hold_tbLoaded (v : Bool) (s : State) :
    ((Upd.tbLoaded v).apply s).hold = s.hold := rfl
@[simp] theorem Upd.dram_tbLoaded (v : Bool) (s : State) :
    ((Upd.tbLoaded v).apply s).dram = s.dram := rfl
@[simp] theorem Upd.sram_tbLoaded (v : Bool) (s : State) :
    ((Upd.tbLoaded v).apply s).sram = s.sram := rfl
@[simp] theorem Upd.sessions_tbLoaded (v : Bool) (s : State) :
    ((Upd.tbLoaded v).apply s).sessions = s.sessions := rfl
@[simp] theorem Upd.halfOpen_tbLoaded (v : Bool) (s : State) :
    ((Upd.tbLoaded v).apply s).halfOpen = s.halfOpen := rfl
@[simp] theorem Upd.events_tbLoaded (v : Bool) (s : State) :
    ((Upd.tbLoaded v).apply s).events = s.events := rfl
@[simp] theorem Upd.lift_tbLoaded (v : Bool) (s : State) :
    ((Upd.tbLoaded v).apply s).lift = s.lift := rfl
@[simp] theorem Upd.job_tbLoaded (v : Bool) (s : State) :
    ((Upd.tbLoaded v).apply s).job = s.job := rfl
@[simp] theorem Upd.fuses_tbLoaded (v : Bool) (s : State) :
    ((Upd.tbLoaded v).apply s).fuses = s.fuses := rfl
@[simp] theorem Upd.sec_tbLoaded (v : Bool) (s : State) :
    ((Upd.tbLoaded v).apply s).sec = s.sec := rfl
@[simp] theorem Upd.boot_tbLoaded (v : Bool) (s : State) :
    ((Upd.tbLoaded v).apply s).boot = s.boot := rfl
@[simp] theorem Upd.pwr_tbLoaded (v : Bool) (s : State) :
    ((Upd.tbLoaded v).apply s).pwr = s.pwr := rfl
@[simp] theorem Upd.tap_tbLoaded (v : Bool) (s : State) :
    ((Upd.tbLoaded v).apply s).tap = s.tap := rfl
@[simp] theorem Upd.out_tbLoaded (v : Bool) (s : State) :
    ((Upd.tbLoaded v).apply s).out = s.out := rfl
@[simp] theorem Upd.free_tbLoaded (v : Bool) (s : State) :
    ((Upd.tbLoaded v).apply s).free = s.free := rfl

/-! ### `Upd.out` -/

@[simp] theorem Upd.rd_out (o : Out) (s : State) (k' : FKey) :
    ((Upd.out o).apply s).rd k' = s.rd k' := rfl
@[simp] theorem Upd.on_out (o : Out) (s : State) (k' : FKey) :
    ((Upd.out o).apply s).on k' = s.on k' := rfl
@[simp] theorem Upd.tile_out (o : Out) (s : State) (p' t' : Nat) :
    ((Upd.out o).apply s).tile p' t' = s.tile p' t' := rfl
@[simp] theorem Upd.pile_out (o : Out) (s : State) (p' : Nat) :
    ((Upd.out o).apply s).pile p' = s.pile p' := rfl
@[simp] theorem Upd.port_out (o : Out) (s : State) (p' k' : Nat) :
    ((Upd.out o).apply s).port p' k' = s.port p' k' := rfl
@[simp] theorem Upd.bridge_out (o : Out) (s : State) (p' d' : Nat) :
    ((Upd.out o).apply s).bridge p' d' = s.bridge p' d' := rfl
@[simp] theorem Upd.mailbox_out (o : Out) (s : State) (i' : Nat) :
    ((Upd.out o).apply s).mailbox i' = s.mailbox i' := rfl
@[simp] theorem Upd.session?_out (o : Out) (s : State) (i' : Nat) :
    ((Upd.out o).apply s).session? i' = s.session? i' := rfl
@[simp] theorem Upd.half?_out (o : Out) (s : State) (i' : Nat) :
    ((Upd.out o).apply s).half? i' = s.half? i' := rfl
@[simp] theorem Upd.dramWord_out (o : Out) (s : State) (a' : Nat) :
    ((Upd.out o).apply s).dramWord a' = s.dramWord a' := rfl
@[simp] theorem Upd.sramLine_out (o : Out) (s : State) (a' : Nat) :
    ((Upd.out o).apply s).sramLine a' = s.sramLine a' := rfl
@[simp] theorem Upd.pending_out (o : Out) (s : State) :
    ((Upd.out o).apply s).pending = s.pending := rfl
@[simp] theorem Upd.regs_out (o : Out) (s : State) :
    ((Upd.out o).apply s).regs = s.regs := rfl
@[simp] theorem Upd.hold_out (o : Out) (s : State) :
    ((Upd.out o).apply s).hold = s.hold := rfl
@[simp] theorem Upd.dram_out (o : Out) (s : State) :
    ((Upd.out o).apply s).dram = s.dram := rfl
@[simp] theorem Upd.sram_out (o : Out) (s : State) :
    ((Upd.out o).apply s).sram = s.sram := rfl
@[simp] theorem Upd.sessions_out (o : Out) (s : State) :
    ((Upd.out o).apply s).sessions = s.sessions := rfl
@[simp] theorem Upd.halfOpen_out (o : Out) (s : State) :
    ((Upd.out o).apply s).halfOpen = s.halfOpen := rfl
@[simp] theorem Upd.events_out (o : Out) (s : State) :
    ((Upd.out o).apply s).events = s.events := rfl
@[simp] theorem Upd.lift_out (o : Out) (s : State) :
    ((Upd.out o).apply s).lift = s.lift := rfl
@[simp] theorem Upd.job_out (o : Out) (s : State) :
    ((Upd.out o).apply s).job = s.job := rfl
@[simp] theorem Upd.fuses_out (o : Out) (s : State) :
    ((Upd.out o).apply s).fuses = s.fuses := rfl
@[simp] theorem Upd.sec_out (o : Out) (s : State) :
    ((Upd.out o).apply s).sec = s.sec := rfl
@[simp] theorem Upd.boot_out (o : Out) (s : State) :
    ((Upd.out o).apply s).boot = s.boot := rfl
@[simp] theorem Upd.pwr_out (o : Out) (s : State) :
    ((Upd.out o).apply s).pwr = s.pwr := rfl
@[simp] theorem Upd.tap_out (o : Out) (s : State) :
    ((Upd.out o).apply s).tap = s.tap := rfl
@[simp] theorem Upd.tbLoaded_out (o : Out) (s : State) :
    ((Upd.out o).apply s).tbLoaded = s.tbLoaded := rfl
@[simp] theorem Upd.free_out (o : Out) (s : State) :
    ((Upd.out o).apply s).free = s.free := rfl

/-! ### `Upd.draw` -/

@[simp] theorem Upd.rd_draw (n : Nat) (s : State) (k' : FKey) :
    ((Upd.draw n).apply s).rd k' = s.rd k' := rfl
@[simp] theorem Upd.on_draw (n : Nat) (s : State) (k' : FKey) :
    ((Upd.draw n).apply s).on k' = s.on k' := rfl
@[simp] theorem Upd.tile_draw (n : Nat) (s : State) (p' t' : Nat) :
    ((Upd.draw n).apply s).tile p' t' = s.tile p' t' := rfl
@[simp] theorem Upd.pile_draw (n : Nat) (s : State) (p' : Nat) :
    ((Upd.draw n).apply s).pile p' = s.pile p' := rfl
@[simp] theorem Upd.port_draw (n : Nat) (s : State) (p' k' : Nat) :
    ((Upd.draw n).apply s).port p' k' = s.port p' k' := rfl
@[simp] theorem Upd.bridge_draw (n : Nat) (s : State) (p' d' : Nat) :
    ((Upd.draw n).apply s).bridge p' d' = s.bridge p' d' := rfl
@[simp] theorem Upd.mailbox_draw (n : Nat) (s : State) (i' : Nat) :
    ((Upd.draw n).apply s).mailbox i' = s.mailbox i' := rfl
@[simp] theorem Upd.session?_draw (n : Nat) (s : State) (i' : Nat) :
    ((Upd.draw n).apply s).session? i' = s.session? i' := rfl
@[simp] theorem Upd.half?_draw (n : Nat) (s : State) (i' : Nat) :
    ((Upd.draw n).apply s).half? i' = s.half? i' := rfl
@[simp] theorem Upd.dramWord_draw (n : Nat) (s : State) (a' : Nat) :
    ((Upd.draw n).apply s).dramWord a' = s.dramWord a' := rfl
@[simp] theorem Upd.sramLine_draw (n : Nat) (s : State) (a' : Nat) :
    ((Upd.draw n).apply s).sramLine a' = s.sramLine a' := rfl
@[simp] theorem Upd.pending_draw (n : Nat) (s : State) :
    ((Upd.draw n).apply s).pending = s.pending := rfl
@[simp] theorem Upd.regs_draw (n : Nat) (s : State) :
    ((Upd.draw n).apply s).regs = s.regs := rfl
@[simp] theorem Upd.hold_draw (n : Nat) (s : State) :
    ((Upd.draw n).apply s).hold = s.hold := rfl
@[simp] theorem Upd.dram_draw (n : Nat) (s : State) :
    ((Upd.draw n).apply s).dram = s.dram := rfl
@[simp] theorem Upd.sram_draw (n : Nat) (s : State) :
    ((Upd.draw n).apply s).sram = s.sram := rfl
@[simp] theorem Upd.sessions_draw (n : Nat) (s : State) :
    ((Upd.draw n).apply s).sessions = s.sessions := rfl
@[simp] theorem Upd.halfOpen_draw (n : Nat) (s : State) :
    ((Upd.draw n).apply s).halfOpen = s.halfOpen := rfl
@[simp] theorem Upd.events_draw (n : Nat) (s : State) :
    ((Upd.draw n).apply s).events = s.events := rfl
@[simp] theorem Upd.lift_draw (n : Nat) (s : State) :
    ((Upd.draw n).apply s).lift = s.lift := rfl
@[simp] theorem Upd.job_draw (n : Nat) (s : State) :
    ((Upd.draw n).apply s).job = s.job := rfl
@[simp] theorem Upd.fuses_draw (n : Nat) (s : State) :
    ((Upd.draw n).apply s).fuses = s.fuses := rfl
@[simp] theorem Upd.sec_draw (n : Nat) (s : State) :
    ((Upd.draw n).apply s).sec = s.sec := rfl
@[simp] theorem Upd.boot_draw (n : Nat) (s : State) :
    ((Upd.draw n).apply s).boot = s.boot := rfl
@[simp] theorem Upd.pwr_draw (n : Nat) (s : State) :
    ((Upd.draw n).apply s).pwr = s.pwr := rfl
@[simp] theorem Upd.tap_draw (n : Nat) (s : State) :
    ((Upd.draw n).apply s).tap = s.tap := rfl
@[simp] theorem Upd.tbLoaded_draw (n : Nat) (s : State) :
    ((Upd.draw n).apply s).tbLoaded = s.tbLoaded := rfl
@[simp] theorem Upd.out_draw (n : Nat) (s : State) :
    ((Upd.draw n).apply s).out = s.out := rfl

/-! ### `Upd.restart` -/

@[simp] theorem Upd.pending_restart (up : Bool) (s : State) : ((Upd.restart up).apply s).pending = s.pending := rfl
@[simp] theorem Upd.out_restart (up : Bool) (s : State) : ((Upd.restart up).apply s).out = s.out := rfl
@[simp] theorem Upd.free_restart (up : Bool) (s : State) : ((Upd.restart up).apply s).free = s.free := rfl
@[simp] theorem Upd.fuses_restart (up : Bool) (s : State) : ((Upd.restart up).apply s).fuses = s.fuses := rfl

/-! ### What each change writes -/

@[simp] theorem Upd.hold_hold (v : HoldSt) (s : State) : ((Upd.hold v).apply s).hold = v := rfl
@[simp] theorem Upd.lift_lift (v : LiftSt) (s : State) : ((Upd.lift v).apply s).lift = v := rfl
@[simp] theorem Upd.job_job (v : Job) (s : State) : ((Upd.job v).apply s).job = v := rfl
@[simp] theorem Upd.sec_sec (v : SecSt) (s : State) : ((Upd.sec v).apply s).sec = v := rfl
@[simp] theorem Upd.boot_boot (v : BootSt) (s : State) : ((Upd.boot v).apply s).boot = v := rfl
@[simp] theorem Upd.pwr_pwr (v : PwrSt) (s : State) : ((Upd.pwr v).apply s).pwr = v := rfl
@[simp] theorem Upd.tap_tap (v : TapSt) (s : State) : ((Upd.tap v).apply s).tap = v := rfl
@[simp] theorem Upd.tbLoaded_tbLoaded (v : Bool) (s : State) : ((Upd.tbLoaded v).apply s).tbLoaded = v := rfl
@[simp] theorem Upd.fuses_fuse (b : Burn) (s : State) : ((Upd.fuse b).apply s).fuses = s.fuses.burn b := rfl
@[simp] theorem Upd.out_out (o : Out) (s : State) : ((Upd.out o).apply s).out = s.out ++ [o] := rfl
@[simp] theorem Upd.free_draw (n : Nat) (s : State) : ((Upd.draw n).apply s).free = s.free + n := rfl
@[simp] theorem Upd.events_popEvent (s : State) : ((Upd.popEvent).apply s).events = s.events.tail := rfl
@[simp] theorem Upd.halfOpen_dropHalf (id : Nat) (s : State) : ((Upd.dropHalf id).apply s).halfOpen = s.halfOpen.filter (fun h => h.id != id) := rfl
@[simp] theorem Upd.sessions_dropSession (id : Nat) (s : State) : ((Upd.dropSession id).apply s).sessions = s.sessions.filter (fun x => x.id != id) := rfl
@[simp] theorem Upd.sessions_setSession (v : Session) (s : State) : ((Upd.setSession v).apply s).sessions = s.sessions.map (fun x => if x.id == v.id then v else x) := rfl

end Sys2Proof.Machine
end

