-- ==== Sys2Proof/Laws/Act.lean ====
section
/-! SUPPORT. The laws of actions: what running each small action leaves, and frames: what holds of every change an action can
make holds of what it leaves. -/

namespace Sys2Proof.Machine

/-! ## Running -/

@[simp] theorem Act.run_done (s : State) : Act.done.run s = s := rfl
@[simp] theorem Act.run_upd (u : Upd) (k : Act) (s : State) : (Act.upd u k).run s = k.run (u.apply s) := rfl
@[simp] theorem Act.run_ask (f : State → Act) (s : State) : (Act.ask f).run s = (f s).run s := rfl

@[simp] theorem Act.run_seq (a b : Act) (s : State) : (a.seq b).run s = b.run (a.run s) := by
  induction a generalizing s with
  | done => rfl
  | upd u k ih => exact ih (u.apply s)
  | ask f ih => exact ih s s

@[simp] theorem Act.run_all_nil (s : State) : (Act.all []).run s = s := rfl
@[simp] theorem Act.run_all_cons (a : Act) (r : List Act) (s : State) :
    (Act.all (a :: r)).run s = (Act.all r).run (a.run s) := by simp [Act.all]
@[simp] theorem Act.run_each_nil {α : Type} (f : α → Act) (s : State) : (Act.each [] f).run s = s := rfl
@[simp] theorem Act.run_each_cons {α : Type} (x : α) (r : List α) (f : α → Act) (s : State) :
    (Act.each (x :: r) f).run s = (Act.each r f).run ((f x).run s) := by simp [Act.each, Act.all]
theorem Act.run_each {α : Type} (xs : List α) (f : α → Act) (s : State) :
    (Act.each xs f).run s = xs.foldl (fun t x => (f x).run t) s := by
  induction xs generalizing s with
  | nil => rfl
  | cons x r ih => simp [ih]
@[simp] theorem Act.run_when (c : Bool) (a : Act) (s : State) : (Act.when c a).run s = if c then a.run s else s := by
  cases c <;> rfl
theorem Act.run_ite (c : Prop) [Decidable c] (a b : Act) (s : State) :
    (if c then a else b).run s = if c then a.run s else b.run s := by split <;> rfl
@[simp] theorem Act.answer_eq (a : Act) (s : State) : a.answer s = .next (a.run s) := rfl

/-! ## The small actions -/

@[simp] theorem run_emit (u : Upd) (s : State) : (emit u).run s = u.apply s := rfl
@[simp] theorem run_setR (k : FKey) (v : Nat) (s : State) : (setR k v).run s = (Upd.reg k v).apply s := rfl
@[simp] theorem run_setB (k : FKey) (v : Bool) (s : State) : (setB k v).run s = (Upd.reg k (if v then 1 else 0)).apply s := rfl
@[simp] theorem run_send (o : Out) (s : State) : (send o).run s = (Upd.out o).apply s := rfl
@[simp] theorem run_bump (k : FKey) (n : Nat) (s : State) :
    (bump k n).run s =
      (Upd.reg k (if k.f.width < 64 then min (s.rd k + n) (2 ^ k.f.width - 1) else s.rd k + n)).apply s := rfl
@[simp] theorem run_withFree (k : Nat → Act) (s : State) :
    (withFree k).run s = (k (Config.freeValue s.free).toNat).run ((Upd.draw 1).apply s) := rfl
@[simp] theorem run_modTile (p t : Nat) (f : Tile → Tile) (s : State) :
    (modTile p t f).run s = (Upd.tile p t (f (s.tile p t))).apply s := rfl
@[simp] theorem run_modPile (p : Nat) (f : Pile → Pile) (s : State) :
    (modPile p f).run s = (Upd.pile p (f (s.pile p))).apply s := rfl
@[simp] theorem run_modPort (p k : Nat) (f : Port → Port) (s : State) :
    (modPort p k f).run s = (Upd.port p k (f (s.port p k))).apply s := rfl
@[simp] theorem run_modBridge (p d : Nat) (f : Bridge → Bridge) (s : State) :
    (modBridge p d f).run s = (Upd.bridge p d (f (s.bridge p d))).apply s := rfl
@[simp] theorem run_modMb (i : Nat) (f : Mailbox → Mailbox) (s : State) :
    (modMb i f).run s = (Upd.mailbox i (f (s.mailbox i))).apply s := rfl
@[simp] theorem run_modLift (f : LiftSt → LiftSt) (s : State) : (modLift f).run s = (Upd.lift (f s.lift)).apply s := rfl
@[simp] theorem run_modJob (f : Job → Job) (s : State) : (modJob f).run s = (Upd.job (f s.job)).apply s := rfl
@[simp] theorem run_modSec (f : SecSt → SecSt) (s : State) : (modSec f).run s = (Upd.sec (f s.sec)).apply s := rfl
@[simp] theorem run_modBoot (f : BootSt → BootSt) (s : State) : (modBoot f).run s = (Upd.boot (f s.boot)).apply s := rfl
@[simp] theorem run_modPwr (f : PwrSt → PwrSt) (s : State) : (modPwr f).run s = (Upd.pwr (f s.pwr)).apply s := rfl
@[simp] theorem run_modHold (f : HoldSt → HoldSt) (s : State) : (modHold f).run s = (Upd.hold (f s.hold)).apply s := rfl
theorem run_modSession (id : Nat) (f : Session → Session) (s : State) :
    (modSession id f).run s = match s.session? id with
      | some x => (Upd.setSession { f x with id := x.id }).apply s
      | none => s := by
  simp only [modSession, Act.run_ask]
  cases s.session? id <;> rfl

/-! ## Frames -/

/-- Every change that an action can make satisfies `P`. -/
def Act.Only (P : Upd → Prop) : Act → Prop
  | .done => True
  | .upd u k => P u ∧ k.Only P
  | .ask f => ∀ s, (f s).Only P

/-- What every change of an action preserves, the action preserves. -/
theorem Act.Only.keeps {P : Upd → Prop} {I : State → Prop} (step : ∀ (u : Upd) (s : State), P u → I s → I (u.apply s)) {a : Act} (h : a.Only P)
    {s : State} (hs : I s) : I (a.run s) := by
  induction a generalizing s with
  | done => exact hs
  | upd u k ih => exact ih h.2 (step u s h.1 hs)
  | ask f ih => exact ih s (h s) hs

/-- What no change of an action touches, the action leaves as it was. -/
theorem Act.Only.same {P : Upd → Prop} {β : Type} {read : State → β} (step : ∀ (u : Upd) (s : State), P u → read (u.apply s) = read s) {a : Act}
    (h : a.Only P) (s : State) : read (a.run s) = read s :=
  h.keeps (I := fun t => read t = read s) (fun u t hu ht => (step u t hu).trans ht) rfl

theorem Act.Only.mono {P Q : Upd → Prop} (hpq : ∀ u, P u → Q u) {a : Act} (h : a.Only P) : a.Only Q := by
  induction a with
  | done => trivial
  | upd u k ih => exact ⟨hpq u h.1, ih h.2⟩
  | ask f ih => exact fun s => ih s (h s)

/-- Every action makes changes of some kind. -/
theorem Act.only_true (a : Act) : a.Only (fun _ => True) := by
  induction a with
  | done => trivial
  | upd u k ih => exact ⟨trivial, ih⟩
  | ask f ih => exact fun s => ih s

/-- An invariant of every change is an invariant of every action. -/
theorem Act.keeps {I : State → Prop} (step : ∀ (u : Upd) (s : State), I s → I (u.apply s)) (a : Act) {s : State} (hs : I s) : I (a.run s) :=
  (Act.only_true a).keeps (fun u s _ => step u s) hs

@[simp] theorem Act.only_done (P : Upd → Prop) : Act.done.Only P := trivial
@[simp] theorem Act.only_upd (P : Upd → Prop) (u : Upd) (k : Act) : (Act.upd u k).Only P ↔ P u ∧ k.Only P := Iff.rfl
@[simp] theorem Act.only_ask (P : Upd → Prop) (f : State → Act) : (Act.ask f).Only P ↔ ∀ s, (f s).Only P := Iff.rfl
@[simp] theorem only_emit (P : Upd → Prop) (u : Upd) : (emit u).Only P ↔ P u := by simp [emit]

theorem Act.only_seq {P : Upd → Prop} {a b : Act} (ha : a.Only P) (hb : b.Only P) : (a.seq b).Only P := by
  induction a with
  | done => exact hb
  | upd u k ih => exact ⟨ha.1, ih ha.2⟩
  | ask f ih => exact fun s => ih s (ha s)

theorem Act.only_all {P : Upd → Prop} {as : List Act} (h : ∀ a ∈ as, a.Only P) : (Act.all as).Only P := by
  induction as with
  | nil => trivial
  | cons a r ih => exact Act.only_seq (h a List.mem_cons_self) (ih fun b hb => h b (List.mem_cons_of_mem _ hb))

theorem Act.only_each {α : Type} {P : Upd → Prop} {xs : List α} {f : α → Act} (h : ∀ x ∈ xs, (f x).Only P) :
    (Act.each xs f).Only P := by
  apply Act.only_all
  simpa [Act.each] using h

theorem Act.only_when {P : Upd → Prop} {c : Bool} {a : Act} (h : c = true → a.Only P) : (Act.when c a).Only P := by
  cases c
  · trivial
  · exact h rfl

theorem Act.only_ite {P : Upd → Prop} {c : Prop} [Decidable c] {a b : Act} (ha : a.Only P) (hb : b.Only P) :
    (if c then a else b).Only P := by
  split
  · exact ha
  · exact hb

theorem only_withFree {P : Upd → Prop} {k : Nat → Act} (hd : P (.draw 1)) (h : ∀ n, (k n).Only P) : (withFree k).Only P :=
  fun _ => ⟨hd, h _⟩

/-! ## What an action keeps -/

/-- An action keeps a property of states. -/
def Act.Keeps (I : State → Prop) (a : Act) : Prop := ∀ s, I s → I (a.run s)

theorem Act.keeps_done (I : State → Prop) : Act.done.Keeps I := fun _ h => h
theorem Act.keeps_ask {I : State → Prop} {f : State → Act} (h : ∀ s, I s → I ((f s).run s)) : (Act.ask f).Keeps I := h
theorem Act.keeps_seq {I : State → Prop} {a b : Act} (ha : a.Keeps I) (hb : b.Keeps I) : (a.seq b).Keeps I :=
  fun s h => by rw [Act.run_seq]; exact hb _ (ha _ h)
theorem Act.keeps_all {I : State → Prop} {as : List Act} (h : ∀ a ∈ as, a.Keeps I) : (Act.all as).Keeps I := by
  induction as with
  | nil => exact Act.keeps_done I
  | cons a r ih => exact Act.keeps_seq (h a List.mem_cons_self) (ih fun b hb => h b (List.mem_cons_of_mem _ hb))
theorem Act.keeps_each {α : Type} {I : State → Prop} {xs : List α} {f : α → Act} (h : ∀ x ∈ xs, (f x).Keeps I) : (Act.each xs f).Keeps I := by
  apply Act.keeps_all
  simpa [Act.each] using h
theorem Act.keeps_when {I : State → Prop} {c : Bool} {a : Act} (h : a.Keeps I) : (Act.when c a).Keeps I := by
  cases c
  · exact Act.keeps_done I
  · exact h
theorem Act.keeps_ite {I : State → Prop} {c : Prop} [Decidable c] {a b : Act} (ha : a.Keeps I) (hb : b.Keeps I) :
    (if c then a else b).Keeps I := by
  split
  · exact ha
  · exact hb

/-- An action whose every change keeps a property keeps it. -/
theorem Act.Only.toKeeps {P : Upd → Prop} {I : State → Prop} (step : ∀ (u : Upd) (s : State), P u → I s → I (u.apply s)) {a : Act} (h : a.Only P) :
    a.Keeps I := fun _ hs => h.keeps step hs

/-! ## Memory keeps its canonical form -/

/-- Every change keeps memory's canonical form: keys rise, lie within the space, and nothing is listed that an unlisted key
reads as. -/
theorem Upd.wf_apply (u : Upd) (s : State) (h : Memory.wf s = true) : Memory.wf (u.apply s) = true := by
  have key : ∀ {α : Type} [DecidableEq α] {d : α} {m : SMap α} {n k : Nat} {v : α}, k < n →
      (m.all fun kv => decide (kv.1 < n)) = true → ((SMap.put d m k v).all fun kv => decide (kv.1 < n)) = true := by
    intro α _ d m n k v hk hm
    simp only [List.all_eq_true, decide_eq_true_eq] at hm ⊢
    intro q hq
    rcases SMap.mem_put hq with ⟨rfl, _⟩ | hq
    · exact hk
    · exact hm q hq
  have drop : ∀ {α : Type} {m : SMap α} {n : Nat} (p : Nat → Bool),
      (m.all fun kv => decide (kv.1 < n)) = true → ((SMap.dropKeys m p).all fun kv => decide (kv.1 < n)) = true := by
    intro α m n p hm
    simp only [List.all_eq_true] at hm ⊢
    exact fun q hq => hm q (List.mem_filter.mp hq).1
  simp only [Memory.wf, Bool.and_eq_true] at h ⊢
  obtain ⟨⟨⟨hd, hs⟩, hdb⟩, hsb⟩ := h
  cases u with
  | dram a c =>
    simp only [Upd.apply]
    split
    · exact ⟨⟨⟨SMap.canon_put _ _ hd, hs⟩, key ‹_› hdb⟩, hsb⟩
    · exact ⟨⟨⟨hd, hs⟩, hdb⟩, hsb⟩
  | sram a l =>
    simp only [Upd.apply]
    split
    · exact ⟨⟨⟨hd, SMap.canon_put _ _ hs⟩, hdb⟩, key ‹_› hsb⟩
    · exact ⟨⟨⟨hd, hs⟩, hdb⟩, hsb⟩
  | dropDram p =>
    simp only [Upd.apply]
    exact ⟨⟨⟨SMap.canon_dropKeys _ hd, hs⟩, drop _ hdb⟩, hsb⟩
  | dropSram lo n =>
    simp only [Upd.apply]
    exact ⟨⟨⟨hd, SMap.canon_dropKeys _ hs⟩, hdb⟩, drop _ hsb⟩
  | restart up => exact ⟨⟨⟨rfl, rfl⟩, rfl⟩, rfl⟩
  | openHalf v => simp only [Upd.apply]; split <;> exact ⟨⟨⟨hd, hs⟩, hdb⟩, hsb⟩
  | openSession v => simp only [Upd.apply]; split <;> exact ⟨⟨⟨hd, hs⟩, hdb⟩, hsb⟩
  | pushEvent e => simp only [Upd.apply]; split <;> exact ⟨⟨⟨hd, hs⟩, hdb⟩, hsb⟩
  | _ => exact ⟨⟨⟨hd, hs⟩, hdb⟩, hsb⟩

/-- Every action keeps memory's canonical form. -/
theorem Act.wf_run (a : Act) {s : State} (h : Memory.wf s = true) : Memory.wf (a.run s) = true :=
  Act.keeps Upd.wf_apply a h

end Sys2Proof.Machine
end

