-- ==== Sys2Proof/Laws/Lift.lean ====
section
/-! SUPPORT. The laws of Lift: which changes receiving, acknowledging, sending and replying make, what an accepted request
leaves to its command, and that a reply answers. -/

namespace Sys2Proof.Machine

/-! ## Changes that receiving and answering make -/

/-- A change that receiving, acknowledging, sending and replying may make. -/
def Upd.ofLift : Upd → Prop
  | .reg k _ => k.f ∈ liftFlds
  | .setSession _ | .dropSession _ | .mailbox _ _ | .lift _ | .out _ => True
  | _ => False

/-- A change that sending may make. -/
def Upd.ofSend : Upd → Prop
  | .reg k _ => k.f ∈ liftFlds
  | .setSession _ | .out _ => True
  | _ => False

theorem Upd.ofSend_ofLift (u : Upd) (h : u.ofSend) : u.ofLift := by
  cases u <;> first | exact h | trivial

theorem only_bump {P : Upd → Prop} {k : FKey} {n : Nat} (h : ∀ v, P (.reg k v)) : (bump k n).Only P := fun _ => ⟨h _, trivial⟩

theorem send_modSession (id : Nat) (f : Session → Session) : (modSession id f).Only Upd.ofSend := by
  intro s; simp only; split <;> simp [Upd.ofSend]

theorem send_grant (id : Nat) : (grant id).Only Upd.ofSend := fun _ => send_modSession _ _

theorem send_sendFrame (d : Nat) (m : LiftMsg) : (sendFrame d m).Only Upd.ofSend := by
  intro s; simp only
  split
  · exact Act.only_seq (only_bump fun _ => by simp [Upd.ofSend, liftFlds, dk]) (by simp [send, Upd.ofSend])
  · trivial

theorem send_sendPlain (id ty : Nat) : (sendPlain id ty).Only Upd.ofSend := by
  refine Act.only_seq (send_grant id) fun s => ?_
  simp only; split
  · exact send_sendFrame _ _
  · trivial

theorem send_transmit (id ty mb : Nat) (b : Bytes) : (transmit id ty mb b).Only Upd.ofSend := by
  refine Act.only_seq (send_grant id) fun s => ?_
  simp only; split
  · exact Act.only_seq (send_modSession _ _) (send_sendFrame _ _)
  · trivial

theorem send_sendSeq (id ty mb : Nat) (b : Bytes) : (sendSeq id ty mb b).Only Upd.ofSend := by
  intro s; simp only; split
  · split
    · exact send_modSession _ _
    · exact send_transmit _ _ _ _
  · trivial

theorem send_flushWaiting (id n : Nat) : (flushWaiting id n).Only Upd.ofSend := by
  induction n with
  | zero => trivial
  | succ n ih =>
    intro s; simp only; split
    · split
      · split
        · exact Act.only_seq (Act.only_seq (send_modSession _ _) (send_transmit _ _ _ _)) ih
        · trivial
      · trivial
    · trivial

theorem send_resend (id q : Nat) : (resend id q).Only Upd.ofSend := by
  refine Act.only_seq (send_grant id) fun s => ?_
  simp only; split
  · split
    · refine Act.only_all fun a ha => ?_
      simp only [List.mem_cons, List.not_mem_nil, or_false] at ha
      rcases ha with rfl | rfl | rfl
      · exact send_modSession _ _
      · exact only_bump fun _ => by simp [Upd.ofSend, liftFlds, dk]
      · exact send_sendFrame _ _
    · trivial
  · trivial

theorem lift_modSession (id : Nat) (f : Session → Session) : (modSession id f).Only Upd.ofLift := (send_modSession _ _).mono Upd.ofSend_ofLift
theorem lift_grant (id : Nat) : (grant id).Only Upd.ofLift := (send_grant _).mono Upd.ofSend_ofLift
theorem lift_sendFrame (d : Nat) (m : LiftMsg) : (sendFrame d m).Only Upd.ofLift := (send_sendFrame _ _).mono Upd.ofSend_ofLift
theorem lift_sendPlain (id ty : Nat) : (sendPlain id ty).Only Upd.ofLift := (send_sendPlain _ _).mono Upd.ofSend_ofLift
theorem lift_transmit (id ty mb : Nat) (b : Bytes) : (transmit id ty mb b).Only Upd.ofLift := (send_transmit _ _ _ _).mono Upd.ofSend_ofLift
theorem lift_sendSeq (id ty mb : Nat) (b : Bytes) : (sendSeq id ty mb b).Only Upd.ofLift := (send_sendSeq _ _ _ _).mono Upd.ofSend_ofLift
theorem lift_flushWaiting (id n : Nat) : (flushWaiting id n).Only Upd.ofLift := (send_flushWaiting _ _).mono Upd.ofSend_ofLift
theorem lift_resend (id q : Nat) : (resend id q).Only Upd.ofLift := (send_resend _ _).mono Upd.ofSend_ofLift

theorem lift_modMb (i : Nat) (f : Mailbox → Mailbox) : (modMb i f).Only Upd.ofLift := fun _ => ⟨trivial, trivial⟩
theorem lift_modLift (f : LiftSt → LiftSt) : (modLift f).Only Upd.ofLift := fun _ => ⟨trivial, trivial⟩

theorem lift_postReply (r : Req) (b : Bytes) : (postReply r b).Only Upd.ofLift := by
  intro s; simp only; split
  · exact Act.only_seq (lift_modMb _ _) (lift_sendSeq _ _ _ _)
  · split <;> exact lift_modMb _ _

theorem lift_reply (r : Req) (st d : Nat) (b : List Nat) : (reply r st d b).Only Upd.ofLift := by
  refine Act.only_seq ?_ fun s => ?_
  · split
    · exact lift_modMb _ _
    · exact lift_postReply _ _
  · simp only; split
    · exact Act.only_each fun d _ => Act.only_seq (lift_modMb _ _) (lift_postReply _ _)
    · trivial

theorem lift_sendEvent : sendEvent.Only Upd.ofLift := by
  intro s; simp only; split
  · exact lift_sendSeq _ _ _ _
  · trivial

theorem lift_takeOver (x y : Session) : (takeOver x y).Only Upd.ofLift := by
  refine Act.only_all ?_
  simp only [List.mem_cons, List.not_mem_nil, or_false, forall_eq_or_imp, forall_eq]
  exact ⟨fun s => Act.only_when fun _ => Act.only_seq (lift_modLift _) lift_sendEvent, Act.only_each fun _ _ => lift_sendSeq _ _ _ _⟩

theorem lift_endSession (id : Nat) : (endSession id).Only Upd.ofLift := by
  intro s; simp only; split
  · trivial
  · refine Act.only_all ?_
    simp only [List.mem_cons, List.not_mem_nil, or_false, forall_eq_or_imp, forall_eq]
    refine ⟨by simp [Upd.ofLift], Act.only_when fun _ => lift_modLift _, ?_, Act.only_each fun _ _ => lift_reply _ _ _ _⟩
    split
    · exact lift_takeOver _ _
    · trivial

theorem lift_takeAcks (id : Nat) (m : LiftMsg) : (takeAcks id m).Only Upd.ofLift := by
  intro s; simp only; split
  · trivial
  · refine Act.only_all fun a ha => ?_
    simp only [List.mem_cons, List.not_mem_nil, or_false] at ha
    rcases ha with rfl | rfl | rfl | rfl | rfl
    · exact lift_modSession _ _
    · refine Act.only_each fun u _ => ?_
      split
      · exact lift_modMb _ _
      · trivial
    · exact Act.only_each fun u _ => lift_resend _ _
    · exact lift_flushWaiting _ _
    · exact Act.only_when fun _ => lift_endSession _

theorem lift_count {f : Fld} (h : f ∈ liftFlds) (n : Nat) : (bump (dk f) n).Only Upd.ofLift := only_bump fun _ => h

theorem lift_onFrame (m : LiftMsg) {k : Act} (h : k.Only Upd.ofLift) : (onFrame m k).Only Upd.ofLift := fun _ =>
  Act.only_ite trivial (Act.only_seq (lift_count (by decide) _)
    (Act.only_ite trivial (Act.only_ite (lift_count (by decide) _) (Act.only_ite (lift_count (by decide) _) h))))

theorem lift_heardIn (m : LiftMsg) {k : Nat → Act} (h : ∀ id, (k id).Only Upd.ofLift) : (heardIn m k).Only Upd.ofLift := by
  intro s; simp only; split
  · exact Act.only_ite (Act.only_seq (lift_takeAcks _ _) (h _)) (lift_count (by decide) _)
  · exact lift_count (by decide) _

theorem lift_authed (m : LiftMsg) {k : Nat → Act} (h : ∀ id, (k id).Only Upd.ofLift) : (authed m k).Only Upd.ofLift :=
  lift_onFrame m (lift_heardIn m h)

theorem lift_sequenced (m : LiftMsg) (row : Instr) (b : Nat) {k : Nat → Act} (h : ∀ id, (k id).Only Upd.ofLift) :
    (sequenced m row b k).Only Upd.ofLift := by
  intro u
  refine Act.only_ite (Act.only_all ?_) (lift_authed m fun id s => ?_)
  · simp only [List.mem_cons, List.not_mem_nil, or_false, forall_eq_or_imp, forall_eq]
    exact ⟨lift_modLift _, lift_modSession _ _, h _⟩
  · simp only
    cases s.session? id with
    | none => trivial
    | some x =>
      refine Act.only_ite ?_ (Act.only_ite trivial (Act.only_ite ?_ (Act.only_ite ?_ ?_)))
      · exact Act.only_seq (lift_count (by decide) _) (lift_sendPlain _ _)
      · exact lift_count (by decide) _
      · refine Act.only_all ?_
        simp only [List.mem_cons, List.not_mem_nil, or_false, forall_eq_or_imp, forall_eq]
        exact ⟨lift_modSession _ _, lift_sendPlain _ _, h _⟩
      · exact Act.only_seq (lift_modSession _ _) (lift_sendPlain _ _)

theorem lift_requestAny (m : LiftMsg) (row : Instr) {k : Req → Act} (h : ∀ r, (k r).Only Upd.ofLift) :
    (requestAny m row k).Only Upd.ofLift := by
  have refuse : ∀ id n, (mbRefuse id m n).Only Upd.ofLift := fun id n =>
    Act.only_seq (lift_count (by decide) _) (lift_sendSeq _ _ _ _)
  intro u; simp only; split
  · exact Act.only_seq (lift_modLift _) (h _)
  · refine lift_sequenced m row 0 fun id s => ?_
    simp only; split
    · trivial
    · exact Act.only_ite (refuse _ _) (Act.only_ite (refuse _ _) (Act.only_ite (refuse _ _)
        (Act.only_ite (refuse _ _) (Act.only_seq (lift_modMb _ _) (h _)))))

/-! ## What such changes leave as it was -/

/-- Field codes of different fields differ. -/
theorem FKey.code_ne {k k' : FKey} (h : k.f ≠ k'.f) : k.code ≠ k'.code := by
  intro hc
  apply h
  have hl : ∀ x : FKey, x.code / 2147483648 = x.f.ctorIdx := by
    intro x
    simp only [FKey.code]
    omega
  have := (hl k).symm.trans ((congrArg (· / 2147483648) hc).trans (hl k'))
  exact Fld.ofNat_ctorIdx k.f ▸ Fld.ofNat_ctorIdx k'.f ▸ congrArg Fld.ofNat this

theorem Act.Only.liftSame {a : Act} (h : a.Only Upd.ofLift) (s : State) : LiftSame s (a.run s) := by
  have one : ∀ (u : Upd) (t : State), u.ofLift → LiftSame s t → LiftSame s (u.apply t) := by
    intro u t hu ht
    cases u with
    | reg k v =>
      refine ⟨fun k' hk => ?_, ht.2, ht.3, ht.4, ht.5, ht.6, ht.7, ht.8, ht.9, ht.10, ht.11, ht.12, ht.13, ht.14, ht.15, ht.16, ht.17⟩
      have hu : k.f ∈ liftFlds := hu
      have hne : k'.f ≠ k.f := fun he => hk (he ▸ hu)
      rw [Upd.rd_reg_of_ne v t (FKey.code_ne hne)]
      exact ht.rd k' hk
    | setSession v => exact ⟨ht.1, ht.2, ht.3, ht.4, ht.5, ht.6, ht.7, ht.8, ht.9, ht.10, ht.11, ht.12, ht.13, ht.14, ht.15, ht.16, ht.17⟩
    | dropSession v => exact ⟨ht.1, ht.2, ht.3, ht.4, ht.5, ht.6, ht.7, ht.8, ht.9, ht.10, ht.11, ht.12, ht.13, ht.14, ht.15, ht.16, ht.17⟩
    | mailbox i v => exact ⟨ht.1, ht.2, ht.3, ht.4, ht.5, ht.6, ht.7, ht.8, ht.9, ht.10, ht.11, ht.12, ht.13, ht.14, ht.15, ht.16, ht.17⟩
    | lift v => exact ⟨ht.1, ht.2, ht.3, ht.4, ht.5, ht.6, ht.7, ht.8, ht.9, ht.10, ht.11, ht.12, ht.13, ht.14, ht.15, ht.16, ht.17⟩
    | out v => exact ⟨ht.1, ht.2, ht.3, ht.4, ht.5, ht.6, ht.7, ht.8, ht.9, ht.10, ht.11, ht.12, ht.13, ht.14, ht.15, ht.16, ht.17⟩
    | _ => exact absurd hu (by simp [Upd.ofLift])
  refine h.keeps (I := fun t => LiftSame s t) one ?_
  constructor <;> intros <;> rfl

/-- A state that differs only in what receiving and answering touch is reached from one that does. -/
theorem LiftSame.trans {s t u : State} (h : LiftSame s t) (k : LiftSame t u) : LiftSame s u where
  rd := fun q hq => (k.rd q hq).trans (h.rd q hq)
  tile := fun p n => (k.tile p n).trans (h.tile p n)
  pile := fun p => (k.pile p).trans (h.pile p)
  port := fun p n => (k.port p n).trans (h.port p n)
  bridge := fun p n => (k.bridge p n).trans (h.bridge p n)
  dram := k.dram.trans h.dram
  sram := k.sram.trans h.sram
  hold := k.hold.trans h.hold
  halves := k.halves.trans h.halves
  events := k.events.trans h.events
  job := k.job.trans h.job
  fuses := k.fuses.trans h.fuses
  sec := k.sec.trans h.sec
  boot := k.boot.trans h.boot
  pwr := k.pwr.trans h.pwr
  free := k.free.trans h.free
  pending := k.pending.trans h.pending

theorem liftSame_heard (s : State) (m : LiftMsg) : LiftSame s (s.heard m) := (lift_authed m fun _ => Act.only_done _).liftSame s
theorem liftSame_delivered (s : State) (m : LiftMsg) (b : Nat) : LiftSame s (s.delivered m b) := (lift_sequenced m _ b fun _ => Act.only_done _).liftSame s
theorem liftSame_started (s : State) (m : LiftMsg) : LiftSame s (s.started m) := (lift_requestAny m _ fun _ => Act.only_done _).liftSame s
theorem liftSame_reply (r : Req) (st d : Nat) (b : List Nat) (s : State) : LiftSame s ((reply r st d b).run s) := (lift_reply r st d b).liftSame s

/-! ## What a delivered message and an accepted request leave to their commands -/

theorem onFrame_reaches {s : State} {m : LiftMsg} (h : s.Reaches m) (k : Act) :
    (onFrame m k).run s = k.run ((bump (dk .HP_RX_FRAMES)).run s) := by
  have h1 : s.vlanOk m.vid = true := by
    rcases h.vlan with h | h <;> simp [State.vlanOk, h]
  simp [onFrame, h.up, h1, Nat.not_lt.mpr h.size, h.port, h.whole, h.udp]

theorem authed_genuine {s : State} {m : LiftMsg} {x : Session} (h : s.Genuine m x) (k : Nat → Act) :
    (authed m k).run s = (k m.session).run (s.heard m) := by
  have hid := State.id_of_session? h.open'
  have hs : ((bump (dk .HP_RX_FRAMES)).run s).session? m.session = some x := by simpa using h.open'
  have ht : (m.tag == msgTag x.kIn m) = true := beq_iff_eq.mpr h.tag
  simp only [authed, heardIn, State.heard, onFrame_reaches h.reaches, Act.run_ask, hs, h.header, ht, Bool.and_self, if_true, Act.run_seq, hid,
    Act.run_done]

theorem nextExpected_ge (x : Session) : x.dlv ≤ nextExpected x := by
  have aux : ∀ (held : List Early) (k n : Nat), n ≤ ackFrom held k n := by
    intro held k
    induction k with
    | zero => intro n; exact Nat.le_refl n
    | succ k ih =>
      intro n
      simp only [ackFrom]
      split
      · exact (Nat.le_succ n).trans (ih (n + 1))
      · exact Nat.le_refl n
  exact aux _ _ _

theorem nextExpected_eq {x : Session} (h : x.held.find? (fun h => h.seq == x.dlv) = none) : nextExpected x = x.dlv := by
  have : x.held.any (fun h => h.seq == x.dlv) = false := by
    rw [List.any_eq_false]; exact List.find?_eq_none.mp h
  simp only [nextExpected, ackFrom, this]
  simp

/-! ## Sessions through sending -/

/-- A session without what sending changes. -/
def Session.core (x : Session) : Session := { x with granted := 0, txNext := 0, unacked := [], waiting := [] }

theorem core_modSession (id : Nat) {f : Session → Session} (h : ∀ y, (f y).core = y.core) (s : State) (i : Nat) :
    (((modSession id f).run s).session? i).map Session.core = (s.session? i).map Session.core := by
  rw [run_modSession]
  cases hs : s.session? id with
  | none => rfl
  | some x =>
    have hid := State.id_of_session? hs
    simp only [Upd.session?_setSession, hid]
    by_cases hi : i = id
    · subst hi
      have h1 := congrArg (fun z : Session => { z with id := x.id }) (h x)
      rw [if_pos rfl, hs]
      simp only [Session.core, Option.map_some, Option.some.injEq, hid] at h1 ⊢
      rw [h1]
    · rw [if_neg hi]

theorem core_grant (id : Nat) (s : State) (i : Nat) : (((grant id).run s).session? i).map Session.core = (s.session? i).map Session.core := by
  simp only [grant, Act.run_ask]
  exact core_modSession id (by intro y; rfl) s i

theorem session?_sendFrame (d : Nat) (m : LiftMsg) (s : State) (i : Nat) : ((sendFrame d m).run s).session? i = s.session? i := by
  simp only [sendFrame, Act.run_ask]; split <;> simp

theorem core_sendPlain (id ty : Nat) (s : State) (i : Nat) :
    (((sendPlain id ty).run s).session? i).map Session.core = (s.session? i).map Session.core := by
  simp only [sendPlain, Act.run_seq, Act.run_ask]
  split
  · rw [session?_sendFrame]; exact core_grant _ _ _
  · exact core_grant _ _ _

theorem core_transmit (id ty mb : Nat) (b : Bytes) (s : State) (i : Nat) :
    (((transmit id ty mb b).run s).session? i).map Session.core = (s.session? i).map Session.core := by
  simp only [transmit, Act.run_seq, Act.run_ask]
  split
  · simp only [Act.run_seq]
    rw [session?_sendFrame]
    exact (core_modSession id (by intro y; rfl) _ i).trans (core_grant _ _ _)
  · exact core_grant _ _ _

theorem core_sendSeq (id ty mb : Nat) (b : Bytes) (s : State) (i : Nat) :
    (((sendSeq id ty mb b).run s).session? i).map Session.core = (s.session? i).map Session.core := by
  simp only [sendSeq, Act.run_ask]
  split
  · split
    · exact core_modSession id (by intro y; rfl) s i
    · exact core_transmit _ _ _ _ _ _
  · rfl

/-- Sending leaves mailboxes and the holder of MB00 as they were. -/
theorem Act.Only.sendSame {a : Act} (h : a.Only Upd.ofSend) (s : State) :
    (∀ i, (a.run s).mailbox i = s.mailbox i) ∧ (a.run s).lift = s.lift := by
  refine h.keeps (I := fun t => (∀ i, t.mailbox i = s.mailbox i) ∧ t.lift = s.lift) ?_ ⟨fun _ => rfl, rfl⟩
  intro u t hu ht
  cases u <;> first | exact ht | exact absurd hu (by simp [Upd.ofSend])

/-- A message delivered in its turn: its session moves on to the next SEQ. -/
theorem sessions_delivered {s : State} {m : LiftMsg} {x : Session} (b : Nat)
    (h : s.delivered m b = (sendPlain m.session tyAckOnly).run ((inTurn m.session b).run (s.heard m)))
    (hx : (s.heard m).session? m.session = some x) :
    ∃ x', (s.delivered m b).session? m.session = some x' ∧
      x'.core = { x with dlv := x.dlv + 1, recv := x.recv + b, held := x.held.filter (fun h => h.seq != x.dlv) }.core := by
  have hid := State.id_of_session? hx
  have hc := core_sendPlain m.session tyAckOnly ((inTurn m.session b).run (s.heard m)) m.session
  rw [← h, inTurn, run_modSession] at hc
  simp only [hx, Upd.session?_setSession, hid, if_true, Option.map_some] at hc
  obtain ⟨x', hx', he⟩ := Option.map_eq_some_iff.mp hc
  exact ⟨x', hx', by rw [he, ← hid]⟩

/-- Messages held ahead of their turn are behind the next SEQ. -/
def Session.behind (n : Nat) (x : Session) : Prop := ∀ h ∈ x.held, x.dlv + n < h.seq

/-- A property of every session. -/
def State.allSes (P : Session → Prop) (s : State) : Prop := ∀ x ∈ s.sessions, P x

theorem behind_session {s : State} {n id : Nat} {x : Session} (h : ∀ y ∈ s.sessions, y.behind n) (hx : s.session? id = some x) : x.behind n :=
  h x (List.mem_of_find?_eq_some hx)

/-- What a change of a session keeps of every session. -/
theorem all_modSession {P : Session → Prop} {f : Session → Session} (h : ∀ x, P x → P { f x with id := x.id }) (id : Nat) :
    (modSession id f).Keeps (State.allSes P) := by
  intro s hs
  rw [run_modSession]
  cases hx : s.session? id with
  | none => exact hs
  | some x =>
    have hp := h x (hs x (List.mem_of_find?_eq_some hx))
    intro y hy
    simp only [Upd.apply, List.mem_map] at hy
    obtain ⟨z, hz, rfl⟩ := hy
    split
    · exact hp
    · exact hs z hz

theorem keeps_bump {P : Session → Prop} (k : FKey) (n : Nat) : (bump k n).Keeps (State.allSes P) := fun _ h => h
theorem keeps_send {P : Session → Prop} (o : Out) : (send o).Keeps (State.allSes P) := fun _ h => h

/-- A property of sessions that sending does not touch. -/
def SendFree (P : Session → Prop) : Prop := ∀ x y : Session, x.core = y.core → P x → P y

theorem behind_sendFree (n : Nat) : SendFree (Session.behind n) := by
  intro x y h hx e he
  have hh : x.core.held = y.core.held := by rw [h]
  have hd : x.core.dlv = y.core.dlv := by rw [h]
  change x.held = y.held at hh
  change x.dlv = y.dlv at hd
  rw [← hd]; exact hx e (hh ▸ he)

theorem keeps_sendFrame {P : Session → Prop} (d : Nat) (m : LiftMsg) : (sendFrame d m).Keeps (State.allSes P) := fun s h => by
  simp only [sendFrame, Act.run_ask]; split <;> exact h

section
variable {P : Session → Prop} (hP : SendFree P)
include hP

theorem keeps_core {f : Session → Session} (h : ∀ x, (f x).core = x.core) (id : Nat) :
    (modSession id f).Keeps (State.allSes P) :=
  all_modSession (fun x hx => hP x _ (congrArg (fun z : Session => { z with id := x.id }) (h x)).symm hx) id

theorem keeps_grant (id : Nat) : (grant id).Keeps (State.allSes P) := fun s h => keeps_core hP (by intro y; rfl) id s h


theorem keeps_sendPlain (id ty : Nat) : (sendPlain id ty).Keeps (State.allSes P) :=
  Act.keeps_seq (keeps_grant hP id) fun s h => by
    simp only [Act.run_ask]; split
    · exact keeps_sendFrame _ _ _ h
    · exact h

theorem keeps_transmit (id ty mb : Nat) (b : Bytes) : (transmit id ty mb b).Keeps (State.allSes P) :=
  Act.keeps_seq (keeps_grant hP id) fun s h => by
    simp only [Act.run_ask]; split
    · exact Act.keeps_seq (keeps_core hP (by intro y; rfl) _) (keeps_sendFrame _ _) _ h
    · exact h

theorem keeps_sendSeq (id ty mb : Nat) (b : Bytes) : (sendSeq id ty mb b).Keeps (State.allSes P) := fun s h => by
  simp only [sendSeq, Act.run_ask]; split
  · split
    · exact keeps_core hP (by intro y; rfl) _ _ h
    · exact keeps_transmit hP _ _ _ _ _ h
  · exact h

theorem keeps_postReply (r : Req) (b : Bytes) : (postReply r b).Keeps (State.allSes P) := fun s h => by
  simp only [postReply, Act.run_ask]; split
  · exact Act.keeps_seq (fun _ k => k) (keeps_sendSeq hP _ _ _ _) _ h
  · split <;> exact h

theorem keeps_reply (r : Req) (st d : Nat) (b : List Nat) : (reply r st d b).Keeps (State.allSes P) := by
  refine Act.keeps_seq ?_ fun s h => ?_
  · split
    · exact fun _ k => k
    · exact keeps_postReply hP _ _
  · simp only [flushDeferred, Act.run_ask]; split
    · exact Act.keeps_each (fun d _ => Act.keeps_seq (fun _ k => k) (keeps_postReply hP _ _)) _ h
    · exact h

theorem keeps_flushWaiting (id n : Nat) : (flushWaiting id n).Keeps (State.allSes P) := by
  induction n with
  | zero => exact Act.keeps_done _
  | succ n ih =>
    intro s h
    simp only [flushWaiting, Act.run_ask]
    split
    · split
      · split
        · exact Act.keeps_seq (Act.keeps_seq (keeps_core hP (by intro y; rfl) _) (keeps_transmit hP _ _ _ _)) ih _ h
        · exact h
      · exact h
    · exact h

theorem keeps_resend (id q : Nat) : (resend id q).Keeps (State.allSes P) :=
  Act.keeps_seq (keeps_grant hP id) fun s h => by
    simp only [Act.run_ask]; split
    · split
      · refine Act.keeps_all ?_ _ h
        simp only [List.mem_cons, List.not_mem_nil, or_false, forall_eq_or_imp, forall_eq]
        exact ⟨keeps_core hP (by intro y; rfl) _, fun _ k => k, keeps_sendFrame _ _⟩
      · exact h
    · exact h

theorem keeps_endSession (id : Nat) : (endSession id).Keeps (State.allSes P) := by
  intro s h
  simp only [endSession, Act.run_ask]
  split
  · exact h
  · refine Act.keeps_all ?_ _ h
    simp only [List.mem_cons, List.not_mem_nil, or_false, forall_eq_or_imp, forall_eq]
    refine ⟨fun t k x hx => k x (List.mem_filter.mp hx).1, Act.keeps_when fun _ k => k, ?_, Act.keeps_each fun _ _ => keeps_reply hP _ _ _ _⟩
    split
    · refine Act.keeps_all ?_
      simp only [List.mem_cons, List.not_mem_nil, or_false, forall_eq_or_imp, forall_eq]
      refine ⟨fun t k => ?_, Act.keeps_each fun _ _ => keeps_sendSeq hP _ _ _ _⟩
      simp only [Act.run_ask]
      refine Act.keeps_when (Act.keeps_seq (fun _ k => k) fun u k => ?_) t k
      simp only [sendEvent, Act.run_ask]; split
      · exact keeps_sendSeq hP _ _ _ _ _ k
      · exact k
    · exact fun _ k => k
end

/-- Receiving an authenticated header leaves the order of messages as it was. -/
theorem heard_behind {s : State} {n : Nat} (m : LiftMsg) (h : ∀ x ∈ s.sessions, x.behind n) : ∀ x ∈ (s.heard m).sessions, x.behind n := by
  have hP := behind_sendFree n
  have key : (authed m (fun _ => .done)).Keeps (State.allSes (Session.behind n)) := by
    intro s h
    simp only [authed, onFrame, Act.run_ask]
    split
    · exact h
    · simp only [Act.run_seq]
      split
      · exact h
      · split
        · exact h
        · split
          · exact h
          · simp only [heardIn, Act.run_ask]
            split
            · split
              · simp only [Act.run_seq, Act.run_done, takeAcks, Act.run_ask]
                split
                · exact h
                · refine Act.keeps_all ?_ _ h
                  simp only [List.mem_cons, List.not_mem_nil, or_false, forall_eq_or_imp, forall_eq]
                  refine ⟨all_modSession (by intro y k; exact k) _, Act.keeps_each fun u _ => ?_, Act.keeps_each fun u _ => keeps_resend hP _ _,
                    keeps_flushWaiting hP _ _, Act.keeps_when (keeps_endSession hP _)⟩
                  split <;> exact fun _ k => k
              · exact h
            · exact h
  exact key s h

/-- The marks of messages and requests that wait, which receiving and answering leave alone. -/
structure LiftMarks (s t : State) : Prop where
  due    : t.lift.due = s.lift.due
  again  : t.lift.again = s.lift.again
  parked : t.lift.parked = s.lift.parked

theorem LiftMarks.refl (s : State) : LiftMarks s s := ⟨rfl, rfl, rfl⟩
theorem LiftMarks.trans {s t u : State} (h : LiftMarks s t) (k : LiftMarks t u) : LiftMarks s u :=
  ⟨k.due.trans h.due, k.again.trans h.again, k.parked.trans h.parked⟩

/-- What sending and mailboxes do leaves the marks alone. -/
theorem marks_send {a : Act} (h : a.Only Upd.ofSend) (s : State) : a.Keeps (LiftMarks s) := fun t k => by
  have := (Act.Only.sendSame h t).2
  exact ⟨by rw [this]; exact k.1, by rw [this]; exact k.2, by rw [this]; exact k.3⟩
theorem marks_modMb (s : State) (i : Nat) (f : Mailbox → Mailbox) : (modMb i f).Keeps (LiftMarks s) := fun _ k => ⟨k.1, k.2, k.3⟩

theorem marks_postReply (s : State) (r : Req) (b : Bytes) : (postReply r b).Keeps (LiftMarks s) := fun t k => by
  simp only [postReply, Act.run_ask]; split
  · exact Act.keeps_seq (marks_modMb s _ _) (marks_send (send_sendSeq _ _ _ _) s) _ k
  · split <;> exact ⟨k.1, k.2, k.3⟩

theorem marks_reply (s : State) (r : Req) (st d : Nat) (data : List Nat) : (reply r st d data).Keeps (LiftMarks s) := by
  refine Act.keeps_seq ?_ fun t k => ?_
  · split
    · exact marks_modMb s _ _
    · exact marks_postReply s _ _
  · simp only [flushDeferred, Act.run_ask]; split
    · exact Act.keeps_each (fun d _ => Act.keeps_seq (marks_modMb s _ _) (marks_postReply s _ _)) _ k
    · exact k

theorem marks_sendEvent (s : State) : sendEvent.Keeps (LiftMarks s) := fun t k => by
  simp only [sendEvent, Act.run_ask]; split
  · exact marks_send (send_sendSeq _ _ _ _) s _ k
  · exact k

theorem marks_endSession (s : State) (id : Nat) : (endSession id).Keeps (LiftMarks s) := fun t k => by
  simp only [endSession, Act.run_ask]
  split
  · exact k
  · refine Act.keeps_all ?_ _ k
    simp only [List.mem_cons, List.not_mem_nil, or_false, forall_eq_or_imp, forall_eq]
    refine ⟨fun _ k => ⟨k.1, k.2, k.3⟩, Act.keeps_when fun _ k => ⟨k.1, k.2, k.3⟩, ?_, Act.keeps_each fun _ _ => marks_reply s _ _ _ _⟩
    split
    · refine Act.keeps_all ?_
      simp only [List.mem_cons, List.not_mem_nil, or_false, forall_eq_or_imp, forall_eq]
      refine ⟨fun u k => ?_, Act.keeps_each fun _ _ => marks_send (send_sendSeq _ _ _ _) s⟩
      simp only [Act.run_ask]
      exact Act.keeps_when (Act.keeps_seq (fun _ k => ⟨k.1, k.2, k.3⟩) (marks_sendEvent s)) u k
    · exact Act.keeps_done _

theorem heard_marks (s : State) (m : LiftMsg) : LiftMarks s (s.heard m) := by
  have key : (authed m (fun _ => .done)).Keeps (LiftMarks s) := by
    intro t k
    simp only [authed, onFrame, Act.run_ask]
    split
    · exact k
    · have k : LiftMarks s ((bump (dk .HP_RX_FRAMES)).run t) := ⟨k.1, k.2, k.3⟩
      simp only [Act.run_seq]
      generalize (bump (dk .HP_RX_FRAMES)).run t = v at k ⊢
      split
      · exact k
      · split
        · exact ⟨k.1, k.2, k.3⟩
        · split
          · exact ⟨k.1, k.2, k.3⟩
          · simp only [heardIn, Act.run_ask]
            split
            · split
              · simp only [Act.run_seq, Act.run_done, takeAcks, Act.run_ask]
                split
                · exact k
                · refine Act.keeps_all ?_ _ k
                  simp only [List.mem_cons, List.not_mem_nil, or_false, forall_eq_or_imp, forall_eq]
                  refine ⟨marks_send (send_modSession _ _) s, Act.keeps_each fun u _ => ?_, Act.keeps_each fun u _ => marks_send (send_resend _ _) s,
                    marks_send (send_flushWaiting _ _) s, Act.keeps_when (marks_endSession s _)⟩
                  split
                  · exact marks_modMb s _ _
                  · exact Act.keeps_done _
              · exact ⟨k.1, k.2, k.3⟩
            · exact ⟨k.1, k.2, k.3⟩
  exact key s (LiftMarks.refl s)

/-- A message whose turn it is: what its row does. -/
theorem sequenced_key {s : State} {m : LiftMsg} {x : Session} (h : s.InTurn m x) (row : Instr) (b : Nat) (hb : x.within m b) (k : Nat → Act) :
    (sequenced m row b k).run s = (Act.all [inTurn m.session b, sendPlain m.session tyAckOnly, k m.session]).run (s.heard m) := by
  obtain ⟨y, hy⟩ := h.genuine
  have hx := h.open'
  have hq := h.seq
  have hbeh : x.behind 1 := behind_session (heard_behind m h.quiet.held) hx
  have hn : x.held.any (fun h => h.seq == m.seq) = false := by
    rw [List.any_eq_false]; intro e he; have := hbeh e he; simp; omega
  have hlt : ¬ (m.seq < x.dlv ∨ x.held.any (fun h => h.seq == m.seq) = true) := by rw [hn]; simp; omega
  have hfar : ¬ nextExpected x + 4095 < m.seq := by have := nextExpected_ge x; omega
  have hc : ¬ (0 < b ∧ x.granted < x.bulkBefore m.seq + b) := by
    rintro ⟨h0, hg⟩
    rcases hb with rfl | hb
    · exact absurd h0 (by omega)
    · omega
  simp only [sequenced, Act.run_ask, h.quiet.due, Bool.false_eq_true, if_false, authed_genuine hy, hx]
  rw [if_neg hlt, if_neg hfar, if_neg hc, if_pos hq]

/-- A message whose turn it is: it is delivered and acknowledged, and what remains is left to its command. -/
theorem sequenced_inTurn {s : State} {m : LiftMsg} {x : Session} (h : s.InTurn m x) (row : Instr) (b : Nat) (hb : x.within m b) (k : Nat → Act) :
    (sequenced m row b k).run s = (k m.session).run (s.delivered m b) := by
  simp only [State.delivered, sequenced_key h _ b hb]
  simp

theorem delivered_eq {s : State} {m : LiftMsg} {x : Session} (h : s.InTurn m x) (b : Nat) (hb : x.within m b) :
    s.delivered m b = (sendPlain m.session tyAckOnly).run ((inTurn m.session b).run (s.heard m)) := by
  rw [State.delivered, sequenced_key h _ b hb]
  simp

/-- No message is due, and nothing waits: what commands leave behind. -/
structure State.Settled (s : State) : Prop where
  due    : s.lift.due = false
  again  : s.lift.again = none
  parked : s.lift.parked = []
  held   : ∀ x ∈ s.sessions, x.behind 0

/-- An action that leaves nothing due and nothing waiting lets nothing go on. -/
theorem run_settled {a : Act} {s : State} (h : (a.run s).Settled) : (settled a).run s = a.run s := by
  have hd : (a.run s).nextDue = none := by
    rw [State.nextDue, List.findSome?_eq_none_iff]
    intro x hx
    rw [Option.map_eq_none_iff, List.find?_eq_none]
    intro e he
    have := h.held x hx e he
    simp; omega
  have hr : ∀ n, (deliverDue n).run (a.run s) = a.run s := by
    intro n; cases n with
    | zero => rfl
    | succ n => simp only [deliverDue, Act.run_ask, hd, Act.run_done]
  simp [settled, hr, retryParked, h.parked]

/-- Settledness goes with the sessions' order and the marks. -/
theorem settled_of {s t : State} (h : s.Settled) (m : LiftMarks s t) (k : ∀ x ∈ t.sessions, x.behind 0) : t.Settled :=
  ⟨m.due.trans h.due, m.again.trans h.again, m.parked.trans h.parked, k⟩

theorem settled_delivered {s : State} {m : LiftMsg} {x : Session} (h : s.InTurn m x) (b : Nat) (hb : x.within m b) : (s.delivered m b).Settled := by
  have hm := heard_marks s m
  have hl : (s.delivered m b).lift = (s.heard m).lift := by
    rw [delivered_eq h b hb, ← Act.run_seq]
    exact (Act.Only.sendSame (Act.only_seq (send_modSession _ _) (send_sendPlain _ _)) (s.heard m)).2
  have hbeh := heard_behind m h.quiet.held
  refine ⟨by rw [hl, hm.due]; exact h.quiet.due, by rw [hl, hm.again]; exact h.quiet.again, by rw [hl, hm.parked]; exact h.quiet.parked, ?_⟩
  rw [delivered_eq h b hb]
  refine keeps_sendPlain (behind_sendFree 0) _ _ _ ?_
  rw [inTurn, run_modSession, h.open']
  intro y hy
  simp only [Upd.apply, List.mem_map] at hy
  obtain ⟨z, hz, rfl⟩ := hy
  split
  · intro e he
    have := behind_session hbeh h.open' e (List.mem_filter.mp he).1
    change x.dlv + 1 + 0 < e.seq
    omega
  · intro e he
    have := hbeh z hz e he
    omega

theorem requestAny_key {s : State} {m : LiftMsg} {x : Session} (h : s.Taken m x) (row : Instr) (k : Req → Act) :
    (requestAny m row k).run s = ((modMb m.mailbox (fun b => { b with owner := some x.host, st := .busy, busy := b.busy + 1
                                                                      aborts := b.aborts + (if reqCommand m = abortCode then 1 else 0) })).seq
      (k (reqOf m x))).run (s.delivered m 0) := by
  have hid := State.id_of_session? h.inTurn.open'
  have hk := fun k => sequenced_inTurn h.inTurn row 0 (Or.inl rfl) k
  have hd := delivered_eq h.inTurn 0 (Or.inl rfl)
  obtain ⟨x', hx', hs⟩ := sessions_delivered 0 hd h.inTurn.open'
  have hh : x'.host = x.host := by
    change x'.core.host = x.host
    rw [hs]; rfl
  have hbt : x'.boot = x.boot := by
    change x'.core.boot = x.boot
    rw [hs]; rfl
  have hmb : (s.delivered m 0).mailbox m.mailbox = (s.heard m).mailbox m.mailbox := by
    rw [hd, ← Act.run_seq]; exact (Act.Only.sendSame (Act.only_seq (send_modSession _ _) (send_sendPlain _ _)) (s.heard m)).1 _
  simp only [requestAny, Act.run_ask, h.inTurn.quiet.again, hk, hx', hmb, hh, hbt]
  have ho : ¬ (((s.heard m).mailbox m.mailbox).owner.isSome ∧ ((s.heard m).mailbox m.mailbox).owner ≠ some x.host) := by
    rcases h.owner with h | h <;> simp [h]
  have hi : ¬ (((s.heard m).mailbox m.mailbox).st ≠ .idle ∧ reqCommand m ≠ abortCode) := by
    rcases h.idle with h | h <;> simp [h]
  have hb : ¬ (x.boot = true ∧ ¬ bootCommands.contains (reqCommand m) = true) := fun hb => hb.2 (h.boot hb.1)
  rw [if_neg h.mb, if_neg ho, if_neg hi, if_neg hb]
  rfl

/-- A request taken: its mailbox is BUSY, and what remains is left to its command. -/
theorem requestAny_accepted {s : State} {m : LiftMsg} {x : Session} (h : s.Taken m x) (row : Instr) (k : Req → Act) :
    (requestAny m row k).run s = (k (reqOf m x)).run (s.started m) := by
  simp only [State.started, requestAny_key h]
  simp

/-- After a request was taken, its mailbox is BUSY and its session still open, one SEQ on. -/
theorem started_accepted {s : State} {m : LiftMsg} {x : Session} (h : s.Taken m x) :
    (∃ x', (s.started m).session? m.session = some x' ∧ x'.core = { x with dlv := x.dlv + 1, held := x.held.filter (fun h => h.seq != x.dlv) }.core) ∧
    (s.started m).mailbox m.mailbox =
      { (s.heard m).mailbox m.mailbox with
        owner := some x.host, st := .busy, busy := ((s.heard m).mailbox m.mailbox).busy + 1
        aborts := ((s.heard m).mailbox m.mailbox).aborts + (if reqCommand m = abortCode then 1 else 0) } ∧
    (∀ i, i ≠ m.mailbox → (s.started m).mailbox i = (s.heard m).mailbox i) := by
  have hd := delivered_eq h.inTurn 0 (Or.inl rfl)
  have hmb : ∀ i, (s.delivered m 0).mailbox i = (s.heard m).mailbox i := fun i => by
    rw [hd, ← Act.run_seq]; exact (Act.Only.sendSame (Act.only_seq (send_modSession _ _) (send_sendPlain _ _)) (s.heard m)).1 _
  rw [State.started, requestAny_key h]
  simp only [Act.run_seq, run_modMb, Act.run_done, Upd.session?_mailbox, Upd.mailbox_mailbox_self, hmb]
  refine ⟨sessions_delivered 0 hd h.inTurn.open', trivial, fun i hi => ?_⟩
  rw [Upd.mailbox_mailbox_of_ne _ _ hi, hmb]

theorem settled_started {s : State} {m : LiftMsg} {x : Session} (h : s.Taken m x) : (s.started m).Settled := by
  have hd := settled_delivered h.inTurn 0 (Or.inl rfl)
  rw [State.started, requestAny_key h]
  exact ⟨hd.due, hd.again, hd.parked, hd.held⟩

/-! ## Replies -/

theorem mailbox_sendSeq (id ty mb : Nat) (b : Bytes) (s : State) (i : Nat) : ((sendSeq id ty mb b).run s).mailbox i = s.mailbox i :=
  (Act.Only.sendSame (send_sendSeq id ty mb b) s).1 i

/-- The request's own session is open under its host key. -/
def State.ownOpen (s : State) (r : Req) : Prop := ∃ x, s.session? r.session = some x ∧ x.host = r.hostKey

theorem ownOpen_of_core {s t : State} {r : Req} (h : (t.session? r.session).map Session.core = (s.session? r.session).map Session.core)
    (hs : s.ownOpen r) : t.ownOpen r := by
  obtain ⟨x, hx, hh⟩ := hs
  rw [hx] at h
  obtain ⟨y, hy, he⟩ := Option.map_eq_some_iff.mp h
  refine ⟨y, hy, ?_⟩
  change y.core.host = r.hostKey
  rw [he]; exact hh

theorem postReply_ownOpen (r : Req) (b : Bytes) (s : State) (h : s.ownOpen r) :
    ((postReply r b).run s).ownOpen r ∧
    ((postReply r b).run s).mailbox r.mb =
      { (s.mailbox r.mb).less r with st := .done, replies := (s.mailbox r.mb).replies ++ [b] } := by
  obtain ⟨x, hx, hh⟩ := h
  have hr : s.replySession r = some x := by simp [State.replySession, hx, hh]
  simp only [postReply, Act.run_ask, hr, Act.run_seq]
  refine ⟨ownOpen_of_core (s := s) ?_ ⟨x, hx, hh⟩, ?_⟩
  · rw [core_sendSeq]; simp
  · rw [mailbox_sendSeq]; simp

/-- ABORT replies that waited follow one another. -/
theorem flush_answers (r : Req) (b : Bytes) (s : State) (ds : List Bytes) : ∀ t : State, t.ownOpen r → (t.mailbox r.mb).st = .done →
    ((s.mailbox r.mb).replies ++ [b]) <+: (t.mailbox r.mb).replies →
    let u := (Act.each ds (fun d => (modMb r.mb (fun b => { b with deferred := b.deferred.tail })).seq (postReply { r with cmd := abortCode } d))).run t
    (u.mailbox r.mb).st = .done ∧ ((s.mailbox r.mb).replies ++ [b]) <+: (u.mailbox r.mb).replies := by
  induction ds with
  | nil => exact fun t _ hs hp => ⟨hs, hp⟩
  | cons d ds ih =>
    intro t ho hs hp
    simp only [Act.run_each_cons, Act.run_seq]
    obtain ⟨k1, k2⟩ := postReply_ownOpen { r with cmd := abortCode } d
      ((modMb r.mb (fun b => { b with deferred := b.deferred.tail })).run t) (by simpa [State.ownOpen] using ho)
    refine ih _ k1 (by rw [k2]) ?_
    rw [k2]
    simpa [Mailbox.less] using hp.trans (List.prefix_append _ _)

/-- A reply answers its request while the session it came in is open, an ABORT's where no other request is outstanding. -/
theorem answered_reply (r : Req) (st d : Nat) (data : List Nat) (s : State) (h : s.ownOpen r)
    (ha : r.cmd = abortCode → (s.mailbox r.mb).busy = (s.mailbox r.mb).aborts ∧ (s.mailbox r.mb).deferred = []) :
    Answered s ((reply r st d data).run s) r st d data := by
  by_cases hc : r.cmd = abortCode
  · obtain ⟨hb, hd⟩ := ha hc
    have hr : ({ r with cmd := abortCode } : Req) = r := by rw [← hc]
    have ho : State.ownOpen ((modMb r.mb (fun b => { b with deferred := b.deferred.tail })).run ((modMb r.mb (fun b =>
        { b with deferred := b.deferred ++ [replyBytes r st d data] })).run s)) r := by simpa [State.ownOpen] using h
    obtain ⟨-, k2⟩ := postReply_ownOpen r (replyBytes r st d data) _ ho
    have he : (reply r st d data).run s = (postReply r (replyBytes r st d data)).run ((modMb r.mb (fun b => { b with deferred := b.deferred.tail })).run
        ((modMb r.mb (fun b => { b with deferred := b.deferred ++ [replyBytes r st d data] })).run s)) := by
      simp [reply, hc, flushDeferred, hb, hd, hr]
    rw [he]
    refine ⟨by rw [k2], ?_⟩
    rw [k2]; simp
  · obtain ⟨h1, h2⟩ := postReply_ownOpen r (replyBytes r st d data) s h
    simp only [reply, hc, if_false, Act.run_seq, flushDeferred, Act.run_ask]
    split
    · exact flush_answers r _ s _ _ h1 (by rw [h2]) (by rw [h2])
    · exact ⟨by rw [Act.run_done, h2], by rw [Act.run_done, h2]⟩

/-- A reply makes no message due and lets nothing go on. -/
theorem settled_reply (r : Req) (st d : Nat) (data : List Nat) {s : State} (h : s.Settled) : ((reply r st d data).run s).Settled :=
  settled_of h (marks_reply s r st d data s (LiftMarks.refl s)) (keeps_reply (behind_sendFree 0) r st d data s h.held)

/-- An accepted request's session is open under its host key. -/
theorem ownOpen_started {s : State} {m : LiftMsg} {x : Session} (h : s.Taken m x) : (s.started m).ownOpen (reqOf m x) := by
  obtain ⟨⟨x', hx', hc⟩, -, -⟩ := started_accepted h
  refine ⟨x', hx', ?_⟩
  change x'.core.host = x.host
  rw [hc]; rfl

/-- An ABORT among requests taken finds its mailbox as `lone` says. -/
theorem lone_started {s : State} {m : LiftMsg} {x : Session} (h : s.Taken m x) (hl : s.lone m) (hc : (reqOf m x).cmd = abortCode) :
    ((s.started m).mailbox m.mailbox).busy = ((s.started m).mailbox m.mailbox).aborts ∧ ((s.started m).mailbox m.mailbox).deferred = [] := by
  have hc : reqCommand m = abortCode := hc
  obtain ⟨hb, hd⟩ := hl hc
  rw [(started_accepted h).2.1]
  simp [hb, hd, hc]

/-- A request that replies at once. -/
theorem answered_started {s : State} {m : LiftMsg} {x : Session} (h : s.Taken m x) (hl : s.lone m) (st d : Nat) (data : List Nat) :
    Answered (s.started m) ((reply (reqOf m x) st d data).run (s.started m)) (reqOf m x) st d data :=
  answered_reply _ _ _ _ _ (ownOpen_started h) (lone_started h hl)

/-- A request of a command whose parameters have a fixed length, or any. -/
theorem request_heeded {s : State} {m : LiftMsg} {x : Session} (h : s.Heeded m x) (row : Instr) (n : Option Nat)
    (hn : ∀ k, n = some k → reqParamLen m = k) (k : Req → Act) :
    (request m row n k).run s = (k (reqOf m x)).run (s.started m) := by
  rw [request, requestAny_accepted h.toTaken, if_neg (by simpa using h.length), if_neg, if_neg (by simp [h.words]), h.reserved]
  cases n with
  | none => simp
  | some v => simp [hn v rfl]

/-- A request whose reserved parameter field is not zero changes nothing and is answered BAD_PARAM. -/
theorem request_reserved {s : State} {m : LiftMsg} {x : Session} (h : s.Taken m x) (row : Instr) (n : Option Nat)
    (hn : ∀ k, n = some k → reqParamLen m = k) (hw : reqParamLen m % 8 = 0) {o : Nat} (ho : reservedBad m = some o) (k : Req → Act) :
    (request m row n k).run s = (reply (reqOf m x) stBadParam o).run (s.started m) := by
  rw [request, requestAny_accepted h, if_neg (by simpa using h.length), if_neg, if_neg (by simp [hw]), ho]
  cases n with
  | none => simp
  | some v => simp [hn v rfl]

/-- A command that replies at once: its whole effect. -/
theorem settled_request {s : State} {m : LiftMsg} {x : Session} (h : s.Heeded m x) (row : Instr) (n : Option Nat)
    (hn : ∀ k, n = some k → reqParamLen m = k) (k : Req → Act) {st d : Nat} {data : List Nat}
    (hk : (k (reqOf m x)).run (s.started m) = (reply (reqOf m x) st d data).run (s.started m)) :
    (settled (request m row n k)).run s = (reply (reqOf m x) st d data).run (s.started m) := by
  have he : (request m row n k).run s = (reply (reqOf m x) st d data).run (s.started m) := (request_heeded h row n hn k).trans hk
  rw [run_settled (by rw [he]; exact settled_reply _ _ _ _ (settled_started h.toTaken)), he]

end Sys2Proof.Machine
end

