-- ==== Sys2Proof/Laws/Access.lean ====
section
/-! SUPPORT. What the passing of time changes at a read: the clock registers and the host port's line error counters, and no other
register. -/

namespace Sys2Proof.Machine

/-- The registers that time raises. -/
def clockFlds : List Fld := [.BR_TIME, .TB_SLOT, .HP_FEC_CORR, .HP_FEC_UNCORR, .HP_FCS_ERR]

/-- A change that time makes: a register of time, or the counter of free values. -/
def Upd.ofClock : Upd → Prop
  | .reg k _ => k.f ∈ clockFlds
  | .draw _ => True
  | _ => False

theorem clock_setR {f : Fld} (h : f ∈ clockFlds) (v : Nat) : (setR (dk f) v).Only Upd.ofClock := ⟨h, trivial⟩

theorem clock_riseFree {f : Fld} (h : f ∈ clockFlds) (n : Nat) : (riseFree f n).Only Upd.ofClock :=
  only_withFree trivial fun _ _ => clock_setR h _

theorem clock_tickClocks : tickClocks.Only Upd.ofClock := by
  refine only_withFree trivial fun a => only_withFree trivial fun b s => Act.only_all ?_
  simp only [List.mem_cons, List.not_mem_nil, or_false, forall_eq_or_imp, forall_eq]
  refine ⟨Act.only_when fun _ => Act.only_all ?_, Act.only_when fun _ => clock_setR (by decide) _, Act.only_when fun _ => clock_setR (by decide) _⟩
  simp only [List.mem_cons, List.not_mem_nil, or_false, forall_eq_or_imp, forall_eq]
  exact ⟨clock_riseFree (by decide) _, clock_riseFree (by decide) _, clock_riseFree (by decide) _⟩

/-- Time raises no other register. -/
theorem rd_tickClocks (s : State) {k : FKey} (h : k.f ∉ clockFlds) : (tickClocks.run s).rd k = s.rd k := by
  refine clock_tickClocks.same (read := fun t => t.rd k) (fun u t hu => ?_) s
  cases u with
  | reg q v =>
    have hq : q.f ∈ clockFlds := hu
    exact Upd.rd_reg_of_ne v t (FKey.code_ne fun he => h (he ▸ hq))
  | draw n => rfl
  | _ => exact absurd hu id

/-- Time takes no register out of reach. -/
theorem regAbsent_tickClocks (s : State) (x : RegPlace) : (tickClocks.run s).regAbsent x = s.regAbsent x := by
  rw [State.regAbsent, State.power, rd_tickClocks s (by simp [dk, clockFlds])]
  rfl

end Sys2Proof.Machine
end

