-- ==== Sys2Proof/Laws/Machine.lean ====
section
/-! SUPPORT. The laws of commands: every command is an action that runs to a next state, so what every change keeps, every
command keeps. -/

namespace Sys2Proof.Machine

/-- A command answers the state that some action leaves. -/
theorem exec_act (c : Instr) (s : State) : ∃ a : Act, exec c s = .next (a.run s) := by
  cases c <;> exact ⟨_, rfl⟩

/-- What every change keeps, every command keeps. -/
theorem exec_keeps {I : State → Prop} (each : ∀ (u : Upd) (s : State), I s → I (u.apply s)) {c : Instr} {s t : State} (h : I s)
    (ht : exec c s = .next t) : I t := by
  obtain ⟨a, ha⟩ := exec_act c s
  rw [ha] at ht
  cases ht
  exact Act.keeps each a h

end Sys2Proof.Machine
end

