-- ==== Sys2Proof/Laws/Tile.lean ====
section
/-! SUPPORT. The laws of tiles: what the slots of a bundle leave unchanged, and what a bundle that issues does. -/

namespace Sys2Proof.Machine

/-- A change that touches nothing but a tile's own state, the named fields and the stall's, and the counter of free values. -/
def Upd.ofSlot (p n : Nat) (fs : List Fld) : Upd → Prop
  | .reg k _ => ofTile p n ([.TSQ_STATUS_STALL, .TSQ_STALL_CLK] ++ fs) k
  | .tile p' n' _ => p' = p ∧ n' = n
  | .draw _ => True
  | _ => False

theorem Slotted.refl (s : State) (p n : Nat) (fs : List Fld) : Slotted s s p n fs :=
  ⟨⟨fun _ _ _ => rfl, fun _ => rfl, rfl, rfl, rfl⟩, fun _ => rfl, rfl, rfl, fun _ _ => rfl⟩

theorem Slotted.trans {s t u : State} {p n : Nat} {fs gs hs : List Fld} (h : Slotted s t p n fs) (k : Slotted t u p n gs)
    (hf : ∀ f ∈ fs, f ∈ hs) (hg : ∀ f ∈ gs, f ∈ hs) : Slotted s u p n hs := by
  refine ⟨⟨fun a b c => (k.only.tiles a b c).trans (h.only.tiles a b c), fun a => (k.only.dram a).trans (h.only.dram a),
    k.only.sessions.trans h.only.sessions, k.only.fuses.trans h.only.fuses, k.only.job.trans h.only.job⟩,
    fun q => (k.piles q).trans (h.piles q), k.sram.trans h.sram, k.out.trans h.out, fun q hq => ?_⟩
  have grow : ∀ gs : List Fld, (∀ f ∈ gs, f ∈ hs) → ∀ j, ofTile p n ([.TSQ_STATUS_STALL, .TSQ_STALL_CLK] ++ gs) j → j.code ≠ q.code := by
    rintro gs hgs j ⟨f, hf, i, rfl⟩
    refine hq _ ⟨f, ?_, i, rfl⟩
    simp only [List.cons_append, List.nil_append, List.mem_cons] at hf ⊢
    rcases hf with hf | hf | hf
    · exact .inl hf
    · exact .inr (.inl hf)
    · exact .inr (.inr (hgs f hf))
  exact (k.regs q (grow gs hg)).trans (h.regs q (grow fs hf))

/-- Actions of such changes leave the rest as it was. -/
theorem Act.Only.slotted {a : Act} {p n : Nat} {fs : List Fld} (h : a.Only (Upd.ofSlot p n fs)) (s : State) : Slotted s (a.run s) p n fs := by
  refine h.keeps (I := fun t => Slotted s t p n fs) (fun u t hu ht => ?_) (Slotted.refl s p n fs)
  refine ht.trans (gs := fs) ?_ (fun _ h => h) (fun _ h => h)
  cases u with
  | reg k v =>
    refine ⟨⟨fun _ _ _ => rfl, fun _ => rfl, rfl, rfl, rfl⟩, fun _ => rfl, rfl, rfl, fun q hq => ?_⟩
    exact Upd.rd_reg_of_ne v t (Ne.symm (hq k hu))
  | tile p' n' v =>
    obtain ⟨rfl, rfl⟩ := hu
    exact ⟨⟨fun a b c => Upd.tile_tile_of_ne v t c, fun _ => rfl, rfl, rfl, rfl⟩, fun _ => rfl, rfl, rfl, fun _ _ => rfl⟩
  | draw m => exact ⟨⟨fun _ _ _ => rfl, fun _ => rfl, rfl, rfl, rfl⟩, fun _ => rfl, rfl, rfl, fun _ _ => rfl⟩
  | _ => exact absurd hu (by simp [Upd.ofSlot])

/-- A register of the tile that a slot does not name reads as before. -/
theorem Slotted.rd {s t : State} {p n : Nat} {fs : List Fld} (h : Slotted s t p n fs) {k : FKey}
    (hk : k.f ∉ ([.TSQ_STATUS_STALL, .TSQ_STALL_CLK] ++ fs : List Fld)) : t.rd k = s.rd k := by
  refine h.regs k ?_
  rintro j ⟨f, hf, i, rfl⟩
  exact FKey.code_ne (fun he => hk (he ▸ hf))

theorem Slotted.on {s t : State} {p n : Nat} {fs : List Fld} (h : Slotted s t p n fs) {k : FKey}
    (hk : k.f ∉ ([.TSQ_STATUS_STALL, .TSQ_STALL_CLK] ++ fs : List Fld)) : t.on k = s.on k := by
  simp only [State.on, h.rd hk]

/-- A slot's own tile, beside a change of which slots have issued. -/
theorem slot_modIssued (p n : Nat) (f : Issued → Issued) (fs : List Fld) : (modIssued p n f).Only (Upd.ofSlot p n fs) :=
  fun _ => ⟨⟨rfl, rfl⟩, trivial⟩

theorem slot_stallClocks (p n c : Nat) (fs : List Fld) : (stallClocks p n c).Only (Upd.ofSlot p n fs) := by
  refine only_withFree trivial fun v => ?_
  exact fun _ => ⟨⟨.TSQ_STALL_CLK, by simp, c, rfl⟩, trivial⟩

/-- What coming to issue leaves: nothing but the stall's registers, the counter of free values, and that the bundle has been
found free to issue. -/
structure Entered (s e : State) (p n : Nat) : Prop where
  slot : Slotted s e p n []
  tile : e.tile p n = { s.tile p n with issued := (e.tile p n).issued }
  a    : (e.tile p n).issued.a = (s.tile p n).issued.a
  v    : (e.tile p n).issued.v = (s.tile p n).issued.v
  m    : (e.tile p n).issued.m = (s.tile p n).issued.m

theorem tile_stallClocks (p n c : Nat) (s : State) : ((stallClocks p n c).run s).tile p n = s.tile p n := by
  simp [stallClocks]

theorem tile_each_stall (p n : Nat) (cs : List Nat) (s : State) : ((Act.each cs (stallClocks p n)).run s).tile p n = s.tile p n := by
  induction cs generalizing s with
  | nil => rfl
  | cons c r ih => simp [ih, tile_stallClocks]

/-- A bundle that may issue goes to its continuation. -/
theorem enterBundle_go {s : State} {p n : Nat} {b : Bundle} (go : s.seqGo p n = true) (at' : s.bundle p n = b)
    (legal : (s.tile p n).issued.checked = true ∨ s.bundleFaults p n b (s.faultMode p n) = [])
    (free : (s.tile p n).issued.started = true ∨ s.faultMode p n = true ∨ s.heldBy p n b = 0) (k : Bundle → Act) :
    ∃ e, (enterBundle p n k).run s = (k b).run e ∧ Entered s e p n := by
  subst at'
  have hfs : (if (s.tile p n).issued.checked then [] else s.bundleFaults p n (s.bundle p n) (s.faultMode p n)) = [] := by
    rcases legal with h | h
    · simp [h]
    · simp [h]
  simp only [enterBundle, Act.run_ask, hfs, go, Bool.not_true, List.isEmpty_nil, Bool.false_eq_true, if_false]
  by_cases hst : (s.tile p n).issued.started = true
  · rw [if_pos hst]
    exact ⟨s, rfl, Slotted.refl _ _ _ _, rfl, rfl, rfl, rfl⟩
  · rw [if_neg hst]
    have hh : (!s.faultMode p n && s.heldBy p n (s.bundle p n) != 0) = false := by
      rcases free with h | h | h
      · exact absurd h hst
      · simp [h]
      · simp [h]
    rw [hh]
    simp only [Bool.false_eq_true, if_false, Act.run_all_cons, Act.run_all_nil]
    refine ⟨_, rfl, ⟨?_, ?_, ?_, ?_, ?_⟩⟩
    · have : ((Act.all [modIssued p n (fun y => { y with checked := true, started := true, fetch := false }), setR (tk .TSQ_STATUS_STALL p n) 0,
        (if s.faultMode p n then .done else Act.each (stallCauses (s.bundle p n)) (stallClocks p n))])).Only (Upd.ofSlot p n []) := by
        refine Act.only_all ?_
        intro a ha
        simp only [List.mem_cons, List.not_mem_nil, or_false] at ha
        rcases ha with rfl | rfl | rfl
        · exact slot_modIssued _ _ _ _
        · exact ⟨⟨.TSQ_STATUS_STALL, by simp, 0, rfl⟩, trivial⟩
        · exact Act.only_ite trivial (Act.only_each fun c _ => slot_stallClocks _ _ _ _)
      simpa using this.slotted s
    · cases s.faultMode p n <;> simp [tile_each_stall, modIssued]
    · cases s.faultMode p n <;> simp [tile_each_stall, modIssued]
    · cases s.faultMode p n <;> simp [tile_each_stall, modIssued]
    · cases s.faultMode p n <;> simp [tile_each_stall, modIssued]

theorem Entered.faultMode {s e : State} {p n : Nat} (h : Entered s e p n) : e.faultMode p n = s.faultMode p n :=
  h.slot.on (by simp [tk])

theorem Entered.rd {s e : State} {p n : Nat} (h : Entered s e p n) {k : FKey} (hk : k.f ≠ .TSQ_STATUS_STALL ∧ k.f ≠ .TSQ_STALL_CLK) :
    e.rd k = s.rd k := h.slot.rd (by simp [hk.1, hk.2])

theorem Entered.sreg {s e : State} {p n : Nat} (h : Entered s e p n) (k : Nat) : e.sreg p n k = s.sreg p n k := by
  have := congrArg Tile.sregs h.tile
  simp only [State.sreg, this]

theorem Entered.slotsDone {s e : State} {p n : Nat} (h : Entered s e p n) (b : Bundle) : e.slotsDone p n b = s.slotsDone p n b := by
  simp only [State.slotsDone, h.faultMode, h.a, h.v, h.m]

/-- An array, vector or mover slot that may issue marks itself and goes on. -/
theorem slotRow_issues {s : State} {p n : Nat} {b : Bundle} (h : s.Issues p n b) {is : Bundle → Bool} (hi : is b = true)
    {was : Issued → Bool} (hw : was (s.tile p n).issued = false)
    (same : ∀ x y : Issued, x.a = y.a → x.v = y.v → x.m = y.m → was x = was y) (mark : Issued → Issued) (k : Bundle → Act) :
    ∃ e, (slotRow p n is was mark k).run s = (k b).run ((modIssued p n mark).run e) ∧ Entered s e p n := by
  obtain ⟨e, he, hE⟩ := enterBundle_go h.go h.at' (h.sound ▸ h.legal)
    (h.free.imp id .inr) (fun b => .ask fun s => if s.faultMode p n || !is b || was (s.tile p n).issued then .done
      else (modIssued p n mark).seq (k b))
  refine ⟨e, he.trans ?_, hE⟩
  have hw' : was (e.tile p n).issued = false := (same _ _ hE.a hE.v hE.m).trans hw
  simp [hE.faultMode, h.sound, hi, hw']

/-- A control slot that may issue counts its bundle and goes on. -/
theorem cSlot_issues {s : State} {p n op : Nat} {b : Bundle} (h : s.IssuesLast p n b) (ho : cop b = op) (k : Bundle → Act) :
    ∃ e, (cSlot p n op k).run s = (k b).run ((modIssued p n (fun _ => {})).run ((bump (tk .TSQ_ISSUE p n)).run e)) ∧ Entered s e p n := by
  obtain ⟨e, he, hE⟩ := enterBundle_go h.go h.at' h.legal h.free (fun b => .ask fun s => if cop b ≠ op ∨ !s.slotsDone p n b then .done
    else Act.all [bump (tk .TSQ_ISSUE p n), modIssued p n (fun _ => {}), k b])
  refine ⟨e, he.trans ?_, hE⟩
  have := h.done
  simp [ho, hE.slotsDone, this]

end Sys2Proof.Machine
end

