-- ==== Sys2Proof/Machine/Jtag.lean ====
section
/-! DEFINITION. The JTAG port (R539, R554, R555): the controller of IEEE 1149.1, its instructions, IDCODE, and the boundary register over
the sideband lands. No command clocks it (log 133). -/

namespace Sys2Proof.Machine

/-- The controller's next state at a rising edge of TCK, by TMS (IEEE 1149.1). -/
def TapState.next : TapState → Bool → TapState
  | .reset, tms => if tms then .reset else .idle
  | .idle, tms => if tms then .selectDr else .idle
  | .selectDr, tms => if tms then .selectIr else .captureDr
  | .captureDr, tms => if tms then .exit1Dr else .shiftDr
  | .shiftDr, tms => if tms then .exit1Dr else .shiftDr
  | .exit1Dr, tms => if tms then .updateDr else .pauseDr
  | .pauseDr, tms => if tms then .exit2Dr else .pauseDr
  | .exit2Dr, tms => if tms then .updateDr else .shiftDr
  | .updateDr, tms => if tms then .selectDr else .idle
  | .selectIr, tms => if tms then .reset else .captureIr
  | .captureIr, tms => if tms then .exit1Ir else .shiftIr
  | .shiftIr, tms => if tms then .exit1Ir else .shiftIr
  | .exit1Ir, tms => if tms then .updateIr else .pauseIr
  | .pauseIr, tms => if tms then .exit2Ir else .pauseIr
  | .exit2Ir, tms => if tms then .updateIr else .shiftIr
  | .updateIr, tms => if tms then .selectDr else .idle

/-- IDCODE (R555): version 0x1 for stepping A1, part 0x1640, manufacturer 0x2B7, and the one that IEEE 1149.1 fixes in bit 0. -/
def idcode : Nat := 0x1 * 2 ^ 28 + 0x1640 * 2 ^ 12 + 0x2B7 * 2 + 1

/-- The n low bits of a number, bit 0 first. -/
def bitsLE (n v : Nat) : List Bool := (List.range n).map v.testBit

/-- A sideband land of R554 that has a boundary cell, the port's own four lands apart: WAKE, RESET_N, PWR_GOOD, THERM_ALERT_N, PMB_SCL,
PMB_SDA, PMB_ALERT_N. What the PMBus lands carry at an instant is not in the model and is free (log 133). -/
def State.land (s : State) (n : Nat) : Bool :=
  if n = 0 then s.on (dk .PIN_STATUS_WAKE)
  else if n = 1 then s.on (dk .PIN_STATUS_RESET_N)
  else if n = 2 then s.on (dk .PIN_STATUS_PWR_GOOD)
  else if n = 3 then !s.on (dk .THERM_STATUS_ALERT_ON)
  else (Config.freeValue (s.free + n)).toNat % 2 == 1

/-- What the boundary register captures. -/
def State.boundary (s : State) : List Bool := (List.range 7).map (fun i => s.land (Config.boundaryCell i % 7))

/-- The instruction that a code selects. Every one but the four mandatory ones needs its granted scope, CORE_DEBUG for the cores and
SCAN for scan chains, and selects BYPASS without it (R539). -/
def State.tapInstr (s : State) (code : List Bool) : Nat :=
  let n := if code.all id then 0 else Config.jtagInstr code
  if n < 4 ∨ (s.rd (dk .SEC_STATUS_DEBUG_SCOPE)).testBit (if Config.jtagScan n then 1 else 0) then n else 0

/-- The data register that an instruction selects, as it is captured. -/
def State.captured (s : State) (instr : Nat) : List Bool :=
  if instr = 1 ∨ instr = 2 then s.boundary else if instr = 3 then bitsLE 32 idcode else [false]

/-- A shift stage moves by one: TDI in at the far end, the bit next to TDO out. -/
def shiftBit (tdi : Bool) (bs : List Bool) : List Bool := bs.drop 1 ++ [tdi]

/-- What a rising edge of TCK does in the state that it finds, and the state that it leads to. -/
def State.tapEdge (s : State) (tms tdi : Bool) : TapSt :=
  let x := s.tap
  let y := match x.st with
    | .reset => { x with instr := 3 }
    | .captureIr => { x with irShift := true :: List.replicate (Config.jtagIrBits - 1) false }
    | .shiftIr => { x with irShift := shiftBit tdi x.irShift }
    | .updateIr => { x with instr := s.tapInstr x.irShift }
    | .captureDr => { x with drShift := s.captured x.instr }
    | .shiftDr => { x with drShift := shiftBit tdi x.drShift }
    | .updateDr => if x.instr = 1 ∨ x.instr = 2 then { x with boundary := x.drShift } else x
    | _ => x
  { y with st := x.st.next tms }

/-- A rising edge of TCK with TMS and TDI. -/
def tapClock (tms tdi : Bool) : Act := .ask fun s => emit (.tap (s.tapEdge tms tdi))

/-- TRST_N low, where the port stays while the land is undriven (R554). -/
def tapReset : Act := emit (.tap {})

/-- TDO, driven only in Shift-DR and Shift-IR (R554). -/
def State.tdo (s : State) : Option Bool := match s.tap.st with
  | .shiftDr => some (s.tap.drShift.headD false)
  | .shiftIr => some (s.tap.irShift.headD false)
  | _ => none

end Sys2Proof.Machine
end

