-- ==== Sys2Proof/Machine/Lands.lean ====
section
/-! DEFINITION. The package's lands (R545-R549): their names, the zones of the hub and the piles, and what each land carries. No
command reads it: a land's place is a fact of the package. -/

namespace Sys2Proof.Machine

/-- The rails of R550. -/
inductive Rail where
  | core | sram | m | pp | io | aon | sxa | sxb
  deriving DecidableEq, Repr

/-- What a land carries (R547, R548). Of a differential pair, `neg` is the N land; the reference clocks are sideband lands. -/
inductive Land where
  | rail (r : Rail)
  | vss
  | fabric (pile port : Nat) (rx : Bool) (lane : Nat) (neg : Bool)
  | host (rx : Bool) (lane : Nat) (neg : Bool)
  | sideband (i : Nat)
  | sense (r : Rail) (neg : Bool)
  | rsvd
  deriving DecidableEq, Repr

/-- The letters that name rows (R545). -/
def rowLetters : String := "ABCDEFGHJKLMNPTUVWY"

def rowLetter (i : Nat) : Char := rowLetters.toList.getD i ' '

/-- The name of a row: one letter for rows 1 to 19, two from row 20 on. -/
def rowName (r : Nat) : String :=
  if r ≤ 19 then String.ofList [rowLetter (r - 1)] else String.ofList [rowLetter ((r - 20) / 19), rowLetter ((r - 20) % 19)]

/-- The name of a land. -/
def landName (r c : Nat) : String := rowName r ++ toString c

/-- The sideband lands of row F, in order (R548). -/
def sidebandNames : List String := ["WAKE", "RESET_N", "PWR_GOOD", "THERM_ALERT_N", "PMB_SCL", "PMB_SDA", "PMB_ALERT_N", "TCK", "TMS",
  "TDI", "TDO", "TRST_N", "AON_XI", "AON_XO", "FREF_P", "FREF_N", "HREF_P", "HREF_N"]

/-- Land (i, j) of a pile's zone (R547). -/
def pileLand (p i j : Nat) : Land :=
  if i ≤ 9 then
    if i % 2 = 1 ∨ j % 3 = 1 ∨ 28 ≤ j then .vss
    else .fabric p ((i - 2) / 4) (i % 4 = 0) ((j - 2) / 3) (j % 3 = 0)
  else if i = 10 then .rail .sxa
  else if i = 11 then .vss
  else if i = 12 then .rail .sxb
  else if j ≤ 2 then .rail .m
  else if 28 ≤ j then .rail .sram
  else if i ≤ 15 ∧ j = 3 then .rail .pp
  else if (i + j) % 2 = 0 then .rail .core else .vss

/-- The rails in the order of their sense lands. -/
def senseRails : List Rail := [.core, .sram, .m, .pp, .io, .aon, .sxa, .sxb]

/-- The land of the hub zone in a row and a column (R548): rows 1 to 8 are A to H. -/
def hubLand (r c : Nat) : Land :=
  let mid : Bool := decide (41 ≤ c ∧ c ≤ 76)
  if r = 1 ∨ r = 8 then .rail .core
  else if r = 2 ∨ r = 7 then .vss
  else if r = 4 then .vss
  else if r = 6 then
    if !mid then .vss
    else if c ≤ 58 then .sideband (c - 41)
    else if c ≤ 74 then .sense (senseRails.getD ((c - 59) / 2) .core) ((c - 59) % 2 = 1)
    else .rsvd
  else if mid then
    if c ≤ 72 ∧ (c - 41) % 4 < 2 then .host (r = 5) ((c - 41) / 4) ((c - 41) % 4 = 1) else .vss
  else if r = 3 then .rail .io
  else if c ≤ 8 then .rail .aon
  else if c ≤ 40 then .rail .sxa
  else if c ≤ 108 then .rail .sxb else .rsvd

/-- The land in row r and column c, each 1 to 116 (R546). -/
def landAt (r c : Nat) : Land :=
  if r ≤ 8 then hubLand r c
  else pileLand (4 * ((r - 9) / 27) + (c - 1) / 29) ((r - 9) % 27 + 1) ((c - 1) % 29 + 1)

/-- How many lands carry something. -/
def landCount (f : Land → Bool) : Nat :=
  ((List.range 116).map (fun r => ((List.range 116).filter (fun c => f (landAt (r + 1) (c + 1)))).length)).sum

/-- The lands of a rail. -/
def Land.isRail (x : Rail) : Land → Bool
  | .rail r => r == x
  | _ => false

end Sys2Proof.Machine
end

