-- ==== Sys2Proof/Tests/Slice0.lean ====
section
/-! SUPPORT. Tests: ill-formed operands that the checks refuse, and for each statement states and operands that meet its
hypotheses, clause by clause. -/

namespace Sys2Proof.Tests

open Machine

set_option Elab.async false

/-! ## Small states and messages -/

/-- A state with the given register fields, and else every field at its reset value and every domain ON. -/
def st (kvs : List (FKey × Nat)) : State := kvs.foldl (fun s q => s.setReg q.1 q.2) {}

/-- Any message of type `ty`, in session 7 as its fifth. -/
def note (ty : Nat) (payload : List Nat) : LiftMsg :=
  { src := 1, type := ty, session := 7, seq := 5, length := payload.length, payload := toBytes payload }

/-- A request of a code with its parameters, to mailbox 3. -/
def ask (code : Nat) (ps : List Nat) : LiftMsg :=
  { note tyRequest (bytesBE 2 code ++ [0, 9] ++ bytesBE 4 ps.length ++ List.replicate 8 0 ++ ps) with mailbox := 3 }

/-- A message with its TAG. -/
def sealed (m : LiftMsg) : LiftMsg := { m with tag := msgTag [2] m }

/-- Session 7, open to the host whose key is [1]; its next message in order is the fifth. -/
def ses : Session :=
  { id := 7, src := 1, host := [1], kIn := [2], kOut := [3], mtu := 1500, boot := false, idleS := 1, retainS := 1, port := 48830
    v6 := true, dlv := 5 }

/-- A state whose host link is up, with the session open. -/
def hostSt (kvs : List (FKey × Nat)) (x : Session := ses) : State := { st ((dk .HP_STATUS_STATE, 3) :: kvs) with sessions := [x] }

theorem msgTag_tag (k : Bytes) (m : LiftMsg) (t : Bytes) : msgTag k { m with tag := t } = msgTag k m := rfl

/-- The conditions of `State.Reaches` and `State.Genuine` but for the TAG. -/
def reachB (s : State) (m : LiftMsg) : Bool :=
  s.hostUp && s.rd (dk .HP_CTL_VID) == 0 && decide (datagramBytes m ≤ s.mtuFor m) && !m.frag && m.udp && s.udpOk m

theorem reaches_of {s : State} {m : LiftMsg} (h : reachB s m = true) : s.Reaches m := by
  simp only [reachB, Bool.and_eq_true, beq_iff_eq, decide_eq_true_eq, Bool.not_eq_true'] at h
  obtain ⟨⟨⟨⟨⟨h1, h2⟩, h3⟩, h4⟩, h5⟩, h6⟩ := h
  exact ⟨h1, Or.inl h2, h3, h4, h5, h6⟩

/-- The conditions of `State.Quiet`, by evaluation. -/
def quietB (s : State) : Bool :=
  !s.lift.due && s.lift.again == none && s.lift.parked == [] && s.sessions.all (fun x => x.held.all (fun h => decide (x.dlv + 1 < h.seq)))

theorem quiet_of {s : State} (h : quietB s = true) : s.Quiet := by
  simp only [quietB, Bool.and_eq_true, beq_iff_eq, Bool.not_eq_true', List.all_eq_true, decide_eq_true_eq] at h
  exact ⟨h.1.1.1, h.1.1.2, h.1.2, h.2⟩

theorem genuine_of {s : State} {m : LiftMsg} {x : Session} (h : reachB s (sealed m) = true)
    (hs : s.session? m.session = some x) (hh : headerOk m = true) (hk : x.kIn = [2]) : s.Genuine (sealed m) x :=
  ⟨reaches_of h, hs, hh, by rw [hk]; exact (msgTag_tag _ _ _).symm⟩

/-- What acknowledgements leave of a state that a genuine message reaches. -/
def ackSt (s : State) (m : LiftMsg) : State := (takeAcks m.session (sealed m)).run ((bump (dk .HP_RX_FRAMES)).run s)

theorem heard_sealed {s : State} {m : LiftMsg} {x : Session} (h : s.Genuine (sealed m) x) : s.heard (sealed m) = ackSt s m := by
  have hid := State.id_of_session? h.open'
  have hs : ((bump (dk .HP_RX_FRAMES)).run s).session? (sealed m).session = some x := by simpa using h.open'
  rw [State.heard, authed, onFrame_reaches h.reaches]
  simp only [heardIn, Act.run_ask, hs, h.header, h.tag, hid]
  simp [Act.run_seq, ackSt, sealed]

/-- A message of a type is in its turn in a state, by evaluation. -/
def turnB (s : State) (m : LiftMsg) (x : Session) : Bool :=
  reachB s (sealed m) && s.session? m.session == some x && headerOk m && x.kIn == [2] && (ackSt s m).session? m.session == some x &&
  m.seq == x.dlv && quietB s

theorem turn_of {s : State} {m : LiftMsg} {x : Session} (h : turnB s m x = true) : s.InTurn (sealed m) x := by
  simp only [turnB, Bool.and_eq_true, beq_iff_eq] at h
  obtain ⟨⟨⟨⟨⟨⟨h1, h2⟩, h3⟩, h4⟩, h5⟩, h6⟩, h7⟩ := h
  have g := genuine_of h1 h2 h3 h4
  exact ⟨⟨x, g⟩, by rw [heard_sealed g]; exact h5, h6, quiet_of h7⟩

/-- A request is taken in a state, by evaluation. -/
def takenB (s : State) (m : LiftMsg) (x : Session) : Bool :=
  turnB s m x && m.mailbox != 0 && ((ackSt s m).mailbox m.mailbox).owner == none && ((ackSt s m).mailbox m.mailbox).st == .idle &&
  !x.boot && reqParamLen m + 16 == m.payload.length

/-- The condition of `State.lone`, by evaluation. -/
def loneB (s : State) (m : LiftMsg) : Bool := reqCommand m != abortCode ||
  (((ackSt s m).mailbox m.mailbox).busy == ((ackSt s m).mailbox m.mailbox).aborts && ((ackSt s m).mailbox m.mailbox).deferred == [])

theorem lone_of {s : State} {m : LiftMsg} {x : Session} (g : s.Genuine (sealed m) x) (h : loneB s m = true) : s.lone (sealed m) := by
  simp only [loneB, Bool.or_eq_true, bne_iff_ne, Bool.and_eq_true, beq_iff_eq] at h
  intro hc
  rw [heard_sealed g]
  exact h.resolve_left (fun k => k hc)

/-- A request is accepted in a state, by evaluation. -/
def readyB (s : State) (m : LiftMsg) (x : Session) : Bool := takenB s m x && reqParamLen m % 8 == 0 && reservedBad m == none && loneB s m

theorem taken_of {s : State} {m : LiftMsg} {x : Session} (h : takenB s m x = true) : s.Taken (sealed m) x := by
  simp only [takenB, Bool.and_eq_true, beq_iff_eq, bne_iff_ne, Bool.not_eq_true'] at h
  obtain ⟨⟨⟨⟨⟨h1, h2⟩, h3⟩, h4⟩, h5⟩, h6⟩ := h
  have t := turn_of h1
  obtain ⟨y, g⟩ := t.genuine
  have hh := heard_sealed g
  refine ⟨t, h2, ?_, ?_, ?_, h6⟩
  · left; rw [hh]; exact h3
  · left; rw [hh]; exact h4
  · rw [h5]; simp

theorem accepted_of {s : State} {m : LiftMsg} {x : Session} (h : readyB s m x = true) : s.Accepted (sealed m) x := by
  simp only [readyB, Bool.and_eq_true, beq_iff_eq] at h
  obtain ⟨⟨⟨h1, h2⟩, h3⟩, h4⟩ := h
  have t := taken_of h1
  obtain ⟨y, g⟩ := t.inTurn.genuine
  exact ⟨⟨t, h2, h3⟩, lone_of g h4⟩

/-! ## Requests whose length the spec leaves open -/

theorem packed_bounds (c : Nat) : 8 ≤ packedLen c ∧ packedLen c ≤ 8192 ∧ packedLen c % 8 = 0 := by
  unfold packedLen; omega

/-- A request of a code with n zero bytes of parameters, and its payload. -/
def zeros (code n : Nat) : LiftMsg := ask code (List.replicate n 0)

theorem zeros_payload (code n : Nat) : (zeros code n).payload =
    toBytes (bytesBE 2 code ++ [0, 9] ++ bytesBE 4 n ++ List.replicate 8 0) ++ List.replicate n 0#8 := by
  simp [zeros, ask, note, toBytes]

theorem zeros_length (code n : Nat) : (zeros code n).payload.length = 16 + n := by
  rw [zeros_payload]; simp [toBytes, bytesBE, bytesLE]; omega

theorem zeros_paramLen {code n : Nat} (hn : n ≤ 8192) : reqParamLen (zeros code n) = n := by
  simp only [reqParamLen, zeros_payload, bytesAt]
  simp [List.range, List.range.loop, toBytes, bytesBE, bytesLE, natBE, ofBE, ofBytes]
  omega

theorem zeros_command {code n : Nat} (hc : code < 65536) : reqCommand (zeros code n) = code := by
  simp only [reqCommand, zeros_payload, bytesAt]
  simp [List.range, List.range.loop, toBytes, bytesBE, bytesLE, natBE, ofBE, ofBytes]
  omega

theorem ofBE_zeros (bs : List Nat) (h : ∀ b ∈ bs, b = 0) : ofBE bs = 0 := by
  have : ∀ (bs : List Nat), (∀ b ∈ bs, b = 0) → bs.foldl (fun a b => a * 256 + b % 256) 0 = 0 := by
    intro bs
    induction bs with
    | nil => intro _; rfl
    | cons x r ih =>
      intro h
      rw [List.foldl_cons, h x List.mem_cons_self]
      exact ih (fun b hb => h b (List.mem_cons_of_mem _ hb))
  exact this bs h

theorem zeros_reserved {code n : Nat} : reservedBad (zeros code n) = none := by
  have key : ∀ o l : Nat, natBE (bytesAt (zeros code n).payload (16 + o) l) = 0 := by
    intro o l
    refine ofBE_zeros _ (fun b hb => ?_)
    simp only [ofBytes, bytesAt, List.map_map, List.mem_map, List.mem_range, Function.comp] at hb
    obtain ⟨i, -, rfl⟩ := hb
    rw [zeros_payload, List.getD_eq_getElem?_getD, List.getElem?_append_right (by simp [toBytes, bytesBE, bytesLE]; omega)]
    rw [List.getElem?_replicate]
    split <;> rfl
  simp only [reservedBad, Option.map_eq_none_iff, List.find?_eq_none]
  intro o _
  simp [key]

/-- What a request's acknowledgements leave does not depend on its parameters. -/
theorem ackSt_zeros (s : State) (code n : Nat) : ackSt s (zeros code n) = ackSt s (zeros 1 0) := rfl

/-- Whatever its length, a request of zeros is taken and accepted in a state in which one with no parameters is. -/
theorem zeros_accepted {s : State} {x : Session} {code n : Nat} (h : takenB s (zeros 1 0) x = true) (hm : 8320 ≤ s.mtuFor (zeros 1 0))
    (hc : code < 65536) (ha : code ≠ abortCode) (hn : n ≤ 8192) (h8 : n % 8 = 0) :
    s.Accepted (sealed (zeros code n)) x ∧ reqParamLen (sealed (zeros code n)) = n := by
  refine ⟨accepted_of ?_, zeros_paramLen hn⟩
  have hl : (zeros code n).length = 16 + n := by simp [zeros, ask, note, bytesBE, bytesLE]; omega
  have hp : (zeros code n).payload.length = 16 + n := zeros_length code n
  simp only [takenB, turnB, Bool.and_eq_true] at h
  obtain ⟨⟨⟨⟨⟨⟨⟨⟨⟨⟨⟨hr, hs⟩, hh⟩, hk⟩, ho⟩, hq⟩, hu⟩, hmb⟩, how⟩, hst⟩, hb⟩, -⟩ := h
  have hr' : reachB s (sealed (zeros code n)) = true := by
    simp only [reachB, Bool.and_eq_true, decide_eq_true_eq] at hr ⊢
    obtain ⟨⟨⟨⟨⟨r1, r2⟩, -⟩, r4⟩, r5⟩, r6⟩ := hr
    refine ⟨⟨⟨⟨⟨r1, r2⟩, ?_⟩, r4⟩, r5⟩, r6⟩
    have ht : (sealed (zeros code n)).tag.length ≤ 16 := by
      show (msgTag _ _).length ≤ 16
      simp only [msgTag, toBytes, List.length_map, List.length_take]; omega
    have hv : (sealed (zeros code n)).v6 = true := rfl
    have hz : (sealed (zeros code n)).length = 16 + n := hl
    have hm' : 8320 ≤ s.mtuFor (sealed (zeros code n)) := hm
    simp only [datagramBytes, hv, hz, if_true]
    omega
  have hh' : headerOk (zeros code n) = true := by
    have e : headerOk (zeros code n) = (decide ((zeros code n).length ≤ 8216) && (zeros code n).length == (zeros code n).payload.length) := by
      simp [headerOk, zeros, ask, note, hostTypes, tyRequest]
    rw [e, hl, hp]; simp; omega
  simp only [readyB, takenB, turnB, loneB, Bool.and_eq_true, Bool.or_eq_true, bne_iff_ne, zeros_reserved, zeros_paramLen hn, zeros_command hc, hp]
  exact ⟨⟨⟨⟨⟨⟨⟨⟨⟨⟨⟨⟨⟨⟨hr', hs⟩, hh'⟩, hk⟩, ho⟩, hq⟩, hu⟩, bne_iff_ne.mp hmb⟩, how⟩, hst⟩, hb⟩, by simp; omega⟩, by simp [h8]⟩, rfl⟩, Or.inl ha⟩

/-! ## Legal states -/

theorem reset_fits (f : Fld) : f.spec.reset < 2 ^ f.width := by cases f <;> first | exact Nat.two_pow_pos _ | decide

/-- The conditions of `State.Legal`, by evaluation. -/
def legalB (s : State) : Bool :=
  Memory.wf s && SMap.sorted s.regs && s.regs.all (fun kv => decide (kv.2 < 2 ^ (Fld.ofNat (kv.1 / 2147483648)).width)) &&
  decide (s.sessions.length ≤ 4 ∧ s.halfOpen.length ≤ 16 ∧ s.events.length ≤ 256 ∧ s.fuses.field.length ≤ 2048)

theorem legal_of {s : State} (h : legalB s = true) : s.Legal := by
  simp only [legalB, Bool.and_eq_true, decide_eq_true_eq, List.all_eq_true] at h
  obtain ⟨⟨⟨h1, h2⟩, h3⟩, h4, h5, h6, h7⟩ := h
  refine ⟨h1, h2, fun k => ?_, h4, h5, h6, h7⟩
  have mem : ∀ (m : SMap Nat) (c v : Nat), SMap.find? m c = some v → (c, v) ∈ m := by
    intro m c v hm
    induction m with
    | nil => simp [SMap.find?] at hm
    | cons q r ih =>
      obtain ⟨a, b⟩ := q
      simp only [SMap.find?] at hm
      split at hm
      · injection hm with hm; subst_vars; exact List.mem_cons_self
      · exact List.mem_cons_of_mem _ (ih hm)
  have hc : k.code / 2147483648 = k.f.ctorIdx := by simp only [FKey.code]; omega
  unfold State.rd
  cases hf : SMap.find? s.regs k.code with
  | none => exact reset_fits _
  | some v =>
    have := h3 _ (mem _ _ _ hf)
    rw [hc, Fld.ofNat_ctorIdx] at this
    exact this

/-! ## The machine -/

theorem wit_StepRunsFront : State.reset.pending = [] ∧ ({ State.reset with pending := [.refresh 0, .gateTimeout] } : State).pending =
    Instr.refresh 0 :: [.gateTimeout] := ⟨rfl, rfl⟩

theorem wit_StepKeepsLegal : (hostSt []).Legal ∧ ∃ t, step { hostSt [] with pending := [.idleTimeout 7] } = .next t ∧ t.sessions = [] :=
  ⟨legal_of (by decide +kernel), _, rfl, by decide +kernel⟩

theorem wit_FusesStayBurned : ∃ t, exec .fuseWordBurned { st [] with sec := { burns := [.hostOk] } } = .next t ∧
    t.fuses.hostOk = 0xFFFFFFFF#32 := ⟨_, rfl, by decide +kernel⟩

theorem wit_ReservedBitsReadZero : (st []).Legal ∧
    (∃ r ∈ regTable, r.name = "VEC_STATUS" ∧ ∀ f ∈ r.fields, ¬ (f.spec.lo ≤ 27 ∧ 27 < f.spec.lo + f.width)) ∧
    ∃ x, regPlace ⟨"PAD_RELEASE", 0, 0, 0, 0, 0, 0, 1, 0xFFFFFFFF, 0⟩ = .ok x ∧
      ∀ f ∈ x.spec.fields, fieldBits f (0x80000000#128).toNat = fieldBits f (0#128).toNat :=
  ⟨legal_of (by decide +kernel), by decide +kernel, _, rfl, by decide +kernel⟩

/-! ## Sessions -/

/-- A HELLO of the lowest MTU accepted, or another. -/
def helloMsg (mtu : Nat) : LiftMsg := { note tyHello (List.replicate 96 0 ++ bytesBE 2 mtu ++ List.replicate 6 0) with session := 0 }

def half (i : Nat) : HalfOpen :=
  { id := i, src := 1, host := toBytes (1 :: List.replicate 31 0), hello := [], accept := [], kIn := [2], kOut := [3], mtu := 1500
    events := true, boot := false }

def noSes (kvs : List (FKey × Nat)) : State := { hostSt kvs with sessions := [] }

/-- Four sessions open. -/
def fullSt : State := { hostSt [] with sessions := [ses, ses, ses, ses] }

theorem wit_HelloAnswered : let m := helloMsg 1280
    (noSes []).Reaches m ∧ (noSes []).halfOpen.length < 16 ∧ (noSes []).sessions.length < 4 ∧ m.magic = 0x4C46 ∧ m.version = 1 ∧
    m.type = tyHello ∧ m.payload.length = 104 ∧ m.length = 104 ∧ m.session = 0 ∧ 1280 ≤ natBE (bytesAt m.payload 96 2) ∧
    (noSes []).hostKeyOk (bytesAt m.payload 64 32) = true := ⟨reaches_of (by decide +kernel), by decide +kernel⟩

theorem wit_HelloRefused : let full := { noSes [] with halfOpen := List.replicate 16 (half 1) }
    let keyed := { noSes [(dk .SEC_STATUS_BUNDLE_OK, 1)] with sec := { hosts := [[]] } }
    (full.Reaches (helloMsg 1280) ∧ 16 ≤ full.halfOpen.length) ∧
    ((noSes []).Reaches { helloMsg 1280 with version := 2 } ∧ ({ helloMsg 1280 with version := 2 } : LiftMsg).version ≠ 1) ∧
    ((noSes []).Reaches (helloMsg 1279) ∧ natBE (bytesAt (helloMsg 1279).payload 96 2) < 1280) ∧
    (keyed.Reaches (helloMsg 1280) ∧ keyed.hostKeyOk (bytesAt (helloMsg 1280).payload 64 32) = false) ∧
    (fullSt.Reaches (helloMsg 1280) ∧ fullSt.hostKeyOk (bytesAt (helloMsg 1280).payload 64 32) = true ∧ 4 ≤ fullSt.sessions.length) :=
  ⟨⟨reaches_of (by decide +kernel), by decide +kernel⟩, ⟨reaches_of (by decide +kernel), by decide +kernel⟩,
   ⟨reaches_of (by decide +kernel), by decide +kernel⟩, ⟨reaches_of (by decide +kernel), by decide +kernel⟩,
   reaches_of (by decide +kernel), by decide +kernel⟩

/-- A CONFIRM signed with the key whose point is the identity. -/
def confirmMsg : LiftMsg := { note tyConfirm (1 :: List.replicate 63 0) with session := 9, seq := 0 }

theorem wit_ConfirmOpens : let s := { noSes [] with halfOpen := [half 9] }
    let m := sealed confirmMsg
    s.Reaches m ∧ s.half? m.session = some (half 9) ∧ s.session? m.session = none ∧ s.sessions.length < 4 ∧ headerOk m = true ∧
    m.type = tyConfirm ∧ m.seq = 0 ∧ m.tag = msgTag (half 9).kIn m ∧
    edVerify (ofBytes (half 9).host) (sha512 (ofBytes (half 9).hello ++ ofBytes (half 9).accept)) (ofBytes m.payload) = true ∧
    s.mb00Free (half 9).host = true :=
  ⟨reaches_of (by decide +kernel), by decide +kernel, by decide +kernel, by decide +kernel, by decide +kernel, by decide +kernel,
   by decide +kernel, (msgTag_tag _ _ _).symm, by decide +kernel, by decide +kernel⟩

/-- A session whose own CLOSE, its fourth message, is not acknowledged. -/
def closing : Session := { ses with unacked := [⟨4, note tyClose [], 0⟩], txNext := 5 }

theorem wit_AcksTaken : (hostSt []).Genuine (sealed (note tyAckOnly [])) ses ∧
    (hostSt [] closing).Genuine (sealed { note tyAckOnly [] with ack := 5 }) closing ∧
    closing.unacked.any (fun u => u.msg.type == tyClose && acks { note tyAckOnly [] with ack := 5 } u.seq) = true ∧
    (hostSt []).Quiet ∧ (hostSt [] closing).Quiet :=
  ⟨genuine_of (by decide +kernel) (by decide +kernel) (by decide +kernel) rfl,
   genuine_of (by decide +kernel) (by decide +kernel) (by decide +kernel) rfl, by decide +kernel, quiet_of (by decide +kernel),
   quiet_of (by decide +kernel)⟩

/-- The condition of `State.lonely`, by evaluation. -/
def lonelyB (s : State) (id : Nat) : Bool := match s.session? id with
  | some x => s.sessions.all (fun y => y.host != x.host || y.id == id)
  | none => true

theorem lonely_of {s : State} {id : Nat} (h : lonelyB s id = true) : s.lonely id := by
  intro x hx y hy he
  simp only [lonelyB, hx, List.all_eq_true, Bool.or_eq_true, bne_iff_ne, beq_iff_eq] at h
  exact (h y hy).resolve_left (fun k => k he)

theorem wit_SessionsEnd : let s := { hostSt [] with lift := { mb00 := some [1], mb00Ses := some 7 } }
    let z : Xfer := ⟨4, ⟨7, [1], 3, 0x20, 9⟩, .bundle 256, 2, 1, 0, [], false⟩
    let x := { ses with xfers := [z] }
    (s.Quiet ∧ s.lonely 7 ∧ s.session? 7 = some ses ∧ ses.xfers = [] ∧ s.lift.mb00Ses = some 7 ∧ (s.session? 7).isSome = true) ∧
    ((hostSt [] x).Quiet ∧ (hostSt [] x).lonely 7 ∧ (hostSt [] x).session? 7 = some x ∧ z.drop = false ∧ z.req.hostKey = x.host ∧
      z.req.cmd ≠ abortCode ∧ ((hostSt [] x).mailbox z.req.mb).expired = false) ∧
    ((hostSt [] closing).Quiet ∧ (hostSt [] closing).session? 7 = some closing ∧ (∃ u ∈ closing.unacked, u.seq = 4) ∧
      (hostSt [] closing).lonely 7 ∧ closing.xfers = []) ∧
    (hostSt []).InTurn (sealed (note tyClose [])) ses ∧ ((hostSt []).heard (sealed (note tyClose []))).lonely 7 := by
  have t : (hostSt []).InTurn (sealed (note tyClose [])) ses := turn_of (by decide +kernel)
  obtain ⟨y, g⟩ := t.genuine
  exact ⟨⟨quiet_of (by decide +kernel), lonely_of (by decide +kernel), by decide +kernel⟩,
    ⟨quiet_of (by decide +kernel), lonely_of (by decide +kernel), by decide +kernel⟩,
    ⟨quiet_of (by decide +kernel), by decide +kernel, by decide +kernel, lonely_of (by decide +kernel), by decide +kernel⟩,
    t, by rw [heard_sealed g]; exact lonely_of (by decide +kernel)⟩

theorem wit_DeviceSends : quietB (hostSt []) = true ∧ quietB (hostSt [] { ses with waiting := [note tyReply []] }) = true ∧
    (hostSt []).session? 7 = some ses ∧ unackedOther ses < 256 ∧ ses.waiting = [] ∧
    (let x := { ses with waiting := [note tyReply []] }; (hostSt [] x).session? 7 = some x ∧ ¬ (unackedOther x < 256 ∧ x.waiting = [])) ∧
    (hostSt [] closing).session? 7 = some closing ∧
    closing.unacked.find? (fun u => u.seq == 4) = some ⟨4, note tyClose [], 0⟩ ∧ (hostSt [] closing).hostUp = true := by
  decide +kernel

theorem wit_RetainExpires :
    let s : State := { st [] with
      mailboxes := [(0, {}), (1, { owner := some [9] }), (63, { owner := some [9], st := .busy, busy := 1 })]
      lift := { mb00 := some [9] } }
    (∀ x ∈ s.sessions, x.host ≠ [9]) ∧ ((s.mailbox 1).owner = some [9] ∧ (s.mailbox 1).busy = 0) ∧
    ((s.mailbox 63).owner = some [9] ∧ (s.mailbox 63).busy ≠ 0) ∧ (s.mailbox 0).owner ≠ some [9] ∧ s.lift.mb00 = some [9] ∧
    s.lift.mb00Ses = none := by decide +kernel

/-- An event outstanding. -/
def evt : Event := ⟨6, 0x0005, 0, 0xFF, 0, 0, []⟩

theorem wit_EventAcked : let s := { hostSt [] with lift := { mb00 := some [1], mb00Ses := some 7, outEvt := some evt } }
    let m := sealed (note tyEventAck (bytesBE 8 6))
    s.InTurn m ses ∧ s.lift.outEvt = some evt ∧ s.lift.mb00Ses = some m.session ∧ m.payload.length = 8 ∧ natBE m.payload = evt.number ∧
    s.lift.lost = 0 := ⟨turn_of (by decide +kernel), by decide +kernel⟩

theorem wit_ForgedHasNoEffect : (noSes []).Quiet ∧ (hostSt []).Quiet ∧
    ((noSes []).Reaches (ask 1 []) ∧ ∀ x, (noSes []).session? (ask 1 []).session = some x → headerOk (ask 1 []) = false ∨
      (ask 1 []).tag ≠ msgTag x.kIn (ask 1 [])) ∧
    ((hostSt []).Reaches (ask 1 []) ∧ ∀ x, (hostSt []).session? (ask 1 []).session = some x → headerOk (ask 1 []) = false ∨
      (ask 1 []).tag ≠ msgTag x.kIn (ask 1 [])) := by
  refine ⟨quiet_of (by decide +kernel), quiet_of (by decide +kernel), ⟨reaches_of (by decide +kernel), fun x h => ?_⟩,
    reaches_of (by decide +kernel), fun x h => ?_⟩
  · exact absurd h (by rw [show (noSes []).session? (ask 1 []).session = none from by decide +kernel]; simp)
  · rw [show (hostSt []).session? (ask 1 []).session = some ses from by decide +kernel] at h
    injection h with h
    subst h
    right
    decide +kernel

/-- The session with the fifth message delivered already. -/
def later : Session := { ses with dlv := 6 }

theorem wit_DuplicateNotActedOn : let m := sealed (ask 0x0001 [])
    (hostSt [] later).Quiet ∧
    (hostSt [] later).Genuine m later ∧ ((hostSt [] later).heard m).session? m.session = some later ∧ m.seq < later.dlv := by
  have g : (hostSt [] later).Genuine (sealed (ask 0x0001 [])) later :=
    genuine_of (by decide +kernel) (by decide +kernel) (by decide +kernel) rfl
  exact ⟨quiet_of (by decide +kernel), g, by rw [heard_sealed g]; decide +kernel, by decide +kernel⟩

/-! ## The host port -/

theorem wit_NetworkAnswers : let s := { hostSt [(dk .HP_CTL_PFC_EN, 1), (dk .HP_CTL_VID, 4094), (dk .HP_CTL_PCP, 7)] with lift := { ip4 := 9, ip6 := 9 } }
    s.hostUp = true ∧ s.on (dk .HP_CTL_PFC_EN) = true ∧ s.vlanOk (some 4094) = true ∧ s.vlanOk none = false ∧ 28 ≤ s.lift.mtu ∧
    s.lift.mtu < 28 + 9189 ∧ s.ownIp4 9 = true ∧ s.ownIp4 1 = false ∧ s.ownIp6 linkLocal = true :=
  ⟨by decide +kernel, by decide +kernel, by decide +kernel, by decide +kernel, by decide +kernel, by decide +kernel, by decide +kernel,
   by decide +kernel, by simp [State.ownIp6]⟩

/-- A host link enabled and down, with so many failures at 800 Gb/s. -/
def downLink (n : Nat) (kvs : List (FKey × Nat)) : State := { st ((dk .HP_CTL_ENABLE, 1) :: kvs) with lift := { fails800 := n } }

theorem wit_HostLinkTrains : ∀ n ∈ [2, 3], ∀ kvs ∈ [[(dk .HP_CTL_MEDIA, 1), (dk .HP_STATUS_STATE, 2)],
      [(dk .HP_CTL_MEDIA, 0), (dk .HP_STATUS_STATE, 2)], [(dk .HP_CTL_MEDIA, 0), (dk .HP_STATUS_STATE, 1)]],
    let s := downLink n kvs
    s.on (dk .HP_CTL_ENABLE) = true ∧ s.ready 1 = true ∧ s.ready 2 = true ∧ s.rd (dk .HP_STATUS_STATE) ≠ 3 ∧ (s.trainRate = 2 ↔ n = 2) := by
  decide +kernel

/-! ## Requests -/

/-- Job states. -/
def jobSt (n : Nat) (kvs : List (FKey × Nat) := []) (x : Session := ses) : State := hostSt ((dk .JOB_STATE_STATE, n) :: kvs) x

/-- A small image of pile 0. -/
def img0 : Image :=
  { magic := 0, format := 1, device := 0, domainSize := 1, timingRoot := 0, jobId := 0, phaseEntries := 2, pages := 2, hostInput := true
    pileMask := 1, nTrackers := 0, paramMax := [], linkLat := [], gateUp := 0, gateDown := 0, gateGuard := 0, sections := [], hash := 0
    phases := [{ length := 8, lastSlot := 1, page := 2 }, { length := 8, lastSlot := 1, page := 3, finish := true }] }

def withImg (s : State) (i : Image := img0) : State := { s with job := { s.job with image := some i } }

/-- Records that stand: of a kind, as many as asked for. -/
def recAsk (kind n : Nat) : RecordsP := ⟨kind, 2, 15, 0, n⟩

/-- Requests of the lengths that the spec leaves open are accepted. -/
theorem packed_accepted {s : State} {code : Nat} (h : (takenB s (zeros 1 0) ses && decide (8320 ≤ s.mtuFor (zeros 1 0))) = true)
    (hc : code < 65536 ∧ code ≠ abortCode) : s.Accepted (sealed (zeros code (packedLen code))) ses ∧
      reqParamLen (sealed (zeros code (packedLen code))) = packedLen code := by
  simp only [Bool.and_eq_true, decide_eq_true_eq] at h
  exact zeros_accepted h.1 h.2 hc.1 hc.2 (packed_bounds code).2.1 (packed_bounds code).2.2

/-- Of session 7 with nothing else open, each request of such a length is accepted. -/
theorem wit_PackedAccepted : ∀ code ∈ [0x0008, 0x0020, 0x0021, 0x0022, 0x0023, 0x0030, 0x0051],
    (hostSt []).Accepted (sealed (zeros code (packedLen code))) ses ∧ reqParamLen (sealed (zeros code (packedLen code))) = packedLen code :=
  fun _ hc => packed_accepted (by decide +kernel) ((by decide : ∀ c ∈ [0x0008, 0x0020, 0x0021, 0x0022, 0x0023, 0x0030, 0x0051],
    c < 65536 ∧ c ≠ abortCode) _ hc)

theorem wit_QueriesAnswer : (∀ n ∈ [0, 8, 16, 32], readyB (hostSt []) (ask 1 (List.replicate n 0)) ses = true ∧
      reqParamLen (sealed (ask 1 (List.replicate n 0))) = n) ∧
    (∀ first ∈ [0, 1], first ≤ (hostSt []).objectNames.length) ∧ (∀ p ∈ [0, 15], (hostSt []).power (domSw p) = 0 ∧ (hostSt []).ready (domCtl p) = true) ∧
    (∀ kind ∈ [1, 2, 3, 4, 5, 6], (recAsk kind 0).count ≤ recordsMax kind ∧
      (recAsk kind 0).first + (recAsk kind 0).count ≤ ((hostSt []).recordsOf kind 2 15).1.length) ∧
    commandCodes.contains (reqCommand (sealed (ask 0x0009 []))) = false ∧ readyB (hostSt []) (ask 0x0009 []) ses = true := by
  decide +kernel

theorem wit_QueriesChangeNothingElse : (hostSt []).Quiet ∧ ∃ t, exec (.deviceInfo (sealed (ask 1 []))) (hostSt []) = .next t ∧ t.out ≠ [] :=
  ⟨quiet_of (by decide +kernel), _, rfl, by decide +kernel⟩

/-- A register request. -/
def regReq (name : String) (scope pile i n : Nat) (mask value : BitVec 128) : RegReq := ⟨name, scope, pile, 0, i, 0, 0, n, mask, value⟩

/-- The place of a register that a request names. -/
def placeOf (r : RegReq) : RegPlace := match regPlace r with
  | .ok y => y
  | .error _ => ⟨⟨"", .device, [], 0, []⟩, 0, 0, []⟩

def placed (r : RegReq) : Bool := match regPlace r with
  | .ok _ => true
  | .error _ => false

theorem place_of {r : RegReq} (h : placed r = true) : regPlace r = .ok (placeOf r) := by
  unfold placed at h; unfold placeOf
  cases hr : regPlace r with
  | ok y => rfl
  | error e => rw [hr] at h; cases h

theorem wit_RegisterReads : readyB (hostSt []) (ask 0x10 (List.replicate 80 0)) ses = true ∧
    reqParamLen (sealed (ask 0x10 (List.replicate 80 0))) = 80 ∧
    ∀ r ∈ [regReq "TB_SLOT" 0 0 0 1 0 0, regReq "LNK_STATUS" 1 15 1 1 0 0, regReq "PMB_RAIL" 0 0 0 16 0 0], placed r = true ∧
      (∀ c ∈ List.range r.count,
        (tickClocks.run ((hostSt []).started (sealed (ask 0x10 (List.replicate 80 0))))).regAbsent ((placeOf r).stepIdx c) = false) ∧ 1 ≤ r.count ∧
      r.count ≤ 1024 ∧ ((placeOf r).spec.dims = [] → r.count = 1) ∧
      ((placeOf r).spec.dims ≠ [] → (placeOf r).idx.getLastD 0 + r.count ≤ (placeOf r).spec.dims.getLastD 0) := by
  simp only [regAbsent_tickClocks]
  decide +kernel

/-- The conditions of `State.Writable`, by evaluation. -/
def writB (s : State) (r : RegReq) : Bool :=
  placed r && !s.regAbsent (placeOf r) && r.count == 1 && decide ((placeOf r).spec.width ≤ 128) && s.jobState != jsAborting &&
  s.writeRefused r (placeOf r) == none

theorem writable_of {s : State} {r : RegReq} (h : writB s r = true) : s.Writable r (placeOf r) := by
  simp only [writB, Bool.and_eq_true, beq_iff_eq, bne_iff_ne, decide_eq_true_eq, Bool.not_eq_true'] at h
  obtain ⟨⟨⟨⟨⟨h1, h2⟩, h3⟩, h4⟩, h5⟩, h6⟩ := h
  exact ⟨place_of h1, h2, h3, h4, Or.inl h5, h6⟩

/-- Writes of fields that apply at once, that clear, and that wait for a gate and for a step boundary. -/
def someWrites : List RegReq := [
  regReq "CHK_CTL" 0 0 0 1 0xFFFFFFFF 0xE0030001, regReq "PMB_FAULT" 0 0 0 1 0xFFFFFFFF 0xFFFFFFFF,
  regReq "GATE_CTL" 0 0 0 1 0xFFFFFFFF 0x02000001, regReq "LNK_CTL" 1 15 1 1 0xFFFFFFFF 0x80000000]

theorem wit_RegisterWrites : readyB (hostSt []) (ask 0x11 (List.replicate 80 0)) ses = true ∧
    reqParamLen (sealed (ask 0x11 (List.replicate 80 0))) = 80 ∧
    (∀ r ∈ someWrites, writB (hostSt []) r = true ∧ ∃ f ∈ (placeOf r).spec.fields, touches r f = true) ∧
    ∀ a ∈ [Acc.rw, .w1c, .rwg, .rws], ∃ r ∈ someWrites, ∃ f ∈ (placeOf r).spec.fields, touches r f = true ∧ f.spec.acc = a := by
  decide +kernel

theorem wit_RegisterWriteEffects :
    (let r := regReq "TB_CTL" 0 0 0 1 0x80000000 0x80000000
     let s := hostSt [(dk .TB_CTL_ROOT, 1)]
     writB s r = true ∧ s.on (dk .TB_CTL_ENABLE) = false ∧ touches r .TB_CTL_ENABLE = true ∧ fieldBits .TB_CTL_ENABLE r.value.toNat = 1 ∧
     touches r .TB_CTL_ROOT = false ∧ s.on (dk .TB_CTL_ROOT) = true) ∧
    (writB (hostSt []) (regReq "MEM_BUCKET_CTL" 1 15 0 1 0xFFFFFFFF 0x10001) = true ∧ legalB (hostSt []) = true) ∧
    (let r := regReq "LNK_CTL" 1 15 1 1 0x80000000 0x80000000
     let s := hostSt [(pk .LNK_CTL_ENABLE 15 1, 0)]
     writB s r = true ∧ s.rd (pk .LNK_STATUS_STATE 15 1) ≠ 10 ∧ s.ready (domX 15 1) = true) ∧
    writB (hostSt []) (regReq "HP_CTL" 0 0 0 1 0xFFFFFFFF 0) = true ∧
    (let r := regReq "PAD_RELEASE" 0 0 0 1 0xFFFF 2
     let s := hostSt [(pHeld 2, 0)]
     writB s r = true ∧ touches r .PAD_RELEASE = true ∧ fieldBits .PAD_RELEASE (r.value.toNat &&& r.mask.toNat) = 2 ∧
     domainExists 2 = true ∧ s.power 2 = 0 ∧ s.on (pEnter 2) = false) := by
  decide +kernel

theorem wit_SettingsTake : (let c : NetCfg := ⟨1, 32, 1, 1, 128, 1, 1280⟩; c.prefix4 ≤ 32 ∧ c.prefix6 ≤ 128 ∧ 1280 ≤ c.mtu ∧ c.mtu ≤ 9216) ∧
    (hostSt []).jobState = jsNone ∧
    (let s := withImg (jobSt jsRunning [(dk .TB_STEP, 4)])
     readyB s (ask 0x42 (bytesLE 8 5)) ses = true ∧ reqParamLen (sealed (ask 0x42 (bytesLE 8 5))) = 8 ∧ s.jobStarted = true ∧
     s.job.image = some img0 ∧ img0.hostInput = true ∧ s.step ≤ 5 ∧ 5 ≤ s.step + 1 ∧ ¬ (5 ∈ s.job.ready) ∧
     5 ∈ ({ s with job := { s.job with ready := [5] } } : State).job.ready) := by decide +kernel

theorem wit_WrongStateRefused : ∀ j ∈ [jsNone, jsLoaded, jsStarting, jsRunning, jsHalted, jsAborting, jsStopped],
    ((jobSt j).jobState = j ∧ ∀ n ∈ [0, 8, 16, 288], readyB (jobSt j) (ask 0x40 (List.replicate n 0)) ses = true ∧
      reqParamLen (sealed (ask 0x40 (List.replicate n 0))) = n) ∧
    takenB (jobSt j) (zeros 1 0) ses && decide (8320 ≤ (jobSt j).mtuFor (zeros 1 0)) = true := by decide +kernel

theorem wit_WrongLengthRefused : (∀ n ∈ [0, 8, 16, 32, 80, 288], takenB (hostSt []) (ask 1 (List.replicate (n + 1) 0)) ses = true ∧
    loneB (hostSt []) (ask 1 (List.replicate (n + 1) 0)) = true ∧ reqParamLen (sealed (ask 1 (List.replicate (n + 1) 0))) ≠ n) ∧
    (∀ c ∈ [0x0008, 0x0020, 0x0021, 0x0022, 0x0023, 0x0030, 0x0051], takenB (hostSt []) (ask c (List.replicate 9 0)) ses = true ∧
      loneB (hostSt []) (ask c (List.replicate 9 0)) = true ∧ reqParamLen (sealed (ask c (List.replicate 9 0))) % 8 ≠ 0) ∧
    (let m := ask 0x10 (List.replicate 47 0 ++ 1 :: List.replicate 32 0)
     takenB (hostSt []) m ses = true ∧ reqParamLen m = 80 ∧ reservedBad m = some 44) := by decide +kernel

/-! ## Bulk transfers and memory commands -/

/-- Nothing is ahead of a run in session 7, by evaluation. -/
def clearB (s : State) (a : LineRun) : Bool :=
  s.sessions.all (fun y => y.id != 7 || y.xfers.all (fun z => (xferRuns z).all (fun b => !a.meets b))) &&
  (List.range 16).all (fun p => ((s.pile p).mem.fill.map (fun f => !a.meets ⟨p, f.first, f.lines, true⟩)).getD true)

theorem none_ahead {s : State} {a : LineRun} (h : clearB s a = true) : s.noneAhead 7 a := by
  simp only [clearB, Bool.and_eq_true, List.all_eq_true, Bool.or_eq_true, bne_iff_ne, Bool.not_eq_true', List.mem_range] at h
  refine ⟨fun y hy hid z hz b hb => (h.1 y hy).resolve_left (fun k => k hid) z hz b hb, fun p f hp hf => ?_⟩
  have := h.2 p hp
  rw [hf] at this
  simpa using this

/-- The conditions of `State.MemUp`, by evaluation. -/
def memUpB (s : State) (p : Nat) : Bool :=
  decide (p < 16) && s.boot.run.isNone && s.power (domSw p) == 0 && s.ready (domCtl p) && s.ready (domMem p)

theorem mem_up {s : State} {p : Nat} (h : memUpB s p = true) : s.MemUp p := by
  simp only [memUpB, Bool.and_eq_true, decide_eq_true_eq, beq_iff_eq, Option.isNone_iff_eq_none] at h
  obtain ⟨⟨⟨⟨h1, h2⟩, h3⟩, h4⟩, h5⟩ := h
  exact ⟨h1, h2, h3, h4, h5⟩

/-- Runs at the top and at the bottom of a pile's memory, and at the end of the tag view. -/
def wr0 : MemWriteP := ⟨15, dramLines - 2, 2, false, 1⟩
def rd0 : MemReadP := ⟨15, 2, viewLines 2 - 1, 1, false, 1⟩

theorem wit_TransfersOpen : (hostSt []).MemUp 15 ∧ (hostSt []).noneAhead 7 ⟨15, dramLines - 2, 2, true⟩ ∧
    (hostSt []).noneAhead 7 (readRun rd0) :=
  ⟨mem_up (by decide +kernel), none_ahead (by decide +kernel), none_ahead (by decide +kernel)⟩

theorem wit_TransfersOpen2 : (∀ z ∈ ses.xfers, z.id ≠ 1) ∧ (hostSt []).jobState ≠ jsAborting ∧ 1 ≤ wr0.lines ∧
    wr0.first + wr0.lines ≤ dramLines ∧ (hostSt []).landingRun wr0.pile wr0.first wr0.lines = none ∧
    1 ≤ rd0.lines ∧ rd0.first + rd0.lines ≤ viewLines rd0.view ∧ rd0.view ≤ 2 ∧
    (∀ n ∈ [8, 16, 32], readyB (hostSt []) (ask 0x03 (List.replicate n 0)) ses = true ∧
      reqParamLen (sealed (ask 0x03 (List.replicate n 0))) = n) ∧
    (hostSt []).on (dk .SEC_STATUS_BUNDLE_OK) = false ∧ 256 ≤ bundleMax ∧ (hostSt []).jobState = jsNone ∧
    (hostSt []).scanGranted = false ∧ (hostSt []).loadBusy = none ∧
    (let s := { hostSt [] with boot := { recorded := true } }
     readyB s (ask 0x32 (List.replicate 8 0)) ses = true ∧ s.boot.recorded = true ∧ s.jobState = jsNone) ∧
    (let s := { hostSt [] with job := { gens := [(stepStats, 3)], stats := [1, 2] } }
     readyB s (ask 0x50 (List.replicate 32 0)) ses = true ∧ s.objectNames.contains stepStats = true ∧ s.gen stepStats = 3 ∧
     s.job.image = none) ∧
    (let s := hostSt [(dk .SEC_STATUS_BUNDLE_OK, 1)]
     readyB s (ask 0x31 (List.replicate 8 0)) ses = true ∧ s.on (dk .SEC_STATUS_BUNDLE_OK) = true ∧ s.boot.run = none ∧
     s.jobState = jsNone) := by
  decide +kernel

def req0 : Req := ⟨7, [1], 3, 0x20, 9⟩
/-- A write of two lines at the top of a pile's memory. -/
def wrX : Xfer := ⟨4, req0, .memWrite ⟨15, dramLines - 2, 2, false, 4⟩, 2, 0, 0, [], false⟩
/-- A bundle of two lines. -/
def buX : Xfer := ⟨4, req0, .bundle 256, 2, 0, 0, [], false⟩
/-- A session with a transfer open and credit for its data. -/
def xSes (z : Xfer) : Session := { ses with xfers := [z], granted := 1000, hostLim := 1000 }
/-- One line of transfer 4. -/
def bulkMsg : LiftMsg := note tyBulk (bytesBE 4 4 ++ bytesBE 2 0 ++ bytesBE 2 1 ++ bytesBE 8 0 ++ bytesBE 8 0 ++ List.replicate 128 1)

theorem wit_BulkDataArrives : (∀ z ∈ [wrX, buX], turnB (hostSt [] (xSes z)) bulkMsg (xSes z) = true ∧
      xferOf (xSes z) (bulkOf (sealed bulkMsg)).xfer = some z ∧ fromHost z.kind = true ∧ z.drop = false ∧
      (bulkOf (sealed bulkMsg)).lines = lineFormOf z.kind ∧ (bulkOf (sealed bulkMsg)).offset = z.next ∧
      z.next + (bulkOf (sealed bulkMsg)).units < z.total) ∧ (sealed bulkMsg).type = tyBulk ∧ (bulkOf (sealed bulkMsg)).sound = true ∧
    (bulkOf (sealed bulkMsg)).last = false ∧ (sealed bulkMsg).payload.length ≤ 1000 ∧ (bulkOf (sealed bulkMsg)).units = 1 ∧
    (hostSt []).landing 15 (dramLines - 2) = none ∧ (hostSt []).power (domMem 15) ≠ 2 := by decide +kernel

/-- STEP_STATS on its way to the host, of two lines. -/
def rdX : Xfer := ⟨4, req0, .fetch stepStats 0 256, 2, 0, 0, [blankLine, blankLine], false⟩

theorem wit_BulkDataSent : ∀ mtu ∈ [1500, 280], let x := { xSes rdX with mtu := mtu }; let s := hostSt [] x
    quietB s = true ∧ x.host = rdX.req.hostKey ∧ rdX.req.session = 7 ∧ rdX.req.cmd ≠ abortCode ∧ rdX.drop = false ∧ s.session? 7 = some x ∧ xferOf x 4 = some rdX ∧ s.hostUp = true ∧ s.lift.xoffGot = false ∧
    rdX.kind = .fetch stepStats (s.gen stepStats) 256 ∧ rdX.total = rdX.lines.length ∧
    (let n := min (unitsOfMsg x false) (rdX.total - rdX.next); n ≠ 0 ∧ x.bulkSent + 24 + n * 128 ≤ x.hostLim ∧
      (rdX.next + n < rdX.total ↔ mtu = 280)) := by decide +kernel

theorem wit_MemoryFills : ∀ q ∈ [(⟨0xFF, dramLines - 1, 1, 0, 15, 0, 0⟩ : MemFillP), ⟨15, 0, dramLines, 1, 0, 0, 0⟩],
    (∀ p ∈ fillPiles q.pile, (hostSt []).MemUp p ∧ ((hostSt []).pile p).mem.fill = none ∧
      (hostSt []).noneAhead 7 ⟨p, q.first, q.lines, true⟩) ∧ q.mode ≤ 1 ∧ (q.mode = 0 → isFillFmt q.fmt = true) ∧ 1 ≤ q.lines ∧
    q.first + q.lines ≤ dramLines := by
  have h : ∀ q ∈ [(⟨0xFF, dramLines - 1, 1, 0, 15, 0, 0⟩ : MemFillP), ⟨15, 0, dramLines, 1, 0, 0, 0⟩],
    (∀ p ∈ fillPiles q.pile, memUpB (hostSt []) p = true ∧ ((hostSt []).pile p).mem.fill = none ∧
      clearB (hostSt []) ⟨p, q.first, q.lines, true⟩ = true) ∧ q.mode ≤ 1 ∧ (q.mode = 0 → isFillFmt q.fmt = true) ∧ 1 ≤ q.lines ∧
    q.first + q.lines ≤ dramLines := by decide +kernel
  intro q hq
  obtain ⟨h1, h2⟩ := h q hq
  exact ⟨fun p hp => ⟨mem_up (h1 p hp).1, (h1 p hp).2.1, none_ahead (h1 p hp).2.2⟩, h2⟩

theorem wit_MemoryFills2 : (hostSt []).jobState = jsNone ∧
    (let f : FillRun := ⟨dramLines - 1, 1, 0, 0, none, req0, 1⟩
     let s : State := { st [] with piles := [(15, { mem := { fill := some f } })] }
     quietB s = true ∧ (s.pile (15 : PileId).val).mem.fill = some f ∧ f.first + f.lines ≤ dramLines ∧ s.on (pk .MEM_INJECT_ARMED 15) = false) ∧
    memUpB (hostSt []) 15 = true ∧ (hostSt []).on (pk .MEM_INJECT_ARMED 15) = false ∧ ((hostSt []).pile 15).mem.fill = none ∧
    clearB (hostSt []) ⟨15, dramLines - 1, 1, true⟩ = true := by
  decide +kernel

/-! ## The security core and bring-up -/

theorem wit_DebugUnlocks : (hostSt []).jobState = jsNone ∧ ∀ n ∈ [8, 288], readyB (hostSt []) (ask 5 (List.replicate n 0)) ses = true ∧
    reqParamLen (sealed (ask 5 (List.replicate n 0))) = n ∧ (3 : BitVec 32).toNat ≤ 3 ∧ 3 < (4 : BitVec 32).toNat := by
  decide +kernel

/-- Proposals to commit. -/
def props : List Proposal := [⟨0, 5, 1⟩, ⟨0, 6, 1⟩]

theorem wit_FusesBurn : (let s := { hostSt [] with boot := { proposals := props } };
      readyB s (ask 0x34 []) ses = true ∧ s.jobState = jsNone ∧ (∃ i ∈ [0, 2], s.boot.proposals.length ≤ i) ∧
      (∀ i ∈ [1, 0], i < s.boot.proposals.length) ∧ s.sec.burns = [] ∧ s.sec.commits = [] ∧
      commitBurns s.fuses.field ([1, 0].filterMap (fun i => (s.boot.proposals[i]?).map Proposal.entry)) ≠ [] ∧
      commitBurns s.fuses.field [] = []) ∧
    (let s := { hostSt [] with sec := { burns := [.hostOk] } }; readyB s (ask 0x34 []) ses = true ∧ s.sec.burns ≠ []) ∧
    (let s := { hostSt [] with sec := { burns := [.ownerKey 0 1], burnReq := some { req0 with cmd := 0x34 } } };
      s.sec.burns = .ownerKey 0 1 :: [] ∧ s.sec.resetDue = false ∧ s.sec.commits = [] ∧ s.sec.burnReq = some { req0 with cmd := 0x34 } ∧
      s.replySession { req0 with cmd := 0x34 } = some ses) := by decide +kernel

/-- A bring-up at a stage. -/
def bring (n : Nat) (kvs : List (FKey × Nat) := []) : State :=
  { hostSt kvs with boot := { run := some ⟨req0, 1, n, true, 1, []⟩ } }

theorem wit_BringupRuns : (let s := hostSt [(dk .SEC_STATUS_BUNDLE_OK, 1)];
      readyB s (ask 0x31 (List.replicate 8 0)) ses = true ∧ s.jobState = jsNone ∧ s.on (dk .SEC_STATUS_BUNDLE_OK) = true ∧
      s.boot.run = none) ∧ ({ st [] with boot := { stage1 := false } } : State).boot.stage1 = false ∧
    (∀ n ∈ [0, 1, 2, 3, 4, 5, 6], (bring n).boot.stage1 = true ∧ (bring n).boot.run = some ⟨req0, 1, n, true, 1, []⟩) ∧
    (∀ p < 16, ∀ k < 2, (bring 5).portSettled p k = true) ∧ (bring 5 [(pk .LNK_STATUS_STATE 15 1, 3)]).portSettled 15 1 = false ∧
    (bring 6).replySession req0 = some ses := by decide +kernel

theorem wit_BringupRuns2 : ∀ d, ((bring 6).dom d).reqs = [] := fun _ => rfl

/-- The last line of a bundle of two. -/
def relLine : Line := mkLine 1 (0xF0 * 2 ^ 24 + 1 * 2 ^ 32 + 2 * 2 ^ 64) false

theorem wit_RelayedLinesKept : (st []).ready 1 = true ∧ (st []).boot.stage1 = true ∧ (st []).on (dk .SEC_STATUS_BUNDLE_OK) = false ∧
    relLine.poison = false ∧ lineCheckOk relLine = true ∧ (st []).boot.relay = [] ∧ relLine.tag.toNat / 2 ^ 32 % 2 ^ 32 = 1 ∧
    relLine.tag.toNat / 2 ^ 64 % 2 ^ 32 = 2 ∧ 2 ≤ bundleMax / 128 ∧ SMap.find? (st []).boot.relay 1 = none ∧
    (st []).boot.relay.length + 1 < 2 ∧ ({ relLine with body := 2 } : Line).poison = false ∧
    lineCheckOk { relLine with body := 2 } = false := by decide +kernel

/-! ## Resets, power and pins -/

theorem wit_ResetsAct : (∀ j ∈ [jsNone, jsLoaded, jsHalted, jsStopped], legalB (jobSt j) = true ∧ readyB (jobSt j) (ask 7 []) ses = true ∧
      reqParamLen (sealed (ask 7 [])) = 0 ∧ (jobSt j).jobState = j ∧ (jobSt j).sec.burns = []) ∧
    (let s := { hostSt [] with sec := { burns := [.sv] } }; legalB s = true ∧ readyB s (ask 7 []) ses = true ∧ s.sec.burns ≠ []) ∧
    (readyB (hostSt []) (ask 0x35 (List.replicate 8 0)) ses = true ∧ (hostSt []).jobState ≠ jsAborting ∧ (hostSt []).boot.run = none ∧
      ((hostSt []).pile 15).mem.fill = none) ∧
    (let s := { hostSt [] with piles := [(15, { resetSrc := 1, resetReqs := [req0] })] };
      (s.pile (15 : PileId).val).resetSrc ≠ 0 ∧ s.jobLoaded = false ∧ (s.pile 15).resetReqs = [req0] ∧ s.replySession req0 = some ses) := by
  decide +kernel

/-- The conditions of `State.Still`, by evaluation. -/
def stillB (s : State) (d : Nat) : Bool := !s.on (pEnter d) && !s.on (pWake d) && (s.dom d).to' == none && (s.dom d).next == none

theorem still_of {s : State} {d : Nat} (h : stillB s d = true) : s.Still d := by
  simp only [stillB, Bool.and_eq_true, Bool.not_eq_true', beq_iff_eq] at h
  exact ⟨h.1.1.1, h.1.1.2, h.1.2, h.2⟩

/-- Every other domain is bound for OFF. -/
def onlyHub : State := { hostSt [] with pwr := { due := otherDomains.map (fun d => (d, 2)) } }

theorem wit_PowerSetActs : readyB (hostSt [(dk .PWR_STATE_STATE 34, 2)]) (ask 0x36 (List.replicate 8 0)) ses = true ∧
    (∀ d ∈ [34, domTile 15 8], ∀ q ∈ [(0, 0), (0, 1), (0, 2), (2, 0), (2, 1), (1, 2)],
      let s := hostSt [(dk .PWR_STATE_STATE d, q.1)];
      domainExists d = true ∧ 32 ≤ d ∧ s.power d = q.1 ∧ s.boot.run = none ∧
      s.jobLoaded = false ∧ s.depsOk d q.2 = true ∧ (s.pile ((d - 32) / 32)).mem.fill = none ∧ (q.2 ≠ 0 → s.domainInUse d = false) ∧
      stillB s d = true) ∧
    (∀ n ∈ [1, 2], (hostSt []).depsOk 2 n = true) ∧ onlyHub.depsOk 1 2 = true ∧
    readyB onlyHub (ask 0x36 (List.replicate 8 0)) ses = true ∧
    (let s := { hostSt [] with pwr := { due := [(2, 1), (1, 1)] } }; s.pwr.due = (2, 1) :: [(1, 1)] ∧ s.power 2 = 0 ∧ stillB s 2 = true ∧
      ({ s with pwr := { s.pwr with due := [(1, 1)] } } : State).depsOk 2 1 = true) ∧
    (let s := { hostSt [] with pwr := { due := [(1, 2)] } }; s.pwr.due = (1, 2) :: [] ∧ s.power 1 = 0 ∧ stillB s 1 = true ∧
      ({ s with pwr := { s.pwr with due := [] } } : State).depsOk 1 2 = false) := by
  decide +kernel

/-- A domain that leaves one state for another. -/
def moving (d : Nat) (k : FKey) (x : DomSt) : State := { hostSt [(k, 1)] with pwr := { doms := [(d, x)] } }

theorem wit_TransitionsEnd : (let s := moving 34 (pWake 34) { to' := some 0, own := true, reqs := [req0] };
      quietB s = true ∧ s.on (pWake 34) = true ∧ (s.dom 34).own = true ∧ (s.dom 34).next = none ∧ (s.dom 34).reqs = [req0] ∧
      s.replySession req0 = some ses) ∧
    (let s := moving 34 (pWake 34) { to' := some 0, next := some 2 }; quietB s = true ∧ s.on (pWake 34) = true ∧ (s.dom 34).next = some 2) ∧
    (∀ n ∈ [1, 2], let s := moving (domTile 15 8) (pEnter (domTile 15 8)) { to' := some n, next := some 0 };
      s.on (pEnter (domTile 15 8)) = true ∧ (s.dom (domTile 15 8)).to' = some n ∧ domTile 15 8 ≠ 1) ∧
    (∀ n ∈ [1, 2], let s := moving (domTile 15 8) (pEnter (domTile 15 8)) { to' := some n, next := some (3 - n) };
      (s.dom (domTile 15 8)).next = some (3 - n) ∧ 3 - n ≠ 0 ∧ 3 - n ≠ n ∧ s.on (pWake (domTile 15 8)) = false) ∧
    (∀ x ∈ [none, some 0], let s := moving 1 (pEnter 1) { to' := some 2, next := x };
      s.on (pEnter 1) = true ∧ (s.dom 1).to' = some 2 ∧ (s.dom 1).next = x) := by decide +kernel

/-- Power good and reset released, or not. -/
def pins (g r : Nat) (kvs : List (FKey × Nat) := []) : State := hostSt ((dk .PIN_STATUS_PWR_GOOD, g) :: (dk .PIN_STATUS_RESET_N, r) :: kvs)

theorem wit_PinsAct : (∀ g ∈ [0, 1], ∀ r ∈ [0, 1], legalB (pins g r) = true ∧ ((pins g r).on (dk .PIN_STATUS_PWR_GOOD) = true ↔ g = 1) ∧
      ((pins g r).on (dk .PIN_STATUS_RESET_N) = true ↔ r = 1)) ∧
    (let s := { pins 1 1 with sec := { burns := [.hostOk] } }; legalB s = true ∧ s.sec.burns = .hostOk :: []) ∧
    (110 : Int) * 16 ≤ 1760 ∧ (1759 : Int) < 110 * 16 := by decide +kernel

theorem wit_WakesAct : (∀ g ∈ [0, 1], ∀ p ∈ [0, 1, 2], let s := pins g 1 [(dk .WAKE_CTL_PIN_EN, 1), (dk .PWR_STATE_STATE 1, p),
        (dk .PWR_STATE_STATE 2, 1)];
      legalB s = true ∧ s.on (dk .WAKE_CTL_PIN_EN) = true ∧ s.power 1 = p ∧ stillB s 1 = true ∧ stillB s 2 = true ∧ s.power 2 ≠ 0 ∧
      s.on (pEnter 1) = false) ∧
    (pins 1 1 [(dk .WAKE_CTL_PIN_EN, 0)]).on (dk .WAKE_CTL_PIN_EN) = false ∧
    (let s := pins 1 1 [(dk .WAKE_CTL_DETECT_EN, 1), (dk .PWR_STATE_STATE 2, 1)];
      legalB s = true ∧ s.on (dk .WAKE_CTL_DETECT_EN) = true ∧ s.power 2 = 1 ∧ s.power 1 = 0 ∧ s.on (pEnter 1) = false ∧ stillB s 2 = true) ∧
    (pins 1 1 [(dk .WAKE_CTL_DETECT_EN, 0)]).on (dk .WAKE_CTL_DETECT_EN) = false ∧ (pins 1 1).power 2 ≠ 1 := by decide +kernel

theorem wit_TemperaturesAct : ((st []).alertLevel ≤ 1600 ∧ ¬ (st []).alertLevel ≤ 1599 ∧ (1568 : Int) ≤ (st []).alertLevel - 32 ∧ (1520 : Int) ≤ 95 * 16) ∧ (105 : Int) * 16 ≤ 1680 ∧
    quietB (jobSt jsRunning) = true ∧ (jobSt jsRunning).jobStarted = true ∧ (jobSt jsRunning).boot.run = none ∧ stillB (jobSt jsRunning) (domTile 15 8) = true ∧
    (jobSt jsRunning).power (domTile 15 8) < 2 := by decide +kernel

/-- Ninety samples and one more. -/
def aged : State := { st [(dk .AGE_CTL_ENABLE, 1)] with pwr := { age := [(192, List.replicate 90 ⟨1, 2, 3⟩)], charge := 5 } }

theorem wit_TelemetryActs : (let s := st [(dk .PMB_CTL_ENABLE, 1), (dk .PMB_MAP_VALID 15, 1)];
      s.on (dk .PMB_CTL_ENABLE) = true ∧ s.ready 1 = true ∧ s.on (dk .PMB_MAP_VALID 15) = true) ∧
    (let s := jobSt jsRunning [(dk .PMB_MAP_VALID 15, 1)];
      quietB s = true ∧ s.ready 1 = true ∧ s.on (dk .PMB_MAP_VALID 15) = true ∧ railFault 0xFFFF = true ∧ s.jobStarted = true ∧ s.boot.run = none) ∧
    (jobSt jsRunning).jobStarted = true ∧ (jobSt jsLoaded).jobStarted = false ∧
    (aged.on (dk .AGE_CTL_ENABLE) = true ∧ aged.ready 1 = true ∧ (List.replicate 193 (⟨1, 2, 3⟩ : AgeSample))[192]? = some ⟨1, 2, 3⟩ ∧
      agesEnough 192 90 = true) := by decide +kernel


/-! ## Jobs and gates -/

theorem wit_JobCommandsAct : (∀ a ∈ [0, 1], let s := jobSt jsLoaded [(dk .TB_STATUS_ALIGNED, a)];
      readyB s (ask 0x41 (List.replicate 16 0)) ses = true ∧ reqParamLen (sealed (ask 0x41 (List.replicate 16 0))) = 16 ∧
      s.jobState = jsLoaded ∧ (s.on (dk .TB_STATUS_ALIGNED) = true ↔ a = 1)) ∧ (withImg (jobSt jsLoaded)).usesPile 0 = true ∧
    (∀ a ∈ [0, 1], let s := jobSt jsHalted [(dk .TB_CTL_ROOT, a)];
      readyB s (ask 0x43 []) ses = true ∧ reqParamLen (sealed (ask 0x43 [])) = 0 ∧ s.jobState = jsHalted ∧
      (s.on (dk .TB_CTL_ROOT) = true ↔ a = 1) ∧ s.job.resumeReq = none) ∧
    (let s := { jobSt jsHalted with job := { domain := some (4, 9, 3) } };
      readyB s (ask 0x43 []) ses = true ∧ s.jobState = jsHalted ∧ s.on (dk .TB_CTL_ROOT) = false ∧ s.job.domain = some (4, 9, 3)) ∧
    (∀ j ∈ [jsStarting, jsRunning, jsHalted, jsLoaded, jsAborting], readyB (jobSt j) (ask 0x44 []) ses = true ∧
      reqParamLen (sealed (ask 0x44 [])) = 0 ∧ (jobSt j).jobState = j ∧
      ((jobSt j).jobStarted = true ↔ j ≠ jsLoaded ∧ j ≠ jsAborting) ∧ (jobSt j).boot.run = none) ∧
    readyB (jobSt jsLoaded [(pk .LNK_STATUS_STATE 15 1, 9)]) (ask 0x44 []) ses = true ∧
    (jobSt jsLoaded [(pk .LNK_STATUS_STATE 15 1, 9)]).swapping = true ∧
    (jobSt jsAborting).jobState = jsAborting ∧ ((0x8001 : BitVec 16) ≠ 0 ∧ (0x8001 : BitVec 16).getLsbD 15 = true) ∧
    (let s := { jobSt jsAborting with job := { abortReqs := [req0] }, piles := [(15, { resetSrc := 2 })] };
      quietB s = true ∧ s.jobState = jsAborting ∧ s.job.abortReqs = [req0] ∧ req0.cmd ≠ abortCode ∧ s.replySession req0 = some ses ∧ (s.mailbox req0.mb).busy ≤ 1 ∧ (s.pile 15).resetSrc = 2) ∧
    (∀ j ∈ [jsLoaded, jsStopped], readyB (jobSt j) (ask 0x45 []) ses = true ∧ reqParamLen (sealed (ask 0x45 [])) = 0 ∧
      (jobSt j).jobState = j) := by decide +kernel

/-- Pile 0 in phase `i` of the small image, or at the start gate, with the given gate state. -/
def gateSt (j i : Nat) (g : GateSt) (kvs : List (FKey × Nat) := []) (finish : Nat := i) : State :=
  { withImg (jobSt j ([(pk .SW_STATUS_MODE 0, 2), (pk .GATE_STATUS_PHASE 0, i), (pk .GATE_STATUS_FINISH_PHASE 0, finish)] ++ kvs)) with
    piles := [(0, { gate := g })] }

/-- A child's token, of phase `i`. -/
def kidTok (i : Nat) : GateToken := { step := 0, phase := i, jobTag := (gateSt jsRunning i {}).jobTag, cause := 8 }

def gov1 (s : State) : State := { s with pwr := { inGate := true, floor := 5, act := 5 } }

/-- A pile's place in the tree, with no upsets. -/
def place0 (n : Nat) : TreePlace := { children := n, parent := some 64 }

theorem wit_PilesArrive : (place0 2).upsets = [] ∧ (∀ i ∈ [0, 1], let s := gateSt jsRunning i { entry := i };
      (s.pile (0 : PileId).val).gate.start = false ∧ s.phaseDone (0 : PileId).val 2 = true ∧ s.phaseDone (0 : PileId).val 1 = false) ∧
    (let s := gateSt jsStarting 0 { start := true };
      (s.pile (0 : PileId).val).gate.start = true ∧ s.jobState = jsStarting ∧ s.usesPile (0 : PileId).val = true ∧
      (s.pile (0 : PileId).val).gate.arrivedAt = none ∧ s.inputsReady (0 : PileId).val = true ∧ s.on (pk .SW_STATUS_GATE_HELD 0) = false ∧
      s.job.stopNext = false ∧ s.pwr.inGate = false ∧ s.startA (0 : PileId).val = 0 ∧
      (s.pile (0 : PileId).val).gate.kids.length < (place0 1).children ∧ (place0 0).children ≤ (s.pile (0 : PileId).val).gate.kids.length ∧ s.isRoot (0 : PileId).val = false ∧
      ({ s with job := { s.job with stopNext := true } } : State).job.stopNext = true) ∧
    (∀ i ∈ [0, 1], ∀ u ∈ [false, true],
      let s := gov1 (gateSt jsRunning i { entry := i, booked := true, kids := [(1, kidTok i)], sentUp := u });
      s.jobStarted = true ∧ (s.pile (0 : PileId).val).gate.start = false ∧ (s.pile (0 : PileId).val).gate.booked = true ∧
      s.phaseDone (0 : PileId).val 9 = true ∧ s.boundaryDue (0 : PileId).val = false ∧ s.job.stopNext = false ∧ s.pwr.inGate = true ∧
      s.pwr.since = none ∧ s.pwr.floor ≤ s.pwr.act ∧ (s.pile (0 : PileId).val).gate.kids.length < (place0 2).children ∧
      (place0 1).children ≤ (s.pile (0 : PileId).val).gate.kids.length ∧ (s.pile (0 : PileId).val).gate.sentUp = u ∧ s.isRoot (0 : PileId).val = false ∧
      0 < s.slipOf (0 : PileId).val 9 ∧ ¬ 0 < s.slipOf (0 : PileId).val 8) := by decide +kernel

theorem wit_GateTokensAct : (∀ a ∈ [none, some 9], let s := gateSt jsRunning 1 { entry := 1, arrivedAt := a } [(pk .GATE_STATUS_STATE 0, 1)];
      s.jobLoaded = true ∧ s.usesPile (0 : PileId).val = true ∧ s.ready (domSw (0 : PileId).val) = true ∧
      ({ kidTok 1 with jobTag := s.jobTag + 1 } : GateToken).jobTag ≠ s.jobTag ∧ (kidTok 1).jobTag = s.jobTag ∧ s.jobStarted = true ∧
      (kidTok 1).step = s.step ∧ (kidTok 1).phase = s.gatePhase (0 : PileId).val ∧ s.rd (pk .GATE_STATUS_STATE 0) < 2 ∧
      (∀ c ∈ (s.pile (0 : PileId).val).gate.kids, c.1 ≠ 1) ∧ (s.pile (0 : PileId).val).gate.arrivedAt = a ∧
      (s.pile (0 : PileId).val).gate.sentUp = false ∧ 1 ≤ (s.pile (0 : PileId).val).gate.kids.length + 1 ∧
      s.isRoot (0 : PileId).val = false ∧ s.takesRelease (0 : PileId).val = true) ∧
    (let s := gateSt jsHalted 1 { entry := 1 } [(pk .GATE_STATUS_STATE 0, 3)];
      s.takesRelease (0 : PileId).val = true ∧ (kidTok 1).jobTag = s.jobTag ∧ (kidTok 1).step = s.step ∧
      (kidTok 1).phase = s.gatePhase (0 : PileId).val ∧ s.ready (domSw (0 : PileId).val) = true) ∧
    (let s := gateSt jsRunning 1 {} [(dk .TB_CTL_ROOT, 1), (dk .GATE_CTL_TIMEOUT, 1), (pk .GATE_STATUS_STATE 0, 1)];
      s.on (dk .TB_CTL_ROOT) = true ∧ s.on (dk .GATE_CTL_TIMEOUT) = true ∧ s.jobStarted = true ∧ (s.pile 0).gate.rel = none ∧
      s.rd (pk .GATE_STATUS_STATE 0) < 2) ∧
    (let s := jobSt jsRunning [(dk .TB_CTL_ENABLE, 1)]; s.on (dk .TB_CTL_ENABLE) = true ∧ s.on (dk .TB_CTL_ROOT) = false ∧
      s.jobStarted = true) := by
  decide +kernel

/-- Piles that hold RELEASE of slot 20 with a verdict's code; a write waits of each kind. -/
def openSt (i : Nat) (start finish : Bool) (code : Nat) : State :=
  { gateSt jsRunning i { start := start, entry := i, rel := some (20, BitVec.ofNat 32 (code * 2 ^ 24)) }
      [(pk .GATE_STATUS_STATE 0, 2)] (if finish then 1 else 0) with
    hold := { waiting := [⟨dk .GATE_CTL_REPLAY_LIMIT, 2, true⟩, ⟨pk .SW_CTL_CHECK_MODE 0, 1, false⟩] } }

/-- The condition of `State.heldRight`, by evaluation. -/
def heldB (s : State) : Bool :=
  s.hold.waiting.all (fun w => w.key.f.spec.acc == if w.strict then .rws else .rwg) &&
  decide (s.hold.waiting.map (fun w => w.key.code)).Nodup &&
  (s.hold.frozen ++ s.hold.base ++ s.hold.log.map Prod.snd).all (fun w => w.key.f.spec.acc == .rws || w.key.f.spec.acc == .rwg)

theorem held_of {s : State} (h : heldB s = true) : s.heldRight := by
  simp only [heldB, Bool.and_eq_true, List.all_eq_true, beq_iff_eq, decide_eq_true_eq, Bool.or_eq_true] at h
  exact ⟨h.1.1, h.1.2, h.2⟩

theorem wit_GatesOpen : (∀ q ∈ [(0, true, false, 0), (0, false, false, 0), (1, false, true, 0), (1, false, true, 1), (1, false, true, 2),
        (1, false, true, 3)], let s := openSt q.1 q.2.1 q.2.2.1 q.2.2.2;
      s.opening 20 = [0] ∧ s.job.image = some img0 ∧ heldB s = true ∧ s.jobState = jsRunning ∧ s.job.replayOf = false ∧
      (∀ p ∈ s.opening 20, (s.pile p).gate.rel = some (20, BitVec.ofNat 32 (q.2.2.2 * 2 ^ 24)) ∧ s.rd (pk .GATE_STATUS_PHASE p) = q.1 ∧
        (s.pile p).gate.start = q.2.1 ∧ s.on (pk .GATE_STATUS_FINISH_PHASE p) = q.2.2.1) ∧
      (BitVec.ofNat 32 (q.2.2.2 * 2 ^ 24)).toNat / 2 ^ 24 = q.2.2.2) ∧
    (openSt 0 true false 0).sequence[0]? = some (0, 0) ∧
    ({ openSt 0 false false 0 with job := { (openSt 0 false false 0).job with phases := [(0, 0), (1, 0)] } } : State).job.phases[0 + 1]? =
      some (1, 0) ∧ (∀ n ∈ [0, 1], (img0.phases[n]?).isSome = true) := by decide +kernel

/-! ## Pile memory and spares -/

/-- The last line of pile 15's memory holds a word; it is next in the pass, or queued. -/
def groomSt (w : Codeword) (q : List Nat) : State :=
  { st [(pk .GROOM_STATUS_NEXT_LINE 15, dramLines - 1)] with
    dram := [(dramAddr 15 (dramLines - 1), w)]
    piles := [(15, { mem := { grooms := q } })] }

/-- Words that read as data, without and with a correction, and one that cannot be corrected. -/
theorem wit_words_data : (decodeWord ⟨0, 0, 0⟩).kind = .data ∧ (decodeWord ⟨0, 0, 0⟩).corrected = false ∧
    (decodeWord ⟨0, 0, 1⟩).corrected = true := by decide +kernel

theorem wit_words_lost : (decodeWord ⟨0, 0, 0x0102030405060708090A0B0C0D0E0F⟩).kind = .uncorrectable := by decide +kernel

theorem wit_MemoryAgentActs : legalB (st []) = true ∧
    (∀ q ∈ [[], [dramLines - 1, 3]], let s := groomSt ⟨0, 0, 0⟩ q;
      s.grooms (15 : PileId).val = true ∧ s.on (pk .MEM_INJECT_ARMED 15) = false ∧ s.rd (pk .GROOM_STATUS_NEXT_LINE 15) = dramLines - 1 ∧
      (s.pile (15 : PileId).val).mem.grooms = q) ∧
    ((85 : Int) * 16 < 1361 ∧ (1327 : Int) < 83 * 16 ∧ (95 : Int) * 16 < 1521 ∧ (1521 : Int) < 100 * 16 ∧ (100 : Int) * 16 ≤ 1600) ∧
    (let s := jobSt jsRunning; quietB s = true ∧ s.jobStarted = true ∧ s.boot.run = none ∧ s.on (pk .MEM_STATUS_OVER_TEMP 15) = false ∧
      stillB s (domMem 15) = true ∧ s.power (domMem 15) = 0) := by decide +kernel

/-- A row of pile 15 moves, its bank having used `n` spare rows. -/
def rowSt (n : Nat) : State :=
  { st [] with
    dram := [(dramAddr 15 (rowOf 5), ⟨0, 0, 0⟩)]
    piles := [(15, { mem := { moves := [rowOf 5], used := [(rowBank (rowOf 5), n)] } })] }

def subst0 : Subst := ⟨3, 1⟩
/-- Pile 15 at its step boundary, in a running job or in none. -/
def bndSt (j : Nat) (x : Pile) (kvs : List (FKey × Nat) := []) : State :=
  { jobSt j ((pk .GATE_STATUS_FINISH_PHASE 15, 1) :: kvs) with piles := [(15, { x with gate := { booked := true } })] }

theorem wit_SparesTake : (∀ n ∈ [655, 656], let s := rowSt n;
      (s.pile (15 : PileId).val).mem.moves = [rowOf 5] ∧ s.atBoundary (15 : PileId).val = true ∧ s.ready (domMem (15 : PileId).val) = true ∧
      s.on (pk .MEM_INJECT_ARMED 15) = false ∧ (656 ≤ SMap.getD (s.pile (15 : PileId).val).mem.used (rowBank (rowOf 5)) 0 ↔ n = 656) ∧
      (∀ l ∈ rowLines (rowOf 5), l < dramLines) ∧ (decodeWord (s.dramWord (dramAddr (15 : PileId).val (rowOf 5)))).kind = .data) ∧
    (∀ j ∈ [jsNone, jsRunning], let s := bndSt j { flt := { queue := [subst0] } };
      (s.pile (15 : PileId).val).flt.queue = [subst0] ∧ subst0.kind ≠ 0 ∧ s.atBoundary (15 : PileId).val = true ∧
      (s.pile (15 : PileId).val).flt.did = false ∧ s.logOf (15 : PileId).val subst0.phys = some 3 ∧
      (s.pile (15 : PileId).val).flt.spare = some 8 ∧ subst0.phys < 9 ∧ 8 ≠ subst0.phys) ∧
    (let x : Port := { swapLane := some 7, swapAcked := true };
      let s := { bndSt jsRunning {} [(pk .LNK_STATUS_STATE 15 1, 9)] with ports := [(31, x)] };
      s.port (15 : PileId).val (1 : XPort).val = x ∧ x.skip = false ∧ x.farLane = none ∧ x.swapWait = [] ∧
      s.rd (pk .LNK_STATUS_STATE 15 1) = 9 ∧ quietB s = true ∧ spareLane x.rxMap x.rxBad = some 8) ∧
    (let s := { bndSt jsRunning {} [(pk .BRG_STATUS_STATE 15 3, 9)] with bridges := [(63, { suspect := [2], used := [(2, 3)] })] };
      2 ∈ (s.bridge (15 : PileId).val (3 : BrgEnd).val).suspect ∧ s.rd (pk .BRG_STATUS_STATE 15 3) = 9 ∧
      SMap.getD (s.bridge (15 : PileId).val (3 : BrgEnd).val).used 2 0 + 1 ≤ 4 ∧
      4 < SMap.getD (s.bridge (15 : PileId).val (3 : BrgEnd).val).used 2 0 + 2) := by decide +kernel

/-! ## The fabric -/

/-- Slot 3 of page 0: LOC way 43 goes to way 162 and way 45 to LOC way 0. -/
def page0 : List (FKey × Nat) := [
  (pk .SW_STATUS_MODE 15, 2), (pk .PAGE_DIR_COUNT 15 0, 2), (pk .PAGE_DIR_CYCLE 15 0, 4),
  (pk .SLOT_TABLE 15 0, 2 ^ 31 + 3 * 2 ^ 20 + 51 * 2 ^ 12 + 43 * 16), (pk .SLOT_TABLE 15 1, 2 ^ 31 + 3 * 2 ^ 20 + 45 * 16)]

/-- A send of a buffer's last line and two that follow an index list; a receive into the same. -/
def sendD (cond : Nat) (idx : Nat := 0xFFFF) : SwDesc :=
  { receive := false, way := 43, space := .buf, condKind := 3 * cond, condValue := cond, firstSlot := 3, slotStride := 4, count := 2
    line := bufLines - 1, lineStride := 1, indexLine := idx }
def recvD : SwDesc := { sendD 0 with receive := true, way := 0 }

/-- Pile 15 in a phase, with its slot table and a descriptor list. -/
def fabric (ds : List SwDesc) (w : SwSt := {}) (kvs : List (FKey × Nat) := []) : State :=
  { withImg (jobSt jsRunning (page0 ++ (pk .BRG_STATUS_STATE 15 0, 7) :: (pk .BRG_STATUS_STATE 11 2, 7) :: (pk .LNK_STATUS_STATE 15 0, 7) :: kvs))
      { img0 with descLists := [⟨15, 0, ds⟩], phases := [{ length := 20, lastSlot := 9 }] } with
    piles := [(15, { gate := { openSlot := 100 }, sw := w })] }

theorem wit_SwitchMoves_sends : ∀ c ∈ [0, 1], ∀ k ∈ [0, 1], ∀ d ∈ [sendD c, sendD c 5], let s := fabric [d];
    s.swDesc (15 : PileId).val 0 = some d ∧ d.receive = false ∧ k < d.count ∧ s.inPhase (15 : PileId).val = true ∧
    s.ready (domSw (15 : PileId).val) = true ∧ s.on (pk .SW_STATUS_STAND_IN 15) = false ∧
    s.actingGroups (15 : PileId).val (d.firstSlot + k * d.slotStride) d.way ≠ [] ∧
    (s.pile (15 : PileId).val).sw.done.contains (0 * 65536 + k) = false ∧ s.listWaits (15 : PileId).val d = false ∧
    s.mustWait (15 : PileId).val d.space (s.physOf (15 : PileId).val d.tile) = false ∧
    (s.pick (15 : PileId).val d 0 = .line (bufLines - 1) ↔ d.indexLine = 0xFFFF) ∧ s.pick (15 : PileId).val d 1 = .fault ∧
    s.condMet (15 : PileId).val d = decide (c = 0) := by decide +kernel

/-- An index list whose first entry names no line. -/
theorem wit_SwitchMoves_nothing : ({ fabric [sendD 0 5] with sram := [(lsAddr 15 0 5, ⟨0xFFFF, 0, false⟩)] } : State).pick
    (15 : PileId).val (sendD 0 5) 0 = .nothing := by decide +kernel

def gon : Gondola := { body := 3, tag := 4 }

theorem wit_SwitchMoves_ingress : (let s := fabric [] { locIn := [(103 * 256 + 43, gon)] };
      s.ready (domSw (15 : PileId).val) = true ∧ s.phaseSlot (15 : PileId).val 103 = some 3 ∧
      s.awaitsRelease (15 : PileId).val = false ∧ s.on (pk .SW_STATUS_STAND_IN 15) = false ∧
      (∀ way ∈ [43, 45, 46], s.gateSlots (15 : PileId).val 3 way = [] ∧ way < 163 ∧
        (44 ≤ way → s.portDelivers (15 : PileId).val (wayPort way) = true)) ∧
      (∀ way ∈ [43, 45], ∀ e ∈ [⟨true, false, 3, if way = 43 then 51 else 0, way, false, false, false⟩],
        (s.actingGroups (15 : PileId).val 3 way).flatMap (fun grp => grp.filter SlotEntry.valid) = [e] ∧
        s.wayGondola (15 : PileId).val 103 way (some gon) = some gon) ∧
      s.wayGondola (15 : PileId).val 103 45 none = none ∧ s.portUp (15 : PileId).val (wayPort 51) = true ∧ wayPort 51 = 4 ∧
      farBridge (15 : PileId).val 0 = (11, 2) ∧ s.portUp 11 6 = true ∧
      s.actingGroups (15 : PileId).val 3 46 = [] ∧ (s.wayGondola (15 : PileId).val 103 46 (some gon)).isSome = true) ∧
    ((fabric [] {} [(pk .BRG_STATUS_STATE 15 0, 0)]).portUp (15 : PileId).val (wayPort 51) = false) ∧
    ({ fabric [] with piles := [] } : State).wayGondola (15 : PileId).val 103 43 none = none := by decide +kernel

/-- What arrives for the receive: a line, an empty gondola, and one of a reset destination. -/
theorem wit_SwitchMoves_receives : ∀ g ∈ [gon, emptyGondola false false false, emptyGondola false true false],
    let o : LocOut := ⟨g, 45, true⟩; let s := fabric [recvD] { locOut := [(103 * 256, o)] };
    s.swDesc (15 : PileId).val 0 = some recvD ∧ recvD.receive = true ∧ 0 < recvD.count ∧ s.inPhase (15 : PileId).val = true ∧
    s.ready (domSw (15 : PileId).val) = true ∧ s.on (pk .SW_STATUS_STAND_IN 15) = false ∧
    (s.pile (15 : PileId).val).sw.done.contains (0 * 65536 + 0) = false ∧
    SMap.find? (s.pile (15 : PileId).val).sw.locOut (((s.pile (15 : PileId).val).gate.openSlot + recvD.firstSlot + 0 * recvD.slotStride)
      * 256 + recvD.way) = some o ∧ s.listWaits (15 : PileId).val recvD = false ∧
    s.mustWait (15 : PileId).val recvD.space (s.physOf (15 : PileId).val recvD.tile) = false ∧
    (s.power (domMem (15 : PileId).val) ≠ 2 ∧ s.on (pk .MEM_INJECT_ARMED 15) = false) ∧ s.physOf (15 : PileId).val recvD.tile < 9 ∧
    s.pick (15 : PileId).val recvD 0 = .line (bufLines - 1) ∧ ((arriving recvD 0 o).isSome = true ↔ g = gon) := by decide +kernel

/-- A frame for pile 15 of this device. -/
def frm : UFrame := ⟨0xFFFF, 15, 4, 0, 0, 4, 7, 0, []⟩

theorem wit_UnscheduledActs : (∀ e ∈ [0, 1], let s := fabric [] {} [(dk .PWR_STATE_STATE (domMem 15), e)];
      s.ready (domSw (15 : PileId).val) = true ∧ frm.dstDev = s.deviceNo ∧ frm.dstPile = (15 : PileId).val ∧
      (s.pile (15 : PileId).val).resetSrc = 0 ∧ (s.endpointWaits (15 : PileId).val frm.dstEp = true ↔ e = 1)) ∧
    (∀ q ∈ [1, 4], ∀ n ∈ [255, 511], let s := fabric [] { hops := [(q, { rxNext := 255 })], wires := [(128 * 256 + 78, frameGondola n frm)] };
      s.portDelivers (15 : PileId).val q = true ∧ (q < 4 ∨ s.onWire (15 : PileId).val q n frm ≠ none) ∧
      (s.hop (15 : PileId).val q).rxNext = n % 256 ∧ s.heldFrom (15 : PileId).val q < (freshHop q).credits ∧
      (s.hop (15 : PileId).val q).rxNext ≠ 254 % 256) ∧
    (∀ q ∈ [1, 4], let s := fabric [] { hops := [(5, { waiting := List.replicate (freshHop q).credits (q, frm) })] };
      (freshHop q).credits ≤ s.heldFrom (15 : PileId).val q) ∧
    (let s := fabric [] { hops := [(4, { unacked := [(3, frm), (4, frm)] })], ulinks := [(4, ⟨3, 1, true⟩)] };
      s.portDelivers (15 : PileId).val 4 = true ∧ s.portDelivers (15 : PileId).val 1 = true ∧
      (4, (⟨3, 1, true⟩ : Ulink)) ∈ (s.pile (15 : PileId).val).sw.ulinks ∧ s.portUp (15 : PileId).val 4 = true) := by decide +kernel

/-- A port with something to send in a free way-slot: an acknowledgement, a frame to repeat, or a new one. -/
theorem wit_UnscheduledActs_free : ∀ h ∈ [({ acks := [⟨3, 1, true⟩] } : UHop), { unacked := [(3, frm)], again := [3] }, { waiting := [(0, frm)] }],
    let s := fabric [] { hops := [(4, h)] } [(pk .SW_CTL_UNSCHED_EN 15, 1)];
    s.ready (domSw (15 : PileId).val) = true ∧ s.phaseSlot (15 : PileId).val 103 = some 3 ∧ s.gateSlots (15 : PileId).val 3 255 = [] ∧
    s.actingGroups (15 : PileId).val 3 255 = [] ∧ s.awaitsRelease (15 : PileId).val = false ∧
    (s.pile (15 : PileId).val).sw.freeAt ≠ some (103 + 2) ∧ s.maySend (15 : PileId).val 4 = true ∧
    (s.freeWays (15 : PileId).val (103 + 2) 4).head? = some 52 ∧ s.hop (15 : PileId).val 4 = h ∧
    (∀ q ∈ [1, 2, 3, 5, 6, 7], (s.hop (15 : PileId).val q).waiting = []) ∧ h.credits ≠ 0 ∧
    (h.acks = [] → (h.unacked.filter (fun u => h.again.contains u.1)).isEmpty = false ∨ h.waiting = [(0, frm)]) := by decide +kernel

/-- A block of SEQ 0 whose third way-slot holds a gondola of zeros, and one that does not decode. -/
def goodBlk : BitVec 3808 := BitVec.ofNat 3808 (0x76543210 + 2 ^ 57 + 2517958287107237681173470439574219042329215205267097335925 * 2 ^ 3616)
def badBlk : BitVec 3808 := 0x01000200030004000500060007

theorem wit_LinksCarry_good : (decodeBlockFec (bytesLE 476 goodBlk.toNat)).isSome = true := by decide +kernel

theorem wit_LinksCarry_bad : decodeBlockFec (bytesLE 476 badBlk.toNat) = none := by decide +kernel

/-- A port in a state of its training. -/
def trainSt (n : Nat) (x : Port := {}) : State := { st [(pk .LNK_STATUS_STATE 15 1, n)] with ports := [(31, x)] }

theorem wit_LinksCarry : (∀ n ∈ [7, 8], let s := fabric [] {} [(pk .LNK_STATUS_STATE 15 1, n)];
      s.ready (domX (15 : PileId).val (1 : XPort).val) = true ∧ s.rd (pk .LNK_STATUS_STATE 15 1) = n ∧
      s.headerAgrees (15 : PileId).val (1 : XPort).val 128 (bytesLE 476 goodBlk.toNat) = true ∧
      s.headerAgrees (15 : PileId).val (1 : XPort).val 128 (bytesLE 476 badBlk.toNat) = false ∧
      s.phaseSlot (15 : PileId).val 128 = some 28 ∧ headerWord (bytesLE 476 goodBlk.toNat) / 2 ^ (23 + 2) % 2 = 1 ∧
      (gondolaFrom (((bytesLE 476 goodBlk.toNat).drop (8 + 148 * 2)).take 148)).1.tc = 0 ∧
      (gondolaFrom (((bytesLE 476 goodBlk.toNat).drop (8 + 148 * 2)).take 148)).1.gate = false ∧
      s.on (pk .GATE_STATUS_HEAD_PHASE 15) = false ∧ s.job.replayOf = false) ∧
    3 ≤ (({ fabric [] with ports := [(31, { disagree := 3 })] } : State).port (15 : PileId).val (1 : XPort).val).disagree ∧
    (let s := fabric []; s.on (pk .LNK_CTL_NEAR_LOOP 15 1) = false ∧ s.offWindow 6 = false ∧ s.offWindow (-6) = false ∧
      s.offWindow 7 = true ∧ s.offWindow (-7) = true) ∧
    (∀ b : Bool, let s := trainSt 8 { swapLane := some 4, swapAcked := b };
      s.rd (pk .LNK_STATUS_STATE 15 1) = 8 ∧ s.atBoundary (15 : PileId).val = true ∧ (s.port (15 : PileId).val (1 : XPort).val).swapDue = b) ∧
    (let s := st [(pk .LNK_CTL_NEAR_LOOP 15 1, 1)]; s.on (pk .LNK_CTL_NEAR_LOOP 15 1) = true ∧
      s.loopsBack (15 : PileId).val (1 : XPort).val 128 (bytesLE 476 badBlk.toNat) = false ∧
      s.rd (pk .LNK_STATUS_STATE 15 1) < 7 ∧ 8 < (trainSt 10).rd (pk .LNK_STATUS_STATE 15 1)) ∧
    (let s := fabric [] { wires := [(128 * 256 + 78, gon)] };
      s.portDelivers (15 : PileId).val (4 + (0 : BrgEnd).val) = true ∧ wayPort 78 = 4 + (0 : BrgEnd).val ∧
      SMap.find? (s.pile (15 : PileId).val).sw.wires (128 * 256 + 78) = some gon ∧ s.phaseSlot (15 : PileId).val 128 = some 28) ∧
    SMap.find? ((fabric []).pile (15 : PileId).val).sw.wires (128 * 256 + 78) = none ∧
    (fabric [] {} [(pk .BRG_STATUS_STATE 15 0, 9)]).portDelivers (15 : PileId).val (4 + (0 : BrgEnd).val) = false := by decide +kernel

/-- A gondola's 148 bytes, which its check wires cover. -/
def gonBytes : List Nat := 3 :: (List.replicate 127 0 ++ 4 :: (List.replicate 17 0 ++ [188, 93]))

theorem gon_bytes : gondolaBytes gon = gonBytes := by decide +kernel
theorem gon_crc : crc32 gonBytes = 315249865 := by decide +kernel
theorem gon_back : gondolaFrom gonBytes = (gon, true) := by decide +kernel
theorem gon_same : bytesLE 148 (ofLE gonBytes) = gonBytes := by decide +kernel

theorem toNat_zero_any (n : Nat) : (0 : BitVec n).toNat = 0 := by simp

theorem flipped_zero (g : Gondola) (c : BitVec 32) : (waySlot (some g)).flipped 0 c =
    ⟨false, bytesLE 148 (ofLE (gondolaBytes g)), crc32 (gondolaBytes g) ^^^ c.toNat⟩ := by
  simp only [waySlot, WaySlot.flipped, toNat_zero_any, Nat.xor_zero, Option.isNone_some]

/-- It crosses a bridge with its check wires right, and with one of them flipped. -/
theorem wit_LinksCarry_bridge : (waySlot (some gon)).flipped 0 0 = ⟨false, gonBytes, 315249865⟩ ∧
    (waySlot (some gon)).flipped 0 1 = ⟨false, gonBytes, 315249864⟩ ∧ gondolaFrom gonBytes = (gon, true) ∧ crc32 gonBytes = 315249865 := by
  refine ⟨?_, ?_, gon_back, gon_crc⟩ <;> rw [flipped_zero, gon_bytes, gon_same, gon_crc] <;> rfl

theorem wit_LinksChange : (∀ n ∈ [0, 1, 2, 3, 4, 5, 6], ∀ f ∈ [2, 3], let s := trainSt n { verFails := f };
      s.ready (domX (15 : PileId).val (1 : XPort).val) = true ∧ s.rd (pk .LNK_STATUS_STATE 15 1) = n ∧
      s.on (pk .LNK_CTL_ENABLE 15 1) = true ∧ (s.port (15 : PileId).val (1 : XPort).val).verFails = f ∧
      8 ≤ (laneMap ((s.port (15 : PileId).val (1 : XPort).val).txBad ||| lanesOf s.fused 15 1 0)).length ∧
      8 ≤ (laneMap ((s.port (15 : PileId).val (1 : XPort).val).rxBad ||| lanesOf s.fused 15 1 1)).length) ∧
    (let s := trainSt 6 { rxBad := 7 };
      (laneMap ((s.port (15 : PileId).val (1 : XPort).val).rxBad ||| lanesOf s.fused 15 1 1)).length < 8) ∧
    (∀ b : Bool, let s := trainSt 6 { swapLane := some 4, swapAcked := b };
      s.atBoundary (15 : PileId).val = true ∧ (s.port (15 : PileId).val (1 : XPort).val).swapDue = b) ∧
    (∀ n ∈ [0, 4, 5], ∀ f ∈ [2, 3], let s := { st [(pk .BRG_STATUS_STATE 15 3, n), (pk .BRG_STATUS_STATE 14 1, n)] with
        bridges := [(63, { verFails := f })] };
      (s.bridge (15 : PileId).val (3 : BrgEnd).val).verFails = f ∧
      bridgePresent (15 : PileId).val (3 : BrgEnd).val = true ∧ s.ready (domB (15 : PileId).val (3 : BrgEnd).val) = true ∧
      farBridge (15 : PileId).val (3 : BrgEnd).val = (14, 1) ∧ s.ready (domB 14 1) = true ∧
      s.rd (pk .BRG_STATUS_STATE 15 3) = n ∧ s.rd (pk .BRG_STATUS_STATE 14 1) ≠ 10) ∧
    (∀ j ∈ [jsNone, jsLoaded, jsRunning], let s := jobSt j [(pk .LNK_STATUS_STATE 15 1, 8)];
      s.rd (pk .LNK_STATUS_STATE 15 1) = 8 ∧ (s.jobLoaded = true ↔ j ≠ jsNone) ∧ s.on (dk .TB_STATUS_LOCKED) = false) ∧
    (∀ n ∈ [7, 8, 9], let s := trainSt n { swapLane := some 4 };
      s.portUp (15 : PileId).val (2 + (1 : XPort).val) = true ∧ s.jobLoaded = false ∧
      (s.port (15 : PileId).val (1 : XPort).val).swapLane ≠ none ∧ s.atBoundary (15 : PileId).val = true ∧
      (s.port (15 : PileId).val (1 : XPort).val).swapAcked = false ∧ (s.port (15 : PileId).val (1 : XPort).val).skip = false ∧
      (s.port (15 : PileId).val (1 : XPort).val).farLane = none) := by decide +kernel

/-! ## The reduction and update engine -/

/-- Buckets, contributions, a layer and a shard of pile 15. -/
def bkt (comp id : Nat) : Bucket :=
  { id := id, ownerDev := 0, ownerPile := 15, comp := comp, topkF := 8, blocks := 1, tracker := 0, contrib := 2, gradTid := 7
    accSpace := .buf, accLine := 0, outLine := dramLines - 8 }
def lay : LayerRec :=
  { layerId := 0, rule := 0, copyFwd := 0, copyBwd := 0, lrSched := 0, wdSched := 0, b1Sched := 0, b2Sched := 0, eps := 0, lrScale := 0
    g2Sum := 0, w2Sum := 1, encIdx := 0, rows := 1, cols := 256, shardIdx := 0, shards := 1 }
def shd : ShardRec := { id := 0, firstBlock := 0, blocks := 1, stateLine := dramLines - 64, vstride := 32, gLine := 100, ownerDev := 0, ownerPile := 15 }
def rueImg : Image :=
  { img0 with
    buckets := [bkt 0 0, bkt 1 1, bkt 2 2]
    contribs := [⟨0, 0, 15, 0, 100, bufLines - 1⟩, ⟨1, 1, 15, 8, 100, 0⟩, ⟨2, 1, 15, 8, 100, 0⟩]
    update := { layers := [lay], shards := [shd], schedules := [.const 0], encs := [⟨1, 0xFFF, 0, false, false, 0⟩] } }
def rueSt (kvs : List (FKey × Nat) := []) (r : RueSt := {}) : State :=
  { withImg (jobSt jsRunning ((pk .SW_STATUS_MODE 15, 2) :: kvs)) rueImg with piles := [(15, { rue := r })] }

/-- The conditions of `State.RueGo`, by evaluation. -/
def rueB (s : State) (p : Nat) : Bool :=
  s.inPhase p && s.ready (domCtl p) && (s.pile p).resetSrc == 0 && !s.mustWait p .dram 0 && !s.mustWait p .buf 0 &&
  s.power (domMem p) != 2 && !s.on (pk .MEM_INJECT_ARMED p)

theorem rueGo_of {s : State} {p : Nat} {b : Bool} (h : rueB s p = true) : s.RueGo p b := by
  simp only [rueB, Bool.and_eq_true, beq_iff_eq, bne_iff_ne, Bool.not_eq_true'] at h
  obtain ⟨⟨⟨⟨⟨⟨h1, h2⟩, h3⟩, h4⟩, h5⟩, h6⟩, h7⟩ := h
  exact ⟨h1, h2, h3, h4, fun _ => h5, h6, h7⟩

theorem wit_ReductionsRun : rueB (rueSt []) 15 = true ∧ (rueSt []).job.image = some rueImg ∧
    (∀ id ∈ [0, 1, 2], bucketOf rueImg id = some (bkt id id)) ∧
    (∀ q ∈ [(0, 0), (1, 1), (2, 1)], ∀ c ∈ [rueImg.contribs[q.1]?],
      rueImg.contribs.find? (fun c => c.bucket == q.1 && c.index == q.2 && c.pile == (15 : PileId).val) = c ∧ c.isSome = true) ∧
    (bkt 0 0).ownerDev = rueImg.device ∧ (bkt 0 0).ownerPile = (15 : PileId).val ∧
    (∀ n ∈ [1, 2], ((rueSt [] { bkts := [(0, { received := n })] }).bktRun (15 : PileId).val 0) = some { received := n }) ∧
    (bkt 0 0).outLine + 7 < dramLines := by decide +kernel

/-- A phase marked REDUCE; the fused result in the pile buffer, from its first line. -/
def redImg : Image := { rueImg with
  buckets := [{ bkt 0 0 with outLine := 100 }], phases := [{ length := 8, lastSlot := 1, page := 2, reduce := true }] }
def fusedSt (l : Line) (cs : List Contribution := []) (v : Nat := 0) : State :=
  { rueSt [(pk .RED_STATUS_FUSED_VALID 15, 1), (pk .UPD_STATUS_VER_SEL 15, v)] { verd := [(0, l)] } with
    sram := if l = blankLine then [] else [(bufAddr 15 0, l)]
    job := { image := some { rueImg with contribs := cs } } }

theorem wit_UpdatesRun : (∀ i ∈ [rueImg, redImg], ∀ r ∈ [[], [0, 1, 2]], ∀ z ∈ [0, 1],
      let s := withImg (rueSt [(pk .RED_STATUS_SEALED 15, z)] { readOut := r }) i;
      rueB s 15 = true ∧ s.job.image = some i ∧ i.update.layers[0]? = some lay ∧ s.ownShards i (15 : PileId).val lay = [shd] ∧
      (s.passOneNow (15 : PileId).val i lay = true ↔ i = redImg ∧ r = [0, 1, 2] ∧ z = 0)) ∧ lay.g2Sum ≠ lay.w2Sum ∧ lay.g2Sum ≠ lay.u2Sum ∧
    ((rueSt [] {}).job.image = some rueImg ∧ (rueSt [] {}).fusedHere (15 : PileId).val rueImg = false) ∧
    (∀ v ∈ [0, 1], ∀ l ∈ [blankLine, ⟨0, 0, false⟩], ∀ cs ∈ [[], rueImg.contribs],
      let i := { rueImg with contribs := cs }; let s := fusedSt l cs v;
      rueB s 15 = true ∧ s.job.image = some i ∧ i.update.layers[0]? = some lay ∧ s.ownShards i (15 : PileId).val lay = [shd] ∧
      s.fusedHere (15 : PileId).val i = true ∧ s.ver (15 : PileId).val = v ∧
      (suppresses ((List.range (1 + extLines i.update)).map (fun k =>
        s.rueLine (15 : PileId).val .buf ((i.fused.map FusedDecl.fusedLine).getD 0 + k))) = true ↔ l = blankLine) ∧
      shardBase shd (1 - s.ver (15 : PileId).val) < dramLines) ∧
    stateLines lay.rule shd.blocks ≤ shd.vstride ∧ shd.stateLine + 2 * shd.vstride ≤ dramLines ∧
    ∀ c ∈ ({ rueImg with contribs := [] } : Image).contribs, c.pile ≠ (15 : PileId).val := by decide +kernel

/-! ## Tiles -/

/-- The 256 bits of a bundle. -/
def bun (c a v m imm : Nat) : Nat := c * 2 ^ 224 + a * 2 ^ 160 + v * 2 ^ 96 + m * 2 ^ 32 + imm

/-- Tile T8 of pile 15 in a running phase with a bundle at PC. Its region of 64 lines holds the bundle, and then an operation
descriptor, a mover descriptor and an encode descriptor. -/
def tileSt (w : Nat) (x : Tile := {}) (kvs : List (FKey × Nat) := []) (desc : Nat × Nat × Nat := (0, 0, 0)) : State :=
  { withImg (jobSt jsRunning ([(pk .SW_STATUS_MODE 15, 2), (tk .TSQ_STATUS_RUN 15 8, 1), (tk .TSQ_LAYOUT_OPD_LINE 15 8, 1),
      (tk .TSQ_LAYOUT_MVD_LINE 15 8, 2), (tk .TSQ_LAYOUT_ENC_LINE 15 8, 3)] ++ kvs)) with
    tiles := [(143, { x with region := 64, bundles := 4, opds := 1, mvds := 1, encs := 1 })]
    sram := (if w = 0 then [] else [(lsAddr 15 8 32704, ⟨BitVec.ofNat 1024 w, 0, false⟩)]) ++
      (if desc.1 = 0 then [] else [(lsAddr 15 8 32705, ⟨BitVec.ofNat 1024 desc.1, 0, false⟩)]) ++
      (if desc.2.1 = 0 then [] else [(lsAddr 15 8 32706, ⟨BitVec.ofNat 1024 desc.2.1, 0, false⟩)]) ++
      (if desc.2.2 = 0 then [] else [(lsAddr 15 8 32707, ⟨BitVec.ofNat 1024 desc.2.2, 0, false⟩)]) }

/-- The conditions of `State.Issues` at T8 of pile 15, by evaluation. -/
def issuesB (s : State) : Bool :=
  s.seqGo 15 8 && !s.faultMode 15 8 && ((s.tile 15 8).issued.checked || s.bundleFaults 15 8 (s.bundle 15 8) false == []) &&
  ((s.tile 15 8).issued.started || s.heldBy 15 8 (s.bundle 15 8) == 0)

theorem issues_of {s : State} (h : issuesB s = true) : s.Issues 15 8 (s.bundle 15 8) := by
  simp only [issuesB, Bool.and_eq_true, Bool.or_eq_true, beq_iff_eq, Bool.not_eq_true'] at h
  exact ⟨h.1.1.1, h.1.1.2, rfl, h.1.2, h.2⟩

/-- The conditions of `State.IssuesLast`, by evaluation. -/
def lastB (s : State) : Bool :=
  s.seqGo 15 8 && ((s.tile 15 8).issued.checked || s.bundleFaults 15 8 (s.bundle 15 8) (s.faultMode 15 8) == []) &&
  ((s.tile 15 8).issued.started || s.faultMode 15 8 || s.heldBy 15 8 (s.bundle 15 8) == 0) && s.slotsDone 15 8 (s.bundle 15 8)

theorem last_of {s : State} (h : lastB s = true) : s.IssuesLast 15 8 (s.bundle 15 8) := by
  simp only [lastB, Bool.and_eq_true, Bool.or_eq_true, beq_iff_eq] at h
  exact ⟨h.1.1.1, rfl, h.1.1.2, or_assoc.mp h.1.2, h.2⟩

/-- Control slots: every operation, with each of its forms. -/
def ctlSlots : List (Nat × Nat) :=
  [(0, 0), (1 * 2 ^ 27 + 9, 0), (1 * 2 ^ 27 + 2 ^ 26, 0), (2 * 2 ^ 27 + 15 * 2 ^ 23 + 0x8000, 0), (2 * 2 ^ 27 + 2 ^ 22, 5)] ++
  (List.range 8).map (fun f => (3 * 2 ^ 27 + 2 ^ 23 + f * 2 ^ 12 + 2 ^ 11 + 1, 0)) ++
  [3, 0x1F, 0x20, 0x21, 0x22, 0x23, 0x24].map (fun q => (4 * 2 ^ 27 + q, 0)) ++
  [(5 * 2 ^ 27 + 3 * 2 ^ 25 + 2, 0), (5 * 2 ^ 27 + 2, 7), (5 * 2 ^ 27 + 2 ^ 24 + 15 * 2 ^ 20 + 1, 0)] ++
  (List.range 7).map (fun q => (6 * 2 ^ 27 + q * 2 ^ 16 + 8191, 0)) ++ [(7 * 2 ^ 27, 0), (7 * 2 ^ 27 + 1, 0)]

theorem wit_ControlSlotIssues : (∀ q ∈ ctlSlots, let s := tileSt (bun q.1 0 0 0 q.2);
      lastB s = true ∧ cop (s.bundle 15 8) = q.1 / 2 ^ 27 ∧ (s.bundle 15 8).imm = q.2) ∧
    (let s := tileSt (bun (7 * 2 ^ 27) (2 ^ 60) 0 0 0) {} [(tk .TSQ_STATUS_FAULT_MODE 15 8, 1)]; lastB s = true ∧
      s.faultMode 15 8 = true) := by decide +kernel

/-- A WAIT for SYNC 0, and one that asks for more. -/
def waitB (v : Nat) : Nat := 2 * 2 ^ 60 + v * 2 ^ 38
def waiting : State := tileSt (bun 0 0 0 (waitB 1) 0)

theorem wit_BundlesHoldAndFault : (let s := tileSt (bun 0 0 0 0 0);
      issuesB s = true ∧ aop (s.bundle 15 8) = 0 ∧ (vslot (s.bundle 15 8)).vop = 0 ∧ mop (s.bundle 15 8) = 0 ∧
      (s.tile 15 8).issued = {}) ∧ (issuesB (tileSt (bun 0 0 0 (waitB 0) 0)) = true) ∧
    mop ((tileSt (bun 0 0 0 (waitB 0) 0)).bundle 15 8) = 2 ∧
    (waiting.seqGo 15 8 = true ∧ (waiting.tile 15 8).issued.started = false ∧
      waiting.bundleFaults 15 8 (waiting.bundle 15 8) (waiting.faultMode 15 8) = [] ∧ waiting.faultMode 15 8 = false ∧
      waiting.heldBy 15 8 (waiting.bundle 15 8) ≠ 0 ∧ mop (waiting.bundle 15 8) = 2 ∧
      waiting.waitMet 15 8 (waiting.bundle 15 8) = false ∧ waiting.on (tk .TSQ_WAIT_LIMIT 15 8) = true ∧
      waiting.on (tk .TSQ_FAULT_VALID 15 8) = false) ∧
    (∀ c ∈ [8 * 2 ^ 27, 0], ∀ v ∈ [0, 1], let s := tileSt (bun c (3 * 2 ^ 60) 0 0 0) {} [(tk .TSQ_FAULT_VALID 15 8, v)];
      s.seqGo 15 8 = true ∧ (s.tile 15 8).issued.checked = false ∧ s.bundleFaults 15 8 (s.bundle 15 8) (s.faultMode 15 8) ≠ [] ∧
      (s.cFaults 15 8 (s.bundle 15 8) = [] ↔ c = 0) ∧ (s.on (tk .TSQ_FAULT_VALID 15 8) = true ↔ v = 1)) ∧
    (∀ q ∈ [[], [(⟨0, 0, 0, .dram, .ls, 0, 0, false, false, false, 0, 0, 0, 1, 1, 0, 0, 0, 0⟩ : MvOp)]],
      let s := tileSt 0 { queue := q } [(tk .TSQ_STATUS_IN_GATE 15 8, 1)];
      s.inGateWait 15 8 = true ∧ (s.drained 15 8 = true ↔ q = []) ∧ s.on (tk .TSQ_WAIT_LIMIT 15 8) = true ∧
      s.on (tk .TSQ_FAULT_VALID 15 8) = false) := by decide +kernel

/-- A descriptor as the mover queues it: it reads at 100 and writes at 200 in its own tile, with an index list at line 300. -/
def mv (typ : Nat) (src : Space) (ahead crossed : Bool := false) (done : Int := 0) : MvOp :=
  ⟨0, typ, 4, src, .ls, 15, 15, true, ahead, crossed, 15, 100, 200, 2, 3, 2, 2, 300, done⟩
/-- Lines that a mover has read and not written, of its first descriptor. -/
def onWay (sp : Space) : List InFlight := [⟨0, 90, sp, 8, 500, relLine⟩]
/-- The list moves one run, skips one and names one outside the store; with a descriptor before it whose line is on its way, or none. -/
def moveSt (q : MvOp) (before : Bool) : State :=
  { tileSt 0 (if before then { queue := [mv 0 .dram, q], begun := 1, mover := .moving, flight := onWay .ls } else { queue := [q] }) with
    sram := [(lsAddr 15 8 300, ⟨BitVec.ofNat 1024 (1 + 0xFFFF * 2 ^ 16 + 40000 * 2 ^ 32), 0, false⟩)] }

/-- The conditions of `State.MoveGo` at T8 of pile 15, by evaluation. -/
def moveB (s : State) (q : MvOp) : Bool :=
  let o := s.mvPlaced 15 8 q
  let js := List.range o.count1
  let is := List.range o.count0
  (s.tile 15 8).nextMove == some q && (s.tile 15 8).mover == (s.tile 15 8).moverRests && s.unitsRun 15 8 &&
  !s.mustWait 15 o.srcSpace o.srcTile && !s.mustWait 15 o.dstSpace o.dstTile && s.mvSpan 15 8 q == [] && decide (o.dstTile < 9) &&
  s.power (domMem 15) != 2 && !s.on (pk .MEM_INJECT_ARMED 15) &&
  decide (∀ w ∈ (s.tile 15 8).flight, ∀ j ∈ js, ∀ i ∈ is,
    (∀ b ∈ (s.moveFrom 15 8 o j i).toList, homeOf 15 w.space w.tile w.at' ≠ homeOf 15 o.srcSpace o.srcTile b) ∧
    (o.typ = 0 ∨ homeOf 15 w.space w.tile w.at' ≠ homeOf 15 .ls 8 (o.indexLine + j / 64))) &&
  decide (∀ j ∈ js, ∀ i ∈ is, ∀ a ∈ (s.moveTo 15 8 o j i).toList,
    (∀ j' ∈ js, ∀ i' ∈ is, (∀ b ∈ (s.moveTo 15 8 o j' i').toList,
      homeOf 15 o.dstSpace o.dstTile a = homeOf 15 o.dstSpace o.dstTile b → j = j' ∧ i = i') ∧
      ∀ b ∈ (s.moveFrom 15 8 o j' i').toList, homeOf 15 o.dstSpace o.dstTile a ≠ homeOf 15 o.srcSpace o.srcTile b) ∧
    (o.typ = 0 ∨ ∀ j' ∈ js, homeOf 15 o.dstSpace o.dstTile a ≠ homeOf 15 .ls 8 (o.indexLine + j' / 64)))

theorem moveGo_of {s : State} {q : MvOp} (h : moveB s q = true) : s.MoveGo 15 8 q (s.mvPlaced 15 8 q) := by
  simp only [moveB, Bool.and_eq_true, beq_iff_eq, bne_iff_ne, Bool.not_eq_true', decide_eq_true_eq, List.mem_range, Option.mem_toList] at h
  obtain ⟨⟨⟨⟨⟨⟨⟨⟨⟨⟨h1, h2⟩, h3⟩, h4⟩, h5⟩, h6⟩, h7⟩, h8⟩, h9⟩, hc⟩, h10⟩ := h
  refine ⟨h1, rfl, h2, h3, h4, h5, h6, h7, fun _ => ⟨h8, h9⟩, ?_, ?_, ?_, ?_⟩
  · exact fun w hw j i hj hi => hc w hw j hj i hi
  · intro j i j' i' a b hj hi hj' hi' ha hb
    exact ((h10 j hj i hi a ha).1 j' hj' i' hi').1 b hb
  · intro j i j' i' a b hj hi hj' hi' ha hb
    exact ((h10 j hj i hi a ha).1 j' hj' i' hi').2 b hb
  · intro j i j' a hj hi hj' ha
    exact (h10 j hj i hi a ha).2.imp_right (fun h => h j' hj')

/-- A mover descriptor of the program region. -/
def mvWord : Nat := ofLE ([0x40, 0x22, 0xFF, 0x6F] ++ bytesLE 4 100 ++ bytesLE 4 200 ++ [2, 0, 3, 0] ++ bytesLE 4 2 ++ bytesLE 4 2)

theorem wit_MoversRun : (let s := tileSt (bun 0 0 0 (2 ^ 60) 0) {} [] (0, mvWord, 0);
      issuesB s = true ∧ mop (s.bundle 15 8) = 1 ∧ (s.tile 15 8).issued.m = false) ∧
    (∀ q ∈ [mv 0 .dram, mv 1 .ls, mv 2 .ls], ∀ b ∈ [false, true], legalB (moveSt q b) = true ∧ moveB (moveSt q b) q = true) := by
  decide +kernel

/-- T8 of pile 15 with two descriptors of which the second completes first, the first `n` of them started, and lines on their way. -/
def doneSt (a c : Bool) (n : Nat) (fl : List InFlight) (e : Nat) : State :=
  tileSt 0 { queue := [mv 0 .dram a c 95, mv 0 .dram a c 93], mover := .moving, begun := n, flight := fl } [(dk .PWR_STATE_STATE (domMem 15), e)]

theorem wit_MoversRun_done : ∀ a ∈ [false, true], ∀ c ∈ [false, true], ∀ n ∈ [1, 2], ∀ fl ∈ [[], onWay .dram, onWay .ls], ∀ e ∈ [0, 1],
    let s := doneSt a c n fl e
    let y := s.tile 15 8
    y.begun = n ∧ s.unitsRun 15 8 = true ∧ y.firstDone = n - 1 ∧ y.queue[y.firstDone]? = some (mv 0 .dram a c (if n = 1 then 95 else 93)) ∧
    (s.dom (domTile 15 8)).retDue = false ∧ s.on (pk .MEM_INJECT_ARMED 15) = false ∧
    (landing (doneDue y.firstDone (mv 0 .dram a c (if n = 1 then 95 else 93))) y.flight).1 = fl ∧
    ((∃ w ∈ fl, s.mustWait 15 w.space w.tile = true) ↔ e = 1 ∧ fl = onWay .dram) ∧ (s.power (domMem 15) ≠ 2) ∧
    (∀ w ∈ fl, w.at' < Space.lines w.space ∧ w.tile < 9) := by decide +kernel

/-- An operation descriptor of one block each way, and the encode descriptor it names. -/
def opWord : Nat := ofLE ([1, 0, 1, 0, 1, 0, 0x44, 0x44] ++ List.replicate 8 0 ++ [0, 0, 0, 0, 0, 0, 10, 0, 0, 0, 0, 0, 20, 0])
def encWord : Nat := 0xFFF44000
/-- An AMM of array `a`, with an array as it stands. -/
def ammSt (a : Nat) (x : Arr) : State :=
  tileSt (bun 0 (2 ^ 60 + a * 2 ^ 58) 0 0 0) { fa := x, bda := x, bwa := x } [] (opWord, 0, encWord)
def op0 : ArrOp := (ammSt 0 {}).arrOp 15 8 ((ammSt 0 {}).bundle 15 8) 0
def res0 : ArrResult := ⟨[(lsLines - 1, relLine), (lsLines - 1, blankLine)], {}, [⟨true, 0, 0, 0, 0⟩], 0, 1, 1, 0, 0⟩

theorem wit_ArraysRun : (∀ a ∈ [0, 1, 2], ∀ y ∈ [({} : Arr), { running := [(op0, res0)] }], let s := ammSt a y;
      issuesB s = true ∧ aop (s.bundle 15 8) = 1 ∧ aArr (s.bundle 15 8) = a ∧ (s.tile 15 8).issued.a = false ∧ (s.tile 15 8).arr a = y) ∧
    (∀ a ∈ ([0, 1, 2] : List ArrId), let y : Arr := { running := [(op0, res0), (op0, res0)], pending := some op0 }; let s := ammSt 0 y;
      ((s.tile 15 8).arr a.val).pending = some op0 ∧ s.unitsRun 15 8 = true ∧ ((s.tile 15 8).arr a.val).running.length < 3 ∧
      ((s.tile 15 8).arr a.val).running = (op0, res0) :: [(op0, res0)] ∧ (∀ w ∈ res0.writes, w.1 < lsLines) ∧ res0.fails ≠ []) := by
  decide +kernel

/-- A vector slot under predicate P1, where a predicate acts on it. -/
def vs (vop vd va vb vc fn sx sy : Nat) : Nat :=
  vop * 2 ^ 56 + vd * 2 ^ 51 + va * 2 ^ 46 + vb * 2 ^ 41 + vc * 2 ^ 36 + (if vNoPred vop then 0 else 2 ^ 33) + fn * 2 ^ 16 + sx * 2 ^ 12 + sy * 2 ^ 8
/-- A vector bundle, its VA holding `n` in every lane and P1 as given. -/
def vecSt (v imm : Nat) (q : PReg := ⟨5, 2⟩) (n : Word := 0) : State :=
  tileSt (bun 0 0 v 0 imm) { vregs := [(1, List.replicate 256 ⟨n, false⟩)], pregs := [(1, q)] } [] (0, 0, encWord)

/-- The hypotheses that statements on vector operations share. -/
def vecB (s : State) (vop : Nat) : Bool :=
  issuesB s && (vslot (s.bundle 15 8)).vop == vop && !(s.tile 15 8).issued.v && s.vFaults 15 8 (s.bundle 15 8) == []

theorem issuesV_of {s : State} {vop : Nat} (h : vecB s vop = true) :
    s.IssuesV 15 8 (s.bundle 15 8) (vslot (s.bundle 15 8)) ∧ (vslot (s.bundle 15 8)).vop = vop ∧ s.vFaults 15 8 (s.bundle 15 8) = [] := by
  simp only [vecB, Bool.and_eq_true, beq_iff_eq, Bool.not_eq_true'] at h
  exact ⟨⟨issues_of h.1.1.1, rfl, h.1.2⟩, h.1.1.2, h.2⟩

/-- Lane operations. -/
def laneSlots : List (Nat × Nat) :=
  [1, 2, 3, 5, 6].map (fun n => (n, vs n 3 1 2 0 0 0 0)) ++ [(4, vs 4 3 1 2 4 0 0 0), (7, vs 7 3 1 0 0 0 0 0), (8, vs 8 31 1 0 0 0 0 0),
    (0x11, vs 0x11 3 1 2 0 7 0 0), (0x18, vs 0x18 3 1 0 0 0 0 0), (0x18, vs 0x18 3 1 0 0 1 0 0), (0x20, vs 0x20 3 1 0 0 11 0 0),
    (0x34, vs 0x34 3 15 0 0 0 0 0), (0x3C, vs 0x3C 3 1 0 0 6 0 0), (0x48, vs 0x48 3 0 0 0 0 0 0), (0x49, vs 0x49 3 0 0 0 0 15 0)]

theorem wit_LanesCompute : ∀ q ∈ laneSlots, vecB (vecSt q.2 7) q.1 = true := by decide +kernel

/-- The other operations that R121 speaks of. -/
def outSlots : List (Nat × Nat) :=
  [(0x10, vs 0x10 7 1 2 0 6 0 0), (0x28, vs 0x28 15 1 0 0 0 0 0), (0x29, vs 0x29 15 1 0 0 0 0 0), (0x2A, vs 0x2A 3 1 0 0 255 0 0),
   (0x2B, vs 0x2B 3 1 0 0 255 0 0), (0x30, vs 0x30 1 2 3 0 0 0 0), (0x31, vs 0x31 1 2 3 0 0 0 0), (0x32, vs 0x32 1 2 3 0 0 0 0),
   (0x33, vs 0x33 3 1 0 0 255 0 0), (0x35, vs 0x35 3 1 0 0 255 0 0), (0x38, vs 0x38 3 1 0 4 8 0 0), (0x38, vs 0x38 3 1 0 3 24 0 0)]

theorem wit_InactiveLanesStayOut : ∀ q ∈ outSlots, vecB (vecSt q.2 0) q.1 = true := by decide +kernel

/-- VMAXR as its slot is read. -/
def maxr : VSlot := ⟨0x2A, 3, 1, 0, 0, 1, false, 255, 0, 0, 0, false⟩
def maxrW : Nat := vs 0x2A 3 1 0 0 255 0 0

/-- No lane is active, or two are, with and without a NaN (the last for LanesCompute too). -/
theorem wit_InactiveLanes_none : vslot ((vecSt maxrW 0 ⟨0, 0⟩).bundle 15 8) = maxr ∧
    ∀ i ∈ List.range 256, (vecSt maxrW 0 ⟨0, 0⟩).laneOn 15 8 maxr i = false := by decide +kernel

theorem two_active : (vecSt maxrW 0 ⟨5, 0⟩ 0x7FC00000).activeLanes 15 8 maxr = [0, 2] ∧
    (vecSt maxrW 0 ⟨5, 0⟩ 0x80000000).activeLanes 15 8 maxr = [0, 2] := by decide +kernel

theorem wit_LanesCompute_nan : (∀ n ∈ [(0x80000000 : Word), 0x7FC00000],
      (vecSt maxrW 0 ⟨5, 0⟩ n).reduced 15 8 maxr = [⟨n, false⟩, ⟨n, false⟩]) ∧
    (num32 0x80000000).isNan = false ∧ (num32 0x7FC00000).isNan = true := by
  refine ⟨?_, by decide +kernel⟩
  intro n hn
  simp only [List.mem_cons, List.not_mem_nil, or_false] at hn
  obtain rfl | rfl := hn
  · rw [State.reduced, two_active.2]; decide +kernel
  · rw [State.reduced, two_active.1]; decide +kernel

theorem wit_VectorMemoryActs : ∀ q ∈ [(0x40, vs 0x40 3 0 4 0 (0x8000 + 32000) 0 0), (0x41, vs 0x41 0 1 0 0 0 0 14), (0x42, vs 0x42 7 0 3 0 32703 0 0),
    (0x43, vs 0x43 0 1 0 0 32700 0 0), (0x4C, vs 0x4C 0 0 0 0 0 0 0)], vecB (vecSt q.2 0) q.1 = true := by
  decide +kernel

/-! ## Ill-formed operands -/

/-- A request of a code with good parameters, and one whose parameters differ in a byte. -/
def bent (code : Nat) (ps : List Nat) : LiftMsg := ask code (255 :: ps.drop 1)

/-- A HELLO with a field of its header too wide. -/
def wideHeads : List LiftMsg := let m := note tyHello []; [
  { m with port := 2 ^ 16 }, { m with magic := 2 ^ 16 }, { m with version := 2 ^ 8 }, { m with session := 2 ^ 32 }, { m with seq := 2 ^ 64 },
  { m with ack := 2 ^ 64 }, { m with credit := 2 ^ 64 }, { m with mailbox := 2 ^ 8 }, { m with flags := 2 ^ 8 },
  { m with length := 2 ^ 16 }, { m with rsvd := 2 ^ 32 }, { m with vid := some (2 ^ 12) }]

/-- Rows of a message of one type, given one of another. -/
def wrongTypes : List Instr := let m := note 0x7F []; [
  .hello m, .confirm m, .ackOnly m, .keepalive m, .close true m, .bulkData m, .eventAck m, .deviceInfo m, .unknownCommand m]

/-- Requests of another code than their row's. -/
def wrongCodes : List Instr := let m := ask 0x7FFF (List.replicate 8 0); [
  .deviceInfo m, .identity m, .attest m 0, .bundleLoad m 0 0, .debugChallenge m 0, .debugUnlock m (List.replicate 288 0), .deviceReset m,
  .netConfig m ⟨0, 0, 0, 0, 0, 0, 0⟩, .memWrite m ⟨0, 0, 0, false, 0⟩, .memRead m ⟨0, 0, 0, 0, false, 0⟩, .memFill m ⟨0, 0, 0, 0, 0, 0, 0⟩,
  .tagWrite m 0 0 0, .domainSet m 0 0 0, .bringup m 0 0, .waxRead m 0, .spareList m, .spareCommit m [], .pileReset m 0, .powerSet m 0 0,
  .jobStart m 0 0, .inputReady m 0, .resume m, .abort m, .jobUnload m, .jobStatus m, .fetch m 0 0 0, .listObjects m 0,
  .records m ⟨0, 0, 0, 0, 0⟩, .pileHealth m 0]

/-- Requests whose parameters are not the operands. -/
def wrongParams : List Instr := [
  .attest (bent 3 (List.replicate 32 0)) 0, .bundleLoad (bent 4 (List.replicate 16 0)) 0 0, .debugChallenge (bent 5 (List.replicate 8 0)) 0,
  .debugUnlock (bent 6 (List.replicate 288 0)) (List.replicate 288 0), .bringup (bent 0x31 (List.replicate 8 0)) 0 0,
  .waxRead (bent 0x32 (List.replicate 8 0)) 0, .pileReset (bent 0x35 (List.replicate 8 0)) 0, .powerSet (bent 0x36 (List.replicate 8 0)) 0 0,
  .jobLoad (bent 0x40 (List.replicate 16 0)) 0 0 {} {}, .jobStart (bent 0x41 (List.replicate 16 0)) 0 0,
  .inputReady (bent 0x42 (List.replicate 8 0)) 0, .fetch (bent 0x50 (List.replicate 32 0)) 0 0 0,
  .records (bent 0x52 (List.replicate 16 0)) ⟨0, 0, 0, 0, 0⟩, .pileHealth (bent 0x53 (List.replicate 8 0)) 0]

/-- Register requests: parameters that are not the operand's, and a name that is another row's. -/
def wrongRegs : List Instr :=
  let r := regReq "TB_SLOT" 0 0 0 1 0 0
  let m (code : Nat) (r : RegReq) := ask code r.bytes
  [.regRead (bent 0x10 r.bytes) r, .regWrite (bent 0x11 r.bytes) r, .hpCtl (m 0x11 r) r, .tbCtlEnable (m 0x11 r) r,
   .lnkCtlEnable (m 0x11 r) r, .memInject (m 0x11 r) r, .memBucketCtl (m 0x11 r) r, .padRelease (m 0x11 r) r] ++
  ownRows.map (fun n => let x := regReq n 0 0 0 1 0 0; .regWrite (m 0x11 x) x)

/-- Operands of requests beyond their widths. -/
def wideParams : List Instr := let m (code n : Nat) := ask code (List.replicate n 0); [
  .bundleLoad (m 4 0) (2 ^ 32) 0, .bundleLoad (m 4 0) 0 (2 ^ 64), .debugUnlock (m 6 0) [], .netConfig (m 8 0) ⟨0, 256, 0, 0, 0, 0, 0⟩,
  .netConfig (m 8 0) ⟨0, 0, 0, 0, 256, 0, 0⟩, .netConfig (m 8 0) ⟨0, 0, 0, 0, 0, 0, 2 ^ 16⟩, .memWrite (m 0x20 0) ⟨256, 0, 0, false, 0⟩,
  .memWrite (m 0x20 0) ⟨0, 0, 0, false, 2 ^ 32⟩, .memRead (m 0x21 0) ⟨256, 0, 0, 0, false, 0⟩, .memRead (m 0x21 0) ⟨0, 256, 0, 0, false, 0⟩,
  .memRead (m 0x21 0) ⟨0, 0, 0, 0, false, 2 ^ 32⟩, .memFill (m 0x22 0) ⟨256, 0, 0, 0, 0, 0, 0⟩, .memFill (m 0x22 0) ⟨0, 0, 0, 256, 0, 0, 0⟩,
  .memFill (m 0x22 0) ⟨0, 0, 0, 0, 256, 0, 0⟩, .tagWrite (m 0x23 0) 256 0 0, .domainSet (m 0x30 0) (2 ^ 32) 0 0,
  .domainSet (m 0x30 0) 0 (2 ^ 32) 0, .domainSet (m 0x30 0) 0 0 (2 ^ 32), .bringup (m 0x31 0) (2 ^ 32) 0, .waxRead (m 0x32 0) (2 ^ 32),
  .spareCommit (m 0x34 0) [2 ^ 16], .pileReset (m 0x35 0) 256, .powerSet (m 0x36 0) (2 ^ 16) 0, .powerSet (m 0x36 0) 0 256,
  .jobLoad (m 0x40 0) (2 ^ 32) 0 {} {}, .jobLoad (m 0x40 0) 0 (2 ^ 64) {} {}, .inputReady (m 0x42 0) (2 ^ 64),
  .fetch (m 0x50 0) 0 (2 ^ 64) 0, .fetch (m 0x50 0) 0 0 (2 ^ 32), .listObjects (m 0x51 0) (2 ^ 32), .records (m 0x52 0) ⟨256, 0, 0, 0, 0⟩,
  .records (m 0x52 0) ⟨0, 256, 0, 0, 0⟩, .records (m 0x52 0) ⟨0, 0, 256, 0, 0⟩, .records (m 0x52 0) ⟨0, 0, 0, 2 ^ 32, 0⟩,
  .records (m 0x52 0) ⟨0, 0, 0, 0, 2 ^ 32⟩, .pileHealth (m 0x53 0) 256, .deviceInfo { m 1 0 with mailbox := 64 },
  .unknownCommand { m 9 0 with mailbox := 64 }, .deviceInfo (note tyRequest [0, 1]), .unknownCommand (note tyRequest [0, 1])]

/-- Gate tokens and frames with a field too wide. -/
def wideTokens : List GateToken := [⟨2 ^ 64, 0, 0, 0, 0, 0, 0, 0⟩, ⟨0, 2 ^ 16, 0, 0, 0, 0, 0, 0⟩, ⟨0, 0, 2, 0, 0, 0, 0, 0⟩,
  ⟨0, 0, 0, 2 ^ 32, 0, 0, 0, 0⟩, ⟨0, 0, 0, 0, 0, 2 ^ 32, 0, 0⟩, ⟨0, 0, 0, 0, 0, 0, 2 ^ 64, 0⟩]
def wideFrames : List UFrame := [⟨4096, 0, 0, 0, 0, 0, 0, 0, []⟩, ⟨0, 256, 0, 0, 0, 0, 0, 0, []⟩, ⟨0, 0, 256, 0, 0, 0, 0, 0, []⟩,
  ⟨0, 0, 0, 4096, 0, 0, 0, 0, []⟩, ⟨0, 0, 0, 0, 256, 0, 0, 0, []⟩, ⟨0, 0, 0, 0, 0, 256, 0, 0, []⟩, ⟨0, 0, 0, 0, 0, 0, 2 ^ 32, 0, []⟩,
  ⟨0, 0, 0, 0, 0, 0, 0, 256, []⟩, ⟨0, 0, 0, 0, 0, 0, 0, 0, List.replicate 113 0⟩]

def gon0 : Gondola := { body := 0, tag := 0 }
def tok0 : GateToken := ⟨0, 0, 0, 0, 0, 0, 0, 0⟩
def frm0 : UFrame := ⟨0, 0, 0, 0, 0, 0, 0, 0, []⟩

/-- Events whose operands no event can have. -/
def wrongTokens : List Instr :=
  wideTokens.map (.arrive 0 0 0 0) ++ wideTokens.map (.release 0) ++ wideFrames.map (.unschedFrame 0 1 0)
def wrongTemps (t : Int) : List Instr := [
  .doubledRefresh 0 t 0, .doubledRefresh 0 0 t, .overTemp 0 t 0, .overTemp 0 0 t, .dramHotAbort 0 t 0, .dramHotAbort 0 0 t, .thermAlert 0 t,
  .thermAlertRelease t 0, .thermAlertRelease 0 t, .hotAbort 0 t, .tripped t]
def wrongEvents : List Instr := [
  .halfOpenExpire (2 ^ 32), .retransmitTimeout (2 ^ 32) 0, .retransmitTimeout 0 (2 ^ 64), .sessionFail (2 ^ 32) 0, .sessionFail 0 (2 ^ 64),
  .idleTimeout (2 ^ 32), .retainExpire [], .bulkDataSend (2 ^ 32) 0, .bulkDataSend 0 (2 ^ 32), .pfcFrame 8 0, .pfcFrame 0 (2 ^ 16),
  .echoRequest false (1 <<< 32) 0 ⟨[], none, false⟩, .echoRequest false 0 (1 <<< 32) ⟨[], none, false⟩, .abortComplete (2 ^ 32), .wakeComplete (2 ^ 16),
  .entryComplete (2 ^ 16)]
def wrongFabric : List Instr := [
  .sendSample 0 4096 0 .none, .sendSample 0 0 65536 .none, .gondolaIngress 0 0 163 none false, .gondolaIngress 0 0 256 none false,
  .gondolaIngress 0 0 0 (some { gon0 with useq := 256 }) false, .gondolaIngress 0 0 0 (some { gon0 with tc := 4 }) false,
  .switchReceive 0 4096 0 .plain, .switchReceive 0 0 65536 .plain, .unschedFrame 0 8 0 frm0, .unschedFrame 0 0 256 frm0,
  .ulink 0 8 0 0 false, .ulink 0 1 256 0 false, .ulink 0 1 0 256 false, .unschedRetry 0 8, .bridgeWaySlot 0 0 0 163 0 0,
  .portTraining 0 8 .detect, .portTraining 0 2 .detect, .portTraining 0 3 .detect, .swapRequest 0 0 9, .wireRepair 0 0 28 0]
def wrongOthers : List Instr := [
  .timingMark (2 ^ 64), .pileArrival 0 (2 ^ 64) (place0 0) [] [], .pileArrival 0 0 (place0 9) [] [],
  .pileArrival 0 0 ⟨0, some 163, []⟩ [] [], .pileArrival 0 0 ⟨0, none, [⟨some 8, 32768, 0⟩]⟩ [] [],
  .pileArrival 0 0 ⟨0, none, [⟨none, 131072, 0⟩]⟩ [] [], .arrive 0 (2 ^ 64) 0 0 tok0, .arrive 0 0 163 0 tok0,
  .arrive 0 0 0 9 tok0, .gateOpen (2 ^ 64), .compress 0 (2 ^ 32) 0, .compress 0 0 65536, .readout 0 (2 ^ 32), .updatePass1 0 65536,
  .updatePass2 0 65536, .ageingSample (List.replicate 194 ⟨0, 0, 0⟩), .governorUpdate (2 ^ 16),
  .pmbusPoll (List.replicate 17 ⟨0, 0, 0, 0, 0⟩), .pmbAlert [(16, 0)], .uvTrip 4, .bringupStageEnd (List.replicate 17 {}),
  .hubEntryStart 3, .referenceClockChange 3 true]

theorem test_illformed_messages : (wideHeads.map Instr.hello ++ wrongTypes).all (fun c => !c.wf) = true := by decide +kernel
theorem test_illformed_requests : (wrongCodes ++ wrongParams ++ wrongRegs).all (fun c => !c.wf) = true := by decide +kernel
theorem test_illformed_widths : wideParams.all (fun c => !c.wf) = true := by decide +kernel
theorem test_illformed_events : (wrongTokens ++ wrongTemps (-2049) ++ wrongTemps 4096 ++ wrongEvents ++ wrongFabric ++ wrongOthers).all
    (fun c => !c.wf) = true := by decide +kernel

/-- Their good neighbours pass. -/
theorem test_wellformed : ([.hello (note tyHello []), .deviceInfo (ask 1 []), .unknownCommand (ask 9 []),
    .powerSet (ask 0x36 [34, 0, 2, 0, 0, 0, 0, 0]) 34 2, .powerSet (ask 0x36 []) 34 2,
    .records (ask 0x52 ([1, 2, 15, 0, 0, 0, 0, 0, 3] ++ List.replicate 7 0)) ⟨1, 2, 15, 0, 3⟩,
    (let r := regReq "TB_CTL" 0 0 0 1 5 5; .tbCtlEnable (ask 0x11 r.bytes) r),
    (let r := regReq "TB_SLOT" 0 0 0 1 5 5; .regRead (ask 0x10 r.bytes) r), .debugUnlock (ask 6 (List.replicate 288 7)) (List.replicate 288 7),
    .tripped 4095, .tripped (-2048), .gondolaIngress 0 0 162 none false, .gondolaIngress 0 0 255 none false, .hubEntryStart 2,
    .release 0 ⟨0, 0, 1, 0, 0, 0, 0, 0⟩, .compress 15 (2 ^ 32 - 1) 65535,
    .pileArrival 15 0 ⟨8, some 162, [⟨some 8, 32767, 1⟩, ⟨none, 131071, 1⟩]⟩ [] []] : List Instr).all Instr.wf = true := by decide +kernel

/-! ## The host's interface -/

/-- No row of the table gives bits. -/
theorem test_no_words (s : State) (nbits w : Nat) : decodeTableWord nbits w = none ∧ s.withFetchWord nbits w = s := by
  simp [decodeTableWord, State.withFetchWord]

theorem test_idle (s : State) (h : s.pending = []) : step s = .next s := by unfold step; rw [h]

/-! ## The spec's own examples -/

/-- A V4F line (chapter 02): five of its elements. -/
theorem test_v4f_example : (let l : Line := ⟨BitVec.ofNat 1024 (0x7A * 2 ^ 8 + 0x85 * 2 ^ 240 + 0x03 * 2 ^ 784),
      BitVec.ofNat 128 (ofLE [0x7C, 0x12, 0x10, 0x40, 0x16, 0xC2]), false⟩
    let b := decodeBlock 4 [l]
    b.malformed = false ∧ [2, 3, 60, 61, 196].map (fun i => rnd32 (b.vals.getD i .nan)) =
      [0xBD000000#32, 0x3E400000#32, 0x3EC00000#32, 0xC2160000#32, 0x3DC00000#32]) := by decide +kernel

/-- Line 0x2000_0480 of a pile (chapter 13). -/
theorem test_line_example : let l := 0x20000480 / 128
    (lineChannel l, lineBank l, lineColumn l, lineRow l) = (9, 0, 0, 256) := by decide +kernel

/-- An accumulator of EREF -6, read out (chapter 11). -/
theorem test_accumulator_example : rnd32 (accRead (-6) (2 ^ 102 + 2 ^ 79 + 1)) = 0x3F800001#32 ∧
    rnd32 (accRead (-6) posSentinel) = 0x4C000000#32 := by decide +kernel

/-- The noise scale of step 9,120 (chapter 11). -/
theorem test_noise_example : noiseScale (some 64) 2048 { sLoc := ⟨num32 0x44200000, false⟩, sRed := ⟨num32 0x46800000, false⟩ } =
    (0, 0x4247CE0C#32) := by decide +kernel

/-- A gate complete in slot 7,879 opens in slot 8,255; a pile that arrives 12 slots late (chapter 07). -/
theorem test_gate_example : (withImg {} { img0 with gateDown := 367, gateGuard := 8 }).openingFrom 7879 = 8255 ∧
    (withImg {} { img0 with phases := [{ length := 7500, lastSlot := 7400 }] }).slipOf 0 7512 = 12 := by decide +kernel

/-- The layer and the choices of chapter 10's example. -/
def exLayer (second : Bool) : ExpertLayer :=
  { layer := 0, experts := 4, topK := 1, second := second, weighting := 0, gFp32 := false, capacity := 16, srcCount := 1, tokens := 48
    entryFirst := 0, srcFirst := 0 }
def exChoices : List (List Nat) := List.replicate 16 [2, 3] ++ [[2, 1], [2, 0], [2, 3], [2, 1]] ++ List.replicate 16 [1, 3] ++
  List.replicate 4 [0, 3] ++ List.replicate 8 [0xFFFF, 0xFFFF]

theorem test_dispatch_example : routedCounts (exLayer true) exChoices =
      { layer := 0, maxExpert := 1, maxFill := 16, tokens := 48, assign := 48, placed := 36, fallback := 2, dropped := 2, noChoice := 8
        slots := 64 } ∧
    (routedCounts (exLayer false) exChoices).fallback = 0 ∧ (routedCounts (exLayer false) exChoices).dropped = 4 ∧
    (4, 17) ∈ (assign (exLayer true) exChoices).dispatch 16 ∧ (48, 18) ∈ (assign (exLayer true) exChoices).dispatch 16 ∧
    dropOver 0x0800 (routedCounts (exLayer true) exChoices) = true := by decide +kernel

/-- A phase table entry written out by the offsets of R177. -/
theorem test_phase_layout : (let e := phaseOf ([8, 0, 0, 0, 1, 0, 0, 0, 5, 0, 0, 0, 3, 0b1001, 7, 0] ++ List.replicate 10 0 ++ [4, 2] ++
      List.replicate 4 0);
    (e.length, e.lastSlot, e.slack, e.page, e.powerPlan, e.loopParam, e.loopLen) = (8, 1, 5, 3, 7, 4, 2) ∧ e.finish = true ∧
      e.readsInput = false ∧ e.reduce = false ∧ e.head = true) := by decide +kernel

/-- A bucket and a switch descriptor written out by the offsets of R296 and R222. -/
theorem test_bucket_layout : bucketFrom ([7, 0, 0, 0, 2, 1, 15, 0b1100001, 16, 0, 3, 0, 5, 0, 0, 0, 9, 0, 0, 0, 1, 0, 0, 0, 10, 0, 0, 0,
      11, 0, 0, 0]) =
    { id := 7, ownerDev := 258, ownerPile := 15, comp := 1, topkF := 8, noise := true, blocks := 16, tracker := 3,
      contrib := 5, gradTid := 9, accSpace := .buf, accLine := 10, outLine := 11 } := by decide +kernel

theorem test_swdesc_layout : swDescOf (BitVec.ofNat 256 (ofLE ([0x47, 43, 0x82, 2, 0x51, 8, 1, 2, 3, 0, 0, 0, 4, 0, 5, 0, 100, 0, 0, 0,
      0xFF, 0xFF, 0xFF, 0xFF, 2, 0, 0, 3, 0, 0, 44, 1]))) =
    { receive := true, check := true, emptyFill := true, fillFmt := 4, way := 43, space := .ls, tile := 8, condKind := 2, condTile := 1,
      condN := 5, idxTile := 8, condValue := 513, firstSlot := 3, slotStride := 4, count := 5, line := 100, lineStride := -1,
      iterStride := 2, bankStride := 3, indexLine := 300 } := by decide +kernel

/-- The land counts of R549 and the example of R547. -/
theorem test_land_counts : landCount (Land.isRail .core) = 3208 ∧ landCount (· == .vss) = 6932 ∧
    [Rail.sram, .m, .pp, .io, .aon, .sxa, .sxb].map (fun r => landCount (Land.isRail r)) = [480, 480, 48, 80, 8, 496, 496] ∧
    landCount (· == .rsvd) = 10 := by decide +kernel

theorem test_land_names : landAt 43 55 = .fabric 5 1 true 8 false ∧ landName 43 55 = "BE55" ∧ landAt 43 56 = .fabric 5 1 true 8 true ∧
    rowName 19 = "Y" ∧ rowName 20 = "AA" ∧ rowName 39 = "BA" ∧ rowName 116 = "FB" ∧ landAt 6 41 = .sideband 0 := by decide +kernel

/-- An odd number of changed bits in a byte is found, an even number is not (R99). -/
theorem test_parity : (parityFinds 0x80 && !parityFinds 3 && parityFinds 0x101 && !parityFinds 0) = true := by decide +kernel

/-- IDCODE (R555). -/
theorem test_idcode : idcode = 0x1164056F := by decide

end Sys2Proof.Tests
end

section
/-! PROOFS. Reserved bits (R5). They read as zero, and a register write in its turn ignores them; a register write that comes before
its turn is held with its operands (R431), and there the statement about all writes fails. -/

namespace Sys2Proof.Machine

/-! ## Reserved bits of a register read as zero -/

/-- One field stands above another in their register. -/
abbrev Fld.Above (f g : Fld) : Prop := g.spec.lo + g.width ≤ f.spec.lo

/-- Values of fields, each at its field's place. -/
def placedSum (val : Fld → Nat) (fs : List Fld) : Nat := (fs.map (fun f => val f * 2 ^ f.spec.lo)).sum

theorem placedSum_cons (val : Fld → Nat) (f : Fld) (fs : List Fld) : placedSum val (f :: fs) = 2 ^ f.spec.lo * val f + placedSum val fs := by
  rw [placedSum, List.map_cons, List.sum_cons, Nat.mul_comm, placedSum]

/-- Fields that stand below a bit, from the most significant and apart, with values that fit: their sum stands below it too. -/
theorem placedSum_lt {val : Fld → Nat} (hval : ∀ f, val f < 2 ^ f.width) {fs : List Fld} (hfs : fs.Pairwise Fld.Above)
    {n : Nat} (hn : ∀ f ∈ fs, f.spec.lo + f.width ≤ n) : placedSum val fs < 2 ^ n := by
  induction hfs generalizing n with
  | nil => exact Nat.two_pow_pos n
  | @cons f fs hf _ ih =>
    rw [placedSum_cons]
    calc 2 ^ f.spec.lo * val f + placedSum val fs < 2 ^ f.spec.lo * val f + 2 ^ f.spec.lo := Nat.add_lt_add_left (ih hf) _
      _ = 2 ^ f.spec.lo * (val f + 1) := rfl
      _ ≤ 2 ^ f.spec.lo * 2 ^ f.width := Nat.mul_le_mul_left _ (hval f)
      _ = 2 ^ (f.spec.lo + f.width) := (Nat.pow_add ..).symm
      _ ≤ 2 ^ n := Nat.pow_le_pow_right Nat.two_pos (hn f List.mem_cons_self)

/-- A bit that no field covers is clear in the sum. -/
theorem testBit_placedSum_uncovered {val : Fld → Nat} (hval : ∀ f, val f < 2 ^ f.width) {fs : List Fld}
    (hfs : fs.Pairwise Fld.Above) {b : Nat} (hb : ∀ f ∈ fs, ¬ (f.spec.lo ≤ b ∧ b < f.spec.lo + f.width)) :
    (placedSum val fs).testBit b = false := by
  induction hfs with
  | nil => exact Nat.zero_testBit b
  | @cons f fs hf hfs ih =>
    rw [placedSum_cons, Nat.testBit_two_pow_mul_add _ (placedSum_lt hval hfs hf)]
    split
    · exact ih fun g hg => hb g (List.mem_cons_of_mem _ hg)
    · have hab := hb f List.mem_cons_self
      exact Nat.testBit_lt_two_pow ((hval f).trans_le (Nat.pow_le_pow_right Nat.two_pos (by omega)))

/-- The fields of every register are listed from the most significant and do not overlap. -/
theorem regTable_fields_apart : ∀ r ∈ regTable, r.fields.Pairwise Fld.Above := by decide +kernel

/-- In a state whose fields fit, a field reads as a value that fits. -/
theorem view_lt {s : State} (h : s.fieldsFit) (k : FKey) : s.view k < 2 ^ k.f.width := by
  rw [State.view]
  split
  · exact Nat.mod_lt _ (Nat.two_pow_pos _)
  · exact h k

/-- Reserved bits of a register read as zero (R5). -/
theorem testBit_regValue_reserved {s : State} {r : RegSpec} {b : Nat} (p t i j : Nat) (hs : s.Legal) (hr : r ∈ regTable)
    (hb : ∀ f ∈ r.fields, ¬ (f.spec.lo ≤ b ∧ b < f.spec.lo + f.width)) : (s.regValue r p t i j).testBit b = false := by
  have hval : ∀ f : Fld, (if f.spec.acc = .wo then 0 else s.view ⟨f, p, t, i, j⟩) < 2 ^ f.width := fun f => by
    split
    · exact Nat.two_pow_pos _
    · exact view_lt hs.fields ⟨f, p, t, i, j⟩
  have hsum : s.regValue r p t i j = placedSum (fun f => if f.spec.acc = .wo then 0 else s.view ⟨f, p, t, i, j⟩) r.fields := by
    rw [State.regValue, placedSum, List.sum_eq_foldl, List.foldl_map]
  rw [hsum]
  exact testBit_placedSum_uncovered hval (regTable_fields_apart r hr) hb

/-! ## A write ignores what it carries in reserved bits -/

theorem fieldBits_and (f : Fld) (a b : Nat) : fieldBits f (a &&& b) = fieldBits f a &&& fieldBits f b := by
  simp only [fieldBits, Nat.and_div_two_pow, Nat.and_mod_two_pow]

/-- The register that a request names does not depend on its VALUE. -/
theorem regPlace_value (r : RegReq) (v : BitVec 128) : regPlace { r with value := v } = regPlace r := rfl

/-- Nor do the fields that it touches. -/
theorem touches_value (r : RegReq) (v : BitVec 128) : touches { r with value := v } = touches r := rfl

/-- A register found is one of the table. -/
theorem spec_mem_regTable {r : RegReq} {x : RegPlace} (h : regPlace r = .ok x) : x.spec ∈ regTable := by
  unfold regPlace at h
  cases hn : regNamed r.name with
  | none => rw [hn] at h; cases h
  | some y =>
    have hy : y ∈ regTable := List.mem_of_find?_eq_some hn
    simp only [hn] at h
    repeat' split at h
    all_goals (cases h <;> exact hy)

/-- The fields that decide, beside their own ranges, what refuses a write of their register. -/
theorem mem_fields_of_name : ∀ q ∈ [("PAD_RELEASE", Fld.PAD_RELEASE), ("STEP_PARAM", .STEP_PARAM)],
    ∀ y ∈ regTable, y.name = q.1 → q.2 ∈ y.fields := by decide +kernel

section
variable {r : RegReq} {x : RegPlace} {v : BitVec 128} (hv : ∀ f ∈ x.spec.fields, fieldBits f v.toNat = fieldBits f r.value.toNat)
include hv

/-- What a write gives a field does not depend on reserved bits of its VALUE. -/
theorem written_value (s : State) {f : Fld} (hf : f ∈ x.spec.fields) : s.written { r with value := v } (x.key f) = s.written r (x.key f) := by
  have hbits : fieldBits (x.key f).f v.toNat = fieldBits (x.key f).f r.value.toNat := hv f hf
  simp only [State.written, hbits]

/-- Nor does what it stores or leaves to wait. -/
theorem writeField_value (s : State) {f : Fld} (hf : f ∈ x.spec.fields) :
    writeField s { r with value := v } (x.key f) = writeField s r (x.key f) := by
  simp only [writeField, written_value hv s hf]

/-- Nor does what refuses it. -/
theorem writeRefused_value (s : State) (hx : x.spec ∈ regTable) : s.writeRefused { r with value := v } x = s.writeRefused r x := by
  have ht := touches_value r v
  have hts : ∀ {f}, f ∈ x.spec.fields.filter (touches r) → s.written { r with value := v } (x.key f) = s.written r (x.key f) :=
    fun hf => written_value hv s (List.mem_filter.mp hf).1
  have hfind : (x.spec.fields.filter (touches r)).find? (fun f => outOfRange f (s.written { r with value := v } (x.key f))) =
      (x.spec.fields.filter (touches r)).find? (fun f => outOfRange f (s.written r (x.key f))) :=
    List.find?_congr fun f hf => by rw [hts hf]
  have hinject : ∀ f, (if (x.spec.fields.filter (touches r)).contains f then s.written { r with value := v } (x.key f) else s.rd (x.key f)) =
      if (x.spec.fields.filter (touches r)).contains f then s.written r (x.key f) else s.rd (x.key f) :=
    fun f => ite_congr rfl (fun hf => hts (List.contains_iff_mem.mp hf)) fun _ => rfl
  have hnamed : ∀ q ∈ [("PAD_RELEASE", Fld.PAD_RELEASE), ("STEP_PARAM", .STEP_PARAM)], x.spec.name = q.1 →
      s.written { r with value := v } (x.key q.2) = s.written r (x.key q.2) :=
    fun q hq hn => written_value hv s (mem_fields_of_name q hq _ hx hn)
  have henable : ((x.spec.fields.filter (touches r)).contains .LNK_CTL_ENABLE = true ∧
      s.written { r with value := v } (x.key .LNK_CTL_ENABLE) = 0 ∧ s.jobLoaded = true ∧ s.portUsed x.p (x.idx.headD 0) = true) =
      ((x.spec.fields.filter (touches r)).contains .LNK_CTL_ENABLE = true ∧
      s.written r (x.key .LNK_CTL_ENABLE) = 0 ∧ s.jobLoaded = true ∧ s.portUsed x.p (x.idx.headD 0) = true) :=
    propext (and_congr_right fun hf => by rw [hts (List.contains_iff_mem.mp hf)])
  simp only [State.writeRefused, ht, hfind, hinject]
  split
  · rfl
  · refine ite_congr rfl (fun _ => rfl) fun _ => ite_congr rfl (fun hn => ?pad) fun _ => ite_congr rfl (fun _ => rfl) fun _ =>
      ite_congr rfl (fun hn => ?step) fun _ => ite_congr rfl (fun _ => ?link) fun _ => rfl
    case pad => rw [hnamed _ List.mem_cons_self hn.1]
    case step => rw [hnamed _ (List.mem_cons_of_mem _ List.mem_cons_self) hn]
    case link => exact ite_congr henable (fun _ => rfl) fun _ => rfl

/-- Nor does what it does beside storing values. -/
theorem afterWrite_value (s : State) (hx : x.spec ∈ regTable) : afterWrite s { r with value := v } x = afterWrite s r x := by
  unfold afterWrite
  refine ite_congr rfl (fun _ => rfl) fun _ => ite_congr rfl (fun _ => rfl) fun _ => ite_congr rfl (fun _ => rfl) fun _ =>
    ite_congr rfl (fun _ => rfl) fun _ => ite_congr rfl (fun hn => ?_) fun _ => rfl
  have hbits := hv _ (mem_fields_of_name _ List.mem_cons_self _ hx hn)
  simp only [fieldBits_and, hbits]
  rfl
end

/-- A register write with other reserved bits in VALUE is the same action, its row aside. -/
theorem regWrite_value (m : LiftMsg) (row : Instr) {r : RegReq} {x : RegPlace} {v : BitVec 128} (hx : regPlace r = .ok x)
    (hv : ∀ f ∈ x.spec.fields, fieldBits f v.toNat = fieldBits f r.value.toNat) : regWrite m row { r with value := v } = regWrite m row r := by
  have hmem := spec_mem_regTable hx
  have hfields : ∀ s, Act.each (x.spec.fields.filter (touches r)) (fun f => writeField s { r with value := v } (x.key f)) =
      Act.each (x.spec.fields.filter (touches r)) (fun f => writeField s r (x.key f)) := fun s =>
    congrArg Act.all (List.map_congr_left fun f hf => writeField_value hv s (List.mem_filter.mp hf).1)
  simp only [regWrite, regPlace_value, hx, touches_value, writeRefused_value hv _ hmem, afterWrite_value hv _ hmem, hfields]

/-- A request in its turn does not depend on the row that it would be held with. -/
theorem request_row_inTurn {s : State} {m : LiftMsg} {x : Session} (h : s.InTurn m x) (row row' : Instr) (n : Option Nat) (k : Req → Act) :
    (request m row n k).run s = (request m row' n k).run s := by
  simp only [request, requestAny, Act.run_ask, h.quiet.again, sequenced_inTurn h _ 0 (Or.inl rfl)]

/-- Actions that leave a state alike let the same go on. -/
theorem run_settled_congr {a a' : Act} {s : State} (h : a.run s = a'.run s) : (settled a).run s = (settled a').run s := by
  simp only [settled, Act.run_seq, h]

/-- A register write in its turn ignores what VALUE carries in reserved bits (R5). -/
theorem exec_regWrite_value_inTurn {s : State} {m : LiftMsg} {y : Session} (h : s.InTurn m y) {r : RegReq} {x : RegPlace} {v : BitVec 128}
    (hx : regPlace r = .ok x) (hv : ∀ f ∈ x.spec.fields, fieldBits f v.toNat = fieldBits f r.value.toNat) :
    exec (.regWrite m { r with value := v }) s = exec (.regWrite m r) s := by
  have hrun : (regWrite m (.regWrite m { r with value := v }) { r with value := v }).run s = (regWrite m (.regWrite m r) r).run s := by
    rw [regWrite_value m _ hx hv]
    exact request_row_inTurn h _ _ _ _
  exact congrArg Host.Outcome.next (run_settled_congr hrun)

/-! ## A sequenced message that comes before its turn (R431) -/

/-- A genuine sequenced message that comes early: its session is still open once its acknowledgements are taken, as `x`, its
SEQ is one that the session holds for later, and nothing waits that it would let go on. -/
structure State.ComesEarly (s : State) (m : LiftMsg) (x : Session) : Prop where
  genuine : ∃ y, s.Genuine m y
  open'   : (s.heard m).session? m.session = some x
  ahead   : x.dlv < m.seq
  near    : m.seq ≤ x.dlv + 4095
  fresh   : ∀ e ∈ x.held, e.seq ≠ m.seq
  quiet   : s.Quiet

/-- The session of a message holds the message, with its row, for its turn. -/
def holdEarly (m : LiftMsg) (row : Instr) : Act :=
  modSession m.session (fun y => { y with held := y.held ++ [⟨m.seq, 0, row⟩] })

/-- What a genuine message's acknowledgements leave: the frame counted, and the acknowledgements taken. -/
theorem heard_genuine {s : State} {m : LiftMsg} {x : Session} (h : s.Genuine m x) :
    s.heard m = (takeAcks m.session m).run ((bump (dk .HP_RX_FRAMES)).run s) := by
  have hid := State.id_of_session? h.open'
  have hs : ((bump (dk .HP_RX_FRAMES)).run s).session? m.session = some x := by simpa using h.open'
  have ht : (m.tag == msgTag x.kIn m) = true := beq_iff_eq.mpr h.tag
  simp only [State.heard, authed, onFrame_reaches h.reaches, heardIn, Act.run_ask, hs, h.header, ht, Bool.and_self, if_true,
    Act.run_seq, hid, Act.run_done]

/-- A message that comes early is held and acknowledged, and nothing of its command is done. -/
theorem sequenced_early {s : State} {m : LiftMsg} {x : Session} (h : s.ComesEarly m x) (row : Instr) (k : Nat → Act) :
    (sequenced m row 0 k).run s = (sendPlain m.session tyAckOnly).run ((holdEarly m row).run (s.heard m)) := by
  obtain ⟨y, hy⟩ := h.genuine
  have hnew : ¬ (m.seq < x.dlv ∨ x.held.any (fun e => e.seq == m.seq) = true) := by
    rintro (hlt | hany)
    · exact absurd hlt (Nat.not_lt.mpr h.ahead.le)
    · obtain ⟨e, he, hes⟩ := List.any_eq_true.mp hany
      exact h.fresh e he (beq_iff_eq.mp hes)
  have hnear : ¬ nextExpected x + 4095 < m.seq := by
    have := nextExpected_ge x
    have := h.near
    omega
  simp only [sequenced, Act.run_ask, h.quiet.due, Bool.false_eq_true, if_false, authed_genuine hy, h.open']
  rw [if_neg hnew, if_neg hnear, if_neg (fun hc => absurd hc.1 (Nat.lt_irrefl 0)), if_neg h.ahead.ne', Act.run_seq, holdEarly]

/-- A request that comes early is held and acknowledged. -/
theorem request_early {s : State} {m : LiftMsg} {x : Session} (h : s.ComesEarly m x) (row : Instr) (n : Option Nat) (k : Req → Act) :
    (request m row n k).run s = (sendPlain m.session tyAckOnly).run ((holdEarly m row).run (s.heard m)) := by
  rw [request, requestAny, Act.run_ask, h.quiet.again]
  exact sequenced_early h row _

/-- The session of a request held early lists the request's row. -/
theorem held_request_early {s : State} {m : LiftMsg} {x : Session} (h : s.ComesEarly m x) (row : Instr) (n : Option Nat) (k : Req → Act) :
    (((request m row n k).run s).session? m.session).map Session.held = some (x.held ++ [⟨m.seq, 0, row⟩]) := by
  have hid := State.id_of_session? h.open'
  have hc := core_sendPlain m.session tyAckOnly ((holdEarly m row).run (s.heard m)) m.session
  rw [← request_early h row n k] at hc
  simp only [holdEarly, run_modSession, h.open', Upd.session?_setSession, hid, if_true, Option.map_some] at hc
  obtain ⟨x', hx', he⟩ := Option.map_eq_some_iff.mp hc
  rw [hx', Option.map_some]
  exact congrArg (fun z : Session => some z.held) he

/-- A request held early makes nothing due. -/
theorem settled_request_early {s : State} {m : LiftMsg} {x : Session} (h : s.ComesEarly m x) (row : Instr) (n : Option Nat) (k : Req → Act) :
    ((request m row n k).run s).Settled := by
  have hm := heard_marks s m
  have hbeh := heard_behind m h.quiet.held
  have hl : ((request m row n k).run s).lift = (s.heard m).lift := by
    rw [request_early h, ← Act.run_seq]
    exact (Act.Only.sendSame (Act.only_seq (send_modSession _ _) (send_sendPlain _ _)) (s.heard m)).2
  refine ⟨by rw [hl, hm.due]; exact h.quiet.due, by rw [hl, hm.again]; exact h.quiet.again, by rw [hl, hm.parked]; exact h.quiet.parked, ?_⟩
  rw [request_early h]
  refine keeps_sendPlain (behind_sendFree 0) _ _ _ ?_
  rw [holdEarly, run_modSession, h.open']
  intro y hy
  simp only [Upd.apply, List.mem_map] at hy
  obtain ⟨z, hz, rfl⟩ := hy
  split
  · intro e he
    rcases List.mem_append.mp he with he | he
    · exact (Nat.lt_succ_self _).trans (behind_session hbeh h.open' e he)
    · rw [List.mem_singleton.mp he]; exact h.ahead
  · exact fun e he => (Nat.lt_succ_self _).trans (hbeh z hz e he)

/-- What a register write that comes early leaves its session holding: its row, VALUE and all. -/
theorem held_regWrite_early {s t : State} {m : LiftMsg} {x : Session} {r : RegReq} (h : s.ComesEarly m x)
    (ht : exec (.regWrite m r) s = .next t) :
    (t.session? m.session).map Session.held = some (x.held ++ [⟨m.seq, 0, .regWrite m r⟩]) := by
  have hrun : exec (.regWrite m r) s = .next ((regWrite m (.regWrite m r) r).run s) :=
    congrArg Host.Outcome.next (run_settled (settled_request_early h _ _ _))
  rw [hrun] at ht
  cases ht
  exact held_request_early h _ _ _

/-- Register writes that come early leave equal states only where their operands are equal. -/
theorem regWrite_early_inj {s : State} {m : LiftMsg} {x : Session} {r r' : RegReq} (h : s.ComesEarly m x)
    (he : exec (.regWrite m r) s = exec (.regWrite m r') s) : r = r' := by
  obtain ⟨t, ht⟩ : ∃ t, exec (.regWrite m r) s = .next t := ⟨_, rfl⟩
  have hr := held_regWrite_early h ht
  rw [held_regWrite_early h (he ▸ ht)] at hr
  simpa using hr.symm

/-! ## A register write that comes early -/

/-- The host's session 7, which delivers SEQ 5 next. -/
def openSession : Session :=
  { id := 7, src := 1, host := [1], kIn := [2], kOut := [3], mtu := 1500, boot := false, idleS := 1, retainS := 1, port := 48830
    v6 := true, dlv := 5 }

/-- The device with its host link up and that session open. -/
def linkedState : State := { ({} : State).setReg (dk .HP_STATUS_STATE) 3 with sessions := [openSession] }

/-- A write of 100 to THERM_CTL, whose one field takes bits 6 to 0 (R525). -/
def thermWrite : RegReq := ⟨"THERM_CTL", 0, 0, 0, 0, 0, 0, 1, 0x7F, 100⟩

/-- The REG_WRITE message of that write, before its TAG: SEQ 6 comes while SEQ 5 is awaited. -/
def untaggedEarly : LiftMsg :=
  { src := 1, type := tyRequest, session := 7, seq := 6, mailbox := 3, length := 96
    payload := toBytes (bytesBE 2 0x0011 ++ [0, 9] ++ bytesBE 4 80 ++ List.replicate 8 0 ++ thermWrite.bytes) }

/-- The message with its TAG. -/
def earlyMsg : LiftMsg := { untaggedEarly with tag := msgTag [2] untaggedEarly }

/-- A TAG does not depend on the TAG that a message carries (R429). -/
theorem msgTag_setTag (key : Bytes) (m : LiftMsg) (t : Bytes) : msgTag key { m with tag := t } = msgTag key m := rfl

theorem earlyMsg_genuine : linkedState.Genuine earlyMsg openSession where
  reaches := ⟨by decide +kernel, Or.inl (by decide +kernel), by decide +kernel, rfl, rfl, by decide +kernel⟩
  open' := rfl
  header := by decide +kernel
  tag := (msgTag_setTag [2] untaggedEarly _).symm

theorem earlyMsg_early : linkedState.ComesEarly earlyMsg openSession where
  genuine := ⟨_, earlyMsg_genuine⟩
  open' := by rw [heard_genuine earlyMsg_genuine]; decide +kernel
  ahead := by decide
  near := by decide
  fresh := by simp [openSession]
  quiet := ⟨rfl, rfl, rfl, by simp [linkedState, openSession]⟩

/-- The message is a well-formed row of the write it carries. -/
theorem earlyMsg_wf : (Instr.regWrite earlyMsg thermWrite).wf = true := by decide +kernel

end Sys2Proof.Machine
end

section

open Sys2Proof Sys2Proof.Machine

/-- Refutes O6, in its second clause. A REG_WRITE that comes before its turn is held with its row, operands and all (R431), so in
`linkedState` the early writes of 100 and of 228 to THERM_CTL, alike but for reserved bit 7, leave different states, though neither has
written anything. The first clause holds (`testBit_regValue_reserved`), and the second of messages in their turn
(`exec_regWrite_value_inTurn`). -/
theorem not_reservedBitsReadZero : ¬ Obligations.ReservedBitsReadZero := by
  unfold Obligations.ReservedBitsReadZero
  rintro ⟨-, hwrite⟩
  have hfields : ∀ f ∈ [Fld.THERM_CTL], fieldBits f (228#128).toNat = fieldBits f thermWrite.value.toNat := by decide
  have heq := hwrite linkedState earlyMsg thermWrite _ 228 rfl hfields
  exact absurd (congrArg RegReq.value (regWrite_early_inj earlyMsg_early heq)) (by decide)

end

section
/-! PROOFS. Numbers in their order (R125, R128): what is above what, the ranking of top-k candidates, extremes, and that FP32 bits of a
number that FP32 holds are the bits it came from. -/

namespace Sys2Proof.Machine

/-! ## The order of numbers -/

/-- The rational that a finite number is. -/
def Dy.value (d : Dy) : ℚ := (if d.neg then -(d.mag : ℚ) else d.mag) * 2 ^ d.exp

/-- The signed integer on a finer grid is the number in units of that grid. -/
theorem Dy.scaled_mul {d : Dy} {e : Int} (h : e ≤ d.exp) : (d.scaled e : ℚ) * 2 ^ e = d.value := by
  have hpow : (2 : ℚ) ^ (d.exp - e).toNat * 2 ^ e = 2 ^ d.exp := by
    rw [← zpow_natCast, Int.toNat_of_nonneg (by omega), ← zpow_add₀ two_ne_zero, Int.sub_add_cancel]
  have hmag : ((d.mag <<< (d.exp - e).toNat : Nat) : ℚ) * 2 ^ e = d.mag * 2 ^ d.exp := by
    rw [Nat.shiftLeft_eq, Nat.cast_mul, Nat.cast_pow, Nat.cast_two, mul_assoc, hpow]
  rw [Dy.scaled, Dy.value]
  split
  · rw [Int.cast_neg, Int.cast_natCast, neg_mul, hmag, neg_mul]
  · rw [Int.cast_natCast, hmag]

theorem Dy.lt_iff (a b : Dy) : a.lt b = true ↔ a.value < b.value := by
  have ha := Dy.scaled_mul (min_le_left a.exp b.exp)
  have hb := Dy.scaled_mul (min_le_right a.exp b.exp)
  rw [Dy.lt, decide_eq_true_eq, ← ha, ← hb, mul_lt_mul_iff_left₀ (by positivity), Int.cast_lt]

theorem Dy.eqv_iff (a b : Dy) : a.eqv b = true ↔ a.value = b.value := by
  have ha := Dy.scaled_mul (min_le_left a.exp b.exp)
  have hb := Dy.scaled_mul (min_le_right a.exp b.exp)
  rw [Dy.eqv, decide_eq_true_eq, ← ha, ← hb, mul_left_inj' (by positivity), Int.cast_inj]

/-- Where a number stands among all numbers: NaN below -infinity, both zeros at one place (R128). -/
def FNum.rank : FNum → ℤ ×ₗ ℚ
  | .nan => toLex (-2, 0)
  | .inf true => toLex (-1, 0)
  | .inf false => toLex (1, 0)
  | .fin d => toLex (0, d.value)

theorem FNum.lt_iff (a b : FNum) : a.lt b = true ↔ a.isNan = false ∧ a.rank < b.rank := by
  rcases a with _ | ⟨_ | _⟩ | d <;> rcases b with _ | ⟨_ | _⟩ | e <;>
    simp [FNum.lt, FNum.isNan, FNum.rank, Prod.Lex.toLex_lt_toLex, Dy.lt_iff]

theorem FNum.eqv_iff (a b : FNum) : a.eqv b = true ↔ a.isNan = false ∧ a.rank = b.rank := by
  rcases a with _ | ⟨_ | _⟩ | d <;> rcases b with _ | ⟨_ | _⟩ | e <;>
    simp [FNum.eqv, FNum.isNan, FNum.rank, Dy.eqv_iff]

/-- No number ranks as low as NaN. -/
theorem FNum.rank_nan_lt {a : FNum} (h : a.isNan = false) : FNum.nan.rank < a.rank := by
  rcases a with _ | ⟨_ | _⟩ | d <;> simp_all [FNum.isNan, FNum.rank, Prod.Lex.toLex_lt_toLex]

@[simp] theorem FNum.isNan_nan : FNum.nan.isNan = true := rfl

theorem FNum.eq_nan {a : FNum} (h : a.isNan = true) : a = .nan := by
  cases a with
  | nan => rfl
  | inf _ => cases h
  | fin _ => cases h

/-! ## Ranked candidates (R128) -/

theorem Cand.above_iff (a b : Cand) : a.above b = true ↔ b.num.rank < a.num.rank ∨ a.num.rank = b.num.rank ∧ a.idx ≤ b.idx := by
  cases ha : a.num.isNan with
  | false => cases hb : b.num.isNan with
    | false => simp [Cand.above, ha, hb, FNum.lt_iff, FNum.eqv_iff]
    | true => simp [Cand.above, ha, FNum.eq_nan hb, FNum.rank_nan_lt ha]
  | true => cases hb : b.num.isNan with
    | false => simp [Cand.above, hb, FNum.eq_nan ha, (FNum.rank_nan_lt hb).not_gt, (FNum.rank_nan_lt hb).ne]
    | true => simp [Cand.above, FNum.eq_nan ha, FNum.eq_nan hb]

theorem Cand.above_total (a b : Cand) : a.above b = true ∨ b.above a = true := by
  simp only [Cand.above_iff]
  rcases lt_trichotomy a.num.rank b.num.rank with h | h | h
  · exact .inr (.inl h)
  · exact (Nat.le_total a.idx b.idx).imp (fun hi => .inr ⟨h, hi⟩) (fun hi => .inr ⟨h.symm, hi⟩)
  · exact .inl (.inl h)

theorem Cand.above_trans {a b c : Cand} (hab : a.above b = true) (hbc : b.above c = true) : a.above c = true := by
  rw [Cand.above_iff] at hab hbc ⊢
  rcases hab with hab | ⟨hab, hi⟩ <;> rcases hbc with hbc | ⟨hbc, hj⟩
  · exact .inl (hbc.trans hab)
  · exact .inl (hbc ▸ hab)
  · exact .inl (hab ▸ hbc)
  · exact .inr ⟨hab.trans hbc, hi.trans hj⟩

theorem insertCand_eq (x : Cand) (ys : List Cand) : insertCand x ys = ys.orderedInsert (fun a b => a.above b = true) x := by
  induction ys with
  | nil => rfl
  | cons y r ih => simp only [insertCand, List.orderedInsert_cons, ih]

theorem rankCands_eq (xs : List Cand) : rankCands xs = xs.insertionSort (fun a b => a.above b = true) := by
  rw [rankCands, List.insertionSort]
  congr 1
  funext x ys
  exact insertCand_eq x ys

theorem rankCands_perm (xs : List Cand) : (rankCands xs).Perm xs := by
  rw [rankCands_eq]
  exact List.perm_insertionSort _ xs

theorem rankCands_pairwise (xs : List Cand) : (rankCands xs).Pairwise (fun a b => a.above b = true) := by
  have : Std.Total (fun a b : Cand => a.above b = true) := ⟨Cand.above_total⟩
  have : IsTrans Cand (fun a b => a.above b = true) := ⟨fun _ _ _ => Cand.above_trans⟩
  rw [rankCands_eq]
  exact List.pairwise_insertionSort _ xs

theorem length_topCands (k : Nat) (xs : List Cand) : (topCands k xs).length = k := by
  simp [topCands]

/-- The i-th selected candidate is the i-th ranked, or unused. -/
theorem getElem?_topCands (xs : List Cand) {i k : Nat} (h : i < k) :
    (topCands k xs)[i]? = some (((rankCands xs)[i]?).getD ⟨.inf true, 0xFFFF⟩) := by
  simp only [topCands, List.getElem?_take_of_lt h, List.getElem?_append, List.length_take]
  split
  next hi => simp [hi.trans_le (min_le_right _ _)]
  next hi =>
    have hlen : (rankCands xs).length ≤ i := by omega
    rw [List.getElem?_eq_none hlen, Option.getD_none, List.getElem?_replicate_of_lt (by omega)]

/-! ## The extremes (R125) -/

/-- Rank, and of the two zeros -0 below +0. -/
def FNum.key (a : FNum) : (ℤ ×ₗ ℚ) ×ₗ Bool := toLex (a.rank, !a.neg?)

/-- An operation takes, of two numbers, one that no number passes under a key. -/
def Picks {β : Type} [LE β] (key : FNum → β) (best : FNum → FNum → FNum) : Prop :=
  ∀ a b : FNum, a.isNan = false → b.isNan = false → (best a b = a ∨ best a b = b) ∧ key a ≤ key (best a b) ∧ key b ≤ key (best a b)

theorem FNum.key_le_iff (a b : FNum) : a.key ≤ b.key ↔ a.rank < b.rank ∨ a.rank = b.rank ∧ (!a.neg?) ≤ (!b.neg?) :=
  Prod.Lex.toLex_le_toLex

theorem fnumMax_picks : Picks FNum.key fnumMax := by
  intro a b ha hb
  simp only [fnumMax, ha, hb, Bool.or_self, Bool.false_eq_true, if_false, FNum.lt_iff, true_and]
  rcases lt_trichotomy a.rank b.rank with h | h | h
  · rw [if_pos h]
    exact ⟨.inr rfl, (FNum.key_le_iff a b).mpr (.inl h), le_rfl⟩
  · rw [if_neg h.not_lt, if_neg h.not_gt]
    cases hn : a.neg?
    · exact ⟨.inl rfl, le_rfl, (FNum.key_le_iff b a).mpr (.inr ⟨h.symm, by simp [hn, Bool.le_true]⟩)⟩
    · exact ⟨.inr rfl, (FNum.key_le_iff a b).mpr (.inr ⟨h, by simp [hn, Bool.false_le]⟩), le_rfl⟩
  · rw [if_neg h.not_gt, if_pos h]
    exact ⟨.inl rfl, le_rfl, (FNum.key_le_iff b a).mpr (.inl h)⟩

theorem fnumMin_picks : Picks (fun a => OrderDual.toDual a.key) fnumMin := by
  intro a b ha hb
  simp only [fnumMin, ha, hb, Bool.or_self, Bool.false_eq_true, if_false, FNum.lt_iff, true_and, OrderDual.toDual_le_toDual]
  rcases lt_trichotomy a.rank b.rank with h | h | h
  · rw [if_pos h]
    exact ⟨.inl rfl, le_rfl, (FNum.key_le_iff a b).mpr (.inl h)⟩
  · rw [if_neg h.not_lt, if_neg h.not_gt]
    cases hn : a.neg?
    · exact ⟨.inr rfl, (FNum.key_le_iff b a).mpr (.inr ⟨h.symm, by simp [hn, Bool.le_true]⟩), le_rfl⟩
    · exact ⟨.inl rfl, le_rfl, (FNum.key_le_iff a b).mpr (.inr ⟨h, by simp [hn, Bool.false_le]⟩)⟩
  · rw [if_neg h.not_gt, if_pos h]
    exact ⟨.inr rfl, (FNum.key_le_iff b a).mpr (.inl h), le_rfl⟩

/-- The extreme of numbers is one of them, or the start, and none passes it. -/
theorem Picks.foldl {β : Type} [Preorder β] {key : FNum → β} {best : FNum → FNum → FNum} (h : Picks key best) {xs : List FNum}
    (hxs : ∀ x ∈ xs, x.isNan = false) {a : FNum} (ha : a.isNan = false) :
    xs.foldl best a ∈ a :: xs ∧ ∀ x ∈ a :: xs, key x ≤ key (xs.foldl best a) := by
  induction xs generalizing a with
  | nil => simp
  | cons y r ih =>
    obtain ⟨hor, hka, hky⟩ := h a y ha (hxs y List.mem_cons_self)
    have hb : (best a y).isNan = false := by
      rcases hor with e | e
      · rw [e]; exact ha
      · rw [e]; exact hxs y List.mem_cons_self
    obtain ⟨hmem, hle⟩ := ih (fun x hx => hxs x (List.mem_cons_of_mem _ hx)) hb
    have hbest := hle _ List.mem_cons_self
    rw [List.foldl_cons]
    refine ⟨?_, ?_⟩
    · rcases List.mem_cons.mp hmem with e | hm
      · rw [e]
        rcases hor with e' | e' <;> rw [e'] <;> simp
      · exact List.mem_cons_of_mem _ (List.mem_cons_of_mem _ hm)
    · intro x hx
      rcases List.mem_cons.mp hx with rfl | hx
      · exact hka.trans hbest
      rcases List.mem_cons.mp hx with rfl | hx
      · exact hky.trans hbest
      · exact hle x (List.mem_cons_of_mem _ hx)

/-- From the least number on, the extreme of some numbers is one of them. -/
theorem Picks.foldl_mem {β : Type} [Preorder β] {key : FNum → β} {best : FNum → FNum → FNum} (h : Picks key best) {xs : List FNum}
    (hne : xs ≠ []) (hxs : ∀ x ∈ xs, x.isNan = false) {a : FNum} (ha : a.isNan = false)
    (least : ∀ x : FNum, x.isNan = false → key x ≤ key a → x = a) : xs.foldl best a ∈ xs := by
  obtain ⟨hmem, hle⟩ := h.foldl hxs ha
  rcases List.mem_cons.mp hmem with e | hm
  · obtain ⟨x, hx⟩ := List.exists_mem_of_ne_nil xs hne
    have hxa : x = a := least x (hxs x hx) (e ▸ hle x (List.mem_cons_of_mem _ hx))
    rw [e, ← hxa]
    exact hx
  · exact hm

theorem eq_negInf_of_key_le (x : FNum) (hx : x.isNan = false) (h : x.key ≤ (FNum.inf true).key) : x = .inf true := by
  rw [FNum.key_le_iff] at h
  rcases x with _ | ⟨_ | _⟩ | d <;> simp_all [FNum.isNan, FNum.rank, Prod.Lex.toLex_lt_toLex]

theorem eq_posInf_of_le_key (x : FNum) (hx : x.isNan = false) (h : (FNum.inf false).key ≤ x.key) : x = .inf false := by
  rw [FNum.key_le_iff] at h
  rcases x with _ | ⟨_ | _⟩ | d <;> simp_all [FNum.isNan, FNum.rank, Prod.Lex.toLex_lt_toLex]

/-- -0 stands below +0. -/
theorem key_negZero_lt : (num32 0x80000000).key < (num32 0).key := by
  have hlow : num32 0x80000000 = .fin ⟨true, 0, -149⟩ := by decide
  have hhigh : num32 0 = .fin ⟨false, 0, -149⟩ := by decide
  rw [hlow, hhigh]
  refine Prod.Lex.toLex_lt_toLex.mpr (.inr ⟨?_, by decide⟩)
  simp [FNum.rank, Dy.value]

/-! ## FP32 bits of a number that FP32 holds -/

/-- The fields of 32 bits: sign, exponent field and fraction. -/
theorem fp32_bits_eq (n : Nat) (h : n < 2 ^ 32) :
    fp32.signBits ((n >>> 31) % 2 == 1) + ((n >>> 23) % 256 * 2 ^ 23 + n % 2 ^ 23) = n := by
  simp only [Nat.shiftRight_eq_div_pow, FpFmt.signBits, fp32, beq_iff_eq]
  split <;> omega

/-- A number below the normal range, as FP32 holds it. -/
theorem fp32Exact_subnormal (neg : Bool) {f : Nat} (h : f < 2 ^ 23) :
    (fp32Exact (.fin ⟨neg, f, -149⟩)).bits = fp32.signBits neg + f := by
  by_cases h0 : f = 0
  · simp [fp32Exact, Dy.isZero, h0]
  · have hlog : f.log2 < 23 := (Nat.log2_lt h0).mpr h
    have hlow : Dy.log2 ⟨neg, f, -149⟩ < fp32.emin := by
      simp only [Dy.log2, FpFmt.emin, fp32]
      omega
    simp [fp32Exact, Dy.isZero, h0, hlow, Dy.quant]

/-- A number in the normal range, as FP32 holds it. -/
theorem fp32Exact_normal (neg : Bool) {e f : Nat} (he : 0 < e) (he' : e < 255) (hf : f < 2 ^ 23) :
    (fp32Exact (.fin ⟨neg, 2 ^ 23 + f, (e : Int) - 150⟩)).bits = fp32.signBits neg + (e * 2 ^ 23 + f) := by
  have hlog : (2 ^ 23 + f).log2 = 23 := (Nat.log2_eq_iff (by omega)).mpr ⟨by omega, by omega⟩
  have hd : Dy.log2 ⟨neg, 2 ^ 23 + f, (e : Int) - 150⟩ = (e : Int) - 127 := by
    rw [Dy.log2, hlog, Nat.cast_ofNat]
    exact (by omega : (23 : Int) + ((e : Int) - 150) = (e : Int) - 127)
  have hr : Dy.roundSig .rne fp32.p ⟨neg, 2 ^ 23 + f, (e : Int) - 150⟩ = ⟨neg, 2 ^ 23 + f, (e : Int) - 150⟩ := by
    rw [Dy.roundSig, hlog]; rfl
  have hz : Dy.isZero ⟨neg, 2 ^ 23 + f, (e : Int) - 150⟩ = false := by simp [Dy.isZero]
  have hmin : ¬ (e : Int) - 127 < fp32.emin := by simp only [FpFmt.emin, fp32]; omega
  have hmax : ¬ fp32.emax < (e : Int) - 127 := by simp only [FpFmt.emax, fp32]; omega
  have hq : (Dy.quant .trunc ((e : Int) - 127 - ((fp32.p - 1 : Nat) : Int)) ⟨neg, 2 ^ 23 + f, (e : Int) - 150⟩).mag = 2 ^ 23 + f := by
    have : (e : Int) - 127 - ((fp32.p - 1 : Nat) : Int) = (e : Int) - 150 := by simp only [fp32]; omega
    rw [this]; simp [Dy.quant]
  have he : ((e : Int) - 127 + (fp32.bias : Int)).toNat = e := by simp only [fp32]; omega
  simp only [fp32Exact, FpFmt.pack, hz, hd, hr, hmin, hmax, hq, he, Bool.false_eq_true, if_false, Nat.shiftLeft_eq]
  simp only [fp32, FpFmt.signBits]
  omega

/-- What 32 bits hold, by exponent field and fraction. -/
theorem num32_eq (w : Word) {neg : Bool} {e f : Nat} (hn : ((w.toNat >>> 31) % 2 == 1) = neg) (he : (w.toNat >>> 23) % 256 = e)
    (hf : w.toNat % 2 ^ 23 = f) : num32 w = if e = 255 then (if f = 0 then .inf neg else .nan)
      else if e = 0 then .fin ⟨neg, f, -149⟩ else .fin ⟨neg, 2 ^ 23 + f, (e : Int) - 150⟩ := by
  have hexp : (e : Int) - 127 - 23 = (e : Int) - 150 := by omega
  subst hn he hf
  rw [← hexp]
  rfl

/-- What bits hold packs to the same bits, NaN apart. -/
theorem fp32Exact_num32 {w : Word} (h : (num32 w).isNan = false) : BitVec.ofNat 32 (fp32Exact (num32 w)).bits = w := by
  have hbits := fp32_bits_eq w.toNat w.isLt
  have hf : w.toNat % 2 ^ 23 < 2 ^ 23 := Nat.mod_lt _ (by decide)
  have he : (w.toNat >>> 23) % 256 < 256 := Nat.mod_lt _ (by decide)
  have hw := num32_eq w rfl rfl rfl
  generalize ((w.toNat >>> 31) % 2 == 1) = neg at hbits hw
  generalize (w.toNat >>> 23) % 256 = e at hbits hw he
  generalize w.toNat % 2 ^ 23 = f at hbits hw hf
  suffices hsame : (fp32Exact (num32 w)).bits = w.toNat by rw [hsame, BitVec.ofNat_toNat, BitVec.setWidth_eq]
  rw [hw] at h ⊢
  rw [← hbits]
  split
  next htop =>
    rw [if_pos htop] at h
    split
    next hzero => rw [hzero, htop]; rfl
    next hfrac => rw [if_neg hfrac] at h; cases h
  next htop =>
    split
    next hlow => rw [hlow, Nat.zero_mul, Nat.zero_add]; exact fp32Exact_subnormal neg hf
    next hlow => exact fp32Exact_normal neg (by omega) (by omega) hf

end Sys2Proof.Machine
end

section
/-! PROOFS. How vector operations issue (R133): what they touch and what they leave, whichever registers they write. -/

namespace Sys2Proof.Machine

/-! ## What a vector operation touches -/

/-- The fields that vector operations change beside their sequence number: WIDE_INF and the counters. -/
def vecFlags : List Fld := .VEC_STATUS_WIDE_INF :: vecCounters.map Prod.fst

/-- Nothing has changed but vector, predicate and wide registers of a tile, its WIDE_INF and its vector counters. -/
structure VecTouched (s t : State) (p n : Nat) : Prop where
  slot : Slotted s t p n vecFlags
  tile : t.tile p n = { s.tile p n with
    vregs := (t.tile p n).vregs, pregs := (t.tile p n).pregs, wregs := (t.tile p n).wregs }

theorem VecTouched.refl (s : State) (p n : Nat) : VecTouched s s p n := ⟨Slotted.refl s p n _, rfl⟩

theorem VecTouched.trans {s t u : State} {p n : Nat} (h : VecTouched s t p n) (k : VecTouched t u p n) : VecTouched s u p n :=
  ⟨h.slot.trans k.slot (fun _ hf => hf) (fun _ hf => hf), by rw [k.tile, h.tile]⟩

/-- An action touches nothing else of a tile. -/
def Act.Vec (p n : Nat) (a : Act) : Prop := ∀ s, VecTouched s (a.run s) p n

section
variable {p n : Nat}

theorem Act.Vec.seq {a b : Act} (ha : a.Vec p n) (hb : b.Vec p n) : (a.seq b).Vec p n := fun s => by
  rw [Act.run_seq]; exact (ha s).trans (hb _)

theorem Act.Vec.ask {f : State → Act} (h : ∀ s, (f s).Vec p n) : (Act.ask f).Vec p n := fun s => h s s

theorem Act.Vec.all {as : List Act} (h : ∀ a ∈ as, a.Vec p n) : (Act.all as).Vec p n := by
  induction as with
  | nil => exact fun s => VecTouched.refl s p n
  | cons a r ih => exact (h a List.mem_cons_self).seq (ih fun b hb => h b (List.mem_cons_of_mem _ hb))

theorem Act.Vec.when {c : Bool} {a : Act} (h : a.Vec p n) : (Act.when c a).Vec p n := by
  cases c
  · exact fun s => VecTouched.refl s p n
  · exact h

theorem vec_modTile {f : Tile → Tile} (hf : ∀ x, f x = { x with vregs := (f x).vregs, pregs := (f x).pregs, wregs := (f x).wregs }) :
    (modTile p n f).Vec p n := fun s => by
  have hslot : (modTile p n f).Only (Upd.ofSlot p n vecFlags) := fun _ => ⟨⟨rfl, rfl⟩, trivial⟩
  refine ⟨hslot.slotted s, ?_⟩
  simp only [run_modTile, Upd.tile_tile_self]
  exact hf _

theorem vec_setVreg (d : Nat) (new : List Lane) : (setVreg p n d new).Vec p n := vec_modTile fun _ => rfl
theorem vec_setPreg (d : Nat) (new : PReg) : (setPreg p n d new).Vec p n := vec_modTile fun _ => rfl
theorem vec_setWreg (d : Nat) (new : Wide) : (setWreg p n d new).Vec p n := vec_modTile fun _ => rfl

theorem vec_setR {f : Fld} (hf : f ∈ vecFlags) (v : Nat) : (setR (tk f p n) v).Vec p n := fun s => by
  have hslot : (setR (tk f p n) v).Only (Upd.ofSlot p n vecFlags) :=
    ⟨⟨f, List.mem_append_right _ hf, 0, rfl⟩, trivial⟩
  exact ⟨hslot.slotted s, rfl⟩

theorem vec_bump {f : Fld} (hf : f ∈ vecFlags) (m : Nat) : (bump (tk f p n) m).Vec p n := Act.Vec.ask fun _ => vec_setR hf _

theorem vec_countLanes (os : List LaneOut) : (countLanes p n os).Vec p n := by
  refine Act.Vec.all ?_
  simp only [List.forall_mem_cons, List.not_mem_nil, false_imp_iff, implies_true, and_true]
  exact ⟨vec_bump (by decide) _, vec_bump (by decide) _, vec_bump (by decide) _, vec_bump (by decide) _⟩

theorem vec_putWide (d : Nat) (w : Wide) : (putWide p n d w).Vec p n :=
  (vec_setWreg d w).seq (vec_setR (by decide) 1).when

end

/-! ## What the small actions leave -/

theorem SMap.getD_put {α : Type} [DecidableEq α] (d : α) (m : SMap α) (j k : Nat) (v : α) :
    SMap.getD (SMap.put d m k v) j d = if j = k then v else SMap.getD m j d := by
  split
  next h => rw [h, SMap.getD_put_self]
  next h => exact SMap.getD_put_of_ne d m v h

theorem State.counted_congr {s t : State} {k : FKey} (h : t.rd k = s.rd k) (m : Nat) : t.counted k m = s.counted k m := by
  simp only [State.counted, h]

theorem width_wideInf : Fld.VEC_STATUS_WIDE_INF.width = 1 := rfl
theorem width_opSeq : Fld.VEC_STATUS_OP_SEQ.width = 16 := rfl

section
variable (p n d : Nat) (s : State)

@[simp] theorem tile_setVreg (new : List Lane) : ((setVreg p n d new).run s).tile p n =
    { s.tile p n with vregs := SMap.put (List.replicate 256 {}) (s.tile p n).vregs d new } := by
  rw [setVreg, run_modTile, Upd.tile_tile_self]

@[simp] theorem tile_setPreg (new : PReg) : ((setPreg p n d new).run s).tile p n =
    { s.tile p n with pregs := SMap.put {} (s.tile p n).pregs d new } := by
  rw [setPreg, run_modTile, Upd.tile_tile_self]

@[simp] theorem tile_putWide (new : Wide) : ((putWide p n d new).run s).tile p n =
    { s.tile p n with wregs := SMap.put {} (s.tile p n).wregs d new } := by
  cases hf : new.num.finite <;> simp [putWide, wideFlag, setWreg, hf]

@[simp] theorem vreg_setVreg (new : List Lane) (k : Nat) :
    ((setVreg p n d new).run s).vreg p n k = if k = d then new else s.vreg p n k := by
  rw [State.vreg, tile_setVreg]
  exact SMap.getD_put _ _ k d new

@[simp] theorem preg_setPreg (new : PReg) (k : Nat) :
    ((setPreg p n d new).run s).preg p n k = if k = d then new else s.preg p n k := by
  rw [State.preg, tile_setPreg]
  exact SMap.getD_put _ _ k d new

@[simp] theorem wreg_putWide (new : Wide) (k : Nat) :
    ((putWide p n d new).run s).wreg p n k = if k = d then new else s.wreg p n k := by
  rw [State.wreg, tile_putWide]
  exact SMap.getD_put _ _ k d new


/-- WIDE_INF shows a wide value that is not finite. -/
theorem wideInf_putWide (w : Wide) : ((putWide p n d w).run s).rd (tk .VEC_STATUS_WIDE_INF p n) =
    if w.num.finite = true then s.rd (tk .VEC_STATUS_WIDE_INF p n) else 1 := by
  cases hf : w.num.finite
  · simp only [putWide, wideFlag, hf, Act.run_seq, Act.run_when, Bool.not_false, if_true, run_setR, Upd.rd_reg_self,
      Bool.false_eq_true, if_false]
    exact congrArg (clipTo · 1) width_wideInf
  · simp only [putWide, wideFlag, hf, Act.run_seq, Act.run_when, Bool.not_true, Bool.false_eq_true, if_false, if_true]
    rfl

theorem rd_putWide_of_ne (w : Wide) {k : FKey} (h : k.f ≠ .VEC_STATUS_WIDE_INF) : ((putWide p n d w).run s).rd k = s.rd k := by
  cases hf : w.num.finite
  · simp only [putWide, wideFlag, hf, Act.run_seq, Act.run_when, Bool.not_false, if_true, run_setR]
    exact Upd.rd_reg_of_ne _ _ (FKey.code_ne h)
  · simp only [putWide, wideFlag, hf, Act.run_seq, Act.run_when, Bool.not_true, Bool.false_eq_true, if_false]
    rfl

theorem rd_bump_self (k : FKey) (m : Nat) : ((bump k m).run s).rd k = s.counted k m := by
  rw [run_bump, Upd.rd_reg_self, clipTo, State.counted]
  split
  · exact Nat.mod_eq_of_lt ((min_le_right _ _).trans_lt (Nat.sub_one_lt (Nat.two_pow_pos _).ne'))
  · rfl

theorem rd_bump_of_ne {k k' : FKey} (h : k'.f ≠ k.f) (m : Nat) : ((bump k m).run s).rd k' = s.rd k' :=
  Upd.rd_reg_of_ne _ _ (FKey.code_ne h)

theorem rd_bump_tile_of_ne {f g : Fld} (h : g ≠ f) (m : Nat) : ((bump (tk f p n) m).run s).rd (tk g p n) = s.rd (tk g p n) :=
  rd_bump_of_ne s h m

theorem counted_bump_tile_of_ne {f g : Fld} (h : g ≠ f) (m j : Nat) :
    ((bump (tk f p n) m).run s).counted (tk g p n) j = s.counted (tk g p n) j :=
  State.counted_congr (rd_bump_of_ne s h m) j

theorem run_countLanes (os : List LaneOut) : (countLanes p n os).run s =
    (bump (tk .VEC_FLUSH_OUT p n) ((os.map LaneOut.flush).sum)).run ((bump (tk .VEC_DOMAIN p n) ((os.map LaneOut.domain).sum)).run
      ((bump (tk .VEC_NONFINITE_OUT p n) ((os.map LaneOut.nfOut).sum)).run
        ((bump (tk .VEC_NONFINITE_IN p n) ((os.map LaneOut.nfIn).sum)).run s))) := by
  rw [countLanes, Act.run_all_cons, Act.run_all_cons, Act.run_all_cons, Act.run_all_cons, Act.run_all_nil]

@[simp] theorem tile_countLanes (os : List LaneOut) : ((countLanes p n os).run s).tile p n = s.tile p n := by
  simp only [run_countLanes, run_bump, Upd.tile_reg]

theorem wideInf_countLanes (os : List LaneOut) :
    ((countLanes p n os).run s).rd (tk .VEC_STATUS_WIDE_INF p n) = s.rd (tk .VEC_STATUS_WIDE_INF p n) := by
  simp (disch := decide) only [run_countLanes, rd_bump_tile_of_ne]

/-- Each vector counter rises by what the lanes count in it (R134). -/
theorem rd_countLanes (os : List LaneOut) : ∀ q ∈ vecCounters,
    ((countLanes p n os).run s).rd (tk q.1 p n) = s.counted (tk q.1 p n) ((os.map q.2).sum) := by
  rw [run_countLanes]
  simp only [vecCounters, List.forall_mem_cons, List.not_mem_nil, false_imp_iff, implies_true, and_true]
  simp (disch := decide) only [rd_bump_tile_of_ne, rd_bump_self, counted_bump_tile_of_ne, and_self]

end

/-! ## A vector operation issues (R133) -/

/-- What a vector operation finds once it has issued: it has its sequence number, and the tile's registers are as they were. -/
structure VecStarted (s u : State) (p n : Nat) : Prop where
  slot : Slotted s u p n [.VEC_STATUS_OP_SEQ]
  seq  : u.rd (tk .VEC_STATUS_OP_SEQ p n) = (s.tile p n).vecSeq % 65536
  tile : u.tile p n = { s.tile p n with
    issued := (u.tile p n).issued, vecSeq := (s.tile p n).vecSeq + 1, sfuUsed := (u.tile p n).sfuUsed, topUsed := (u.tile p n).topUsed }
  once : (u.tile p n).issued.v = true

/-- A vector operation marks its slot and takes its sequence number. -/
def takeSeq (p n vop : Nat) : Act := (modIssued p n (fun x => { x with v := true })).seq (.ask fun s =>
  (setR (tk .VEC_STATUS_OP_SEQ p n) ((s.tile p n).vecSeq % 65536)).seq (modTile p n (fun x => { x with
    vecSeq := x.vecSeq + 1, sfuUsed := x.sfuUsed || vop == 0x20, topUsed := x.topUsed || vop == 0x38 })))

theorem slot_takeSeq (p n vop : Nat) : (takeSeq p n vop).Only (Upd.ofSlot p n [.VEC_STATUS_OP_SEQ]) :=
  Act.only_seq (slot_modIssued p n _ _) fun _ =>
    Act.only_seq ⟨⟨.VEC_STATUS_OP_SEQ, by simp, 0, rfl⟩, trivial⟩ fun _ => ⟨⟨rfl, rfl⟩, trivial⟩

theorem vecStarted_takeSeq {s e : State} {p n : Nat} (h : Entered s e p n) (vop : Nat) : VecStarted s ((takeSeq p n vop).run e) p n where
  slot := h.slot.trans ((slot_takeSeq p n vop).slotted e) (by simp) (fun _ hf => hf)
  seq := by
    have hseq : (e.tile p n).vecSeq = (s.tile p n).vecSeq := by rw [h.tile]
    simp only [takeSeq, modIssued, Act.run_seq, Act.run_ask, run_setR, run_modTile, Upd.rd_tile, Upd.rd_reg_self, Upd.tile_tile_self, hseq]
    exact (congrArg (clipTo · _) width_opSeq).trans (Nat.mod_mod _ _)
  tile := by
    simp only [takeSeq, modIssued, Act.run_seq, Act.run_ask, run_setR, run_modTile, Upd.tile_reg, Upd.tile_tile_self]
    rw [h.tile]
  once := by
    simp only [takeSeq, modIssued, Act.run_seq, Act.run_ask, run_setR, run_modTile, Upd.tile_reg, Upd.tile_tile_self]

/-- A vector slot that issues marks itself and goes on. -/
theorem vSlot_issues {s : State} {p n : Nat} {b : Bundle} {v : VSlot} (h : s.IssuesV p n b v) {vop : Nat} (hop : v.vop = vop)
    (k : VSlot → Bundle → Act) :
    ∃ e, Entered s e p n ∧ (vSlot p n vop k).run s = (k v b).run ((modIssued p n (fun x => { x with v := true })).run e) := by
  obtain ⟨hb, rfl, hv⟩ := h
  obtain ⟨e, he, hE⟩ := slotRow_issues hb (is := fun b => (vslot b).vop == vop) (beq_iff_eq.mpr hop) (was := Issued.v) hv
    (fun _ _ _ hv _ => hv) (fun x => { x with v := true }) (fun b => k (vslot b) b)
  exact ⟨e, hE, he⟩

/-- A vector operation that issues starts and goes on. -/
theorem vecOp_issues {s : State} {p n : Nat} {b : Bundle} {v : VSlot} (h : s.IssuesV p n b v) {vop : Nat} (hop : v.vop = vop)
    (k : VSlot → Bundle → Act) : ∃ u, VecStarted s u p n ∧ (vecOp p n vop k).run s = (k v b).run u := by
  obtain ⟨e, hE, he⟩ := vSlot_issues h hop (fun v b => .ask fun s => Act.all [
    setR (tk .VEC_STATUS_OP_SEQ p n) ((s.tile p n).vecSeq % 65536), modTile p n (fun x => { x with
      vecSeq := x.vecSeq + 1, sfuUsed := x.sfuUsed || vop == 0x20, topUsed := x.topUsed || vop == 0x38 }),
    k v b])
  refine ⟨_, vecStarted_takeSeq hE vop, he.trans ?_⟩
  simp only [takeSeq, Act.run_seq, Act.run_ask, Act.run_all_cons, Act.run_all_nil]

namespace VecStarted
variable {s u : State} {p n : Nat} (h : VecStarted s u p n)
include h

theorem vreg (k : Nat) : u.vreg p n k = s.vreg p n k := by rw [State.vreg, h.tile, State.vreg]
theorem preg (k : Nat) : u.preg p n k = s.preg p n k := by rw [State.preg, h.tile, State.preg]
theorem wreg (k : Nat) : u.wreg p n k = s.wreg p n k := by rw [State.wreg, h.tile, State.wreg]
theorem sreg (k : Nat) : u.sreg p n k = s.sreg p n k := by rw [State.sreg, h.tile, State.sreg]

theorem rd {f : Fld} (hf : f ∉ ([.TSQ_STATUS_STALL, .TSQ_STALL_CLK, .VEC_STATUS_OP_SEQ] : List Fld)) :
    u.rd (tk f p n) = s.rd (tk f p n) := h.slot.rd hf

theorem vmode (d : Nat) : u.vmode p n d = s.vmode p n d := by
  rw [State.vmode, h.rd (by decide), State.vmode]

theorem laneOn (v : VSlot) : u.laneOn p n v = s.laneOn p n v := by
  funext i; rw [State.laneOn, h.preg, State.laneOn]
theorem lanePoison (v : VSlot) : u.lanePoison p n v = s.lanePoison p n v := by
  funext i; rw [State.lanePoison, h.preg, State.lanePoison]
theorem activeLanes (v : VSlot) : u.activeLanes p n v = s.activeLanes p n v := by
  rw [State.activeLanes, h.laneOn, State.activeLanes]
theorem reduced (v : VSlot) : u.reduced p n v = s.reduced p n v := by
  rw [State.reduced, h.activeLanes, h.vreg, State.reduced]
theorem reducedPoison (v : VSlot) : u.reducedPoison p n v = s.reducedPoison p n v := by
  rw [State.reducedPoison, h.reduced, h.lanePoison, State.reducedPoison]
theorem topPrev (v : VSlot) : u.topPrev p n v = s.topPrev p n v := by
  simp only [State.topPrev, h.vreg]
theorem topAll (v : VSlot) : u.topAll p n v = s.topAll p n v := by
  simp only [State.topAll, State.scalar, h.topPrev, h.activeLanes, h.vreg, h.sreg]

/-- What has only been touched since has issued. -/
theorem done {t : State} (k : VecTouched u t p n) : VecDone s t p n where
  seq := (k.slot.rd (show Fld.VEC_STATUS_OP_SEQ ∉ _ by decide)).trans h.seq
  tile := by rw [k.tile, h.tile]
  once := by rw [k.tile]; exact h.once

theorem slotted {t : State} (k : VecTouched u t p n) : VecSlotted s t p n :=
  h.slot.trans k.slot (by simp) (by decide)

end VecStarted

/-! ## Lanes and predicate bits -/

theorem lane_map_range (g : Nat → Lane) {i : Nat} (h : i < 256) : lane ((List.range 256).map g) i = g i := by
  simp [lane, List.getD_eq_getElem?_getD, h]

/-- A register with one lane replaced. -/
theorem lane_setLane (xs : List Lane) (k : Nat) (x : Lane) {i : Nat} (h : i < 256) :
    lane (setLane xs k x) i = if i = k then x else lane xs i := lane_map_range _ h

/-- Lanes in place of a register's first ones. -/
theorem lane_append_drop {new : List Lane} {k : Nat} (h : new.length = k) (old : List Lane) (i : Nat) :
    lane (new ++ old.drop k) i = if i < k then lane new i else lane old i := by
  subst h
  simp only [lane, List.getD_eq_getElem?_getD, List.getElem?_append, List.getElem?_drop]
  split
  · rfl
  · rw [Nat.add_sub_cancel' (by omega)]

/-- Bits packed below bit `m`. -/
theorem testBit_foldl_range (f : Nat → Bool) (m i : Nat) :
    (List.range m).foldl (fun a i => if f i then a + 2 ^ i else a) 0 < 2 ^ m ∧
    ((List.range m).foldl (fun a i => if f i then a + 2 ^ i else a) 0).testBit i = (decide (i < m) && f i) := by
  induction m with
  | zero => simp
  | succ m ih =>
    obtain ⟨hlt, hbit⟩ := ih
    rw [List.range_succ, List.foldl_append, List.foldl_cons, List.foldl_nil]
    generalize (List.range m).foldl (fun a i => if f i then a + 2 ^ i else a) 0 = a at hlt hbit
    refine ⟨by rw [Nat.pow_succ]; split <;> omega, ?_⟩
    rcases lt_trichotomy i m with him | rfl | him
    · have hs : i < m + 1 := by omega
      split
      · rw [Nat.add_comm, Nat.testBit_two_pow_add_gt him, hbit]; simp [him, hs]
      · rw [hbit]; simp [him, hs]
    · split
      next hf => rw [Nat.add_comm, Nat.testBit_two_pow_add_eq, hbit]; simp [hf]
      next hf => rw [hbit]; simp [hf]
    · have hs : ¬ i < m + 1 := by omega
      have hpow : 2 ^ (m + 1) ≤ 2 ^ i := Nat.pow_le_pow_right Nat.two_pos him
      rw [Nat.pow_succ] at hpow
      rw [Nat.testBit_lt_two_pow (by split <;> omega)]
      simp [hs]

theorem getLsbD_packBits (f : Nat → Bool) {i : Nat} (h : i < 256) : (packBits f).getLsbD i = f i := by
  rw [packBits, BitVec.getLsbD_ofNat, (testBit_foldl_range f 256 i).2]
  simp [h]

theorem filterMap_ite {α : Type} (g : Nat → α) (q : Nat → Bool) (xs : List Nat) :
    xs.filterMap (fun i => if q i then some (g i) else none) = (xs.filter q).map g := by
  induction xs with
  | nil => rfl
  | cons x r ih => cases hq : q x <;> simp [hq, ih]

/-! ## A vector register takes new lanes -/

@[simp] theorem vreg_countLanes (p n : Nat) (os : List LaneOut) (s : State) (k : Nat) :
    ((countLanes p n os).run s).vreg p n k = s.vreg p n k := by rw [State.vreg, tile_countLanes, State.vreg]
@[simp] theorem preg_countLanes (p n : Nat) (os : List LaneOut) (s : State) (k : Nat) :
    ((countLanes p n os).run s).preg p n k = s.preg p n k := by rw [State.preg, tile_countLanes, State.preg]
@[simp] theorem pregs_setVreg (p n d : Nat) (new : List Lane) (s : State) :
    (((setVreg p n d new).run s).tile p n).pregs = (s.tile p n).pregs := by rw [tile_setVreg]
@[simp] theorem wregs_setVreg (p n d : Nat) (new : List Lane) (s : State) :
    (((setVreg p n d new).run s).tile p n).wregs = (s.tile p n).wregs := by rw [tile_setVreg]

/-- A vector operation has given one vector register new lanes and counted what lanes count. -/
structure VregTaken (s t : State) (p n d : Nat) (new : List Lane) (os : List LaneOut) : Prop where
  done   : VecDone s t p n
  frame  : VecSlotted s t p n
  regs   : OnlyVregs s t p n [d]
  value  : t.vreg p n d = new
  counts : ∀ q ∈ vecCounters, t.rd (tk q.1 p n) = s.counted (tk q.1 p n) ((os.map q.2).sum)

theorem VecStarted.counted {s u : State} {p n : Nat} (h : VecStarted s u p n) :
    ∀ q ∈ vecCounters, ∀ m, u.counted (tk q.1 p n) m = s.counted (tk q.1 p n) m := by
  intro q hq m
  refine State.counted_congr (h.rd ?_) m
  revert q
  decide

/-- With no register named, vector registers, predicates and wide accumulators are unchanged. -/
theorem VecStarted.onlyVregs {s u : State} {p n : Nat} (h : VecStarted s u p n) (ds : List Nat) : OnlyVregs s u p n ds where
  vregs k _ := h.vreg k
  pregs := by rw [h.tile]
  wregs := by rw [h.tile]

theorem VecStarted.vregTaken {s u : State} {p n : Nat} (h : VecStarted s u p n) (d : Nat) (new : List Lane) (os : List LaneOut) :
    VregTaken s (((setVreg p n d new).seq (countLanes p n os)).run u) p n d new os := by
  have htouch := ((vec_setVreg d new).seq (vec_countLanes (p := p) (n := n) os)) u
  refine ⟨h.done htouch, h.slotted htouch, ⟨?_, ?_, ?_⟩, ?_, ?_⟩
  · intro k hk
    rw [Act.run_seq, vreg_countLanes, vreg_setVreg, if_neg (by simpa using hk), h.vreg]
  · rw [Act.run_seq, tile_countLanes, pregs_setVreg, h.tile]
  · rw [Act.run_seq, tile_countLanes, wregs_setVreg, h.tile]
  · rw [Act.run_seq, vreg_countLanes, vreg_setVreg, if_pos rfl]
  · intro q hq
    rw [Act.run_seq, rd_countLanes _ _ _ _ q hq]
    exact h.counted q hq _

/-! ## A predicate register takes new bits -/

/-- A vector operation has given one predicate register a value and counted what lanes count. -/
structure PregTaken (s t : State) (p n d : Nat) (new : PReg) (os : List LaneOut) : Prop where
  done   : VecDone s t p n
  frame  : VecSlotted s t p n
  value  : t.preg p n d = new
  rest   : ∀ k, k ≠ d → t.preg p n k = s.preg p n k
  vregs  : (t.tile p n).vregs = (s.tile p n).vregs
  wregs  : (t.tile p n).wregs = (s.tile p n).wregs
  counts : ∀ q ∈ vecCounters, t.rd (tk q.1 p n) = s.counted (tk q.1 p n) ((os.map q.2).sum)

theorem VecStarted.pregTaken {s u : State} {p n : Nat} (h : VecStarted s u p n) (d : Nat) (new : PReg) (os : List LaneOut) :
    PregTaken s (((setPreg p n d new).seq (countLanes p n os)).run u) p n d new os := by
  have htouch := ((vec_setPreg d new).seq (vec_countLanes (p := p) (n := n) os)) u
  refine ⟨h.done htouch, h.slotted htouch, ?_, ?_, ?_, ?_, ?_⟩
  · rw [Act.run_seq, preg_countLanes, preg_setPreg, if_pos rfl]
  · intro k hk
    rw [Act.run_seq, preg_countLanes, preg_setPreg, if_neg hk, h.preg]
  · rw [Act.run_seq, tile_countLanes, tile_setPreg, h.tile]
  · rw [Act.run_seq, tile_countLanes, tile_setPreg, h.tile]
  · intro q hq
    rw [Act.run_seq, rd_countLanes _ _ _ _ q hq]
    exact h.counted q hq _

/-! ## A wide accumulator takes a value -/

theorem VecStarted.wideTaken {s u : State} {p n : Nat} (h : VecStarted s u p n) (d : Nat) (w : Wide) (c : Bool) (os : List LaneOut) :
    WideTaken s (((putWide p n d w).seq (Act.when c (countLanes p n os))).run u) p n d w := by
  have htouch := ((vec_putWide d w).seq (Act.Vec.when (c := c) (vec_countLanes (p := p) (n := n) os))) u
  have htile : (((putWide p n d w).seq (Act.when c (countLanes p n os))).run u).tile p n = ((putWide p n d w).run u).tile p n := by
    cases c <;> simp
  refine ⟨h.done htouch, h.slotted htouch, ?_, ?_, ?_, ?_, ?_⟩
  · rw [State.wreg, htile]
    exact (wreg_putWide p n d u w d).trans (if_pos rfl)
  · intro k hk
    rw [State.wreg, htile]
    exact ((wreg_putWide p n d u w k).trans (if_neg hk)).trans (h.wreg k)
  · rw [htile, tile_putWide, h.tile]
  · rw [htile, tile_putWide, h.tile]
  · have hrd := wideInf_putWide p n d u w
    rw [h.rd (by decide)] at hrd
    rw [← hrd]
    cases c
    · simp only [Act.run_seq, Act.run_when, Bool.false_eq_true, if_false]
    · simp only [Act.run_seq, Act.run_when, if_true, wideInf_countLanes]

/-- The counters after a wide accumulator has taken a value. -/
theorem VecStarted.wideCounts {s u : State} {p n : Nat} (h : VecStarted s u p n) (d : Nat) (w : Wide) (os : List LaneOut) :
    ∀ q ∈ vecCounters, (((putWide p n d w).seq (countLanes p n os)).run u).rd (tk q.1 p n) =
      s.counted (tk q.1 p n) ((os.map q.2).sum) := by
  intro q hq
  have hne : ∀ q ∈ vecCounters, q.1 ≠ .VEC_STATUS_WIDE_INF := by decide
  rw [Act.run_seq, rd_countLanes _ _ _ _ q hq, State.counted_congr (rd_putWide_of_ne p n d u w (hne q hq))]
  exact h.counted q hq _

/-- A vector operation that gives one vector register new lanes. -/
theorem vecOp_vregTaken {s : State} {p n : Nat} {b : Bundle} {v : VSlot} (h : s.IssuesV p n b v) {vop : Nat} (hop : v.vop = vop)
    {k : VSlot → Bundle → Act} {d : Nat} {new : List Lane} {os : List LaneOut}
    (hk : ∀ u, VecStarted s u p n → (k v b).run u = ((setVreg p n d new).seq (countLanes p n os)).run u) :
    VregTaken s ((vecOp p n vop k).run s) p n d new os := by
  obtain ⟨u, hu, hrun⟩ := vecOp_issues h hop k
  rw [hrun, hk u hu]
  exact hu.vregTaken d new os

/-- A vector operation that gives a predicate register a value. -/
theorem vecOp_pregTaken {s : State} {p n : Nat} {b : Bundle} {v : VSlot} (h : s.IssuesV p n b v) {vop : Nat} (hop : v.vop = vop)
    {k : VSlot → Bundle → Act} {d : Nat} {new : PReg} {os : List LaneOut}
    (hk : ∀ u, VecStarted s u p n → (k v b).run u = ((setPreg p n d new).seq (countLanes p n os)).run u) :
    PregTaken s ((vecOp p n vop k).run s) p n d new os := by
  obtain ⟨u, hu, hrun⟩ := vecOp_issues h hop k
  rw [hrun, hk u hu]
  exact hu.pregTaken d new os

/-- A vector operation that gives a wide accumulator a value, and may count. -/
theorem vecOp_wideTaken {s : State} {p n : Nat} {b : Bundle} {v : VSlot} (h : s.IssuesV p n b v) {vop : Nat} (hop : v.vop = vop)
    {k : VSlot → Bundle → Act} {d : Nat} {w : Wide} (c : Bool) (os : List LaneOut)
    (hk : ∀ u, VecStarted s u p n → (k v b).run u = ((putWide p n d w).seq (Act.when c (countLanes p n os))).run u) :
    WideTaken s ((vecOp p n vop k).run s) p n d w := by
  obtain ⟨u, hu, hrun⟩ := vecOp_issues h hop k
  rw [hrun, hk u hu]
  exact hu.wideTaken d w c os

end Sys2Proof.Machine
end

section
/-! PROOFS. Inactive lanes (R121): lane operations leave them alone, and comparisons, sums, extremes and top-k leave them out. -/

namespace Sys2Proof.Machine

/-! ## Lane operations -/

/-- What a lane operation leaves in lane `i` of VD, where `f` gives the results of active lanes. -/
def State.laneResult (s : State) (p n : Nat) (v : VSlot) (f : Nat → LaneOut) (i : Nat) : Lane :=
  if s.laneOn p n v i then { (f i).lane with poison := (f i).lane.poison || s.lanePoison p n v i } else lane (s.vreg p n v.vd) i

theorem mapIdx_map_range {α β : Type} (F : Nat → α → β) (g : Nat → α) (m : Nat) :
    ((List.range m).map g).mapIdx F = (List.range m).map (fun i => F i (g i)) := by
  apply List.ext_getElem <;> simp

/-- A lane operation that reads nothing that issuing changes gives the active lanes their results. -/
theorem laneOp_vregTaken {s : State} {p n : Nat} {b : Bundle} {v : VSlot} (h : s.IssuesV p n b v) {vop : Nat} (hop : v.vop = vop)
    {f : State → VSlot → Bundle → Nat → LaneOut} (hf : ∀ u, VecStarted s u p n → f u v b = f s v b) :
    VregTaken s ((laneOp p n vop f).run s) p n v.vd ((List.range 256).map (s.laneResult p n v (f s v b)))
      ((s.activeLanes p n v).map (f s v b)) := by
  refine vecOp_vregTaken h hop fun u hu => ?_
  simp only [Act.run_ask, hf u hu, hu.vreg, hu.laneOn, hu.lanePoison, mapIdx_map_range, List.filterMap_map, Function.id_comp,
    filterMap_ite, State.activeLanes]
  congr 3
  refine List.map_congr_left fun i _ => ?_
  rw [State.laneResult]
  cases s.laneOn p n v i <;> rfl

theorem laneOp_taken {s : State} {p n : Nat} {b : Bundle} {v : VSlot} (h : s.IssuesV p n b v) {vop : Nat} (hop : v.vop = vop)
    {f : State → VSlot → Bundle → Nat → LaneOut} (hf : ∀ u, VecStarted s u p n → f u v b = f s v b) :
    LanesTaken s ((laneOp p n vop f).run s) p n v (f s v b) where
  done := (laneOp_vregTaken h hop hf).done
  frame := (laneOp_vregTaken h hop hf).frame
  regs := (laneOp_vregTaken h hop hf).regs
  on i hi hon := by rw [(laneOp_vregTaken h hop hf).value, lane_map_range _ hi, State.laneResult, if_pos hon]
  off i hi hoff := by rw [(laneOp_vregTaken h hop hf).value, lane_map_range _ hi, State.laneResult, hoff]; rfl
  counts q hq := by rw [(laneOp_vregTaken h hop hf).counts q hq, List.map_map]; rfl

/-- Inactive lanes of VD keep their values, and VEC_NONFINITE_IN rises by the infinities and NaNs in what active lanes read (R121). -/
structure InactiveKept (s t : State) (p n : Nat) (v : VSlot) (reads : Nat → List Lane) : Prop where
  off  : ∀ i, i < 256 → s.laneOn p n v i = false → lane (t.vreg p n v.vd) i = lane (s.vreg p n v.vd) i
  nfIn : t.rd (tk .VEC_NONFINITE_IN p n) =
    s.counted (tk .VEC_NONFINITE_IN p n) (((s.activeLanes p n v).map (fun i => nonfiniteOf (reads i))).sum)

theorem LanesTaken.inactiveKept {s t : State} {p n : Nat} {v : VSlot} {f : Nat → LaneOut} (h : LanesTaken s t p n v f)
    {reads : Nat → List Lane} (hf : ∀ i, (f i).nfIn = nonfiniteOf (reads i)) : InactiveKept s t p n v reads where
  off := h.off
  nfIn := by simp only [← hf]; exact h.counts (.VEC_NONFINITE_IN, LaneOut.nfIn) List.mem_cons_self

/-- The lanes that lane operation `v` reads for lane `i`. -/
def State.laneReads (s : State) (p n : Nat) (v : VSlot) (i : Nat) : List Lane :=
  if [1, 2, 3, 5, 6, 0x11].contains v.vop = true then [lane (s.vreg p n v.va) i, lane (s.vreg p n v.vb) i]
  else if v.vop = 4 then [lane (s.vreg p n v.va) i, lane (s.vreg p n v.vb) i, lane (s.vreg p n v.vc) i]
  else if v.vop = 7 ∨ v.vop = 8 ∨ v.vop = 0x20 ∨ v.vop = 0x18 ∧ v.fn = 0 then [lane (s.vreg p n v.va) i]
  else if v.vop = 0x3C then [lane (s.vreg p n v.va) (permLane v.fn i)] else []

section
variable {s : State} {p n : Nat} {b : Bundle} {v : VSlot} (h : s.IssuesV p n b v)
include h

theorem arithOne_inactiveKept {vop : Nat} (hop : v.vop = vop) (hr : s.laneReads p n v = fun i => [lane (s.vreg p n v.va) i])
    (f : FNum → FNum) : InactiveKept s ((arithOne p n vop f).run s) p n v (s.laneReads p n v) := by
  rw [arithOne, laneOne, hr]
  refine (laneOp_taken h hop fun u hu => ?_).inactiveKept fun i => rfl
  simp only [hu.vreg, hu.vmode]

theorem arithTwo_inactiveKept {vop : Nat} (hop : v.vop = vop)
    (hr : s.laneReads p n v = fun i => [lane (s.vreg p n v.va) i, lane (s.vreg p n v.vb) i])
    (f : FNum → FNum → FNum) : InactiveKept s ((arithTwo p n vop f).run s) p n v (s.laneReads p n v) := by
  rw [arithTwo, laneTwo, hr]
  refine (laneOp_taken h hop fun u hu => ?_).inactiveKept fun i => rfl
  simp only [hu.vreg, hu.vmode]

theorem vfma_inactiveKept (hop : v.vop = 4) : InactiveKept s ((actVfma p n).run s) p n v (s.laneReads p n v) := by
  rw [actVfma]
  refine (laneOp_taken h hop fun u hu => ?_).inactiveKept fun i => ?_
  · simp only [hu.vreg, hu.vmode]
  · simp only [State.laneReads, hop, laneArith]; rfl

theorem vsel_inactiveKept (hop : v.vop = 0x11) : InactiveKept s ((actVsel p n).run s) p n v (s.laneReads p n v) := by
  rw [actVsel]
  refine (laneOp_taken h hop fun u hu => ?_).inactiveKept fun i => ?_
  · simp only [hu.vreg, hu.preg]
  · simp only [State.laneReads, hop]; rfl

theorem vcvt_inactiveKept (hop : v.vop = 0x18) : InactiveKept s ((actVcvt p n).run s) p n v (s.laneReads p n v) := by
  rw [actVcvt]
  refine (laneOp_taken h hop fun u hu => ?_).inactiveKept fun i => ?_
  · simp only [hu.vreg, hu.vmode]
  · by_cases hfn : v.fn = 0
    · simp only [State.laneReads, hop, hfn, if_true, laneBits]; rfl
    · simp only [State.laneReads, hop, hfn, if_false]; rfl

theorem vsfu_inactiveKept (hop : v.vop = 0x20) : InactiveKept s ((actVsfu p n).run s) p n v (s.laneReads p n v) := by
  rw [actVsfu]
  refine (laneOp_taken h hop fun u hu => ?_).inactiveKept fun i => ?_
  · simp only [hu.vreg]
  · simp only [State.laneReads, hop]; rfl

theorem wbc_inactiveKept (hop : v.vop = 0x34) : InactiveKept s ((actWbc p n).run s) p n v (s.laneReads p n v) := by
  rw [actWbc]
  refine (laneOp_taken h hop fun u hu => ?_).inactiveKept fun i => ?_
  · simp only [hu.wreg]
  · simp only [State.laneReads, hop]; rfl

theorem vperm_inactiveKept (hop : v.vop = 0x3C) : InactiveKept s ((actVperm p n).run s) p n v (s.laneReads p n v) := by
  rw [actVperm]
  refine (laneOp_taken h hop fun u hu => ?_).inactiveKept fun i => ?_
  · simp only [hu.vreg]
  · simp only [State.laneReads, hop, laneBits]; rfl

/-- VMOVI and VMOVS read no lane. -/
theorem move_inactiveKept {vop : Nat} (hop : v.vop = vop) (hr : s.laneReads p n v = fun _ => []) (w : State → VSlot → Bundle → Word)
    (hw : ∀ u, VecStarted s u p n → w u v b = w s v b) :
    InactiveKept s ((laneOp p n vop (fun s v b _ => { lane := ⟨w s v b, false⟩ })).run s) p n v (s.laneReads p n v) := by
  rw [hr]
  refine (laneOp_taken h hop fun u hu => ?_).inactiveKept fun i => rfl
  simp only [hw u hu]

end

/-- Every lane operation, with its opcode, leaves inactive lanes alone (R121). -/
theorem laneRows_inactiveKept {s : State} {p : PileId} {n : TileId} {b : Bundle} {v : VSlot} (h : s.IssuesV p.val n.val b v) :
    ∀ o ∈ [(1, Instr.vadd p n), (2, .vsub p n), (3, .vmul p n), (4, .vfma p n), (5, .vmin p n), (6, .vmax p n), (7, .vabs p n),
      (8, .vneg p n), (0x11, .vsel p n), (0x18, .vcvt p n), (0x20, .vsfu p n), (0x34, .wbc p n), (0x3C, .vperm p n), (0x48, .vmovi p n),
      (0x49, .vmovs p n)], v.vop = o.1 →
    ∃ t, exec o.2 s = .next t ∧ InactiveKept s t p.val n.val v (s.laneReads p.val n.val v) := by
  have reads : ∀ {xs : Nat → List Lane}, (∀ i, s.laneReads p.val n.val v i = xs i) → s.laneReads p.val n.val v = xs := funext
  simp only [List.forall_mem_cons, List.not_mem_nil, false_imp_iff, implies_true, and_true]
  refine ⟨fun hop => ⟨_, rfl, arithTwo_inactiveKept h hop (reads fun i => ?_) _⟩,
    fun hop => ⟨_, rfl, arithTwo_inactiveKept h hop (reads fun i => ?_) _⟩,
    fun hop => ⟨_, rfl, arithTwo_inactiveKept h hop (reads fun i => ?_) _⟩,
    fun hop => ⟨_, rfl, vfma_inactiveKept h hop⟩,
    fun hop => ⟨_, rfl, arithTwo_inactiveKept h hop (reads fun i => ?_) _⟩,
    fun hop => ⟨_, rfl, arithTwo_inactiveKept h hop (reads fun i => ?_) _⟩,
    fun hop => ⟨_, rfl, arithOne_inactiveKept h hop (reads fun i => ?_) _⟩,
    fun hop => ⟨_, rfl, arithOne_inactiveKept h hop (reads fun i => ?_) _⟩,
    fun hop => ⟨_, rfl, vsel_inactiveKept h hop⟩, fun hop => ⟨_, rfl, vcvt_inactiveKept h hop⟩,
    fun hop => ⟨_, rfl, vsfu_inactiveKept h hop⟩, fun hop => ⟨_, rfl, wbc_inactiveKept h hop⟩,
    fun hop => ⟨_, rfl, vperm_inactiveKept h hop⟩,
    fun hop => ⟨_, rfl, move_inactiveKept h hop (reads fun i => ?_) (fun _ _ b => BitVec.ofNat 32 b.imm) fun _ _ => rfl⟩,
    fun hop => ⟨_, rfl, move_inactiveKept h hop (reads fun i => ?_) (fun s v _ => s.sreg p.val n.val v.sx) fun _ hu => hu.sreg _⟩⟩
  all_goals simp only [State.laneReads, hop]; rfl

/-! ## Comparing (R149) -/

/-- What VCMP leaves in its predicate: active lanes take the comparison and the poison of what they read; the others keep theirs. -/
def State.compared (s : State) (p n : Nat) (v : VSlot) : PReg :=
  { bits := packBits (fun i => if s.laneOn p n v i = true then
      fnumCond v.fn (num32 (lane (s.vreg p n v.va) i).bits) (num32 (lane (s.vreg p n v.vb) i).bits)
      else (s.preg p n v.vd).bits.getLsbD i)
    poison := packBits (fun i => if s.laneOn p n v i = true then
      (lane (s.vreg p n v.va) i).poison || (lane (s.vreg p n v.vb) i).poison || s.lanePoison p n v i
      else (s.preg p n v.vd).poison.getLsbD i) }

theorem poisonOf_pair (x y : Lane) : poisonOf [x, y] = (x.poison || y.poison) := by simp [poisonOf]

theorem vcmp_pregTaken {s : State} {p n : Nat} {b : Bundle} {v : VSlot} (h : s.IssuesV p n b v) (hop : v.vop = 0x10) :
    PregTaken s ((actVcmp p n).run s) p n v.vd (s.compared p n v)
      ((s.activeLanes p n v).map (fun i => laneBits [lane (s.vreg p n v.va) i, lane (s.vreg p n v.vb) i] 0)) := by
  refine vecOp_pregTaken h hop fun u hu => ?_
  simp only [Act.run_ask, hu.vreg, hu.preg, hu.laneOn, hu.lanePoison, hu.activeLanes, poisonOf_pair, State.compared]

/-! ## One lane of a register -/

/-- One lane of VD has taken a value, and no other lane or register has changed. -/
structure OneLane (s t : State) (p n d k : Nat) (x : Lane) : Prop where
  done  : VecDone s t p n
  frame : VecSlotted s t p n
  regs  : OnlyVregs s t p n [d]
  lanes : ∀ i, i < 256 → lane (t.vreg p n d) i = if i = k then x else lane (s.vreg p n d) i

theorem VregTaken.oneLane {s t : State} {p n : Nat} {d k : Nat} {x : Lane} {os : List LaneOut}
    (ht : VregTaken s t p n d (setLane (s.vreg p n d) k x) os) : OneLane s t p n d k x where
  done := ht.done
  frame := ht.frame
  regs := ht.regs
  lanes i hi := by rw [ht.value, lane_setLane _ _ _ hi]

/-- What VMAXR or VMINR writes. -/
def State.extremeWord (s : State) (p n : Nat) (v : VSlot) (max : Bool) (best : FNum → FNum → FNum) (start : FNum) : Word :=
  let xs := s.reduced p n v
  if xs.any (fun x => (num32 x.bits).isNan) then
    BitVec.ofNat 32 (fp32Exact (num32 (lane xs (Config.extremeOfNan max (xs.map Lane.bits) % xs.length)).bits)).bits
  else BitVec.ofNat 32 (fp32Exact (extreme best start xs)).bits

/-! ## Sums and wide scalars (R124) -/

section
variable {s : State} {p n : Nat} {b : Bundle} {v : VSlot} (h : s.IssuesV p n b v)
include h

/-- The exact sum of the active lanes, each under `f`, added to the accumulator and rounded once. -/
theorem sumOp_wideTaken {vop : Nat} (hop : v.vop = vop) (f : FNum → FNum) : WideTaken s ((sumOp p n vop f).run s) p n v.vd
    ⟨wideRound ((s.wreg p n v.vd).num.add (exactSum ((s.reduced p n v).map (fun x => f (num32 x.bits))))),
      (s.wreg p n v.vd).poison || s.reducedPoison p n v⟩ :=
  vecOp_wideTaken h hop true [laneBits (s.reduced p n v) 0] fun u hu => by
    simp only [Act.run_ask, hu.reduced, hu.wreg, hu.reducedPoison]; rfl

theorem sumOp_nfIn {vop : Nat} (hop : v.vop = vop) (f : FNum → FNum) : ((sumOp p n vop f).run s).rd (tk .VEC_NONFINITE_IN p n) =
    s.counted (tk .VEC_NONFINITE_IN p n) (nonfiniteOf (s.reduced p n v)) := by
  rw [sumOp]
  obtain ⟨u, hu, hrun⟩ := vecOp_issues h hop _
  rw [hrun, Act.run_ask]
  exact (hu.wideCounts v.vd _ _ (.VEC_NONFINITE_IN, LaneOut.nfIn) List.mem_cons_self).trans (by rw [hu.reduced]; rfl)

/-- A wide scalar operation. -/
theorem wideOp_wideTaken {vop : Nat} (hop : v.vop = vop) (f : Wide → Wide → Wide) :
    WideTaken s ((wideOp p n vop f).run s) p n v.vd (f (s.wreg p n v.va) (s.wreg p n v.vb)) :=
  vecOp_wideTaken h hop false [] fun u hu => by
    simp only [Act.run_ask, hu.wreg, Act.run_seq, Act.run_when, Bool.false_eq_true, if_false]

/-- WSET takes its lane's value exactly, whether or not the lane is active. -/
theorem wset_wideTaken (hop : v.vop = 0x35) : WideTaken s ((actWset p n).run s) p n v.vd
    ⟨num32 (lane (s.vreg p n v.va) v.fn).bits, (lane (s.vreg p n v.va) v.fn).poison⟩ :=
  vecOp_wideTaken h hop (s.laneOn p n v v.fn) [laneBits [lane (s.vreg p n v.va) v.fn] 0] fun u hu => by
    simp only [Act.run_ask, hu.vreg, hu.laneOn]

/-! ## A wide accumulator to a lane (R124) -/

/-- WRD writes its lane where it is active, and nothing else. -/
theorem wrd_oneLane (hop : v.vop = 0x33) : OneLane s ((actWrd p n).run s) p n v.vd v.fn (if s.laneOn p n v v.fn = true then
    ⟨rnd32 (s.wreg p n v.va).num, (s.wreg p n v.va).poison || s.lanePoison p n v v.fn⟩ else lane (s.vreg p n v.vd) v.fn) := by
  cases hon : s.laneOn p n v v.fn with
  | true =>
    refine VregTaken.oneLane (os := [wideLane (s.wreg p n v.va)]) (vecOp_vregTaken h hop fun u hu => ?_)
    simp only [Act.run_ask, hu.wreg, hu.vreg, hu.laneOn, hu.lanePoison, hon, Act.when, if_true]
    rfl
  | false =>
    rw [actWrd]
    obtain ⟨u, hu, hrun⟩ := vecOp_issues h hop _
    rw [hrun, Act.run_ask]
    simp only [hu.laneOn, hon, Act.run_when, Bool.false_eq_true, if_false]
    refine ⟨hu.done (VecTouched.refl u p n), hu.slotted (VecTouched.refl u p n), hu.onlyVregs _, fun i hi => ?_⟩
    rw [hu.vreg]
    split
    next hik => rw [hik]
    next => rfl

theorem wrd_lane (hop : v.vop = 0x33) {i : Nat} (hi : i < 256) : lane (((actWrd p n).run s).vreg p n v.vd) i =
    if i = v.fn ∧ s.laneOn p n v i = true then ⟨rnd32 (s.wreg p n v.va).num, (s.wreg p n v.va).poison || s.lanePoison p n v i⟩
    else lane (s.vreg p n v.vd) i := by
  rw [(wrd_oneLane h hop).lanes i hi]
  by_cases hik : i = v.fn
  · simp only [hik, if_true, true_and]
  · simp only [hik, if_false, false_and]

/-! ## The extremes (R125) -/

theorem extremeOp_vregTaken {vop : Nat} (hop : v.vop = vop) (max : Bool) (best : FNum → FNum → FNum) (start : FNum) :
    VregTaken s ((extremeOp p n vop max best start).run s) p n v.vd
      (setLane (s.vreg p n v.vd) v.fn ⟨s.extremeWord p n v max best start, s.reducedPoison p n v⟩)
      [laneBits (s.reduced p n v) 0] := by
  refine vecOp_vregTaken h hop fun u hu => ?_
  simp only [Act.run_ask, hu.reduced, hu.vreg, hu.reducedPoison, State.extremeWord]
  split <;> rfl

end

/-- A choice between numbers that yields the extreme in an order: the order's least number to start from, and where -0 and +0 stand. -/
structure Extremum {β : Type} [Preorder β] (key : FNum → β) (best : FNum → FNum → FNum) (start : FNum) (lt : FNum → FNum → Bool)
    (inf low high : Word) : Prop where
  picks : Picks key best
  num   : start.isNan = false
  least : ∀ x : FNum, x.isNan = false → key x ≤ key start → x = start
  lt    : ∀ a b, lt a b = true → ¬ key b ≤ key a
  inf   : BitVec.ofNat 32 (fp32Exact start).bits = inf
  zeros : ¬ key (num32 high) ≤ key (num32 low)

theorem key_lt_of_lt {a b : FNum} (h : a.lt b = true) : a.key < b.key :=
  Prod.Lex.toLex_lt_toLex.mpr (.inl ((FNum.lt_iff a b).mp h).2)

theorem extremum_max : Extremum FNum.key fnumMax (.inf true) FNum.lt 0xFF800000 0x80000000 0 where
  picks := fnumMax_picks
  num := rfl
  least := eq_negInf_of_key_le
  lt _ _ h := (key_lt_of_lt h).not_ge
  inf := by decide
  zeros := key_negZero_lt.not_ge

theorem extremum_min : Extremum (fun a => OrderDual.toDual a.key) fnumMin (.inf false) (fun a b => b.lt a) 0x7F800000 0 0x80000000 where
  picks := fnumMin_picks
  num := rfl
  least x hx h := eq_posInf_of_le_key x hx (OrderDual.toDual_le_toDual.mp h)
  lt _ _ h hle := (key_lt_of_lt h).not_ge (OrderDual.toDual_le_toDual.mp hle)
  inf := by decide
  zeros h := key_negZero_lt.not_ge (OrderDual.toDual_le_toDual.mp h)

section
variable {β : Type} [Preorder β] {key : FNum → β} {best : FNum → FNum → FNum} {start : FNum} {lt : FNum → FNum → Bool} {inf low high : Word}
  (hx : Extremum key best start lt inf low high) {s : State} {p n : Nat} {v : VSlot} (max : Bool)
include hx

/-- With no lane active the extreme is the order's least number. -/
theorem Extremum.word_of_none (hnone : s.reduced p n v = []) : s.extremeWord p n v max best start = inf := by
  rw [State.extremeWord, hnone]
  exact hx.inf

/-- Without NaN the extreme is an active lane's value, and none passes it. -/
theorem Extremum.word_mem (hne : s.reduced p n v ≠ []) (hnan : ∀ x ∈ s.reduced p n v, (num32 x.bits).isNan = false) :
    (∃ x ∈ s.reduced p n v, x.bits = s.extremeWord p n v max best start) ∧
    ∀ x ∈ s.reduced p n v, key (num32 x.bits) ≤ key (num32 (s.extremeWord p n v max best start)) := by
  have hany : ¬ (s.reduced p n v).any (fun x => (num32 x.bits).isNan) = true := by simpa using hnan
  rw [State.extremeWord]
  generalize s.reduced p n v = xs at hne hnan hany
  have hnums : ∀ y ∈ xs.map (fun x => num32 x.bits), y.isNan = false := by simpa using hnan
  have hmem := hx.picks.foldl_mem (by simpa using hne) hnums hx.num hx.least
  obtain ⟨-, hle⟩ := hx.picks.foldl hnums hx.num
  obtain ⟨x, hxs, hval⟩ := List.mem_map.mp hmem
  have hword : BitVec.ofNat 32 (fp32Exact (extreme best start xs)).bits = x.bits := by
    rw [extreme, ← hval]
    exact fp32Exact_num32 (hnan x hxs)
  rw [if_neg hany, hword]
  refine ⟨⟨x, hxs, rfl⟩, fun z hz => ?_⟩
  rw [hval]
  exact hle _ (List.mem_cons_of_mem _ (List.mem_map_of_mem hz))

end

/-! ## Top-k (R128) -/

/-- A register whose first lanes hold `f` of the selected candidates. -/
def topLanes (k : Nat) (cs : List Cand) (bad : Bool) (old : List Lane) (f : Cand → Word) : List Lane :=
  (topCands k cs).map (fun c => Lane.mk (f c) bad) ++ old.drop k

theorem lane_topLanes (k : Nat) (cs : List Cand) (bad : Bool) (old : List Lane) (f : Cand → Word) (i : Nat) :
    lane (topLanes k cs bad old f) i =
      if i < k then ⟨f (((rankCands cs)[i]?).getD ⟨.inf true, 0xFFFF⟩), bad⟩ else lane old i := by
  rw [topLanes, lane_append_drop (by rw [List.length_map, length_topCands])]
  split
  next hi => rw [lane, List.getD_eq_getElem?_getD, List.getElem?_map, getElem?_topCands cs hi]; rfl
  next => rfl

/-- The first lanes of VD have taken the selected values and those of VC their indices; where both are one register, the indices. -/
structure TopTaken (s t : State) (p n : Nat) (v : VSlot) (cs : List Cand) : Prop where
  done  : VecDone s t p n
  frame : VecSlotted s t p n
  regs  : OnlyVregs s t p n [v.vd, v.vc]
  rest  : ∀ i, v.fn % 16 ≤ i → lane (t.vreg p n v.vd) i = lane (s.vreg p n v.vd) i ∧ lane (t.vreg p n v.vc) i = lane (s.vreg p n v.vc) i
  idx   : ∀ i, i < v.fn % 16 → (lane (t.vreg p n v.vc) i).bits = BitVec.ofNat 32 (((rankCands cs)[i]?).getD ⟨.inf true, 0xFFFF⟩).idx
  val   : ∀ i, i < v.fn % 16 → v.vd ≠ v.vc → (lane (t.vreg p n v.vd) i).bits =
    BitVec.ofNat 32 (fp32Exact (((rankCands cs)[i]?).getD ⟨.inf true, 0xFFFF⟩).num).bits

/-- The writes of VTOPK: values, then indices. -/
def putTop (p n : Nat) (v : VSlot) (cs : List Cand) (bad : Bool) (old : List Lane) (os : List LaneOut) : Act := Act.all [
  setVreg p n v.vd (topLanes (v.fn % 16) cs bad old (fun c => BitVec.ofNat 32 (fp32Exact c.num).bits)),
  .ask fun u => setVreg p n v.vc (topLanes (v.fn % 16) cs bad (u.vreg p n v.vc) (fun c => BitVec.ofNat 32 c.idx)),
  countLanes p n os]

theorem VecStarted.topTaken {s u : State} {p n : Nat} (h : VecStarted s u p n) (v : VSlot) (cs : List Cand) (bad : Bool)
    (os : List LaneOut) : TopTaken s ((putTop p n v cs bad (s.vreg p n v.vd) os).run u) p n v cs := by
  have htouch : VecTouched u ((putTop p n v cs bad (s.vreg p n v.vd) os).run u) p n := by
    refine Act.Vec.all ?_ u
    simp only [List.forall_mem_cons, List.not_mem_nil, false_imp_iff, implies_true, and_true]
    exact ⟨vec_setVreg _ _, Act.Vec.ask fun _ => vec_setVreg _ _, vec_countLanes _⟩
  have hvreg : ∀ k, ((putTop p n v cs bad (s.vreg p n v.vd) os).run u).vreg p n k =
      if k = v.vc then topLanes (v.fn % 16) cs bad (if v.vc = v.vd then
        topLanes (v.fn % 16) cs bad (s.vreg p n v.vd) (fun c => BitVec.ofNat 32 (fp32Exact c.num).bits) else s.vreg p n v.vc)
        (fun c => BitVec.ofNat 32 c.idx)
      else if k = v.vd then topLanes (v.fn % 16) cs bad (s.vreg p n v.vd) (fun c => BitVec.ofNat 32 (fp32Exact c.num).bits)
      else s.vreg p n k := fun k => by
    simp only [putTop, Act.run_all_cons, Act.run_all_nil, Act.run_ask, vreg_countLanes, vreg_setVreg, h.vreg]
  refine ⟨h.done htouch, h.slotted htouch, ⟨fun k hk => ?_, ?_, ?_⟩, fun i hi => ⟨?_, ?_⟩, fun i hi => ?_, fun i hi hne => ?_⟩
  · simp only [List.mem_cons, List.not_mem_nil, or_false, not_or] at hk
    rw [hvreg, if_neg hk.2, if_neg hk.1]
  · simp only [putTop, Act.run_all_cons, Act.run_all_nil, Act.run_ask, tile_countLanes, pregs_setVreg, (h.onlyVregs []).pregs]
  · simp only [putTop, Act.run_all_cons, Act.run_all_nil, Act.run_ask, tile_countLanes, wregs_setVreg, (h.onlyVregs []).wregs]
  · rw [hvreg]
    by_cases hd : v.vd = v.vc
    · rw [if_pos hd, if_pos hd.symm, lane_topLanes, if_neg hi.not_gt, lane_topLanes, if_neg hi.not_gt]
    · rw [if_neg hd, if_pos rfl, lane_topLanes, if_neg hi.not_gt]
  · rw [hvreg, if_pos rfl, lane_topLanes, if_neg hi.not_gt]
    split
    next hd => rw [lane_topLanes, if_neg hi.not_gt, hd]
    next => rfl
  · rw [hvreg, if_pos rfl, lane_topLanes, if_pos hi]
  · rw [hvreg, if_neg hne, if_pos rfl, lane_topLanes, if_pos hi]

theorem vtopk_topTaken {s : State} {p n : Nat} {b : Bundle} {v : VSlot} (h : s.IssuesV p n b v) (hop : v.vop = 0x38) :
    TopTaken s ((actVtopk p n).run s) p n v (s.topAll p n v) := by
  rw [actVtopk]
  obtain ⟨u, hu, hrun⟩ := vecOp_issues h hop _
  rw [hrun, Act.run_ask]
  simp only [hu.vreg, hu.topAll]
  exact hu.topTaken v _ _ _

/-! ## With no lane active (R121) -/

theorem activeLanes_of_none {s : State} {p n : Nat} {v : VSlot} (hoff : ∀ i, i < 256 → s.laneOn p n v i = false) :
    s.activeLanes p n v = [] := by
  rw [State.activeLanes, List.filter_eq_nil_iff]
  intro i hi
  rw [hoff i (List.mem_range.mp hi)]
  exact Bool.false_ne_true

theorem reduced_of_none {s : State} {p n : Nat} {v : VSlot} (hoff : ∀ i, i < 256 → s.laneOn p n v i = false) : s.reduced p n v = [] := by
  rw [State.reduced, activeLanes_of_none hoff, List.map_nil]

/-- A selection that merges nothing has no candidate. -/
theorem topAll_of_none {s : State} {p n : Nat} {v : VSlot} (hoff : ∀ i, i < 256 → s.laneOn p n v i = false) (hfn : v.fn.testBit 4 = false) :
    s.topAll p n v = [] := by
  simp [State.topAll, State.topPrev, hfn, activeLanes_of_none hoff]

/-! ## Rows of reductions -/

section
variable {s : State} {p n : Nat} {b : Bundle} {v : VSlot} (h : s.IssuesV p n b v)
include h

theorem sumOp_sums {vop : Nat} (hop : v.vop = vop) (f : FNum → FNum) : ∃ t, (sumOp p n vop f).answer s = .next t ∧
    t.rd (tk .VEC_NONFINITE_IN p n) = s.counted (tk .VEC_NONFINITE_IN p n) (nonfiniteOf (s.reduced p n v)) ∧
    WideTaken s t p n v.vd
      ⟨wideRound ((s.wreg p n v.vd).num.add (exactSum ((s.reduced p n v).map (fun x => f (num32 x.bits))))),
        (s.wreg p n v.vd).poison || s.reducedPoison p n v⟩ :=
  ⟨_, rfl, sumOp_nfIn h hop f, sumOp_wideTaken h hop f⟩

/-- VMAXR and VMINR, by the order whose extreme they take. -/
theorem extremeOp_extremes {vop : Nat} (hop : v.vop = vop) (hfn : v.fn < 256) (max : Bool) {β : Type} [Preorder β] {key : FNum → β}
    {best : FNum → FNum → FNum} {start : FNum} {lt : FNum → FNum → Bool} {inf low high : Word}
    (hx : Extremum key best start lt inf low high) :
    ∃ t, (extremeOp p n vop max best start).answer s = .next t ∧ VecDone s t p n ∧ VecSlotted s t p n ∧ OnlyVregs s t p n [v.vd] ∧
      t.rd (tk .VEC_NONFINITE_IN p n) = s.counted (tk .VEC_NONFINITE_IN p n) (nonfiniteOf (s.reduced p n v)) ∧
      (∀ i, i < 256 → i ≠ v.fn → lane (t.vreg p n v.vd) i = lane (s.vreg p n v.vd) i) ∧
      let xs := s.reduced p n v
      let y := lane (t.vreg p n v.vd) v.fn
      y.poison = s.reducedPoison p n v ∧ ((∀ i, i < 256 → s.laneOn p n v i = false) → y.bits = inf) ∧
      (xs ≠ [] → (∀ x ∈ xs, (num32 x.bits).isNan = false) → (∃ x ∈ xs, x.bits = y.bits) ∧
        (∀ x ∈ xs, lt (num32 y.bits) (num32 x.bits) = false) ∧ (y.bits = low → ∀ x ∈ xs, x.bits ≠ high)) := by
  have ht := extremeOp_vregTaken h hop max best start
  have hone := ht.oneLane
  have hcount := ht.counts (.VEC_NONFINITE_IN, LaneOut.nfIn) List.mem_cons_self
  refine ⟨_, rfl, ht.done, ht.frame, ht.regs, hcount, fun i hi hne => ?_, ?_⟩
  · rw [hone.lanes i hi, if_neg hne]
  · intro xs y
    have hy : y = ⟨s.extremeWord p n v max best start, s.reducedPoison p n v⟩ := (hone.lanes v.fn hfn).trans (if_pos rfl)
    rw [hy]
    refine ⟨rfl, fun hoff => hx.word_of_none max (reduced_of_none hoff), fun hne hnan => ?_⟩
    obtain ⟨hmem, hle⟩ := hx.word_mem max hne hnan
    refine ⟨hmem, fun x hxs => ?_, fun hlow x hxs hhigh => ?_⟩
    · exact Bool.eq_false_iff.mpr fun hlt => hx.lt _ _ hlt (hle x hxs)
    · exact hx.zeros (hlow ▸ hhigh ▸ hle x hxs)

end

end Sys2Proof.Machine
end

section

open Sys2Proof Sys2Proof.Machine

/-- Settles O59 (R121, with R124, R125, R128, R149). Lane operations, comparisons and reductions take the active lanes alone, so each clause
is what its operation gives of them: lane operations by `laneOp_taken`, sums and wide scalars by `vecOp_wideTaken`, the extremes by the order
of numbers that they follow (`Extremum`), and VTOPK by its ranking, an insertion sort. Where the rules are silent a clause states the model's
choice: WRD and WBC write active lanes only and WSET acts whatever the predicate (log 54), poison of predicate bits (log 38), VTOPK onto
one register (log 139). -/
theorem inactiveLanesStayOut : Obligations.InactiveLanesStayOut := by
  unfold Obligations.InactiveLanesStayOut
  intro s p n b v h
  refine ⟨?_, ?_, ?_, ?_, ?_, ?_, ?_, ?_⟩
  · intro o ho hop
    obtain ⟨t, ht, hkept⟩ := laneRows_inactiveKept h o ho hop
    exact ⟨t, ht, hkept.off, hkept.nfIn⟩
  · intro hop
    have ht := vcmp_pregTaken h hop
    refine ⟨_, rfl, ht.done, ht.frame, ?_, ht.rest, ht.vregs, ht.wregs, fun i hi => ?_⟩
    · rw [ht.counts (.VEC_NONFINITE_IN, LaneOut.nfIn) List.mem_cons_self, List.map_map]; rfl
    · rw [ht.value]
      exact ⟨getLsbD_packBits _ hi, getLsbD_packBits _ hi⟩
  · simp only [List.forall_mem_cons, List.not_mem_nil, false_imp_iff, implies_true, and_true]
    exact ⟨fun hop => sumOp_sums h hop _, fun hop => sumOp_sums h hop _⟩
  · simp only [List.forall_mem_cons, List.not_mem_nil, false_imp_iff, implies_true, and_true]
    exact ⟨fun hop => ⟨_, rfl, wideOp_wideTaken h hop _⟩, fun hop => ⟨_, rfl, wideOp_wideTaken h hop _⟩,
      fun hop => ⟨_, rfl, wideOp_wideTaken h hop _⟩⟩
  · exact fun hop => ⟨_, rfl, wset_wideTaken h hop⟩
  · intro hop _
    have ht := wrd_oneLane h hop
    exact ⟨_, rfl, ht.done, ht.frame, ht.regs, fun i hi => wrd_lane h hop hi⟩
  · simp only [List.forall_mem_cons, List.not_mem_nil, false_imp_iff, implies_true, and_true]
    exact ⟨fun hop hfn => extremeOp_extremes h hop hfn true extremum_max, fun hop hfn => extremeOp_extremes h hop hfn false extremum_min⟩
  · intro hop hk
    have ht := vtopk_topTaken h hop
    refine ⟨_, rfl, ht.done, ht.frame, ht.regs, fun i _ hi => ht.rest i hi, fun hoff hfn i hi => ?_,
      rankCands (s.topAll p.val n.val v), rankCands_perm _, rankCands_pairwise _, fun i hi => ⟨ht.idx i hi, ht.val i hi⟩⟩
    have hidx := ht.idx i hi
    have hval := ht.val i hi
    rw [topAll_of_none hoff hfn] at hidx hval
    exact ⟨hidx, hval⟩

end

section
/-! PROOFS. Rules of actions: actions in order, what they do to register fields, and frames of those that count. -/

namespace Sys2Proof.Machine

/-! ## Actions in order

Equations that do not hold by unfolding alone, so that checking a rewrite by them unfolds nothing. -/

theorem Act.run_all_last (a : Act) (s : State) : (Act.all [a]).run s = a.run s := by
  rw [Act.run_all_cons, Act.run_all_nil]

theorem Act.run_all_next (a b : Act) (r : List Act) (s : State) : (Act.all (a :: b :: r)).run s = (Act.all (b :: r)).run (a.run s) := by
  rw [Act.run_all_cons]

/-! ## Register fields written -/

section
variable {f g : Fld} (h : g ≠ f) (p n i j i' j' m : Nat) (s : State)
include h

theorem rd_setR_tile_of_ne : ((setR (tk f p n i j) m).run s).rd (tk g p n i' j') = s.rd (tk g p n i' j') :=
  Upd.rd_reg_of_ne m s (FKey.code_ne h)

theorem rd_bump_field_of_ne : ((bump (tk f p n i j) m).run s).rd (tk g p n i' j') = s.rd (tk g p n i' j') :=
  rd_bump_of_ne s h m
end

theorem tile_setR (k : FKey) (v : Nat) (s : State) (p n : Nat) : ((setR k v).run s).tile p n = s.tile p n := by
  rw [run_setR, Upd.tile_reg]
theorem tile_bump (k : FKey) (v : Nat) (s : State) (p n : Nat) : ((bump k v).run s).tile p n = s.tile p n := by
  rw [run_bump, Upd.tile_reg]

theorem setB_eq (k : FKey) (v : Bool) : setB k v = setR k (if v then 1 else 0) := by rw [setB, setR]

theorem rd_setR_self (k : FKey) (v : Nat) (s : State) : ((setR k v).run s).rd k = clipTo k.f.width v := Upd.rd_reg_self k v s

/-- A counter raised twice. -/
theorem State.counted_add {s t : State} {k : FKey} {m : Nat} (h : t.rd k = s.counted k m) (j : Nat) : t.counted k j = s.counted k (m + j) := by
  rw [State.counted, h]
  simp only [State.counted]
  split
  · omega
  · rw [Nat.mod_add_mod, Nat.add_assoc]

theorem slot_setR {p n : Nat} {fs : List Fld} {f : Fld} (hf : f ∈ fs) (i v : Nat) : (setR (tk f p n i) v).Only (Upd.ofSlot p n fs) :=
  ⟨⟨f, List.mem_append_right _ hf, i, rfl⟩, trivial⟩

theorem slot_bump {p n : Nat} {fs : List Fld} {f : Fld} (hf : f ∈ fs) (i m : Nat) : (bump (tk f p n i) m).Only (Upd.ofSlot p n fs) :=
  fun _ => slot_setR hf i _

/-! ## Fields spared and state left as it was -/

/-- Changes that spare some register fields. -/
def Upd.Spares (fs : List Fld) : Upd → Prop
  | .reg k _ => k.f ∉ fs
  | .clearRegs w => ∀ k : FKey, k.f ∈ fs → w k.code = false
  | .restart _ => False
  | _ => True

/-- A field that is spared reads as before. -/
theorem Act.Only.rd_spared {fs : List Fld} {a : Act} (h : a.Only (Upd.Spares fs)) {k : FKey} (hk : k.f ∈ fs) (s : State) :
    (a.run s).rd k = s.rd k := by
  refine h.same (read := fun t => t.rd k) (fun u t hu => ?_) s
  cases u with
  | reg q v => exact Upd.rd_reg_of_ne v t (FKey.code_ne fun he => hu (he ▸ hk))
  | clearRegs w => exact (Upd.rd_clearRegs w t k).trans (if_neg (by rw [hu k hk]; exact Bool.false_ne_true))
  | openHalf v => simp only [Upd.apply]; split <;> rfl
  | openSession v => simp only [Upd.apply]; split <;> rfl
  | pushEvent v => simp only [Upd.apply]; split <;> rfl
  | dram a c => exact Upd.rd_dram a c t k
  | sram a l => exact Upd.rd_sram a l t k
  | restart up => exact absurd hu id
  | _ => rfl

section
variable {fs : List Fld}

theorem spares_setR {k : FKey} (hk : k.f ∉ fs) (v : Nat) : (setR k v).Only (Upd.Spares fs) := ⟨hk, trivial⟩
theorem spares_setB {k : FKey} (hk : k.f ∉ fs) (v : Bool) : (setB k v).Only (Upd.Spares fs) := ⟨hk, trivial⟩
theorem spares_bump {k : FKey} (hk : k.f ∉ fs) (m : Nat) : (bump k m).Only (Upd.Spares fs) := fun _ => ⟨hk, trivial⟩
theorem spares_modTile (p n : Nat) (f : Tile → Tile) : (modTile p n f).Only (Upd.Spares fs) := fun _ => ⟨trivial, trivial⟩
theorem spares_modPile (p : Nat) (f : Pile → Pile) : (modPile p f).Only (Upd.Spares fs) := fun _ => ⟨trivial, trivial⟩
theorem spares_causeNow (p c : Nat) : (causeNow p c).Only (Upd.Spares fs) := fun _ => ⟨trivial, trivial⟩
theorem spares_causeAt (p c : Nat) : (causeAt p c).Only (Upd.Spares fs) :=
  fun _ => Act.only_ite (fun _ => ⟨trivial, trivial⟩) (spares_causeNow p c)
end

/-- Changes of counters and piles. -/
def Upd.ofCount : Upd → Prop
  | .reg _ _ | .pile _ _ | .draw _ => True
  | _ => False

/-- Counting leaves tiles, memory, sessions, fuses and the job as they were. -/
structure UnitSame (s t : State) : Prop where
  tile     : ∀ p n, t.tile p n = s.tile p n
  dram     : t.dram = s.dram
  sram     : t.sram = s.sram
  sessions : t.sessions = s.sessions
  fuses    : t.fuses = s.fuses
  job      : t.job = s.job

theorem UnitSame.refl (s : State) : UnitSame s s := ⟨fun _ _ => rfl, rfl, rfl, rfl, rfl, rfl⟩

theorem UnitSame.trans {s t u : State} (h : UnitSame s t) (k : UnitSame t u) : UnitSame s u :=
  ⟨fun p n => (k.tile p n).trans (h.tile p n), k.dram.trans h.dram, k.sram.trans h.sram, k.sessions.trans h.sessions,
    k.fuses.trans h.fuses, k.job.trans h.job⟩

theorem Act.Only.unitSame {a : Act} (h : a.Only Upd.ofCount) (s : State) : UnitSame s (a.run s) := by
  refine h.keeps (I := UnitSame s) (fun u t hu ht => ht.trans ?_) (UnitSame.refl s)
  cases u with
  | reg k v => exact ⟨fun _ _ => rfl, rfl, rfl, rfl, rfl, rfl⟩
  | pile q v => exact ⟨fun _ _ => rfl, rfl, rfl, rfl, rfl, rfl⟩
  | draw m => exact ⟨fun _ _ => rfl, rfl, rfl, rfl, rfl, rfl⟩
  | _ => exact absurd hu id

theorem UnitSame.sramLine {s t : State} (h : UnitSame s t) (x : Nat) : t.sramLine x = s.sramLine x := by
  rw [State.sramLine, h.sram, State.sramLine]

theorem UnitSame.dramWord {s t : State} (h : UnitSame s t) (x : Nat) : t.dramWord x = s.dramWord x := by
  rw [State.dramWord, h.dram, State.dramWord]

theorem UnitSame.onlyTile {s t : State} (h : UnitSame s t) (p n : Nat) : OnlyTile s t p n :=
  ⟨fun p' n' _ => h.tile p' n', h.dramWord, h.sessions, h.fuses, h.job⟩

theorem OnlyTile.trans {s t u : State} {p n : Nat} (h : OnlyTile s t p n) (k : OnlyTile t u p n) : OnlyTile s u p n :=
  ⟨fun a b c => (k.tiles a b c).trans (h.tiles a b c), fun a => (k.dram a).trans (h.dram a), k.sessions.trans h.sessions,
    k.fuses.trans h.fuses, k.job.trans h.job⟩

theorem count_setR (k : FKey) (v : Nat) : (setR k v).Only Upd.ofCount := ⟨trivial, trivial⟩
theorem count_bump (k : FKey) (m : Nat) : (bump k m).Only Upd.ofCount := fun _ => ⟨trivial, trivial⟩
theorem count_modPile (p : Nat) (f : Pile → Pile) : (modPile p f).Only Upd.ofCount := fun _ => ⟨trivial, trivial⟩
theorem count_causeNow (p c : Nat) : (causeNow p c).Only Upd.ofCount := fun _ => ⟨trivial, trivial⟩
theorem count_causeAt (p c : Nat) : (causeAt p c).Only Upd.ofCount :=
  fun _ => Act.only_ite (fun _ => ⟨trivial, trivial⟩) (count_causeNow p c)

end Sys2Proof.Machine
end


section
/-! PROOFS. Arrays (R81, R103, R109, R111, R116, R147): how an operation starts, and what its completion writes, counts and flags. -/

namespace Sys2Proof.Machine

/-! ## A tile's arrays -/

theorem Tile.arr_setArr_self (x : Tile) {a : Nat} (v : Arr) : (x.setArr a v).arr a = v := by
  simp only [Tile.setArr, Tile.arr]
  split
  · rfl
  · split <;> rfl

theorem Tile.arr_setArr_of_ne (x : Tile) {a b : Nat} (v : Arr) (ha : a < 3) (hb : b < 3) (h : b ≠ a) :
    (x.setArr a v).arr b = x.arr b := by
  simp only [Tile.setArr, Tile.arr]
  grind

@[simp] theorem tile_modArr (p n a : Nat) (f : Arr → Arr) (s : State) :
    ((modArr p n a f).run s).tile p n = (s.tile p n).setArr a (f ((s.tile p n).arr a)) := by
  rw [modArr, run_modTile, Upd.tile_tile_self]

theorem slot_modArr (p n a : Nat) (f : Arr → Arr) (fs : List Fld) : (modArr p n a f).Only (Upd.ofSlot p n fs) :=
  fun _ => ⟨⟨rfl, rfl⟩, trivial⟩

/-! ## What a slot leaves for the operands of an operation -/

/-- An operation's operands depend on local stores, block checking, the seed and the step. -/
theorem tileOuts_congr {s u : State} (p n a : Nat) (o : ArrOp) (hsram : u.sram = s.sram) (hjob : u.job = s.job)
    (hstep : u.step = s.step) (hcheck : u.checking p = s.checking p) : u.tileOuts p n a o = s.tileOuts p n a o := by
  have hline : u.sramLine = s.sramLine := by funext x; rw [State.sramLine, hsram, State.sramLine]
  have hfeed : u.feedLine p n = s.feedLine p n := by funext x; rw [State.feedLine, hline, hcheck, State.feedLine]
  have hfed : u.fed p n = s.fed p n := by funext x y z; rw [State.fed, hfeed, State.fed]
  have htile : u.tileFeed p n o = s.tileFeed p n o := by funext x y; rw [State.tileFeed, hfed, hfeed, State.tileFeed]
  rw [State.tileOuts, htile, hjob, hstep, State.tileOuts]

theorem Slotted.tileOuts {s u : State} {p n : Nat} (h : Slotted s u p n []) (a : Nat) (o : ArrOp) :
    u.tileOuts p n a o = s.tileOuts p n a o :=
  tileOuts_congr p n a o h.sram h.only.job (h.rd (by simp [dk])) (h.on (by simp [pk]))

/-- A slot of a bundle has issued: nothing else of its tile has changed. -/
structure SlotMarked (s u : State) (p n : Nat) : Prop where
  slot : Slotted s u p n []
  tile : u.tile p n = { s.tile p n with issued := (u.tile p n).issued }

theorem Entered.marked {s e : State} {p n : Nat} (h : Entered s e p n) (mark : Issued → Issued) :
    SlotMarked s ((modIssued p n mark).run e) p n where
  slot := h.slot.trans ((slot_modIssued p n mark []).slotted e) (fun _ hf => hf) (fun _ hf => hf)
  tile := by
    simp only [modIssued, run_modTile, Upd.tile_tile_self]
    rw [h.tile]

section
variable {s u : State} {p n : Nat} (h : SlotMarked s u p n)
include h

theorem SlotMarked.arr (a : Nat) : (u.tile p n).arr a = (s.tile p n).arr a := by rw [h.tile]; rfl

theorem SlotMarked.regionLine (off : Nat) : u.regionLine p n off = s.regionLine p n off := by
  simp only [State.regionLine, State.regionFirst, State.sramLine, h.slot.sram]
  rw [h.tile]

theorem SlotMarked.sreg (k : Nat) : u.sreg p n k = s.sreg p n k := by
  rw [State.sreg, h.tile, State.sreg]

theorem SlotMarked.arrOp (b : Bundle) (seq : Nat) : u.arrOp p n b seq = s.arrOp p n b seq := by
  have hopd : u.rd (tk .TSQ_LAYOUT_OPD_LINE p n) = s.rd (tk .TSQ_LAYOUT_OPD_LINE p n) := h.slot.rd (by simp [tk])
  have henc : u.rd (tk .TSQ_LAYOUT_ENC_LINE p n) = s.rd (tk .TSQ_LAYOUT_ENC_LINE p n) := h.slot.rd (by simp [tk])
  simp only [State.arrOp, State.opDesc, State.encDesc, State.scalar, h.regionLine, h.sreg, hopd, henc]
end

/-! ## An operation starts (R147) -/

/-- The fields that a start changes. -/
def startFlds : List Fld := [.CHK_BLOCK_FAIL, .ARR_STATUS_FMT_A, .ARR_STATUS_FMT_B, .ARR_STATUS_FMT_C, .ARR_STATUS_SWEEPS]

theorem rd_modArr (p n a : Nat) (f : Arr → Arr) (s : State) (k : FKey) : ((modArr p n a f).run s).rd k = s.rd k := by
  rw [modArr, run_modTile, Upd.rd_tile]

/-- The changes of an operation's start, once what its output tiles deliver is known. -/
def startWith (p t a : Nat) (o : ArrOp) (bank : Nat) (ts : List TileOut) (r : ArrResult) : Act := Act.all [
  bump (tk .CHK_BLOCK_FAIL p t) ((ts.map TileOut.bad).sum),
  setR (tk .ARR_STATUS_FMT_A p t a) o.fmtA, setR (tk .ARR_STATUS_FMT_B p t a) o.fmtB, setR (tk .ARR_STATUS_FMT_C p t a) o.fmtC,
  setR (tk .ARR_STATUS_SWEEPS p t a) r.sweeps,
  modArr p t a (fun x => { x with running := x.running ++ [(o, r)], bank := (bank + ts.length) % 2 })]

theorem run_startOp (p n a : Nat) (o : ArrOp) (s : State) : (startOp p n a o).run s =
    (startWith p n a o ((s.tile p n).arr a).bank (s.tileOuts p n a o)
      (arrResult a o ((s.tile p n).arr a).bank (s.tileOuts p n a o))).run s := rfl

section
variable (p n a : Nat) (o : ArrOp) (bank : Nat) (ts : List TileOut) (r : ArrResult)

theorem slot_startWith : (startWith p n a o bank ts r).Only (Upd.ofSlot p n startFlds) := by
  refine Act.only_all ?_
  simp only [List.forall_mem_cons, List.not_mem_nil, false_imp_iff, implies_true, and_true]
  exact ⟨slot_bump (by decide) _ _, slot_setR (by decide) _ _, slot_setR (by decide) _ _, slot_setR (by decide) _ _,
    slot_setR (by decide) _ _, slot_modArr _ _ _ _ _⟩

theorem tile_startWith (s : State) : ((startWith p n a o bank ts r).run s).tile p n =
    (s.tile p n).setArr a { (s.tile p n).arr a with
      running := ((s.tile p n).arr a).running ++ [(o, r)], bank := (bank + ts.length) % 2 } := by
  simp only [startWith, Act.run_all_next, Act.run_all_last, tile_modArr, tile_setR, tile_bump]

theorem rd_startWith (s : State) :
    let t := (startWith p n a o bank ts r).run s
    (t.rd (tk .ARR_STATUS_FMT_A p n a) = clipTo 4 o.fmtA ∧ t.rd (tk .ARR_STATUS_FMT_B p n a) = clipTo 4 o.fmtB ∧
      t.rd (tk .ARR_STATUS_FMT_C p n a) = clipTo 4 o.fmtC) ∧
    t.rd (tk .CHK_BLOCK_FAIL p n) = s.counted (tk .CHK_BLOCK_FAIL p n) ((ts.map TileOut.bad).sum) := by
  simp only [startWith, Act.run_all_next, Act.run_all_last, rd_modArr]
  simp (disch := decide) only [rd_setR_tile_of_ne, rd_setR_self, rd_bump_self]
  exact ⟨⟨rfl, rfl, rfl⟩, trivial⟩
end

theorem slotted_startOp (p n a : Nat) (o : ArrOp) (s : State) : Slotted s ((startOp p n a o).run s) p n startFlds := by
  rw [run_startOp]
  exact (slot_startWith p n a o _ _ _).slotted s

/-- An operation that starts joins those under way; what else changes in its tile is the bank that the next one takes. -/
theorem tile_startOp (p n a : Nat) (o : ArrOp) (s : State) : ((startOp p n a o).run s).tile p n =
    (s.tile p n).setArr a { (s.tile p n).arr a with
      running := ((s.tile p n).arr a).running ++ [(o, arrResult a o ((s.tile p n).arr a).bank (s.tileOuts p n a o))]
      bank := (((s.tile p n).arr a).bank + (s.tileOuts p n a o).length) % 2 } := by
  rw [run_startOp, tile_startWith]

/-- An operation that starts in a state that differs from `s` only in what slots change. -/
theorem startOp_opStarted {s u : State} {p n a : Nat} (o : ArrOp) (h : Slotted s u p n [])
    (hrun : ((u.tile p n).arr a).running = ((s.tile p n).arr a).running) (hbank : ((u.tile p n).arr a).bank = ((s.tile p n).arr a).bank) :
    OpStarted s ((startOp p n a o).run u) p n a o where
  running := by rw [tile_startOp, Tile.arr_setArr_self, hrun, hbank, h.tileOuts]
  fmts := by
    rw [run_startOp]
    exact (rd_startWith p n a o _ _ _ u).1
  checks := by
    rw [run_startOp, h.tileOuts]
    exact (rd_startWith p n a o _ _ _ u).2.trans (State.counted_congr (h.rd (by simp [tk])) _)

/-- A start after changes of the array's place for a pending operation and of its sequence number: the first two ways of R147. -/
theorem startOp_after {s w : State} {p n a : Nat} {pending : Option ArrOp} {seq : Nat} (o : ArrOp) (h : Slotted s w p n [])
    (harr : (w.tile p n).arr a = { (s.tile p n).arr a with pending := pending, seq := seq }) :
    let t := (startOp p n a o).run w
    OnlyTile s t p n ∧ t.sram = s.sram ∧ ((t.tile p n).arr a).seq = seq ∧ ((t.tile p n).arr a).pending = pending ∧
      OpStarted s t p n a o := by
  have hslot : Slotted s ((startOp p n a o).run w) p n startFlds :=
    h.trans (slotted_startOp p n a o w) (by simp) (fun _ hf => hf)
  refine ⟨hslot.only, hslot.sram, ?_, ?_, startOp_opStarted o h (by rw [harr]) (by rw [harr])⟩
  · rw [tile_startOp, Tile.arr_setArr_self, harr]
  · rw [tile_startOp, Tile.arr_setArr_self, harr]

theorem arr_startOp_of_ne {p n a b : Nat} (o : ArrOp) (s : State) (ha : a < 3) (hb : b < 3) (h : b ≠ a) :
    (((startOp p n a o).run s).tile p n).arr b = (s.tile p n).arr b := by
  rw [tile_startOp, Tile.arr_setArr_of_ne _ _ ha hb h]

/-- What AMM does once its slot has issued: the sequence number rises, and the operation starts or waits. -/
theorem actAmm_issues {s : State} {p n : Nat} {b : Bundle} (h : s.Issues p n b) (hop : aop b = 1) (ha : (s.tile p n).issued.a = false) :
    let y := (s.tile p n).arr (aArr b)
    let o := s.arrOp p n b y.seq
    ∃ w, Slotted s w p n [] ∧ (∀ c, c < 3 → c ≠ aArr b → aArr b < 3 → (w.tile p n).arr c = (s.tile p n).arr c) ∧
      (w.tile p n).arr (aArr b) = { y with seq := y.seq + 1 } ∧
      (actAmm p n).run s = (if y.running.isEmpty then startOp p n (aArr b) o
        else modArr p n (aArr b) (fun z => { z with pending := some o })).run w := by
  intro y o
  obtain ⟨e, hrun, he⟩ := slotRow_issues h (is := fun b => aop b == 1) (beq_iff_eq.mpr hop) (was := Issued.a) ha
    (fun _ _ ha _ _ => ha) (fun x => { x with a := true }) (fun b => .ask fun s =>
      (modArr p n (aArr b) (fun y => { y with seq := y.seq + 1 })).seq
        (if ((s.tile p n).arr (aArr b)).running.isEmpty then startOp p n (aArr b) (s.arrOp p n b ((s.tile p n).arr (aArr b)).seq)
          else modArr p n (aArr b) (fun y => { y with pending := some (s.arrOp p n b ((s.tile p n).arr (aArr b)).seq) })))
  have hu := he.marked (fun x => { x with a := true })
  generalize (modIssued p n (fun x => { x with a := true })).run e = u at hrun hu
  refine ⟨(modArr p n (aArr b) (fun y => { y with seq := y.seq + 1 })).run u,
    hu.slot.trans ((slot_modArr p n _ _ []).slotted u) (fun _ hf => hf) (fun _ hf => hf), fun c hc hne ha => ?_, ?_, ?_⟩
  · rw [tile_modArr, Tile.arr_setArr_of_ne _ _ ha hc hne, hu.arr]
  · rw [tile_modArr, Tile.arr_setArr_self, hu.arr]
  · refine hrun.trans ?_
    rw [Act.run_ask, Act.run_seq, hu.arr, hu.arrOp]

/-- The pending operation starts where fewer than three are under way. -/
theorem actPendingStart_starts {s : State} {p n a : Nat} {o : ArrOp} (hpend : ((s.tile p n).arr a).pending = some o)
    (hgo : s.unitsRun p n = true) (hfew : ((s.tile p n).arr a).running.length < 3) :
    (actPendingStart p n a).run s = (startOp p n a o).run ((modArr p n a (fun y => { y with pending := none })).run s) := by
  have hfree : (!s.unitsRun p n || decide (3 ≤ ((s.tile p n).arr a).running.length)) = false := by
    rw [hgo, decide_eq_false (by omega)]
    rfl
  rw [actPendingStart, Act.run_ask]
  simp only [hpend]
  rw [hfree, if_neg Bool.false_ne_true, Act.run_seq]

theorem count_clearXo (p n row : Nat) : (clearXo p n row).Only Upd.ofCount := Act.only_each fun _ _ => count_setR _ _
theorem spares_clearXo {fs : List Fld} (h : Fld.XO_OP_COUNT ∉ fs) (p n row : Nat) : (clearXo p n row).Only (Upd.Spares fs) :=
  Act.only_each fun _ _ => spares_setR h _

theorem count_countXo (p n row : Nat) (c : XoCounts) : (countXo p n row c).Only Upd.ofCount := by
  refine Act.only_all ?_
  simp only [List.forall_mem_cons, List.not_mem_nil, false_imp_iff, implies_true, and_true]
  exact ⟨count_bump _ _, count_bump _ _, count_bump _ _, count_bump _ _, count_bump _ _, count_bump _ _⟩
theorem spares_countXo {fs : List Fld} (h : Fld.XO_OP_COUNT ∉ fs) (p n row : Nat) (c : XoCounts) :
    (countXo p n row c).Only (Upd.Spares fs) := by
  refine Act.only_all ?_
  simp only [List.forall_mem_cons, List.not_mem_nil, false_imp_iff, implies_true, and_true]
  exact ⟨spares_bump h _, spares_bump h _, spares_bump h _, spares_bump h _, spares_bump h _, spares_bump h _⟩

theorem count_countHealth (p tracker tid : Nat) (c : XoCounts) : (countHealth p tracker tid c).Only Upd.ofCount :=
  fun _ => Act.only_ite (count_modPile p _) (count_modPile p _)
theorem spares_countHealth {fs : List Fld} (p tracker tid : Nat) (c : XoCounts) : (countHealth p tracker tid c).Only (Upd.Spares fs) :=
  fun _ => Act.only_ite (spares_modPile p _) (spares_modPile p _)

/-! ## Failed checksums (R111) -/

theorem count_recordFail (p n a seq : Nat) (f : ChkFail) : (recordFail p n a seq f).Only Upd.ofCount := by
  intro s
  refine Act.only_all ?_
  simp only [List.forall_mem_cons, List.not_mem_nil, false_imp_iff, implies_true, and_true]
  exact ⟨count_bump _ _, Act.only_each fun _ _ => count_setR _ _, count_setR _ _, count_setR _ _, count_setR _ _, count_setR _ _,
    count_setR _ _, count_setR _ _, count_setR _ _, count_setR _ _, count_modPile _ _, Act.only_when fun _ => count_causeAt _ _⟩

/-- The fields of a completion that failed checksums leave alone. -/
def doneFlds : List Fld := [.ARR_DONE, .ARR_POISON_OUT]

theorem spares_recordFail (p n a seq : Nat) (f : ChkFail) : (recordFail p n a seq f).Only (Upd.Spares doneFlds) := by
  intro s
  refine Act.only_all ?_
  simp only [List.forall_mem_cons, List.not_mem_nil, false_imp_iff, implies_true, and_true]
  have hpairs : ∀ q ∈ chkPairs, q.2 ∉ doneFlds := by decide
  exact ⟨spares_bump (by simp [tk, doneFlds]) _, Act.only_each fun q hq => spares_setR (hpairs q hq) _, spares_setR (by simp [tk, doneFlds]) _,
    spares_setB (by simp [tk, doneFlds]) _, spares_setR (by simp [tk, doneFlds]) _, spares_setR (by simp [tk, doneFlds]) _, spares_setR (by simp [tk, doneFlds]) _,
    spares_setR (by simp [tk, doneFlds]) _, spares_setR (by simp [tk, doneFlds]) _, spares_setR (by simp [tk, doneFlds]) _, spares_modPile _ _,
    Act.only_when fun _ => spares_causeAt _ _⟩

theorem rd_recordFail (p n a seq : Nat) (f : ChkFail) (s : State) :
    ((recordFail p n a seq f).run s).rd (tk .ARR_STATUS_CHK_FAIL p n a) = 1 ∧
    ((recordFail p n a seq f).run s).rd (tk .ARR_CHK_MISMATCH p n a) = s.counted (tk .ARR_CHK_MISMATCH p n a) 1 := by
  have hpairs : ∀ q ∈ chkPairs, q.2 ∉ ([.ARR_CHK_MISMATCH] : List Fld) := by decide
  have hkeep : (Act.each chkPairs (fun q => setR (tk q.2 p n a) (s.rd (tk q.1 p n a)))).Only (Upd.Spares [.ARR_CHK_MISMATCH]) :=
    Act.only_each fun q hq => spares_setR (hpairs q hq) _
  have hcause : ∀ t : State, ∀ k : FKey, ((Act.when (s.on (dk .CHK_CTL_SENTINEL_EN)) (causeAt p cArrayCheck)).run t).rd k = t.rd k :=
    fun t k => (Act.only_when fun _ => spares_causeAt (fs := [k.f]) p _).rd_spared List.mem_cons_self t
  have hhits : ∀ (f : FltSt → FltSt) (t : State) (k : FKey), ((modFlt p f).run t).rd k = t.rd k :=
    fun f t k => (spares_modPile (fs := [k.f]) p _).rd_spared List.mem_cons_self t
  simp only [recordFail, Act.run_ask, Act.run_all_next, Act.run_all_last, hcause, hhits, setB_eq]
  refine ⟨?_, ?_⟩
  · exact rd_setR_self _ _ _
  · simp (disch := decide) only [rd_setR_tile_of_ne]
    rw [hkeep.rd_spared (k := tk .ARR_CHK_MISMATCH p n a) List.mem_cons_self, rd_bump_self]

/-- Failed checksums flag their array and are counted. -/
theorem rd_each_recordFail (p n a seq : Nat) {fails : List ChkFail} (hne : fails ≠ []) (s : State) :
    ((Act.each fails (recordFail p n a seq)).run s).rd (tk .ARR_STATUS_CHK_FAIL p n a) = 1 ∧
    ((Act.each fails (recordFail p n a seq)).run s).rd (tk .ARR_CHK_MISMATCH p n a) =
      s.counted (tk .ARR_CHK_MISMATCH p n a) fails.length := by
  induction fails generalizing s with
  | nil => exact absurd rfl hne
  | cons f r ih =>
    obtain ⟨hflag, hcount⟩ := rd_recordFail p n a seq f s
    rw [Act.run_each_cons]
    by_cases hr : r = []
    · subst hr
      exact ⟨hflag, hcount⟩
    · obtain ⟨hflag', hcount'⟩ := ih hr ((recordFail p n a seq f).run s)
      refine ⟨hflag', hcount'.trans ?_⟩
      rw [State.counted_add hcount, List.length_cons, Nat.add_comm]

/-! ## Lines of a local store written in order -/

theorem run_poisonWatch_same (p : Nat) (sp : Space) (n x : Nat) (l : Line) (s : State) : UnitSame s ((poisonWatch p sp n x l).run s) := by
  have hcount : (poisonWatch p sp n x l).Only Upd.ofCount := fun _ => Act.only_when fun _ => count_causeNow _ _
  exact hcount.unitSame s

theorem spares_putLine_ls {fs : List Fld} (p n x : Nat) (l : Line) : (putLine p .ls n x l).Only (Upd.Spares fs) :=
  Act.only_seq ⟨trivial, trivial⟩ fun _ => Act.only_when fun _ => spares_causeNow _ _

/-- A line of a local store is written, and no other line. -/
theorem sramLine_putLine_ls {p n x : Nat} (hx : lsAddr p n x < sramLines) (l : Line) (s : State) (a : Nat) :
    ((putLine p .ls n x l).run s).sramLine a = if lsAddr p n x = a then l else s.sramLine a := by
  rw [putLine, Act.run_seq, (run_poisonWatch_same _ _ _ _ _ _).sramLine, run_emit]
  split
  next h => rw [← h]; exact Upd.sramLine_sram_self _ l s hx
  next h => exact Upd.sramLine_sram_of_ne l s (Ne.symm h)

theorem onlyTile_putLine_ls (p n x : Nat) (l : Line) (s : State) : OnlyTile s ((putLine p .ls n x l).run s) p n ∧
    ((putLine p .ls n x l).run s).tile p n = s.tile p n := by
  rw [putLine, Act.run_seq]
  have h := run_poisonWatch_same p .ls n x l ((emit (.sram (lsAddr p n x) l)).run s)
  have he : OnlyTile s ((emit (.sram (lsAddr p n x) l)).run s) p n :=
    ⟨fun _ _ _ => Upd.tile_sram _ _ _ _ _, fun _ => Upd.dramWord_sram _ _ _ _, Upd.sessions_sram _ _ _, Upd.fuses_sram _ _ _,
      Upd.job_sram _ _ _⟩
  exact ⟨he.trans (h.onlyTile p n), (h.tile p n).trans (Upd.tile_sram _ _ _ _ _)⟩

/-- Lines written in order: of those to one line the last stands. -/
theorem sramLine_each_putLine_ls {p n : Nat} {ws : List (Nat × Line)} (hws : ∀ w ∈ ws, lsAddr p n w.1 < sramLines) (s : State) (a : Nat) :
    ((Act.each ws (fun w => putLine p .ls n w.1 w.2)).run s).sramLine a =
      ((ws.reverse.find? (fun w => lsAddr p n w.1 == a)).map Prod.snd).getD (s.sramLine a) := by
  induction ws generalizing s with
  | nil => rfl
  | cons w r ih =>
    rw [Act.run_each_cons, ih (fun w hw => hws w (List.mem_cons_of_mem _ hw)), sramLine_putLine_ls (hws w List.mem_cons_self),
      List.reverse_cons, List.find?_append]
    cases r.reverse.find? (fun w => lsAddr p n w.1 == a) with
    | some v => rfl
    | none =>
      rw [Option.none_or, List.find?_singleton]
      simp only [beq_iff_eq]
      split <;> rfl

theorem onlyTile_each_putLine_ls (p n : Nat) (ws : List (Nat × Line)) (s : State) :
    OnlyTile s ((Act.each ws (fun w => putLine p .ls n w.1 w.2)).run s) p n ∧
    ((Act.each ws (fun w => putLine p .ls n w.1 w.2)).run s).tile p n = s.tile p n := by
  induction ws generalizing s with
  | nil => exact ⟨(UnitSame.refl s).onlyTile p n, rfl⟩
  | cons w r ih =>
    obtain ⟨h, ht⟩ := onlyTile_putLine_ls p n w.1 w.2 s
    obtain ⟨h', ht'⟩ := ih ((putLine p .ls n w.1 w.2).run s)
    rw [Act.run_each_cons]
    exact ⟨h.trans h', ht'.trans ht⟩

/-! ## Completion (R103) -/

/-- What a completion counts after its lines are written. -/
def countDone (p n a : Nat) (o : ArrOp) (r : ArrResult) : Act := Act.all [
  clearXo p n a, countXo p n a r.counts, countHealth p o.enc.tracker o.enc.tensorId r.counts]

/-- What it shows at its end. -/
def showDone (p n a : Nat) (r : ArrResult) : Act := Act.all [
  bump (tk .ARR_BUSY_CLK p n a) (r.sweeps * r.ksteps * (r.lastIdx + 1)),
  withFree (fun f => bump (tk .ARR_STALL_CLK p n a) f),
  setR (tk .ARR_STATUS_TILE_IDX p n a) r.lastIdx, setR (tk .ARR_STATUS_ACC_BANK p n a) r.bank]

/-- A completion that goes on, part by part. -/
theorem run_actArrayDone {s : State} {p n a : Nat} {o : ArrOp} {r : ArrResult} {rest : List (ArrOp × ArrResult)}
    (hrun : ((s.tile p n).arr a).running = (o, r) :: rest) (hgo : s.unitsRun p n = true) :
    (actArrayDone p n a).run s = (showDone p n a r).run ((bump (tk .ARR_DONE p n a)).run ((keepDigest p n a o.seq r.outDig).run
      ((Act.each r.fails (recordFail p n a o.seq)).run ((bump (tk .ARR_POISON_OUT p n a) r.counts.poison).run ((countDone p n a o r).run
        ((Act.each r.writes (fun w => putLine p .ls n w.1 w.2)).run ((modArr p n a (fun x => { x with running := rest })).run s))))))) := by
  simp only [actArrayDone, Act.run_ask, hrun, hgo, Bool.not_true, Bool.false_eq_true, if_false, Act.run_all_next, Act.run_all_last,
    countDone, showDone]

section
variable (p n a : Nat) (o : ArrOp) (r : ArrResult)

theorem count_countDone : (countDone p n a o r).Only Upd.ofCount := by
  refine Act.only_all ?_
  simp only [List.forall_mem_cons, List.not_mem_nil, false_imp_iff, implies_true, and_true]
  exact ⟨count_clearXo _ _ _, count_countXo _ _ _ _, count_countHealth _ _ _ _⟩

theorem spares_countDone {fs : List Fld} (h : Fld.XO_OP_COUNT ∉ fs) : (countDone p n a o r).Only (Upd.Spares fs) := by
  refine Act.only_all ?_
  simp only [List.forall_mem_cons, List.not_mem_nil, false_imp_iff, implies_true, and_true]
  exact ⟨spares_clearXo h _ _ _, spares_countXo h _ _ _ _, spares_countHealth _ _ _ _⟩

theorem count_showDone : (showDone p n a r).Only Upd.ofCount := by
  refine Act.only_all ?_
  simp only [List.forall_mem_cons, List.not_mem_nil, false_imp_iff, implies_true, and_true]
  exact ⟨count_bump _ _, only_withFree trivial fun _ => count_bump _ _, count_setR _ _, count_setR _ _⟩

/-- The fields of a completion that a statement speaks of. -/
def doneShown : List Fld := [.ARR_DONE, .ARR_POISON_OUT, .ARR_STATUS_CHK_FAIL, .ARR_CHK_MISMATCH]

theorem spares_showDone : (showDone p n a r).Only (Upd.Spares doneShown) := by
  refine Act.only_all ?_
  simp only [List.forall_mem_cons, List.not_mem_nil, false_imp_iff, implies_true, and_true]
  exact ⟨spares_bump (by simp [tk, doneShown]) _, only_withFree trivial fun _ => spares_bump (by simp [tk, doneShown]) _,
    spares_setR (by simp [tk, doneShown]) _, spares_setR (by simp [tk, doneShown]) _⟩
end

theorem lsAddr_lt {p n x : Nat} (hp : p < 16) (hn : n < 9) (hx : x < lsLines) : lsAddr p n x < sramLines := by
  simp only [lsAddr, lsLines, sramLines] at *
  omega

theorem lsAddr_inj {p n x y : Nat} : lsAddr p n x = lsAddr p n y ↔ x = y := by
  simp only [lsAddr]
  omega

theorem slot_keepDigest (p n unit seq v : Nat) : (keepDigest p n unit seq v).Only (Upd.ofSlot p n []) := fun _ => ⟨⟨rfl, rfl⟩, trivial⟩

/-- A completion writes its lines, counts, and leaves its array with the operations that started after it. -/
theorem actArrayDone_done {s : State} {p n a : Nat} (hp : p < 16) (hn : n < 9) {o : ArrOp} {r : ArrResult}
    {rest : List (ArrOp × ArrResult)} (hrun : ((s.tile p n).arr a).running = (o, r) :: rest) (hgo : s.unitsRun p n = true)
    (hw : ∀ w ∈ r.writes, w.1 < lsLines) :
    let t := (actArrayDone p n a).run s
    OnlyTile s t p n ∧ (t.tile p n).arr a = { (s.tile p n).arr a with running := rest } ∧
      SMap.find? (t.tile p n).outDigs (a * 65536 + o.seq) = some r.outDig ∧
      (∀ y, t.sramLine y = ((r.writes.reverse.find? (fun w => lsAddr p n w.1 == y)).map Prod.snd).getD (s.sramLine y)) := by
  intro t
  have ht : t = _ := run_actArrayDone hrun hgo
  clear_value t
  generalize hs0 : (modArr p n a (fun x => { x with running := rest })).run s = s0 at ht
  have h0 : Slotted s s0 p n [] := hs0 ▸ (slot_modArr p n a _ []).slotted s
  have ht0 : s0.tile p n = (s.tile p n).setArr a { (s.tile p n).arr a with running := rest } := by rw [← hs0, tile_modArr]
  generalize hs1 : (Act.each r.writes (fun w => putLine p .ls n w.1 w.2)).run s0 = s1 at ht
  have h1 := onlyTile_each_putLine_ls p n r.writes s0
  have hline := sramLine_each_putLine_ls (p := p) (n := n) (fun w hwr => lsAddr_lt hp hn (hw w hwr)) s0
  rw [hs1] at h1 hline
  generalize hs2 : (Act.each r.fails (recordFail p n a o.seq)).run ((bump (tk .ARR_POISON_OUT p n a) r.counts.poison).run
    ((countDone p n a o r).run s1)) = s2 at ht
  have h2 : UnitSame s1 s2 := hs2 ▸ ((count_countDone p n a o r).unitSame s1).trans (((count_bump _ _).unitSame _).trans
    ((Act.only_each fun f _ => count_recordFail p n a o.seq f).unitSame _))
  generalize hs3 : (keepDigest p n a o.seq r.outDig).run s2 = s3 at ht
  have h3 : Slotted s2 s3 p n [] := hs3 ▸ (slot_keepDigest p n a o.seq r.outDig).slotted s2
  have ht3 : s3.tile p n = { s2.tile p n with outDigs := SMap.set (s2.tile p n).outDigs (a * 65536 + o.seq) (some r.outDig) } := by
    rw [← hs3, keepDigest, run_modTile, Upd.tile_tile_self]
  have h4 : UnitSame s3 t := ht ▸ ((count_bump _ _).unitSame s3).trans ((count_showDone p n a r).unitSame _)
  have htile : t.tile p n = { s0.tile p n with outDigs := SMap.set (s0.tile p n).outDigs (a * 65536 + o.seq) (some r.outDig) } := by
    rw [h4.tile, ht3, h2.tile, h1.2]
  refine ⟨h0.only.trans (h1.1.trans ((h2.onlyTile p n).trans (h3.only.trans (h4.onlyTile p n)))), ?_, ?_, fun y => ?_⟩
  · rw [htile]
    exact (congrArg (fun x : Tile => x.arr a) ht0).trans (Tile.arr_setArr_self _ _)
  · rw [htile, SMap.find?_set_self]
  · have h30 : s3.sramLine y = s2.sramLine y := by rw [State.sramLine, h3.sram, State.sramLine]
    have h00 : s0.sramLine y = s.sramLine y := by rw [State.sramLine, h0.sram, State.sramLine]
    rw [h4.sramLine, h30, h2.sramLine, hline, h00]

/-- What a completion counts and flags. -/
theorem actArrayDone_counts {s : State} {p n a : Nat} {o : ArrOp} {r : ArrResult} {rest : List (ArrOp × ArrResult)}
    (hrun : ((s.tile p n).arr a).running = (o, r) :: rest) (hgo : s.unitsRun p n = true) :
    let t := (actArrayDone p n a).run s
    t.rd (tk .ARR_DONE p n a) = s.counted (tk .ARR_DONE p n a) 1 ∧
      t.rd (tk .ARR_POISON_OUT p n a) = s.counted (tk .ARR_POISON_OUT p n a) r.counts.poison ∧
      (r.fails ≠ [] → t.rd (tk .ARR_STATUS_CHK_FAIL p n a) = 1 ∧
        t.rd (tk .ARR_CHK_MISMATCH p n a) = s.counted (tk .ARR_CHK_MISMATCH p n a) r.fails.length) := by
  intro t
  have ht : t = _ := run_actArrayDone hrun hgo
  clear_value t
  have before (u : State) (hu : u = (countDone p n a o r).run ((Act.each r.writes (fun w => putLine p .ls n w.1 w.2)).run
      ((modArr p n a (fun x => { x with running := rest })).run s))) {f : Fld} (hf : Fld.XO_OP_COUNT ∉ [f]) :
      u.rd (tk f p n a) = s.rd (tk f p n a) := by
    rw [hu, (spares_countDone p n a o r hf).rd_spared List.mem_cons_self,
      (Act.only_each fun w _ => spares_putLine_ls (fs := [f]) p n w.1 w.2).rd_spared List.mem_cons_self, rd_modArr]
  generalize (countDone p n a o r).run _ = s1 at ht before
  have h1 := fun f hf => before s1 rfl (f := f) hf
  have hfails := (Act.only_each fun f (_ : f ∈ r.fails) => spares_recordFail p n a o.seq f)
  have hdig : ∀ (k : FKey) (u : State), ((keepDigest p n a o.seq r.outDig).run u).rd k = u.rd k :=
    fun k u => (spares_modTile (fs := [k.f]) p n _).rd_spared List.mem_cons_self u
  refine ⟨?_, ?_, fun hne => ⟨?_, ?_⟩⟩
  · rw [ht, (spares_showDone p n a r).rd_spared (by simp [tk, doneShown]), rd_bump_self]
    refine State.counted_congr ?_ 1
    rw [hdig, hfails.rd_spared (by simp [tk, doneFlds]), rd_bump_field_of_ne (by decide), h1 _ (by decide)]
  · rw [ht, (spares_showDone p n a r).rd_spared (by simp [tk, doneShown]), rd_bump_field_of_ne (by decide), hdig,
      hfails.rd_spared (by simp [tk, doneFlds]), rd_bump_self]
    exact State.counted_congr (h1 _ (by decide)) _
  · rw [ht, (spares_showDone p n a r).rd_spared (by simp [tk, doneShown]), rd_bump_field_of_ne (by decide), hdig]
    exact (rd_each_recordFail p n a o.seq hne _).1
  · rw [ht, (spares_showDone p n a r).rd_spared (by simp [tk, doneShown]), rd_bump_field_of_ne (by decide), hdig]
    refine (rd_each_recordFail p n a o.seq hne _).2.trans (State.counted_congr ?_ _)
    rw [rd_bump_field_of_ne (by decide), h1 _ (by decide)]

/-- A line of a local store has its home in it. -/
theorem inLs_lsAddr {p n x : Nat} (hx : x < lsLines) : inLs p n 0 lsLines false (lsAddr p n x) := by
  refine ⟨rfl, ?_, ?_⟩ <;> simp only [lsAddr] <;> omega

/-- Lines of a local store that a list of lines is searched for, by their home or by their number. -/
theorem find?_lsAddr (p n x : Nat) (ws : List (Nat × Line)) :
    ws.find? (fun w => lsAddr p n w.1 == lsAddr p n x) = ws.find? (fun w => w.1 == x) :=
  List.find?_congr fun w _ => by rw [Bool.eq_iff_iff, beq_iff_eq, beq_iff_eq, lsAddr_inj]

end Sys2Proof.Machine
end

section

open Sys2Proof Sys2Proof.Machine

/-- Settles O57 (R81, R103, R109, R111, R116, R147). What an operation delivers is fixed when it starts, by the operands as they stand then
(log 9, the model's choice), and `startOp_opStarted` says so of both ways to start. A completion writes those lines in order, so that
of several to one line the last stands (`sramLine_each_putLine_ls`), and then counts (`actArrayDone_counts`). -/
theorem arraysRun : Obligations.ArraysRun := by
  unfold Obligations.ArraysRun
  refine ⟨fun s p n b h hop harr hissued => ?amm, fun s p n a o hpend hgo hfew => ?pending, fun s p n a o r rest hrun hgo hw => ?done⟩
  case amm =>
    intro y o
    obtain ⟨w, hslot, hother, hw, hrun⟩ := actAmm_issues h hop hissued
    refine ⟨(actAmm p.val n.val).run s, rfl, ?_⟩
    rw [hrun]
    by_cases hidle : ((s.tile p.val n.val).arr (aArr b)).running = []
    · rw [if_pos (List.isEmpty_iff.mpr hidle)]
      obtain ⟨honly, hsram, hseq, hpend, hstart⟩ := startOp_after o hslot hw
      refine ⟨honly, hsram, hseq, fun a ha hne => ?_, fun _ => ⟨hpend, hstart⟩, fun hne => absurd hidle hne⟩
      rw [arr_startOp_of_ne o w harr ha hne, hother a ha hne harr]
    · rw [if_neg (fun he => hidle (List.isEmpty_iff.mp he))]
      have hwait := hslot.trans ((slot_modArr p.val n.val (aArr b) (fun z => { z with pending := some o }) []).slotted w)
        (fun _ hf => hf) (fun _ hf => hf)
      refine ⟨hwait.only, hwait.sram, ?_, fun a ha hne => ?_, fun he => absurd he hidle, fun _ => ?_⟩
      · rw [tile_modArr, Tile.arr_setArr_self, hw]
      · rw [tile_modArr, Tile.arr_setArr_of_ne _ _ harr ha hne, hother a ha hne harr]
      · rw [tile_modArr, Tile.arr_setArr_self, hw]
  case pending =>
    refine ⟨(actPendingStart p.val n.val a.val).run s, rfl, ?_⟩
    rw [actPendingStart_starts hpend hgo hfew]
    have hslot := (slot_modArr p.val n.val a.val (fun y => { y with pending := none }) []).slotted s
    obtain ⟨honly, hsram, -, hnone, hstart⟩ := startOp_after (pending := none) (seq := ((s.tile p.val n.val).arr a.val).seq) o hslot
      (by rw [tile_modArr, Tile.arr_setArr_self])
    exact ⟨honly, hsram, hnone, hstart⟩
  case done =>
    obtain ⟨honly, harr, hdig, hline⟩ := actArrayDone_done p.isLt n.isLt hrun hgo hw
    obtain ⟨hdone, hpoison, hfails⟩ := actArrayDone_counts hrun hgo
    refine ⟨_, rfl, honly, harr, fun x _ => ?_, ⟨fun y _ => honly.dram y, fun y hy => ?_⟩, hdig, hdone, hpoison, hfails⟩
    · rw [← find?_lsAddr]
      exact hline _
    · have hnone : r.writes.reverse.find? (fun w => lsAddr p.val n.val w.1 == y) = none := by
        refine List.find?_eq_none.mpr fun w hwr he => hy ?_
        rw [← beq_iff_eq.mp he]
        exact inLs_lsAddr (hw w (List.mem_reverse.mp hwr))
      exact (hline y).trans (by rw [hnone]; rfl)

end

section
/-! PROOFS. The block mover (R153-R158): a descriptor of no lines reads its index list all the same. -/

namespace Sys2Proof.Machine

/-- A field's reset value lies within its width. -/
theorem Fld.reset_lt_two_pow_width (f : Fld) : f.spec.reset < 2 ^ f.width := by
  cases f <;> decide +kernel

/-- A SCATTER of one run of no lines, whose index list is line 300 of its tile's local store. -/
def emptyScatter : MvOp where
  mvd := 0
  typ := 2
  fillFmt := 15
  srcSpace := .ls
  dstSpace := .ls
  srcTile := 15
  dstTile := 15
  check := false
  ahead := false
  syncIdx := 0
  srcLine := 100
  dstLine := 200
  count0 := 0
  count1 := 1
  srcStride := 0
  dstStride := 0
  indexLine := 300

/-- A line that names no run (R153), written to the index list's place in an earlier clock and still in flight. -/
def lateIndex : InFlight := ⟨0, -1, .ls, 0, 300, ⟨0xFFFF, 0, false⟩⟩

/-- Tile 0 of pile 0 runs: the SCATTER stands in its queue, its index list in flight, and its local store is unwritten. -/
def emptyScatterState : State where
  regs := [((tk .TSQ_STATUS_RUN 0 0).code, 1)]
  tiles := [(0, { queue := [emptyScatter], flight := [lateIndex] })]

theorem emptyScatterState_fieldsFit : emptyScatterState.fieldsFit := by
  intro k
  rw [State.rd_eq, emptyScatterState, SMap.find?]
  split
  next hk =>
    have hf : k.f = .TSQ_STATUS_RUN := by
      by_contra hne
      exact FKey.code_ne (k := tk .TSQ_STATUS_RUN 0 0) (Ne.symm hne) hk
    rw [hf]
    decide
  next => exact Fld.reset_lt_two_pow_width k.f

theorem emptyScatterState_legal : emptyScatterState.Legal where
  memory := by decide
  sorted := by decide
  fields := emptyScatterState_fieldsFit
  sessions := by decide
  halfOpen := by decide
  events := by decide
  bank := by decide

theorem emptyScatterState_moveGo :
    emptyScatterState.MoveGo 0 0 emptyScatter (emptyScatterState.mvPlaced 0 0 emptyScatter) where
  next := by decide
  tiles := rfl
  rests := by decide
  run := by decide +kernel
  src := by decide +kernel
  dst := by decide +kernel
  span := by decide +kernel
  tile := by decide
  dram := fun _ => ⟨by decide +kernel, by decide +kernel⟩
  clear := fun _ _ _ _ _ hi => absurd hi (Nat.not_lt_zero _)
  once := fun _ _ _ _ _ _ _ hi => absurd hi (Nat.not_lt_zero _)
  apart := fun _ _ _ _ _ _ _ hi => absurd hi (Nat.not_lt_zero _)
  index := fun _ _ _ _ _ hi => absurd hi (Nat.not_lt_zero _)

/-- In the state in which the SCATTER starts its index list is unwritten, so poisoned: an index fault. -/
theorem emptyScatterState_faults : ((List.range 1).filter (fun j =>
    emptyScatterState.runPick 0 0 (emptyScatterState.mvPlaced 0 0 emptyScatter) j == .fault)).length = 1 := by
  decide +kernel

/-- The SCATTER reads the list after the write in flight has landed, meets 0xFFFF there and counts no fault. -/
theorem rd_MOV_INDEX_ERR_emptyScatter :
    ((actMove 0 0 2).run emptyScatterState).rd (tk .MOV_INDEX_ERR 0 0) = 0 := by
  decide +kernel

end Sys2Proof.Machine
end

section

open Sys2Proof Sys2Proof.Machine

/-- Refutes O56 (R153, R156). `State.MoveGo` keeps what is in flight from the index list only for runs of at least one line
(`i < o.count0`). A SCATTER of `count0 = 0` reads its list all the same, after a write that is due there has landed: the statement
counts the fault of the list as it stood, and the model finds 0xFFFF and counts none. MVGO refuses such a descriptor as DESC_INVALID
(`mvBad`), so no program queues one; the statement's hypotheses, on any legal state, admit it. -/
theorem not_moversRun : ¬ Obligations.MoversRun := by
  unfold Obligations.MoversRun
  intro ⟨_, hstart, _⟩
  obtain ⟨t, ht, -, -, hcount, -⟩ := hstart emptyScatterState 0 0 emptyScatter (emptyScatterState.mvPlaced 0 0 emptyScatter)
    (.scatter 0 0) emptyScatterState_legal emptyScatterState_moveGo (by decide)
  have hrun : (actMove 0 0 2).run emptyScatterState = t := Host.Outcome.next.inj ht
  have hfault : emptyScatterState.counted (tk .MOV_INDEX_ERR 0 0) 1 = 1 := by decide +kernel
  have hone : t.rd (tk .MOV_INDEX_ERR 0 0) = 1 :=
    hcount.trans ((congrArg (emptyScatterState.counted _) emptyScatterState_faults).trans hfault)
  rw [← hrun, rd_MOV_INDEX_ERR_emptyScatter] at hone
  exact absurd hone Nat.zero_ne_one

end

section
/-! PROOFS. Openings (R160): a request that waited is answered where two open sessions share an identifier. -/

namespace Sys2Proof.Machine

/-- A JOB_START that waits for the first phase, of a host key whose own session has closed since. -/
def waitingStart : Req where
  session := 2
  hostKey := [1]
  mb := 1
  cmd := 0x0040
  tag := 0

/-- An open session with identifier 1. -/
def sessionOne (host : Bytes) : Session where
  id := 1
  src := 0
  host := host
  kIn := []
  kOut := []
  mtu := 1280
  boot := false
  idleS := 0
  retainS := 0
  port := 0
  v6 := false

/-- A mailbox that owes the reply of the JOB_START and that of an ABORT, which waits behind it (R443). -/
def owingMailbox : Mailbox where
  owner := some [1]
  st := .busy
  busy := 2
  deferred := [[0]]
  expired := true
  aborts := 1

/-- The one phase of the image. -/
def onlyPhase : PhaseEntry := { length := 8, lastSlot := 1, finish := true }

/-- An image of pile 0. -/
def onePileImage : Image where
  magic := 0
  format := 1
  device := 0
  domainSize := 1
  timingRoot := 0
  jobId := 0
  phaseEntries := 1
  pages := 1
  pileMask := 1
  nTrackers := 0
  paramMax := []
  linkLat := []
  gateUp := 0
  gateDown := 0
  gateGuard := 0
  sections := []
  hash := 0
  phases := [onlyPhase]

/-- Pile 0 stands at the start gate with a RELEASE for slot 0; the session of the JOB_START's host key and another share an
identifier. -/
def sharedIdState : State where
  regs := [((dk .JOB_STATE_STATE).code, jsStarting), ((pk .GATE_STATUS_STATE 0).code, 2)]
  piles := [(0, { gate := { rel := some (0, 0), start := true } })]
  sessions := [sessionOne [2], sessionOne [1]]
  mailboxes := [(1, owingMailbox)]
  job := { image := some onePileImage, startReq := some waitingStart }

theorem sharedIdState_opening : sharedIdState.opening 0 = [0] := by
  decide +kernel

theorem sharedIdState_sequence : sharedIdState.sequence = [(0, 0)] := by
  decide +kernel

theorem sharedIdState_heldRight : sharedIdState.heldRight := by
  refine ⟨?_, ?_, ?_⟩ <;> simp [sharedIdState]

theorem sharedIdState_hears : sharedIdState.hears waitingStart :=
  ⟨⟨sessionOne [1], by decide +kernel⟩, fun h => absurd h (by decide)⟩

/-- Sending the reply in the session named puts the other one in its place, so that the ABORT's reply finds no session and frees the
mailbox. -/
theorem mailbox_gateOpen_sharedIdState : (((actGateOpen 0).run sharedIdState).mailbox 1).st = .idle := by
  decide +kernel

end Sys2Proof.Machine
end

section

open Sys2Proof Sys2Proof.Machine

/-- Refutes O45 (R160, R441, R443). The clause that fails is the reply of the first phase. `State.hears` asks for an open session of the
request's host key, and the statement asks nothing of session identifiers. Where two open sessions share one, the reply is sent in the
first of that identifier, which replaces both (`Upd.setSession`); the ABORT's reply that waited on the mailbox then finds no
session of its key, and as the mailbox's time has run out `postReply` frees it, with the reply just handed to it. No HELLO opens
two sessions of one identifier (`State.newId`). -/
theorem not_gatesOpen : ¬ Obligations.GatesOpen := by
  unfold Obligations.GatesOpen
  intro h
  have hgate : ∀ p ∈ sharedIdState.opening 0, (sharedIdState.pile p).gate.rel = some (0, 0) ∧
      sharedIdState.rd (pk .GATE_STATUS_PHASE p) = 0 := by
    rw [sharedIdState_opening]
    decide +kernel
  have hstart : ∀ p ∈ sharedIdState.opening 0, (sharedIdState.pile p).gate.start = true := by
    rw [sharedIdState_opening]
    decide +kernel
  obtain ⟨hopens, -, -⟩ := h sharedIdState 0 0 0 onePileImage (by rw [sharedIdState_opening]; exact List.cons_ne_nil _ _) rfl
    sharedIdState_heldRight hgate
  obtain ⟨t, ht, -, -, -, -, -, -, -, hreply⟩ := hopens hstart (0, 0) onlyPhase (by rw [sharedIdState_sequence]; rfl) rfl
  obtain ⟨hdone, -⟩ := hreply waitingStart rfl rfl sharedIdState_hears
  have hrun : (actGateOpen 0).run sharedIdState = t := Host.Outcome.next.inj ht
  rw [← hrun, show waitingStart.mb = 1 from rfl, mailbox_gateOpen_sharedIdState] at hdone
  exact MbState.noConfusion hdone

end

section
/-! PROOFS. Arrivals (R181, R189, R191, R193, R203): what a pile's arrival does to its gate, and that the rest of its work leaves gates as
they were. -/

namespace Sys2Proof.Machine

/-! ## Lists of actions, and events -/

theorem Act.only_list {P : Upd → Prop} {as : List Act} (h : as.Forall (Act.Only P)) : (Act.all as).Only P :=
  Act.only_all (List.forall_iff_forall_mem.mp h)

theorem Act.keeps_list {I : State → Prop} {as : List Act} (h : as.Forall (Act.Keeps I)) : (Act.all as).Keeps I :=
  Act.keeps_all (List.forall_iff_forall_mem.mp h)

/-- What holds whatever is asked about the state. -/
theorem Act.keeps_asked {I : State → Prop} {f : State → Act} (h : ∀ s, (f s).Keeps I) : (Act.ask f).Keeps I :=
  Act.keeps_ask fun s => h s s

/-- An event is sent, queued or lost. -/
theorem only_raiseEvent {P : Upd → Prop} (hlift : ∀ u : Upd, u.ofLift → P u) (hdraw : P (.draw 1)) (hpush : ∀ e, P (.pushEvent e))
    (hlost : ∀ v, P (.reg (dk .EVT_LOST) v)) (c p : Nat) (b : List Nat) : (raiseEvent c p b).Only P := by
  have hmod : ∀ f, (modLift f).Only P := fun f => (lift_modLift f).mono hlift
  exact only_withFree hdraw fun _ _ => Act.only_ite (Act.only_seq (hmod _) (lift_sendEvent.mono hlift))
    (Act.only_ite (Act.only_seq (hmod _) ⟨hpush _, trivial⟩) (Act.only_seq (only_bump hlost) (hmod _)))

/-! ## Changes beside the piles -/

/-- Changes that leave every pile's own state as it was. -/
def Upd.NoPile : Upd → Prop
  | .pile _ _ | .restart _ => False
  | _ => True

theorem Upd.NoPile.pile_apply {u : Upd} (h : u.NoPile) (s : State) (q : Nat) : (u.apply s).pile q = s.pile q := by
  cases u with
  | openHalf v => simp only [Upd.apply]; split <;> rfl
  | openSession v => simp only [Upd.apply]; split <;> rfl
  | pushEvent v => simp only [Upd.apply]; split <;> rfl
  | dram a c => exact Upd.pile_dram a c s q
  | sram a l => exact Upd.pile_sram a l s q
  | pile p v => exact absurd h id
  | restart up => exact absurd h id
  | _ => rfl

theorem Upd.ofLift_noPile (u : Upd) (h : u.ofLift) : u.NoPile := by
  cases u with
  | pile p v => exact absurd h id
  | restart up => exact absurd h id
  | _ => trivial

theorem noPile_setR (k : FKey) (v : Nat) : (setR k v).Only Upd.NoPile := ⟨trivial, trivial⟩
theorem noPile_bump (k : FKey) (n : Nat) : (bump k n).Only Upd.NoPile := only_bump fun _ => trivial
theorem noPile_modPort (p k : Nat) (f : Port → Port) : (modPort p k f).Only Upd.NoPile := fun _ => ⟨trivial, trivial⟩
theorem noPile_modDom (d : Nat) (f : DomSt → DomSt) : (modDom d f).Only Upd.NoPile := fun _ => ⟨trivial, trivial⟩
theorem noPile_propose (n : Nat) (e : BitVec 32) : (propose n e).Only Upd.NoPile := fun _ _ => ⟨trivial, trivial⟩
theorem noPile_waxDirty : waxDirty.Only Upd.NoPile := fun _ _ => ⟨trivial, trivial⟩

theorem noPile_raiseEvent (c p : Nat) (b : List Nat) : (raiseEvent c p b).Only Upd.NoPile :=
  only_raiseEvent Upd.ofLift_noPile trivial (fun _ => trivial) (fun _ => trivial) c p b

theorem noPile_wake (d : Nat) (own : Bool) : (wake d own).Only Upd.NoPile := fun _ =>
  Act.only_ite (Act.only_seq (noPile_setR _ _) (noPile_modDom _ _))
    (Act.only_ite (noPile_modDom _ _) (Act.only_ite trivial (Act.only_seq (noPile_setR _ _) (noPile_modDom _ _))))

theorem noPile_demandWake (d : Nat) : (demandWake d).Only Upd.NoPile := fun _ =>
  Act.only_ite trivial (Act.only_ite trivial
    (Act.only_seq (noPile_bump _ _) (Act.only_seq (noPile_wake _ _) (Act.only_when fun _ => noPile_modDom _ _))))

/-! ## Gates but for the tokens that go out -/

/-- A gate without what outgoing tokens change: those that wait for a slot, whether ARRIVE went up, and RELEASE held. -/
def GateSt.core (x : GateSt) : GateSt := { x with sends := [], sentUp := false, rel := none }

/-- Every pile's gate is the one given, but for the tokens that go out. -/
def State.CoresAre (g : Nat → GateSt) (s : State) : Prop := ∀ q, (s.pile q).gate.core = g q

/-- An action that leaves gates alone but for their tokens leaves each as it was but for them. -/
theorem core_run {a : Act} (h : ∀ g, a.Keeps (State.CoresAre g)) (s : State) (q : Nat) :
    ((a.run s).pile q).gate.core = (s.pile q).gate.core :=
  h (fun q => (s.pile q).gate.core) s (fun _ => rfl) q

section
variable {g : Nat → GateSt}

theorem Act.Only.coresKept {a : Act} (h : a.Only Upd.NoPile) : a.Keeps (State.CoresAre g) :=
  h.toKeeps fun _ s hu hs q => (congrArg (fun x => x.gate.core) (hu.pile_apply s q)).trans (hs q)

theorem cores_modPile (p : Nat) {f : Pile → Pile} (h : ∀ x, (f x).gate.core = x.gate.core) : (modPile p f).Keeps (State.CoresAre g) := by
  intro s hs q
  rw [run_modPile]
  by_cases hq : q = p
  · rw [hq, Upd.pile_pile_self, h]
    exact hs p
  · rw [Upd.pile_pile_of_ne _ s hq]
    exact hs q

theorem cores_modFlt (p : Nat) (f : FltSt → FltSt) : (modFlt p f).Keeps (State.CoresAre g) := cores_modPile p fun _ => rfl
theorem cores_modSw (p : Nat) (f : SwSt → SwSt) : (modSw p f).Keeps (State.CoresAre g) := cores_modPile p fun _ => rfl
theorem cores_modRue (p : Nat) (f : RueSt → RueSt) : (modRue p f).Keeps (State.CoresAre g) := cores_modPile p fun _ => rfl
theorem cores_modGate (p : Nat) {f : GateSt → GateSt} (h : ∀ x, (f x).core = x.core) : (modGate p f).Keeps (State.CoresAre g) :=
  cores_modPile p fun x => h x.gate
theorem cores_modHop (p q : Nat) (f : UHop → UHop) : (modHop p q f).Keeps (State.CoresAre g) := cores_modSw p _
theorem cores_causeNow (p c : Nat) : (causeNow p c).Keeps (State.CoresAre g) := cores_modRue p _
theorem cores_causeAt (p c : Nat) : (causeAt p c).Keeps (State.CoresAre g) :=
  Act.keeps_asked fun _ => Act.keeps_ite (cores_modRue p _) (cores_causeNow p c)

/-! ### Frames and links -/

theorem cores_giveCredit (p q : Nat) : (giveCredit p q).Keeps (State.CoresAre g) :=
  Act.keeps_ite (Act.keeps_done _) (Act.keeps_asked fun _ => cores_modHop p q _)

theorem cores_deliverFrame (p : Nat) (f : UFrame) : (deliverFrame p f).Keeps (State.CoresAre g) :=
  Act.keeps_asked fun _ => Act.keeps_ite
    (Act.keeps_seq (noPile_demandWake _).coresKept (cores_modSw p _)) (Act.Only.coresKept ⟨trivial, trivial⟩)

theorem cores_routeFrame (p from' : Nat) (f : UFrame) (n : Nat) : (routeFrame p from' f n).Keeps (State.CoresAre g) := by
  induction n generalizing from' f with
  | zero => exact Act.keeps_done _
  | succ n ih =>
    refine Act.keeps_asked fun s => ?_
    split
    · exact ih _ _
    · exact Act.keeps_ite (ih _ _) (cores_deliverFrame p f)
    · exact Act.keeps_ite (cores_modHop p _ _) (ih _ _)

theorem cores_dropFrames (p q : Nat) : (dropFrames p q).Keeps (State.CoresAre g) :=
  Act.keeps_asked fun _ => Act.keeps_seq (cores_modHop p q _)
    (Act.keeps_each fun _ _ => Act.keeps_seq (cores_giveCredit p _) (cores_routeFrame p 0 _ 2))

theorem cores_parentLost (p q : Nat) : (parentLost p q).Keeps (State.CoresAre g) :=
  Act.keeps_asked fun _ => Act.keeps_when (Act.keeps_asked fun _ => Act.keeps_list
    ⟨(noPile_raiseEvent _ _ _).coresKept, (noPile_setR _ _).coresKept, (noPile_setR _ _).coresKept⟩)

theorem cores_loseLock : loseLock.Keeps (State.CoresAre g) :=
  Act.keeps_asked fun _ => Act.keeps_ite (Act.keeps_done _) (Act.keeps_list
    ⟨(noPile_setR _ _).coresKept, (noPile_setR _ _).coresKept, (noPile_bump _ _).coresKept,
      Act.keeps_when (Act.keeps_each fun p _ => cores_causeNow p _), Act.keeps_asked fun _ => (noPile_raiseEvent _ _ _).coresKept,
      Act.keeps_when (Act.Only.coresKept fun _ => ⟨trivial, trivial⟩)⟩)

theorem cores_retirePort (p k dir lane : Nat) : (retirePort p k dir lane).Keeps (State.CoresAre g) := by
  have hnow : (retireNow p k lane).Keeps (State.CoresAre g) := Act.keeps_list
    ⟨(noPile_setR _ _).coresKept, (noPile_modPort p k _).coresKept, (noPile_raiseEvent _ _ _).coresKept⟩
  have hfails : (portFails p k).Keeps (State.CoresAre g) := Act.keeps_list
    ⟨cores_dropFrames p _, Act.keeps_asked fun _ => Act.keeps_when cores_loseLock, cores_parentLost p _⟩
  exact Act.keeps_list ⟨hnow, (noPile_propose _ _).coresKept, noPile_waxDirty.coresKept, hfails⟩

theorem cores_needSpare (p k lane : Nat) : (needSpare p k lane).Keeps (State.CoresAre g) := by
  refine Act.keeps_asked fun s => Act.keeps_ite (Act.keeps_done _)
    (Act.keeps_ite (noPile_modPort p k _).coresKept (Act.keeps_ite (noPile_modPort p k _).coresKept ?_))
  split
  · exact Act.keeps_seq (noPile_modPort p k _).coresKept (Act.Only.coresKept ⟨trivial, trivial⟩)
  · exact cores_retirePort p k 1 lane

theorem cores_patternTest (p k : Nat) (lanes : List Nat) : (patternTest p k lanes).Keeps (State.CoresAre g) :=
  Act.keeps_asked fun _ => Act.keeps_when (Act.keeps_seq (noPile_modPort p k _).coresKept
    (Act.keeps_ite (noPile_bump _ _).coresKept (Act.keeps_each fun lane _ => cores_needSpare p k lane)))

theorem cores_startBoundary (p : Nat) : (startBoundary p).Keeps (State.CoresAre g) :=
  Act.keeps_seq
    (Act.keeps_each fun _ _ => Act.keeps_asked fun _ => Act.keeps_when (Act.keeps_asked fun _ => Act.keeps_when
      (noPile_setR _ _).coresKept))
    (Act.keeps_each fun _ _ => Act.keeps_asked fun _ => Act.keeps_when (Act.keeps_each fun _ _ => Act.keeps_asked fun _ =>
      Act.keeps_when (noPile_setR _ _).coresKept))

/-! ### Faults -/

theorem cores_putRecord (p : Nat) (r : PfRec) : (putRecord p r).Keeps (State.CoresAre g) :=
  Act.keeps_asked fun _ => Act.keeps_list
    ⟨cores_modFlt p _, (noPile_setR _ _).coresKept, (noPile_raiseEvent _ _ _).coresKept⟩

theorem cores_noSpare (p : Nat) (r : PfRec) : (noSpare p r).Keeps (State.CoresAre g) := Act.keeps_list
  ⟨cores_putRecord p _, (noPile_raiseEvent _ _ _).coresKept, (noPile_propose _ _).coresKept, noPile_waxDirty.coresKept⟩

theorem cores_condemn (p : Nat) (r : PfRec) : (condemn p r).Keeps (State.CoresAre g) :=
  Act.keeps_asked fun _ => Act.keeps_ite (Act.keeps_done _) (Act.keeps_seq (noPile_setR _ _).coresKept
    (Act.keeps_ite (cores_putRecord p _) (Act.keeps_ite (cores_noSpare p r)
      (Act.keeps_seq (cores_putRecord p _) (cores_modFlt p _)))))

theorem cores_transientOn (p t : Nat) : (transientOn p t).Keeps (State.CoresAre g) :=
  Act.keeps_asked fun _ => Act.keeps_seq (cores_modFlt p _) (Act.keeps_asked fun _ => Act.keeps_when (Act.keeps_list
    ⟨cores_modFlt p _, (noPile_setR _ _).coresKept, Act.keeps_when (cores_condemn p _)⟩))

theorem cores_comparePair (p idx : Nat) (d : DualPair) (i : Nat) : (comparePair p idx d i).Keeps (State.CoresAre g) := by
  refine Act.keeps_asked fun s => ?_
  split
  · refine Act.keeps_seq (noPile_bump _ _).coresKept (Act.keeps_when (Act.keeps_list
      ⟨(noPile_bump _ _).coresKept, cores_modFlt p _, Act.keeps_when (Act.only_list ?_).coresKept,
        Act.keeps_when (cores_causeAt p _)⟩))
    exact ⟨noPile_setR _ _, noPile_setR _ _, noPile_setR _ _, noPile_setR _ _, noPile_setR _ _, noPile_setR _ _⟩
  · exact Act.keeps_done _

theorem cores_comparePairs (p : Nat) : (comparePairs p).Keeps (State.CoresAre g) := by
  refine Act.keeps_asked fun s => ?_
  split
  · exact Act.keeps_done _
  · refine Act.keeps_all fun a ha => ?_
    obtain ⟨i, _, rfl⟩ := List.mem_mapIdx.mp ha
    exact Act.keeps_when (Act.keeps_each fun n _ => cores_comparePair p i _ n)

theorem cores_condemnBoth (p : Nat) (f : FaultRec) (n : Nat) : (condemnBoth p f n).Keeps (State.CoresAre g) :=
  Act.keeps_asked fun _ => Act.keeps_each fun _ _ => cores_condemn p _

theorem cores_dualReproduced (p : Nat) (f : FaultRec) : (dualReproduced p f).Keeps (State.CoresAre g) := by
  refine Act.keeps_asked fun s => ?_
  split
  · exact Act.keeps_each fun _ _ => cores_condemn p _
  · split
    · exact Act.keeps_ite (cores_condemnBoth p f 2) (Act.keeps_list
        ⟨cores_modFlt p _, cores_putRecord p _, cores_modFlt p _⟩)
    · exact cores_condemnBoth p f 2

theorem cores_arbFaulty (p : Nat) (x : Arb) (phys n : Nat) (replaced : Bool) :
    (arbFaulty p x phys n replaced).Keeps (State.CoresAre g) :=
  Act.keeps_asked fun _ => Act.keeps_seq (noPile_setR _ _).coresKept (Act.keeps_ite
    (Act.keeps_seq (cores_putRecord p _) (Act.keeps_list
      ⟨(noPile_setR _ _).coresKept, (noPile_propose _ _).coresKept, noPile_waxDirty.coresKept⟩))
    (cores_noSpare p _))

theorem cores_arbOutcome (p : Nat) (x : Arb) (m : Bool) : (arbOutcome p x m).Keeps (State.CoresAre g) :=
  Act.keeps_ite
    (Act.keeps_ite (Act.keeps_seq (cores_modFlt p _) (cores_modFlt p _))
      (Act.keeps_seq (cores_arbFaulty p x _ _ _) (cores_modFlt p _)))
    (Act.keeps_ite
      (Act.keeps_ite (Act.keeps_list ⟨cores_arbFaulty p x _ _ _, cores_arbFaulty p x _ _ _, cores_modFlt p _⟩)
        (Act.keeps_seq (cores_arbFaulty p x _ _ _) (cores_modFlt p _)))
      (Act.keeps_done _))

theorem cores_reproduced (p : Nat) (f : FaultRec) : (reproduced p f).Keeps (State.CoresAre g) :=
  Act.keeps_seq (Act.keeps_seq (noPile_bump _ _).coresKept (cores_modFlt p _)) (Act.keeps_asked fun _ =>
    Act.keeps_ite (cores_dualReproduced p f) (Act.keeps_ite (cores_condemn p _) (cores_condemn p _)))

theorem cores_passed (p : Nat) (f : FaultRec) : (passed p f).Keeps (State.CoresAre g) :=
  Act.keeps_seq (noPile_bump _ _).coresKept (Act.keeps_asked fun _ =>
    Act.keeps_ite (Act.keeps_each fun _ _ => cores_transientOn p _) (cores_transientOn p _))

theorem cores_classify (p : Nat) : (classify p).Keeps (State.CoresAre g) := by
  refine Act.keeps_asked fun s => Act.keeps_list ⟨Act.keeps_when (cores_modFlt p _), ?_, Act.keeps_each fun f _ => ?_, cores_modFlt p _⟩
  · split
    · exact cores_arbOutcome p _ _
    · exact Act.keeps_done _
  · split
    · exact cores_reproduced p _
    · exact cores_passed p f

/-! ### The bookkeeping of a phase -/

theorem cores_addDispatch (p : Nat) (r : Routing) : (addDispatch p r).Keeps (State.CoresAre g) := by
  refine Act.keeps_asked fun s => ?_
  split
  · exact Act.keeps_asked fun _ => Act.keeps_ite (cores_modPile p fun _ => rfl) (cores_modPile p fun _ => rfl)
  · exact Act.keeps_done _

theorem cores_queueToken (p q : Nat) (up : Bool) (k : GateToken) : (queueToken p q up k).Keeps (State.CoresAre g) :=
  cores_modGate p fun _ => rfl

theorem cores_rootComplete (r : Nat) : (rootComplete r).Keeps (State.CoresAre g) := by
  have hrelease : ∀ k, (release 0 k).Keeps (State.CoresAre g) := fun k => Act.keeps_list
    ⟨cores_modGate 0 fun _ => rfl, (noPile_setR _ _).coresKept,
      Act.keeps_asked fun _ => Act.keeps_each fun q _ => cores_queueToken 0 q false k⟩
  exact Act.keeps_asked fun _ => Act.keeps_list ⟨cores_modGate 0 fun _ => rfl, hrelease _,
    Act.keeps_asked fun _ => Act.keeps_when (noPile_raiseEvent _ _ _).coresKept⟩

/-- Arrivals that meet change a gate's tokens alone. -/
theorem cores_combine (p slot n : Nat) : (combine p slot n).Keeps (State.CoresAre g) :=
  Act.keeps_asked fun _ => Act.keeps_ite (Act.keeps_done _) (Act.keeps_ite (cores_rootComplete _)
    (Act.keeps_seq (cores_modGate p fun _ => rfl) (Act.keeps_asked fun _ => cores_queueToken p _ true _)))

theorem cores_stopHere (p : Nat) : (stopHere p).Keeps (State.CoresAre g) :=
  Act.keeps_seq (noPile_setR _ _).coresKept (Act.keeps_asked fun _ => Act.keeps_when (noPile_setR _ _).coresKept)

end

theorem booked_run {a : Act} (h : ∀ g, a.Keeps (State.CoresAre g)) (s : State) (q : Nat) :
    ((a.run s).pile q).gate.booked = (s.pile q).gate.booked :=
  (congrArg GateSt.booked (core_run h s q) :)

theorem pile_modGate (p : Nat) (f : GateSt → GateSt) (s : State) :
    ((modGate p f).run s).pile p = { s.pile p with gate := f (s.pile p).gate } :=
  Upd.pile_pile_self p _ s

theorem rd_modGate (p : Nat) (f : GateSt → GateSt) (s : State) (k : FKey) : ((modGate p f).run s).rd k = s.rd k := rfl
theorem pile_setR (k : FKey) (v : Nat) (s : State) (p : Nat) : ((setR k v).run s).pile p = s.pile p := Upd.pile_reg k v s p
theorem pile_bump (k : FKey) (n : Nat) (s : State) (p : Nat) : ((bump k n).run s).pile p = s.pile p := by rw [run_bump, Upd.pile_reg]

theorem rd_setR_of_ne {k k' : FKey} (h : k'.f ≠ k.f) (v : Nat) (s : State) : ((setR k v).run s).rd k' = s.rd k' :=
  Upd.rd_reg_of_ne v s (FKey.code_ne h)

theorem book_of_booked {s : State} {p : Nat} (h : (s.pile p).gate.booked = true) (routed : List Routing) (fails : List (XPort × Nat)) :
    (book p routed fails).run s = s := by
  rw [book, Act.run_ask, h]
  rfl

/-- A phase is booked once its bookkeeping is done. -/
theorem booked_book (p : Nat) (routed : List Routing) (fails : List (XPort × Nat)) (s : State) :
    (((book p routed fails).run s).pile p).gate.booked = true := by
  cases hb : (s.pile p).gate.booked
  · rw [book, Act.run_ask, hb, Bool.not_false, Act.run_when, if_pos rfl, Act.run_all_cons]
    refine (booked_run (fun g => Act.keeps_list ?_) _ p).trans (by rw [pile_modGate])
    exact ⟨Act.keeps_each fun r _ => cores_addDispatch p r, cores_comparePairs p, Act.keeps_when (Act.keeps_list
      ⟨cores_classify p, Act.keeps_each fun k _ => cores_patternTest p k _⟩)⟩
  · rw [book_of_booked hb, hb]

/-! ## An arrival is noted (R181, R193) -/

/-- The gate of a pile that has arrived: the slot, whether it slipped, and the tree's place. -/
def State.arrivedGate (s : State) (p slot children : Nat) (parent : Option Nat) : GateSt := { (s.pile p).gate with
  arrivedAt := some slot, slipped := oneIf (decide (0 < s.slipOf p slot)), parent := parent, children := children }

/-- The gate takes the arrival, and shows that the pile waits. -/
def State.entered (s : State) (p slot children : Nat) (parent : Option Nat) : State :=
  (setR (pk .GATE_STATUS_STATE p) 1).run ((modGate p fun _ => s.arrivedGate p slot children parent).run s)

/-- The state in which a pile's arrival is noted, before its token: the gate, and the slip's counters. -/
def State.noted (s : State) (p slot children : Nat) (parent : Option Nat) : State :=
  if 0 < s.slipOf p slot then
    (setR (pk .SLIP_MAX p) (max (s.rd (pk .SLIP_MAX p)) (min (2 ^ 32 - 1) (s.slipOf p slot)))).run
      ((bump (pk .SLIP_COUNT p)).run (s.entered p slot children parent))
  else s.entered p slot children parent

theorem run_arriveNow (p slot children : Nat) (parent : Option Nat) (s : State) :
    (arriveNow p slot children parent).run s = (combine p slot children).run (s.noted p slot children parent) := by
  simp only [arriveNow, Act.run_ask, Act.run_all_next, Act.run_all_last, Act.run_when, decide_eq_true_eq, Act.run_seq]
  rfl

section
variable (p slot children : Nat) (parent : Option Nat) (s : State)

theorem gate_noted : ((s.noted p slot children parent).pile p).gate = s.arrivedGate p slot children parent := by
  have hgate : ((s.entered p slot children parent).pile p).gate = s.arrivedGate p slot children parent := by
    rw [State.entered, pile_setR, pile_modGate]
  rw [State.noted]
  split
  · rw [pile_setR, pile_bump, hgate]
  · exact hgate

theorem gateState_noted : (s.noted p slot children parent).rd (pk .GATE_STATUS_STATE p) = 1 := by
  have hone : (s.entered p slot children parent).rd (pk .GATE_STATUS_STATE p) = 1 := rd_setR_self _ _ _
  rw [State.noted]
  split
  · rw [rd_setR_of_ne (show Fld.GATE_STATUS_STATE ≠ .SLIP_MAX by decide),
      rd_bump_of_ne _ (show Fld.GATE_STATUS_STATE ≠ .SLIP_COUNT by decide), hone]
  · exact hone

theorem slipCount_noted : (s.noted p slot children parent).rd (pk .SLIP_COUNT p) =
    if 0 < s.slipOf p slot then s.counted (pk .SLIP_COUNT p) 1 else s.rd (pk .SLIP_COUNT p) := by
  have hcount : (s.entered p slot children parent).rd (pk .SLIP_COUNT p) = s.rd (pk .SLIP_COUNT p) :=
    rd_setR_of_ne (show Fld.SLIP_COUNT ≠ .GATE_STATUS_STATE by decide) 1 _
  rw [State.noted]
  split
  · rw [rd_setR_of_ne (show Fld.SLIP_COUNT ≠ .SLIP_MAX by decide), rd_bump_self]
    exact State.counted_congr hcount 1
  · exact hcount

theorem rd_noted {k : FKey} (hk : k.f ∉ [Fld.GATE_STATUS_STATE, .SLIP_COUNT, .SLIP_MAX]) :
    (s.noted p slot children parent).rd k = s.rd k := by
  simp only [List.mem_cons, List.not_mem_nil, or_false, not_or] at hk
  obtain ⟨hstate, hslip, hmax⟩ := hk
  have hent : (s.entered p slot children parent).rd k = s.rd k := rd_setR_of_ne hstate 1 _
  rw [State.noted]
  split
  · exact ((rd_setR_of_ne hmax _ _).trans (rd_bump_of_ne _ hslip 1)).trans hent
  · exact hent

theorem job_noted : (s.noted p slot children parent).job = s.job := by
  rw [State.noted]
  split <;> rfl

theorem pwr_noted : (s.noted p slot children parent).pwr = s.pwr := by
  rw [State.noted]
  split <;> rfl

/-- The token that goes up tells the step, the phase and the job that the pile was in. -/
theorem arriveToken_noted : let k := (s.noted p slot children parent).arriveToken p
    k.step = s.step ∧ k.phase = s.gatePhase p ∧ k.jobTag = s.jobTag := by
  refine ⟨rd_noted p slot children parent s (by decide), ?_, ?_⟩
  · rw [State.arriveToken, State.gatePhase, gate_noted, rd_noted p slot children parent s (show Fld.GATE_STATUS_PHASE ∉ _ by decide)]
    rfl
  · rw [State.arriveToken, State.jobTag, job_noted]
    rfl

end

/-! ## The pile's token (R191) -/

/-- Changes of what a token's sending touches: neither power nor the slip's counter is among it. -/
def Upd.ofToken : Upd → Prop
  | .reg k _ => k.f ≠ .SLIP_COUNT
  | .pile _ _ | .setSession _ | .dropSession _ | .mailbox _ _ | .pushEvent _ | .lift _ | .out _ | .draw _ => True
  | _ => False

theorem Upd.ofLift_ofToken (u : Upd) (h : u.ofLift) : u.ofToken := by
  cases u with
  | reg k v => exact fun hk => absurd (hk ▸ h : Fld.SLIP_COUNT ∈ liftFlds) (by decide)
  | setSession v | dropSession i | mailbox i v | lift v | out v => trivial
  | _ => exact absurd h id

theorem token_combine (p slot n : Nat) : (combine p slot n).Only Upd.ofToken := by
  have hgate : ∀ q f, (modGate q f).Only Upd.ofToken := fun _ _ _ => ⟨trivial, trivial⟩
  have hrelease : ∀ k, (release 0 k).Only Upd.ofToken := fun k => Act.only_list
    ⟨hgate 0 _, ⟨nofun, trivial⟩, fun _ => Act.only_each fun _ _ => hgate 0 _⟩
  exact fun s => Act.only_ite trivial (Act.only_ite
    (fun _ => Act.only_list ⟨hgate 0 _, hrelease _, fun _ => Act.only_when fun _ =>
      only_raiseEvent Upd.ofLift_ofToken trivial (fun _ => trivial) (fun _ => nofun) _ _ _⟩)
    (Act.only_seq (hgate p _) fun _ => hgate p _))

theorem Act.Only.tokenSame {a : Act} (h : a.Only Upd.ofToken) (s : State) (p : Nat) :
    (a.run s).rd (pk .SLIP_COUNT p) = s.rd (pk .SLIP_COUNT p) ∧ (a.run s).pwr = s.pwr := by
  refine h.keeps (I := fun t => t.rd (pk .SLIP_COUNT p) = s.rd (pk .SLIP_COUNT p) ∧ t.pwr = s.pwr) (fun u t hu ht => ?_) ⟨rfl, rfl⟩
  obtain ⟨hrd, hpwr⟩ := ht
  cases u with
  | reg k v => exact ⟨(rd_setR_of_ne (Ne.symm (show k.f ≠ .SLIP_COUNT from hu)) v t).trans hrd, hpwr⟩
  | pushEvent e => simp only [Upd.apply]; split <;> exact ⟨hrd, hpwr⟩
  | pile q v | setSession v | lift v | out v | draw n | mailbox i v | dropSession i => exact ⟨hrd, hpwr⟩
  | _ => exact absurd hu id

/-- A pile waits while fewer tokens have come than it has children, and when its own has gone up. -/
theorem combine_waits {u : State} {p n : Nat} (h : (u.pile p).gate.kids.length < n ∨ (u.pile p).gate.sentUp = true) (slot : Nat) :
    (combine p slot n).run u = u := by
  have hwait : ((u.pile p).gate.arrivedAt.isNone || (u.pile p).gate.sentUp || decide ((u.pile p).gate.kids.length < n)) = true := by
    obtain h | h := h <;> simp [h]
  rw [combine, Act.run_ask, if_pos hwait, Act.run_done]

/-- A pile's token goes up, twice. -/
structure TokenUp (u t : State) (p : Nat) : Prop where
  rd   : ∀ k, t.rd k = u.rd k
  gate : (t.pile p).gate = { (u.pile p).gate with sentUp := true, sends := (u.pile p).gate.sends ++
    [⟨u.parentPort p, true, { u.arriveToken p with copy := 0 }⟩, ⟨u.parentPort p, true, { u.arriveToken p with copy := 1 }⟩] }

theorem combine_sends {u : State} {p n : Nat} (harr : (u.pile p).gate.arrivedAt ≠ none) (hkids : n ≤ (u.pile p).gate.kids.length)
    (hsent : (u.pile p).gate.sentUp = false) (hroot : u.isRoot p = false) (slot : Nat) :
    TokenUp u ((combine p slot n).run u) p := by
  have hgo : ¬ ((u.pile p).gate.arrivedAt.isNone || (u.pile p).gate.sentUp || decide ((u.pile p).gate.kids.length < n)) = true := by
    simp [harr, hsent, hkids]
  have hrun : (combine p slot n).run u =
      ((modGate p (fun g => { g with sentUp := true })).seq (sendArrive p (u.arriveToken p))).run u := by
    rw [combine, Act.run_ask, if_neg hgo, hroot, if_neg Bool.false_ne_true]
  rw [hrun, Act.run_seq, sendArrive, Act.run_ask, queueToken]
  refine ⟨fun k => ?_, ?_⟩
  · rw [rd_modGate, rd_modGate]
  · simp only [pile_modGate, State.parentPort]

section
variable (p slot n : Nat) (parent : Option Nat) (s : State)

/-- A pile arrives (R181, R193): its arrival, its parent and its slip are noted, whatever becomes of its token. -/
theorem arriveNow_notes : let t := (arriveNow p slot n parent).run s
    (t.pile p).gate.arrivedAt = some slot ∧ (t.pile p).gate.parent = parent ∧ t.pwr = s.pwr ∧ t.rd (pk .SLIP_COUNT p) =
      if 0 < s.slipOf p slot then s.counted (pk .SLIP_COUNT p) 1 else s.rd (pk .SLIP_COUNT p) := by
  have hcore := core_run (fun g => cores_combine p slot n) (s.noted p slot n parent) p
  rw [gate_noted] at hcore
  obtain ⟨hcount, hpwr⟩ := (token_combine p slot n).tokenSame (s.noted p slot n parent) p
  rw [run_arriveNow]
  exact ⟨congrArg GateSt.arrivedAt hcore, congrArg GateSt.parent hcore, hpwr.trans (pwr_noted p slot n parent s),
    hcount.trans (slipCount_noted p slot n parent s)⟩

/-- It waits for its children's tokens, or for RELEASE where its own has gone up (R191). -/
theorem arriveNow_waits (h : (s.pile p).gate.kids.length < n ∨ (s.pile p).gate.sentUp = true) :
    let t := (arriveNow p slot n parent).run s
    t.rd (pk .GATE_STATUS_STATE p) = 1 ∧ (t.pile p).gate.sends = (s.pile p).gate.sends := by
  have hstay : (combine p slot n).run (s.noted p slot n parent) = s.noted p slot n parent :=
    combine_waits (by rw [gate_noted]; exact h) slot
  rw [run_arriveNow, hstay]
  exact ⟨gateState_noted p slot n parent s, by rw [gate_noted]; rfl⟩

/-- Its token waits twice for its parent's port (R191). -/
theorem arriveNow_sends (hkids : n ≤ (s.pile p).gate.kids.length) (hsent : (s.pile p).gate.sentUp = false) (hroot : s.isRoot p = false) :
    let t := (arriveNow p slot n parent).run s
    t.rd (pk .GATE_STATUS_STATE p) = 1 ∧ (t.pile p).gate.sentUp = true ∧
      ∃ k : GateToken, (t.pile p).gate.sends = (s.pile p).gate.sends ++
        [⟨(parent.map wayPort).getD 8, true, { k with copy := 0 }⟩, ⟨(parent.map wayPort).getD 8, true, { k with copy := 1 }⟩] ∧
        k.step = s.step ∧ k.phase = s.gatePhase p ∧ k.jobTag = s.jobTag := by
  have hroot' : (s.noted p slot n parent).isRoot p = false := by
    rw [State.isRoot, State.on, rd_noted p slot n parent s (by decide)]
    exact hroot
  have hup : TokenUp (s.noted p slot n parent) ((combine p slot n).run (s.noted p slot n parent)) p :=
    combine_sends (by rw [gate_noted]; exact nofun) (by rw [gate_noted]; exact hkids) (by rw [gate_noted]; exact hsent) hroot' slot
  obtain ⟨hrd, hgate⟩ := hup
  rw [run_arriveNow]
  refine ⟨(hrd _).trans (gateState_noted p slot n parent s), by rw [hgate], (s.noted p slot n parent).arriveToken p, ?_,
    arriveToken_noted p slot n parent s⟩
  rw [hgate, State.parentPort, gate_noted]
  rfl

end

/-! ## The row -/

/-- A pile has arrived in a slot: at the start gate, or at the end of a phase that is booked, with no step-boundary work due. -/
def State.ArrivesIn (s : State) (p slot : Nat) : Prop :=
  (s.pile p).gate.start = true ∧ s.jobState = jsStarting ∧ s.usesPile p = true ∧ (s.pile p).gate.arrivedAt = none ∧
    s.inputsReady p = true ∧ s.on (pk .SW_STATUS_GATE_HELD p) = false ∨
  s.jobStarted = true ∧ (s.pile p).gate.start = false ∧ (s.pile p).gate.booked = true ∧ s.phaseDone p slot = true ∧
    s.boundaryDue p = false

/-- The governor does not hold back a pile's arrival: the core current is at its floor, or the plan asks for none. -/
def State.currentReached (s : State) (p : Nat) : Prop :=
  s.pwr.inGate = false ∧ s.startA p = 0 ∨ s.pwr.inGate = true ∧ s.pwr.since = none ∧ s.pwr.floor ≤ s.pwr.act

theorem State.ArrivesIn.started {s : State} {p slot : Nat} (h : s.ArrivesIn p slot) : s.jobStarted = true := by
  obtain ⟨-, hst, -⟩ | ⟨hst, -⟩ := h
  · rw [State.jobStarted, hst]
    rfl
  · exact hst

theorem run_actPileArrival {s : State} {p slot : Nat} (h : s.ArrivesIn p slot) (n : Nat) (parent : Option Nat) (routed : List Routing)
    (fails : List (XPort × Nat)) : (actPileArrival p slot n parent routed fails).run s =
      (if s.job.stopNext then stopHere p else governed p slot n parent).run s := by
  rw [actPileArrival, Act.run_ask]
  obtain ⟨hstart, hjob, huses, harr, hin, hheld⟩ | ⟨-, hstart, hbook, hdone, hdue⟩ := h
  · rw [if_pos hstart, if_neg (by simp [hjob, huses, harr, hin, hheld])]
  · rw [if_neg (by simp [hstart]), if_neg (by simp [hdone]), Act.run_seq, book_of_booked hbook, Act.run_ask, if_neg (by simp [hdue])]

theorem run_stopHere (p : Nat) (s : State) :
    ((stopHere p).run s).rd (pk .GATE_STATUS_STATE p) = 3 ∧ ((stopHere p).run s).out = s.out := by
  have h3 : ((setR (pk .GATE_STATUS_STATE p) 3).run s).rd (pk .GATE_STATUS_STATE p) = 3 := rd_setR_self _ _ _
  rw [stopHere, Act.run_seq, Act.run_ask, Act.run_when]
  split
  · exact ⟨(rd_setR_of_ne (show Fld.GATE_STATUS_STATE ≠ .JOB_STATE_STATE by decide) _ _).trans h3, rfl⟩
  · exact ⟨h3, rfl⟩

/-- A pile has come to a gate: the device's first arrival there sets the governor's floor (R512). -/
def State.floorSet (s : State) (p : Nat) : State := (Upd.pwr (if !s.pwr.inGate || s.pwr.since.isSome then
    { s.pwr with inGate := true, since := none, floor := if s.startA p = 0 then s.pwr.act else (s.startA p : Int) }
  else s.pwr)).apply s

theorem run_governed (p slot n : Nat) (parent : Option Nat) (s : State) : (governed p slot n parent).run s =
    (if (s.floorSet p).pwr.act < (s.floorSet p).floorNow then setR (dk .GOV_STATUS_HOLDING) 1 else arriveNow p slot n parent).run
      (s.floorSet p) := by
  rw [governed, Act.run_ask, Act.run_seq, Act.run_when, Act.run_ask, State.floorSet]
  split <;> rfl

theorem booked_governed (p slot n : Nat) (parent : Option Nat) (s : State) :
    (((governed p slot n parent).run s).pile p).gate.booked = (s.pile p).gate.booked := by
  have hset : ((s.floorSet p).pile p) = s.pile p := Upd.pile_pwr _ s p
  rw [run_governed]
  split
  · rw [pile_setR, hset]
  · rw [run_arriveNow, booked_run fun g => cores_combine p slot n, gate_noted, State.arrivedGate, hset]

/-- The governor does not hold the arrival back: the current is at its floor, or the plan asks for none (R513). -/
theorem governed_arrives {s : State} {p : Nat} (hst : s.jobStarted = true) (h : s.currentReached p) (slot n : Nat) (parent : Option Nat) :
    (s.floorSet p).pwr.inGate = true ∧ (governed p slot n parent).run s = (arriveNow p slot n parent).run (s.floorSet p) := by
  have hset : (s.floorSet p).pwr.inGate = true ∧ (s.floorSet p).pwr.since = none ∧ (s.floorSet p).pwr.floor ≤ (s.floorSet p).pwr.act := by
    obtain ⟨hout, hzero⟩ | ⟨hin, hsince, hfloor⟩ := h
    · simp [State.floorSet, hout, hzero]
    · simp [State.floorSet, hin, hsince, hfloor]
  obtain ⟨hin, hsince, hfloor⟩ := hset
  have hst' : (s.floorSet p).jobStarted = true := hst
  have hnow : (s.floorSet p).floorNow = (s.floorSet p).pwr.floor := by
    simp [State.floorNow, hst', hin, hsince]
  exact ⟨hin, by rw [run_governed, hnow, if_neg (not_lt.mpr hfloor)]⟩

/-- A phase that is complete is booked, and stays so whatever follows. -/
theorem booked_actPileArrival {s : State} {p slot : Nat} (hstart : (s.pile p).gate.start = false) (hdone : s.phaseDone p slot = true)
    (n : Nat) (parent : Option Nat) (routed : List Routing) (fails : List (XPort × Nat)) :
    (((actPileArrival p slot n parent routed fails).run s).pile p).gate.booked = true := by
  rw [actPileArrival, Act.run_ask, if_neg (by simp [hstart]), if_neg (by simp [hdone]), Act.run_seq, Act.run_ask]
  have hbook := booked_book p routed fails s
  split
  · rw [booked_run fun g => cores_startBoundary p, hbook]
  · split
    · rw [booked_run fun g => cores_stopHere p, hbook]
    · rw [booked_governed, hbook]

theorem exec_pileArrival (p : PileId) (slot : Nat) {tree : TreePlace} (h : tree.upsets = []) (routed : List Routing)
    (fails : List (XPort × Nat)) (s : State) : exec (.pileArrival p slot tree routed fails) s =
      .next ((actPileArrival p.val slot tree.children tree.parent routed fails).run s) := by
  change ((Act.each tree.upsets (upset p.val)).seq _).answer s = _
  rw [h]
  rfl

end Sys2Proof.Machine
end

section

open Sys2Proof Sys2Proof.Machine

/-- Settles O43 (R181, R189, R191, R193, R203): nothing that follows the bookkeeping of a phase takes it back, as gates change there by
their tokens alone; and a pile that has arrived stops, or has its arrival noted and then sends its token or waits. -/
theorem pilesArrive : Obligations.PilesArrive := by
  unfold Obligations.PilesArrive
  constructor
  · intro s p slot tree routed fails hups hstart hdone
    exact ⟨_, exec_pileArrival p slot hups routed fails s, booked_actPileArrival hstart hdone _ _ _ _⟩
  · intro s p slot tree routed fails hups harr
    have harr : s.ArrivesIn p.val slot := harr
    refine ⟨_, exec_pileArrival p slot hups routed fails s, ?_⟩
    rw [run_actPileArrival harr]
    refine ⟨fun hstop => ?_, fun hstop hcur => ?_⟩
    · rw [hstop, if_pos rfl]
      exact run_stopHere p.val s
    · obtain ⟨hin, hrun⟩ := governed_arrives harr.started hcur slot tree.children tree.parent
      rw [hstop, if_neg Bool.false_ne_true, hrun]
      obtain ⟨hslot, hparent, hpwr, hslip⟩ := arriveNow_notes p.val slot tree.children tree.parent (s.floorSet p.val)
      exact ⟨hslot, hparent, (congrArg PwrSt.inGate hpwr).trans hin, hslip,
        arriveNow_waits p.val slot tree.children tree.parent (s.floorSet p.val),
        arriveNow_sends p.val slot tree.children tree.parent (s.floorSet p.val)⟩

end

section
/-! PROOFS. What the switch's movers touch beside their own way-slots: reads, counts, hazards and what the RUE does with a line leave
memory and the switch's work in flight as they were. -/

namespace Sys2Proof.Machine

/-! ## The switch's work kept -/

/-- Memory is unchanged, and so are the named fields and what `f` tells of every pile's switch. -/
structure SwitchKept {β : Type} (f : SwSt → β) (fs : List Fld) (before after : State) : Prop where
  dram : after.dram = before.dram
  sram : after.sram = before.sram
  sw   : ∀ q, f (after.pile q).sw = f (before.pile q).sw
  rd   : ∀ k : FKey, k.f ∈ fs → after.rd k = before.rd k

/-- Changes that touch neither memory nor a pile's own state nor the named fields. -/
def Upd.BesideSwitch (fs : List Fld) : Upd → Prop
  | .reg k _ => k.f ∉ fs
  | .clearRegs _ | .dram _ _ | .sram _ _ | .dropDram _ | .dropSram _ _ | .pile _ _ | .restart _ => False
  | _ => True

section
variable {β : Type} {f : SwSt → β} {fs : List Fld} {r : State}

theorem SwitchKept.refl (s : State) : SwitchKept f fs s s := ⟨rfl, rfl, fun _ => rfl, fun _ _ => rfl⟩

theorem SwitchKept.trans {s t : State} (h : SwitchKept f fs r s) (k : SwitchKept f fs s t) : SwitchKept f fs r t :=
  ⟨k.dram.trans h.dram, k.sram.trans h.sram, fun q => (k.sw q).trans (h.sw q), fun q hq => (k.rd q hq).trans (h.rd q hq)⟩

/-- An action that keeps it relates the states before and after. -/
theorem SwitchKept.of_keeps {a : Act} {s : State} (h : a.Keeps (SwitchKept f fs s)) : SwitchKept f fs s (a.run s) := h s (.refl s)

theorem SwitchKept.on {s t : State} (h : SwitchKept f fs s t) {k : FKey} (hk : k.f ∈ fs) : t.on k = s.on k := by
  rw [State.on, h.rd k hk, State.on]

theorem kept_of_only {a : Act} (h : a.Only (Upd.BesideSwitch fs)) : a.Keeps (SwitchKept f fs r) := by
  refine h.toKeeps fun u s hu hs => hs.trans ?_
  cases u with
  | reg k v => exact ⟨rfl, rfl, fun _ => rfl, fun q hq => rd_setR_of_ne (fun he => hu (he ▸ hq)) v s⟩
  | openHalf v | openSession v | pushEvent v =>
    simp only [Upd.apply]
    split <;> exact ⟨rfl, rfl, fun _ => rfl, fun _ _ => rfl⟩
  | clearRegs _ | dram _ _ | sram _ _ | dropDram _ | dropSram _ _ | pile _ _ | restart _ => exact absurd hu id
  | _ => exact ⟨rfl, rfl, fun _ => rfl, fun _ _ => rfl⟩

theorem kept_setR {k : FKey} (hk : k.f ∉ fs) (v : Nat) : (setR k v).Keeps (SwitchKept f fs r) := kept_of_only ⟨hk, trivial⟩
theorem kept_setB {k : FKey} (hk : k.f ∉ fs) (v : Bool) : (setB k v).Keeps (SwitchKept f fs r) := kept_of_only ⟨hk, trivial⟩
theorem kept_bump {k : FKey} (hk : k.f ∉ fs) (n : Nat) : (bump k n).Keeps (SwitchKept f fs r) :=
  kept_of_only (only_bump fun _ => hk)
theorem kept_send (o : Out) : (send o).Keeps (SwitchKept f fs r) := kept_of_only ⟨trivial, trivial⟩

theorem kept_modPile (p : Nat) {g : Pile → Pile} (h : ∀ x, f (g x).sw = f x.sw) : (modPile p g).Keeps (SwitchKept f fs r) := by
  refine fun s hs => hs.trans ⟨rfl, rfl, fun q => ?_, fun _ _ => rfl⟩
  rw [run_modPile]
  by_cases hq : q = p
  · rw [hq, Upd.pile_pile_self, h]
  · rw [Upd.pile_pile_of_ne _ s hq]

theorem kept_modSw (p : Nat) {g : SwSt → SwSt} (h : ∀ x, f (g x) = f x) : (modSw p g).Keeps (SwitchKept f fs r) :=
  kept_modPile p fun x => h x.sw
theorem kept_modRue (p : Nat) (g : RueSt → RueSt) : (modRue p g).Keeps (SwitchKept f fs r) := kept_modPile p fun _ => rfl
theorem kept_modMem (p : Nat) (g : MemSt → MemSt) : (modMem p g).Keeps (SwitchKept f fs r) := kept_modPile p fun _ => rfl
theorem kept_causeNow (p c : Nat) : (causeNow p c).Keeps (SwitchKept f fs r) := kept_modRue p _
theorem kept_causeAt (p c : Nat) : (causeAt p c).Keeps (SwitchKept f fs r) :=
  Act.keeps_asked fun _ => Act.keeps_ite (kept_modRue p _) (kept_causeNow p c)

theorem kept_hazard {p : Nat} (h : Fld.XFER_HAZARD ∉ fs) : (hazard p).Keeps (SwitchKept f fs r) :=
  Act.keeps_seq (kept_bump h 1) (kept_causeAt p _)

theorem kept_indexFault {p : Nat} (h : Fld.SW_INDEX_ERR ∉ fs) : (indexFault p).Keeps (SwitchKept f fs r) :=
  Act.keeps_seq (kept_bump h 1) (kept_causeAt p _)

end

/-! ## Reads of a line -/

/-- The fields that a read may write as it accounts for itself (R358, R366, R367, R383). -/
def readFlds : List Fld := [
  .MEM_READS, .MEM_CE_LINES, .MEM_CE_BYTES, .MEM_POISON_READ, .MEM_UNWRITTEN_READ, .MEM_UE, .MEM_UE_TOTAL, .MEM_BUCKET, .MEM_BUCKET_OVF,
  .MEM_CE_LOG_VALID, .MEM_CE_LOG_GROOMED, .MEM_CE_LOG_RECUR, .MEM_CE_LOG_LINE, .MEM_CE_LOG_BYTES, .MEM_CE_LOG_TSV,
  .MEM_UE_LOG_VALID, .MEM_UE_LOG_STEP, .MEM_UE_LOG_GROOMER, .MEM_UE_LOG_QUEUED, .MEM_UE_LOG_LINE, .EVT_LOST] ++ liftFlds

section
variable {β : Type} {f : SwSt → β} {fs : List Fld} {r : State} (hfs : ∀ g ∈ readFlds, g ∉ fs)
include hfs

theorem kept_raiseEvent (c p : Nat) (b : List Nat) : (raiseEvent c p b).Keeps (SwitchKept f fs r) := by
  refine kept_of_only (only_raiseEvent (fun u hu => ?_) trivial (fun _ => trivial)
    (fun _ => hfs _ (show Fld.EVT_LOST ∈ readFlds by decide)) c p b)
  cases u with
  | reg k v => exact hfs _ (List.mem_append_right _ hu)
  | setSession _ | dropSession _ | mailbox _ _ | lift _ | out _ => trivial
  | _ => exact absurd hu id

theorem kept_queueMove (p line : Nat) : (queueMove p line).Keeps (SwitchKept f fs r) :=
  Act.keeps_seq (kept_modMem p _) (Act.keeps_asked fun _ => Act.keeps_when
    (kept_setR (hfs _ (show Fld.MEM_UE_LOG_QUEUED ∈ readFlds by decide)) 1))

theorem kept_ceLog (p line : Nat) (fixed : List Nat) (groomer : Bool) : (ceLog p line fixed groomer).Keeps (SwitchKept f fs r) := by
  have hset : ∀ {g : Fld} (i v : Nat), g ∈ readFlds → (setR (pk g p i) v).Keeps (SwitchKept f fs r) := fun _ v hg => kept_setR (hfs _ hg) v
  have htouch : ∀ i n b g, (Act.all [setR (pk .MEM_CE_LOG_BYTES p i) n, setB (pk .MEM_CE_LOG_TSV p i) b, modMem p g]).Keeps
      (SwitchKept f fs r) := fun i n b g => Act.keeps_list
    ⟨hset i n (by decide), kept_setB (hfs _ (show Fld.MEM_CE_LOG_TSV ∈ readFlds by decide)) b, kept_modMem p g⟩
  refine Act.keeps_asked fun s => ?_
  dsimp only
  split
  · exact Act.keeps_seq (htouch _ _ _ _) (Act.keeps_when (Act.keeps_seq (hset _ 1 (by decide)) (kept_queueMove hfs p line)))
  · exact Act.keeps_list ⟨hset _ _ (by decide), hset _ _ (by decide), hset _ _ (by decide), hset _ _ (by decide),
      htouch _ _ _ _, Act.keeps_when (kept_modMem p _)⟩

theorem kept_bucketUp (p : Nat) : (bucketUp p).Keeps (SwitchKept f fs r) := by
  have hevent : (ceEvent p).Keeps (SwitchKept f fs r) := fun s hs => by
    have hdrawn : SwitchKept f fs r ((Upd.draw 1).apply s) := hs.trans ⟨rfl, rfl, fun _ => rfl, fun _ _ => rfl⟩
    rw [ceEvent, run_withFree]
    exact Act.keeps_asked (fun _ => Act.keeps_ite (Act.keeps_done _)
      (Act.keeps_seq (kept_modMem p _) (kept_raiseEvent hfs _ _ _))) _ hdrawn
  exact Act.keeps_asked fun _ => Act.keeps_ite
    (Act.keeps_list ⟨kept_setR (hfs _ (show Fld.MEM_BUCKET ∈ readFlds by decide)) 0,
      kept_bump (hfs _ (show Fld.MEM_BUCKET_OVF ∈ readFlds by decide)) 1, hevent⟩)
    (kept_bump (hfs _ (show Fld.MEM_BUCKET ∈ readFlds by decide)) 1)

theorem kept_ueLog (p line : Nat) (groomer : Bool) : (ueLog p line groomer).Keeps (SwitchKept f fs r) := by
  have hset : ∀ {g : Fld} (v : Nat), g ∈ readFlds → (setR (pk g p) v).Keeps (SwitchKept f fs r) := fun v hg => kept_setR (hfs _ hg) v
  have hcount : ∀ {g : Fld}, g ∈ readFlds → (bump (pk g p)).Keeps (SwitchKept f fs r) := fun hg => kept_bump (hfs _ hg) 1
  exact Act.keeps_asked fun _ => Act.keeps_list
    ⟨hcount (by decide), hcount (by decide), hset _ (by decide), hset _ (by decide),
      kept_setB (hfs _ (show Fld.MEM_UE_LOG_GROOMER ∈ readFlds by decide)) _, hset _ (by decide), hset _ (by decide),
      Act.keeps_when (Act.keeps_seq (kept_modMem p _) (kept_modMem p _))⟩

/-- What a read counts and records touches neither memory nor the switch. -/
theorem kept_accountRead (p line : Nat) (o : ReadOut) (groomer : Bool) : (accountRead p line o groomer).Keeps (SwitchKept f fs r) := by
  have hcount : ∀ {g : Fld} (n : Nat), g ∈ readFlds → (bump (pk g p) n).Keeps (SwitchKept f fs r) := fun n hg => kept_bump (hfs _ hg) n
  refine Act.keeps_seq (hcount 1 (by decide)) ?_
  cases o.kind with
  | data => exact Act.keeps_when (Act.keeps_list
      ⟨hcount _ (by decide), hcount _ (by decide), kept_ceLog hfs p line _ _, kept_bucketUp hfs p⟩)
  | poison => exact Act.keeps_seq (hcount 1 (by decide)) (Act.keeps_when (hcount 1 (by decide)))
  | uncorrectable => exact kept_ueLog hfs p line groomer

/-- A line is read as it stands, in a state that differs only by what the read accounts for. -/
theorem getLine_reads (f : SwSt → β) (p : Nat) (sp : Space) (n x : Nat) (k : Line → Act) (s : State) :
    ∃ v, (getLine p sp n x k).run s = (k (s.lineAt p sp n x)).run v ∧ SwitchKept f fs s v := by
  cases sp with
  | buf | ls => exact ⟨s, rfl, .refl s⟩
  | dram =>
    rw [getLine, Act.run_ask, State.lineAt]
    split
    · exact ⟨s, rfl, .refl s⟩
    · exact ⟨_, Act.run_seq _ _ _, .of_keeps (kept_accountRead hfs p x _ false)⟩

end

theorem lineAt_congr {β : Type} {f : SwSt → β} {fs : List Fld} {s t : State} (h : SwitchKept f fs s t) (hp : Fld.PWR_STATE_STATE ∈ fs) (p : Nat)
    (sp : Space) (n x : Nat) : t.lineAt p sp n x = s.lineAt p sp n x := by
  cases sp with
  | buf | ls => simp only [State.lineAt, State.sramLine, h.sram]
  | dram =>
    have hpower : t.power (domMem p) = s.power (domMem p) := h.rd (dk .PWR_STATE_STATE (domMem p)) hp
    have hword : t.dramWord (dramAddr p x) = s.dramWord (dramAddr p x) := by rw [State.dramWord, h.dram, State.dramWord]
    simp only [State.lineAt, hpower, hword]

end Sys2Proof.Machine
end

section
/-! PROOFS. Sends (R182, R223, R225): a descriptor's line leaves for its way-slot. -/

namespace Sys2Proof.Machine

/-! ## One pile's own state and registers -/

theorem sw_modSw (p : Nat) (g : SwSt → SwSt) (s : State) : (((modSw p g).run s).pile p).sw = g (s.pile p).sw := by
  rw [modSw, run_modPile, Upd.pile_pile_self]

theorem rd_modSw (p : Nat) (g : SwSt → SwSt) (s : State) (k : FKey) : ((modSw p g).run s).rd k = s.rd k := rfl

theorem rd_causeAt (p c : Nat) (s : State) (k : FKey) : ((causeAt p c).run s).rd k = s.rd k :=
  (spares_causeAt (fs := [k.f]) p c).rd_spared List.mem_cons_self s

theorem rd_hazard (p : Nat) (s : State) : ((hazard p).run s).rd (pk .XFER_HAZARD p) = s.counted (pk .XFER_HAZARD p) 1 := by
  rw [hazard, Act.run_seq, rd_causeAt, rd_bump_self]

theorem rd_indexFault (p : Nat) (s : State) : ((indexFault p).run s).rd (pk .SW_INDEX_ERR p) = s.counted (pk .SW_INDEX_ERR p) 1 := by
  rw [indexFault, Act.run_seq, rd_causeAt, rd_bump_self]

/-! ## What a send does -/

/-- A send of gondola `k` goes ahead: a phase runs in which its way-slot acts, the switch is up, it was not sampled before, and it waits
for no domain (R223, R502). -/
structure State.Sends (s : State) (p i k : Nat) (d : SwDesc) : Prop where
  desc   : s.swDesc p i = some d
  send   : d.receive = false
  count  : k < d.count
  phase  : s.inPhase p = true
  ready  : s.ready (domSw p) = true
  own    : s.on (pk .SW_STATUS_STAND_IN p) = false
  acts   : s.actingGroups p (d.firstSlot + k * d.slotStride) d.way ≠ []
  fresh  : (s.pile p).sw.done.contains (i * 65536 + k) = false
  list   : s.listWaits p d = false
  space  : s.mustWait p d.space (s.physOf p d.tile) = false

/-- A descriptor's gondola is taken, and an unmet condition is a hazard (R182). -/
def State.sampled (s : State) (p i k : Nat) (d : SwDesc) : State :=
  (Act.when (!s.condMet p d) (hazard p)).run ((modSw p (fun w => { w with done := w.done ++ [i * 65536 + k] })).run s)

/-- What leaves for the way-slot that a send names. -/
def leaves (s : State) (p k key : Nat) (d : SwDesc) : Act := match s.pick p d k with
  | .fault => (indexFault p).seq (putLoc p key (emptyGondola (s.origCheck p) false true))
  | .nothing => putLoc p key (emptyGondola (s.origCheck p) false (!s.condMet p d))
  | .line n => getLine p d.space (s.physOf p d.tile) n (sendLine p key d (s.condMet p d))

theorem run_actSendSample {s : State} {p i k : Nat} {d : SwDesc} (h : s.Sends p i k d) : (actSendSample p i k .none).run s =
    (leaves s p k (((s.pile p).gate.openSlot + (d.firstSlot + k * d.slotStride)) * 256 + d.way) d).run (s.sampled p i k d) := by
  have hgroups : (s.actingGroups p (d.firstSlot + k * d.slotStride) d.way).isEmpty = false := by simp [h.acts]
  have hgo : ¬ (d.receive || decide (d.count ≤ k) || !s.inPhase p || !s.ready (domSw p) || s.on (pk .SW_STATUS_STAND_IN p) ||
      (s.actingGroups p (d.firstSlot + k * d.slotStride) d.way).isEmpty || (s.pile p).sw.done.contains (i * 65536 + k)) = true := by
    rw [h.send, h.phase, h.ready, h.own, h.fresh, hgroups]
    simpa using h.count
  rw [actSendSample, Act.run_ask, h.desc]
  dsimp only
  rw [if_neg hgo, h.list, if_neg Bool.false_ne_true, h.space, if_neg Bool.false_ne_true, Act.run_all_next, Act.run_all_next,
    Act.run_all_last]
  rfl

/-- The fields that decide what a send makes of its line. -/
def originFlds : List Fld := [.PWR_STATE_STATE, .FLT_STATUS_BLOCK_CHECKING, .SW_CTL_CHECK_MODE]

section
variable {s t : State} {β : Type} {f : SwSt → β} {fs : List Fld} (h : SwitchKept f fs s t) (hfs : originFlds ⊆ fs)
include h hfs

theorem checking_congr (p : Nat) : t.checking p = s.checking p := h.on (hfs (by simp [originFlds, pk]))

theorem origCheck_congr (p : Nat) : t.origCheck p = s.origCheck p := by
  rw [State.origCheck, checking_congr h hfs, h.on (hfs (by simp [originFlds, pk])), State.origCheck]

end

/-- A descriptor's gondola is noted as taken, and nothing else changes but by the hazard. -/
theorem done_sampled (s : State) (p i k : Nat) (d : SwDesc) :
    ((s.sampled p i k d).pile p).sw.done = (s.pile p).sw.done ++ [i * 65536 + k] := by
  have hkept : ∀ u, SwitchKept SwSt.done [] u ((Act.when (!s.condMet p d) (hazard p)).run u) := fun u =>
    .of_keeps (Act.keeps_when (kept_hazard List.not_mem_nil))
  rw [State.sampled, (hkept _).sw p, sw_modSw]

theorem sampled_kept (s : State) (p i k : Nat) (d : SwDesc) {fs : List Fld} (hfs : Fld.XFER_HAZARD ∉ fs) :
    SwitchKept (fun _ => ()) fs s (s.sampled p i k d) :=
  Act.keeps_when (kept_hazard hfs) _ (.of_keeps (kept_modSw p fun _ => rfl))

theorem hazard_sampled {s : State} {p : Nat} {d : SwDesc} (h : s.condMet p d = false) (i k : Nat) :
    (s.sampled p i k d).rd (pk .XFER_HAZARD p) = s.counted (pk .XFER_HAZARD p) 1 := by
  rw [State.sampled, h, Bool.not_false, Act.run_when, if_pos rfl, rd_hazard]
  rfl

/-- Between two states a gondola has come to wait for its LOC way-slot. -/
structure PutLoc (s t : State) (p key : Nat) (g : Gondola) : Prop where
  found  : SMap.find? (t.pile p).sw.locIn key = some g
  done   : (t.pile p).sw.done = (s.pile p).sw.done
  dram   : t.dram = s.dram
  sram   : t.sram = s.sram
  hazard : t.rd (pk .XFER_HAZARD p) = s.rd (pk .XFER_HAZARD p)

theorem run_putLoc {s v : State} {fs : List Fld} (h : SwitchKept SwSt.done fs s v) (hfs : Fld.XFER_HAZARD ∈ fs) (p key : Nat) (g : Gondola) :
    PutLoc s ((putLoc p key g).run v) p key g := by
  refine ⟨?_, ?_, h.dram, h.sram, h.rd _ hfs⟩
  · rw [putLoc, sw_modSw]
    simp only [SMap.find?_set_self]
  · rw [putLoc, sw_modSw]
    exact h.sw p

/-- A line read for a send leaves as R223 and R225 have it. -/
theorem run_leaves_line (s : State) (p ls n key : Nat) (d : SwDesc) (met : Bool) :
    let l := s.lineAt p d.space ls n
    PutLoc s ((getLine p d.space ls n (sendLine p key d met)).run s) p key (gondolaOf
      { l with poison := l.poison || ((d.check || s.checking p) && !lineCheckOk l) || !met } (s.origCheck p)) := by
  have hfs : ∀ g ∈ readFlds, g ∉ Fld.XFER_HAZARD :: originFlds := by decide
  obtain ⟨v, hv, hkept⟩ := getLine_reads hfs SwSt.done p d.space ls n (sendLine p key d met) s
  have hchecked : ∀ c, SwitchKept SwSt.done (.XFER_HAZARD :: originFlds) s ((Act.when c (bump (pk .SW_CHECK_FAIL p))).run v) := fun c =>
    Act.keeps_when (kept_bump (show Fld.SW_CHECK_FAIL ∉ _ by decide) 1) v hkept
  rw [hv, sendLine, Act.run_ask, Act.run_seq, checking_congr hkept (List.subset_cons_self _ _),
    origCheck_congr hkept (List.subset_cons_self _ _)]
  exact run_putLoc (hchecked _) List.mem_cons_self p key _

/-- A send's gondola in its way-slot, whichever line its descriptor selects (R154, R182, R223, R225). -/
theorem leaves_puts (s u : State) (p k key : Nat) (d : SwDesc) (h : SwitchKept (fun _ => ()) (.SW_INDEX_ERR :: originFlds) s u) :
    let t := (leaves s p k key d).run u
    ∃ g, PutLoc u t p key g ∧
      (∀ n, s.pick p d k = .line n → let l := s.lineAt p d.space (s.physOf p d.tile) n
        g = gondolaOf { l with poison := l.poison || ((d.check || s.checking p) && !lineCheckOk l) || !s.condMet p d } (s.origCheck p)) ∧
      (s.pick p d k = .nothing → g = emptyGondola (s.origCheck p) false (!s.condMet p d)) ∧
      (s.pick p d k = .fault → g = emptyGondola (s.origCheck p) false true ∧
        t.rd (pk .SW_INDEX_ERR p) = s.counted (pk .SW_INDEX_ERR p) 1) := by
  have hfs : originFlds ⊆ .SW_INDEX_ERR :: originFlds := List.subset_cons_self _ _
  dsimp only
  cases hpick : s.pick p d k with
  | line n =>
    have hput := run_leaves_line u p (s.physOf p d.tile) n key d (s.condMet p d)
    dsimp only at hput
    rw [lineAt_congr h (by decide), checking_congr h hfs, origCheck_congr h hfs] at hput
    refine ⟨_, by rw [leaves, hpick]; exact hput, fun m hm => ?_, nofun, nofun⟩
    cases hm
    rfl
  | nothing =>
    exact ⟨_, by rw [leaves, hpick]; exact run_putLoc (fs := [.XFER_HAZARD]) (.refl u) List.mem_cons_self p key _, nofun, fun _ => rfl, nofun⟩
  | fault =>
    have hkept : SwitchKept SwSt.done [.XFER_HAZARD] u ((indexFault p).run u) := .of_keeps (kept_indexFault (by decide))
    rw [leaves, hpick]
    dsimp only
    rw [Act.run_seq]
    refine ⟨_, run_putLoc hkept List.mem_cons_self p key _, nofun, nofun, fun _ => ⟨rfl, ?_⟩⟩
    rw [putLoc, rd_modSw, rd_indexFault]
    exact State.counted_congr (h.rd _ List.mem_cons_self) 1

/-- What a send leaves (R154, R182, R223, R225). -/
theorem sends_leave (s : State) (p i k key : Nat) (d : SwDesc) : let t := (leaves s p k key d).run (s.sampled p i k d)
    (t.pile p).sw.done = (s.pile p).sw.done ++ [i * 65536 + k] ∧ t.dram = s.dram ∧ t.sram = s.sram ∧
      (∀ n, s.pick p d k = .line n → let l := s.lineAt p d.space (s.physOf p d.tile) n
        SMap.find? (t.pile p).sw.locIn key = some (gondolaOf
          { l with poison := l.poison || ((d.check || s.checking p) && !lineCheckOk l) || !s.condMet p d } (s.origCheck p))) ∧
      (s.pick p d k = .nothing → SMap.find? (t.pile p).sw.locIn key = some (emptyGondola (s.origCheck p) false (!s.condMet p d))) ∧
      (s.pick p d k = .fault → SMap.find? (t.pile p).sw.locIn key = some (emptyGondola (s.origCheck p) false true) ∧
        t.rd (pk .SW_INDEX_ERR p) = s.counted (pk .SW_INDEX_ERR p) 1) ∧
      (s.condMet p d = false → t.rd (pk .XFER_HAZARD p) = s.counted (pk .XFER_HAZARD p) 1) := by
  have hkept := sampled_kept s p i k d (fs := .SW_INDEX_ERR :: originFlds) (by decide)
  obtain ⟨g, hput, hline, hnothing, hfault⟩ := leaves_puts s (s.sampled p i k d) p k key d hkept
  refine ⟨hput.done.trans (done_sampled s p i k d), hput.dram.trans hkept.dram, hput.sram.trans hkept.sram, fun n hn => ?_, fun hn => ?_,
    fun hn => ?_, fun hmet => hput.hazard.trans (hazard_sampled hmet i k)⟩
  · rw [hput.found, hline n hn]
  · rw [hput.found, hnothing hn]
  · rw [hput.found, (hfault hn).1]
    exact ⟨rfl, (hfault hn).2⟩

end Sys2Proof.Machine
end

section
/-! PROOFS. Ingress way-slots (R214, R217, R219, R225): what is taken, verified and forwarded. -/

namespace Sys2Proof.Machine

/-! ## What has come in stays taken -/

/-- The gondolas that have come in: those read for LOC ingress and those that links delivered. -/
def SwSt.inbox (w : SwSt) : SMap Gondola × SMap Gondola := (w.locIn, w.linkIn)

/-- The fields that a gondola's leaving may write (R217, R232). -/
def egressFlds : List Fld := [.SW_FWD, .SW_DR_DROP, .SW_DR_LOG_VALID, .SW_DR_LOG_WAY, .SW_DR_LOG_PHASE, .SW_DR_LOG_SLOT]

section
variable {fs : List Fld} {r : State}

theorem inbox_sendOn (p slot way : Nat) (g : Gondola) : (sendOn p slot way g).Keeps (SwitchKept SwSt.inbox fs r) :=
  Act.keeps_seq (kept_send _) (Act.keeps_asked fun _ => Act.keeps_when (kept_modSw _ fun _ => rfl))

theorem inbox_egressOne (hfs : ∀ g ∈ egressFlds, g ∉ fs) (p slot t way : Nat) (g : Gondola) (e : SlotEntry) :
    (egressOne p slot t way g e).Keeps (SwitchKept SwSt.inbox fs r) := by
  have hset : ∀ {g : Fld} (v : Nat), g ∈ egressFlds → (setR (pk g p) v).Keeps (SwitchKept SwSt.inbox fs r) := fun v hg => kept_setR (hfs _ hg) v
  have hcount : ∀ {g : Fld}, g ∈ egressFlds → (bump (pk g p)).Keeps (SwitchKept SwSt.inbox fs r) := fun hg => kept_bump (hfs _ hg) 1
  exact Act.keeps_asked fun _ => Act.keeps_ite
    (Act.keeps_seq (hcount (by decide)) (Act.keeps_when (Act.keeps_list
      ⟨hset _ (by decide), hset _ (by decide), hset _ (by decide), hset _ (by decide)⟩)))
    (Act.keeps_when (Act.keeps_list ⟨hcount (by decide), Act.keeps_when (kept_modSw p fun _ => rfl),
      Act.keeps_ite (kept_modSw p fun _ => rfl) (inbox_sendOn p _ _ g)⟩))

end

/-! ## An ingress way-slot is taken -/

/-- A way-slot of an acting slot is taken where no gate entry names it: the switch is up, its port delivers, and the pile waits for no
RELEASE (R192, R217, R250). -/
structure State.TakesIn (s : State) (p slot way ph : Nat) : Prop where
  ready    : s.ready (domSw p) = true
  port     : way < 163
  slot     : s.phaseSlot p slot = some ph
  gates    : s.gateSlots p ph way = []
  await    : s.awaitsRelease p = false
  delivers : 44 ≤ way → s.portDelivers p (wayPort way) = true

/-- The way-slot's gondola is taken out. -/
def State.cleared (s : State) (p slot way : Nat) : State := (modSw p (fun w => { w with
  locIn := SMap.set w.locIn (slot * 256 + way) none, linkIn := SMap.set w.linkIn (slot * 256 + way) none })).run s

/-- The entries that act on a way-slot. -/
def State.actingEntries (s : State) (p ph way : Nat) : List SlotEntry :=
  (s.actingGroups p ph way).flatMap (fun grp => grp.filter SlotEntry.valid)

/-- What a way-slot's gondola meets: the acting groups, or none. -/
def meets (s : State) (p slot way ph : Nat) (got : Option Gondola) (bad : Bool) : Act := match s.actingGroups p ph way with
  | [] => Act.when got.isSome (bump (pk .SW_ORPHAN p))
  | grp :: _ => ingressGondola p ph way got bad (grp.any (fun e => !e.mcast && e.valid && e.dig)) (fun h =>
      Act.each (s.actingEntries p ph way) (egressOne p slot ph way h))

theorem wayPort_ne_of_lt {way : Nat} (h : way < 163) : wayPort way ≠ 8 := by
  simp only [wayPort]
  split_ifs <;> omega

theorem run_takeWay {s : State} {p slot way ph : Nat} (h : s.TakesIn p slot way ph) (g : Option Gondola) (bad : Bool)
    (gate : List SlotEntry → Option Gondola → Act) : (takeWay p slot way g bad gate).run s =
      (meets s p slot way ph (s.wayGondola p slot way g) bad).run (s.cleared p slot way) := by
  have hway : way ≠ 255 := by have := h.port; omega
  have hport : ¬ (!s.ready (domSw p) || (wayPort way == 8 && way != 255)) = true := by simp [h.ready, wayPort_ne_of_lt h.port]
  have hgot : (if way < 44 ∨ way = 255 ∨ s.portDelivers p (wayPort way) = true then s.wayGondola p slot way g else none) =
      s.wayGondola p slot way g := by
    refine if_pos ?_
    by_cases hlow : way < 44
    · exact .inl hlow
    · exact .inr (.inr (h.delivers (by omega)))
  rw [takeWay, Act.run_ask, if_neg hport, h.slot]
  dsimp only
  rw [hgot, h.gates, h.await]
  generalize s.wayGondola p slot way g = got
  simp only [Act.run_all_next, Act.run_all_last, List.isEmpty_nil, Bool.not_true, Bool.and_false, Bool.false_eq_true, if_false,
    Act.run_when, beq_eq_false_iff_ne.mpr hway, bne_iff_ne.mpr hway, Bool.and_true]
  rw [if_neg]
  · unfold meets
    rfl
  · split <;> simp

/-! ## A gondola is verified (R214, R219, R225) -/

/-- What the acting groups take: a gondola as it is verified, poisoned where its parity or its check fails. -/
def verified (g : Gondola) (bad : Bool) : Gondola :=
  { g with poison := g.poison || bad || (g.checkMode && !g.empty && !lineCheckOk (gondolaLine g)) }

/-- A gondola that did not come is counted, and on a retired port poisons the attempt (R219, R263). -/
def missing (retired : Bool) (p : Nat) : Act := (bump (pk .SW_MISSING p)).seq (Act.when retired (causeAt p cLink))

/-- A gondola enters its digest and its checks are counted. -/
def inspects (p t way : Nat) (g : Gondola) (bad dig : Bool) : Act := Act.all [
  Act.when dig (modSw p (fun w => { w with digRx := SMap.set w.digRx (t * 256 + way) (some g) })),
  Act.when bad (bump (pk .SW_PARITY_ERR p)),
  Act.when (g.checkMode && !g.empty && !lineCheckOk (gondolaLine g)) (bump (pk .SW_CHECK_FAIL p))]

theorem run_checkIngress (p : Nat) (g : Gondola) (bad : Bool) (k : Gondola → Act) (s : State) : (checkIngress p g bad k).run s =
    (k (verified g bad)).run ((Act.when (g.checkMode && !g.empty && !lineCheckOk (gondolaLine g)) (bump (pk .SW_CHECK_FAIL p))).run
      ((Act.when bad (bump (pk .SW_PARITY_ERR p))).run s)) := by
  rw [checkIngress, Act.run_all_next, Act.run_all_next, Act.run_all_last, verified]

theorem run_ingressGondola_some (p t way : Nat) (g : Gondola) (bad dig : Bool) (k : Gondola → Act) (s : State) :
    ∃ dig', (ingressGondola p t way (some g) bad dig k).run s = (k (verified g bad)).run ((inspects p t way g bad dig').run s) := by
  refine ⟨dig && way != 255 && s.swMode p == 2, ?_⟩
  rw [ingressGondola, Act.run_ask, Act.run_all_next, Act.run_all_next, Act.run_all_last, run_checkIngress, inspects, Act.run_all_next,
    Act.run_all_next, Act.run_all_last]
  rfl

/-- Where nothing came, a poisoned empty gondola is generated (R219). -/
theorem run_ingressGondola_none {s : State} {p way : Nat} (hway : way ≠ 255) (hown : s.on (pk .SW_STATUS_STAND_IN p) = false) (t : Nat)
    (bad dig : Bool) (k : Gondola → Act) :
    ∃ dig' retired, (ingressGondola p t way none bad dig k).run s = (k (emptyGondola (s.origCheck p) false true)).run
      ((inspects p t way (emptyGondola (s.origCheck p) false true) bad dig').run ((missing retired p).run s)) := by
  refine ⟨dig && way != 255 && s.swMode p == 2, s.portRetired p (wayPort way), ?_⟩
  have hpoison : verified (emptyGondola (s.origCheck p) false true) bad = emptyGondola (s.origCheck p) false true := by
    simp [verified, emptyGondola]
  rw [ingressGondola, Act.run_ask]
  simp only [hway, hown, Bool.and_false, Bool.false_eq_true, if_false]
  rw [Act.run_all_next, Act.run_all_next, Act.run_all_last, run_checkIngress, inspects, Act.run_all_next,
    Act.run_all_next, Act.run_all_last, hpoison]
  rfl

/-- The fields by which a gondola leaves: the counter of those forwarded, and what tells which ports are up. -/
def portFlds : List Fld := [.SW_FWD, .SW_STATUS_STAND_IN, .PWR_STATE_STATE, .LNK_STATUS_STATE, .BRG_STATUS_STATE]

/-- What taking and verifying a gondola leaves for what follows: nothing has gone out, and ports are as they were. -/
structure Received (s t : State) : Prop where
  out  : t.out = s.out
  kept : SwitchKept (fun _ => ()) portFlds s t

theorem Received.trans {s t u : State} (h : Received s t) (k : Received t u) : Received s u :=
  ⟨k.out.trans h.out, h.kept.trans k.kept⟩

theorem out_of_count {a : Act} (h : a.Only Upd.ofCount) (s : State) : (a.run s).out = s.out := by
  refine h.same (read := State.out) (fun u t hu => ?_) s
  cases u with
  | reg _ _ | pile _ _ | draw _ => rfl
  | _ => exact absurd hu id

theorem kept_inspects {fs : List Fld} (hpar : Fld.SW_PARITY_ERR ∉ fs) (hchk : Fld.SW_CHECK_FAIL ∉ fs) {r : State} (p t way : Nat)
    (g : Gondola) (bad dig : Bool) : (inspects p t way g bad dig).Keeps (SwitchKept (fun _ => ()) fs r) :=
  Act.keeps_list ⟨Act.keeps_when (kept_modSw p fun _ => rfl), Act.keeps_when (kept_bump hpar 1), Act.keeps_when (kept_bump hchk 1)⟩

theorem count_inspects (p t way : Nat) (g : Gondola) (bad dig : Bool) : (inspects p t way g bad dig).Only Upd.ofCount :=
  Act.only_list ⟨Act.only_when fun _ => count_modPile p _, Act.only_when fun _ => count_bump _ 1, Act.only_when fun _ => count_bump _ 1⟩

theorem received_inspects (p t way : Nat) (g : Gondola) (bad dig : Bool) (s : State) : Received s ((inspects p t way g bad dig).run s) :=
  ⟨out_of_count (count_inspects p t way g bad dig) s, .of_keeps (kept_inspects (by decide) (by decide) p t way g bad dig)⟩

theorem received_missing (retired : Bool) (p : Nat) (s : State) : Received s ((missing retired p).run s) :=
  ⟨out_of_count (Act.only_seq (count_bump _ 1) (Act.only_when fun _ => count_causeAt p _)) s,
    .of_keeps (Act.keeps_seq (kept_bump (show Fld.SW_MISSING ∉ portFlds by decide) 1) (Act.keeps_when (kept_causeAt p _)))⟩

theorem rd_missing (retired : Bool) (p : Nat) (s : State) :
    ((missing retired p).run s).rd (pk .SW_MISSING p) = s.counted (pk .SW_MISSING p) 1 := by
  rw [missing, Act.run_seq, Act.run_when]
  split
  · rw [rd_causeAt, rd_bump_self]
  · rw [rd_bump_self]

theorem missing_inspects (p t way : Nat) (g : Gondola) (bad dig : Bool) (s : State) :
    ((inspects p t way g bad dig).run s).rd (pk .SW_MISSING p) = s.rd (pk .SW_MISSING p) :=
  (SwitchKept.of_keeps (kept_inspects (fs := [.SW_MISSING]) (by decide) (by decide) p t way g bad dig)).rd _ List.mem_cons_self

theorem portUp_congr {β : Type} {f : SwSt → β} {fs : List Fld} {s t : State} (h : SwitchKept f fs s t)
    (hpwr : Fld.PWR_STATE_STATE ∈ fs) (hlnk : Fld.LNK_STATUS_STATE ∈ fs) (hbrg : Fld.BRG_STATUS_STATE ∈ fs) (p q : Nat) :
    t.portUp p q = s.portUp p q := by
  have hp : ∀ d, t.power d = s.power d := fun d => h.rd (dk .PWR_STATE_STATE d) hpwr
  have hl : ∀ k, t.rd (pk .LNK_STATUS_STATE p k) = s.rd (pk .LNK_STATUS_STATE p k) := fun _ => h.rd _ hlnk
  have hb : ∀ d, t.rd (pk .BRG_STATUS_STATE p d) = s.rd (pk .BRG_STATUS_STATE p d) := fun _ => h.rd _ hbrg
  simp only [State.portUp, hp, hl, hb]

/-! ## A gondola leaves (R212, R217, R254) -/

/-- A gondola goes on by an egress way: it is counted and enters its digest. -/
def goesOut (p t : Nat) (g : Gondola) (e : SlotEntry) (dig : Bool) : Act := (bump (pk .SW_FWD p)).seq
  (Act.when dig (modSw p (fun w => { w with digTx := SMap.set w.digTx ((t + 2) * 256 + e.egress) (some g) })))

/-- Where it goes: to the local port, or out on a port's way. -/
def goesTo (p slot inWay : Nat) (g : Gondola) (e : SlotEntry) : Act :=
  if e.egress < 44 then modSw p (fun w => { w with locOut := SMap.set w.locOut ((slot + 2) * 256 + e.egress) (some ⟨g, inWay, e.drop⟩) })
  else sendOn p (slot + 2) e.egress g

theorem run_egressOne {s : State} {p : Nat} {e : SlotEntry} (hown : s.on (pk .SW_STATUS_STAND_IN p) = false)
    (hup : e.egress < 44 ∨ s.portUp p (wayPort e.egress) = true) (slot t inWay : Nat) (g : Gondola) :
    ∃ dig, (egressOne p slot t inWay g e).run s = (goesTo p slot inWay g e).run ((goesOut p t g e dig).run s) := by
  refine ⟨e.dig && s.swMode p == 2, ?_⟩
  have hgo : (decide (e.egress < 44) || s.portUp p (wayPort e.egress)) = true := by simpa using hup
  rw [egressOne, Act.run_ask, hown, Bool.and_false, if_neg Bool.false_ne_true, hgo, Act.run_when, if_pos rfl, Act.run_all_next,
    Act.run_all_next, Act.run_all_last, goesTo, goesOut, Act.run_seq]

/-- A port that is down sends nothing (R257). -/
theorem run_egressOne_down {s : State} {p : Nat} {e : SlotEntry} (hway : 44 ≤ e.egress) (hdown : s.portUp p (wayPort e.egress) = false)
    (slot t inWay : Nat) (g : Gondola) : (egressOne p slot t inWay g e).run s = s := by
  have hlow : decide (e.egress < 44) = false := decide_eq_false (not_lt.mpr hway)
  rw [egressOne, Act.run_ask, hlow, hdown]
  rfl

/-- What leaves on a link: it has gone out, and on a bridge it is under way to the far end (R212, R254). -/
theorem sendOn_leaves (p slot way : Nat) (g : Gondola) (s : State) : let t := (sendOn p slot way g).run s
    t.out = s.out ++ [.gondola p slot way g] ∧ ∀ far, 4 ≤ wayPort way → far = farBridge p (wayPort way - 4) →
      s.portUp far.1 (4 + far.2) = true →
      SMap.find? (t.pile far.1).sw.wires ((slot + 3) * 256 + portFirst (4 + far.2) + (way - portFirst (wayPort way))) = some g := by
  have hsent : (sendOn p slot way g).run s = (wireOn p slot way g).run ((send (.gondola p slot way g)).run s) := Act.run_seq _ _ _
  have hsame : (wireOn p slot way g).Only Upd.ofCount := fun _ => Act.only_when fun _ => count_modPile _ _
  refine ⟨?_, fun far hport hfar hup => ?_⟩
  · rw [hsent, out_of_count hsame]
    rfl
  · have hgo : (decide (4 ≤ wayPort way) && ((send (.gondola p slot way g)).run s).portUp far.1 (4 + far.2)) = true := by
      rw [decide_eq_true hport]
      exact hup
    rw [hfar] at hgo ⊢
    rw [hsent, wireOn, Act.run_ask, hgo, Act.run_when, if_pos rfl, sw_modSw]
    simp only [SMap.find?_set_self]

/-- An acting entry forwards a gondola (R212, R217, R254, R257). -/
structure Forwards (s t : State) (p slot way : Nat) (g : Gondola) (e : SlotEntry) : Prop where
  count : e.egress < 44 ∨ s.portUp p (wayPort e.egress) = true → t.rd (pk .SW_FWD p) = s.counted (pk .SW_FWD p) 1
  sent  : 44 ≤ e.egress → s.portUp p (wayPort e.egress) = true → t.out = s.out ++ [.gondola p (slot + 2) e.egress g]
  down  : 44 ≤ e.egress → s.portUp p (wayPort e.egress) = false → t.out = s.out
  wire  : ∀ far, 4 ≤ wayPort e.egress → wayPort e.egress ≤ 7 → s.portUp p (wayPort e.egress) = true →
    far = farBridge p (wayPort e.egress - 4) → s.portUp far.1 (4 + far.2) = true →
    SMap.find? (t.pile far.1).sw.wires ((slot + 5) * 256 + portFirst (4 + far.2) + (e.egress - portFirst (wayPort e.egress))) = some g
  loc   : e.egress < 44 → SMap.find? (t.pile p).sw.locOut ((slot + 2) * 256 + e.egress) = some ⟨g, way, e.drop⟩

theorem goesOut_counts (p t : Nat) (g : Gondola) (e : SlotEntry) (dig : Bool) (s : State) :
    let u := (goesOut p t g e dig).run s
    u.out = s.out ∧ u.rd (pk .SW_FWD p) = s.counted (pk .SW_FWD p) 1 ∧ ∀ q n, u.portUp q n = s.portUp q n := by
  have hkept : ∀ v, SwitchKept SwSt.inbox [.SW_FWD] v ((Act.when dig (modSw p (fun w => { w with
      digTx := SMap.set w.digTx ((t + 2) * 256 + e.egress) (some g) }))).run v) := fun v =>
    .of_keeps (Act.keeps_when (kept_modSw p fun _ => rfl))
  have hports : (goesOut p t g e dig).Keeps (SwitchKept SwSt.inbox [.PWR_STATE_STATE, .LNK_STATUS_STATE, .BRG_STATUS_STATE] s) :=
    Act.keeps_seq (kept_bump (show Fld.SW_FWD ∉ _ by decide) 1) (Act.keeps_when (kept_modSw p fun _ => rfl))
  refine ⟨out_of_count (Act.only_seq (count_bump _ 1) (Act.only_when fun _ => count_modPile p _)) s, ?_,
    portUp_congr (.of_keeps hports) (by decide) (by decide) (by decide)⟩
  rw [goesOut, Act.run_seq, (hkept _).rd _ List.mem_cons_self, rd_bump_self]

theorem rd_goesTo (p slot inWay : Nat) (g : Gondola) (e : SlotEntry) (s : State) (k : FKey) :
    ((goesTo p slot inWay g e).run s).rd k = s.rd k := by
  have hkept : (goesTo p slot inWay g e).Keeps (SwitchKept SwSt.inbox [k.f] s) :=
    Act.keeps_ite (kept_modSw p fun _ => rfl) (inbox_sendOn p (slot + 2) e.egress g)
  exact (SwitchKept.of_keeps hkept).rd k List.mem_cons_self

theorem le_of_four_le_wayPort {way : Nat} (h : 4 ≤ wayPort way) : 44 ≤ way := by
  by_contra hlow
  simp [wayPort, not_le.mp hlow] at h

theorem egressOne_forwards {s : State} {p : Nat} (hown : s.on (pk .SW_STATUS_STAND_IN p) = false) (slot t way : Nat) (g : Gondola)
    (e : SlotEntry) : Forwards s ((egressOne p slot t way g e).run s) p slot way g e := by
  by_cases hup : e.egress < 44 ∨ s.portUp p (wayPort e.egress) = true
  · obtain ⟨dig, hrun⟩ := run_egressOne hown hup slot t way g
    obtain ⟨hout, hcount, hports⟩ := goesOut_counts p t g e dig s
    rw [hrun]
    have hlink : 44 ≤ e.egress → goesTo p slot way g e = sendOn p (slot + 2) e.egress g := fun h => if_neg (not_lt.mpr h)
    obtain ⟨hsent, hwire⟩ := sendOn_leaves p (slot + 2) e.egress g ((goesOut p t g e dig).run s)
    refine ⟨fun _ => ?_, fun hway _ => ?_, fun hway hdown => ?_, fun far hport _ _ hfar hfarUp => ?_, fun hlow => ?_⟩
    · rw [rd_goesTo, hcount]
    · rw [hlink hway, hsent, hout]
    · exact absurd hup (by simp [hdown, hway])
    · rw [hlink (le_of_four_le_wayPort hport)]
      exact hwire far hport hfar ((hports _ _).trans hfarUp)
    · rw [goesTo, if_pos hlow, sw_modSw]
      simp only [SMap.find?_set_self]
  · obtain ⟨hhigh, hdown⟩ := not_or.mp hup
    rw [run_egressOne_down (not_lt.mp hhigh) (by simpa using hdown)]
    exact ⟨fun h => absurd h hup, fun _ h => absurd h hdown, fun _ _ => rfl, fun _ _ _ h => absurd h hdown, fun h => absurd h hhigh⟩

/-! ## The row -/

theorem inbox_ingressGondola {r : State} {k : Gondola → Act} (hk : ∀ h, (k h).Keeps (SwitchKept SwSt.inbox [] r)) (p t way : Nat)
    (got : Option Gondola) (bad dig : Bool) : (ingressGondola p t way got bad dig k).Keeps (SwitchKept SwSt.inbox [] r) := by
  have hcount : ∀ q, (bump q).Keeps (SwitchKept SwSt.inbox [] r) := fun _ => kept_bump List.not_mem_nil 1
  refine Act.keeps_asked fun s => Act.keeps_list ⟨?_, Act.keeps_when (kept_modSw p fun _ => rfl),
    Act.keeps_list ⟨Act.keeps_when (hcount _), Act.keeps_when (hcount _), hk _⟩⟩
  cases got with
  | some g => exact Act.keeps_done _
  | none =>
    dsimp only
    split_ifs
    · exact Act.keeps_done _
    · exact hcount _
    · exact Act.keeps_seq (hcount _) (Act.keeps_when (kept_causeAt p _))

theorem inbox_meets {r : State} (s : State) (p slot way ph : Nat) (got : Option Gondola) (bad : Bool) :
    (meets s p slot way ph got bad).Keeps (SwitchKept SwSt.inbox [] r) := by
  unfold meets
  split
  · exact Act.keeps_when (kept_bump List.not_mem_nil 1)
  · exact inbox_ingressGondola (fun h => Act.keeps_each fun e _ => inbox_egressOne (fun _ _ => List.not_mem_nil) p slot ph way h e) _ _ _ _ _ _

/-- Whatever is done with a way-slot's gondola, it has been taken out. -/
theorem meets_empties (s : State) (p slot way ph : Nat) (got : Option Gondola) (bad : Bool) :
    let t := (meets s p slot way ph got bad).run (s.cleared p slot way)
    SMap.find? (t.pile p).sw.locIn (slot * 256 + way) = none ∧ SMap.find? (t.pile p).sw.linkIn (slot * 256 + way) = none := by
  have hkept := (SwitchKept.of_keeps (inbox_meets (r := s.cleared p slot way) s p slot way ph got bad)).sw p
  have hclear : ((s.cleared p slot way).pile p).sw.inbox = (SMap.set (s.pile p).sw.locIn (slot * 256 + way) none,
      SMap.set (s.pile p).sw.linkIn (slot * 256 + way) none) := by rw [State.cleared, sw_modSw, SwSt.inbox]
  obtain ⟨hloc, hlink⟩ := Prod.mk.inj (hkept.trans hclear)
  dsimp only
  rw [hloc, hlink]
  exact ⟨SMap.find?_set_self _ _ _, SMap.find?_set_self _ _ _⟩

theorem received_cleared (s : State) (p slot way : Nat) : Received s (s.cleared p slot way) := ⟨rfl, .of_keeps (kept_modSw p fun _ => rfl)⟩

/-- One entry acts on a way-slot: its group is there, and what the group takes goes to that entry alone. -/
theorem meets_one {s : State} {p ph way : Nat} {e : SlotEntry} (h : s.actingEntries p ph way = [e]) (slot : Nat) (got : Option Gondola)
    (bad : Bool) : ∃ dig, meets s p slot way ph got bad =
      ingressGondola p ph way got bad dig (fun g => Act.each [e] (egressOne p slot ph way g)) := by
  cases hgrp : s.actingGroups p ph way with
  | nil =>
    rw [State.actingEntries, hgrp] at h
    cases h
  | cons grp rest => exact ⟨grp.any (fun e => !e.mcast && e.valid && e.dig), by rw [meets, hgrp, h]⟩

theorem run_each_one {α : Type} (x : α) (f : α → Act) (s : State) : (Act.each [x] f).run s = (f x).run s := by
  rw [Act.run_each_cons, Act.run_each_nil]

theorem Forwards.of_received {s u t : State} (h : Received s u) {p slot way : Nat} {g : Gondola} {e : SlotEntry}
    (k : Forwards u t p slot way g e) : Forwards s t p slot way g e := by
  have hports : ∀ q n, s.portUp q n = u.portUp q n := fun q n =>
    (portUp_congr h.kept (by decide) (by decide) (by decide) q n).symm
  have hfwd : s.counted (pk .SW_FWD p) 1 = u.counted (pk .SW_FWD p) 1 :=
    (State.counted_congr (h.kept.rd _ (show Fld.SW_FWD ∈ portFlds by decide)) 1).symm
  have hout : s.out = u.out := h.out.symm
  refine ⟨?_, ?_, ?_, ?_, k.loc⟩
  · rw [hports, hfwd]; exact k.count
  · rw [hports, hout]; exact k.sent
  · rw [hports, hout]; exact k.down
  · simp only [hports]; exact k.wire

theorem Received.own {s u : State} (h : Received s u) {p : Nat} (hown : s.on (pk .SW_STATUS_STAND_IN p) = false) :
    u.on (pk .SW_STATUS_STAND_IN p) = false :=
  (h.kept.on (show Fld.SW_STATUS_STAND_IN ∈ portFlds by decide)).trans hown

section
variable {s : State} {p ph way : Nat} {e : SlotEntry} (hent : s.actingEntries p ph way = [e])
  (hown : s.on (pk .SW_STATUS_STAND_IN p) = false)
include hent hown

/-- A gondola that came is forwarded as it is verified. -/
theorem meets_forwards (slot : Nat) (g : Gondola) (bad : Bool) :
    Forwards s ((meets s p slot way ph (some g) bad).run (s.cleared p slot way)) p slot way (verified g bad) e := by
  obtain ⟨dig, hmeets⟩ := meets_one hent slot (some g) bad
  obtain ⟨dig', hrun⟩ := run_ingressGondola_some p ph way g bad dig (fun g => Act.each [e] (egressOne p slot ph way g)) (s.cleared p slot way)
  have hrec : Received s ((inspects p ph way g bad dig').run (s.cleared p slot way)) :=
    (received_cleared s p slot way).trans (received_inspects p ph way g bad dig' _)
  rw [hmeets, hrun, run_each_one]
  exact .of_received hrec (egressOne_forwards (hrec.own hown) slot ph way _ e)

/-- One that did not come is counted, and a poisoned one forwarded in its place (R219). -/
theorem meets_generates (hway : way ≠ 255) (slot : Nat) (bad : Bool) :
    let t := (meets s p slot way ph none bad).run (s.cleared p slot way)
    t.rd (pk .SW_MISSING p) = s.counted (pk .SW_MISSING p) 1 ∧ Forwards s t p slot way (emptyGondola (s.origCheck p) false true) e := by
  obtain ⟨dig, hmeets⟩ := meets_one hent slot none bad
  obtain ⟨dig', retired, hrun⟩ := run_ingressGondola_none hway (s := s.cleared p slot way) hown ph bad dig
    (fun g => Act.each [e] (egressOne p slot ph way g))
  have hrec : Received s ((inspects p ph way (emptyGondola (s.origCheck p) false true) bad dig').run
      ((missing retired p).run (s.cleared p slot way))) :=
    ((received_cleared s p slot way).trans (received_missing retired p _)).trans (received_inspects _ _ _ _ _ _ _)
  dsimp only
  rw [hmeets, hrun, run_each_one]
  refine ⟨?_, .of_received hrec (egressOne_forwards (hrec.own hown) slot ph way _ e)⟩
  rw [(SwitchKept.of_keeps (inbox_egressOne (fs := [.SW_MISSING]) (by decide) _ _ _ _ _ _)).rd _ List.mem_cons_self, missing_inspects,
    rd_missing]
  rfl

end

/-- A gondola that no entry takes is counted, and nothing goes out (R217). -/
theorem meets_orphan {s : State} {p ph way : Nat} (hgrp : s.actingGroups p ph way = []) (slot : Nat) (got : Option Gondola) (bad : Bool) :
    let t := (meets s p slot way ph got bad).run (s.cleared p slot way)
    t.out = s.out ∧ (got.isSome = true → t.rd (pk .SW_ORPHAN p) = s.counted (pk .SW_ORPHAN p) 1) := by
  have hmeets : meets s p slot way ph got bad = Act.when got.isSome (bump (pk .SW_ORPHAN p)) := by rw [meets, hgrp]
  dsimp only
  rw [hmeets]
  refine ⟨out_of_count (Act.only_when fun _ => count_bump _ 1) _, fun hgot => ?_⟩
  rw [hgot, Act.run_when, if_pos rfl, rd_bump_self]
  rfl

end Sys2Proof.Machine
end

section
/-! PROOFS. Receives (R182, R224, R228): a line that arrives is written where its descriptor says, and nothing else is. -/

namespace Sys2Proof.Machine

/-! ## A line is written -/

/-- A place of the block's memory: a line of a pile's DRAM, of its buffer or of one of its local stores (R12). -/
structure Placed (p : Nat) (sp : Space) (n x : Nat) : Prop where
  pile : p < 16
  tile : n < 9
  line : x < Space.lines sp

theorem Placed.bufAddr_lt {p n x : Nat} (h : Placed p .buf n x) : bufAddr p x < sramLines := by
  have hp := h.pile
  have hx : x < 131072 := h.line
  simp only [bufAddr, sramLines]
  omega

theorem Placed.lsAddr_lt {p n x : Nat} (h : Placed p .ls n x) : lsAddr p n x < sramLines := by
  have hp := h.pile
  have hn := h.tile
  have hx : x < 32768 := h.line
  simp only [lsAddr, sramLines]
  omega

theorem Placed.dramAddr_lt {p n x : Nat} (h : Placed p .dram n x) : dramAddr p x < 16 * 536870912 := by
  have hp := h.pile
  have hx : x < 536870912 := h.line
  simp only [dramAddr]
  omega

/-- A line stands at its place, and no other line has changed. -/
def Written (s t : State) (p : Nat) (sp : Space) (n x : Nat) (l : Line) : Prop :=
  t.Holds p sp n x l ∧ StoreKept s t (isHome p sp n x)

/-- Writing depends on memory alone. -/
theorem Written.of_kept {β : Type} {f : SwSt → β} {fs : List Fld} {s s' t t' : State} {p n x : Nat} {sp : Space} {l : Line}
    (hs : SwitchKept f fs s s') (h : Written s' t p sp n x l) (ht : SwitchKept f fs t t') : Written s t' p sp n x l := by
  have hbefore : s'.dramWord = s.dramWord ∧ s'.sramLine = s.sramLine := by
    simp only [State.dramWord, State.sramLine, funext_iff, hs.dram, hs.sram, implies_true, and_self]
  have hafter : t'.dramWord = t.dramWord ∧ t'.sramLine = t.sramLine := by
    simp only [State.dramWord, State.sramLine, funext_iff, ht.dram, ht.sram, implies_true, and_self]
  obtain ⟨hheld, hdram, hsram⟩ := h
  refine ⟨?_, fun a ha => ?_, fun a ha => ?_⟩
  · cases sp <;> simpa only [State.Holds, hafter] using hheld
  · rw [hafter.1, hdram a ha, hbefore.1]
  · rw [hafter.2, hsram a ha, hbefore.2]

theorem written_sram {p n x : Nat} {sp : Space} {l : Line} {a : Nat} (ha : a < sramLines) (s : State)
    (hhome : ∀ b, isHome p sp n x false b ↔ b = a) (hheld : ∀ t : State, t.sramLine a = l → t.Holds p sp n x l) :
    Written s ((emit (.sram a l)).run s) p sp n x l :=
  ⟨hheld _ (Upd.sramLine_sram_self a l s ha), fun b _ => Upd.dramWord_sram a l s b,
    fun b hb => Upd.sramLine_sram_of_ne l s (fun he => hb ((hhome b).mpr he))⟩

theorem written_dram {p n x : Nat} (h : Placed p .dram n x) (l : Line) (s : State) :
    Written s ((emit (.dram (dramAddr p x) (encodeWord l))).run s) p .dram n x l :=
  ⟨Upd.dramWord_dram_self _ _ s h.dramAddr_lt, fun _ hb => Upd.dramWord_dram_of_ne _ s hb, fun b _ => Upd.sramLine_dram _ _ s b⟩

section
variable {β : Type} {f : SwSt → β} {fs : List Fld} {r : State}

theorem kept_poisonWatch (p : Nat) (sp : Space) (n x : Nat) (l : Line) : (poisonWatch p sp n x l).Keeps (SwitchKept f fs r) :=
  Act.keeps_asked fun _ => Act.keeps_when (kept_causeNow p _)

end

/-- The write of a line itself (R356, R503). -/
def writesLine (p : Nat) (sp : Space) (n x : Nat) (l : Line) : Act := match sp with
  | .dram => .ask fun s => if s.power (domMem p) = 2 then .done else dramWrite p x l
  | .buf => emit (.sram (bufAddr p x) l)
  | .ls => emit (.sram (lsAddr p n x) l)

theorem run_putLine (p : Nat) (sp : Space) (n x : Nat) (l : Line) (s : State) :
    (putLine p sp n x l).run s = (poisonWatch p sp n x l).run ((writesLine p sp n x l).run s) := by
  cases sp <;> exact Act.run_seq _ _ _

/-- A line is written where it is said to be (R356, R360): its memory takes the write as it stands. -/
theorem putLine_writes {p : Nat} {sp : Space} {n x : Nat} (h : Placed p sp n x) {s : State} (hplain : s.memPlain p) (l : Line) :
    Written s ((putLine p sp n x l).run s) p sp n x l := by
  have hwatch : ∀ u, SwitchKept SwSt.done [] u ((poisonWatch p sp n x l).run u) := fun u => .of_keeps (kept_poisonWatch p sp n x l)
  rw [run_putLine]
  refine .of_kept (.refl s) ?_ (hwatch _)
  cases sp with
  | buf => exact written_sram h.bufAddr_lt s (fun _ => Iff.rfl) (fun _ ht => ht)
  | ls => exact written_sram h.lsAddr_lt s (fun _ => Iff.rfl) (fun _ ht => ht)
  | dram =>
    obtain ⟨hpower, harmed⟩ := hplain
    have hcount : SwitchKept SwSt.done [.MEM_INJECT_ARMED] s ((Act.when l.poison (bump (pk .MEM_POISON_WRITE p))).run s) :=
      .of_keeps (Act.keeps_when (kept_bump (show Fld.MEM_POISON_WRITE ∉ _ by decide) 1))
    have harmed' := (hcount.on (k := pk .MEM_INJECT_ARMED p) List.mem_cons_self).trans harmed
    rw [writesLine, Act.run_ask, if_neg hpower, dramWrite, Act.run_seq, storeWord, Act.run_ask,
      if_neg fun hc => absurd (harmed'.symm.trans hc.1) Bool.false_ne_true]
    exact .of_kept hcount (written_dram h l _) (.refl _)

theorem done_putLine (p : Nat) (sp : Space) (n x : Nat) (l : Line) (s : State) :
    (((putLine p sp n x l).run s).pile p).sw.done = (s.pile p).sw.done := by
  have hwatch : ∀ u, SwitchKept SwSt.done [] u ((poisonWatch p sp n x l).run u) := fun u => .of_keeps (kept_poisonWatch p sp n x l)
  have hsame : ∀ a : Act, a.Only Upd.NoPile → ((a.run s).pile p).sw.done = (s.pile p).sw.done := fun a ha =>
    ha.same (read := fun t => (t.pile p).sw.done) (fun u t hu => by rw [hu.pile_apply]) s
  have hdram : (dramWrite p x l).Only Upd.NoPile := Act.only_seq (Act.only_when fun _ => noPile_bump _ 1)
    fun _ => Act.only_ite (Act.only_seq (noPile_setR _ 0) ⟨trivial, trivial⟩) ⟨trivial, trivial⟩
  rw [run_putLine, (hwatch _).sw p]
  refine hsame _ ?_
  cases sp with
  | buf | ls => exact ⟨trivial, trivial⟩
  | dram => exact fun _ => Act.only_ite trivial hdram

/-! ## What the RUE does with a line -/

/-- A use that adds nothing to an accumulator. -/
def NotesOnly (use : RecvUse) : Prop := ∀ b c k, use ≠ .contribution b c k

theorem useOf_notes (s : State) (p i : Nat) (d : SwDesc) (n k : Nat) : NotesOnly (s.useOf p i d n k .plain) := by
  intro b c j
  simp only [State.useOf]
  split
  · nofun
  · split
    · nofun
    · split_ifs <;> nofun
    · nofun

theorem accWaits_of_notes {use : RecvUse} (h : NotesOnly use) (s : State) (p : Nat) : s.accWaits p use = none := by
  cases use with
  | contribution b c k => exact absurd rfl (h b c k)
  | _ => rfl

section
variable {β : Type} {f : SwSt → β} {r : State}

theorem kept_gatherLine (p decl k count : Nat) (l : Line) : (gatherLine p decl k count l).Keeps (SwitchKept f [] r) := by
  have hset : ∀ q v, (setR q v).Keeps (SwitchKept f [] r) := fun _ v => kept_setR List.not_mem_nil v
  have hcount : ∀ q, (bump q).Keeps (SwitchKept f [] r) := fun _ => kept_bump List.not_mem_nil 1
  have hfails : ∀ shard copy transit, (gatherFails p shard copy transit).Keeps (SwitchKept f [] r) := fun _ _ _ =>
    Act.keeps_asked fun _ => Act.keeps_list ⟨hcount _, hset _ _, hset _ _, kept_setB List.not_mem_nil _, hset _ _, hset _ _, kept_causeAt p _⟩
  have htrailer : ∀ shard copy digest, (gatherTrailer p shard copy digest l).Keeps (SwitchKept f [] r) := fun _ _ _ =>
    Act.keeps_asked fun _ => Act.keeps_list ⟨hcount _, Act.keeps_when (kept_causeAt p _), kept_modRue p _, Act.keeps_when (hfails _ _ _)⟩
  refine Act.keeps_asked fun s => ?_
  split
  · exact Act.keeps_done _
  · split
    · exact Act.keeps_done _
    · exact Act.keeps_ite (kept_modRue p _) (Act.keeps_seq (kept_modRue p _) (htrailer _ _ _))

/-- What the RUE notes of a line that has arrived touches neither memory nor the switch. -/
theorem kept_useLine {use : RecvUse} (h : NotesOnly use) (p src count : Nat) (l : Line) : (useLine p src count use l).Keeps (SwitchKept f [] r) := by
  have hpoison : (Act.when l.poison (causeNow p cPoison)).Keeps (SwitchKept f [] r) := Act.keeps_when (kept_causeNow p _)
  have hnote : ∀ g, ((Act.when l.poison (causeNow p cPoison)).seq (modRue p g)).Keeps (SwitchKept f [] r) := fun g =>
    Act.keeps_seq hpoison (kept_modRue p g)
  cases use with
  | plain => exact Act.keeps_done _
  | contribution b c k => exact absurd rfl (h b c k)
  | verdictRecord k | recordRound k | recordResult k => exact hnote _
  | fusedResult k => exact Act.keeps_list ⟨hpoison, kept_modRue p _,
      Act.keeps_when (Act.keeps_seq (kept_setR List.not_mem_nil _) (kept_setR List.not_mem_nil _))⟩
  | gather decl k => exact fun s => Act.keeps_seq (Act.keeps_when (kept_bump List.not_mem_nil 1)) (kept_gatherLine p decl k count _) s

end

/-! ## The row -/

/-- A receive of gondola `k` goes ahead: it has come to its way-slot, in a phase, with the switch up, and was not received before; and it
waits for no domain (R224, R502). -/
structure State.Receives (s : State) (p i k : Nat) (d : SwDesc) (o : LocOut) : Prop where
  desc  : s.swDesc p i = some d
  recv  : d.receive = true
  count : k < d.count
  phase : s.inPhase p = true
  ready : s.ready (domSw p) = true
  own   : s.on (pk .SW_STATUS_STAND_IN p) = false
  fresh : (s.pile p).sw.done.contains (i * 65536 + k) = false
  come  : SMap.find? (s.pile p).sw.locOut (((s.pile p).gate.openSlot + d.firstSlot + k * d.slotStride) * 256 + d.way) = some o
  list  : s.listWaits p d = false
  space : s.mustWait p d.space (s.physOf p d.tile) = false

/-- The descriptor's gondola has left its way-slot, noted as received; one of a reset destination is counted. -/
def State.collected (s : State) (p i k : Nat) (d : SwDesc) (o : LocOut) : State :=
  (Act.when (o.g.empty && o.g.destReset) (bump (pk .SW_DR_RX p))).run ((modSw p (fun w => { w with
    locOut := SMap.set w.locOut (((s.pile p).gate.openSlot + d.firstSlot + k * d.slotStride) * 256 + d.way) none
    done := w.done ++ [i * 65536 + k] })).run s)

/-- What becomes of the line that came. -/
def stores (s : State) (p k : Nat) (d : SwDesc) (o : LocOut) (use : RecvUse) : Act := match s.pick p d k, arriving d k o with
  | .fault, _ => indexFault p
  | .line n, some l => receiveLine p d n o use l
  | _, _ => .done

theorem run_actSwitchReceive {s : State} {p i k : Nat} {d : SwDesc} {o : LocOut} (h : s.Receives p i k d o) :
    ∃ use, NotesOnly use ∧ (actSwitchReceive p i k .plain).run s = (stores s p k d o use).run (s.collected p i k d o) := by
  have hgo : ¬ (!d.receive || decide (d.count ≤ k) || !s.inPhase p || !s.ready (domSw p) || s.on (pk .SW_STATUS_STAND_IN p) ||
      (s.pile p).sw.done.contains (i * 65536 + k)) = true := by
    rw [h.recv, h.phase, h.ready, h.own, h.fresh]
    simpa using h.count
  have huse : NotesOnly (match s.pick p d k with
      | .line n => s.useOf p i d n k .plain
      | _ => .plain) := by
    split
    · exact useOf_notes s p i d _ k
    · nofun
  refine ⟨_, huse, ?_⟩
  rw [actSwitchReceive, Act.run_ask, h.desc]
  dsimp only
  rw [if_neg hgo, h.come]
  dsimp only
  rw [h.list, if_neg Bool.false_ne_true, h.space, if_neg Bool.false_ne_true]
  split
  next x hx => exact absurd (hx.symm.trans (accWaits_of_notes huse s p)) (Option.some_ne_none x)
  next =>
    rw [Act.run_all_next, Act.run_all_next, Act.run_all_last]
    rfl

/-- The fields by which a receive finds its place and its condition, and that of index faults. -/
def receiveFlds : List Fld := [.SW_INDEX_ERR, .FLT_STATUS_MAP, .SYNC, .ARR_DONE, .PWR_STATE_STATE, .MEM_INJECT_ARMED]

section
variable {s t : State} {β : Type} {f : SwSt → β} (h : SwitchKept f receiveFlds s t)
include h

theorem physOf_congr (p j : Nat) : t.physOf p j = s.physOf p j := by
  rw [State.physOf, h.rd _ (show Fld.FLT_STATUS_MAP ∈ receiveFlds by decide), State.physOf]

theorem memPlain_congr {p : Nat} (hs : s.memPlain p) : t.memPlain p := by
  obtain ⟨hpower, harmed⟩ := hs
  refine ⟨?_, (h.on (show Fld.MEM_INJECT_ARMED ∈ receiveFlds by decide)).trans harmed⟩
  rw [State.power, h.rd _ (show Fld.PWR_STATE_STATE ∈ receiveFlds by decide)]
  exact hpower

theorem condMet_congr {p : Nat} (hrue : (t.pile p).rue = (s.pile p).rue) (d : SwDesc) : t.condMet p d = s.condMet p d := by
  have hsync : ∀ n i, t.rd (tk .SYNC p n i) = s.rd (tk .SYNC p n i) := fun _ _ => h.rd _ (show Fld.SYNC ∈ receiveFlds by decide)
  have harr : ∀ n i, t.rd (tk .ARR_DONE p n i) = s.rd (tk .ARR_DONE p n i) := fun _ _ => h.rd _ (show Fld.ARR_DONE ∈ receiveFlds by decide)
  simp only [State.condMet, hrue, physOf_congr h, hsync, harr]

end

/-- The line that a descriptor selects lies in its space (R154). -/
theorem pick_line_lt {s : State} {p k n : Nat} {d : SwDesc} (h : s.pick p d k = .line n) : n < Space.lines d.space := by
  have hwhole : ∀ i, (if s.lineOk p d.space (s.physOf p d.tile) (s.descLine p d i) then Pick.line (s.descLine p d i).toNat else .fault) =
      .line n → n < Space.lines d.space := by
    intro i hi
    split at hi
    next hok =>
      cases hi
      simp only [State.lineOk, Bool.and_eq_true, decide_eq_true_eq] at hok
      omega
    next => cases hi
  simp only [State.pick] at h
  split at h
  · exact hwhole _ h
  · split at h
    · cases h
    · split at h
      · cases h
      · exact hwhole _ h

section
variable (s : State) (p i k : Nat) (d : SwDesc) (o : LocOut)

theorem collected_kept : SwitchKept (fun _ => ()) receiveFlds s (s.collected p i k d o) :=
  Act.keeps_when (kept_bump (show Fld.SW_DR_RX ∉ _ by decide) 1) _ (.of_keeps (kept_modSw p fun _ => rfl))

theorem pile_collected : ((s.collected p i k d o).pile p).rue = (s.pile p).rue ∧
    ((s.collected p i k d o).pile p).sw.done = (s.pile p).sw.done ++ [i * 65536 + k] := by
  have hpile : ∀ c u, ((Act.when c (bump (pk .SW_DR_RX p))).run u).pile p = u.pile p := fun c u =>
    (Act.only_when fun _ => noPile_bump _ 1).same (read := fun t => t.pile p) (fun _ t hu => hu.pile_apply t p) u
  rw [State.collected, hpile, sw_modSw, modSw, run_modPile, Upd.pile_pile_self]
  exact ⟨rfl, rfl⟩

end

/-- A line that arrives as it is written: poisoned where it fails its check or finds its line's condition unmet (R182, R224). -/
def arrivedLine (d : SwDesc) (o : LocOut) (met : Bool) (l : Line) : Line :=
  { l with poison := l.poison || (d.check && !o.g.empty && !lineCheckOk l) || !met }

/-- A line that arrives is written at its place, and nothing else is. -/
theorem receiveLine_writes {u : State} {p n : Nat} {d : SwDesc} (hplace : Placed p d.space (u.physOf p d.tile) n) (hplain : u.memPlain p)
    {use : RecvUse} (huse : NotesOnly use) (o : LocOut) (l : Line) : let t := (receiveLine p d n o use l).run u
    (t.pile p).sw.done = (u.pile p).sw.done ∧
      Written u t p d.space (u.physOf p d.tile) n (arrivedLine d o (u.condMet p d) l) := by
  have hcount : SwitchKept SwSt.done receiveFlds u ((Act.when (!u.condMet p d) (hazard p)).run
      ((Act.when (d.check && !o.g.empty && !lineCheckOk l) (bump (pk .SW_CHECK_FAIL p))).run u)) :=
    Act.keeps_when (kept_hazard (by decide)) _ (.of_keeps (Act.keeps_when (kept_bump (show Fld.SW_CHECK_FAIL ∉ _ by decide) 1)))
  have hused : ∀ v l', SwitchKept SwSt.done [] v ((useLine p o.from' d.count use l').run v) := fun v l' =>
    .of_keeps (kept_useLine huse p o.from' d.count l')
  have hput := putLine_writes hplace (memPlain_congr hcount hplain) (arrivedLine d o (u.condMet p d) l)
  dsimp only
  rw [receiveLine, Act.run_ask, Act.run_all_next, Act.run_all_next, Act.run_all_next, Act.run_all_last]
  refine ⟨?_, ?_⟩
  · rw [(hused _ _).sw p, done_putLine, hcount.sw p]
  · exact .of_kept (fs := []) ⟨hcount.dram, hcount.sram, hcount.sw, nofun⟩ hput (hused _ _)

section
variable {s : State} {p k : Nat} {d : SwDesc} {o : LocOut} {use : RecvUse}

/-- Where the descriptor selects no line, or no line came, nothing is written (R154, R228). -/
theorem stores_nothing (h : s.pick p d k = .nothing ∨ s.pick p d k = .fault ∨ arriving d k o = none) (u : State) :
    SwitchKept SwSt.done [] u ((stores s p k d o use).run u) := by
  unfold stores
  split
  next => exact .of_keeps (kept_indexFault List.not_mem_nil)
  next n l hpick harr => simp [hpick, harr] at h
  next => exact .refl u

theorem stores_fault (h : s.pick p d k = .fault) (u : State) :
    ((stores s p k d o use).run u).rd (pk .SW_INDEX_ERR p) = u.counted (pk .SW_INDEX_ERR p) 1 := by
  rw [stores, h, rd_indexFault]

end

/-- What a receive leaves (R182, R224, R228). -/
theorem receives_store {s : State} {p i k : Nat} {d : SwDesc} {o : LocOut} {use : RecvUse} (huse : NotesOnly use) (hp : p < 16)
    (hplain : s.memPlain p) (htile : s.physOf p d.tile < 9) : let t := (stores s p k d o use).run (s.collected p i k d o)
    (t.pile p).sw.done = (s.pile p).sw.done ++ [i * 65536 + k] ∧
      (∀ n l, s.pick p d k = .line n → arriving d k o = some l →
        Written s t p d.space (s.physOf p d.tile) n (arrivedLine d o (s.condMet p d) l)) ∧
      ((s.pick p d k = .nothing ∨ s.pick p d k = .fault ∨ arriving d k o = none) → t.dram = s.dram ∧ t.sram = s.sram) ∧
      (s.pick p d k = .fault → t.rd (pk .SW_INDEX_ERR p) = s.counted (pk .SW_INDEX_ERR p) 1) := by
  have hkept := collected_kept s p i k d o
  obtain ⟨hrue, hdone⟩ := pile_collected s p i k d o
  have hline : ∀ n l, s.pick p d k = .line n → arriving d k o = some l →
      let t := (stores s p k d o use).run (s.collected p i k d o)
      (t.pile p).sw.done = (s.pile p).sw.done ++ [i * 65536 + k] ∧
        Written s t p d.space (s.physOf p d.tile) n (arrivedLine d o (s.condMet p d) l) := by
    intro n l hpick harr
    have hplace : Placed p d.space (s.physOf p d.tile) n := ⟨hp, htile, pick_line_lt hpick⟩
    rw [← physOf_congr hkept] at hplace
    obtain ⟨hd, hw⟩ := receiveLine_writes hplace (memPlain_congr hkept hplain) huse o l
    rw [physOf_congr hkept, condMet_congr hkept hrue] at hw
    have hrun : stores s p k d o use = receiveLine p d n o use l := by rw [stores, hpick, harr]
    dsimp only
    rw [hrun]
    exact ⟨hd.trans hdone, .of_kept hkept hw (.refl _)⟩
  refine ⟨?_, fun n l hpick harr => (hline n l hpick harr).2, fun h => ?_, fun h => ?_⟩
  · by_cases h : s.pick p d k = .nothing ∨ s.pick p d k = .fault ∨ arriving d k o = none
    · exact ((stores_nothing h _).sw p).trans hdone
    · obtain ⟨hno, hfault, harr⟩ := by simpa only [not_or] using h
      cases hpick : s.pick p d k with
      | nothing => exact absurd hpick hno
      | fault => exact absurd hpick hfault
      | line n =>
        obtain ⟨l, hl⟩ := Option.ne_none_iff_exists'.mp harr
        exact (hline n l hpick hl).1
  · exact ⟨(stores_nothing h _).dram.trans hkept.dram, (stores_nothing h _).sram.trans hkept.sram⟩
  · exact (stores_fault h _).trans (State.counted_congr (hkept.rd _ (show Fld.SW_INDEX_ERR ∈ receiveFlds by decide)) 1)

end Sys2Proof.Machine
end

section

open Sys2Proof Sys2Proof.Machine

/-- Settles O48 (R182, R217, R222-R225, R228). A send ends in the one change that puts its gondola, after a read and counts that
touch neither memory nor the switch (`sends_leave`). An ingress way-slot is cleared and its gondola verified before its entry acts, so
what the entry does is told of the state before (`Forwards.of_received`). A receive writes its line between counts and what the RUE
notes, which touch no memory (`receives_store`). -/
theorem switchMoves : Obligations.SwitchMoves := by
  unfold Obligations.SwitchMoves
  refine ⟨?_, ?_, ?_⟩
  · intro s p i k d hdesc hsend hcount hphase hready hown hacts hfresh hlist hspace
    have hgo : s.Sends p.val i k d := ⟨hdesc, hsend, hcount, hphase, hready, hown, hacts, hfresh, hlist, hspace⟩
    exact ⟨_, congrArg Host.Outcome.next (run_actSendSample hgo), sends_leave s p.val i k _ d⟩
  · intro s p slot way ph g bad hready hway hslot hgates hawait hown hdelivers
    have hgo : s.TakesIn p.val slot way ph := ⟨hready, hway, hslot, hgates, hawait, hdelivers⟩
    obtain ⟨hloc, hlink⟩ := meets_empties s p.val slot way ph (s.wayGondola p.val slot way g) bad
    refine ⟨_, congrArg Host.Outcome.next (run_takeWay hgo g bad (gateSlot p.val slot way)), hloc, hlink, fun e h hent hgot => ?_,
      fun e hent hgot => ?_, fun hgrp => meets_orphan hgrp slot _ bad⟩
    · rw [hgot]
      obtain ⟨hcount, hsent, hdown, hwire, hout⟩ := meets_forwards hent hown slot h bad
      exact ⟨hcount, hsent, hdown, hwire, hout⟩
    · rw [hgot]
      obtain ⟨hmiss, hfwd⟩ := meets_generates hent hown (by omega) slot bad
      exact ⟨hmiss, hfwd.sent⟩
  · intro s p i k d o hdesc hrecv hcount hphase hready hown hfresh hcome hlist hspace hplain htile
    have hgo : s.Receives p.val i k d o := ⟨hdesc, hrecv, hcount, hphase, hready, hown, hfresh, hcome, hlist, hspace⟩
    obtain ⟨use, huse, hrun⟩ := run_actSwitchReceive hgo
    exact ⟨_, congrArg Host.Outcome.next hrun, receives_store huse p.isLt hplain htile⟩

end

section
/-! PROOFS. What the work of the reduction and update engine keeps: its reads account for themselves and touch neither memory nor its own
state, and its writes touch their own lines. -/

namespace Sys2Proof.Machine

/-! ## The engine's work kept -/

/-- What `f` tells of every pile's RUE and `m` tells of DRAM is unchanged, and so are the lines on the die and the named fields. -/
structure RueKept {β γ : Type} (f : RueSt → β) (m : SMap Codeword → γ) (fs : List Fld) (before after : State) : Prop where
  rue  : ∀ q, f (after.pile q).rue = f (before.pile q).rue
  dram : m after.dram = m before.dram
  sram : after.sram = before.sram
  rd   : ∀ k : FKey, k.f ∈ fs → after.rd k = before.rd k

section
variable {β γ : Type} {f : RueSt → β} {m : SMap Codeword → γ} {fs : List Fld} {r s t : State}

theorem RueKept.refl (s : State) : RueKept f m fs s s := ⟨fun _ => rfl, rfl, rfl, fun _ _ => rfl⟩

theorem RueKept.trans (h : RueKept f m fs r s) (k : RueKept f m fs s t) : RueKept f m fs r t :=
  ⟨fun q => (k.rue q).trans (h.rue q), k.dram.trans h.dram, k.sram.trans h.sram, fun q hq => (k.rd q hq).trans (h.rd q hq)⟩

/-- An action that keeps it relates the states before and after. -/
theorem RueKept.of_keeps {a : Act} (h : a.Keeps (RueKept f m fs s)) : RueKept f m fs s (a.run s) := h s (.refl s)

theorem RueKept.on (h : RueKept f m fs s t) {k : FKey} (hk : k.f ∈ fs) : t.on k = s.on k := by
  rw [State.on, h.rd k hk, State.on]

/-- Where all of memory and of the RUE is kept, so is any part of them. -/
theorem RueKept.part {gs : List Fld} (h : RueKept id id gs s t) (hfs : fs ⊆ gs) : RueKept f m fs s t :=
  ⟨fun q => congrArg f (h.rue q), congrArg m h.dram, h.sram, fun k hk => h.rd k (hfs hk)⟩

theorem RueKept.fewer {gs : List Fld} (h : RueKept f m gs s t) (hfs : fs ⊆ gs) : RueKept f m fs s t :=
  ⟨h.rue, h.dram, h.sram, fun k hk => h.rd k (hfs hk)⟩

/-- What is kept while some lines of DRAM are is kept whatever becomes of DRAM. -/
theorem RueKept.anyDram {gs : List Fld} (h : RueKept f m gs s t) (hfs : fs ⊆ gs) : RueKept f (fun _ => ()) fs s t :=
  ⟨h.rue, rfl, h.sram, fun k hk => h.rd k (hfs hk)⟩

theorem rueKept_of_only {a : Act} (h : a.Only (Upd.BesideSwitch fs)) : a.Keeps (RueKept f m fs r) := by
  refine fun s hs => hs.trans ?_
  have hkept : SwitchKept (fun _ => ()) fs s (a.run s) := .of_keeps (kept_of_only h)
  have hpile : ∀ q, (a.run s).pile q = s.pile q := fun q => h.same (read := fun t => t.pile q) (fun u t hu => by
    refine Upd.NoPile.pile_apply ?_ t q
    cases u with
    | pile _ _ | restart _ => exact absurd hu id
    | _ => trivial) s
  exact ⟨fun q => by rw [hpile], by rw [hkept.dram], hkept.sram, hkept.rd⟩

theorem rueKept_setR {k : FKey} (hk : k.f ∉ fs) (v : Nat) : (setR k v).Keeps (RueKept f m fs r) := rueKept_of_only ⟨hk, trivial⟩
theorem rueKept_bump {k : FKey} (hk : k.f ∉ fs) (n : Nat) : (bump k n).Keeps (RueKept f m fs r) :=
  rueKept_of_only (only_bump fun _ => hk)

theorem rueKept_modPile (p : Nat) {g : Pile → Pile} (h : ∀ x, f (g x).rue = f x.rue) : (modPile p g).Keeps (RueKept f m fs r) := by
  refine fun s hs => hs.trans ⟨fun q => ?_, rfl, rfl, fun _ _ => rfl⟩
  rw [run_modPile]
  by_cases hq : q = p
  · rw [hq, Upd.pile_pile_self, h]
  · rw [Upd.pile_pile_of_ne _ s hq]

theorem rueKept_modRue (p : Nat) {g : RueSt → RueSt} (h : ∀ x, f (g x) = f x) : (modRue p g).Keeps (RueKept f m fs r) :=
  rueKept_modPile p fun x => h x.rue

theorem rueKept_causeNow (h : ∀ x c, f { x with causes := c } = f x) (p c : Nat) : (causeNow p c).Keeps (RueKept f m fs r) :=
  rueKept_modRue p fun x => h x _

theorem rueKept_countHealth (p tracker tid : Nat) (c : XoCounts) : (countHealth p tracker tid c).Keeps (RueKept f m fs r) :=
  Act.keeps_asked fun _ => Act.keeps_ite (rueKept_modPile p fun _ => rfl) (rueKept_modPile p fun _ => rfl)

theorem rueKept_countXo (h : Fld.XO_OP_COUNT ∉ fs) (p n row : Nat) (c : XoCounts) : (countXo p n row c).Keeps (RueKept f m fs r) :=
  Act.keeps_list ⟨rueKept_bump h _, rueKept_bump h _, rueKept_bump h _, rueKept_bump h _, rueKept_bump h _, rueKept_bump h _⟩

theorem rueKept_clearXo (h : Fld.XO_OP_COUNT ∉ fs) (p n row : Nat) : (clearXo p n row).Keeps (RueKept f m fs r) :=
  Act.keeps_each fun _ _ => rueKept_setR h _

theorem pile_modRue (p : Nat) (g : RueSt → RueSt) (s : State) : (((modRue p g).run s).pile p).rue = g (s.pile p).rue := by
  rw [modRue, run_modPile, Upd.pile_pile_self]

theorem rd_modRue (p : Nat) (g : RueSt → RueSt) (s : State) (k : FKey) : ((modRue p g).run s).rd k = s.rd k := rfl

end

/-! ## Reads -/

/-- Every pile's RUE is the one given. -/
def State.RuesAre (g : Nat → RueSt) (s : State) : Prop := ∀ q, (s.pile q).rue = g q

section
variable {g : Nat → RueSt}

theorem Act.Only.ruesKept {a : Act} (h : a.Only Upd.NoPile) : a.Keeps (State.RuesAre g) :=
  h.toKeeps fun _ s hu hs q => (congrArg Pile.rue (hu.pile_apply s q)).trans (hs q)

theorem rues_modMem (p : Nat) (f : MemSt → MemSt) : (modMem p f).Keeps (State.RuesAre g) := by
  intro s hs q
  rw [modMem, run_modPile]
  by_cases hq : q = p
  · rw [hq, Upd.pile_pile_self]
    exact hs p
  · rw [Upd.pile_pile_of_ne _ s hq]
    exact hs q

theorem rues_queueMove (p line : Nat) : (queueMove p line).Keeps (State.RuesAre g) :=
  Act.keeps_seq (rues_modMem p _) (Act.keeps_asked fun _ => Act.keeps_when (noPile_setR _ _).ruesKept)

theorem rues_ceLog (p line : Nat) (fixed : List Nat) (groomer : Bool) : (ceLog p line fixed groomer).Keeps (State.RuesAre g) := by
  have hset : ∀ k v, (setR k v).Keeps (State.RuesAre g) := fun k v => (noPile_setR k v).ruesKept
  have htouch : ∀ i n b h, (Act.all [setR (pk .MEM_CE_LOG_BYTES p i) n, setB (pk .MEM_CE_LOG_TSV p i) b, modMem p h]).Keeps
      (State.RuesAre g) := fun i n b h => Act.keeps_list ⟨hset _ _, hset _ _, rues_modMem p h⟩
  refine Act.keeps_asked fun s => ?_
  dsimp only
  split
  · exact Act.keeps_seq (htouch _ _ _ _) (Act.keeps_when (Act.keeps_seq (hset _ _) (rues_queueMove p line)))
  · exact Act.keeps_list ⟨hset _ _, hset _ _, hset _ _, hset _ _, htouch _ _ _ _, Act.keeps_when (rues_modMem p _)⟩

theorem rues_bucketUp (p : Nat) : (bucketUp p).Keeps (State.RuesAre g) := by
  have hevent : (ceEvent p).Keeps (State.RuesAre g) := fun s hs =>
    Act.keeps_asked (fun _ => Act.keeps_ite (Act.keeps_done _)
      (Act.keeps_seq (rues_modMem p _) (noPile_raiseEvent _ _ _).ruesKept)) ((Upd.draw 1).apply s) hs
  exact Act.keeps_asked fun _ => Act.keeps_ite
    (Act.keeps_list ⟨(noPile_setR _ _).ruesKept, (noPile_bump _ _).ruesKept, hevent⟩) (noPile_bump _ _).ruesKept

theorem rues_ueLog (p line : Nat) (groomer : Bool) : (ueLog p line groomer).Keeps (State.RuesAre g) := by
  have hset : ∀ k v, (setR k v).Keeps (State.RuesAre g) := fun k v => (noPile_setR k v).ruesKept
  have hcount : ∀ k, (bump k).Keeps (State.RuesAre g) := fun k => (noPile_bump k 1).ruesKept
  exact Act.keeps_asked fun _ => Act.keeps_list ⟨hcount _, hcount _, hset _ _, hset _ _, hset _ _, hset _ _, hset _ _,
    Act.keeps_when (Act.keeps_seq (rues_modMem p _) (rues_modMem p _))⟩

/-- What a read counts and records is none of the RUE's. -/
theorem rues_accountRead (p line : Nat) (o : ReadOut) (groomer : Bool) : (accountRead p line o groomer).Keeps (State.RuesAre g) := by
  have hcount : ∀ k n, (bump k n).Keeps (State.RuesAre g) := fun k n => (noPile_bump k n).ruesKept
  refine Act.keeps_seq (hcount _ _) ?_
  cases o.kind with
  | data => exact Act.keeps_when (Act.keeps_list ⟨hcount _ _, hcount _ _, rues_ceLog p line _ _, rues_bucketUp p⟩)
  | poison => exact Act.keeps_seq (hcount _ _) (Act.keeps_when (hcount _ _))
  | uncorrectable => exact rues_ueLog p line groomer

end

/-- The fields by which the RUE finds its lines and reads and writes them (R327, R376, R393, R503). -/
def placeFlds : List Fld := [.PWR_STATE_STATE, .FLT_STATUS_BLOCK_CHECKING, .MEM_INJECT_ARMED, .UPD_STATUS_VER_SEL]

/-- The fields that the RUE's reads, writes and converters write beside the counts of their own pass. -/
def workFlds : List Fld := [.RUE_CHECK_FAIL, .XO_OP_COUNT, .MEM_POISON_WRITE] ++ readFlds

/-- Fields that the RUE's work keeps, with all by which it finds its lines. -/
structure WorkKeeps (fs : List Fld) : Prop where
  place : placeFlds ⊆ fs
  free  : ∀ g ∈ workFlds, g ∉ fs

theorem lineAt_rueKept {β : Type} {f : RueSt → β} {fs : List Fld} {s t : State} (h : RueKept f id fs s t) (hfs : placeFlds ⊆ fs)
    (p : Nat) (sp : Space) (n x : Nat) : t.lineAt p sp n x = s.lineAt p sp n x := by
  have hdram : t.dram = s.dram := h.dram
  cases sp with
  | buf | ls => simp only [State.lineAt, State.sramLine, h.sram]
  | dram =>
    have hpower : t.power (domMem p) = s.power (domMem p) := h.rd (dk .PWR_STATE_STATE (domMem p)) (hfs (by simp [placeFlds, dk]))
    simp only [State.lineAt, State.dramWord, hpower, hdram]

section
variable {β γ : Type} {f : RueSt → β} {m : SMap Codeword → γ} {fs : List Fld} {s t : State} (h : RueKept f m fs s t) (hfs : placeFlds ⊆ fs)
include h hfs

theorem checking_rueKept (p : Nat) : t.checking p = s.checking p := h.on (hfs (by simp [placeFlds, pk]))
theorem ver_rueKept (p : Nat) : t.ver p = s.ver p := h.rd _ (hfs (by simp [placeFlds, pk]))
theorem unarmed_rueKept {p : Nat} (hs : s.on (pk .MEM_INJECT_ARMED p) = false) : t.on (pk .MEM_INJECT_ARMED p) = false :=
  (h.on (hfs (by simp [placeFlds, pk]))).trans hs
theorem memPlain_rueKept {p : Nat} (hs : s.memPlain p) : t.memPlain p := by
  obtain ⟨hpower, harmed⟩ := hs
  refine ⟨?_, unarmed_rueKept h hfs harmed⟩
  rw [State.power, h.rd _ (hfs (by simp [placeFlds, dk]))]
  exact hpower

end

theorem rueLine_rueKept {β : Type} {f : RueSt → β} {fs : List Fld} {s t : State} (h : RueKept f id fs s t) (hfs : placeFlds ⊆ fs)
    (p : Nat) (sp : Space) (x : Nat) : t.rueLine p sp x = s.rueLine p sp x := by
  simp only [State.rueLine, lineAt_rueKept h hfs, checking_rueKept h hfs]

/-- The lines from one of a space on, as the RUE reads them. -/
def State.rueRun (s : State) (p : Nat) (sp : Space) (line n : Nat) : List Line := (List.range n).map (fun j => s.rueLine p sp (line + j))

theorem rueRun_succ (s : State) (p : Nat) (sp : Space) (line n : Nat) :
    s.rueRun p sp line (n + 1) = s.rueLine p sp line :: s.rueRun p sp (line + 1) n := by
  simp only [State.rueRun, List.range_succ_eq_map, List.map_cons, List.map_map, Nat.add_zero, List.cons.injEq, true_and]
  refine List.map_congr_left fun j _ => ?_
  rw [Function.comp_apply, Nat.add_right_comm, Nat.add_assoc]

theorem rueRun_rueKept {β : Type} {f : RueSt → β} {fs : List Fld} {s t : State} (h : RueKept f id fs s t) (hfs : placeFlds ⊆ fs)
    (p : Nat) (sp : Space) (x n : Nat) : t.rueRun p sp x n = s.rueRun p sp x n := by
  simp only [State.rueRun, rueLine_rueKept h hfs]

/-- A shard as its lines stand in a version. -/
def State.shardAt (s : State) (p ver : Nat) (l : LayerRec) (h : ShardRec) : ShardData :=
  let base := shardBase h ver
  let st := s.rueLine p .dram base
  ⟨blocksOf 2 (s.rueRun p .dram h.gLine (8 * h.blocks)), blocksOf 8 (s.rueRun p .dram (base + 8 * h.blocks + 1) (2 * h.blocks)),
    if hasV l.rule then blocksOf 10 (s.rueRun p .dram (base + 10 * h.blocks + 1) (if hasV l.rule then 2 * h.blocks else 0))
      else List.replicate h.blocks zeroDBlock,
    blocksOf 2 (s.rueRun p .dram (base + 1) (8 * h.blocks)), { st with poison := st.poison || st.tagByte 3 != 0xF0 }⟩

section
variable {fs : List Fld} (hfs : WorkKeeps fs)
include hfs

/-- A line is read as it stands, in a state that differs only by what the read accounts for. -/
theorem getLine_takes (p : Nat) (sp : Space) (n x : Nat) (k : Line → Act) (s : State) :
    ∃ v, (getLine p sp n x k).run s = (k (s.lineAt p sp n x)).run v ∧ RueKept id id fs s v := by
  cases sp with
  | buf | ls => exact ⟨s, rfl, .refl s⟩
  | dram =>
    rw [getLine, Act.run_ask, State.lineAt]
    split
    · exact ⟨s, rfl, .refl s⟩
    · have hfree : ∀ g ∈ readFlds, g ∉ fs := fun g hg => hfs.free g (List.mem_append_right _ hg)
      have hkept : SwitchKept (fun _ => ()) fs s ((accountRead p x (decodeWord (s.dramWord (dramAddr p x))) false).run s) :=
        .of_keeps (kept_accountRead hfree p x _ false)
      exact ⟨_, Act.run_seq _ _ _, fun q => rues_accountRead (g := fun q => (s.pile q).rue) p x _ false s (fun _ => rfl) q,
        hkept.dram, hkept.sram, hkept.rd⟩

/-- The RUE takes a line as it reads under the pile's block checking (R43, R393). -/
theorem rueRead_takes (p : Nat) (sp : Space) (x : Nat) (k : Line → Act) (s : State) :
    ∃ v, (rueRead p sp x k).run s = (k (s.rueLine p sp x)).run v ∧ RueKept id id fs s v := by
  obtain ⟨v, hv, hkept⟩ := getLine_takes hfs p sp 0 x (rueTakes p · k) s
  have hcount : ∀ c, (Act.when c (bump (pk .RUE_CHECK_FAIL p))).Keeps (RueKept id id fs s) := fun _ =>
    Act.keeps_when (rueKept_bump (hfs.free _ (show Fld.RUE_CHECK_FAIL ∈ workFlds by decide)) 1)
  refine ⟨_, ?_, hcount (s.checking p && !(s.lineAt p sp 0 x).poison && !lineCheckOk (s.lineAt p sp 0 x)) v hkept⟩
  have hbad : ∀ b c d : Bool, (b || c && !b && d) = (b || c && d) := by decide
  rw [rueRead, hv, rueTakes, Act.run_ask, Act.run_seq, checking_rueKept hkept hfs.place, hbad]
  rfl

theorem rueLines_takes (p : Nat) (sp : Space) (line n : Nat) (k : List Line → Act) (s : State) :
    ∃ v, (rueLines p sp line n k).run s = (k (s.rueRun p sp line n)).run v ∧ RueKept id id fs s v := by
  induction n generalizing line k s with
  | zero => exact ⟨s, rfl, .refl s⟩
  | succ n ih =>
    obtain ⟨u, hu, hsu⟩ := rueRead_takes hfs p sp line (fun l => rueLines p sp (line + 1) n (fun r => k (l :: r))) s
    obtain ⟨v, hv, huv⟩ := ih (line + 1) (fun r => k (s.rueLine p sp line :: r)) u
    refine ⟨v, ?_, hsu.trans huv⟩
    rw [rueLines, hu, hv, rueRun_rueKept hsu hfs.place, rueRun_succ]

/-- A pass reads a shard as it stands. -/
theorem readShard_takes (p ver : Nat) (l : LayerRec) (h : ShardRec) (k : ShardData → Act) (s : State) :
    ∃ v, (readShard p ver l h k).run s = (k (s.shardAt p ver l h)).run v ∧ RueKept id id fs s v := by
  obtain ⟨s₁, h₁, k₁⟩ := rueRead_takes hfs p .dram (shardBase h ver) _ s
  obtain ⟨s₂, h₂, k₂⟩ := rueLines_takes hfs p .dram h.gLine (8 * h.blocks) _ s₁
  obtain ⟨s₃, h₃, k₃⟩ := rueLines_takes hfs p .dram (shardBase h ver + 1) (8 * h.blocks) _ s₂
  obtain ⟨s₄, h₄, k₄⟩ := rueLines_takes hfs p .dram (shardBase h ver + 8 * h.blocks + 1) (2 * h.blocks) _ s₃
  obtain ⟨s₅, h₅, k₅⟩ := rueLines_takes hfs p .dram (shardBase h ver + 10 * h.blocks + 1) (if hasV l.rule then 2 * h.blocks else 0) _ s₄
  have k₁₂ := k₁.trans k₂
  have k₁₃ := k₁₂.trans k₃
  have k₁₄ := k₁₃.trans k₄
  refine ⟨s₅, ?_, k₁₄.trans k₅⟩
  refine h₁.trans (h₂.trans (h₃.trans (h₄.trans (h₅.trans ?_))))
  rw [rueRun_rueKept k₁ hfs.place, rueRun_rueKept k₁₂ hfs.place, rueRun_rueKept k₁₃ hfs.place, rueRun_rueKept k₁₄ hfs.place]
  rfl

end

end Sys2Proof.Machine
end

section
/-! PROOFS. Lines of DRAM that the reduction and update engine writes, encodes and copies. -/

namespace Sys2Proof.Machine

/-! ## Writes -/

/-- `m` tells nothing of a pile's lines from one on. -/
def Blind {γ : Type} (m : SMap Codeword → γ) (p lo : Nat) : Prop :=
  ∀ x, lo ≤ x → ∀ d c, m (SMap.put unwritten d (dramAddr p x) c) = m d

theorem blind_unit (p lo : Nat) : Blind (fun _ => ()) p lo := fun _ _ _ _ => rfl

theorem Blind.mono {γ : Type} {m : SMap Codeword → γ} {p lo hi : Nat} (h : Blind m p lo) (hle : lo ≤ hi) : Blind m p hi :=
  fun x hx => h x (hle.trans hx)

/-- The codeword of one line of a pile. -/
def wordOf (p x : Nat) (d : SMap Codeword) : Codeword := SMap.getD d (dramAddr p x) unwritten

theorem blind_wordOf (p x : Nat) : Blind (wordOf p x) p (x + 1) := fun y hy d c =>
  SMap.getD_put_of_ne unwritten d c (show dramAddr p x ≠ dramAddr p y by simp only [dramAddr]; omega)

section
variable {β γ : Type} {f : RueSt → β} {m : SMap Codeword → γ} {fs : List Fld} (hf : ∀ x c, f { x with causes := c } = f x)
  (hfs : WorkKeeps fs) {r : State} {p : Nat} (harm : r.on (pk .MEM_INJECT_ARMED p) = false)
include hf hfs harm

/-- A line written to memory with no injection armed leaves every other line, and all by which lines are found (R360, R362). -/
theorem rueKept_putLine {x : Nat} (hm : Blind m p x) (l : Line) : (putLine p .dram 0 x l).Keeps (RueKept f m fs r) := by
  have hstore : ∀ c, (emit (.dram (dramAddr p x) c)).Keeps (RueKept f m fs r) := fun c s hs => hs.trans
    ⟨fun q => by rw [run_emit, Upd.pile_dram], by
      rw [run_emit, Upd.apply]
      split
      · exact hm x le_rfl _ _
      · rfl, Upd.sram_dram _ _ s, fun k _ => Upd.rd_dram _ _ s k⟩
  have hword : ∀ c, (storeWord p x c).Keeps (RueKept f m fs r) := fun c s hs => by
    have harmed : ¬ (s.on (pk .MEM_INJECT_ARMED p) = true ∧ s.rd (pk .MEM_INJECT_LINE p) = x) := by
      simp [unarmed_rueKept hs hfs.place harm]
    rw [storeWord, Act.run_ask, if_neg harmed]
    exact hstore c s hs
  have hpoison : (bump (pk .MEM_POISON_WRITE p)).Keeps (RueKept f m fs r) :=
    rueKept_bump (hfs.free _ (show Fld.MEM_POISON_WRITE ∈ workFlds by decide)) 1
  exact Act.keeps_seq
    (Act.keeps_asked fun _ => Act.keeps_ite (Act.keeps_done _) (Act.keeps_seq (Act.keeps_when hpoison) (hword _)))
    (Act.keeps_asked fun _ => Act.keeps_when (rueKept_causeNow hf p _))

theorem rueKept_putLines {x : Nat} (hm : Blind m p x) (ls : List Line) : (putLines p .dram 0 x ls).Keeps (RueKept f m fs r) := by
  induction ls generalizing x with
  | nil => exact Act.keeps_done _
  | cons l ls ih => exact Act.keeps_seq (rueKept_putLine hf hfs harm hm l) (ih (hm.mono (Nat.le_succ x)))

/-- Blocks are encoded and written, and what follows has their lines (R345). -/
theorem writeBlocks_writes {x : Nat} (hm : Blind m p x) (d : EncDesc) (cols first : Nat) (bad : Nat → Bool) (bs : List (List FNum)) (j : Nat)
    (k : List Line → Act) {s : State} (hs : RueKept f m fs r s) :
    ∃ ls v, (writeBlocks p d cols first x bad bs j k).run s = (k ls).run v ∧ RueKept f m fs r v := by
  induction bs generalizing j k s with
  | nil => exact ⟨[], s, rfl, hs⟩
  | cons b bs ih =>
    rw [writeBlocks, encoding, Act.run_ask, Act.run_all_next, Act.run_all_next, Act.run_all_next, Act.run_all_last]
    have hlines := rueKept_putLines hf hfs harm (hm.mono (Nat.le_add_right x (j * fmtLines d.fmt)))
    have hcount := rueKept_countXo (f := f) (m := m) (r := r) (hfs.free _ (show Fld.XO_OP_COUNT ∈ workFlds by decide)) p 0 5
    obtain ⟨ls, v, hv, hkept⟩ := ih (j + 1) _ (hcount _ _ (rueKept_countHealth p d.tracker d.tensorId _ _ (hlines _ _ hs)))
    exact ⟨_, v, hv, hkept⟩

theorem rueKept_writeBlocks {x : Nat} (hm : Blind m p x) (d : EncDesc) (cols first : Nat) (bad : Nat → Bool) (bs : List (List FNum)) (j : Nat)
    {k : List Line → Act} (hk : ∀ ls, (k ls).Keeps (RueKept f m fs r)) :
    (writeBlocks p d cols first x bad bs j k).Keeps (RueKept f m fs r) := fun s hs => by
  obtain ⟨ls, v, hv, hkept⟩ := writeBlocks_writes hf hfs harm hm d cols first bad bs j k hs
  rw [hv]
  exact hk ls v hkept

/-- Lines read and copied are lines written. -/
theorem rueKept_copyLines {src dst n : Nat} (hm : Blind m p dst) : (copyLines p src dst n).Keeps (RueKept f m fs r) :=
  Act.keeps_each fun j _ s hs => by
    obtain ⟨v, hv, hkept⟩ := rueRead_takes hfs p .dram (src + j) (fun l => putLine p .dram 0 (dst + j) l) s
    rw [hv]
    exact rueKept_putLine hf hfs harm (hm.mono (Nat.le_add_right dst j)) _ v (hs.trans (hkept.part (List.Subset.refl fs)))

end

/-- A line of a pile's DRAM is written as it is encoded, and no other word of DRAM changes. -/
theorem putLine_word {p x : Nat} (hp : p < 16) (hx : x < dramLines) {s : State} (hplain : s.memPlain p) (l : Line) :
    ((putLine p .dram 0 x l).run s).dramWord (dramAddr p x) = encodeWord l ∧
      ∀ a, a ≠ dramAddr p x → ((putLine p .dram 0 x l).run s).dramWord a = s.dramWord a := by
  have hplace : Placed p .dram 0 x := ⟨hp, by omega, hx⟩
  obtain ⟨hheld, hrest, -⟩ := putLine_writes hplace hplain l
  exact ⟨hheld, hrest⟩

/-- The first `n` lines of a copy have been made: they read as their sources stood, and no other word of DRAM has changed. -/
structure Copied (fs : List Fld) (s t : State) (p src dst n : Nat) : Prop where
  kept  : RueKept (fun _ => ()) (fun _ => ()) fs s t
  lines : ∀ j, j < n → t.dramWord (dramAddr p (dst + j)) = encodeWord (s.rueLine p .dram (src + j))
  rest  : ∀ a, (∀ j, j < n → a ≠ dramAddr p (dst + j)) → t.dramWord a = s.dramWord a

/-- The RUE reads a line alike where its word is the same. -/
theorem rueLine_of_word {β γ : Type} {f : RueSt → β} {m : SMap Codeword → γ} {fs : List Fld} {s t : State} (h : RueKept f m fs s t)
    (hfs : placeFlds ⊆ fs) {p x : Nat} (hword : t.dramWord (dramAddr p x) = s.dramWord (dramAddr p x)) :
    t.rueLine p .dram x = s.rueLine p .dram x := by
  have hpower : t.power (domMem p) = s.power (domMem p) := h.rd (dk .PWR_STATE_STATE (domMem p)) (hfs (by simp [placeFlds, dk]))
  simp only [State.rueLine, State.lineAt, hpower, hword, checking_rueKept h hfs]

/-- The next line of a copy is read where no line before it has been written. -/
theorem Copied.next {fs : List Fld} (hfs : WorkKeeps fs) {s t : State} {p src dst n : Nat} (h : Copied fs s t p src dst n) (hp : p < 16)
    (hdst : dst + n < dramLines) (hapart : ∀ j, j < n → src + n ≠ dst + j) (hplain : s.memPlain p) :
    Copied fs s ((rueRead p .dram (src + n) (fun l => putLine p .dram 0 (dst + n) l)).run t) p src dst (n + 1) := by
  obtain ⟨v, hv, htv⟩ := rueRead_takes hfs p .dram (src + n) (fun l => putLine p .dram 0 (dst + n) l) t
  have hsource : t.rueLine p .dram (src + n) = s.rueLine p .dram (src + n) :=
    rueLine_of_word h.kept hfs.place (h.rest _ fun j hj he => hapart j hj (Nat.add_left_cancel he))
  have hsv : RueKept (fun _ => ()) (fun _ => ()) fs s v := h.kept.trans (htv.part (List.Subset.refl fs))
  have hwords : ∀ a, v.dramWord a = t.dramWord a := fun a => by rw [State.dramWord, show v.dram = t.dram from htv.dram, State.dramWord]
  obtain ⟨hline, hrest⟩ := putLine_word hp hdst (memPlain_rueKept hsv hfs.place hplain) (s.rueLine p .dram (src + n))
  rw [hv, hsource]
  refine ⟨rueKept_putLine (fun _ _ => rfl) hfs hplain.2 (blind_unit p _) _ v hsv, fun j hj => ?_, fun a ha => ?_⟩
  · by_cases hlast : j = n
    · rw [hlast, hline]
    · have hne : dramAddr p (dst + j) ≠ dramAddr p (dst + n) := by simp only [dramAddr]; omega
      rw [hrest _ hne, hwords, h.lines j (by omega)]
  · rw [hrest a (ha n (Nat.lt_succ_self n)), hwords, h.rest a fun j hj => ha j (Nat.lt_succ_of_lt hj)]

/-- A run of lines copied to a place apart from it (R342). -/
theorem copyLines_copied {fs : List Fld} (hfs : WorkKeeps fs) {p src dst n : Nat} (hp : p < 16) (hdst : dst + n ≤ dramLines)
    (hapart : ∀ i j, i < n → j < n → src + i ≠ dst + j) {s : State} (hplain : s.memPlain p) :
    Copied fs s ((copyLines p src dst n).run s) p src dst n := by
  induction n with
  | zero => exact ⟨.refl s, nofun, fun _ _ => rfl⟩
  | succ n ih =>
    have hbefore := ih (by omega) fun i j hi hj => hapart i j (by omega) (by omega)
    have hrun : (copyLines p src dst (n + 1)).run s =
        (rueRead p .dram (src + n) (fun l => putLine p .dram 0 (dst + n) l)).run ((copyLines p src dst n).run s) := by
      simp only [copyLines, Act.run_each, List.range_succ, List.foldl_append, List.foldl_cons, List.foldl_nil]
    rw [hrun]
    exact hbefore.next hfs hp (by omega) (fun j hj => hapart n j (by omega) (by omega)) hplain

end Sys2Proof.Machine
end

section
/-! PROOFS. The update passes (R335, R339): a pass begins on a layer, and pass 1 sums and counts its shards. -/

namespace Sys2Proof.Machine

/-! ## A counter raised element by element -/

/-- What raises a counter by each of some elements in turn raises it by their sum. -/
theorem each_counts {α : Type} {I : State → Prop} {k : FKey} {n : α → Nat} {g : α → Act} {xs : List α}
    (h : ∀ x ∈ xs, ∀ s, I s → I ((g x).run s) ∧ ((g x).run s).rd k = s.counted k (n x)) (hne : xs ≠ []) {s : State} (hs : I s) :
    I ((Act.each xs g).run s) ∧ ((Act.each xs g).run s).rd k = s.counted k ((xs.map n).sum) := by
  induction xs generalizing s with
  | nil => exact absurd rfl hne
  | cons x xs ih =>
    obtain ⟨hx, hcount⟩ := h x List.mem_cons_self s hs
    rw [Act.run_each_cons]
    by_cases hxs : xs = []
    · subst hxs
      exact ⟨hx, hcount⟩
    · obtain ⟨hrest, hcount'⟩ := ih (fun y hy => h y (List.mem_cons_of_mem _ hy)) hxs hx
      exact ⟨hrest, by rw [hcount', State.counted_add hcount, List.map_cons, List.sum_cons]⟩

/-! ## A pass begins -/

/-- The fields that a pass shows and finds its lines by. -/
def shownFlds : List Fld := .UPD_STATUS_LAYER :: placeFlds

/-- The counters of elements, and what the beginning of a pass keeps with them. -/
def elemFlds : List Fld := [.UPD_P1_ELEM, .UPD_P2_ELEM] ++ placeFlds

/-- The fields that a shard's work keeps before its elements are counted. -/
def beforeFlds : List Fld := .UPD_STATUS_SUPPRESSED :: .UPD_STATUS_LAYER :: elemFlds

theorem workKeeps_before : WorkKeeps beforeFlds := ⟨by decide, by decide⟩
theorem shownFlds_subset : shownFlds ⊆ beforeFlds := by decide
theorem elemFlds_subset : elemFlds ⊆ beforeFlds := by decide

/-- A pass has begun on a layer. -/
def State.layerBegun (s : State) (p layer pass : Nat) : State := (clearXo p 0 5).run
  ((modRue p (fun x => { x with passes := if x.passes.contains pass then x.passes else x.passes ++ [pass] })).run
    ((setR (pk .UPD_STATUS_LAYER p) layer).run s))

theorem layerBegun_kept {β : Type} {f : RueSt → β} (hf : ∀ x ps, f { x with passes := ps } = f x) (s : State) (p layer pass : Nat) :
    RueKept f id elemFlds s (s.layerBegun p layer pass) :=
  rueKept_clearXo (by decide) p 0 5 _ (rueKept_modRue p (fun x => hf x _) _
    (.of_keeps (rueKept_setR (show Fld.UPD_STATUS_LAYER ∉ elemFlds by decide) layer)))

theorem layer_layerBegun (s : State) (p layer pass : Nat) :
    (s.layerBegun p layer pass).rd (pk .UPD_STATUS_LAYER p) = clipTo Fld.UPD_STATUS_LAYER.width layer := by
  have hclear : ∀ u, RueKept id id [.UPD_STATUS_LAYER] u ((clearXo p 0 5).run u) := fun u =>
    .of_keeps (rueKept_clearXo (by decide) p 0 5)
  rw [State.layerBegun, (hclear _).rd _ List.mem_cons_self, rd_modRue, rd_setR_self]
  rfl

/-- The count of the RUE's operations rises (R222). -/
def opDone (p : Nat) : Act := modRue p (fun x => { x with rueDone := x.rueDone + 1 })

section
variable {s : State} {p layer : Nat} {i : Image} (himg : s.job.image = some i) {pass : Nat} {usesBuf : Bool}
  {may : State → Image → LayerRec → Bool} {k : Image → LayerRec → Act}
include himg

theorem run_onLayer {l : LayerRec} (hlayer : i.update.layers[layer]? = some l) (hgo : s.RueGo p usesBuf) (hmay : may s i l = true) :
    (onLayer p layer pass usesBuf may k).run s = (opDone p).run ((k i l).run (s.layerBegun p layer pass)) := by
  have hbuf : (usesBuf && s.mustWait p .buf 0) = false := by
    cases husesBuf : usesBuf with
    | false => rfl
    | true => exact hgo.buf husesBuf
  have hstart : ¬ (!s.inPhase p || !s.ready (domCtl p) || (s.pile p).resetSrc != 0) = true := by
    simp [hgo.phase, hgo.ctl, hgo.reset]
  rw [onLayer, Act.run_ask, himg]
  dsimp only
  rw [hlayer]
  dsimp only
  rw [hmay, Act.run_when, if_pos rfl, rueOp, Act.run_ask, if_neg hstart, hgo.mem, if_neg Bool.false_ne_true, hbuf,
    if_neg Bool.false_ne_true, Act.run_seq, Act.run_all_next, Act.run_all_next, Act.run_all_next, Act.run_all_last]
  rfl

theorem onLayer_idle (hmay : ∀ l, i.update.layers[layer]? = some l → may s i l = false) : (onLayer p layer pass usesBuf may k).run s = s := by
  rw [onLayer, Act.run_ask, himg]
  dsimp only
  cases hlayer : i.update.layers[layer]? with
  | none => rfl
  | some l =>
    dsimp only
    rw [hmay l hlayer]
    rfl

end

theorem onLayer_imageless {s : State} (himg : s.job.image = none) (p layer pass : Nat) (usesBuf : Bool)
    (may : State → Image → LayerRec → Bool) (k : Image → LayerRec → Act) : (onLayer p layer pass usesBuf may k).run s = s := by
  rw [onLayer, Act.run_ask, himg]
  rfl

/-- What a pass shows when its operation is done, whatever its shards' work was that kept it (R222). -/
structure PassShown (s t : State) (p layer : Nat) : Prop where
  done  : (t.pile p).rue.rueDone = (s.pile p).rue.rueDone + 1
  layer : t.rd (pk .UPD_STATUS_LAYER p) = clipTo Fld.UPD_STATUS_LAYER.width layer
  sram  : t.sram = s.sram

theorem passShown_opDone {γ : Type} {m : SMap Codeword → γ} {s w u : State} {p layer : Nat}
    (hdone : (w.pile p).rue.rueDone = (s.pile p).rue.rueDone) (hsram : w.sram = s.sram)
    (hlayer : w.rd (pk .UPD_STATUS_LAYER p) = clipTo Fld.UPD_STATUS_LAYER.width layer) (h : RueKept RueSt.rueDone m shownFlds w u) :
    PassShown s ((opDone p).run u) p layer where
  done := by rw [opDone, pile_modRue, h.rue, hdone]
  layer := by rw [opDone, rd_modRue, h.rd _ (show Fld.UPD_STATUS_LAYER ∈ shownFlds by decide), hlayer]
  sram := h.sram.trans hsram

/-! ## Pass 1 -/

/-- An extension sum of a pile. -/
def RueSt.sumOf (j : Nat) (x : RueSt) : Wide := SMap.getD x.sums j {}

/-- What pass 1 adds to a layer's sum of squared gradients for a shard (R335). -/
def State.gradSquares (s : State) (p : Nat) (h : ShardRec) : Wide :=
  wideEach (blockVals (blocksOf 2 (s.rueRun p .dram h.gLine (8 * h.blocks))))

section
variable {β γ : Type} {f : RueSt → β} {m : SMap Codeword → γ} {fs : List Fld} {r : State}

theorem rueKept_addSum (hf : ∀ x j w, f { x with sums := SMap.set x.sums j w } = f x) (p j : Nat) (w : Wide) :
    (addSum p j w).Keeps (RueKept f m fs r) := rueKept_modRue p fun x => hf x j _

theorem rueKept_addSum_of_ne {j j' : Nat} (h : j ≠ j') (p : Nat) (w : Wide) : (addSum p j' w).Keeps (RueKept (RueSt.sumOf j) m fs r) :=
  rueKept_modRue p fun x => by simp only [RueSt.sumOf, SMap.getD, SMap.find?_set_of_ne _ _ h]

theorem rueKept_countReads (hfs : Fld.XO_OP_COUNT ∉ fs) (p : Nat) (i : Image) (l : LayerRec) (d : ShardData) :
    (countReads p i l d).Keeps (RueKept f m fs r) := by
  have hcount : ∀ j t c, ((countHealth p j t c).seq (countXo p 0 5 c)).Keeps (RueKept f m fs r) := fun j t c =>
    Act.keeps_seq (rueKept_countHealth p j t c) (rueKept_countXo hfs p 0 5 c)
  exact Act.keeps_list ⟨rueKept_countXo hfs p 0 5 _, hcount _ _ _, Act.keeps_when (hcount _ _ _)⟩

end

theorem sumOf_addSum (p j : Nat) (w : Wide) (s : State) :
    (((addSum p j w).run s).pile p).rue.sumOf j = ((s.pile p).rue.sumOf j).add w := by
  rw [addSum, pile_modRue, RueSt.sumOf, SMap.getD, SMap.find?_set_self]
  rfl

/-- A layer's constants, from its state line (R338). -/
def State.constsOf (s : State) (p : Nat) (l : LayerRec) (state : Line) (kappa rho : FNum) : Consts :=
  let q := s.products p l (layerState state).2.1 (layerState state).2.2
  s.consts p l q.1 q.2 kappa rho

/-- The other sums of a layer that pass 1 adds to, and what it counts of a shard's reads (R335, R339). -/
def otherSums (p : Nat) (i : Image) (l : LayerRec) (d : ShardData) (c : Consts) : Act := Act.all [
  addSum p l.w2Sum (wideEach (blockVals d.w)),
  Act.when (l.rule == 1) (addSum p l.u2Sum (wideEach (d.elements.map (fun e => u0Of c e.1 e.2.1 e.2.2.1 e.2.2.2)))),
  Act.when d.stateBad (causeNow p cPoison), countReads p i l d]

/-- Pass 1 reads a shard, makes its sums and ends in the count of its elements. -/
theorem run_passOneShard (p : Nat) (i : Image) (l : LayerRec) (h : ShardRec) (s : State) :
    ∃ v c, (passOneShard p i l h).run s = (bump (pk .UPD_P1_ELEM p) (256 * h.blocks)).run
      ((otherSums p i l (s.shardAt p (s.ver p) l h) c).run ((addSum p l.g2Sum (s.gradSquares p h)).run v)) ∧
      RueKept id id beforeFlds s v := by
  obtain ⟨v, hv, hsv⟩ := readShard_takes workKeeps_before p (s.ver p) l h _ s
  refine ⟨v, v.constsOf p l (s.shardAt p (s.ver p) l h).state oneN oneN, ?_, hsv⟩
  rw [passOneShard, Act.run_ask, hv, Act.run_ask]
  dsimp only
  rw [Act.run_all_next, Act.run_all_next, Act.run_all_next, Act.run_all_next, Act.run_all_next, Act.run_all_last, otherSums,
    Act.run_all_next, Act.run_all_next, Act.run_all_next, Act.run_all_last]
  rfl

section
variable {r : State} (p : Nat) (i : Image) (l : LayerRec) (d : ShardData) (c : Consts)

theorem rueDone_otherSums : (otherSums p i l d c).Keeps (RueKept RueSt.rueDone id beforeFlds r) :=
  Act.keeps_list ⟨rueKept_addSum (fun _ _ _ => rfl) p _ _, Act.keeps_when (rueKept_addSum (fun _ _ _ => rfl) p _ _),
    Act.keeps_when (rueKept_causeNow (fun _ _ => rfl) p _), rueKept_countReads (by decide) p i l d⟩

theorem sumOf_otherSums (hw : l.g2Sum ≠ l.w2Sum) (hu : l.g2Sum ≠ l.u2Sum) :
    (otherSums p i l d c).Keeps (RueKept (RueSt.sumOf l.g2Sum) id beforeFlds r) :=
  Act.keeps_list ⟨rueKept_addSum_of_ne hw p _, Act.keeps_when (rueKept_addSum_of_ne hu p _),
    Act.keeps_when (rueKept_causeNow (fun _ _ => rfl) p _), rueKept_countReads (by decide) p i l d⟩

end

/-- Pass 1 over a shard counts its elements and leaves memory alone (R335). -/
theorem passOneShard_counts (p : Nat) (i : Image) (l : LayerRec) (h : ShardRec) (s : State) :
    RueKept RueSt.rueDone id shownFlds s ((passOneShard p i l h).run s) ∧
    ((passOneShard p i l h).run s).rd (pk .UPD_P1_ELEM p) = s.counted (pk .UPD_P1_ELEM p) (256 * h.blocks) := by
  obtain ⟨v, c, hrun, hsv⟩ := run_passOneShard p i l h s
  have hsums : RueKept RueSt.rueDone id beforeFlds s ((otherSums p i l (s.shardAt p (s.ver p) l h) c).run
      ((addSum p l.g2Sum (s.gradSquares p h)).run v)) :=
    rueDone_otherSums p i l _ c _ (rueKept_addSum (fun _ _ _ => rfl) p _ _ v (hsv.part (List.Subset.refl _)))
  rw [hrun]
  refine ⟨rueKept_bump (show Fld.UPD_P1_ELEM ∉ shownFlds by decide) _ _ (hsums.fewer shownFlds_subset), ?_⟩
  rw [rd_bump_self]
  exact State.counted_congr (hsums.rd _ (show Fld.UPD_P1_ELEM ∈ beforeFlds by decide)) _

/-- It adds the shard's squared gradients to their sum. -/
theorem passOneShard_sums {l : LayerRec} (hw : l.g2Sum ≠ l.w2Sum) (hu : l.g2Sum ≠ l.u2Sum) (p : Nat) (i : Image) (h : ShardRec) (s : State) :
    (((passOneShard p i l h).run s).pile p).rue.sumOf l.g2Sum = ((s.pile p).rue.sumOf l.g2Sum).add (s.gradSquares p h) := by
  obtain ⟨v, c, hrun, hsv⟩ := run_passOneShard p i l h s
  have hrue : (v.pile p).rue = (s.pile p).rue := hsv.rue p
  rw [hrun, pile_bump, (RueKept.of_keeps (sumOf_otherSums p i l _ c hw hu)).rue p, sumOf_addSum, hrue]

theorem gradSquares_rueKept {β : Type} {f : RueSt → β} {fs : List Fld} {s t : State} (h : RueKept f id fs s t) (hfs : placeFlds ⊆ fs)
    (p : Nat) (x : ShardRec) : t.gradSquares p x = s.gradSquares p x := by
  simp only [State.gradSquares, rueRun_rueKept h hfs]

/-- What pass 1 leaves of some shards of a layer (R335, R339). -/
structure PassOneSums (s t : State) (p : Nat) (l : LayerRec) (hs : List ShardRec) : Prop where
  count : t.rd (pk .UPD_P1_ELEM p) = s.counted (pk .UPD_P1_ELEM p) ((hs.map (fun h => 256 * h.blocks)).sum)
  dram  : t.dram = s.dram
  sums  : ∀ h, hs = [h] → l.g2Sum ≠ l.w2Sum → l.g2Sum ≠ l.u2Sum →
    (t.pile p).rue.sumOf l.g2Sum = ((s.pile p).rue.sumOf l.g2Sum).add (s.gradSquares p h)

/-- Pass 1 in its place. -/
theorem updatePass1_sums {s : State} {p : PileId} {n : Nat} {i : Image} {l : LayerRec} (himg : s.job.image = some i)
    (hlayer : i.update.layers[n]? = some l) (hgo : s.RueGo p.val false) (hnow : s.passOneNow p.val i l = true)
    (hne : s.ownShards i p.val l ≠ []) : ∃ t, exec (.updatePass1 p n) s = .next t ∧ PassShown s t p.val n ∧
      PassOneSums s t p.val l (s.ownShards i p.val l) := by
  generalize hs : s.ownShards i p.val l = shards at hne
  generalize hw : s.layerBegun p.val n 1 = w
  have hrun : exec (.updatePass1 p n) s = .next ((opDone p.val).run ((Act.each shards (passOneShard p.val i l)).run w)) := by
    rw [← hs, ← hw]
    exact congrArg Host.Outcome.next (run_onLayer himg hlayer hgo hnow)
  have hbegun : RueKept (fun x => (x.rueDone, x.sumOf l.g2Sum)) id elemFlds s w := hw ▸ layerBegun_kept (fun _ _ => rfl) s p.val n 1
  obtain ⟨hdone, hsum⟩ := Prod.mk.inj (hbegun.rue p.val)
  obtain ⟨hkept, hcount⟩ := each_counts (I := RueKept RueSt.rueDone id shownFlds w) (k := pk .UPD_P1_ELEM p.val)
    (g := passOneShard p.val i l) (fun h _ u hu => ⟨hu.trans (passOneShard_counts p.val i l h u).1, (passOneShard_counts p.val i l h u).2⟩)
    hne (.refl w)
  refine ⟨_, hrun, passShown_opDone hdone hbegun.sram (hw ▸ layer_layerBegun s p.val n 1) hkept, ?_, ?_, fun h hone hw2 hu2 => ?_⟩
  · rw [opDone, rd_modRue, hcount]
    exact State.counted_congr (hbegun.rd _ (show Fld.UPD_P1_ELEM ∈ elemFlds by decide)) _
  · exact hkept.dram.trans hbegun.dram
  · rw [hone, run_each_one, opDone, pile_modRue]
    refine (passOneShard_sums hw2 hu2 p.val i h w).trans ?_
    rw [hsum, gradSquares_rueKept hbegun (by decide)]

end Sys2Proof.Machine
end

section
/-! PROOFS. Pass 2 (R341, R342, R345): it steps each shard into the shadow version, or copies the committed one. -/

namespace Sys2Proof.Machine

/-- What pass 2 goes by in the RUE and leaves: the count of operations and the schedules' values. -/
def RueSt.given (x : RueSt) : Nat × List Word := (x.rueDone, x.scheds)

theorem rueDone_of_given {γ : Type} {m : SMap Codeword → γ} {fs : List Fld} {s t : State} (h : RueKept RueSt.given m fs s t) :
    RueKept RueSt.rueDone m fs s t := ⟨fun q => congrArg Prod.fst (h.rue q), h.dram, h.sram, h.rd⟩

theorem products_rueKept {γ : Type} {m : SMap Codeword → γ} {fs : List Fld} {s t : State} (h : RueKept RueSt.given m fs s t) (p : Nat)
    (l : LayerRec) (p1 p2 : Word) : t.products p l p1 p2 = s.products p l p1 p2 := by
  have hscheds : (t.pile p).rue.scheds = (s.pile p).rue.scheds := congrArg Prod.snd (h.rue p)
  simp only [State.products, State.sched, hscheds]

/-- The state line that pass 2 writes for one that it reads (R338, R339). -/
def State.stepped (s : State) (p : Nat) (l : LayerRec) (x : Line) : Line :=
  let q := s.products p l (layerState x).2.1 (layerState x).2.2
  { layerStateLine (((layerState x).1 + 1) % 2 ^ 64) q.1 q.2 with poison := x.poison || x.tagByte 3 != 0xF0 }

theorem stepped_rueKept {γ : Type} {m : SMap Codeword → γ} {fs : List Fld} {s t : State} (h : RueKept RueSt.given m fs s t) (p : Nat)
    (l : LayerRec) (x : Line) : t.stepped p l x = s.stepped p l x := by
  simp only [State.stepped, products_rueKept h]

/-- What pass 2 writes of a shard after its state line: weights, the second moment, and two copies with their trailers (R345, R346). -/
def shadowLines (p : Nat) (l : LayerRec) (h : ShardRec) (base count : Nat) (enc : Nat → EncDesc) (bad : Nat → Bool) (v w : List FNum) : Act :=
  let put (j line : Nat) (xs : List FNum) (k : List Line → Act) : Act :=
    writeBlocks p (enc j) (max 1 (l.cols / 16)) h.firstBlock line bad (chunks 256 xs xs.length) 0 k
  let copies := base + 10 * h.blocks + 1 + (if hasV l.rule then 2 * h.blocks else 0)
  Act.all [
    Act.each ((chunks 256 w w.length).mapIdx (fun j x => (j, x))) (fun jx =>
      (putLines p .dram 0 (base + 1 + 8 * jx.1) (fp32Lines jx.2 (bad jx.1))).seq (countWritten p jx.2 (bad jx.1))),
    Act.when (hasV l.rule) (put 1 (base + 10 * h.blocks + 1) v (fun _ => .done)),
    put 2 copies w (fun fs => put 3 (copies + h.blocks + 1) w (fun bs =>
      let tr := shardTrailer h.id count (shardDigest h.id fs) (shardDigest h.id bs)
      (putLine p .dram 0 (copies + h.blocks) tr).seq (putLine p .dram 0 (copies + h.blocks + 1 + 2 * h.blocks) tr)))]

/-- A shard's elements after their step: moments and weights (R336). -/
def ShardData.stepsOf (d : ShardData) (l : LayerRec) (c : Consts) : List (FNum × FNum × FNum) :=
  d.elements.map (fun e => stepElement l c e.1 e.2.1 e.2.2.1 e.2.2.2)

section
variable {s : State} {p : Nat} (harm : s.on (pk .MEM_INJECT_ARMED p) = false) (i : Image) (l : LayerRec) (kappa rho : FNum) (h : ShardRec)
include harm

/-- They leave the state line, which stands before them. -/
theorem rueKept_shadowLines (base count : Nat) (enc : Nat → EncDesc) (bad : Nat → Bool) (v w : List FNum) :
    (shadowLines p l h base count enc bad v w).Keeps (RueKept RueSt.given (wordOf p base) beforeFlds s) := by
  have hf : ∀ (x : RueSt) c, { x with causes := c }.given = x.given := fun _ _ => rfl
  have hm : ∀ x, base < x → Blind (wordOf p base) p x := fun x hx => (blind_wordOf p base).mono hx
  refine Act.keeps_list ⟨Act.keeps_each fun x _ => ?_, Act.keeps_when ?_, ?_⟩
  · exact Act.keeps_seq (rueKept_putLines hf workKeeps_before harm (hm _ (by omega)) _)
      (Act.keeps_when (rueKept_countXo (by decide) p 0 5 _))
  · exact rueKept_writeBlocks hf workKeeps_before harm (hm _ (by omega)) _ _ _ _ _ _ fun _ => Act.keeps_done _
  · refine rueKept_writeBlocks hf workKeeps_before harm (hm _ (by omega)) _ _ _ _ _ _ fun _ =>
      rueKept_writeBlocks hf workKeeps_before harm (hm _ (by omega)) _ _ _ _ _ _ fun _ => ?_
    exact Act.keeps_seq (rueKept_putLine hf workKeeps_before harm (hm _ (by omega)) _)
      (rueKept_putLine hf workKeeps_before harm (hm _ (by omega)) _)

/-- Pass 2 over a shard: what comes before the shard's new state line, that line, the lines after it, and the elements' count. -/
theorem run_passTwoShard : ∃ (u : State) (count : Nat) (enc : Nat → EncDesc) (bad : Nat → Bool) (v w : List FNum),
    let base := shardBase h (1 - s.ver p)
    (passTwoShard p i l kappa rho h).run s = (bump (pk .UPD_P2_ELEM p) (256 * h.blocks)).run ((shadowLines p l h base count enc bad v w).run
      ((putLine p .dram 0 base (s.stepped p l (s.rueLine p .dram (shardBase h (s.ver p))))).run u)) ∧
    RueKept RueSt.given (fun _ => ()) beforeFlds s u := by
  have hf : ∀ (x : RueSt) c, { x with causes := c }.given = x.given := fun _ _ => rfl
  have hxo : Fld.XO_OP_COUNT ∉ beforeFlds := by decide
  obtain ⟨t, ht, hst⟩ := readShard_takes workKeeps_before p (s.ver p) l h _ s
  have hgiven : RueKept RueSt.given (fun _ => ()) beforeFlds s t := hst.part (List.Subset.refl _)
  have hcounted := rueKept_countReads hxo p i l (s.shardAt p (s.ver p) l h) t hgiven
  have hmoment : ∀ b e ls, (Act.when b (countMoment p e ls)).Keeps (RueKept RueSt.given (fun _ => ()) beforeFlds s) := fun _ _ _ =>
    Act.keeps_when (Act.keeps_seq (rueKept_countHealth p _ _ _) (rueKept_countXo hxo p 0 5 _))
  rw [passTwoShard, Act.run_ask, ht, Act.run_ask]
  dsimp only
  rw [Act.run_seq]
  obtain ⟨ls, u, hu, hsu⟩ := writeBlocks_writes hf workKeeps_before harm (blind_unit p _) _ _ _ _ _ _ _ hcounted
  rw [hu, Act.run_all_next, Act.run_all_next, Act.run_all_next, Act.run_all_next, Act.run_all_next, Act.run_all_last]
  let d := s.shardAt p (s.ver p) l h
  let c := t.constsOf p l d.state kappa rho
  let enc (j : Nat) : EncDesc := i.update.encs.getD (l.encIdx + j) ⟨0, 0xFFF, 8, false, false, 0⟩
  refine ⟨_, ((layerState d.state).1 + 1) % 2 ^ 64, enc, d.blockBad,
    (d.stepsOf l c).map (fun e => e.2.1), if l.rule = 2 then orthoWeights l c ls (blockVals d.w) else (d.stepsOf l c).map (fun e => e.2.2),
    ?_, hmoment (l.rule == 2) (enc 0) ls u hsu⟩
  rw [← stepped_rueKept hgiven, shadowLines, Act.run_all_next, Act.run_all_next, Act.run_all_last]
  rfl

/-- Around the new state line all is kept, and what follows it keeps the line too. -/
theorem passTwoShard_writes : ∃ u v : State, let base := shardBase h (1 - s.ver p)
    (passTwoShard p i l kappa rho h).run s = (bump (pk .UPD_P2_ELEM p) (256 * h.blocks)).run v ∧
    RueKept RueSt.given (fun _ => ()) beforeFlds s u ∧ RueKept RueSt.given (fun _ => ()) beforeFlds s v ∧
    v.dramWord (dramAddr p base) =
      ((putLine p .dram 0 base (s.stepped p l (s.rueLine p .dram (shardBase h (s.ver p))))).run u).dramWord (dramAddr p base) := by
  obtain ⟨u, count, enc, bad, v, w, hrun, hsu⟩ := run_passTwoShard harm i l kappa rho h
  have hstate := rueKept_putLine (fun _ _ => rfl) workKeeps_before harm (blind_unit p (shardBase h (1 - s.ver p)))
    (s.stepped p l (s.rueLine p .dram (shardBase h (s.ver p)))) u hsu
  have hlines := RueKept.of_keeps (rueKept_shadowLines (unarmed_rueKept hstate workKeeps_before.place harm) l h
    (shardBase h (1 - s.ver p)) count enc bad v w)
  exact ⟨u, _, hrun, hsu, hstate.trans (hlines.anyDram (List.Subset.refl _)), hlines.dram⟩

/-- Its work keeps what it goes by, and it counts its elements. -/
theorem passTwoShard_counts : RueKept RueSt.given (fun _ => ()) shownFlds s ((passTwoShard p i l kappa rho h).run s) ∧
    ((passTwoShard p i l kappa rho h).run s).rd (pk .UPD_P2_ELEM p) = s.counted (pk .UPD_P2_ELEM p) (256 * h.blocks) := by
  obtain ⟨u, v, hrun, -, hsv, -⟩ := passTwoShard_writes harm i l kappa rho h
  rw [hrun, rd_bump_self]
  exact ⟨rueKept_bump (show Fld.UPD_P2_ELEM ∉ shownFlds by decide) _ _ (hsv.fewer shownFlds_subset),
    State.counted_congr (hsv.rd _ (show Fld.UPD_P2_ELEM ∈ beforeFlds by decide)) _⟩

end

/-- The shadow version's state line is the committed one's stepped (R338, R341). -/
theorem passTwoShard_steps {s : State} {p : Nat} (hp : p < 16) (hplain : s.memPlain p) {h : ShardRec}
    (hbase : shardBase h (1 - s.ver p) < dramLines) (i : Image) (l : LayerRec) (kappa rho : FNum) :
    ((passTwoShard p i l kappa rho h).run s).dramWord (dramAddr p (shardBase h (1 - s.ver p))) =
      encodeWord (s.stepped p l (s.rueLine p .dram (shardBase h (s.ver p)))) := by
  obtain ⟨u, v, hrun, hsu, -, hword⟩ := passTwoShard_writes hplain.2 i l kappa rho h
  rw [hrun, run_bump, Upd.dramWord_reg, hword]
  exact (putLine_word hp hbase (memPlain_rueKept hsu workKeeps_before.place hplain) _).1

/-! ## Suppressed (R342) -/

/-- The committed version of a shard is copied, and its elements counted. -/
def copyShard (p ver : Nat) (l : LayerRec) (h : ShardRec) : Act :=
  (copyLines p (shardBase h ver) (shardBase h (1 - ver)) (stateLines l.rule h.blocks)).seq (bump (pk .UPD_P2_ELEM p) (256 * h.blocks))

/-- The residual copies of a layer's buckets on a pile. -/
def copyResiduals (p ver : Nat) (i : Image) (l : LayerRec) : Act :=
  Act.each (i.contribs.filter (fun c => c.pile == p)) (fun c => match bucketOf i c.bucket with
    | some b => Act.when (b.comp != 0 && bucketInLayer i l b)
        (copyLines p (c.resLine + 8 * b.blocks * ver) (c.resLine + 8 * b.blocks * (1 - ver)) (8 * b.blocks))
    | none => .done)

/-- UPD_STATUS shows that the pass is suppressed, which counts once. -/
def showSuppressed (p : Nat) : Act := .ask fun s =>
  Act.when (!s.on (pk .UPD_STATUS_SUPPRESSED p)) ((setR (pk .UPD_STATUS_SUPPRESSED p) 1).seq (bump (pk .UPD_SUPPRESS p)))

theorem run_copyLayer (p : Nat) (i : Image) (l : LayerRec) (s : State) : (copyLayer p i l).run s =
    (copyResiduals p (s.ver p) i l).run ((Act.each (s.ownShards i p l) (copyShard p (s.ver p) l)).run ((showSuppressed p).run s)) := by
  rw [copyLayer, Act.run_ask, Act.run_all_next, Act.run_all_next, Act.run_all_last]
  rfl

theorem showSuppressed_shows (p : Nat) (s : State) : ((showSuppressed p).run s).on (pk .UPD_STATUS_SUPPRESSED p) = true ∧
    RueKept RueSt.given id (.UPD_P2_ELEM :: shownFlds) s ((showSuppressed p).run s) := by
  have hset : ((bump (pk .UPD_SUPPRESS p)).run ((setR (pk .UPD_STATUS_SUPPRESSED p) 1).run s)).rd (pk .UPD_STATUS_SUPPRESSED p) = 1 :=
    (rd_bump_of_ne _ (show Fld.UPD_STATUS_SUPPRESSED ≠ .UPD_SUPPRESS by decide) 1).trans (rd_setR_self _ _ _)
  refine ⟨?_, .of_keeps (Act.keeps_asked fun _ => Act.keeps_when (Act.keeps_seq
    (rueKept_setR (show Fld.UPD_STATUS_SUPPRESSED ∉ Fld.UPD_P2_ELEM :: shownFlds by decide) 1)
    (rueKept_bump (show Fld.UPD_SUPPRESS ∉ Fld.UPD_P2_ELEM :: shownFlds by decide) 1)))⟩
  rw [showSuppressed, Act.run_ask, Act.run_when, Act.run_seq]
  split
  · rw [State.on, hset]
    rfl
  next hon => simpa using hon

/-- The fields that suppressed work keeps. -/
def copyFlds : List Fld := .UPD_STATUS_SUPPRESSED :: shownFlds

theorem workKeeps_copy : WorkKeeps copyFlds := ⟨by decide, by decide⟩

section
variable {s : State} {p : Nat} (harm : s.on (pk .MEM_INJECT_ARMED p) = false)
include harm

theorem copyShard_counts (ver : Nat) (l : LayerRec) (h : ShardRec) :
    RueKept RueSt.given (fun _ => ()) copyFlds s ((copyShard p ver l h).run s) ∧
    ((copyShard p ver l h).run s).rd (pk .UPD_P2_ELEM p) = s.counted (pk .UPD_P2_ELEM p) (256 * h.blocks) := by
  rw [copyShard, Act.run_seq, rd_bump_self]
  have hcopied : RueKept RueSt.given (fun _ => ()) beforeFlds s
      ((copyLines p (shardBase h ver) (shardBase h (1 - ver)) (stateLines l.rule h.blocks)).run s) :=
    .of_keeps (rueKept_copyLines (fun _ _ => rfl) workKeeps_before harm (blind_unit p _))
  exact ⟨rueKept_bump (show Fld.UPD_P2_ELEM ∉ copyFlds by decide) _ _ (hcopied.fewer (by decide)),
    State.counted_congr (hcopied.rd _ (show Fld.UPD_P2_ELEM ∈ beforeFlds by decide)) _⟩

theorem rueKept_copyResiduals (ver : Nat) (i : Image) (l : LayerRec) :
    (copyResiduals p ver i l).Keeps (RueKept RueSt.given (fun _ => ()) beforeFlds s) := by
  refine Act.keeps_each fun c _ => ?_
  split
  · exact Act.keeps_when (rueKept_copyLines (fun _ _ => rfl) workKeeps_before harm (blind_unit p _))
  · exact Act.keeps_done _

end

/-- What a suppressed pass leaves of a layer. -/
structure Suppressed (s t : State) (p : Nat) (i : Image) (l : LayerRec) (hs : List ShardRec) : Prop where
  kept  : RueKept RueSt.given (fun _ => ()) shownFlds s t
  shown : t.on (pk .UPD_STATUS_SUPPRESSED p) = true
  count : t.rd (pk .UPD_P2_ELEM p) = s.counted (pk .UPD_P2_ELEM p) ((hs.map (fun h => 256 * h.blocks)).sum)
  lines : ∀ h, hs = [h] → s.ver p ≤ 1 → stateLines l.rule h.blocks ≤ h.vstride → (∀ c ∈ i.contribs, c.pile ≠ p) →
    h.stateLine + 2 * h.vstride ≤ dramLines → ∀ j, j < stateLines l.rule h.blocks →
    t.dramWord (dramAddr p (shardBase h (1 - s.ver p) + j)) = encodeWord (s.rueLine p .dram (shardBase h (s.ver p) + j))

theorem shardBase_apart {h : ShardRec} {n v i j : Nat} (hn : n ≤ h.vstride) (hv : v ≤ 1) (hi : i < n) (hj : j < n) :
    shardBase h v + i ≠ shardBase h (1 - v) + j := by
  obtain rfl | rfl : v = 0 ∨ v = 1 := by omega
  all_goals simp only [shardBase]; omega

theorem shardBase_end {h : ShardRec} {n v : Nat} (hn : n ≤ h.vstride) (hend : h.stateLine + 2 * h.vstride ≤ dramLines) (hv : v ≤ 1) :
    shardBase h (1 - v) + n ≤ dramLines := by
  obtain rfl | rfl : v = 0 ∨ v = 1 := by omega
  all_goals simp only [shardBase]; omega

theorem copyLayer_suppressed {s : State} {p : Nat} (hp : p < 16) (hplain : s.memPlain p) {i : Image} {l : LayerRec}
    (hne : s.ownShards i p l ≠ []) : Suppressed s ((copyLayer p i l).run s) p i l (s.ownShards i p l) := by
  generalize hs : s.ownShards i p l = shards at hne
  obtain ⟨hshown, hflag⟩ := showSuppressed_shows p s
  have hrun := run_copyLayer p i l s
  generalize (showSuppressed p).run s = u at hshown hflag hrun
  rw [hs] at hrun
  have hplain' : u.memPlain p := memPlain_rueKept hflag (by decide) hplain
  have hone : ∀ h ∈ shards, ∀ t, RueKept RueSt.given (fun _ => ()) copyFlds u t →
      RueKept RueSt.given (fun _ => ()) copyFlds u ((copyShard p (s.ver p) l h).run t) ∧
      ((copyShard p (s.ver p) l h).run t).rd (pk .UPD_P2_ELEM p) = t.counted (pk .UPD_P2_ELEM p) (256 * h.blocks) := fun h _ t ht => by
    obtain ⟨hkept, hcount⟩ := copyShard_counts (unarmed_rueKept ht workKeeps_copy.place hplain'.2) (s.ver p) l h
    exact ⟨ht.trans hkept, hcount⟩
  obtain ⟨hshards, hcount⟩ := each_counts hone hne (.refl u)
  have hres : RueKept RueSt.given (fun _ => ()) beforeFlds _ _ :=
    .of_keeps (rueKept_copyResiduals (unarmed_rueKept hshards workKeeps_copy.place hplain'.2) (s.ver p) i l)
  rw [hrun]
  refine ⟨?_, ?_, ?_, fun h hone hver hstride hcontribs hend j hj => ?_⟩
  · exact (hflag.anyDram (by decide)).trans ((hshards.fewer (by decide)).trans (hres.fewer shownFlds_subset))
  · rw [hres.on (show Fld.UPD_STATUS_SUPPRESSED ∈ beforeFlds by decide), hshards.on (show Fld.UPD_STATUS_SUPPRESSED ∈ copyFlds by decide), hshown]
  · rw [hres.rd _ (show Fld.UPD_P2_ELEM ∈ beforeFlds by decide), hcount]
    exact State.counted_congr (hflag.rd _ List.mem_cons_self) _
  · have hnone : i.contribs.filter (fun c => c.pile == p) = [] := List.filter_eq_nil_iff.mpr fun c hc => by simp [hcontribs c hc]
    have hcopied := copyLines_copied workKeeps_copy hp (shardBase_end hstride hend hver)
      (fun a b ha hb => shardBase_apart hstride hver ha hb) hplain'
    rw [copyResiduals, hnone, Act.run_each_nil, hone, run_each_one, copyShard, Act.run_seq, run_bump, Upd.dramWord_reg,
      hcopied.lines j hj, rueLine_rueKept hflag (by decide)]

/-! ## The row -/

/-- The lines of the fused result, as a pile's buffer holds them (R174, R314). -/
def State.fusedLines (s : State) (p : Nat) (i : Image) : List Line :=
  s.rueRun p .buf ((i.fused.map FusedDecl.fusedLine).getD 0) (1 + extLines i.update)

/-- What pass 2 does with a layer, once the fused result is read (R341, R342). -/
def layerStep (p : Nat) (i : Image) (l : LayerRec) (shards : List ShardRec) (suppressed : Bool) (kappa rho : FNum) : Act :=
  if suppressed then copyLayer p i l else Act.each shards (passTwoShard p i l kappa rho)

theorem rueKept_noteKappa {fs : List Fld} (hfs : Fld.UPD_KAPPA ∉ fs) {r : State} (p : Nat) (k : FNum) (owned : Bool) :
    (noteKappa p k owned).Keeps (RueKept RueSt.given id fs r) :=
  Act.keeps_asked fun _ => Act.keeps_list ⟨Act.keeps_when (rueKept_setR hfs _), rueKept_modRue p fun _ => rfl⟩

theorem run_passTwo (p : Nat) (i : Image) (l : LayerRec) (ls : List Line) (v : State) : ∃ (w : State) (kappa rho : FNum),
    (passTwo p i l ls).run v = (layerStep p i l (v.ownShards i p l) (suppresses ls) kappa rho).run w ∧
    RueKept RueSt.given id beforeFlds v w := by
  have hnoted : ∀ b k owned, RueKept RueSt.given id beforeFlds v ((Act.when b (noteKappa p k owned)).run v) := fun _ k owned =>
    .of_keeps (Act.keeps_when (rueKept_noteKappa (by decide) p k owned))
  rw [passTwo, Act.run_ask, Act.run_seq]
  exact ⟨_, _, _, rfl, hnoted _ _ _⟩

/-- Pass 2 begins, and reads the fused result with what it needs of the step unchanged. -/
theorem updatePass2_begins {s : State} {p : PileId} {n : Nat} {i : Image} {l : LayerRec} (himg : s.job.image = some i)
    (hlayer : i.update.layers[n]? = some l) (hgo : s.RueGo p.val true) (hhere : s.fusedHere p.val i = true) :
    ∃ (w : State) (kappa rho : FNum), exec (.updatePass2 p n) s = .next ((opDone p.val).run
        ((layerStep p.val i l (s.ownShards i p.val l) (suppresses (s.fusedLines p.val i)) kappa rho).run w)) ∧
      RueKept RueSt.given id elemFlds s w ∧ w.rd (pk .UPD_STATUS_LAYER p.val) = clipTo Fld.UPD_STATUS_LAYER.width n := by
  have hbegun : RueKept RueSt.given id elemFlds s (s.layerBegun p.val n 2) := layerBegun_kept (fun _ _ => rfl) s p.val n 2
  obtain ⟨v, hv, hkept⟩ := rueLines_takes workKeeps_before p.val .buf ((i.fused.map FusedDecl.fusedLine).getD 0) (1 + extLines i.update)
    (passTwo p.val i l) (s.layerBegun p.val n 2)
  rw [rueRun_rueKept hbegun (by decide)] at hv
  obtain ⟨w, kappa, rho, hw, hvw⟩ := run_passTwo p.val i l (s.fusedLines p.val i) v
  have hstep : RueKept RueSt.given id beforeFlds (s.layerBegun p.val n 2) w := (hkept.part (List.Subset.refl _)).trans hvw
  refine ⟨w, kappa, rho, ?_, hbegun.trans (hstep.fewer elemFlds_subset),
    (hstep.rd _ (show Fld.UPD_STATUS_LAYER ∈ beforeFlds by decide)).trans (layer_layerBegun s p.val n 2)⟩
  have hrun : exec (.updatePass2 p n) s = .next ((opDone p.val).run
      ((readFused p.val i (passTwo p.val i l)).run (s.layerBegun p.val n 2))) :=
    congrArg Host.Outcome.next (run_onLayer himg hlayer hgo hhere)
  rw [hrun]
  exact congrArg (fun t => Host.Outcome.next ((opDone p.val).run t)) (hv.trans hw)

/-- What pass 2 leaves of some shards of a layer (R341, R342). -/
structure PassTwoLines (s t : State) (p : Nat) (i : Image) (l : LayerRec) (hs : List ShardRec) : Prop where
  count   : t.rd (pk .UPD_P2_ELEM p) = s.counted (pk .UPD_P2_ELEM p) ((hs.map (fun h => 256 * h.blocks)).sum)
  shown   : suppresses (s.fusedLines p i) = true → t.on (pk .UPD_STATUS_SUPPRESSED p) = true
  copied  : suppresses (s.fusedLines p i) = true → ∀ h, hs = [h] → s.ver p ≤ 1 → stateLines l.rule h.blocks ≤ h.vstride →
    (∀ c ∈ i.contribs, c.pile ≠ p) → h.stateLine + 2 * h.vstride ≤ dramLines → ∀ j, j < stateLines l.rule h.blocks →
    t.dramWord (dramAddr p (shardBase h (1 - s.ver p) + j)) = encodeWord (s.rueLine p .dram (shardBase h (s.ver p) + j))
  stepped : suppresses (s.fusedLines p i) = false → ∀ h, hs = [h] → shardBase h (1 - s.ver p) < dramLines →
    t.dramWord (dramAddr p (shardBase h (1 - s.ver p))) = encodeWord (s.stepped p l (s.rueLine p .dram (shardBase h (s.ver p))))

/-- Pass 2 with the whole fused result. -/
theorem updatePass2_lines {s : State} {p : PileId} {n : Nat} {i : Image} {l : LayerRec} (himg : s.job.image = some i)
    (hlayer : i.update.layers[n]? = some l) (hgo : s.RueGo p.val true) (hhere : s.fusedHere p.val i = true)
    (hne : s.ownShards i p.val l ≠ []) : ∃ t, exec (.updatePass2 p n) s = .next t ∧ PassShown s t p.val n ∧
      PassTwoLines s t p.val i l (s.ownShards i p.val l) := by
  obtain ⟨w, kappa, rho, hrun, hsw, hlayerShown⟩ := updatePass2_begins himg hlayer hgo hhere
  have hplain : w.memPlain p.val := memPlain_rueKept hsw (by decide) hgo.plain
  have hver : w.ver p.val = s.ver p.val := ver_rueKept hsw (by decide) p.val
  have hdone : (w.pile p.val).rue.rueDone = (s.pile p.val).rue.rueDone := congrArg Prod.fst (hsw.rue p.val)
  have hline : ∀ x, w.rueLine p.val .dram x = s.rueLine p.val .dram x := rueLine_rueKept hsw (by decide) p.val .dram
  have hcount : ∀ m, w.counted (pk .UPD_P2_ELEM p.val) m = s.counted (pk .UPD_P2_ELEM p.val) m :=
    State.counted_congr (hsw.rd _ (show Fld.UPD_P2_ELEM ∈ elemFlds by decide))
  have hopd : ∀ u k, ((opDone p.val).run u).rd k = u.rd k := fun u k => rd_modRue p.val _ u k
  cases hsup : suppresses (s.fusedLines p.val i) with
  | true =>
    have h : Suppressed w _ p.val i l (s.ownShards i p.val l) := copyLayer_suppressed p.isLt hplain hne
    have hlines := h.lines
    simp only [hver, hline] at hlines
    rw [hsup, layerStep, if_pos rfl] at hrun
    exact ⟨_, hrun, passShown_opDone hdone hsw.sram hlayerShown (rueDone_of_given h.kept),
      (hopd _ _).trans (h.count.trans (hcount _)), fun _ => h.shown, fun _ => hlines, fun hno => absurd (hsup.symm.trans hno) nofun⟩
  | false =>
    have hshard : ∀ h ∈ s.ownShards i p.val l, ∀ t, RueKept RueSt.given (fun _ => ()) shownFlds w t →
        RueKept RueSt.given (fun _ => ()) shownFlds w ((passTwoShard p.val i l kappa rho h).run t) ∧
        ((passTwoShard p.val i l kappa rho h).run t).rd (pk .UPD_P2_ELEM p.val) = t.counted (pk .UPD_P2_ELEM p.val) (256 * h.blocks) :=
      fun h _ t ht => by
        obtain ⟨hkept, hn⟩ := passTwoShard_counts (unarmed_rueKept ht (by decide) hplain.2) i l kappa rho h
        exact ⟨ht.trans hkept, hn⟩
    obtain ⟨hkept, hn⟩ := each_counts hshard hne (.refl w)
    rw [hsup, layerStep, if_neg Bool.false_ne_true] at hrun
    refine ⟨_, hrun, passShown_opDone hdone hsw.sram hlayerShown (rueDone_of_given hkept), (hopd _ _).trans (hn.trans (hcount _)),
      fun hyes => absurd (hsup.symm.trans hyes) nofun, fun hyes => absurd (hsup.symm.trans hyes) nofun, fun _ h hone hbase => ?_⟩
    have hstep := passTwoShard_steps p.isLt hplain (by rw [hver]; exact hbase) i l kappa rho
    rw [hver, hline, stepped_rueKept hsw] at hstep
    rw [hone, run_each_one]
    exact hstep

end Sys2Proof.Machine
end

section

open Sys2Proof Sys2Proof.Machine

/-- Settles O53 (R335, R339, R341, R342). A pass shows its layer, does its shards' work and counts one operation (`run_onLayer`). What a
shard's work reads it reads as it stood, since reads touch neither memory nor the RUE (`readShard_takes`); pass 1 writes nothing, and pass 2
writes the state line once, before lines that all stand after it (`passTwoShard_writes`), or copies lines to a version apart from the one
it reads (`copyLines_copied`). Counters rise shard by shard (`each_counts`). -/
theorem updatesRun : Obligations.UpdatesRun := by
  unfold Obligations.UpdatesRun
  refine ⟨fun s p n i l hs himg hlayer hgo hown hne => ⟨fun hlate => ?_, fun hnow => ?_⟩, fun s p n hwait => ?_,
    fun s p n i l hs himg hlayer hgo hown hne hhere => ?_⟩
  · subst hown
    exact congrArg Host.Outcome.next (onLayer_idle himg fun l' hl' => by
      rw [Option.some.inj (hl'.symm.trans hlayer)]
      exact hlate)
  · subst hown
    obtain ⟨t, ht, hshown, hsums⟩ := updatePass1_sums himg hlayer hgo hnow hne
    exact ⟨t, ht, hshown.done, hshown.layer, hsums.count, hsums.dram, hshown.sram, hsums.sums⟩
  · cases himg : s.job.image with
    | none => exact congrArg Host.Outcome.next (onLayer_imageless himg p.val n 2 true _ _)
    | some i => exact congrArg Host.Outcome.next (onLayer_idle himg fun _ _ => hwait i himg)
  · subst hown
    obtain ⟨t, ht, hshown, hlines⟩ := updatePass2_lines himg hlayer hgo hhere hne
    exact ⟨t, ht, hshown.done, hshown.layer, hlines.count, hshown.sram, hlines.shown, fun h hone hver =>
      ⟨fun hsup => hlines.copied hsup h hone hver, fun hsup => hlines.stepped hsup h hone⟩⟩

end

section
/-! PROOFS. What work beside a unit leaves alone: named fields, what a reading tells of the state, and that nothing waits to be taken up. -/

namespace Sys2Proof.Machine

/-! ## Work beside a unit -/

/-- What `view` tells of the state is unchanged, and so are the named fields; and where nothing waited to be taken up (R431, R442), nothing
does. -/
structure Beside {β : Type} (view : State → β) (fs : List Fld) (before after : State) : Prop where
  seen    : view after = view before
  rd      : ∀ k : FKey, k.f ∈ fs → after.rd k = before.rd k
  settled : before.Settled → after.Settled

/-- Changes beside piles, ports, bridges, power and memory's contents. -/
def Upd.Elsewhere : Upd → Prop
  | .pile _ _ | .port _ _ _ | .bridge _ _ _ | .pwr _ | .restart _ => False
  | _ => True

/-- Such changes that also leave the named fields, the sessions and Lift's own state alone. -/
def Upd.Aside (fs : List Fld) : Upd → Prop
  | .reg k _ => k.f ∉ fs
  | .clearRegs w => ∀ k : FKey, k.f ∈ fs → w k.code = false
  | .pile _ _ | .port _ _ _ | .bridge _ _ _ | .pwr _ | .restart _ | .lift _ | .openSession _ | .setSession _ | .dropSession _ => False
  | _ => True

theorem Upd.Aside.elsewhere {fs : List Fld} {u : Upd} (h : u.Aside fs) : u.Elsewhere := by
  cases u with
  | pile _ _ | port _ _ _ | bridge _ _ _ | pwr _ | restart _ => exact absurd h id
  | _ => trivial

theorem Upd.Aside.spares {fs : List Fld} {u : Upd} (h : u.Aside fs) : u.Spares fs := by
  cases u with
  | reg k v => exact h
  | clearRegs w => exact h
  | restart _ => exact absurd h id
  | _ => trivial

theorem Upd.ofLift_elsewhere (u : Upd) (h : u.ofLift) : u.Elsewhere := by
  cases u with
  | pile _ _ | port _ _ _ | bridge _ _ _ | pwr _ | restart _ => exact absurd h id
  | _ => trivial

theorem Upd.ofLift_spares {fs : List Fld} (hfs : ∀ g ∈ liftFlds, g ∉ fs) (u : Upd) (h : u.ofLift) : u.Spares fs := by
  cases u with
  | reg k v => exact hfs _ h
  | clearRegs _ | restart _ => exact absurd h id
  | _ => trivial

/-- A change of neither sessions nor Lift's state takes nothing up and lets nothing wait. -/
theorem Upd.Aside.settled_apply {fs : List Fld} {u : Upd} (h : u.Aside fs) {s : State} (hs : s.Settled) : (u.apply s).Settled := by
  obtain ⟨hdue, hagain, hparked, hheld⟩ := hs
  cases u with
  | dram a c => exact ⟨by rw [Upd.lift_dram, hdue], by rw [Upd.lift_dram, hagain], by rw [Upd.lift_dram, hparked],
      by rw [Upd.sessions_dram]; exact hheld⟩
  | sram a l => exact ⟨by rw [Upd.lift_sram, hdue], by rw [Upd.lift_sram, hagain], by rw [Upd.lift_sram, hparked],
      by rw [Upd.sessions_sram]; exact hheld⟩
  | openHalf v | pushEvent v =>
    simp only [Upd.apply]
    split <;> exact ⟨hdue, hagain, hparked, hheld⟩
  | pile _ _ | port _ _ _ | bridge _ _ _ | pwr _ | restart _ | lift _ | openSession _ | setSession _ | dropSession _ => exact absurd h id
  | _ => exact ⟨hdue, hagain, hparked, hheld⟩

/-- A reading that no change elsewhere reaches. -/
def Overlooks {β : Type} (view : State → β) : Prop := ∀ (u : Upd) (s : State), u.Elsewhere → view (u.apply s) = view s

/-- The fields that an event's sending may write. -/
def eventFlds : List Fld := .EVT_LOST :: liftFlds

section
variable {β : Type} {view : State → β} {fs : List Fld} {r s t : State}

theorem Beside.refl (s : State) : Beside view fs s s := ⟨rfl, fun _ _ => rfl, id⟩

theorem Beside.trans (h : Beside view fs r s) (k : Beside view fs s t) : Beside view fs r t :=
  ⟨k.seen.trans h.seen, fun q hq => (k.rd q hq).trans (h.rd q hq), fun hr => k.settled (h.settled hr)⟩

/-- An action that keeps it relates the states before and after. -/
theorem Beside.of_keeps {a : Act} (h : a.Keeps (Beside view fs s)) : Beside view fs s (a.run s) := h s (.refl s)

theorem Beside.on (h : Beside view fs s t) {k : FKey} (hk : k.f ∈ fs) : t.on k = s.on k := by rw [State.on, h.rd k hk, State.on]

theorem beside_of {a : Act} (hview : ∀ s, view (a.run s) = view s) (hrd : a.Only (Upd.Spares fs)) (hset : a.Keeps State.Settled) :
    a.Keeps (Beside view fs r) :=
  fun s hs => hs.trans ⟨hview s, fun _ hk => hrd.rd_spared hk s, hset s⟩

/-- A change of a unit that carries no sessions and no fields. -/
theorem beside_unit {u : State → Upd} (hview : ∀ s, view ((u s).apply s) = view s) (hrd : ∀ s, (u s).Spares fs)
    (hset : ∀ s, ((u s).apply s).lift = s.lift ∧ ((u s).apply s).sessions = s.sessions) :
    (Act.ask fun s => emit (u s)).Keeps (Beside view fs r) :=
  beside_of hview (fun s => ⟨hrd s, trivial⟩) fun s hs => by
    obtain ⟨hlift, hses⟩ := hset s
    exact settled_of hs ⟨by rw [Act.run_ask, run_emit, hlift], by rw [Act.run_ask, run_emit, hlift], by rw [Act.run_ask, run_emit, hlift]⟩
      (by rw [Act.run_ask, run_emit, hses]; exact hs.held)

theorem beside_modPile (p : Nat) {f : Pile → Pile} (hview : ∀ s, view ((modPile p f).run s) = view s) :
    (modPile p f).Keeps (Beside view fs r) := beside_unit hview (fun _ => trivial) fun _ => ⟨rfl, rfl⟩
theorem beside_modPort (p k : Nat) {f : Port → Port} (hview : ∀ s, view ((modPort p k f).run s) = view s) :
    (modPort p k f).Keeps (Beside view fs r) := beside_unit hview (fun _ => trivial) fun _ => ⟨rfl, rfl⟩
theorem beside_modPwr {f : PwrSt → PwrSt} (hview : ∀ s, view ((modPwr f).run s) = view s) :
    (modPwr f).Keeps (Beside view fs r) := beside_unit hview (fun _ => trivial) fun _ => ⟨rfl, rfl⟩
theorem beside_modDom (d : Nat) {f : DomSt → DomSt} (hview : ∀ s, view ((modDom d f).run s) = view s) :
    (modDom d f).Keeps (Beside view fs r) := beside_modPwr hview

end

section
variable {β : Type} {view : State → β} (hview : Overlooks view) {fs : List Fld} {r : State}
include hview

theorem beside_of_only {a : Act} (h : a.Only (Upd.Aside fs)) : a.Keeps (Beside view fs r) :=
  beside_of (fun s => (h.mono fun _ hu => hu.elsewhere).same (read := view) (fun u t hu => hview u t hu) s) (h.mono fun _ hu => hu.spares)
    (h.toKeeps fun _ _ hu hs => hu.settled_apply hs)

theorem beside_setR {k : FKey} (hk : k.f ∉ fs) (v : Nat) : (setR k v).Keeps (Beside view fs r) := beside_of_only hview ⟨hk, trivial⟩
theorem beside_setB {k : FKey} (hk : k.f ∉ fs) (v : Bool) : (setB k v).Keeps (Beside view fs r) := beside_of_only hview ⟨hk, trivial⟩
theorem beside_bump {k : FKey} (hk : k.f ∉ fs) (n : Nat) : (bump k n).Keeps (Beside view fs r) :=
  beside_of_only hview (only_bump fun _ => hk)
theorem beside_send (o : Out) : (send o).Keeps (Beside view fs r) := beside_of_only hview ⟨trivial, trivial⟩
theorem beside_modTile (p n : Nat) (f : Tile → Tile) : (modTile p n f).Keeps (Beside view fs r) :=
  beside_of_only hview fun _ => ⟨trivial, trivial⟩
theorem beside_modJob (f : Job → Job) : (modJob f).Keeps (Beside view fs r) := beside_of_only hview fun _ => ⟨trivial, trivial⟩
theorem beside_modBoot (f : BootSt → BootSt) : (modBoot f).Keeps (Beside view fs r) := beside_of_only hview fun _ => ⟨trivial, trivial⟩
theorem beside_modHold (f : HoldSt → HoldSt) : (modHold f).Keeps (Beside view fs r) := beside_of_only hview fun _ => ⟨trivial, trivial⟩
theorem beside_propose (n : Nat) (e : BitVec 32) : (propose n e).Keeps (Beside view fs r) :=
  Act.keeps_asked fun _ => beside_modBoot hview _
theorem beside_waxDirty : waxDirty.Keeps (Beside view fs r) := Act.keeps_asked fun _ => beside_modBoot hview _

/-- A free value is drawn, and what uses it leaves the rest alone. -/
theorem beside_withFree {k : Nat → Act} (h : ∀ n, (k n).Keeps (Beside view fs r)) : (withFree k).Keeps (Beside view fs r) :=
  fun s hs => h _ _ (beside_of_only hview (a := emit (.draw 1)) ⟨trivial, trivial⟩ s hs)

/-- What Lift sends and notes, where it leaves nothing to be taken up. -/
theorem beside_lift {a : Act} (h : a.Only Upd.ofLift) (hfs : ∀ g ∈ liftFlds, g ∉ fs) (hset : a.Keeps State.Settled) :
    a.Keeps (Beside view fs r) :=
  beside_of (fun s => (h.mono Upd.ofLift_elsewhere).same (read := view) (fun u t hu => hview u t hu) s) (h.mono (Upd.ofLift_spares hfs)) hset

theorem beside_reply (hfs : ∀ g ∈ liftFlds, g ∉ fs) (q : Req) (st d : Nat) (data : List Nat) :
    (reply q st d data).Keeps (Beside view fs r) :=
  beside_lift hview (lift_reply q st d data) hfs fun _ hs => settled_reply q st d data hs

/-- Lift's own state, but for the marks of what waits. -/
theorem beside_modLift (hfs : ∀ g ∈ liftFlds, g ∉ fs) {f : LiftSt → LiftSt} (hdue : ∀ l, (f l).due = l.due) (hagain : ∀ l, (f l).again = l.again)
    (hparked : ∀ l, l.parked = [] → (f l).parked = []) : (modLift f).Keeps (Beside view fs r) :=
  beside_lift hview (lift_modLift f) hfs fun _ hs =>
    ⟨(hdue _).trans hs.due, (hagain _).trans hs.again, hparked _ hs.parked, hs.held⟩

theorem beside_sendEvent (hfs : ∀ g ∈ liftFlds, g ∉ fs) : sendEvent.Keeps (Beside view fs r) :=
  beside_lift hview lift_sendEvent hfs fun s hs => settled_of hs (marks_sendEvent s s (LiftMarks.refl s)) <| by
    rw [sendEvent, Act.run_ask]
    split
    · exact keeps_sendSeq (behind_sendFree 0) _ _ _ _ s hs.held
    · exact hs.held

theorem beside_raiseEvent (hfs : ∀ g ∈ eventFlds, g ∉ fs) (c p : Nat) (b : List Nat) : (raiseEvent c p b).Keeps (Beside view fs r) := by
  have hlift : ∀ g ∈ liftFlds, g ∉ fs := fun g hg => hfs g (List.mem_cons_of_mem _ hg)
  have hnote : ∀ {f : LiftSt → LiftSt}, (∀ l, (f l).due = l.due ∧ (f l).again = l.again ∧ (f l).parked = l.parked) →
      (modLift f).Keeps (Beside view fs r) := fun h =>
    beside_modLift hview hlift (fun l => (h l).1) (fun l => (h l).2.1) fun l hl => (h l).2.2.trans hl
  exact beside_withFree hview fun _ => Act.keeps_asked fun _ =>
    Act.keeps_ite (Act.keeps_seq (hnote fun _ => ⟨rfl, rfl, rfl⟩) (beside_sendEvent hview hlift))
      (Act.keeps_ite (Act.keeps_seq (hnote fun _ => ⟨rfl, rfl, rfl⟩) (beside_of_only hview ⟨trivial, trivial⟩))
        (Act.keeps_seq (beside_bump hview (hfs _ List.mem_cons_self) 1) (hnote fun _ => ⟨rfl, rfl, rfl⟩)))

end

theorem State.Quiet.settled {s : State} (h : s.Quiet) : s.Settled :=
  ⟨h.due, h.again, h.parked, fun x hx e he => (Nat.le_succ _).trans_lt (h.held x hx e he)⟩

/-! ## An event is raised (R444, R467) -/

/-- Raising an event counts from what a state tells of Lift and of the events that wait. -/
theorem Raised.of_before {s s' t : State} {c p : Nat} {b : List Nat} (h : Raised s' t c p b) (hlift : s'.lift = s.lift)
    (hevents : s'.events = s.events) (hlost : s'.rd (dk .EVT_LOST) = s.rd (dk .EVT_LOST)) : Raised s t c p b := by
  unfold Raised at h ⊢
  rw [hlift, hevents, State.counted_congr hlost] at h
  exact h

theorem raised_raiseEvent (c p : Nat) (b : List Nat) (s : State) : Raised s ((raiseEvent c p b).run s) c p b := by
  rw [raiseEvent, run_withFree, Act.run_ask]
  generalize (Config.freeValue s.free).toNat = up
  have hdraw : Raised ((Upd.draw 1).apply s) = Raised s := rfl
  rw [← hdraw]
  generalize (Upd.draw 1).apply s = s'
  unfold Raised
  by_cases hsent : s'.lift.outEvt = none ∧ s'.events = [] ∧ s'.lift.mb00Ses.isSome = true
  · have hcond : (s'.lift.outEvt.isNone && s'.events.isEmpty && s'.lift.mb00Ses.isSome) = true := by simp [hsent]
    simp only [if_pos hsent, if_pos hcond, Act.run_seq]
    have hsame : ∀ u : State, (sendEvent.run u).lift = u.lift ∧ (sendEvent.run u).events = u.events := fun u => by
      refine ⟨?_, (lift_sendEvent.liftSame u).events⟩
      rw [sendEvent, Act.run_ask]
      split
      · exact ((send_sendSeq _ _ _ _).sendSame u).2
      · rfl
    rw [(hsame _).1, (hsame _).2]
    exact ⟨_, rfl, rfl, rfl, rfl, hsent.2.1⟩
  · have hcond : ¬ (s'.lift.outEvt.isNone && s'.events.isEmpty && s'.lift.mb00Ses.isSome) = true := by
      simpa [Option.isNone_iff_eq_none, List.isEmpty_iff, and_assoc] using hsent
    rw [if_neg hsent, if_neg hcond]
    by_cases hroom : s'.events.length < 256
    · rw [if_pos hroom, if_pos hroom]
      exact ⟨_, by rw [Act.run_seq, run_emit, run_modLift, Upd.apply]; exact congrArg State.events (if_pos hroom), rfl, rfl, rfl, rfl⟩
    · rw [if_neg hroom, if_neg hroom]
      exact ⟨rfl, rfl, rd_bump_self s' _ 1⟩

end Sys2Proof.Machine
end

section
/-! PROOFS. The groomer (R368, R369, R371): what a read leaves of a pile's memory state, and what becomes of a groomed line. -/

namespace Sys2Proof.Machine

/-! ## What a read leaves of a pile's memory state -/

/-- Spare rows taken, and, where the groomer reads, the lines queued for it. -/
def MemSt.unread (groomer : Bool) (m : MemSt) : SMap Nat × SMap Nat × List Nat := (m.used, m.remap, if groomer then m.grooms else [])

/-- `f` tells the same of every pile's memory state as `g`. -/
def State.MemsAre {β : Type} (f : MemSt → β) (g : Nat → β) (s : State) : Prop := ∀ q, f (s.pile q).mem = g q

section
variable {β : Type} {f : MemSt → β} {g : Nat → β}

theorem Act.Only.memsKept {a : Act} (h : a.Only Upd.NoPile) : a.Keeps (State.MemsAre f g) :=
  h.toKeeps fun _ s hu hs q => (congrArg (fun x => f x.mem) (hu.pile_apply s q)).trans (hs q)

theorem mems_modPile (p : Nat) {w : Pile → Pile} (h : ∀ x, f (w x).mem = f x.mem) : (modPile p w).Keeps (State.MemsAre f g) := by
  intro s hs q
  rw [run_modPile]
  by_cases hq : q = p
  · rw [hq, Upd.pile_pile_self, h]
    exact hs p
  · rw [Upd.pile_pile_of_ne _ s hq]
    exact hs q

theorem mems_modMem (p : Nat) {w : MemSt → MemSt} (h : ∀ x, f (w x) = f x) : (modMem p w).Keeps (State.MemsAre f g) :=
  mems_modPile p fun x => h x.mem

theorem mems_modRue (p : Nat) (w : RueSt → RueSt) : (modRue p w).Keeps (State.MemsAre f g) := mems_modPile p fun _ => rfl

theorem mems_withFree {k : Nat → Act} (h : ∀ n, (k n).Keeps (State.MemsAre f g)) : (withFree k).Keeps (State.MemsAre f g) :=
  fun s hs => h _ _ (show State.MemsAre f g ((Upd.draw 1).apply s) from hs)

theorem mems_poisonWatch (p : Nat) (sp : Space) (n x : Nat) (l : Line) : (poisonWatch p sp n x l).Keeps (State.MemsAre f g) :=
  Act.keeps_asked fun _ => Act.keeps_when (mems_modRue p _)

/-- A line of DRAM is written: its injection fires, or it is stored as it is. -/
theorem noPile_storeWord (p x : Nat) (c : Codeword) : (storeWord p x c).Only Upd.NoPile := fun _ =>
  Act.only_ite (Act.only_seq (noPile_setR _ _) ⟨trivial, trivial⟩) ⟨trivial, trivial⟩

theorem mems_putLine (p x : Nat) (l : Line) : (putLine p .dram 0 x l).Keeps (State.MemsAre f g) :=
  Act.keeps_seq
    (Act.Only.memsKept fun _ => Act.only_ite trivial
      (Act.only_seq (Act.only_when fun _ => noPile_bump _ _) (noPile_storeWord p x _)))
    (mems_poisonWatch p .dram 0 x l)

end

section
variable {groomer : Bool} {g : Nat → SMap Nat × SMap Nat × List Nat}

theorem mems_queueMove (p line : Nat) : (queueMove p line).Keeps (State.MemsAre (MemSt.unread groomer) g) :=
  Act.keeps_seq (mems_modMem p fun m => by split <;> rfl) (Act.keeps_asked fun _ => Act.keeps_when (noPile_setR _ _).memsKept)

theorem mems_queueGroom (p line : Nat) : (Act.when (!groomer) (queueGroom p line)).Keeps (State.MemsAre (MemSt.unread groomer) g) := by
  cases groomer with
  | true => exact Act.keeps_done _
  | false =>
    refine mems_modMem (f := MemSt.unread false) p (w := fun m => if m.grooms.contains line then m else { m with grooms := m.grooms ++ [line] }) fun m => ?_
    split <;> rfl

theorem mems_ceLog (p line : Nat) (fixed : List Nat) : (ceLog p line fixed groomer).Keeps (State.MemsAre (MemSt.unread groomer) g) := by
  have hset : ∀ k v, (setR k v).Keeps (State.MemsAre (MemSt.unread groomer) g) := fun k v => (noPile_setR k v).memsKept
  have htouch : ∀ i n b, (Act.all [setR (pk .MEM_CE_LOG_BYTES p i) n, setB (pk .MEM_CE_LOG_TSV p i) b,
      modMem p (fun m => { m with ceOrder := m.ceOrder.filter (fun x => x != i) ++ [i] })]).Keeps (State.MemsAre (MemSt.unread groomer) g) :=
    fun i n b => Act.keeps_list ⟨hset _ _, hset _ _, mems_modMem p fun _ => rfl⟩
  refine Act.keeps_asked fun s => ?_
  dsimp only
  split
  · exact Act.keeps_seq (htouch _ _ _) (Act.keeps_when (Act.keeps_seq (hset _ _) (mems_queueMove p line)))
  · refine Act.keeps_list ⟨hset _ _, hset _ _, hset _ _, hset _ _, htouch _ _ _, ?_⟩
    cases s.on (pk .GROOM_CTL_TARGETED p) with
    | false => exact Act.keeps_done _
    | true => exact mems_queueGroom p line

theorem mems_bucketUp (p : Nat) : (bucketUp p).Keeps (State.MemsAre (MemSt.unread groomer) g) := by
  have hevent : (ceEvent p).Keeps (State.MemsAre (MemSt.unread groomer) g) := mems_withFree fun _ => Act.keeps_asked fun _ =>
    Act.keeps_ite (Act.keeps_done _) (Act.keeps_seq (mems_modMem p fun _ => rfl) (noPile_raiseEvent _ _ _).memsKept)
  exact Act.keeps_asked fun _ => Act.keeps_ite
    (Act.keeps_list ⟨(noPile_setR _ _).memsKept, (noPile_bump _ _).memsKept, hevent⟩) (noPile_bump _ _).memsKept

theorem mems_ueLog (p line : Nat) : (ueLog p line groomer).Keeps (State.MemsAre (MemSt.unread groomer) g) := by
  have hset : ∀ k v, (setR k v).Keeps (State.MemsAre (MemSt.unread groomer) g) := fun k v => (noPile_setR k v).memsKept
  have hcount : ∀ k, (bump k).Keeps (State.MemsAre (MemSt.unread groomer) g) := fun k => (noPile_bump k 1).memsKept
  refine Act.keeps_asked fun _ => Act.keeps_list ⟨hcount _, hcount _, hset _ _, hset _ _, hset _ _, hset _ _, hset _ _, ?_⟩
  cases groomer with
  | true => exact Act.keeps_done _
  | false => exact Act.keeps_seq (mems_queueGroom (groomer := false) p line) (mems_modMem p fun m => by split <;> rfl)

/-- What a read counts and records takes no spare row, and the groomer's own reads queue no line for it. -/
theorem mems_accountRead (p line : Nat) (o : ReadOut) : (accountRead p line o groomer).Keeps (State.MemsAre (MemSt.unread groomer) g) := by
  have hcount : ∀ k n, (bump k n).Keeps (State.MemsAre (MemSt.unread groomer) g) := fun k n => (noPile_bump k n).memsKept
  refine Act.keeps_seq (hcount _ _) ?_
  cases o.kind with
  | data => exact Act.keeps_when (Act.keeps_list ⟨hcount _ _, hcount _ _, mems_ceLog p line _, mems_bucketUp p⟩)
  | poison => exact Act.keeps_seq (hcount _ _) (Act.keeps_when (hcount _ _))
  | uncorrectable => exact mems_ueLog p line

end

/-! ## Reading and writing a line of DRAM -/

/-- A line of DRAM as it reads. -/
def State.readOut (s : State) (p x : Nat) : ReadOut := decodeWord (s.dramWord (dramAddr p x))

/-- What grooming and moving rows count, and the fields by which they find their lines. -/
def tendFlds : List Fld := [.GROOM_UE, .GROOM_CE, .MEM_ROW_MOVES] ++ placeFlds

theorem workKeeps_tend : WorkKeeps tendFlds := ⟨by decide, by decide⟩

theorem readFlds_tend : ∀ g ∈ readFlds, g ∉ tendFlds := by decide

/-- Memory reads as before, and the named fields and what reads leave of every pile's memory state are unchanged. -/
structure ReadKept (groomer : Bool) (fs : List Fld) (before after : State) : Prop where
  words : after.dram = before.dram
  rd    : ∀ k : FKey, k.f ∈ fs → after.rd k = before.rd k
  mem   : ∀ q, (after.pile q).mem.unread groomer = (before.pile q).mem.unread groomer

section
variable {groomer : Bool} {fs : List Fld} {r s t : State}

theorem ReadKept.refl (s : State) : ReadKept groomer fs s s := ⟨rfl, fun _ _ => rfl, fun _ => rfl⟩

theorem ReadKept.trans (h : ReadKept groomer fs r s) (k : ReadKept groomer fs s t) : ReadKept groomer fs r t :=
  ⟨k.words.trans h.words, fun q hq => (k.rd q hq).trans (h.rd q hq), fun q => (k.mem q).trans (h.mem q)⟩

theorem ReadKept.dramWord (h : ReadKept groomer fs s t) (a : Nat) : t.dramWord a = s.dramWord a := by
  rw [State.dramWord, h.words, State.dramWord]

theorem ReadKept.readOut (h : ReadKept groomer fs s t) (p x : Nat) : t.readOut p x = s.readOut p x := by
  rw [State.readOut, h.dramWord, State.readOut]

theorem ReadKept.memPlain {p : Nat} (h : ReadKept groomer fs s t) (hfs : placeFlds ⊆ fs) (hs : s.memPlain p) : t.memPlain p := by
  obtain ⟨hpower, harmed⟩ := hs
  refine ⟨?_, ?_⟩
  · rw [State.power, h.rd _ (hfs (by simp [placeFlds, dk]))]
    exact hpower
  · rw [State.on, h.rd _ (hfs (by simp [placeFlds, pk]))]
    exact harmed

theorem readKept_of {a : Act} (hkept : a.Keeps (SwitchKept (fun _ => ()) fs s))
    (hmem : a.Keeps (State.MemsAre (MemSt.unread groomer) fun q => (s.pile q).mem.unread groomer)) : ReadKept groomer fs s (a.run s) := by
  obtain ⟨hdram, -, -, hrd⟩ := SwitchKept.of_keeps hkept
  exact ⟨hdram, hrd, hmem s fun _ => rfl⟩

/-- The state once a read has accounted for itself. -/
def State.read (s : State) (p x : Nat) (groomer : Bool) : State := (accountRead p x (s.readOut p x) groomer).run s

/-- A read goes on with the line as it reads. -/
theorem run_dramRead (p x : Nat) (k : ReadOut → Act) (s : State) :
    (dramRead p x groomer k).run s = (k (s.readOut p x)).run (s.read p x groomer) := Act.run_seq _ _ _

theorem readKept_read (hfs : ∀ g ∈ readFlds, g ∉ fs) (p x : Nat) (s : State) : ReadKept groomer fs s (s.read p x groomer) :=
  readKept_of (kept_accountRead hfs p x _ groomer) (mems_accountRead p x _)

/-- The groomer's own work leaves its queue alone. -/
theorem ReadKept.grooms (h : ReadKept true fs s t) (q : Nat) : (t.pile q).mem.grooms = (s.pile q).mem.grooms := congrArg (fun m => m.2.2) (h.mem q)

theorem readKept_queueMove (hfs : ∀ g ∈ readFlds, g ∉ fs) (p x : Nat) (s : State) : ReadKept groomer fs s ((queueMove p x).run s) :=
  readKept_of (kept_queueMove hfs p x) (mems_queueMove p x)

theorem readKept_setR {k : FKey} (hk : k.f ∉ fs) (v : Nat) (s : State) : ReadKept groomer fs s ((setR k v).run s) :=
  readKept_of (kept_setR hk v) (noPile_setR k v).memsKept

theorem readKept_bump {k : FKey} (hk : k.f ∉ fs) (n : Nat) (s : State) : ReadKept groomer fs s ((bump k n).run s) :=
  readKept_of (kept_bump hk n) (noPile_bump k n).memsKept

theorem readKept_modMem (p : Nat) {w : MemSt → MemSt} (h : ∀ m, (w m).unread groomer = m.unread groomer) (s : State) :
    ReadKept groomer fs s ((modMem p w).run s) := readKept_of (kept_modMem p w) (mems_modMem p h)

end

theorem pile_modMem (p : Nat) (w : MemSt → MemSt) (s : State) : (((modMem p w).run s).pile p).mem = w (s.pile p).mem := by
  rw [modMem, run_modPile, Upd.pile_pile_self]

/-- A line's row is queued for a move (R371). -/
theorem moves_queueMove (p x : Nat) (s : State) : rowOf x ∈ (((queueMove p x).run s).pile p).mem.moves ∧
    (s.pile p).mem.moves ⊆ (((queueMove p x).run s).pile p).mem.moves := by
  have hmark : ∀ u : State, (((Act.ask fun v => Act.when (v.on (pk .MEM_UE_LOG_VALID p) && v.rd (pk .MEM_UE_LOG_LINE p) == x)
      (setR (pk .MEM_UE_LOG_QUEUED p) 1)).run u).pile p) = u.pile p := fun u => by
    rw [Act.run_ask, Act.run_when]
    split <;> rfl
  rw [queueMove, Act.run_seq, hmark, pile_modMem]
  by_cases hin : (s.pile p).mem.moves.contains (rowOf x) = true
  · rw [if_pos hin]
    exact ⟨List.contains_iff_mem.mp hin, List.Subset.refl _⟩
  · rw [if_neg hin]
    exact ⟨List.mem_append_right _ (List.mem_singleton_self _), List.subset_append_left _ _⟩

/-- With no injection armed a codeword is stored as it is (R376). -/
theorem run_storeWord {s : State} {p : Nat} (hplain : s.memPlain p) (x : Nat) (c : Codeword) :
    (storeWord p x c).run s = (emit (.dram (dramAddr p x) c)).run s := by
  obtain ⟨-, harmed⟩ := hplain
  rw [storeWord, Act.run_ask, if_neg fun h => Bool.false_ne_true (harmed.symm.trans h.1)]

/-! ## A groomed line (R368, R371) -/

/-- What grooming makes of a line: one that reads clean or poisoned stays, a corrected one is written back, and an uncorrectable one is
written poisoned, its row queued. -/
structure Groomed (s t : State) (p x : Nat) : Prop where
  rest   : ∀ a, a ≠ dramAddr p x → t.dramWord a = s.dramWord a
  lost   : (s.readOut p x).kind = .uncorrectable → t.dramWord (dramAddr p x) = encodeWord { (s.readOut p x).line with poison := true } ∧
    rowOf x ∈ (t.pile p).mem.moves ∧ t.rd (pk .GROOM_UE p) = s.counted (pk .GROOM_UE p) 1
  mended : (s.readOut p x).corrected = true → t.dramWord (dramAddr p x) = encodeWord (s.readOut p x).line ∧
    t.rd (pk .GROOM_CE p) = s.counted (pk .GROOM_CE p) 1
  stays  : (s.readOut p x).kind ≠ .uncorrectable → (s.readOut p x).corrected = false → t.dramWord (dramAddr p x) = s.dramWord (dramAddr p x)

theorem kind_of_corrected {o : ReadOut} (h : o.corrected = true) : o.kind = .data := by
  rw [ReadOut.corrected, Bool.and_eq_true, beq_iff_eq] at h
  exact h.1

/-- What is accounted for before and after a line is groomed is no part of it. -/
theorem Groomed.of_kept {b b' : Bool} {fs gs : List Fld} {s s' t t' : State} {p x : Nat} (hs : ReadKept b fs s s') (h : Groomed s' t p x)
    (ht : ReadKept b' gs t t') (hfs : ∀ g ∈ [Fld.GROOM_UE, .GROOM_CE], g ∈ fs ∧ g ∈ gs)
    (hmoves : (t.pile p).mem.moves ⊆ (t'.pile p).mem.moves) : Groomed s t' p x := by
  obtain ⟨hrest, hlost, hmended, hstays⟩ := h
  have hcount : ∀ {g : Fld}, g ∈ [Fld.GROOM_UE, .GROOM_CE] → t.rd (pk g p) = s'.counted (pk g p) 1 → t'.rd (pk g p) = s.counted (pk g p) 1 :=
    fun hg hn => (ht.rd (pk _ p) (hfs _ hg).2).trans (hn.trans (State.counted_congr (hs.rd (pk _ p) (hfs _ hg).1) 1))
  simp only [hs.readOut, hs.dramWord] at hrest hlost hmended hstays
  simp only [← ht.dramWord] at hrest hlost hmended hstays
  exact ⟨hrest,
    fun hk => by
      obtain ⟨hword, hmove, hn⟩ := hlost hk
      exact ⟨hword, hmoves hmove, hcount (by decide) hn⟩,
    fun hk => ⟨(hmended hk).1, hcount (by decide) (hmended hk).2⟩, hstays⟩

/-- A line that reads clean or poisoned stays as it is. -/
theorem groomed_stays {fs : List Fld} {s t : State} {p x : Nat} (h : ReadKept true fs s t) (hkind : (s.readOut p x).kind ≠ .uncorrectable)
    (hclean : (s.readOut p x).corrected = false) : Groomed s t p x :=
  ⟨fun a _ => h.dramWord a, fun hk => absurd hk hkind, fun hc => absurd (hclean.symm.trans hc) Bool.false_ne_true, fun _ _ => h.dramWord _⟩

/-- A line is stored as it is encoded, and nothing else changes. -/
structure Stored (s t : State) (p x : Nat) (l : Line) : Prop where
  word : t.dramWord (dramAddr p x) = encodeWord l
  rest : ∀ a, a ≠ dramAddr p x → t.dramWord a = s.dramWord a
  rd   : ∀ k, t.rd k = s.rd k
  pile : ∀ q, t.pile q = s.pile q

/-- A line is groomed, and the groomer's queue is as it was. -/
structure LineGroomed (s t : State) (p x : Nat) : Prop extends Groomed s t p x where
  queue : (t.pile p).mem.grooms = (s.pile p).mem.grooms

/-- What a read accounts for is no part of grooming. -/
theorem LineGroomed.of_read {s t : State} {p x : Nat} (hs : ReadKept true tendFlds s (s.read p x true))
    (h : LineGroomed (s.read p x true) t p x) : LineGroomed s t p x :=
  ⟨h.toGroomed.of_kept hs (.refl (groomer := true) (fs := tendFlds) t) (by decide) (List.Subset.refl _), h.queue.trans (hs.grooms p)⟩

/-- The entry of a line that was written back is marked. -/
def markGroomed (p x : Nat) : Act := .ask fun s => match s.ceEntry p x with
  | some i => setR (pk .MEM_CE_LOG_GROOMED p i) 1
  | none => .done

/-- A line that was written back is read again, and its row queued where it does not read any more. -/
def verifyLine (p x : Nat) : Act := dramRead p x true fun r => Act.when (r.kind == .uncorrectable) (queueMove p x)

theorem run_writeBack (p x : Nat) (l : Line) (s : State) : (writeBack p x l).run s =
    (verifyLine p x).run ((markGroomed p x).run ((bump (pk .GROOM_CE p)).run ((storeWord p x (encodeWord l)).run s))) := by
  rw [writeBack, Act.run_all_next, Act.run_all_next, Act.run_all_next, Act.run_all_last]
  rfl

/-- Marking and verifying a line touch neither memory nor the groomer's queue. -/
theorem readKept_verify (p x : Nat) (s : State) : ReadKept true tendFlds s ((verifyLine p x).run ((markGroomed p x).run s)) := by
  have hmark : ReadKept true tendFlds s ((markGroomed p x).run s) := by
    rw [markGroomed, Act.run_ask]
    split
    · exact readKept_setR (show Fld.MEM_CE_LOG_GROOMED ∉ tendFlds by decide) 1 s
    · exact .refl s
  have hread := hmark.trans (readKept_read readFlds_tend p x _)
  rw [verifyLine, run_dramRead, Act.run_when]
  split
  · exact hread.trans (readKept_queueMove readFlds_tend p x _)
  · exact hread

section
variable {p x : Nat} (hp : p < 16) (hx : x < dramLines)
include hp hx

theorem storeWord_stores {s : State} (hplain : s.memPlain p) (l : Line) : Stored s ((storeWord p x (encodeWord l)).run s) p x l := by
  have hplace : Placed p .dram 0 x := ⟨hp, by omega, hx⟩
  obtain ⟨hword, hrest, -⟩ := written_dram hplace l s
  rw [run_storeWord hplain]
  exact ⟨hword, hrest, fun k => by rw [run_emit, Upd.rd_dram], fun q => by rw [run_emit, Upd.pile_dram]⟩

/-- A line that could not be read is written poisoned, and its row queued (R368, R371). -/
theorem groomAgain_gives_up {s : State} (hplain : s.memPlain p) (hkind : (s.readOut p x).kind = .uncorrectable) :
    LineGroomed s ((groomAgain p x (s.readOut p x).line 0).run s) p x := by
  rw [groomAgain, Act.run_all_next, Act.run_all_next, Act.run_all_last]
  generalize hline : ({ (s.readOut p x).line with poison := true } : Line) = lost
  obtain ⟨hword, hrest⟩ := putLine_word hp hx hplain lost
  have hput : RueKept (fun _ => ()) (fun _ => ()) tendFlds s ((putLine p .dram 0 x lost).run s) :=
    .of_keeps (rueKept_putLine (fun _ _ => rfl) workKeeps_tend hplain.2 (blind_unit p x) lost)
  have hmem := mems_putLine (f := id) (g := fun q => (s.pile q).mem) p x lost s (fun _ => rfl) p
  generalize (putLine p .dram 0 x lost).run s = u at hword hrest hput hmem
  have hcount : ((bump (pk .GROOM_UE p)).run u).rd (pk .GROOM_UE p) = s.counted (pk .GROOM_UE p) 1 :=
    (rd_bump_self u _ 1).trans (State.counted_congr (hput.rd (pk .GROOM_UE p) (show Fld.GROOM_UE ∈ tendFlds by decide)) 1)
  have hwords : ∀ a, ((bump (pk .GROOM_UE p)).run u).dramWord a = u.dramWord a := fun a => by rw [run_bump, Upd.dramWord_reg]
  have hpile := pile_bump (pk .GROOM_UE p) 1 u p
  generalize (bump (pk .GROOM_UE p)).run u = v at hcount hwords hpile
  have hqueue : ReadKept true tendFlds v ((queueMove p x).run v) := readKept_queueMove readFlds_tend p x v
  refine ⟨⟨fun a ha => ?_, fun _ => ⟨?_, (moves_queueMove p x v).1, ?_⟩, fun hc => ?_, fun hk => absurd hkind hk⟩, ?_⟩
  · rw [hqueue.dramWord, hwords, hrest a ha]
  · rw [hline, hqueue.dramWord, hwords, hword]
  · exact (hqueue.rd (pk .GROOM_UE p) (show Fld.GROOM_UE ∈ tendFlds by decide)).trans hcount
  · exact absurd (hkind.symm.trans (kind_of_corrected hc)) nofun
  · rw [hqueue.grooms, hpile, show (u.pile p).mem = (s.pile p).mem from hmem]

/-- A line that does not read stays unread through every further read (R368). -/
theorem groomAgain_grooms {s : State} (hplain : s.memPlain p) (hkind : (s.readOut p x).kind = .uncorrectable) (n : Nat) :
    LineGroomed s ((groomAgain p x (s.readOut p x).line n).run s) p x := by
  induction n generalizing s with
  | zero => exact groomAgain_gives_up hp hx hplain hkind
  | succ n ih =>
    have hkept : ReadKept true tendFlds s (s.read p x true) := readKept_read readFlds_tend p x s
    have hread := hkept.readOut p x
    rw [groomAgain, run_dramRead, if_pos hkind, ← hread]
    exact LineGroomed.of_read hkept (ih (hkept.memPlain workKeeps_tend.place hplain) (by rw [hread]; exact hkind))

/-- A corrected line is written back, and verified (R368, R371). -/
theorem writeBack_mends {s : State} (hplain : s.memPlain p) (hcorr : (s.readOut p x).corrected = true) :
    LineGroomed s ((writeBack p x (s.readOut p x).line).run s) p x := by
  rw [run_writeBack]
  obtain ⟨hword, hrest, hrd, hpile⟩ := storeWord_stores hp hx hplain (s.readOut p x).line
  generalize (storeWord p x (encodeWord (s.readOut p x).line)).run s = u at hword hrest hrd hpile
  have hcount : ((bump (pk .GROOM_CE p)).run u).rd (pk .GROOM_CE p) = s.counted (pk .GROOM_CE p) 1 :=
    (rd_bump_self u _ 1).trans (State.counted_congr (hrd _) 1)
  have hwords : ∀ a, ((bump (pk .GROOM_CE p)).run u).dramWord a = u.dramWord a := fun a => by rw [run_bump, Upd.dramWord_reg]
  have hsame := pile_bump (pk .GROOM_CE p) 1 u p
  generalize (bump (pk .GROOM_CE p)).run u = v at hcount hwords hsame
  have hafter := readKept_verify p x v
  refine ⟨⟨fun a ha => ?_, fun hk => ?_, fun _ => ⟨?_, ?_⟩, fun _ hc => ?_⟩, ?_⟩
  · rw [hafter.dramWord, hwords, hrest a ha]
  · exact absurd ((kind_of_corrected hcorr).symm.trans hk) nofun
  · rw [hafter.dramWord, hwords, hword]
  · exact (hafter.rd (pk .GROOM_CE p) (show Fld.GROOM_CE ∈ tendFlds by decide)).trans hcount
  · exact absurd (hcorr.symm.trans hc) nofun
  · rw [hafter.grooms, hsame, hpile]

/-- One line is groomed (R368). -/
theorem groomLine_grooms {s : State} (hplain : s.memPlain p) :
    LineGroomed s ((groomLine p x).run s) p x := by
  have hkept : ReadKept true tendFlds s (s.read p x true) := readKept_read readFlds_tend p x s
  have hread := hkept.readOut p x
  have hplain' := hkept.memPlain workKeeps_tend.place hplain
  rw [groomLine, run_dramRead]
  cases hkind : (s.readOut p x).kind with
  | data =>
    rw [Act.run_when]
    split
    next hcorr =>
      rw [← hread] at hcorr ⊢
      exact LineGroomed.of_read hkept (writeBack_mends hp hx hplain' hcorr)
    next hcorr => exact ⟨groomed_stays hkept (by rw [hkind]; nofun) (Bool.eq_false_of_not_eq_true hcorr), hkept.grooms p⟩
  | poison => exact ⟨groomed_stays hkept (by rw [hkind]; nofun) (by rw [ReadOut.corrected, hkind]; rfl), hkept.grooms p⟩
  | uncorrectable =>
    rw [← hread] at hkind ⊢
    exact LineGroomed.of_read hkept (groomAgain_grooms hp hx hplain' hkind 2)

end

/-! ## The groomer's commands (R368, R369) -/

theorem State.grooms.memPlain {s : State} {p : Nat} (h : s.grooms p = true) (harmed : s.on (pk .MEM_INJECT_ARMED p) = false) : s.memPlain p := by
  have hready : s.ready (domMem p) = true := (Bool.and_eq_true_iff.mp h).2
  refine ⟨?_, harmed⟩
  simp only [State.ready, Bool.and_eq_true, beq_iff_eq] at hready
  omega

section
variable {p : Nat} (hp : p < 16) {s : State} (hgo : s.grooms p = true) (harmed : s.on (pk .MEM_INJECT_ARMED p) = false)
include hp hgo harmed

/-- The next line of the pass is groomed, and the pass goes on behind it (R368). -/
theorem actGroom_grooms {x : Nat} (hx : x < dramLines) (hnext : s.rd (pk .GROOM_STATUS_NEXT_LINE p) = x) (hqueue : (s.pile p).mem.grooms = []) :
    Groomed s ((actGroom p).run s) p x ∧
      ((actGroom p).run s).rd (pk .GROOM_STATUS_NEXT_LINE p) = if x + 1 = dramLines then 0 else x + 1 := by
  have hline := groomLine_grooms hp hx (State.grooms.memPlain hgo harmed)
  have hgo' : ¬ (!s.grooms p) = true := by rw [hgo]; exact Bool.false_ne_true
  rw [actGroom, Act.run_ask, if_neg hgo', Act.run_all_next, Act.run_all_next, Act.run_all_next, Act.run_all_last, hqueue, Act.run_each_nil, hnext]
  generalize (groomLine p x).run s = u at hline
  have hnoted : ∀ (w : State) (n : Nat), ReadKept true tendFlds u w → w.pile p = u.pile p → w.rd (pk .GROOM_STATUS_NEXT_LINE p) = n →
      Groomed s ((withFree fun f => setR (pk .GROOM_STATUS_BEHIND p) (f % 2)).run w) p x ∧
        ((withFree fun f => setR (pk .GROOM_STATUS_BEHIND p) (f % 2)).run w).rd (pk .GROOM_STATUS_NEXT_LINE p) = n := fun w n hw hpile hn => by
    have hdrawn : ReadKept true tendFlds w ((Upd.draw 1).apply w) := ⟨rfl, fun _ _ => rfl, fun _ => rfl⟩
    have hbehind := hdrawn.trans (readKept_setR (k := pk .GROOM_STATUS_BEHIND p) (show Fld.GROOM_STATUS_BEHIND ∉ tendFlds by decide) ((Config.freeValue w.free).toNat % 2) _)
    rw [run_withFree]
    refine ⟨hline.toGroomed.of_kept (.refl (groomer := true) (fs := tendFlds) s) (hw.trans hbehind) (by decide) ?_, ?_⟩
    · rw [pile_setR, ← hpile]
      exact List.Subset.refl _
    · rw [rd_setR_of_ne (show Fld.GROOM_STATUS_NEXT_LINE ≠ .GROOM_STATUS_BEHIND by decide)]
      exact hn
  have hset : ∀ v < dramLines, ReadKept true tendFlds u ((setR (pk .GROOM_STATUS_NEXT_LINE p) v).run u) ∧
      ((setR (pk .GROOM_STATUS_NEXT_LINE p) v).run u).rd (pk .GROOM_STATUS_NEXT_LINE p) = v := fun v hv =>
    ⟨readKept_setR (show Fld.GROOM_STATUS_NEXT_LINE ∉ tendFlds by decide) v u, (rd_setR_self _ v u).trans (Nat.mod_eq_of_lt hv)⟩
  split
  next hlast =>
    obtain ⟨hkept, hzero⟩ := hset 0 (by decide)
    rw [Act.run_seq]
    exact hnoted _ 0 (hkept.trans (readKept_bump (show Fld.GROOM_STATUS_PASSES ∉ tendFlds by decide) 1 _))
      ((pile_bump _ 1 _ p).trans (pile_setR _ 0 u p))
      ((rd_bump_of_ne _ (show Fld.GROOM_STATUS_NEXT_LINE ≠ .GROOM_STATUS_PASSES by decide) 1).trans hzero)
  next hmore =>
    obtain ⟨hkept, hstep⟩ := hset (x + 1) (by omega)
    exact hnoted _ (x + 1) hkept (pile_setR _ _ u p) hstep

/-- A queued line is groomed, and leaves the queue (R369). -/
theorem actTargetedGroom_grooms {x : Nat} (hx : x < dramLines) {rest : List Nat} (hqueue : (s.pile p).mem.grooms = x :: rest) :
    Groomed s ((actTargetedGroom p).run s) p x ∧ x ∉ (((actTargetedGroom p).run s).pile p).mem.grooms := by
  have hgo' : ¬ (!s.grooms p) = true := by rw [hgo]; exact Bool.false_ne_true
  rw [actTargetedGroom, Act.run_ask, if_neg hgo', hqueue]
  dsimp only
  rw [groomQueued, Act.run_all_next, Act.run_all_next, Act.run_all_last]
  have htaken : ReadKept false tendFlds s ((modMem p fun m => { m with grooms := m.grooms.filter (fun l => l != x) }).run s) :=
    readKept_modMem p (by intro _; rfl) s
  have hleft := pile_modMem p (fun m => { m with grooms := m.grooms.filter (fun l => l != x) }) s
  generalize (modMem p fun m => { m with grooms := m.grooms.filter (fun l => l != x) }).run s = v at htaken hleft
  have hline := groomLine_grooms hp hx (htaken.memPlain workKeeps_tend.place (State.grooms.memPlain hgo harmed))
  generalize (groomLine p x).run v = u at hline
  have hgone : x ∉ (u.pile p).mem.grooms := by
    rw [hline.queue, hleft]
    simp
  rw [Act.run_ask, Act.run_when]
  split
  · have hnoted : ReadKept true tendFlds u ((modMem p fun m => { m with ueGrooms := m.ueGrooms.filter (fun l => l != x) }).run u) :=
      readKept_modMem p (by intro _; rfl) u
    have hmoves := pile_modMem p (fun m => { m with ueGrooms := m.ueGrooms.filter (fun l => l != x) }) u
    have hqueued := hnoted.trans (readKept_queueMove readFlds_tend p x _)
    rw [Act.run_seq]
    refine ⟨hline.toGroomed.of_kept htaken hqueued (by decide) (List.Subset.trans ?_ (moves_queueMove p x _).2), ?_⟩
    · rw [hmoves]
      exact List.Subset.refl _
    · rw [hqueued.grooms]
      exact hgone
  · exact ⟨hline.toGroomed.of_kept htaken (.refl (groomer := true) (fs := tendFlds) u) (by decide) (List.Subset.refl _), hgone⟩

end

/-- The bucket's level falls by one, where it is above zero (R367). -/
theorem actLeak_leaks {s : State} (hs : s.Legal) (p : Nat) : let t := (actLeak p).run s
    t.rd (pk .MEM_BUCKET p) = s.rd (pk .MEM_BUCKET p) - 1 ∧ t.dram = s.dram ∧ RegsKept s t (fun k => k = pk .MEM_BUCKET p) := by
  have hfits := hs.fields (pk .MEM_BUCKET p)
  rw [actLeak, Act.run_ask, Act.run_all_next, Act.run_all_last]
  exact ⟨(rd_setR_self _ _ s).trans (Nat.mod_eq_of_lt ((Nat.sub_le _ _).trans_lt hfits)), rfl,
    fun k hk => Upd.rd_reg_of_ne _ s (hk _ rfl).symm⟩

end Sys2Proof.Machine
end

section
/-! PROOFS. A row moves to a spare row (R371-R373): its lines are written where they stand, and the row's move is noted. -/

namespace Sys2Proof.Machine

/-! ## The lines of a row -/

/-- Changes of DRAM at one address alone. -/
def Upd.DramAt (a : Nat) : Upd → Prop
  | .dram b _ => b = a
  | .dropDram _ | .restart _ => False
  | _ => True

theorem Act.Only.dramWord_of_ne {a b : Nat} {x : Act} (h : x.Only (Upd.DramAt a)) (hne : b ≠ a) (s : State) :
    (x.run s).dramWord b = s.dramWord b := by
  refine h.same (read := fun t => t.dramWord b) (fun u t hu => ?_) s
  cases u with
  | dram c w => exact Upd.dramWord_dram_of_ne w t (Eq.mpr (congrArg (b ≠ ·) hu) hne)
  | sram c l => exact Upd.dramWord_sram c l t b
  | openHalf v | openSession v | pushEvent v => simp only [Upd.apply]; split <;> rfl
  | dropDram _ | restart _ => exact absurd hu id
  | _ => rfl

theorem dramAt_putLine (p x : Nat) (l : Line) : (putLine p .dram 0 x l).Only (Upd.DramAt (dramAddr p x)) := by
  have hstore : ∀ c, (storeWord p x c).Only (Upd.DramAt (dramAddr p x)) := fun c _ =>
    Act.only_ite (Act.only_seq ⟨trivial, trivial⟩ ⟨rfl, trivial⟩) ⟨rfl, trivial⟩
  exact Act.only_seq
    (fun _ => Act.only_ite trivial (Act.only_seq (Act.only_when fun _ => only_bump fun _ => trivial) (hstore _)))
    (fun _ => Act.only_when fun _ _ => ⟨trivial, trivial⟩)

/-- What the move of a line of DRAM leaves: every other word, what counts for moves, and the spare rows taken. -/
structure LineKept (a : Nat) (before after : State) : Prop where
  rest : ∀ b, b ≠ a → after.dramWord b = before.dramWord b
  rd   : ∀ k : FKey, k.f ∈ tendFlds → after.rd k = before.rd k
  mem  : ∀ q, (after.pile q).mem.unread false = (before.pile q).mem.unread false

theorem LineKept.of_read {a : Nat} {s v t : State} (h : ReadKept false tendFlds s v) (k : LineKept a v t) : LineKept a s t :=
  ⟨fun b hb => (k.rest b hb).trans (h.dramWord b), fun q hq => (k.rd q hq).trans (h.rd q hq), fun q => (k.mem q).trans (h.mem q)⟩

theorem lineKept_putLine {p : Nat} {s : State} (hplain : s.memPlain p) (x : Nat) (l : Line) :
    LineKept (dramAddr p x) s ((putLine p .dram 0 x l).run s) := by
  have hput : RueKept (fun _ => ()) (fun _ => ()) tendFlds s ((putLine p .dram 0 x l).run s) :=
    .of_keeps (rueKept_putLine (fun _ _ => rfl) workKeeps_tend hplain.2 (blind_unit p x) l)
  exact ⟨fun b hb => (dramAt_putLine p x l).dramWord_of_ne hb s, hput.rd, mems_putLine p x l s fun _ => rfl⟩

/-- A line that reads as data moves as it reads (R372); whatever it reads as, no other line changes. -/
structure LineMoved (s t : State) (p x : Nat) : Prop extends LineKept (dramAddr p x) s t where
  data : x < dramLines → (s.readOut p x).kind = .data → t.dramWord (dramAddr p x) = encodeWord (s.readOut p x).line

theorem putLine_moves {p : Nat} (hp : p < 16) (x : Nat) {s : State} (hplain : s.memPlain p) :
    LineMoved s ((putLine p .dram 0 x (s.readOut p x).line).run (s.read p x false)) p x := by
  have hread : ReadKept false tendFlds s (s.read p x false) := readKept_read readFlds_tend p x s
  have hplain' := hread.memPlain workKeeps_tend.place hplain
  exact ⟨.of_read hread (lineKept_putLine hplain' x _), fun hx _ => (putLine_word hp hx hplain' _).1⟩

theorem moveLine_moves {p : Nat} (hp : p < 16) (x n : Nat) {s : State} (hplain : s.memPlain p) : LineMoved s ((moveLine p x n).run s) p x := by
  induction n generalizing s with
  | zero =>
    rw [moveLine, run_dramRead]
    exact putLine_moves hp x hplain
  | succ n ih =>
    have hread : ReadKept false tendFlds s (s.read p x false) := readKept_read readFlds_tend p x s
    rw [moveLine, run_dramRead]
    split
    next hlost =>
      exact ⟨.of_read hread (ih (hread.memPlain workKeeps_tend.place hplain)).toLineKept, fun _ hk => absurd (hlost.symm.trans hk) nofun⟩
    next => exact putLine_moves hp x hplain

/-- Lines have moved: those that read as data stand as they read, and no other line has changed. -/
structure LinesMoved (s t : State) (p : Nat) (xs : List Nat) : Prop where
  rest : ∀ a, (∀ x ∈ xs, a ≠ dramAddr p x) → t.dramWord a = s.dramWord a
  rd   : ∀ k : FKey, k.f ∈ tendFlds → t.rd k = s.rd k
  mem  : ∀ q, (t.pile q).mem.unread false = (s.pile q).mem.unread false
  data : ∀ x ∈ xs, x < dramLines → (s.readOut p x).kind = .data → t.dramWord (dramAddr p x) = encodeWord (s.readOut p x).line

theorem dramAddr_ne {p x y : Nat} (h : x ≠ y) : dramAddr p x ≠ dramAddr p y := fun he => h (Nat.add_left_cancel he)

theorem memPlain_of_rd {p : Nat} {s t : State} (h : ∀ k : FKey, k.f ∈ tendFlds → t.rd k = s.rd k) (hs : s.memPlain p) : t.memPlain p := by
  obtain ⟨hpower, harmed⟩ := hs
  refine ⟨?_, ?_⟩
  · rw [State.power, h _ (show Fld.PWR_STATE_STATE ∈ tendFlds by decide)]
    exact hpower
  · rw [State.on, h _ (show Fld.MEM_INJECT_ARMED ∈ tendFlds by decide)]
    exact harmed

theorem each_moveLine {p : Nat} (hp : p < 16) {xs : List Nat} (hxs : xs.Nodup) {s : State} (hplain : s.memPlain p) :
    LinesMoved s ((Act.each xs fun x => moveLine p x 2).run s) p xs := by
  induction xs generalizing s with
  | nil => exact ⟨fun _ _ => rfl, fun _ _ => rfl, fun _ => rfl, nofun⟩
  | cons x xs ih =>
    obtain ⟨hnew, hxs'⟩ := List.nodup_cons.mp hxs
    have hone := moveLine_moves hp x 2 hplain
    have hmore := ih hxs' (memPlain_of_rd hone.rd hplain)
    rw [Act.run_each_cons]
    generalize (moveLine p x 2).run s = u at hone hmore
    have hfirst : ∀ y ∈ xs, dramAddr p x ≠ dramAddr p y := fun y hy => dramAddr_ne fun he => hnew (he ▸ hy)
    refine ⟨fun a ha => ?_, fun k hk => (hmore.rd k hk).trans (hone.rd k hk), fun q => (hmore.mem q).trans (hone.mem q), fun y hy hlt hk => ?_⟩
    · rw [hmore.rest a fun y hy => ha y (List.mem_cons_of_mem x hy), hone.rest a (ha x List.mem_cons_self)]
    · rcases List.mem_cons.mp hy with rfl | hy
      · rw [hmore.rest _ hfirst, hone.data hlt hk]
      · have hread : u.readOut p y = s.readOut p y := by rw [State.readOut, hone.rest _ (hfirst y hy).symm, State.readOut]
        rw [hmore.data y hy hlt (by rw [hread]; exact hk), hread]

theorem nodup_rowLines (r : Nat) : (rowLines r).Nodup :=
  List.nodup_range.map fun i j h => by omega

/-! ## A spare row is taken (R372, R373) -/

/-- A row has taken its bank's next spare row: the move is counted, and proposed for fusing. -/
structure SpareTaken (s t : State) (p r : Nat) : Prop where
  dram  : t.dram = s.dram
  remap : SMap.find? (t.pile p).mem.remap r = some (SMap.getD (s.pile p).mem.used (rowBank r) 0)
  used  : SMap.getD (t.pile p).mem.used (rowBank r) 0 = SMap.getD (s.pile p).mem.used (rowBank r) 0 + 1
  count : t.rd (pk .MEM_ROW_MOVES p) = s.counted (pk .MEM_ROW_MOVES p) 1
  fuse  : ∃ q ∈ t.boot.proposals, q.entry = rowEntry p r

theorem proposals_propose (n : Nat) (e : BitVec 32) (s : State) : ∃ q ∈ ((propose n e).run s).boot.proposals, q.entry = e := by
  rw [propose, Act.run_ask, run_modBoot]
  change ∃ q ∈ (if s.boot.proposals.any (fun x => x.entry == e) then s.boot
    else { s.boot with proposals := s.boot.proposals ++ [⟨n, e, if s.jobLoaded then s.step else 0⟩] }).proposals, q.entry = e
  split
  next h =>
    obtain ⟨q, hq, he⟩ := List.any_eq_true.mp h
    exact ⟨q, hq, beq_iff_eq.mp he⟩
  next => exact ⟨_, List.mem_append_right _ (List.mem_singleton_self _), rfl⟩

/-- An event is no proposal, nor a line of DRAM. -/
theorem raiseEvent_same (c p : Nat) (b : List Nat) (s : State) :
    ((raiseEvent c p b).run s).boot = s.boot ∧ ((raiseEvent c p b).run s).dram = s.dram := by
  have honly : (raiseEvent c p b).Only fun u => ∀ t : State, (u.apply t).boot = t.boot ∧ (u.apply t).dram = t.dram := by
    refine only_raiseEvent (fun u hu t => ?_) (fun _ => ⟨rfl, rfl⟩) (fun e t => ?_) (fun _ _ => ⟨rfl, rfl⟩) c p b
    · cases u with
      | reg _ _ | setSession _ | dropSession _ | mailbox _ _ | lift _ | out _ => exact ⟨rfl, rfl⟩
      | _ => exact absurd hu id
    · simp only [Upd.apply]
      split <;> exact ⟨rfl, rfl⟩
  exact ⟨honly.same (fun _ t hu => (hu t).1) s, honly.same (fun _ t hu => (hu t).2) s⟩

theorem rd_raiseEvent {k : FKey} (hk : k.f ∉ eventFlds) (c p : Nat) (b : List Nat) (s : State) : ((raiseEvent c p b).run s).rd k = s.rd k := by
  have hfs : ∀ g ∈ eventFlds, g ∉ [k.f] := fun g hg he => hk (List.mem_singleton.mp he ▸ hg)
  have honly : (raiseEvent c p b).Only (Upd.Spares [k.f]) :=
    only_raiseEvent (Upd.ofLift_spares fun g hg => hfs g (List.mem_cons_of_mem _ hg)) trivial (fun _ => trivial)
      (fun _ => hfs _ List.mem_cons_self) c p b
  exact honly.rd_spared (List.mem_singleton_self _) s

/-- The row's name comes off the queue. -/
def unqueue (p r : Nat) : Act := modMem p (fun m => { m with moves := m.moves.filter (fun x => x != r) })

theorem takeSpare_takes (p r : Nat) (s : State) : let t := (takeSpare p r).run s
    SMap.find? (t.pile p).mem.remap r = some (SMap.getD (s.pile p).mem.used (rowBank r) 0) ∧
    SMap.getD (t.pile p).mem.used (rowBank r) 0 = SMap.getD (s.pile p).mem.used (rowBank r) 0 + 1 ∧
    t.dram = s.dram ∧ t.rd (pk .MEM_ROW_MOVES p) = s.rd (pk .MEM_ROW_MOVES p) := by
  rw [takeSpare, Act.run_ask]
  dsimp only
  rw [Act.run_all_next, Act.run_all_next, Act.run_all_last]
  rw [pile_setR, pile_bump, pile_modMem, SMap.find?_set_self, SMap.getD_put_self,
    rd_setR_of_ne (show Fld.MEM_ROW_MOVES ≠ .MEM_SPARE_MIN_LEFT by decide), rd_bump_of_ne _ (show Fld.MEM_ROW_MOVES ≠ .MEM_SPARE_MOVED by decide)]
  exact ⟨rfl, rfl, rfl, rfl⟩

/-- What an event leaves alone of a row's move. -/
structure MoveSame (p : Nat) (s t : State) : Prop where
  pile : t.pile p = s.pile p
  dram : t.dram = s.dram
  boot : t.boot = s.boot
  rd   : t.rd (pk .MEM_ROW_MOVES p) = s.rd (pk .MEM_ROW_MOVES p)

theorem moveSame_event (b : Bool) (c p q : Nat) (d : List Nat) (s : State) : MoveSame p s ((Act.when b (raiseEvent c q d)).run s) := by
  rw [Act.run_when]
  split
  · obtain ⟨hboot, hdram⟩ := raiseEvent_same c q d s
    exact ⟨(noPile_raiseEvent c q d).same (read := fun t => t.pile p) (fun u t hu => hu.pile_apply t p) s, hdram, hboot,
      rd_raiseEvent (show Fld.MEM_ROW_MOVES ∉ eventFlds by decide) c q d s⟩
  · exact ⟨rfl, rfl, rfl, rfl⟩

theorem rowMoved_notes (p r : Nat) (s : State) : let t := (rowMoved p r).run s
    (t.pile p).mem.used = (s.pile p).mem.used ∧ (t.pile p).mem.remap = (s.pile p).mem.remap ∧ t.dram = s.dram ∧
    t.rd (pk .MEM_ROW_MOVES p) = s.counted (pk .MEM_ROW_MOVES p) 1 ∧ ∃ q ∈ t.boot.proposals, q.entry = rowEntry p r := by
  rw [rowMoved, Act.run_ask, Act.run_all_next, Act.run_all_next, Act.run_all_next, Act.run_all_next, Act.run_all_last]
  generalize hu : (modMem p fun m => { m with weak := if m.weak.contains r then m.weak else m.weak ++ [r] }).run
    ((bump (pk .MEM_ROW_MOVES p)).run s) = u
  have hmem : (u.pile p).mem.used = (s.pile p).mem.used ∧ (u.pile p).mem.remap = (s.pile p).mem.remap := by
    rw [← hu, pile_modMem, pile_bump]
    exact ⟨rfl, rfl⟩
  have hcount : u.rd (pk .MEM_ROW_MOVES p) = s.counted (pk .MEM_ROW_MOVES p) 1 := hu ▸ rd_bump_self s (pk .MEM_ROW_MOVES p) 1
  have hdram : u.dram = s.dram := hu ▸ rfl
  obtain ⟨hpile, hwords, hboot, hrd⟩ := moveSame_event (SMap.getD (s.pile p).mem.used (rowBank r) 0 == 656) 0x000D p p
    [lineChannel r, lineBank r] (waxDirty.run ((propose 3 (rowEntry p r)).run u))
  dsimp only
  rw [hpile, hwords, hboot, hrd]
  exact ⟨hmem.1, hmem.2, hdram, hcount, proposals_propose 3 (rowEntry p r) u⟩

theorem rowTaken (p r : Nat) (s : State) : SpareTaken s ((rowMoved p r).run ((takeSpare p r).run s)) p r := by
  obtain ⟨hremap, hused, hdram, hrd⟩ := takeSpare_takes p r s
  obtain ⟨hused', hremap', hdram', hcount, hfuse⟩ := rowMoved_notes p r ((takeSpare p r).run s)
  exact ⟨hdram'.trans hdram, by rw [hremap', hremap], by rw [hused', hused], hcount.trans (State.counted_congr hrd 1), hfuse⟩

/-! ## The row -/

section
variable {s : State} {p r : Nat} {rest : List Nat} (hmoves : (s.pile p).mem.moves = r :: rest) (hbound : s.atBoundary p = true)
  (hready : s.ready (domMem p) = true)
include hmoves hbound hready

theorem run_actSpareMove : (actSpareMove p).run s = (unqueue p r).run
    (if SMap.getD (s.pile p).mem.used (rowBank r) 0 < 656
     then (rowMoved p r).run ((takeSpare p r).run ((Act.each (rowLines r) fun x => moveLine p x 2).run s)) else s) := by
  have hgo : ¬ (!s.atBoundary p || !s.ready (domMem p)) = true := by simp [hbound, hready]
  rw [actSpareMove, Act.run_ask, hmoves]
  dsimp only
  rw [if_neg hgo, Act.run_seq, Act.run_when, Act.run_all_next, Act.run_all_next, Act.run_all_last, unqueue]
  simp only [decide_eq_true_eq]

/-- A bank without a free spare row keeps its row in place (R373). -/
theorem actSpareMove_full (hfull : 656 ≤ SMap.getD (s.pile p).mem.used (rowBank r) 0) :
    ((actSpareMove p).run s).dram = s.dram ∧ (((actSpareMove p).run s).pile p).mem.moves = rest.filter (fun x => x != r) := by
  rw [run_actSpareMove hmoves hbound hready, if_neg (Nat.not_lt.mpr hfull), unqueue, pile_modMem, hmoves]
  refine ⟨rfl, ?_⟩
  dsimp only
  rw [List.filter_cons_of_neg (by simp)]

/-- A row moves to its bank's next spare row, and its lines with it (R372). -/
theorem actSpareMove_moves (hp : p < 16) (harmed : s.on (pk .MEM_INJECT_ARMED p) = false)
    (hfree : SMap.getD (s.pile p).mem.used (rowBank r) 0 < 656) : let t := (actSpareMove p).run s
    SMap.find? (t.pile p).mem.remap r = some (SMap.getD (s.pile p).mem.used (rowBank r) 0) ∧
    SMap.getD (t.pile p).mem.used (rowBank r) 0 = SMap.getD (s.pile p).mem.used (rowBank r) 0 + 1 ∧
    t.rd (pk .MEM_ROW_MOVES p) = s.counted (pk .MEM_ROW_MOVES p) 1 ∧ (∃ q ∈ t.boot.proposals, q.entry = rowEntry p r) ∧
    (∀ x ∈ rowLines r, x < dramLines → (s.readOut p x).kind = .data → t.dramWord (dramAddr p x) = encodeWord (s.readOut p x).line) ∧
    ∀ a, (∀ x ∈ rowLines r, a ≠ dramAddr p x) → t.dramWord a = s.dramWord a := by
  have hplain : s.memPlain p := ⟨by
    simp only [State.ready, Bool.and_eq_true, beq_iff_eq] at hready
    omega, harmed⟩
  have hlines := each_moveLine hp (nodup_rowLines r) hplain
  rw [run_actSpareMove hmoves hbound hready, if_pos hfree]
  generalize (Act.each (rowLines r) fun x => moveLine p x 2).run s = u at hlines
  have hused : (u.pile p).mem.used = (s.pile p).mem.used := congrArg (fun m => m.1) (hlines.mem p)
  obtain ⟨hdram, hremap, hnext, hcount, hfuse⟩ := rowTaken p r u
  generalize (rowMoved p r).run ((takeSpare p r).run u) = v at hdram hremap hnext hcount hfuse
  have hwords : ∀ a, ((unqueue p r).run v).dramWord a = u.dramWord a := fun a => by
    rw [State.dramWord, show ((unqueue p r).run v).dram = v.dram from rfl, hdram, State.dramWord]
  have hmem := pile_modMem p (fun m => { m with moves := m.moves.filter (fun x => x != r) }) v
  dsimp only
  simp only [hwords]
  refine ⟨?_, ?_, ?_, hfuse, hlines.data, hlines.rest⟩
  · rw [unqueue, hmem]
    exact hremap.trans (by rw [hused])
  · rw [unqueue, hmem]
    exact hnext.trans (by rw [hused])
  · exact hcount.trans (State.counted_congr (hlines.rd _ (show Fld.MEM_ROW_MOVES ∈ tendFlds by decide)) 1)

end

end Sys2Proof.Machine
end

section
/-! PROOFS. The device aborts itself (R375, R469, R563): what the abort of a job leaves alone. -/

namespace Sys2Proof.Machine

/-! ## Power domains -/

/-- What is under way at every domain (R504). -/
def State.doms (s : State) : SMap DomSt := s.pwr.doms

theorem overlooks_doms : Overlooks State.doms := fun u s hu => by
  cases u with
  | dram a c => exact congrArg PwrSt.doms (Upd.pwr_dram a c s)
  | sram a l => exact congrArg PwrSt.doms (Upd.pwr_sram a l s)
  | openHalf v | openSession v | pushEvent v => simp only [Upd.apply]; split <;> rfl
  | pile _ _ | port _ _ _ | bridge _ _ _ | pwr _ | restart _ => exact absurd hu id
  | _ => rfl

theorem doms_modPile (p : Nat) (f : Pile → Pile) (s : State) : ((modPile p f).run s).doms = s.doms := rfl
theorem doms_modPort (p k : Nat) (f : Port → Port) (s : State) : ((modPort p k f).run s).doms = s.doms := rfl

/-- The fields that an abort writes beside the job's state (R468, R469). -/
def abortFlds : List Fld := [.THERM_STATUS_HOT_ABORT, .JOB_STATE_WATCHDOG, .JOB_STATE_ABORT_PILES, .ARR_BUSY_CLK, .ARR_STALL_CLK,
  .GOV_STATUS_FILLER, .TSQ_STATUS_RUN, .TSQ_STATUS_STALL, .TSQ_STATUS_IN_IDLE, .SW_STATUS_STAND_IN, .SW_STATUS_GATE_HELD,
  .LNK_STATUS_STATE, .MEM_POISON_WRITE, .MEM_INJECT_ARMED] ++ eventFlds

section
variable {fs : List Fld} {r : State} (hfs : ∀ g ∈ abortFlds, g ∉ fs)
include hfs

theorem lift_abortFlds : ∀ g ∈ liftFlds, g ∉ fs := fun g hg => hfs g (List.mem_append_right _ (List.mem_cons_of_mem _ hg))
theorem event_abortFlds : ∀ g ∈ eventFlds, g ∉ fs := fun g hg => hfs g (List.mem_append_right _ hg)

theorem abort_setR {k : FKey} (hk : k.f ∈ abortFlds) (v : Nat) : (setR k v).Keeps (Beside State.doms fs r) :=
  beside_setR overlooks_doms (hfs _ hk) v
theorem abort_bump {k : FKey} (hk : k.f ∈ abortFlds) (n : Nat) : (bump k n).Keeps (Beside State.doms fs r) :=
  beside_bump overlooks_doms (hfs _ hk) n
theorem abort_reply (q : Req) (st d : Nat) (data : List Nat) : (reply q st d data).Keeps (Beside State.doms fs r) :=
  beside_reply overlooks_doms (lift_abortFlds hfs) q st d data

theorem abort_cutArray (p t a : Nat) : (cutArray p t a).Keeps (Beside State.doms fs r) :=
  Act.keeps_asked fun _ => Act.keeps_each fun _ _ => beside_withFree overlooks_doms fun _ => beside_withFree overlooks_doms fun _ =>
    Act.keeps_seq (abort_bump hfs (show Fld.ARR_BUSY_CLK ∈ abortFlds by decide) _)
      (abort_bump hfs (show Fld.ARR_STALL_CLK ∈ abortFlds by decide) _)

theorem abort_stopTile (p t : Nat) : (stopTile p t).Keeps (Beside State.doms fs r) := by
  have hset : ∀ {g : Fld} (v : Nat), g ∈ abortFlds → (setR (tk g p t) v).Keeps (Beside State.doms fs r) := fun v hg => abort_setR hfs hg v
  exact Act.keeps_list ⟨Act.keeps_each fun a _ => abort_cutArray hfs p t a,
    Act.keeps_asked fun _ => Act.keeps_when (Act.keeps_asked fun _ => Act.keeps_when
      (abort_setR hfs (show Fld.GOV_STATUS_FILLER ∈ abortFlds by decide) _)),
    hset 0 (by decide), hset 0 (by decide), hset 0 (by decide), beside_modTile overlooks_doms p t _⟩

theorem abort_startDueSwaps (p : Nat) : (startDueSwaps p).Keeps (Beside State.doms fs r) :=
  Act.keeps_each fun k _ => Act.keeps_seq (beside_modPort p k (doms_modPort p k _))
    (Act.keeps_asked fun _ => Act.keeps_when (abort_setR hfs (show Fld.LNK_STATUS_STATE ∈ abortFlds by decide) 9))

theorem abort_stopPile (p : Nat) : (stopPile p).Keeps (Beside State.doms fs r) :=
  Act.keeps_asked fun _ => Act.keeps_list ⟨Act.keeps_each fun t _ => abort_stopTile hfs p t, beside_modPile p (doms_modPile p _),
    abort_setR hfs (show Fld.SW_STATUS_STAND_IN ∈ abortFlds by decide) 1, abort_setR hfs (show Fld.SW_STATUS_GATE_HELD ∈ abortFlds by decide) 1,
    beside_modPile p (doms_modPile p _), abort_startDueSwaps hfs p⟩

theorem abort_cutXfers (which : XKind → Bool) : (cutXfers which).Keeps (Beside State.doms fs r) := by
  have hdrop : ∀ (id x : Nat), (modXfer id x fun y => { y with drop := true }).Keeps (Beside State.doms fs r) := fun id x =>
    beside_lift overlooks_doms (lift_modSession id _) (lift_abortFlds hfs) fun s hs =>
      settled_of hs (marks_send (send_modSession id _) s s (LiftMarks.refl s)) (all_modSession (by intro _ h; exact h) id s hs.held)
  exact Act.keeps_asked fun _ => Act.keeps_each fun _ _ => Act.keeps_each fun _ _ => Act.keeps_seq (hdrop _ _) (abort_reply hfs _ _ _ _)

theorem abort_cutParked (which : Instr → Bool) : (cutParked which).Keeps (Beside State.doms fs r) :=
  Act.keeps_asked fun _ => Act.keeps_seq
    (beside_modLift overlooks_doms (lift_abortFlds hfs) (fun _ => rfl) (fun _ => rfl) fun l hl => by dsimp only; rw [hl, List.filter_nil])
    (Act.keeps_each fun _ _ => abort_reply hfs _ _ _ _)

theorem abort_cutReq (q : Option Req) : (cutReq q).Keeps (Beside State.doms fs r) := by
  cases q with
  | none => exact Act.keeps_done _
  | some q => exact abort_reply hfs q _ _ _

theorem abort_fillLines (p : Nat) (f : FillRun) (k n : Nat) : (fillLines p f k n).Keeps (Beside State.doms fs r) := by
  have hstore : ∀ x c, (emit (.dram x c)).Keeps (Beside State.doms fs r) := fun _ _ => beside_of_only overlooks_doms ⟨trivial, trivial⟩
  induction n generalizing k with
  | zero => exact Act.keeps_done _
  | succ n ih =>
    exact Act.keeps_seq (Act.keeps_seq (Act.keeps_when (abort_bump hfs (show Fld.MEM_POISON_WRITE ∈ abortFlds by decide) 1))
      (Act.keeps_asked fun _ => Act.keeps_ite
        (Act.keeps_seq (abort_setR hfs (show Fld.MEM_INJECT_ARMED ∈ abortFlds by decide) 0) (hstore _ _)) (hstore _ _))) (ih (k + 1))

theorem abort_cutFills : cutFills.Keeps (Beside State.doms fs r) := by
  have hcut : ∀ (q : Req) (xs : List (Nat × FillRun)) (n : Nat), (cutFill q xs n).Keeps (Beside State.doms fs r) := fun q xs => by
    induction xs with
    | nil => exact fun n => abort_reply hfs q _ _ _
    | cons x xs ih =>
      exact fun n => beside_withFree overlooks_doms fun m => Act.keeps_list
        ⟨abort_fillLines hfs x.1 x.2 0 _, beside_modPile x.1 (doms_modPile x.1 _), ih _⟩
  refine Act.keeps_asked fun _ => Act.keeps_each fun q _ => Act.keeps_asked fun t => ?_
  split
  · exact Act.keeps_done _
  · exact hcut q _ _

/-- What the abort of a started job does once the job's state shows it (R468, R469). -/
def stopJob (start resume : Option Req) : Act := Act.all [
  setR (dk .JOB_STATE_WATCHDOG) 0, setR (dk .JOB_STATE_ABORT_PILES) 0, Act.each allPiles stopPile, modHold (fun _ => {}),
  cutXfers isMemWrite, cutParked (fun c => (runsOf c).any LineRun.writes), cutReq start, cutReq resume,
  modJob (fun j => { j with startReq := none, resumeReq := none }), modPwr (fun x => { x with inGate := false, since := none })]

omit hfs in
theorem run_abortStarted (s : State) :
    abortStarted.run s = (stopJob s.job.startReq s.job.resumeReq).run ((setR (dk .JOB_STATE_STATE) jsAborting).run s) := by
  rw [abortStarted, Act.run_ask, Act.run_all_next]
  rfl

theorem abort_stopJob (a b : Option Req) : (stopJob a b).Keeps (Beside State.doms fs r) :=
  Act.keeps_list ⟨abort_setR hfs (show Fld.JOB_STATE_WATCHDOG ∈ abortFlds by decide) 0,
    abort_setR hfs (show Fld.JOB_STATE_ABORT_PILES ∈ abortFlds by decide) 0, Act.keeps_each fun p _ => abort_stopPile hfs p,
    beside_modHold overlooks_doms _, abort_cutXfers hfs _, abort_cutParked hfs _, abort_cutReq hfs a, abort_cutReq hfs b,
    beside_modJob overlooks_doms _, beside_modPwr fun _ => rfl⟩

section
variable (hjob : Fld.JOB_STATE_STATE ∉ fs)
include hjob

theorem abort_abortStarted : abortStarted.Keeps (Beside State.doms fs r) := fun s hs => by
  rw [run_abortStarted]
  exact abort_stopJob hfs _ _ _ (beside_setR overlooks_doms hjob _ s hs)

theorem abort_abortIdle : abortIdle.Keeps (Beside State.doms fs r) :=
  Act.keeps_asked fun _ => Act.keeps_list ⟨abort_setR hfs (show Fld.JOB_STATE_WATCHDOG ∈ abortFlds by decide) 0,
    abort_setR hfs (show Fld.JOB_STATE_ABORT_PILES ∈ abortFlds by decide) 0, abort_cutFills hfs, abort_cutXfers hfs _, abort_cutParked hfs _,
    Act.keeps_when (Act.keeps_seq (beside_setR overlooks_doms hjob _) (Act.keeps_each fun p _ => abort_startDueSwaps hfs p))⟩

/-- An abort of the device's own leaves the domains' transitions alone, and nothing to be taken up (R563). -/
theorem abort_selfAbort (thermal : Bool) : (selfAbort thermal).Keeps (Beside State.doms fs r) := by
  have hflag : ∀ v, (setR (dk .THERM_STATUS_HOT_ABORT) v).Keeps (Beside State.doms fs r) := fun v =>
    abort_setR hfs (show Fld.THERM_STATUS_HOT_ABORT ∈ abortFlds by decide) v
  have hdone : (withFree fun f => abortDone 0 (f % 2 ^ 32)).Keeps (Beside State.doms fs r) := beside_withFree overlooks_doms fun _ =>
    beside_raiseEvent overlooks_doms (event_abortFlds hfs) _ _ _
  have hlate : ∀ b, (Act.when b (modJob fun j => { j with doneDue := true })).Keeps (Beside State.doms fs r) := fun _ =>
    Act.keeps_when (beside_modJob overlooks_doms _)
  exact Act.keeps_asked fun _ => Act.keeps_asked fun _ => Act.keeps_ite (Act.keeps_seq (Act.keeps_when (hflag 1)) hdone)
    (Act.keeps_list ⟨hflag _, Act.keeps_ite (Act.keeps_seq (hlate _) (abort_abortStarted hfs hjob))
      (Act.keeps_ite (hlate _) (Act.keeps_seq (abort_abortIdle hfs hjob) (Act.keeps_asked fun _ => Act.keeps_ite (hlate _) hdone)))⟩)

end
end

end Sys2Proof.Machine
end

section
/-! PROOFS. A memory's temperature (R374, R375): what its sensors set, the abort that its heat starts, and the memories' self-refresh. -/

namespace Sys2Proof.Machine

/-! ## The sensors (R374) -/

/-- What the higher of a memory's two sensors sets. -/
structure Sensed (s t : State) (p : Nat) (v : Int) : Prop where
  temp  : t.rd (pk .MEM_STATUS_TEMP p) = signed16 v
  hot   : t.rd (pk .MEM_STATUS_HOT p) = if 85 * 16 < v then 1 else if v < 83 * 16 then 0 else s.rd (pk .MEM_STATUS_HOT p)
  above : t.rd (pk .MEM_STATUS_OVER_TEMP p) = if 95 * 16 < v then 1 else 0
  alert : 95 * 16 < v → t.rd (dk .THERM_STATUS_ALERT_ON) = 1

/-- The fields that the sensors set. -/
def senseFlds : List Fld := [.MEM_STATUS_TEMP, .MEM_STATUS_HOT, .MEM_STATUS_OVER_TEMP, .THERM_STATUS_ALERT_ON]

theorem Sensed.of_rd {s t u : State} {p : Nat} {v : Int} (h : Sensed s t p v) (hrd : ∀ k : FKey, k.f ∈ senseFlds → u.rd k = t.rd k) :
    Sensed s u p v := by
  obtain ⟨htemp, hhot, habove, halert⟩ := h
  exact ⟨(hrd _ (show Fld.MEM_STATUS_TEMP ∈ senseFlds by decide)).trans htemp, (hrd _ (show Fld.MEM_STATUS_HOT ∈ senseFlds by decide)).trans hhot,
    (hrd _ (show Fld.MEM_STATUS_OVER_TEMP ∈ senseFlds by decide)).trans habove,
    fun hv => (hrd _ (show Fld.THERM_STATUS_ALERT_ON ∈ senseFlds by decide)).trans (halert hv)⟩

theorem signed16_clip (v : Int) : clipTo 16 (signed16 v) = signed16 v :=
  Nat.mod_eq_of_lt (by rw [signed16]; omega)

/-- OVER_TEMP's flag and its alert, before the event of its crossing. -/
def overFlags (p : Nat) : Act := (setR (pk .MEM_STATUS_OVER_TEMP p) 1).seq (setR (dk .THERM_STATUS_ALERT_ON) 1)

theorem run_overCheck (p : Nat) (t0 t1 : Int) (s : State) :
    (overCheck p t0 t1).run s = if 95 * 16 < max t0 t1 then
      (Act.when (!s.on (pk .MEM_STATUS_OVER_TEMP p)) (raiseEvent 0x000E p (bytesLE 2 (signed16 (max t0 t1))))).run ((overFlags p).run s)
    else (setR (pk .MEM_STATUS_OVER_TEMP p) 0).run s := by
  rw [overCheck, Act.run_ask, Act.run_ite]
  refine if_congr Iff.rfl ?_ rfl
  rw [Act.run_all_next, Act.run_all_next, Act.run_all_last, overFlags, Act.run_seq]

section
variable (p : Nat) (t0 t1 : Int) (s : State)

theorem hotCheck_sets : ((hotCheck p t0 t1).run s).rd (pk .MEM_STATUS_HOT p) =
    if 85 * 16 < max t0 t1 then 1 else if max t0 t1 < 83 * 16 then 0 else s.rd (pk .MEM_STATUS_HOT p) := by
  rw [hotCheck]
  split
  · exact rd_setR_self _ _ _
  · split
    · exact rd_setR_self _ _ _
    · rfl

theorem hotCheck_rd {k : FKey} (hk : k.f ≠ .MEM_STATUS_HOT) : ((hotCheck p t0 t1).run s).rd k = s.rd k := by
  rw [hotCheck]
  split
  · exact rd_setR_of_ne hk _ _
  · split
    · exact rd_setR_of_ne hk _ _
    · rfl

theorem rd_whenEvent {k : FKey} (hk : k.f ∉ eventFlds) (b : Bool) (c q : Nat) (d : List Nat) :
    ((Act.when b (raiseEvent c q d)).run s).rd k = s.rd k := by
  rw [Act.run_when]
  split
  · exact rd_raiseEvent hk c q d s
  · rfl

theorem overCheck_rd {k : FKey} (hk : k.f ∉ Fld.MEM_STATUS_OVER_TEMP :: .THERM_STATUS_ALERT_ON :: eventFlds) :
    ((overCheck p t0 t1).run s).rd k = s.rd k := by
  obtain ⟨hover, halert, hevent⟩ : k.f ≠ .MEM_STATUS_OVER_TEMP ∧ k.f ≠ .THERM_STATUS_ALERT_ON ∧ k.f ∉ eventFlds := by
    simpa only [List.mem_cons, not_or] using hk
  rw [run_overCheck]
  split
  · rw [rd_whenEvent _ hevent, overFlags, Act.run_seq, rd_setR_of_ne halert, rd_setR_of_ne hover]
  · exact rd_setR_of_ne hover _ _

theorem overCheck_sets : let t := (overCheck p t0 t1).run s
    t.rd (pk .MEM_STATUS_OVER_TEMP p) = (if 95 * 16 < max t0 t1 then 1 else 0) ∧
    (95 * 16 < max t0 t1 → t.rd (dk .THERM_STATUS_ALERT_ON) = 1) := by
  dsimp only
  rw [run_overCheck]
  split
  · rw [rd_whenEvent _ (show Fld.MEM_STATUS_OVER_TEMP ∉ eventFlds by decide), rd_whenEvent _ (show Fld.THERM_STATUS_ALERT_ON ∉ eventFlds by decide),
      overFlags, Act.run_seq, rd_setR_of_ne (show Fld.MEM_STATUS_OVER_TEMP ≠ .THERM_STATUS_ALERT_ON by decide), rd_setR_self, rd_setR_self]
    exact ⟨rfl, fun _ => rfl⟩
  · next h => exact ⟨rd_setR_self _ _ _, fun hv => absurd hv h⟩

theorem run_doubledRefresh :
    (actDoubledRefresh p t0 t1).run s = (overCheck p t0 t1).run ((hotCheck p t0 t1).run ((dramTemp p t0 t1).run s)) := by
  rw [actDoubledRefresh, Act.run_all_next, Act.run_all_next, Act.run_all_last]

theorem doubledRefresh_senses : Sensed s ((actDoubledRefresh p t0 t1).run s) p (max t0 t1) := by
  obtain ⟨habove, halert⟩ := overCheck_sets p t0 t1 ((hotCheck p t0 t1).run ((dramTemp p t0 t1).run s))
  rw [← run_doubledRefresh] at habove halert
  refine ⟨?_, ?_, habove, halert⟩
  · rw [run_doubledRefresh, overCheck_rd _ _ _ _ (show Fld.MEM_STATUS_TEMP ∉ Fld.MEM_STATUS_OVER_TEMP :: .THERM_STATUS_ALERT_ON :: eventFlds by decide),
      hotCheck_rd _ _ _ _ (show Fld.MEM_STATUS_TEMP ≠ .MEM_STATUS_HOT by decide), dramTemp, rd_setR_self]
    exact signed16_clip _
  · rw [run_doubledRefresh, overCheck_rd _ _ _ _ (show Fld.MEM_STATUS_HOT ∉ Fld.MEM_STATUS_OVER_TEMP :: .THERM_STATUS_ALERT_ON :: eventFlds by decide),
      hotCheck_sets, dramTemp,
      rd_setR_of_ne (show Fld.MEM_STATUS_HOT ≠ .MEM_STATUS_TEMP by decide)]

/-- What the sensors set before OVER_TEMP is looked at. -/
theorem beforeOver_same : let u := (hotCheck p t0 t1).run ((dramTemp p t0 t1).run s)
    u.lift = s.lift ∧ u.events = s.events ∧ u.dram = s.dram ∧ u.boot = s.boot := by
  rw [hotCheck]
  split
  · exact ⟨rfl, rfl, rfl, rfl⟩
  · split <;> exact ⟨rfl, rfl, rfl, rfl⟩

theorem doubledRefresh_same : ((actDoubledRefresh p t0 t1).run s).boot = s.boot ∧ ((actDoubledRefresh p t0 t1).run s).dram = s.dram := by
  obtain ⟨-, -, hdram, hboot⟩ := beforeOver_same p t0 t1 s
  rw [run_doubledRefresh, run_overCheck, ← hdram, ← hboot]
  split
  · rw [Act.run_when]
    split
    · exact raiseEvent_same _ _ _ _
    · exact ⟨rfl, rfl⟩
  · exact ⟨rfl, rfl⟩

/-- The crossing of 95 °C raises its event (R375). -/
theorem doubledRefresh_raises (hv : 95 * 16 < max t0 t1) (hoff : s.on (pk .MEM_STATUS_OVER_TEMP p) = false) :
    Raised s ((actDoubledRefresh p t0 t1).run s) 0x000E p (bytesLE 2 (signed16 (max t0 t1))) := by
  obtain ⟨hlift, hevents, -, -⟩ := beforeOver_same p t0 t1 s
  have hrd : ∀ k : FKey, k.f ≠ .MEM_STATUS_HOT → k.f ≠ .MEM_STATUS_TEMP →
      ((hotCheck p t0 t1).run ((dramTemp p t0 t1).run s)).rd k = s.rd k := fun k hhot htemp => by
    rw [hotCheck_rd _ _ _ _ hhot, dramTemp, rd_setR_of_ne htemp]
  have hoff' : (!((hotCheck p t0 t1).run ((dramTemp p t0 t1).run s)).on (pk .MEM_STATUS_OVER_TEMP p)) = true := by
    rw [State.on, hrd _ (show Fld.MEM_STATUS_OVER_TEMP ≠ .MEM_STATUS_HOT by decide) (show Fld.MEM_STATUS_OVER_TEMP ≠ .MEM_STATUS_TEMP by decide),
      ← State.on, hoff, Bool.not_false]
  rw [run_doubledRefresh, run_overCheck, if_pos hv, Act.run_when, if_pos hoff']
  refine (raised_raiseEvent _ _ _ _).of_before hlift hevents ?_
  rw [overFlags, Act.run_seq, rd_setR_of_ne (show Fld.EVT_LOST ≠ .THERM_STATUS_ALERT_ON by decide),
    rd_setR_of_ne (show Fld.EVT_LOST ≠ .MEM_STATUS_OVER_TEMP by decide),
    hrd _ (show Fld.EVT_LOST ≠ .MEM_STATUS_HOT by decide) (show Fld.EVT_LOST ≠ .MEM_STATUS_TEMP by decide)]

end

/-- The sensors leave other fields alone, and nothing to be taken up. -/
theorem beside_doubledRefresh {β : Type} {view : State → β} (hview : Overlooks view) {fs : List Fld} {r : State}
    (hsense : ∀ g ∈ senseFlds, g ∉ fs) (hevent : ∀ g ∈ eventFlds, g ∉ fs) (p : Nat) (t0 t1 : Int) :
    (actDoubledRefresh p t0 t1).Keeps (Beside view fs r) := by
  have hset : ∀ {k : FKey} (v : Nat), k.f ∈ senseFlds → (setR k v).Keeps (Beside view fs r) := fun v hk => beside_setR hview (hsense _ hk) v
  exact Act.keeps_list ⟨hset _ (show Fld.MEM_STATUS_TEMP ∈ senseFlds by decide),
    Act.keeps_ite (hset 1 (show Fld.MEM_STATUS_HOT ∈ senseFlds by decide))
      (Act.keeps_ite (hset 0 (show Fld.MEM_STATUS_HOT ∈ senseFlds by decide)) (Act.keeps_done _)),
    Act.keeps_asked fun _ => Act.keeps_ite
      (Act.keeps_list ⟨hset 1 (show Fld.MEM_STATUS_OVER_TEMP ∈ senseFlds by decide), hset 1 (show Fld.THERM_STATUS_ALERT_ON ∈ senseFlds by decide),
        Act.keeps_when (beside_raiseEvent hview hevent _ _ _)⟩)
      (hset 0 (show Fld.MEM_STATUS_OVER_TEMP ∈ senseFlds by decide))⟩

/-! ## A memory enters self-refresh (R375, R504) -/

/-- The fields of a domain's state and transition. -/
def domFlds : List Fld := [.PWR_STATE_STATE, .PWR_STATE_ENTERING, .PWR_STATE_WAKING]

/-- A domain's state and transition are unchanged. -/
def DomKept (d : Nat) (s t : State) : Prop := (∀ f ∈ domFlds, t.rd (dk f d) = s.rd (dk f d)) ∧ t.dom d = s.dom d

theorem DomKept.refl (d : Nat) (s : State) : DomKept d s s := ⟨fun _ _ => rfl, rfl⟩

theorem DomKept.trans {d : Nat} {s t u : State} (h : DomKept d s t) (k : DomKept d t u) : DomKept d s u :=
  ⟨fun f hf => (k.1 f hf).trans (h.1 f hf), k.2.trans h.2⟩

section
variable {d : Nat} {s t : State} (h : DomKept d s t)
include h

theorem DomKept.power : t.power d = s.power d := h.1 _ (show Fld.PWR_STATE_STATE ∈ domFlds by decide)
theorem DomKept.entering : t.on (pEnter d) = s.on (pEnter d) := by
  rw [State.on, pEnter, h.1 _ (show Fld.PWR_STATE_ENTERING ∈ domFlds by decide), ← State.on]
theorem DomKept.waking : t.on (pWake d) = s.on (pWake d) := by
  rw [State.on, pWake, h.1 _ (show Fld.PWR_STATE_WAKING ∈ domFlds by decide), ← State.on]

theorem DomKept.still (hs : s.Still d) : t.Still d := by
  obtain ⟨hentering, hwaking, hto, hnext⟩ := hs
  exact ⟨h.entering.trans hentering, h.waking.trans hwaking, by rw [h.2, hto], by rw [h.2, hnext]⟩

end

/-- What leaves a domain's fields and the transitions alone leaves the domain alone. -/
theorem Beside.domKept {fs : List Fld} {s t : State} (h : Beside State.doms fs s t) (hfs : ∀ f ∈ domFlds, f ∈ fs) (d : Nat) : DomKept d s t :=
  ⟨fun f hf => h.rd _ (hfs f hf), congrArg (fun m : SMap DomSt => SMap.getD m d {}) h.seen⟩

theorem code_dk_ne {i i' : Nat} (hi : i < 131072) (hi' : i' < 131072) (h : i ≠ i') (f g : Fld) : (dk f i).code ≠ (dk g i').code := by
  simp only [FKey.code, dk]
  omega

section
variable {d d' : Nat} {r : State} (hd : d < 131072) (hd' : d' < 131072) (hne : d ≠ d')
include hd hd' hne

theorem domKept_setR (f : Fld) (v : Nat) : (setR (dk f d') v).Keeps (DomKept d r) := fun _ hs =>
  hs.trans ⟨fun g _ => Upd.rd_reg_of_ne v _ (code_dk_ne hd hd' hne g f), rfl⟩

omit hd hd' in
theorem domKept_modDom (f : DomSt → DomSt) : (modDom d' f).Keeps (DomKept d r) := fun _ hs =>
  hs.trans ⟨fun _ _ => rfl, SMap.getD_put_of_ne _ _ _ hne⟩

end

theorem dom_modDom_self (d : Nat) (f : DomSt → DomSt) (s : State) : ((modDom d f).run s).dom d = f (s.dom d) :=
  SMap.getD_put_self _ _ _ _

theorem linkLeaves_domMem (q : Nat) : linkLeaves (domMem q) = .done := by
  rw [linkLeaves, domMem, if_neg (by omega), if_neg (by omega), if_neg (by omega)]

theorem domMem_lt {q : Nat} (hq : q < 16) : domMem q < 131072 := by rw [domMem]; omega

section
variable {q : Nat} (target : Nat) {r : State}

theorem domKept_enterMem {x : Nat} (hq : q < 16) (hx : x < 16) (hne : q ≠ x) : (enter (domMem x) target).Keeps (DomKept (domMem q) r) := by
  have hd : domMem q ≠ domMem x := by rw [domMem, domMem]; omega
  have hset : ∀ f v, (setR (dk f (domMem x)) v).Keeps (DomKept (domMem q) r) := domKept_setR (domMem_lt hq) (domMem_lt hx) hd
  have hmod : ∀ f, (modDom (domMem x) f).Keeps (DomKept (domMem q) r) := domKept_modDom hd
  rw [enter]
  refine Act.keeps_asked fun _ => Act.keeps_ite (hmod _) (Act.keeps_ite (hmod _) (Act.keeps_ite (Act.keeps_done _)
    (Act.keeps_ite (Act.keeps_seq (Act.keeps_seq (hset _ 1) (hmod _)) (hmod _)) ?_)))
  rw [beginEntry, linkLeaves_domMem]
  exact Act.keeps_list ⟨hset _ 1, hmod _, Act.keeps_done _⟩

theorem beside_enterMem {fs : List Fld} (hentering : Fld.PWR_STATE_ENTERING ∉ fs) (hwaking : Fld.PWR_STATE_WAKING ∉ fs) (q : Nat) :
    (enter (domMem q) target).Keeps (Beside (fun _ => ()) fs r) := by
  have hunit : Overlooks fun _ : State => () := fun _ _ _ => rfl
  have hmod : ∀ f, (modDom (domMem q) f).Keeps (Beside (fun _ => ()) fs r) := fun _ => beside_modDom _ fun _ => rfl
  rw [enter]
  refine Act.keeps_asked fun _ => Act.keeps_ite (hmod _) (Act.keeps_ite (hmod _) (Act.keeps_ite (Act.keeps_done _)
    (Act.keeps_ite (Act.keeps_seq (Act.keeps_seq (beside_setR hunit hwaking 1) (hmod _)) (hmod _)) ?_)))
  rw [beginEntry, linkLeaves_domMem]
  exact Act.keeps_list ⟨beside_setR hunit hentering 1, hmod _, Act.keeps_done _⟩

theorem enterMem_begins (htarget : target ≠ 0) {s : State} (hstill : s.Still (domMem q)) (hon : s.power (domMem q) = 0) :
    let t := (enter (domMem q) target).run s
    t.on (pEnter (domMem q)) = true ∧ (t.dom (domMem q)).to' = some target := by
  dsimp only
  rw [enter, Act.run_ask, if_neg (by rw [hstill.waking]; decide), if_neg (by rw [hstill.entering]; decide),
    if_neg (by rw [hon]; exact htarget.symm), if_neg (by rw [hon]; decide), beginEntry, linkLeaves_domMem, Act.run_all_next, Act.run_all_next, Act.run_all_last,
    Act.run_done]
  constructor
  · exact congrArg (· != 0) (rd_setR_self (pEnter (domMem q)) 1 s)
  · rw [dom_modDom_self]

/-- Of several memories that enter, each that was ON and still has begun to. -/
theorem each_enterMem (htarget : target ≠ 0) {xs : List Nat} (hxs : xs.Nodup) (hlt : ∀ x ∈ xs, x < 16) (hq : q ∈ xs) {s : State}
    (hstill : s.Still (domMem q)) (hon : s.power (domMem q) = 0) : let t := (Act.each xs fun x => enter (domMem x) target).run s
    t.on (pEnter (domMem q)) = true ∧ (t.dom (domMem q)).to' = some target := by
  induction xs generalizing s with
  | nil => exact absurd hq List.not_mem_nil
  | cons x xs ih =>
    obtain ⟨hnew, hxs'⟩ := List.nodup_cons.mp hxs
    have hlt' : ∀ y ∈ xs, y < 16 := fun y hy => hlt y (List.mem_cons_of_mem x hy)
    rw [Act.run_each_cons]
    by_cases hqx : q = x
    · subst hqx
      obtain ⟨hentering, hto⟩ := enterMem_begins target htarget hstill hon
      have hrest : DomKept (domMem q) ((enter (domMem q) target).run s) _ := Act.keeps_each
        (fun y hy => domKept_enterMem target (hlt q List.mem_cons_self) (hlt' y hy) fun he => hnew (he ▸ hy)) _ (.refl _ _)
      exact ⟨hrest.entering.trans hentering, by rw [hrest.2, hto]⟩
    · have hone : DomKept (domMem q) s _ :=
        domKept_enterMem target (hlt q hq) (hlt x List.mem_cons_self) hqx _ (.refl _ s)
      exact ih hxs' hlt' ((List.mem_cons.mp hq).resolve_left hqx) (hone.still hstill) (hone.power.trans hon)

end

/-! ## The device aborts itself at 100 °C (R375, R469) -/

theorem selfAbort_aborts {s : State} (thermal : Bool) (hjob : s.jobStarted = true) (hboot : s.boot.run = none) :
    ((selfAbort thermal).run s).jobState = jsAborting := by
  have hnotlate : ∀ a, Act.when (!(s.jobStarted || s.jobState == jsAborting)) a = .done := fun a => by
    rw [hjob, Bool.true_or]
    rfl
  have hnone : ¬ s.boot.run.isSome = true := by rw [hboot]; exact Bool.false_ne_true
  have hrun : (selfAbort thermal).run s = abortStarted.run ((setB (dk .THERM_STATUS_HOT_ABORT) thermal).run s) := by
    rw [selfAbort, Act.run_ask, hnotlate, abortNow, Act.run_ask, if_neg hnone, Act.run_all_next, Act.run_all_last, if_pos hjob]
    rfl
  have hfs : ∀ g ∈ abortFlds, g ∉ [Fld.JOB_STATE_STATE] := by decide
  rw [hrun, run_abortStarted, State.jobState,
    (Beside.of_keeps (abort_stopJob (fs := [.JOB_STATE_STATE]) hfs _ _)).rd _ (List.mem_singleton_self _), rd_setR_self]
  rfl

/-- What the memories that are not OFF do at 100 °C. -/
def selfRefresh : Act := .ask fun s => Act.each (allPiles.filter fun q => s.power (domMem q) != 2) fun q => toState (domMem q) 1 true

theorem beside_selfRefresh {fs : List Fld} {r : State} (hentering : Fld.PWR_STATE_ENTERING ∉ fs) (hwaking : Fld.PWR_STATE_WAKING ∉ fs) :
    selfRefresh.Keeps (Beside (fun _ => ()) fs r) :=
  Act.keeps_asked fun _ => Act.keeps_each fun q _ => beside_enterMem 1 hentering hwaking q

theorem selfRefresh_enters {s : State} {q : Nat} (hq : q < 16) (hstill : s.Still (domMem q)) (hon : s.power (domMem q) = 0) :
    let t := selfRefresh.run s
    t.on (pEnter (domMem q)) = true ∧ (t.dom (domMem q)).to' = some 1 := by
  have hmem : q ∈ allPiles.filter fun q => s.power (domMem q) != 2 :=
    List.mem_filter.mpr ⟨List.mem_range.mpr hq, by rw [hon]; rfl⟩
  exact each_enterMem 1 Nat.one_ne_zero (List.nodup_range.filter _) (fun x hx => List.mem_range.mp (List.mem_filter.mp hx).1) hmem hstill hon

theorem run_dramHotAbort (p : Nat) (t0 t1 : Int) (s : State) : (actDramHotAbort p t0 t1).run s =
    (Act.when (decide (100 * 16 ≤ max t0 t1)) ((selfAbort true).seq selfRefresh)).run ((actDoubledRefresh p t0 t1).run s) := by
  rw [run_doubledRefresh, actDramHotAbort, Act.run_all_next, Act.run_all_next, Act.run_all_next, Act.run_all_last]
  rfl

/-- The state after a reading of 100 °C or more. -/
theorem dramHotAbort_aborts (p : Nat) (t0 t1 : Int) (s : State) : let u := (actDoubledRefresh p t0 t1).run s
    let t := selfRefresh.run ((selfAbort true).run u)
    Sensed s t p (max t0 t1) ∧ (s.Settled → t.Settled) ∧ (s.jobStarted = true → s.boot.run = none → t.jobState = jsAborting) ∧
    ∀ q, q < 16 → s.Still (domMem q) → s.power (domMem q) = 0 → t.on (pEnter (domMem q)) = true ∧ (t.dom (domMem q)).to' = some 1 := by
  intro u t
  have hsense : Beside State.doms (.JOB_STATE_STATE :: domFlds) s u :=
    .of_keeps (beside_doubledRefresh overlooks_doms (by decide) (by decide) p t0 t1)
  have habort : Beside State.doms (senseFlds ++ domFlds) u ((selfAbort true).run u) := .of_keeps (abort_selfAbort (by decide) (by decide) true)
  have hrefresh : Beside (fun _ => ()) (.JOB_STATE_STATE :: senseFlds) ((selfAbort true).run u) t :=
    .of_keeps (beside_selfRefresh (by decide) (by decide))
  refine ⟨(doubledRefresh_senses p t0 t1 s).of_rd fun k hk => ?_, fun hs => hrefresh.settled (habort.settled (hsense.settled hs)), ?_, ?_⟩
  · rw [hrefresh.rd k (List.mem_cons_of_mem _ hk), habort.rd k (List.mem_append_left _ hk)]
  · intro hjob hboot
    have hstate : u.jobState = s.jobState := hsense.rd _ List.mem_cons_self
    rw [State.jobState, hrefresh.rd _ List.mem_cons_self]
    refine selfAbort_aborts true ?_ ((congrArg BootSt.run (doubledRefresh_same p t0 t1 s).1).trans hboot)
    rw [State.jobStarted, hstate]
    exact hjob
  · intro q hq hstill hon
    have hdom := (hsense.domKept (fun f hf => List.mem_cons_of_mem _ hf) (domMem q)).trans
      (habort.domKept (fun f hf => List.mem_append_right _ hf) (domMem q))
    exact selfRefresh_enters hq (hdom.still hstill) (hdom.power.trans hon)

/-- What a reading below 100 °C leaves alone, and the event that it raises. -/
structure HeatSeen (s t : State) (p : Nat) (v : Int) : Prop extends Sensed s t p v where
  dram   : v < 100 * 16 → t.dram = s.dram
  raised : v < 100 * 16 → 95 * 16 < v → s.on (pk .MEM_STATUS_OVER_TEMP p) = false → Raised s t 0x000E p (bytesLE 2 (signed16 v))

theorem doubledRefresh_sees (p : Nat) (t0 t1 : Int) (s : State) : HeatSeen s ((actDoubledRefresh p t0 t1).run s) p (max t0 t1) :=
  ⟨doubledRefresh_senses p t0 t1 s, fun _ => (doubledRefresh_same p t0 t1 s).2, fun _ => doubledRefresh_raises p t0 t1 s⟩

theorem dramHotAbort_sees (p : Nat) (t0 t1 : Int) {s : State} (hs : s.Settled) : let t := (settled (actDramHotAbort p t0 t1)).run s
    HeatSeen s t p (max t0 t1) ∧
    (100 * 16 ≤ max t0 t1 → s.jobStarted = true → s.boot.run = none → t.jobState = jsAborting ∧
      ∀ q, q < 16 → s.Still (domMem q) → s.power (domMem q) = 0 → t.on (pEnter (domMem q)) = true ∧ (t.dom (domMem q)).to' = some 1) := by
  have hrun := run_dramHotAbort p t0 t1 s
  by_cases hhot : 100 * 16 ≤ max t0 t1
  · obtain ⟨hsensed, hsettled, hjob, hmem⟩ := dramHotAbort_aborts p t0 t1 s
    rw [Act.run_when, if_pos (decide_eq_true hhot), Act.run_seq] at hrun
    rw [← hrun] at hsensed hsettled hjob hmem
    rw [run_settled (hsettled hs)]
    exact ⟨⟨hsensed, fun h => absurd hhot (not_le.mpr h), fun h => absurd hhot (not_le.mpr h)⟩,
      fun _ hstarted hboot => ⟨hjob hstarted hboot, hmem⟩⟩
  · have hset : ((actDoubledRefresh p t0 t1).run s).Settled :=
      (Beside.of_keeps (beside_doubledRefresh (fs := []) overlooks_doms (by decide) (by decide) p t0 t1)).settled hs
    rw [Act.run_when, if_neg (by simpa using hhot)] at hrun
    rw [run_settled (by rw [hrun]; exact hset), hrun]
    exact ⟨doubledRefresh_sees p t0 t1 s, fun h => absurd h hhot⟩

end Sys2Proof.Machine
end

section

open Sys2Proof Sys2Proof.Machine

/-- Settles O46 (R367-R369, R374, R375). A groomed line is read before anything is written, and each way it can read ends in one write or none
(`groomLine_grooms`); the sensors' three settings are read back one by one (`doubledRefresh_senses`), and the abort at 100 °C keeps them, since
it writes none of their fields (`abort_selfAbort`), and leaves each memory's transition alone until the memories enter (`each_enterMem`). -/
theorem memoryAgentActs : Obligations.MemoryAgentActs := by
  unfold Obligations.MemoryAgentActs
  refine ⟨fun s p hs => ⟨_, rfl, actLeak_leaks hs p.val⟩, fun s p line hgo harmed hline => ?_, fun _ _ => rfl, fun s p t0 t1 hs c hc => ?_⟩
  · refine ⟨fun hnext hqueue => ?_, fun rest hqueue => ?_⟩
    · obtain ⟨⟨hrest, hlost, hmended, hstays⟩, hnoted⟩ := actGroom_grooms p.isLt hgo harmed hline hnext hqueue
      exact ⟨_, rfl, ⟨hrest, hlost, hmended, hstays⟩, hnoted⟩
    · obtain ⟨⟨hrest, hlost, hmended, hstays⟩, hgone⟩ := actTargetedGroom_grooms p.isLt hgo harmed hline hqueue
      exact ⟨_, rfl, ⟨hrest, hlost, hmended, hstays⟩, hgone⟩
  · simp only [List.mem_cons, List.not_mem_nil, or_false] at hc
    have hsees := doubledRefresh_sees p.val t0 t1 s
    rcases hc with rfl | rfl | rfl
    · exact ⟨_, rfl, hsees.temp, hsees.hot, hsees.above, hsees.dram, hsees.alert, hsees.raised, nofun⟩
    · exact ⟨_, rfl, hsees.temp, hsees.hot, hsees.above, hsees.dram, hsees.alert, hsees.raised, nofun⟩
    · obtain ⟨hseen, haborts⟩ := dramHotAbort_sees p.val t0 t1 hs.settled
      exact ⟨_, rfl, hseen.temp, hseen.hot, hseen.above, hseen.dram, hseen.alert, hseen.raised, fun _ => haborts⟩

end

section
/-! PROOFS. A spare tile takes a tile's place (R400, R401): the map's digit, the power of the two tiles, and what the move leaves alone. -/

namespace Sys2Proof.Machine

/-! ## The map's digits (R14) -/

/-- Digits below a multiple of the base's power do not tell of it. -/
theorem digit_below {i j : Nat} (h : i < j) (x b : Nat) : (16 ^ j * x + b) / 16 ^ i % 16 = b / 16 ^ i % 16 := by
  obtain ⟨k, rfl⟩ := Nat.exists_eq_add_of_lt h
  rw [show 16 ^ (i + k + 1) * x + b = 16 ^ i * (16 * (16 ^ k * x)) + b by ring, Nat.mul_add_div (by positivity), Nat.mul_add_mod]

/-- A digit changes in place, and no other does. -/
theorem digit_swap {m old new j : Nat} (i : Nat) (hold : m / 16 ^ j % 16 = old) (hnew : new < 16) :
    (m - old * 16 ^ j + new * 16 ^ j) / 16 ^ i % 16 = if i = j then new else m / 16 ^ i % 16 := by
  have hlow : m % 16 ^ j < 16 ^ j := Nat.mod_lt _ (by positivity)
  have hm : m = 16 ^ j * (16 * (m / 16 ^ j / 16) + old) + m % 16 ^ j := by
    rw [← hold, Nat.div_add_mod, Nat.div_add_mod]
  generalize m / 16 ^ j / 16 = a at hm
  generalize m % 16 ^ j = b at hm hlow
  subst hm
  have hswap : 16 ^ j * (16 * a + old) + b - old * 16 ^ j + new * 16 ^ j = 16 ^ j * (16 * a + new) + b := by
    rw [show 16 ^ j * (16 * a + old) + b = 16 ^ j * (16 * a) + b + old * 16 ^ j by ring, Nat.add_sub_cancel]
    ring
  have hdiv : ∀ x, (16 ^ j * x + b) / 16 ^ j = x := fun x => by
    rw [Nat.mul_add_div (by positivity), Nat.div_eq_of_lt hlow, Nat.add_zero]
  rw [hswap]
  rcases Nat.lt_trichotomy i j with h | rfl | h
  · rw [if_neg h.ne, digit_below h, digit_below h]
  · rw [if_pos rfl, hdiv, Nat.mul_add_mod, Nat.mod_eq_of_lt hnew]
  · obtain ⟨k, rfl⟩ := Nat.exists_eq_add_of_lt h
    have hup : ∀ d, d < 16 → (16 ^ j * (16 * a + d) + b) / 16 ^ (j + k + 1) = a / 16 ^ k := fun d hd => by
      rw [show 16 ^ (j + k + 1) = 16 ^ j * 16 * 16 ^ k by ring, ← Nat.div_div_eq_div_mul, ← Nat.div_div_eq_div_mul, hdiv,
        Nat.mul_add_div (by norm_num), Nat.div_eq_of_lt hd, Nat.add_zero]
    have hold' : old < 16 := by
      rw [← hold]
      exact Nat.mod_lt _ (by norm_num)
    rw [if_neg h.ne', hup new hnew, hup old hold']

/-- The map's 32 bits hold its eight digits. -/
theorem digit_clip {i : Nat} (hi : i < 8) (m : Nat) : clipTo 32 m / 16 ^ i % 16 = m / 16 ^ i % 16 := by
  obtain ⟨k, hk⟩ := Nat.exists_eq_add_of_lt hi
  have hpow : 2 ^ 32 = 16 ^ i * (16 * 16 ^ k) := by
    rw [show 2 ^ 32 = 16 ^ 8 by norm_num, hk]
    ring
  rw [clipTo, hpow, Nat.mod_mul_right_div_self, Nat.mod_mod_of_dvd _ (Nat.dvd_mul_right _ _)]

theorem State.physOf_eq (s : State) (p j : Nat) : s.physOf p j = s.rd (pk .FLT_STATUS_MAP p) / 16 ^ j % 16 := by
  rw [State.physOf, Nat.shiftRight_eq_div_pow, Nat.pow_mul]

theorem physOf_of_logOf {s : State} {p t j : Nat} (h : s.logOf p t = some j) : j < 8 ∧ s.physOf p j = t := by
  rw [State.logOf, List.find?_eq_some_iff_append] at h
  obtain ⟨hj, as, bs, hsplit, -⟩ := h
  exact ⟨List.mem_range.mp (hsplit ▸ List.mem_append_right as List.mem_cons_self), beq_iff_eq.mp hj⟩

/-! ## Work beside the substitutions -/

/-- Every pile's queued substitutions and spare tile. -/
def State.standIns (s : State) : Nat → List Subst × Option Nat := fun q => ((s.pile q).flt.queue, (s.pile q).flt.spare)

theorem overlooks_standIns : Overlooks State.standIns := fun u s hu => by
  have hpile : ∀ q, (u.apply s).pile q = s.pile q := by
    refine Upd.NoPile.pile_apply (u := u) ?_ s
    cases u with
    | pile _ _ | port _ _ _ | bridge _ _ _ | pwr _ | restart _ => exact absurd hu id
    | _ => trivial
  funext q
  rw [State.standIns, hpile q, State.standIns]

theorem standIns_reg (k : FKey) (v : Nat) (s : State) : ((Upd.reg k v).apply s).standIns = s.standIns := overlooks_standIns (.reg k v) s trivial

theorem standIns_modPile (p : Nat) {f : Pile → Pile} (h : ∀ x, (f x).flt.queue = x.flt.queue ∧ (f x).flt.spare = x.flt.spare) (s : State) :
    ((modPile p f).run s).standIns = s.standIns := by
  funext q
  rw [State.standIns, run_modPile, State.standIns]
  by_cases hq : q = p
  · rw [hq, Upd.pile_pile_self, (h _).1, (h _).2]
  · rw [Upd.pile_pile_of_ne _ s hq]

/-- The fields of a substitution. -/
def substFlds : List Fld := [.FLT_STATUS_MAP, .FLT_TILE_RETIRED, .FLT_SUBST, .PWR_STATE_STATE]

section
variable {r : State}

theorem subst_setR {k : FKey} (hk : k.f ∉ substFlds) (v : Nat) : (setR k v).Keeps (Beside State.standIns substFlds r) :=
  beside_setR overlooks_standIns hk v
theorem subst_only {a : Act} (h : a.Only (Upd.Aside substFlds)) : a.Keeps (Beside State.standIns substFlds r) :=
  beside_of_only overlooks_standIns h
theorem subst_modPile (p : Nat) {f : Pile → Pile} (h : ∀ x, (f x).flt.queue = x.flt.queue ∧ (f x).flt.spare = x.flt.spare) :
    (modPile p f).Keeps (Beside State.standIns substFlds r) := beside_modPile p (standIns_modPile p h)
theorem subst_modRue (p : Nat) (f : RueSt → RueSt) : (modRue p f).Keeps (Beside State.standIns substFlds r) :=
  subst_modPile p fun _ => ⟨rfl, rfl⟩
theorem subst_modDom (d : Nat) (f : DomSt → DomSt) : (modDom d f).Keeps (Beside State.standIns substFlds r) := beside_modDom d fun _ => rfl

theorem subst_copyLine (p dst : Nat) (x : Nat × Line) : (copyLine p dst x).Keeps (Beside State.standIns substFlds r) :=
  Act.keeps_list ⟨Act.keeps_when (beside_bump overlooks_standIns (show Fld.MOV_CHECK_FAIL ∉ substFlds by decide) 1), subst_only ⟨trivial, trivial⟩,
    Act.keeps_when (Act.keeps_asked fun _ => Act.keeps_when (subst_modRue p _))⟩

theorem subst_countBlank (p old new : Nat) : (countBlank p old new).Keeps (Beside State.standIns substFlds r) :=
  Act.keeps_asked fun _ => Act.keeps_when (beside_bump overlooks_standIns (show Fld.MOV_CHECK_FAIL ∉ substFlds by decide) _)

theorem subst_writeProgram (p t : Nat) (g : Program) : (writeProgram p t g).Keeps (Beside State.standIns substFlds r) := by
  have hset : ∀ {f : Fld} (v : Nat), f ∉ substFlds → (setR (tk f p t) v).Keeps (Beside State.standIns substFlds r) := fun v hf => subst_setR hf v
  refine Act.keeps_list ⟨Act.keeps_all fun a ha => ?_, beside_modTile overlooks_standIns p t _, hset _ (by decide), hset _ (by decide),
    hset _ (by decide), hset _ (by decide), hset _ (by decide)⟩
  obtain ⟨i, hi, rfl⟩ := List.mem_mapIdx.mp ha
  exact subst_only ⟨trivial, trivial⟩

theorem subst_moveTransfers (p old new : Nat) : (moveTransfers p old new).Keeps (Beside State.standIns substFlds r) := by
  have hcount : ∀ f ∈ [Fld.SYNC, .SYNC_NEXT], f ∉ substFlds := by decide
  exact Act.keeps_asked fun _ => Act.keeps_list ⟨beside_modTile overlooks_standIns p new _,
    Act.keeps_each fun i _ => beside_modTile overlooks_standIns p i _,
    Act.keeps_each fun f hf => Act.keeps_each fun _ _ => subst_setR (hcount f hf) _⟩

theorem codeFld_code (k : FKey) : codeFld k.code = k.f.ctorIdx := by
  simp only [codeFld, FKey.code]
  omega

theorem isTileReg_subst {k : FKey} (hk : k.f ∈ substFlds) (p t : Nat) : isTileReg p t k.code = false := by
  have hnone : ∀ g ∈ substFlds, (tileFlds.contains g.ctorIdx || g.ctorIdx == Fld.XO_OP_COUNT.ctorIdx) = false := by decide
  obtain ⟨htile, hcount⟩ := Bool.or_eq_false_iff.mp (hnone k.f hk)
  rw [isTileReg, codeFld_code, htile, hcount, Bool.false_and, Bool.or_false, Bool.and_false]

theorem subst_clearTile (p t : Nat) : (clearTile p t).Keeps (Beside State.standIns substFlds r) :=
  Act.keeps_list ⟨subst_only ⟨fun _ hk => isTileReg_subst hk p t, trivial⟩, subst_only ⟨trivial, trivial⟩, subst_only ⟨trivial, trivial⟩⟩

end

/-- What a swap moves from the old tile to the new one, the map standing as it will (R400). -/
def tileMoves (s : State) (p j old new : Nat) : Act := Act.all [
  Act.each (s.storeLines p old) (copyLine p new), countBlank p old new,
  (match s.programOf p j with
   | some g => writeProgram p new g
   | none => .done),
  setR (tk .TSQ_STATUS_IN_GATE p new) (s.rd (tk .TSQ_STATUS_IN_GATE p old)), moveTransfers p old new,
  modRue p (fun r => { r with nfGone := r.nfGone + s.tileNonfinites p old })]

theorem subst_tileMoves (s : State) (p j old new : Nat) {r : State} : (tileMoves s p j old new).Keeps (Beside State.standIns substFlds r) := by
  refine Act.keeps_list ⟨Act.keeps_each fun x _ => subst_copyLine p new x, subst_countBlank p old new, ?_,
    subst_setR (show Fld.TSQ_STATUS_IN_GATE ∉ substFlds by decide) _, subst_moveTransfers p old new, subst_modRue p _⟩
  split
  · exact subst_writeProgram p new _
  · exact Act.keeps_done _

/-! ## A tile's domain (R500, R504) -/

/-- A domain takes a state at once, and what else is written of it leaves the substitutions alone. -/
structure DomSet (d n : Nat) (s t : State) : Prop where
  seen  : t.standIns = s.standIns
  rd    : ∀ k : FKey, k.f ∈ [Fld.FLT_STATUS_MAP, .FLT_TILE_RETIRED, .FLT_SUBST] → t.rd k = s.rd k
  power : t.power d = n
  other : ∀ d', d < 131072 → d' < 131072 → d' ≠ d → t.power d' = s.power d'

theorem domSet_of_parts {d n : Nat} {s u v t : State} (hu : Beside State.standIns substFlds s u) (hn : n < 4)
    (hset : v = (setR (dk .PWR_STATE_STATE d) n).run u) (ht : Beside State.standIns substFlds v t) : DomSet d n s t := by
  have hsub : ∀ k : FKey, k.f ∈ [Fld.FLT_STATUS_MAP, .FLT_TILE_RETIRED, .FLT_SUBST] → k.f ∈ substFlds ∧ k.f ≠ .PWR_STATE_STATE := fun k hk =>
    (show ∀ g ∈ [Fld.FLT_STATUS_MAP, .FLT_TILE_RETIRED, .FLT_SUBST], g ∈ substFlds ∧ g ≠ .PWR_STATE_STATE by decide) k.f hk
  have hpower : ∀ d', t.power d' = v.power d' := fun d' => ht.rd _ (show Fld.PWR_STATE_STATE ∈ substFlds by decide)
  subst hset
  refine ⟨ht.seen.trans hu.seen, fun k hk => ?_, ?_, fun d' hd hd' hne => ?_⟩
  · obtain ⟨hmem, hne⟩ := hsub k hk
    rw [ht.rd k hmem, rd_setR_of_ne hne, hu.rd k hmem]
  · rw [hpower, State.power, rd_setR_self]
    exact Nat.mod_eq_of_lt hn
  · rw [hpower, State.power]
    exact (Upd.rd_reg_of_ne n u (code_dk_ne hd' hd hne _ _)).trans (hu.rd _ (show Fld.PWR_STATE_STATE ∈ substFlds by decide))

theorem domainUp_ups (d : Nat) (s : State) : DomSet d 0 s ((domainUp d).run s) := by
  have hreplies : Beside State.standIns substFlds s ((Act.each (s.dom d).reqs fun r => reply r stOk).run s) :=
    .of_keeps (Act.keeps_each fun q _ => beside_reply overlooks_standIns (by decide) q _ _ _)
  rw [domainUp, Act.run_ask, Act.run_all_next, Act.run_all_next]
  refine domSet_of_parts hreplies (by decide) rfl (.of_keeps (Act.keeps_list ⟨?_, ?_, ?_, ?_, subst_modDom d _⟩))
  · exact subst_setR (show Fld.PWR_STATE_PAD_HELD ∉ substFlds by decide) 0
  · exact subst_setR (show Fld.PWR_STATE_ENTERING ∉ substFlds by decide) 0
  · exact subst_setR (show Fld.PWR_STATE_WAKING ∉ substFlds by decide) 0
  · exact subst_setR (show Fld.PWR_STATE_LATCHED ∉ substFlds by decide) 0

theorem tileOff_offs (p t : Nat) (s : State) : DomSet (domTile p t) 2 s ((tileOff p t).run s) := by
  rw [tileOff, Act.run_all_next]
  exact domSet_of_parts (.refl s) (by decide) rfl (.of_keeps (Act.keeps_list
    ⟨subst_setR (show Fld.PWR_STATE_PAD_HELD ∉ substFlds by decide) 1, subst_modDom _ _, subst_clearTile p t⟩))

/-! ## The swap (R400) -/

/-- A logical tile has moved to another physical tile. -/
structure TileSwapped (s t : State) (p j old new : Nat) : Prop where
  seen  : t.standIns = s.standIns
  map   : t.rd (pk .FLT_STATUS_MAP p) = clipTo 32 (s.rd (pk .FLT_STATUS_MAP p) - old * 16 ^ j + new * 16 ^ j)
  count : t.rd (pk .FLT_SUBST p) = s.counted (pk .FLT_SUBST p) 1
  up    : t.power (domTile p new) = 0
  off   : t.power (domTile p old) = 2

theorem swapTile_swaps {p old new : Nat} (hp : p < 16) (hold : old < 9) (hnew : new < 9) (hne : new ≠ old) (j : Nat) (s : State) :
    TileSwapped s ((swapTile p j old new).run s) p j old new := by
  have hrun : (swapTile p j old new).run s = (bump (pk .FLT_SUBST p)).run ((tileOff p old).run ((tileMoves s p j old new).run
      ((setR (pk .FLT_STATUS_MAP p) (s.rd (pk .FLT_STATUS_MAP p) - old * 16 ^ j + new * 16 ^ j)).run
        ((emit (.dropSram (lsAddr p new 0) lsLines)).run ((domainUp (domTile p new)).run s))))) := by
    rw [swapTile, Act.run_ask, tileMoves]
    cases s.programOf p j <;> simp only [Act.run_all_next, Act.run_all_last]
  have hup := domainUp_ups (domTile p new) s
  generalize (domainUp (domTile p new)).run s = a at hrun hup
  have hdrop : Beside State.standIns substFlds a _ := .of_keeps (subst_only (a := emit (.dropSram (lsAddr p new 0) lsLines)) ⟨trivial, trivial⟩)
  generalize (emit (.dropSram (lsAddr p new 0) lsLines)).run a = b at hrun hdrop
  generalize hm : s.rd (pk .FLT_STATUS_MAP p) - old * 16 ^ j + new * 16 ^ j = m at hrun
  have hmap := rd_setR_self (pk .FLT_STATUS_MAP p) m b
  have hkept : ∀ k : FKey, k.f ≠ .FLT_STATUS_MAP → ((setR (pk .FLT_STATUS_MAP p) m).run b).rd k = b.rd k := fun k hk => rd_setR_of_ne hk m b
  have hseen : ((setR (pk .FLT_STATUS_MAP p) m).run b).standIns = b.standIns := standIns_reg _ m b
  generalize (setR (pk .FLT_STATUS_MAP p) m).run b = c at hrun hmap hkept hseen
  have hmoves : Beside State.standIns substFlds c _ := .of_keeps (subst_tileMoves s p j old new)
  generalize (tileMoves s p j old new).run c = d at hrun hmoves
  have hoff := tileOff_offs p old d
  generalize (tileOff p old).run d = e at hrun hoff
  have hlt : ∀ {n : Nat}, n < 9 → domTile p n < 131072 := fun h => by rw [domTile]; omega
  rw [hrun]
  refine ⟨?_, ?_, ?_, ?_, ?_⟩
  · rw [run_bump, standIns_reg, hoff.seen, hmoves.seen, hseen, hdrop.seen, hup.seen]
  · rw [rd_bump_of_ne _ (show Fld.FLT_STATUS_MAP ≠ .FLT_SUBST by decide), hoff.rd _ (show Fld.FLT_STATUS_MAP ∈ _ by decide),
      hmoves.rd _ (show Fld.FLT_STATUS_MAP ∈ substFlds by decide), hmap, hm]
    rfl
  · rw [rd_bump_self]
    refine State.counted_congr ?_ 1
    rw [hoff.rd _ (show Fld.FLT_SUBST ∈ _ by decide), hmoves.rd _ (show Fld.FLT_SUBST ∈ substFlds by decide), hkept _ (show Fld.FLT_SUBST ≠ _ by decide),
      hdrop.rd _ (show Fld.FLT_SUBST ∈ substFlds by decide), hup.rd _ (show Fld.FLT_SUBST ∈ _ by decide)]
  · rw [State.power, rd_bump_of_ne _ (show Fld.PWR_STATE_STATE ≠ .FLT_SUBST by decide), ← State.power,
      hoff.other _ (hlt hold) (hlt hnew) (by rw [domTile, domTile]; omega), State.power,
      hmoves.rd _ (show Fld.PWR_STATE_STATE ∈ substFlds by decide), hkept _ (show Fld.PWR_STATE_STATE ≠ _ by decide),
      hdrop.rd _ (show Fld.PWR_STATE_STATE ∈ substFlds by decide), ← State.power, hup.power]
  · rw [State.power, rd_bump_of_ne _ (show Fld.PWR_STATE_STATE ≠ .FLT_SUBST by decide), ← State.power, hoff.power]

/-! ## The substitution (R400-R402) -/

theorem standIns_modFlt_self (p : Nat) (f : FltSt → FltSt) (s : State) :
    ((modFlt p f).run s).standIns p = ((f (s.pile p).flt).queue, (f (s.pile p).flt).spare) := by
  rw [State.standIns, modFlt, run_modPile, Upd.pile_pile_self]

theorem proposals_waxDirty (s : State) : (waxDirty.run s).boot.proposals = s.boot.proposals := rfl

/-- A tile is retired and proposed for fusing, and that is all that is seen of it here. -/
structure Retired (s t : State) (p x : Nat) : Prop where
  seen    : t.standIns = s.standIns
  rd      : ∀ k : FKey, k.f ∈ substFlds → k.f ≠ .FLT_TILE_RETIRED → t.rd k = s.rd k
  retired : t.rd (pk .FLT_TILE_RETIRED p x) = 1
  fuse    : ∃ q ∈ t.boot.proposals, q.entry = tileEntry p x

theorem retireTile_retires (p x source : Nat) (s : State) : Retired s ((retireTile p x source).run s) p x := by
  rw [retireTile, Act.run_all_next, Act.run_all_next, Act.run_all_last]
  have hretired := rd_setR_self (pk .FLT_TILE_RETIRED p x) 1 s
  have hseen : ((setR (pk .FLT_TILE_RETIRED p x) 1).run s).standIns = s.standIns := standIns_reg _ 1 s
  have hkept : ∀ k : FKey, k.f ≠ .FLT_TILE_RETIRED → ((setR (pk .FLT_TILE_RETIRED p x) 1).run s).rd k = s.rd k := fun k hk => rd_setR_of_ne hk 1 s
  generalize (setR (pk .FLT_TILE_RETIRED p x) 1).run s = a at hretired hseen hkept
  have hrest : Beside State.standIns substFlds a (waxDirty.run ((propose source (tileEntry p x)).run a)) :=
    (Beside.of_keeps (beside_propose overlooks_standIns _ _)).trans (.of_keeps (beside_waxDirty overlooks_standIns))
  refine ⟨hrest.seen.trans hseen, fun k hk hne => (hrest.rd k hk).trans (hkept k hne),
    (hrest.rd _ (show Fld.FLT_TILE_RETIRED ∈ substFlds by decide)).trans hretired, ?_⟩
  rw [proposals_waxDirty]
  exact proposals_propose source (tileEntry p x) a

section
variable {r : State}

theorem subst_raiseEvent (c q : Nat) (b : List Nat) : (raiseEvent c q b).Keeps (Beside State.standIns substFlds r) :=
  beside_raiseEvent overlooks_standIns (by decide) c q b

theorem subst_noSpareNow (p phys : Nat) : (noSpareNow p phys).Keeps (Beside State.standIns substFlds r) := by
  refine Act.keeps_asked fun s => ?_
  split
  · exact Act.keeps_list ⟨Act.keeps_asked fun _ => Act.keeps_list ⟨subst_modPile p fun _ => ⟨rfl, rfl⟩,
      subst_setR (show Fld.FLT_TILE_PF_INDEX ∉ substFlds by decide) _, subst_raiseEvent _ _ _⟩, subst_raiseEvent _ _ _,
      beside_propose overlooks_standIns _ _, beside_waxDirty overlooks_standIns⟩
  · exact Act.keeps_done _

end

section
variable {s : State} {p j u : Nat} {q : Subst} {rest : List Subst}

/-- The first queued substitution, where it is no arbitration's, is made at the boundary. -/
theorem run_actSpareSubstitution (hqueue : (s.pile p).flt.queue = q :: rest) (hkind : q.kind ≠ 0) (hbound : s.atBoundary p = true)
    (honce : s.jobLoaded = true → (s.pile p).flt.did = false) (ok : Bool) :
    (actSpareSubstitution p ok).run s = (substitute p q ok).run ((modFlt p fun x => { x with queue := rest, did := true }).run s) := by
  have hgo : ¬ (!s.atBoundary p || (s.jobLoaded && (s.pile p).flt.did)) = true := by
    rw [hbound]
    cases hload : s.jobLoaded with
    | false => exact Bool.false_ne_true
    | true =>
      rw [honce hload]
      exact Bool.false_ne_true
  rw [actSpareSubstitution, Act.run_ask, hqueue]
  dsimp only
  rw [if_neg hgo, Act.run_all_next, Act.run_all_last]
  split
  · next hzero _ => exact absurd hzero hkind
  · next hzero _ => exact absurd hzero hkind
  · rfl

/-- What the queue's taking leaves: the fields, the tile's place, and the spare. -/
theorem taken_same (hplace : s.logOf p q.phys = some j) (hspare : (s.pile p).flt.spare = some u) :
    let v := (modFlt p fun x => { x with queue := rest, did := true }).run s
    (∀ k, v.rd k = s.rd k) ∧ v.logOf p q.phys = some j ∧ v.standIns p = (rest, some u) :=
  ⟨fun _ => rfl, hplace, by rw [standIns_modFlt_self, hspare]⟩

/-- The spare has taken a tile's place. -/
structure StandsIn (s t : State) (p j : Nat) (q : Subst) (rest : List Subst) (u : Nat) : Prop where
  place   : t.physOf p j = u
  others  : ∀ i, i < 8 → i ≠ j → t.physOf p i = s.physOf p i
  stand   : t.standIns p = (rest, none)
  retired : t.rd (pk .FLT_TILE_RETIRED p q.phys) = 1
  up      : t.power (domTile p u) = 0
  off     : t.power (domTile p q.phys) = 2
  fuse    : ∃ x ∈ t.boot.proposals, x.entry = tileEntry p q.phys
  count   : t.rd (pk .FLT_SUBST p) = s.counted (pk .FLT_SUBST p) 1

theorem TileSwapped.physOf {old new : Nat} {t : State} (h : TileSwapped s t p j old new) (hold : s.physOf p j = old) (hnew : new < 16) {i : Nat}
    (hi : i < 8) : t.physOf p i = if i = j then new else s.physOf p i := by
  rw [State.physOf_eq] at hold
  rw [State.physOf_eq, h.map, digit_clip hi, digit_swap i hold hnew, State.physOf_eq]

theorem substitute_stands (hp : p < 16) (hplace : s.logOf p q.phys = some j) (hstand : s.standIns p = (rest, some u)) (hu : u < 9)
    (hold : q.phys < 9) (hne : u ≠ q.phys) : StandsIn s ((substitute p q true).run s) p j q rest u := by
  obtain ⟨hj, hphys⟩ := physOf_of_logOf hplace
  obtain ⟨hqueue, hspare⟩ := Prod.mk.inj hstand
  have hrun : (substitute p q true).run s = (retireTile p q.phys (tileSource q.kind)).run ((modFlt p fun x => { x with spare := none }).run
      ((swapTile p j q.phys u).run s)) := by
    rw [substitute, Act.run_ask, hplace, hspare]
    dsimp only
    rw [if_pos rfl, Act.run_all_next, Act.run_all_next, Act.run_all_last]
  have hswap := swapTile_swaps hp hold hu hne j s
  generalize (swapTile p j q.phys u).run s = a at hrun hswap
  have hfreed : ((modFlt p fun x => { x with spare := none }).run a).standIns p = (rest, none) := by
    rw [standIns_modFlt_self]
    exact congrArg (·, none) ((congrArg Prod.fst (congrFun hswap.seen p)).trans hqueue)
  have hsame : ∀ k, ((modFlt p fun x => { x with spare := none }).run a).rd k = a.rd k := fun _ => rfl
  generalize (modFlt p fun x => { x with spare := none }).run a = b at hrun hfreed hsame
  have hret := retireTile_retires p q.phys (tileSource q.kind) b
  rw [← hrun] at hret
  have hrd : ∀ k : FKey, k.f ∈ substFlds → k.f ≠ .FLT_TILE_RETIRED → ((substitute p q true).run s).rd k = a.rd k := fun k hk hk' =>
    (hret.rd k hk hk').trans (hsame k)
  have hphysOf : ∀ i, ((substitute p q true).run s).physOf p i = a.physOf p i := fun i => by
    rw [State.physOf, hrd _ (show Fld.FLT_STATUS_MAP ∈ substFlds by decide) (show Fld.FLT_STATUS_MAP ≠ _ by decide), State.physOf]
  have hpower : ∀ d, ((substitute p q true).run s).power d = a.power d := fun d =>
    hrd _ (show Fld.PWR_STATE_STATE ∈ substFlds by decide) (show Fld.PWR_STATE_STATE ≠ _ by decide)
  refine ⟨?_, fun i hi hij => ?_, (congrFun hret.seen p).trans hfreed, hret.retired, (hpower _).trans hswap.up, (hpower _).trans hswap.off, hret.fuse,
    (hrd _ (show Fld.FLT_SUBST ∈ substFlds by decide) (show Fld.FLT_SUBST ≠ _ by decide)).trans hswap.count⟩
  · rw [hphysOf, hswap.physOf hphys (by omega) hj, if_pos rfl]
  · rw [hphysOf, hswap.physOf hphys (by omega) hi, if_neg hij]

/-- A spare that fails its test is retired, and the map stays (R401). -/
theorem substitute_fails (hplace : s.logOf p q.phys = some j) (hspare : (s.pile p).flt.spare = some u) : let t := (substitute p q false).run s
    (t.pile p).flt.spare = none ∧ t.rd (pk .FLT_TILE_RETIRED p u) = 1 ∧ t.rd (pk .FLT_STATUS_MAP p) = s.rd (pk .FLT_STATUS_MAP p) := by
  have hrun : (substitute p q false).run s = (noSpareNow p q.phys).run ((modFlt p fun x => { x with spare := none }).run
      ((setR (pk .FLT_TILE_RETIRED p u) 1).run ((domainUp (domTile p u)).run s))) := by
    rw [substitute, Act.run_ask, hplace, hspare]
    dsimp only
    rw [if_neg Bool.false_ne_true, Act.run_seq, spareFails, Act.run_all_next, Act.run_all_next, Act.run_all_last]
  have hup := domainUp_ups (domTile p u) s
  generalize (domainUp (domTile p u)).run s = a at hrun hup
  have hret := rd_setR_self (pk .FLT_TILE_RETIRED p u) 1 a
  have hmap := rd_setR_of_ne (k := pk .FLT_TILE_RETIRED p u) (show Fld.FLT_STATUS_MAP ≠ .FLT_TILE_RETIRED by decide) 1 a (k' := pk .FLT_STATUS_MAP p)
  generalize (setR (pk .FLT_TILE_RETIRED p u) 1).run a = b at hrun hret hmap
  have hfreed := congrArg Prod.snd (standIns_modFlt_self p (fun x => { x with spare := none }) b)
  have hsame : ∀ k, ((modFlt p fun x => { x with spare := none }).run b).rd k = b.rd k := fun _ => rfl
  generalize (modFlt p fun x => { x with spare := none }).run b = c at hrun hfreed hsame
  have hlast : Beside State.standIns substFlds c _ := .of_keeps (subst_noSpareNow p q.phys)
  intro t
  rw [← hrun] at hlast
  refine ⟨(congrArg Prod.snd (congrFun hlast.seen p)).trans hfreed, ?_, ?_⟩
  · rw [hlast.rd _ (show Fld.FLT_TILE_RETIRED ∈ substFlds by decide), hsame, hret]
    rfl
  · rw [hlast.rd _ (show Fld.FLT_STATUS_MAP ∈ substFlds by decide), hsame, hmap, hup.rd _ (show Fld.FLT_STATUS_MAP ∈ _ by decide)]

/-- The first queued substitution is made (R400, R402). -/
theorem actSpareSubstitution_stands (hp : p < 16) (hqueue : (s.pile p).flt.queue = q :: rest) (hkind : q.kind ≠ 0) (hbound : s.atBoundary p = true)
    (honce : s.jobLoaded = true → (s.pile p).flt.did = false) (hplace : s.logOf p q.phys = some j) (hspare : (s.pile p).flt.spare = some u)
    (hu : u < 9) (hold : q.phys < 9) (hne : u ≠ q.phys) : StandsIn s ((actSpareSubstitution p true).run s) p j q rest u := by
  rw [run_actSpareSubstitution hqueue hkind hbound honce]
  obtain ⟨-, hplace', hstand⟩ := taken_same (rest := rest) hplace hspare
  obtain ⟨hj, hothers, hs, hretired, hup, hoff, hfuse, hcount⟩ := substitute_stands hp hplace' hstand hu hold hne
  exact ⟨hj, hothers, hs, hretired, hup, hoff, hfuse, hcount⟩

theorem actSpareSubstitution_fails (hqueue : (s.pile p).flt.queue = q :: rest) (hkind : q.kind ≠ 0) (hbound : s.atBoundary p = true)
    (honce : s.jobLoaded = true → (s.pile p).flt.did = false) (hplace : s.logOf p q.phys = some j) (hspare : (s.pile p).flt.spare = some u) :
    let t := (actSpareSubstitution p false).run s
    (t.pile p).flt.spare = none ∧ t.rd (pk .FLT_TILE_RETIRED p u) = 1 ∧ t.rd (pk .FLT_STATUS_MAP p) = s.rd (pk .FLT_STATUS_MAP p) := by
  dsimp only
  rw [run_actSpareSubstitution hqueue hkind hbound honce]
  obtain ⟨-, hplace', hstand⟩ := taken_same (rest := rest) hplace hspare
  exact substitute_fails hplace' (congrArg Prod.snd hstand)

end

end Sys2Proof.Machine
end

section
/-! PROOFS. A lane swap ends, and a bridge group is repaired (R261-R264): what goes with a lost link leaves the links' own state alone. -/

namespace Sys2Proof.Machine

/-! ## Work beside the links -/

/-- Every off-package port and bridge end. -/
def State.links (s : State) : SMap Port × SMap Bridge := (s.ports, s.bridges)

theorem overlooks_links : Overlooks State.links := fun u s hu => by
  cases u with
  | dram a c => simp only [Upd.apply]; split <;> rfl
  | sram a l => simp only [Upd.apply]; split <;> rfl
  | openHalf v | openSession v | pushEvent v => simp only [Upd.apply]; split <;> rfl
  | pile _ _ | port _ _ _ | bridge _ _ _ | pwr _ | restart _ => exact absurd hu id
  | _ => rfl

/-- The fields that the end of a swap or a repair shows. -/
def linkFlds : List Fld := [.LNK_STATUS_STATE, .LNK_SWAPS, .BRG_STATUS_STATE, .BRG_REPAIRS, .FLT_TRANSIENT]

/-- The links, and what the end of a swap or a repair shows, are unchanged. -/
abbrev LinksKept (s t : State) : Prop := Beside State.links linkFlds s t

section
variable {s t : State} (h : LinksKept s t)
include h

theorem Beside.port (p k : Nat) : t.port p k = s.port p k :=
  congrArg (fun l : SMap Port × SMap Bridge => SMap.getD l.1 (p * 2 + k) {}) h.seen
theorem Beside.bridge (p d : Nat) : t.bridge p d = s.bridge p d :=
  congrArg (fun l : SMap Port × SMap Bridge => SMap.getD l.2 (p * 4 + d) {}) h.seen

end

section
variable {r : State}

theorem link_setR {k : FKey} (hk : k.f ∉ linkFlds) (v : Nat) : (setR k v).Keeps (LinksKept r) := beside_setR overlooks_links hk v
theorem link_setB {k : FKey} (hk : k.f ∉ linkFlds) (v : Bool) : (setB k v).Keeps (LinksKept r) := beside_setB overlooks_links hk v
theorem link_bump {k : FKey} (hk : k.f ∉ linkFlds) (n : Nat) : (bump k n).Keeps (LinksKept r) := beside_bump overlooks_links hk n
theorem link_modSw (p : Nat) (f : SwSt → SwSt) : (modSw p f).Keeps (LinksKept r) := beside_modPile p fun _ => rfl
theorem link_modRue (p : Nat) (f : RueSt → RueSt) : (modRue p f).Keeps (LinksKept r) := beside_modPile p fun _ => rfl
theorem link_modHop (p q : Nat) (f : UHop → UHop) : (modHop p q f).Keeps (LinksKept r) := link_modSw p _
theorem link_modDom (d : Nat) (f : DomSt → DomSt) : (modDom d f).Keeps (LinksKept r) := beside_modDom d fun _ => rfl
theorem link_raiseEvent (c p : Nat) (b : List Nat) : (raiseEvent c p b).Keeps (LinksKept r) :=
  beside_raiseEvent overlooks_links (by decide) c p b
theorem link_propose (n : Nat) (e : BitVec 32) : (propose n e).Keeps (LinksKept r) := beside_propose overlooks_links n e
theorem link_waxDirty : waxDirty.Keeps (LinksKept r) := beside_waxDirty overlooks_links

/-! ### Frames (R227, R257) -/

theorem link_wake (d : Nat) (own : Bool) : (wake d own).Keeps (LinksKept r) :=
  Act.keeps_asked fun _ => Act.keeps_ite
    (Act.keeps_seq (link_setR (show Fld.PWR_STATE_LATCHED ∉ linkFlds by decide) 1) (link_modDom d _))
    (Act.keeps_ite (link_modDom d _) (Act.keeps_ite (Act.keeps_done _)
      (Act.keeps_seq (link_setR (show Fld.PWR_STATE_WAKING ∉ linkFlds by decide) 1) (link_modDom d _))))

theorem link_demandWake (d : Nat) : (demandWake d).Keeps (LinksKept r) :=
  Act.keeps_asked fun _ => Act.keeps_ite (Act.keeps_done _) (Act.keeps_ite (Act.keeps_done _)
    (Act.keeps_seq (link_bump (show Fld.PWR_DEMAND_WAKES ∉ linkFlds by decide) 1)
      (Act.keeps_seq (link_wake d true) (Act.keeps_when (link_modDom d _)))))

theorem link_giveCredit (p q : Nat) : (giveCredit p q).Keeps (LinksKept r) :=
  Act.keeps_ite (Act.keeps_done _) (Act.keeps_asked fun _ => link_modHop p q _)

theorem link_deliverFrame (p : Nat) (f : UFrame) : (deliverFrame p f).Keeps (LinksKept r) :=
  Act.keeps_asked fun _ => Act.keeps_ite (Act.keeps_seq (link_demandWake _) (link_modSw p _)) (beside_send overlooks_links _)

theorem link_routeFrame (p q : Nat) (f : UFrame) (n : Nat) : (routeFrame p q f n).Keeps (LinksKept r) := by
  induction n generalizing q f with
  | zero => exact Act.keeps_done _
  | succ n ih =>
    refine Act.keeps_asked fun s => ?_
    split
    · exact ih _ _
    · exact Act.keeps_ite (ih _ _) (link_deliverFrame p f)
    · exact Act.keeps_ite (link_modHop p _ _) (ih _ _)

theorem link_dropFrames (p q : Nat) : (dropFrames p q).Keeps (LinksKept r) :=
  Act.keeps_asked fun _ => Act.keeps_seq (link_modHop p q _)
    (Act.keeps_each fun _ _ => Act.keeps_seq (link_giveCredit p _) (link_routeFrame p 0 _ 2))

/-! ### What a lost link takes with it (R13, R192) -/

theorem link_parentLost (p q : Nat) : (parentLost p q).Keeps (LinksKept r) :=
  Act.keeps_asked fun _ => Act.keeps_when (Act.keeps_asked fun _ => Act.keeps_list ⟨link_raiseEvent _ _ _,
    link_setR (show Fld.GATE_STATUS_STATE ∉ linkFlds by decide) 3, link_setR (show Fld.JOB_STATE_STATE ∉ linkFlds by decide) jsStopped⟩)

theorem link_loseLock : loseLock.Keeps (LinksKept r) :=
  Act.keeps_asked fun _ => Act.keeps_ite (Act.keeps_done _) (Act.keeps_list
    ⟨link_setR (show Fld.TB_STATUS_HOLDOVER ∉ linkFlds by decide) 1, link_setR (show Fld.TB_STATUS_LOCKED ∉ linkFlds by decide) 0,
      link_bump (show Fld.TB_STATUS_LOSS_COUNT ∉ linkFlds by decide) 1, Act.keeps_when (Act.keeps_each fun p _ => link_modRue p _),
      Act.keeps_asked fun _ => link_raiseEvent _ _ _, Act.keeps_when (beside_modJob overlooks_links _)⟩)

theorem link_portFails (p k : Nat) : (portFails p k).Keeps (LinksKept r) :=
  Act.keeps_list ⟨link_dropFrames p _, Act.keeps_asked fun _ => Act.keeps_when link_loseLock, link_parentLost p _⟩

/-! ### What shows a link's spares (R267, R268), and an abort's end (R265) -/

theorem link_showMaps (p k : Nat) : (showMaps p k).Keeps (LinksKept r) :=
  Act.keeps_asked fun _ => Act.keeps_list ⟨link_setB (show Fld.LNK_STATUS_TX_SPARE_ON ∉ linkFlds by decide) _,
    link_setR (show Fld.LNK_STATUS_TX_SPARE_FOR ∉ linkFlds by decide) _, link_setB (show Fld.LNK_STATUS_RX_SPARE_ON ∉ linkFlds by decide) _,
    link_setR (show Fld.LNK_STATUS_RX_SPARE_FOR ∉ linkFlds by decide) _⟩

theorem link_showSpares (p d : Nat) : (showSpares p d).Keeps (LinksKept r) :=
  Act.keeps_asked fun _ => Act.keeps_seq (link_setR (show Fld.BRG_STATUS_MIN_SPARES ∉ linkFlds by decide) _)
    (link_setR (show Fld.BRG_STATUS_WORST_GROUP ∉ linkFlds by decide) _)

theorem link_abortSettled : abortSettled.Keeps (LinksKept r) :=
  Act.keeps_asked fun _ => Act.keeps_when (Act.keeps_list ⟨beside_modJob overlooks_links _,
    Act.keeps_each fun q _ => beside_reply overlooks_links (by decide) q _ _ _,
    Act.keeps_when (beside_withFree overlooks_links fun _ => link_raiseEvent _ _ _)⟩)

end

/-! ## A lane swap ends (R261-R263) -/

/-- What follows a swap's two directions: the port is READY again unless it is retired, and the next swap is asked for. -/
def swapEnd (p k : Nat) : Act := Act.all [
  .ask fun t => Act.when (t.rd (pk .LNK_STATUS_STATE p k) != 10) (setR (pk .LNK_STATUS_STATE p k) 7), showMaps p k, waxDirty, nextSwap p k]

theorem nextSwap_idle {s : State} {p k : Nat} (hlane : (s.port p k).swapLane = none) (hwait : (s.port p k).swapWait = []) :
    (nextSwap p k).run s = s := by
  rw [nextSwap, Act.run_ask, hlane, hwait]
  rfl

/-- A change of one field takes nothing up. -/
theorem settled_setR {s : State} (hs : s.Settled) (k : FKey) (v : Nat) : ((setR k v).run s).Settled :=
  (beside_setR (view := fun _ => ()) (fs := []) (fun _ _ _ => rfl) List.not_mem_nil v s (.refl s)).settled hs

theorem settled_bump {s : State} (hs : s.Settled) (k : FKey) (n : Nat) : ((bump k n).run s).Settled :=
  (beside_bump (view := fun _ => ()) (fs := []) (fun _ _ _ => rfl) List.not_mem_nil n s (.refl s)).settled hs

theorem settled_modPort {s : State} (hs : s.Settled) (p k : Nat) (f : Port → Port) : ((modPort p k f).run s).Settled :=
  (beside_modPort (view := fun _ => ()) (fs := []) p k (fun _ => rfl) s (.refl s)).settled hs

/-- A port as the end of a swap leaves it. -/
structure PortEnded (s t : State) (p k n : Nat) : Prop where
  state   : t.rd (pk .LNK_STATUS_STATE p k) = n
  port    : t.port p k = s.port p k
  swaps   : t.rd (pk .LNK_SWAPS p k) = s.rd (pk .LNK_SWAPS p k)
  settled : s.Settled → t.Settled

theorem readyAgain_ends (s : State) (p k : Nat) :
    PortEnded s ((Act.ask fun t => Act.when (t.rd (pk .LNK_STATUS_STATE p k) != 10) (setR (pk .LNK_STATUS_STATE p k) 7)).run s) p k
      (if s.rd (pk .LNK_STATUS_STATE p k) = 10 then 10 else 7) := by
  rw [Act.run_ask, Act.run_when]
  by_cases hten : s.rd (pk .LNK_STATUS_STATE p k) = 10
  · rw [if_pos hten, if_neg (by rw [hten]; decide)]
    exact ⟨hten, rfl, rfl, id⟩
  · rw [if_neg hten, if_pos (bne_iff_ne.mpr hten)]
    exact ⟨rd_setR_self _ _ s, rfl, rd_setR_of_ne (show Fld.LNK_SWAPS ≠ .LNK_STATUS_STATE by decide) _ s, fun hs => settled_setR hs _ _⟩

theorem PortEnded.beside {s t u : State} {p k n : Nat} (h : PortEnded s t p k n) (hu : LinksKept t u) : PortEnded s u p k n :=
  ⟨(hu.rd _ (show Fld.LNK_STATUS_STATE ∈ linkFlds by decide)).trans h.state, (hu.port p k).trans h.port,
    (hu.rd _ (show Fld.LNK_SWAPS ∈ linkFlds by decide)).trans h.swaps, fun hs => hu.settled (h.settled hs)⟩

theorem swapEnd_ends {s : State} {p k : Nat} (hlane : (s.port p k).swapLane = none) (hwait : (s.port p k).swapWait = []) :
    PortEnded s (abortSettled.run ((swapEnd p k).run s)) p k (if s.rd (pk .LNK_STATUS_STATE p k) = 10 then 10 else 7) := by
  rw [swapEnd, Act.run_all_next, Act.run_all_next, Act.run_all_next, Act.run_all_last]
  have hready := readyAgain_ends s p k
  generalize (Act.ask fun t => Act.when (t.rd (pk .LNK_STATUS_STATE p k) != 10) (setR (pk .LNK_STATUS_STATE p k) 7)).run s = a at hready
  have hshown := hready.beside ((Beside.of_keeps (link_showMaps p k)).trans (.of_keeps link_waxDirty))
  generalize waxDirty.run ((showMaps p k).run a) = b at hshown
  rw [nextSwap_idle (by rw [hshown.port]; exact hlane) (by rw [hshown.port]; exact hwait)]
  exact hshown.beside (.of_keeps link_abortSettled)

section
variable {s : State} {p k lane : Nat}

/-- The receive direction's swap is made: the spare carries what the lane did (R262). -/
theorem swapRx_swaps {u : Nat} (hspare : spareLane (s.port p k).rxMap (s.port p k).rxBad = some u) : let t := (swapRx p k true lane).run s
    t.port p k = { s.port p k with rxMap := (s.port p k).rxMap.map (fun m => if m = lane then u else m),
                                   rxBad := (s.port p k).rxBad ||| (1 <<< lane), swapLane := none, swapAcked := false } ∧
    t.rd (pk .LNK_STATUS_STATE p k) = s.rd (pk .LNK_STATUS_STATE p k) ∧ t.rd (pk .LNK_SWAPS p k) = s.counted (pk .LNK_SWAPS p k) 1 ∧
    (s.Settled → t.Settled) := by
  have hgo : ¬ (!true || (spareLane (s.port p k).rxMap (s.port p k).rxBad).isNone) = true := by
    rw [hspare]
    exact Bool.false_ne_true
  dsimp only
  rw [swapRx, Act.run_ask, if_neg hgo, Act.run_all_next, Act.run_all_last]
  have hmap : swapMap (s.port p k).rxMap (s.port p k).rxBad lane = (s.port p k).rxMap.map (fun m => if m = lane then u else m) := by
    rw [swapMap, hspare]
  refine ⟨?_, rd_bump_of_ne _ (show Fld.LNK_STATUS_STATE ≠ .LNK_SWAPS by decide) 1, rd_bump_self _ _ 1,
    fun hs => settled_bump (settled_modPort hs p k _) _ 1⟩
  rw [run_bump, Upd.port_reg, run_modPort, Upd.port_port_self, hmap]

/-- A port at which no swap is under way, and none waits. -/
def Port.unswapped (x : Port) : Port := { x with swapLane := none, swapAcked := false, farLane := none, swapWait := [] }

theorem run_retirePort (dir : Nat) : (retirePort p k dir lane).run s =
    (portFails p k).run (waxDirty.run ((propose 4 (laneEntry p k dir lane)).run ((raiseEvent 0x0009 p [k, lane]).run
      ((modPort p k Port.unswapped).run ((setR (pk .LNK_STATUS_STATE p k) 10).run s))))) := by
  rw [retirePort, Act.run_all_next, Act.run_all_next, Act.run_all_next, Act.run_all_last, retireNow, Act.run_all_next, Act.run_all_next,
    Act.run_all_last]
  rfl

/-- The port is retired, and its swaps with it (R263). -/
theorem retirePort_retires (dir : Nat) : let t := (retirePort p k dir lane).run s
    t.port p k = (s.port p k).unswapped ∧ t.rd (pk .LNK_STATUS_STATE p k) = 10 ∧ (s.Settled → t.Settled) := by
  dsimp only
  rw [run_retirePort]
  have hstate : ((modPort p k Port.unswapped).run ((setR (pk .LNK_STATUS_STATE p k) 10).run s)).rd (pk .LNK_STATUS_STATE p k) = 10 :=
    rd_setR_self (pk .LNK_STATUS_STATE p k) 10 s
  have hset : s.Settled → ((modPort p k Port.unswapped).run ((setR (pk .LNK_STATUS_STATE p k) 10).run s)).Settled := fun hs =>
    settled_modPort (settled_setR hs _ 10) p k _
  have hport : ((modPort p k Port.unswapped).run ((setR (pk .LNK_STATUS_STATE p k) 10).run s)).port p k = (s.port p k).unswapped := by
    rw [run_modPort, Upd.port_port_self, run_setR, Upd.port_reg]
  generalize (modPort p k Port.unswapped).run ((setR (pk .LNK_STATUS_STATE p k) 10).run s) = a at hstate hset hport
  have hrest : LinksKept a ((portFails p k).run (waxDirty.run ((propose 4 (laneEntry p k dir lane)).run ((raiseEvent 0x0009 p [k, lane]).run a)))) :=
    (Beside.of_keeps (link_raiseEvent _ _ _)).trans ((Beside.of_keeps (link_propose _ _)).trans
      ((Beside.of_keeps link_waxDirty).trans (.of_keeps (link_portFails p k))))
  exact ⟨(hrest.port p k).trans hport, (hrest.rd _ (show Fld.LNK_STATUS_STATE ∈ linkFlds by decide)).trans hstate, fun hs => hrest.settled (hset hs)⟩

section
variable (hlane : (s.port p k).swapLane = some lane) (hacked : (s.port p k).swapAcked = true) (hskip : (s.port p k).skip = false)
  (hfar : (s.port p k).farLane = none) (hstate : s.rd (pk .LNK_STATUS_STATE p k) = 9)
include hlane hacked hskip hfar hstate

/-- A swap of the receive direction alone is due. -/
theorem run_actLaneRetrain (ok : Bool) : (actLaneRetrain p k ok).run s = (swapEnd p k).run ((swapRx p k ok lane).run s) := by
  have hgo : ¬ (!(s.port p k).swapDue || s.rd (pk .LNK_STATUS_STATE p k) != 9) = true := by
    rw [Port.swapDue, hlane, hacked, hskip, hstate]
    exact Bool.false_ne_true
  rw [actLaneRetrain, Act.run_ask]
  dsimp only
  rw [if_neg hgo, hlane, hacked, hskip, hfar, Act.run_all_next, Act.run_all_next, swapEnd]
  rfl

variable (hs : s.Settled)
include hs

/-- The retraining ends with the spare in the lane's place, and the port READY. -/
theorem laneRetrain_swaps (hwait : (s.port p k).swapWait = []) {u : Nat} (hspare : spareLane (s.port p k).rxMap (s.port p k).rxBad = some u) :
    let t := (settled ((actLaneRetrain p k true).seq abortSettled)).run s
    t.rd (pk .LNK_STATUS_STATE p k) = 7 ∧ (t.port p k).rxMap = (s.port p k).rxMap.map (fun m => if m = lane then u else m) ∧
    (t.port p k).swapLane = none ∧ t.rd (pk .LNK_SWAPS p k) = s.counted (pk .LNK_SWAPS p k) 1 := by
  obtain ⟨hport, hsame, hcount, hset⟩ := swapRx_swaps (lane := lane) hspare
  have hended := swapEnd_ends (s := (swapRx p k true lane).run s) (by rw [hport]) (by rw [hport]; exact hwait)
  rw [← run_actLaneRetrain hlane hacked hskip hfar hstate, ← Act.run_seq] at hended
  obtain ⟨hend, hkept, hswaps, hsettled⟩ := hended
  dsimp only
  rw [run_settled (hsettled (hset hs))]
  exact ⟨by rw [hend, hsame, hstate]; rfl, by rw [hkept, hport], by rw [hkept, hport], hswaps.trans hcount⟩

/-- The retraining fails, and the port is retired. -/
theorem laneRetrain_retires : let t := (settled ((actLaneRetrain p k false).seq abortSettled)).run s
    t.rd (pk .LNK_STATUS_STATE p k) = 10 ∧ (t.port p k).swapLane = none := by
  obtain ⟨hport, hten, hset⟩ := retirePort_retires (s := s) (p := p) (k := k) (lane := lane) 1
  have hrx : (swapRx p k false lane).run s = (retirePort p k 1 lane).run s := rfl
  have hended := swapEnd_ends (s := (retirePort p k 1 lane).run s) (by rw [hport]; rfl) (by rw [hport]; rfl)
  rw [← hrx, ← run_actLaneRetrain hlane hacked hskip hfar hstate, ← Act.run_seq, hrx] at hended
  obtain ⟨hend, hkept, -, hsettled⟩ := hended
  dsimp only
  rw [run_settled (hsettled (hset hs))]
  exact ⟨by rw [hend, if_pos hten], by rw [hkept, hport]; rfl⟩

end
end

/-! ## A bridge's wires are repaired (R264) -/

theorem rd_of_code_eq {k k' : FKey} (s : State) (hf : k.f = k'.f) (hc : k.code = k'.code) : s.rd k = s.rd k' := by
  rw [State.rd_eq, State.rd_eq, hf, hc]

/-- A bridge's end shows a state, unless it is retired. -/
def tellEnd (e : Nat × Nat) (st : Nat) : Act :=
  .ask fun s => Act.when (s.rd (pk .BRG_STATUS_STATE e.1 e.2) != 10) (setR (pk .BRG_STATUS_STATE e.1 e.2) st)

theorem run_bridgeState (p d st : Nat) (s : State) :
    (bridgeState p d st).run s = (tellEnd (farBridge p d) st).run ((tellEnd (p, d) st).run s) := by
  rw [bridgeState, Act.run_each_cons, Act.run_each_cons, Act.run_each_nil, tellEnd, tellEnd]

theorem run_tellEnd (e : Nat × Nat) (st : Nat) (s : State) : (tellEnd e st).run s =
    if s.rd (pk .BRG_STATUS_STATE e.1 e.2) = 10 then s else (setR (pk .BRG_STATUS_STATE e.1 e.2) st).run s := by
  rw [tellEnd, Act.run_ask, Act.run_when]
  by_cases h : s.rd (pk .BRG_STATUS_STATE e.1 e.2) = 10
  · rw [if_pos h, if_neg (by rw [h]; decide)]
  · rw [if_neg h, if_pos (bne_iff_ne.mpr h)]

/-- An end that shows RETIRED goes on showing it, whichever end is told (R263). -/
theorem retired_stays {s : State} {e : Nat × Nat} (h : s.rd (pk .BRG_STATUS_STATE e.1 e.2) = 10) (e' : Nat × Nat) (st : Nat) :
    ((tellEnd e' st).run s).rd (pk .BRG_STATUS_STATE e.1 e.2) = 10 := by
  rw [run_tellEnd]
  split
  · exact h
  · next hother =>
    have hcode : (pk .BRG_STATUS_STATE e.1 e.2).code ≠ (pk .BRG_STATUS_STATE e'.1 e'.2).code := fun hc =>
      hother ((rd_of_code_eq s (k := pk .BRG_STATUS_STATE e.1 e.2) (k' := pk .BRG_STATUS_STATE e'.1 e'.2) rfl hc).symm.trans h)
    rw [run_setR, Upd.rd_reg_of_ne st s hcode]
    exact h

section
variable {s : State} {p d g : Nat}

/-- Both ends told to retire, the first shows it. -/
theorem bridgeState_retires : ((bridgeState p d 10).run s).rd (pk .BRG_STATUS_STATE p d) = 10 := by
  rw [run_bridgeState]
  refine retired_stays (e := (p, d)) ?_ (farBridge p d) 10
  rw [run_tellEnd]
  split
  · next hten => exact hten
  · exact rd_setR_self (pk .BRG_STATUS_STATE p d) 10 s

/-- Telling a bridge's ends a state changes no more of the links than that. -/
theorem bridgeState_same (n : Nat) : ((bridgeState p d n).run s).links = s.links ∧
    ∀ k : FKey, k.f ≠ .BRG_STATUS_STATE → ((bridgeState p d n).run s).rd k = s.rd k := by
  have hbeside : Beside State.links [Fld.LNK_STATUS_STATE, .LNK_SWAPS, .BRG_REPAIRS, .FLT_TRANSIENT] s ((bridgeState p d n).run s) :=
    .of_keeps (Act.keeps_each fun _ _ => Act.keeps_asked fun _ => Act.keeps_when (beside_setR overlooks_links
      (show Fld.BRG_STATUS_STATE ∉ [Fld.LNK_STATUS_STATE, .LNK_SWAPS, .BRG_REPAIRS, .FLT_TRANSIENT] by decide) n))
  refine ⟨hbeside.seen, fun k hk => ?_⟩
  have honly : (bridgeState p d n).Only (Upd.Spares [k.f]) := Act.only_each fun _ _ _ => Act.only_when fun _ =>
    spares_setR (fun h => hk (List.mem_singleton.mp h).symm) n
  exact honly.rd_spared (List.mem_singleton_self _) s

end

theorem endRepair_same (s : State) (p d : Nat) : ((endRepair p d).run s).bridge p d = s.bridge p d ∧
    (∀ k : FKey, k.f ≠ .BRG_STATUS_STATE → ((endRepair p d).run s).rd k = s.rd k) ∧
    (s.rd (pk .BRG_STATUS_STATE p d) = 10 → ((endRepair p d).run s).rd (pk .BRG_STATUS_STATE p d) = 10) := by
  obtain ⟨hlinks, hrd⟩ := bridgeState_same (s := s) (p := p) (d := d) 7
  rw [endRepair, Act.run_ask, Act.run_when]
  split
  · next hready =>
    refine ⟨congrArg (fun l : SMap Port × SMap Bridge => SMap.getD l.2 (p * 4 + d) {}) hlinks, hrd, fun hten => ?_⟩
    rw [hten] at hready
    exact absurd hready Bool.false_ne_true
  · exact ⟨rfl, fun _ _ => rfl, id⟩

/-- The group is suspect no longer. -/
def clearSuspect (p d g : Nat) : Act := modBridge p d fun b => { b with suspect := b.suspect.filter (fun x => x != g) }

theorem bridge_clearSuspect (p d g : Nat) (s : State) :
    ((clearSuspect p d g).run s).bridge p d = { s.bridge p d with suspect := (s.bridge p d).suspect.filter (fun x => x != g) } := by
  rw [clearSuspect, run_modBridge, Upd.bridge_bridge_self]

theorem not_mem_filter_bne (g : Nat) (xs : List Nat) : g ∉ xs.filter (fun x => x != g) := by
  simp

/-- A group's failing wires take spare wires, and those are counted (R264). -/
def takeWires (p d g u n : Nat) : Act := Act.all [
  modBridge p d (fun b => { b with used := SMap.put 0 b.used g u }), bump (pk .BRG_REPAIRS p d) n, showSpares p d, waxDirty]

theorem takeWires_takes (p d g u n : Nat) (s : State) : let t := (takeWires p d g u n).run s
    t.bridge p d = { s.bridge p d with used := SMap.put 0 (s.bridge p d).used g u } ∧
    t.rd (pk .BRG_REPAIRS p d) = s.counted (pk .BRG_REPAIRS p d) n := by
  dsimp only
  rw [takeWires, Act.run_all_next, Act.run_all_next, Act.run_all_next, Act.run_all_last]
  have hused : ((bump (pk .BRG_REPAIRS p d) n).run ((modBridge p d fun b => { b with used := SMap.put 0 b.used g u }).run s)).bridge p d =
      { s.bridge p d with used := SMap.put 0 (s.bridge p d).used g u } := by
    rw [run_bump, Upd.bridge_reg, run_modBridge, Upd.bridge_bridge_self]
  have hcount := rd_bump_self ((modBridge p d fun b => { b with used := SMap.put 0 b.used g u }).run s) (pk .BRG_REPAIRS p d) n
  generalize (bump (pk .BRG_REPAIRS p d) n).run ((modBridge p d fun b => { b with used := SMap.put 0 b.used g u }).run s) = a at hused hcount
  have hrest : LinksKept a (waxDirty.run ((showSpares p d).run a)) := (Beside.of_keeps (link_showSpares p d)).trans (.of_keeps link_waxDirty)
  exact ⟨(hrest.bridge p d).trans hused, (hrest.rd _ (show Fld.BRG_REPAIRS ∈ linkFlds by decide)).trans hcount⟩

/-- A bridge short of spares is retired, and shows it (R264). -/
theorem retireBridge_retires (p d g : Nat) (s : State) : let t := (retireBridge p d g).run s
    t.bridge p d = s.bridge p d ∧ t.rd (pk .BRG_STATUS_STATE p d) = 10 := by
  dsimp only
  rw [retireBridge, Act.run_all_next, Act.run_all_next, Act.run_all_next, Act.run_all_next, Act.run_all_last, bridgeDown]
  rw [Act.run_all_next, Act.run_all_next, Act.run_all_last]
  have hten := bridgeState_retires (s := s) (p := p) (d := d)
  have hseen := congrArg (fun l : SMap Port × SMap Bridge => SMap.getD l.2 (p * 4 + d) {}) (bridgeState_same (s := s) (p := p) (d := d) 10).1
  generalize (bridgeState p d 10).run s = a at hten hseen
  have hrest := (Beside.of_keeps (link_dropFrames (r := a) p (4 + d))).trans ((Beside.of_keeps (link_dropFrames (farBridge p d).1 (4 + (farBridge p d).2))).trans
    ((Beside.of_keeps (link_raiseEvent 0x0009 p [4 + d, g])).trans ((Beside.of_keeps link_waxDirty).trans
      ((Beside.of_keeps (link_parentLost p (4 + d))).trans (.of_keeps (link_parentLost (farBridge p d).1 (4 + (farBridge p d).2)))))))
  exact ⟨(hrest.bridge p d).trans hseen, (hrest.rd _ (show Fld.BRG_STATUS_STATE ∈ linkFlds by decide)).trans hten⟩

section
variable {s : State} {p d g : Nat} (hsuspect : g ∈ (s.bridge p d).suspect) (hstate : s.rd (pk .BRG_STATUS_STATE p d) = 9)
include hsuspect hstate

/-- The repair of a suspect group under way. -/
theorem run_actWireRepair (n : Nat) : (actWireRepair p d g n).run s = (endRepair p d).run ((if n = 0 then bump (pk .FLT_TRANSIENT p)
    else if 4 < SMap.getD (s.bridge p d).used g 0 + n then retireBridge p d g
    else takeWires p d g (SMap.getD (s.bridge p d).used g 0 + n) n).run ((clearSuspect p d g).run s)) := by
  have hgo : ¬ (!(s.bridge p d).suspect.contains g || s.rd (pk .BRG_STATUS_STATE p d) != 9) = true := by
    rw [List.contains_iff_mem.mpr hsuspect, hstate]
    exact Bool.false_ne_true
  rw [actWireRepair, Act.run_ask]
  dsimp only
  rw [if_neg hgo, Act.run_all_next, Act.run_all_next, Act.run_all_last, clearSuspect, takeWires]

/-- The wires that pass are counted as a transient fault. -/
theorem wireRepair_passes : let t := (actWireRepair p d g 0).run s
    g ∉ (t.bridge p d).suspect ∧ t.rd (pk .FLT_TRANSIENT p) = s.counted (pk .FLT_TRANSIENT p) 1 := by
  dsimp only
  rw [run_actWireRepair hsuspect hstate, if_pos rfl]
  obtain ⟨hbridge, hrd, -⟩ := endRepair_same ((bump (pk .FLT_TRANSIENT p)).run ((clearSuspect p d g).run s)) p d
  rw [hbridge, hrd _ (show Fld.FLT_TRANSIENT ≠ .BRG_STATUS_STATE by decide), rd_bump_self, run_bump, Upd.bridge_reg, bridge_clearSuspect]
  exact ⟨not_mem_filter_bne g _, rfl⟩

section
variable {n : Nat} (hn : n ≠ 0)
include hn

theorem wireRepair_takes (hspare : SMap.getD (s.bridge p d).used g 0 + n ≤ 4) : let t := (actWireRepair p d g n).run s
    g ∉ (t.bridge p d).suspect ∧ SMap.getD (t.bridge p d).used g 0 = SMap.getD (s.bridge p d).used g 0 + n ∧
    t.rd (pk .BRG_REPAIRS p d) = s.counted (pk .BRG_REPAIRS p d) n := by
  dsimp only
  rw [run_actWireRepair hsuspect hstate, if_neg hn, if_neg (Nat.not_lt.mpr hspare)]
  generalize hu : SMap.getD (s.bridge p d).used g 0 + n = u
  obtain ⟨htaken, hcount⟩ := takeWires_takes p d g u n ((clearSuspect p d g).run s)
  obtain ⟨hbridge, hrd, -⟩ := endRepair_same ((takeWires p d g u n).run ((clearSuspect p d g).run s)) p d
  rw [hbridge, hrd _ (show Fld.BRG_REPAIRS ≠ .BRG_STATUS_STATE by decide), hcount, htaken, bridge_clearSuspect]
  exact ⟨not_mem_filter_bne g _, SMap.getD_put_self _ _ _ _, rfl⟩

theorem wireRepair_retires (hshort : 4 < SMap.getD (s.bridge p d).used g 0 + n) : let t := (actWireRepair p d g n).run s
    g ∉ (t.bridge p d).suspect ∧ t.rd (pk .BRG_STATUS_STATE p d) = 10 := by
  dsimp only
  rw [run_actWireRepair hsuspect hstate, if_neg hn, if_pos hshort]
  obtain ⟨hsame, hten⟩ := retireBridge_retires p d g ((clearSuspect p d g).run s)
  obtain ⟨hbridge, -, hstays⟩ := endRepair_same ((retireBridge p d g).run ((clearSuspect p d g).run s)) p d
  rw [hbridge, hsame, bridge_clearSuspect]
  exact ⟨not_mem_filter_bne g _, hstays hten⟩

end
end

end Sys2Proof.Machine
end

section

open Sys2Proof Sys2Proof.Machine

/-- Settles O47 (R261-R264, R371-R373, R400). A row's lines move one by one, each reading before it writes, and the row's name leaves the queue
last (`actSpareMove_moves`); a swap changes one digit of the tile map (`digit_swap`), and nothing else that it does touches the map, the
queue or the two tiles' power (`swapTile_swaps`); what a retired port or bridge takes with it leaves the links' own state alone
(`link_portFails`, `link_parentLost`), so that the end of a swap or a repair shows what it decided. -/
theorem sparesTake : Obligations.SparesTake := by
  unfold Obligations.SparesTake
  refine ⟨fun s p r rest hmoves hbound hready harmed => ⟨_, rfl, ?_⟩,
    fun s p q rest j u hqueue hkind hbound honce hplace hspare hu hold hne => ⟨⟨_, rfl, ?_⟩, ⟨_, rfl, ?_⟩⟩,
    fun s p k lane hlane hacked hskip hfar hwait hstate hquiet => ⟨fun u hspare => ⟨_, rfl, ?_⟩, ⟨_, rfl, ?_⟩⟩,
    fun s p d g n hsuspect hstate => ⟨_, rfl, ?_⟩⟩
  · split
    · next hfull => exact actSpareMove_full hmoves hbound hready hfull
    · next hfree => exact actSpareMove_moves hmoves hbound hready p.isLt harmed (Nat.not_le.mp hfree)
  · obtain ⟨hj, hothers, hstand, hretired, hup, hoff, hfuse, hcount⟩ :=
      actSpareSubstitution_stands p.isLt hqueue hkind hbound honce hplace hspare hu hold hne
    obtain ⟨hrest, hnone⟩ := Prod.mk.inj hstand
    exact ⟨hj, hothers, hrest, hnone, hretired, hup, hoff, hfuse, hcount⟩
  · exact actSpareSubstitution_fails hqueue hkind hbound honce hplace hspare
  · exact laneRetrain_swaps hlane hacked hskip hfar hstate hquiet.settled hwait hspare
  · exact laneRetrain_retires hlane hacked hskip hfar hstate hquiet.settled
  · by_cases hn : n = 0
    · subst hn
      obtain ⟨hgone, hcount⟩ := wireRepair_passes hsuspect hstate
      exact ⟨hgone, fun _ => hcount, fun h => absurd rfl h, fun h => absurd rfl h⟩
    · by_cases hshort : 4 < SMap.getD (s.bridge p.val d.val).used g 0 + n
      · obtain ⟨hgone, hten⟩ := wireRepair_retires hsuspect hstate hn hshort
        exact ⟨hgone, fun h => absurd h hn, fun _ h => absurd hshort (Nat.not_lt.mpr h), fun _ _ => hten⟩
      · obtain ⟨hgone, hused, hcount⟩ := wireRepair_takes hsuspect hstate hn (Nat.not_lt.mp hshort)
        exact ⟨hgone, fun h => absurd h hn, fun _ _ => ⟨hused, hcount⟩, fun _ h => absurd h hshort⟩

end

section
/-! PROOFS. Acknowledgements (R430, R432): what an authenticated header makes of its session, and when that session ends. -/

namespace Sys2Proof.Machine

/-! ## A session through what is done in it -/

/-- The open session of an identifier satisfies `P`. -/
def State.SesIs (id : Nat) (P : Session → Prop) (s : State) : Prop := ∃ y, s.session? id = some y ∧ P y

section
variable {id : Nat} {P Q : Session → Prop} {s t : State}

theorem State.SesIs.mono (hPQ : ∀ y, P y → Q y) (h : s.SesIs id P) : s.SesIs id Q := by
  obtain ⟨y, hy, hP⟩ := h
  exact ⟨y, hy, hPQ y hP⟩

theorem State.SesIs.of_session (h : t.session? id = s.session? id) (hs : s.SesIs id P) : t.SesIs id P := by
  rwa [State.SesIs, h]

/-- A session that changes as `f` says. -/
theorem sesIs_modSession {f : Session → Session} (h : s.SesIs id fun y => P { f y with id := y.id }) : ((modSession id f).run s).SesIs id P := by
  obtain ⟨y, hy, hP⟩ := h
  refine ⟨_, ?_, hP⟩
  rw [run_modSession, hy]
  simp [State.id_of_session? hy, hy]

theorem keeps_sesIs_modSession {f : Session → Session} (h : ∀ y, P y → P { f y with id := y.id }) :
    (modSession id f).Keeps (State.SesIs id P) := fun _ hs => sesIs_modSession (hs.mono h)

theorem keeps_sesIs_sendFrame (d : Nat) (m : LiftMsg) : (sendFrame d m).Keeps (State.SesIs id P) := fun s hs =>
  hs.of_session (session?_sendFrame d m s id)

end

/-! ## What sending keeps of a session's messages -/

/-- A property of sessions that sending in them keeps: the limit granted and what waits do not matter to it, and it allows a further
message under the next SEQ and further tries of one sent (R423, R432, R434). -/
structure SendKept (P : Session → Prop) : Prop where
  granted : ∀ y n, P y → P { y with granted := n }
  waiting : ∀ y ms, P y → P { y with waiting := ms }
  sent    : ∀ y m, P y → P { y with txNext := y.txNext + 1, unacked := y.unacked ++ [⟨y.txNext, m, 0⟩] }
  again   : ∀ y q, P y → P { y with unacked := y.unacked.map fun v => if v.seq == q then { v with tries := v.tries + 1 } else v }

section
variable {id : Nat} {P : Session → Prop} (hP : SendKept P)
include hP

theorem keeps_sesIs_grant : (grant id).Keeps (State.SesIs id P) :=
  Act.keeps_asked fun _ => keeps_sesIs_modSession fun y hy => hP.granted y _ hy

theorem keeps_sesIs_transmit (ty mb : Nat) (b : Bytes) : (transmit id ty mb b).Keeps (State.SesIs id P) :=
  Act.keeps_seq (keeps_sesIs_grant hP) fun s hs => by
    obtain ⟨y, hy, hPy⟩ := hs
    rw [Act.run_ask, hy, Act.run_seq]
    exact keeps_sesIs_sendFrame _ _ _ (sesIs_modSession ⟨y, hy, hP.sent y _ hPy⟩)

theorem keeps_sesIs_resend (q : Nat) : (resend id q).Keeps (State.SesIs id P) :=
  Act.keeps_seq (keeps_sesIs_grant hP) <| Act.keeps_asked fun _ => by
    split
    · split
      · exact Act.keeps_list ⟨keeps_sesIs_modSession fun y hy => hP.again y q hy, fun _ hs => hs, keeps_sesIs_sendFrame _ _⟩
      · exact Act.keeps_done _
    · exact Act.keeps_done _

theorem keeps_sesIs_flushWaiting (n : Nat) : (flushWaiting id n).Keeps (State.SesIs id P) := by
  induction n with
  | zero => exact Act.keeps_done _
  | succ n ih =>
    refine Act.keeps_asked fun _ => ?_
    split
    · split
      · exact Act.keeps_ite (Act.keeps_seq (Act.keeps_seq (keeps_sesIs_modSession fun y hy => hP.waiting y _ hy)
          (keeps_sesIs_transmit hP _ _ _)) ih) (Act.keeps_done _)
      · exact Act.keeps_done _
    · exact Act.keeps_done _

end

/-! ## What a header's acknowledgements do -/

/-- What a header's acknowledgements do in session `x`, but for its end (R432). -/
def ackSession (id : Nat) (m : LiftMsg) (x : Session) : Act := Act.all [
  modSession id (fun y => { y with
    src := m.src, v6 := m.v6, unacked := x.unacked.filter (fun u => !acks m u.seq), hostLim := max y.hostLim m.credit }),
  Act.each (x.unacked.filter (fun u => acks m u.seq)) (fun u => if u.msg.type = tyReply then replyAcked u.msg.mailbox else .done),
  Act.each ((x.unacked.filter (fun u => !acks m u.seq)).filter (fun u => decide (3 ≤ laterMarked m u.seq))) (fun u => resend id u.seq),
  flushWaiting id x.waiting.length]

/-- A header acknowledges the device's CLOSE (R430). -/
def closeAcked (m : LiftMsg) (x : Session) : Bool := x.unacked.any (fun u => u.msg.type == tyClose && acks m u.seq)

/-- Acknowledgements are taken, and an acknowledged CLOSE ends the session. -/
theorem run_takeAcks {s : State} {id : Nat} {x : Session} (hx : s.session? id = some x) (m : LiftMsg) : (takeAcks id m).run s =
    if closeAcked m x = true then (endSession id).run ((ackSession id m x).run s) else (ackSession id m x).run s := by
  have hclose : (x.unacked.filter (fun u => acks m u.seq)).any (fun u => u.msg.type == tyClose) = closeAcked m x := by
    simp only [closeAcked, List.any_filter, Bool.and_comm]
  simp only [takeAcks, ackSession, Act.run_ask, hx, Act.run_all_cons, Act.run_all_nil, Act.run_when, hclose]

/-- No change of Lift's opens a session. -/
theorem Upd.ofLift_closed {u : Upd} (h : u.ofLift) {s : State} {i : Nat} (hs : s.session? i = none) : (u.apply s).session? i = none := by
  cases u with
  | setSession v => rw [Upd.session?_setSession, hs]; simp
  | dropSession _ => rw [Upd.session?_dropSession, hs]; simp
  | reg _ _ | mailbox _ _ | lift _ | out _ => exact hs
  | _ => exact absurd h id

/-- A session that ends stays closed: what its end sends goes to others. -/
theorem closed_endSession (id : Nat) (s : State) : ((endSession id).run s).session? id = none := by
  have hrest : ∀ {a : Act}, a.Only Upd.ofLift → a.Keeps (fun t => t.session? id = none) := fun ha =>
    ha.toKeeps fun _ _ hu ht => Upd.ofLift_closed hu ht
  rw [endSession, Act.run_ask]
  split
  · next hs => exact hs
  · rw [Act.run_all_cons]
    refine hrest ?_ _ ?_
    · refine Act.only_list ⟨Act.only_when fun _ => lift_modLift _, ?_, Act.only_each fun _ _ => lift_reply _ _ _ _⟩
      split
      · exact lift_takeOver _ _
      · trivial
    · exact (Upd.session?_dropSession id id s).trans (if_pos rfl)

/-- Session `x` as a header leaves it (R430, R432): replies follow the sender, the host's limit is taken, what is acknowledged is
released, and what is not is kept beside messages sent since. -/
structure AckTaken (m : LiftMsg) (x y : Session) : Prop where
  src     : y.src = m.src
  limit   : y.hostLim = max x.hostLim m.credit
  order   : y.dlv = x.dlv
  next    : x.txNext ≤ y.txNext
  unacked : ∀ u ∈ y.unacked, acks m u.seq = false ∨ x.txNext ≤ u.seq
  kept    : ∀ u ∈ x.unacked, acks m u.seq = false → ∃ v ∈ y.unacked, v.seq = u.seq

theorem seq_tried (v : Unacked) (q : Nat) : (if v.seq == q then { v with tries := v.tries + 1 } else v : Unacked).seq = v.seq := by
  split <;> rfl

theorem ackTaken_sendKept (m : LiftMsg) (x : Session) : SendKept (AckTaken m x) where
  granted _ _ h := ⟨h.src, h.limit, h.order, h.next, h.unacked, h.kept⟩
  waiting _ _ h := ⟨h.src, h.limit, h.order, h.next, h.unacked, h.kept⟩
  sent y n h := by
    refine ⟨h.src, h.limit, h.order, h.next.trans (Nat.le_succ _), fun u hu => ?_, fun u hu hm => ?_⟩
    · rcases List.mem_append.mp hu with hu | hu
      · exact h.unacked u hu
      · rw [List.mem_singleton.mp hu]
        exact Or.inr h.next
    · obtain ⟨v, hv, hq⟩ := h.kept u hu hm
      exact ⟨v, List.mem_append_left _ hv, hq⟩
  again y q h := by
    refine ⟨h.src, h.limit, h.order, h.next, fun u hu => ?_, fun u hu hm => ?_⟩
    · obtain ⟨v, hv, rfl⟩ := List.mem_map.mp hu
      rw [seq_tried]
      exact h.unacked v hv
    · obtain ⟨v, hv, hq⟩ := h.kept u hu hm
      exact ⟨_, List.mem_map_of_mem hv, (seq_tried v q).trans hq⟩

/-- What a header's acknowledgements make of its session. -/
theorem ackSession_takes {s : State} {id : Nat} {x : Session} (hx : s.session? id = some x) (m : LiftMsg) :
    ((ackSession id m x).run s).SesIs id (AckTaken m x) := by
  have hP := ackTaken_sendKept m x
  rw [ackSession, Act.run_all_cons]
  refine Act.keeps_list (I := State.SesIs id (AckTaken m x)) ?_ _
    (sesIs_modSession ⟨x, hx, rfl, rfl, rfl, le_rfl, fun u hu => Or.inl ?_, fun u hu hm => ⟨u, ?_, rfl⟩⟩)
  · exact ⟨Act.keeps_each fun _ _ => Act.keeps_ite (fun _ ht => ht) (Act.keeps_done _),
      Act.keeps_each fun u _ => keeps_sesIs_resend hP u.seq, keeps_sesIs_flushWaiting hP x.waiting.length⟩
  · simpa using (List.mem_filter.mp hu).2
  · exact List.mem_filter.mpr ⟨hu, by simpa using hm⟩

/-- What an authenticated header leaves (R430, R432): its acknowledgements taken, and its session ended where it acknowledges the
device's CLOSE. -/
theorem heard_acks {s : State} {m : LiftMsg} {x : Session} (h : s.Genuine m x) :
    if closeAcked m x = true then (s.heard m).session? m.session = none else (s.heard m).SesIs m.session (AckTaken m x) := by
  have hx : ((bump (dk .HP_RX_FRAMES)).run s).session? m.session = some x := h.open'
  rw [heard_genuine h, run_takeAcks hx]
  split
  · exact closed_endSession _ _
  · exact ackSession_takes hx m

theorem settled_heard {s : State} (h : s.Quiet) (m : LiftMsg) : (s.heard m).Settled :=
  settled_of h.settled (heard_marks s m) (heard_behind m h.settled.held)

end Sys2Proof.Machine
end

section

open Sys2Proof Sys2Proof.Machine

/-- Settles O10 (R430, R432). Both rows do what every authenticated header does and nothing more, as nothing waits that they would let go on
(`settled_heard`); what the header does to its session is `heard_acks`. -/
theorem acksTaken : Obligations.AcksTaken := by
  unfold Obligations.AcksTaken
  intro s m x hquiet hgen
  have hrun : (settled (authed m fun _ => .done)).run s = s.heard m := run_settled (settled_heard hquiet m)
  refine ⟨s.heard m, congrArg Host.Outcome.next hrun, congrArg Host.Outcome.next hrun, ?_⟩
  have hacks := heard_acks hgen
  rw [closeAcked] at hacks
  split
  · next hclose => rwa [if_pos hclose] at hacks
  · next hopen =>
    rw [if_neg hopen] at hacks
    obtain ⟨y, hy, hsrc, hlim, hdlv, -, hreleased, hkept⟩ := hacks
    exact ⟨y, hy, hsrc, hlim, hdlv, hreleased, hkept⟩

end

section
/-! PROOFS. Events on MB00 (R444): Lift's own state through a message of a session that stays open, and the next event that goes out. -/

namespace Sys2Proof.Machine

/-! ## Lift's own state through acknowledgements -/

/-- Changes that leave Lift's own state alone. -/
def Upd.NoLift : Upd → Prop
  | .lift _ | .restart _ => False
  | _ => True

theorem Act.Only.lift_same {a : Act} (h : a.Only Upd.NoLift) (s : State) : (a.run s).lift = s.lift :=
  h.same (read := State.lift) (fun u t hu => by
    cases u with
    | dram a c => exact Upd.lift_dram a c t
    | sram a l => exact Upd.lift_sram a l t
    | openHalf _ | openSession _ | pushEvent _ => simp only [Upd.apply]; split <;> rfl
    | lift _ | restart _ => exact absurd hu id
    | _ => rfl) s

theorem Upd.ofSend_noLift (u : Upd) (h : u.ofSend) : u.NoLift := by
  cases u with
  | lift _ | restart _ => exact absurd h id
  | _ => trivial

theorem noLift_ackSession (id : Nat) (m : LiftMsg) (x : Session) : (ackSession id m x).Only Upd.NoLift := by
  have hsend : ∀ {a : Act}, a.Only Upd.ofSend → a.Only Upd.NoLift := fun h => h.mono Upd.ofSend_noLift
  exact Act.only_list ⟨hsend (send_modSession _ _), Act.only_each fun _ _ => Act.only_ite (fun _ => ⟨trivial, trivial⟩) trivial,
    Act.only_each fun _ _ => hsend (send_resend _ _), hsend (send_flushWaiting _ _)⟩

/-- While its session stays open, a message's acknowledgements leave Lift's own state alone. -/
theorem lift_heard {s : State} {m : LiftMsg} {y x : Session} (h : s.Genuine m y) (hopen : (s.heard m).session? m.session = some x) :
    (s.heard m).lift = s.lift := by
  have hacks := heard_acks h
  have hclose : ¬ closeAcked m y = true := fun hc => by
    rw [if_pos hc, hopen] at hacks
    cases hacks
  have hy : ((bump (dk .HP_RX_FRAMES)).run s).session? m.session = some y := h.open'
  rw [heard_genuine h, run_takeAcks hy, if_neg hclose]
  exact (noLift_ackSession _ m y).lift_same _

/-- A message delivered in its turn leaves Lift's own state alone. -/
theorem lift_delivered {s : State} {m : LiftMsg} {x : Session} (h : s.InTurn m x) (b : Nat) (hb : x.within m b) :
    (s.delivered m b).lift = s.lift := by
  obtain ⟨y, hy⟩ := h.genuine
  rw [delivered_eq h b hb, ← Act.run_seq, ← lift_heard hy h.open']
  exact ((Act.only_seq (send_modSession _ _) (send_sendPlain _ _)).sendSame (s.heard m)).2

/-! ## The next event (R444) -/

theorem lift_same_sendEvent (s : State) : (sendEvent.run s).lift = s.lift := by
  rw [sendEvent, Act.run_ask]
  split
  · exact ((send_sendSeq _ _ _ _).sendSame s).2
  · rfl

/-- With nothing outstanding and MB00 held, the next queued event goes out, and it leaves the queue. -/
theorem nextEvent_goes {s : State} {i : Nat} (hout : s.lift.outEvt = none) (hheld : s.lift.mb00Ses = some i) : let t := nextEvent.run s
    t.lift.outEvt = s.events.head? ∧ t.lift.mb00Ses = some i ∧ (s.lift.lost = 0 → t.events = s.events.tail) := by
  rw [nextEvent, Act.run_ask, hout, hheld]
  cases hqueue : s.events with
  | nil => exact ⟨hout, hheld, fun _ => hqueue⟩
  | cons e es =>
    simp only [Act.run_all_cons, Act.run_all_nil]
    have hsent := lift_same_sendEvent ((modLift fun l => { l with outEvt := some e }).run ((emit .popEvent).run s))
    have hevents := (lift_sendEvent.liftSame ((modLift fun l => { l with outEvt := some e }).run ((emit .popEvent).run s))).events
    generalize sendEvent.run _ = u at hsent hevents ⊢
    split
    · rw [Act.run_done, hsent, hevents]
      exact ⟨rfl, hheld, fun _ => congrArg List.tail hqueue⟩
    · next hlost =>
      have hpush : ∀ (v : Event) (w : State), ((emit (.pushEvent v)).run w).lift = w.lift := fun v w =>
        Act.Only.lift_same (a := emit (.pushEvent v)) ⟨trivial, trivial⟩ w
      have hlift : ((Upd.draw 1).apply u).lift = { s.lift with outEvt := some e } := hsent
      rw [run_withFree, Act.run_ask, Act.run_seq, run_modLift, hpush, hlift]
      exact ⟨rfl, hheld, fun h => absurd h hlost⟩

theorem settled_nextEvent {s : State} (hs : s.Settled) : (nextEvent.run s).Settled := by
  have hview : Overlooks fun _ : State => () := fun _ _ _ => rfl
  have hlift : ∀ {f : LiftSt → LiftSt}, (∀ l, (f l).due = l.due ∧ (f l).again = l.again ∧ (f l).parked = l.parked) →
      (modLift f).Keeps (Beside (fun _ => ()) [] s) := fun h =>
    beside_modLift hview (fun _ _ => List.not_mem_nil) (fun l => (h l).1) (fun l => (h l).2.1) fun l hl => (h l).2.2.trans hl
  have hkeep : nextEvent.Keeps (Beside (fun _ => ()) [] s) := Act.keeps_asked fun _ => by
    split
    · refine Act.keeps_list ⟨beside_of_only hview ⟨trivial, trivial⟩, hlift fun _ => ⟨rfl, rfl, rfl⟩,
        beside_sendEvent hview (fun _ _ => List.not_mem_nil), Act.keeps_ite (Act.keeps_done _) ?_⟩
      exact beside_withFree hview fun _ => Act.keeps_asked fun _ =>
        Act.keeps_seq (beside_of_only hview ⟨trivial, trivial⟩) (hlift fun _ => ⟨rfl, rfl, rfl⟩)
    · exact Act.keeps_done _
  exact (Beside.of_keeps hkeep).settled hs

/-- An EVENT_ACK of the outstanding event, from the session that holds MB00, clears it and asks for the next one. -/
theorem run_actEventAck {s : State} {m : LiftMsg} {x : Session} {e : Event} (h : s.InTurn m x) (hout : s.lift.outEvt = some e)
    (hheld : s.lift.mb00Ses = some m.session) (hlen : m.payload.length = 8) (hnum : natBE m.payload = e.number) :
    (actEventAck m).run s = nextEvent.run ((modLift fun l => { l with outEvt := none }).run (s.delivered m 0)) := by
  have hlift := lift_delivered h 0 (Or.inl rfl)
  rw [actEventAck, sequenced_inTurn h _ 0 (Or.inl rfl), Act.run_ask, hlift, hout]
  simp only [hheld, hlen, hnum, and_self, if_true, Act.run_seq]

end Sys2Proof.Machine
end

section

open Sys2Proof Sys2Proof.Machine

/-- Settles O14 (R444). Delivery leaves Lift's own state and the queue of events as they were (`lift_delivered`), so that the EVENT_ACK finds
its event outstanding, and `nextEvent_goes` says what follows. -/
theorem eventAcked : Obligations.EventAcked := by
  unfold Obligations.EventAcked
  intro s m x e h hout hheld hlen hnum
  have hlift := lift_delivered h 0 (Or.inl rfl)
  have hevents : (s.delivered m 0).events = s.events := (liftSame_delivered s m 0).events
  have hrun := run_actEventAck h hout hheld hlen hnum
  have hcleared : ((modLift fun l => { l with outEvt := none }).run (s.delivered m 0)).Settled := by
    obtain ⟨hdue, hagain, hparked, hbehind⟩ := settled_delivered h 0 (Or.inl rfl)
    exact ⟨hdue, hagain, hparked, hbehind⟩
  obtain ⟨hnext, hses, hrest⟩ := nextEvent_goes (i := m.session) (s := (modLift fun l => { l with outEvt := none }).run (s.delivered m 0)) rfl
    ((congrArg LiftSt.mb00Ses hlift).trans hheld)
  refine ⟨_, congrArg Host.Outcome.next (run_settled (hrun ▸ settled_nextEvent hcleared)), ?_⟩
  rw [hrun, ← hevents]
  exact ⟨hnext, hses, fun hlost => hrest ((congrArg LiftSt.lost hlift).trans hlost)⟩

end

section
/-! PROOFS. BULK_DATA from the host (R434-R437): what its lines make of their transfer and of memory, and what follows them. -/

namespace Sys2Proof.Machine

/-! ## Sessions through replies -/

theorem disposed_of_core {x y : Session} (h : x.core = y.core) : x.disposed = y.disposed :=
  show x.core.disposed = y.core.disposed by rw [h]
theorem dlv_of_core {x y : Session} (h : x.core = y.core) : x.dlv = y.dlv := show x.core.dlv = y.core.dlv by rw [h]
theorem xfers_of_core {x y : Session} (h : x.core = y.core) : x.xfers = y.xfers := show x.core.xfers = y.core.xfers by rw [h]

section
variable {i : Nat} {P : Session → Prop} (hP : SendFree P)
include hP

theorem State.SesIs.of_core {s t : State} (h : (t.session? i).map Session.core = (s.session? i).map Session.core) (hs : s.SesIs i P) :
    t.SesIs i P := by
  obtain ⟨y, hy, hPy⟩ := hs
  rw [hy, Option.map_some, Option.map_eq_some_iff] at h
  obtain ⟨z, hz, hcore⟩ := h
  exact ⟨z, hz, hP y z hcore.symm hPy⟩

theorem keeps_sesIs_sendPlain (j ty : Nat) : (sendPlain j ty).Keeps (State.SesIs i P) := fun s hs =>
  hs.of_core hP (core_sendPlain j ty s i)

theorem keeps_sesIs_postReply (r : Req) (b : Bytes) : (postReply r b).Keeps (State.SesIs i P) := Act.keeps_asked fun _ => by
  split
  · exact Act.keeps_seq (fun _ hs => hs) fun s hs => hs.of_core hP (core_sendSeq _ _ _ _ s i)
  · exact Act.keeps_ite (fun _ hs => hs) fun _ hs => hs

theorem keeps_sesIs_reply (r : Req) (st d : Nat) (data : List Nat) : (reply r st d data).Keeps (State.SesIs i P) :=
  Act.keeps_seq (Act.keeps_ite (fun _ hs => hs) (keeps_sesIs_postReply hP r _)) <| Act.keeps_asked fun _ =>
    Act.keeps_ite (Act.keeps_each fun _ _ => Act.keeps_seq (fun _ hs => hs) (keeps_sesIs_postReply hP _ _)) (Act.keeps_done _)

end

/-! ## Work beside the sessions -/

/-- Changes that leave sessions and Lift's own state alone. -/
def Upd.OffLift : Upd → Prop
  | .openSession _ | .setSession _ | .dropSession _ | .lift _ | .restart _ => False
  | _ => True

/-- Sessions and Lift's own state are unchanged. -/
structure SessionsSame (s t : State) : Prop where
  sessions : t.sessions = s.sessions
  lift     : t.lift = s.lift

theorem Act.Only.sessionsSame {a : Act} (h : a.Only Upd.OffLift) (s : State) : SessionsSame s (a.run s) := by
  refine h.keeps (I := SessionsSame s) (fun u t hu ht => ?_) ⟨rfl, rfl⟩
  obtain ⟨hses, hlift⟩ := ht
  cases u with
  | dram a c => exact ⟨(Upd.sessions_dram a c t).trans hses, (Upd.lift_dram a c t).trans hlift⟩
  | sram a l => exact ⟨(Upd.sessions_sram a l t).trans hses, (Upd.lift_sram a l t).trans hlift⟩
  | openHalf _ | pushEvent _ => simp only [Upd.apply]; split <;> exact ⟨hses, hlift⟩
  | openSession _ | setSession _ | dropSession _ | lift _ | restart _ => exact absurd hu id
  | _ => exact ⟨hses, hlift⟩

theorem SessionsSame.session? {s t : State} (h : SessionsSame s t) (i : Nat) : t.session? i = s.session? i := by
  rw [State.session?, h.sessions, State.session?]

theorem SessionsSame.settled {s t : State} (h : SessionsSame s t) (hs : s.Settled) : t.Settled :=
  settled_of hs ⟨by rw [h.lift], by rw [h.lift], by rw [h.lift]⟩ (by rw [h.sessions]; exact hs.held)

theorem offLift_bump (k : FKey) (n : Nat) : (bump k n).Only Upd.OffLift := only_bump fun _ => trivial

theorem offLift_wake (d : Nat) (own : Bool) : (wake d own).Only Upd.OffLift := fun _ =>
  Act.only_ite ⟨trivial, fun _ => ⟨trivial, trivial⟩⟩
    (Act.only_ite (fun _ => ⟨trivial, trivial⟩) (Act.only_ite trivial ⟨trivial, fun _ => ⟨trivial, trivial⟩⟩))

theorem offLift_demandWake (d : Nat) : (demandWake d).Only Upd.OffLift := fun _ =>
  Act.only_ite trivial (Act.only_ite trivial (Act.only_seq (offLift_bump _ 1)
    (Act.only_seq (offLift_wake d true) (Act.only_when fun _ _ => ⟨trivial, trivial⟩))))

theorem offLift_putLine (p x : Nat) (l : Line) : (putLine p .dram 0 x l).Only Upd.OffLift := by
  have hstore : ∀ c, (storeWord p x c).Only Upd.OffLift := fun c _ =>
    Act.only_ite (Act.only_seq ⟨trivial, trivial⟩ ⟨trivial, trivial⟩) ⟨trivial, trivial⟩
  exact Act.only_seq (fun _ => Act.only_ite trivial (Act.only_seq (Act.only_when fun _ => offLift_bump _ 1) (hstore _)))
    (fun _ => Act.only_when fun _ _ => ⟨trivial, trivial⟩)

/-! ## Transfers -/

/-- The transfer of an identifier in a session, changed as `f` says. -/
theorem xferOf_modXfer {f : Xfer → Xfer} (hid : ∀ t, (f t).id = t.id) (y : Session) (k : Nat) :
    xferOf { y with xfers := y.xfers.map fun t => if t.id == k then f t else t } k = (xferOf y k).map f := by
  have hsame : (fun t : Xfer => (if t.id == k then f t else t).id == k) = fun t => t.id == k := by
    funext t
    split
    · rw [hid]
    · rfl
  simp only [xferOf, List.find?_map, Function.comp_def, hsame]
  cases hfind : y.xfers.find? fun t => t.id == k with
  | none => rfl
  | some t => rw [Option.map_some, Option.map_some, if_pos (List.find?_some (p := fun t : Xfer => t.id == k) hfind)]

/-- A session's place in its window and in the order of messages, and the length of one of its transfers. -/
structure Placing (disposed dlv k total : Nat) (y : Session) : Prop where
  disposed : y.disposed = disposed
  order    : y.dlv = dlv
  total    : ∀ w, xferOf y k = some w → w.total = total

theorem sendFree_placing (a n k total : Nat) : SendFree (Placing a n k total) := fun _ _ hcore hx =>
  ⟨(disposed_of_core hcore).symm.trans hx.disposed, (dlv_of_core hcore).symm.trans hx.order,
    by rw [xferOf, ← xfers_of_core hcore]; exact hx.total⟩

theorem sendFree_mem_xfers (w : Xfer) : SendFree fun y => w ∈ y.xfers := fun _ y hcore hx => by
  change w ∈ y.xfers
  rwa [← xfers_of_core hcore]

theorem keeps_placing_modXfer {i a n k total : Nat} {f : Xfer → Xfer} (hid : ∀ t, (f t).id = t.id) (htotal : ∀ t, (f t).total = t.total) :
    (modXfer i k f).Keeps (State.SesIs i (Placing a n k total)) :=
  keeps_sesIs_modSession fun y hy => ⟨hy.disposed, hy.order, fun w hw => by
    have hfound := (xferOf_modXfer hid y k).symm.trans hw
    obtain ⟨t, ht, rfl⟩ := Option.map_eq_some_iff.mp hfound
    rw [htotal, hy.total t ht]⟩

/-- A change of a session that leaves the order of its messages alone makes nothing due. -/
theorem settled_modSession (i : Nat) {f : Session → Session} (hf : ∀ y, (f y).dlv = y.dlv ∧ (f y).held = y.held) :
    (modSession i f).Keeps State.Settled := fun s hs =>
  settled_of hs (marks_send (send_modSession i f) s s (.refl s)) <| all_modSession (f := f) (P := Session.behind 0) (fun y hy e he => by
    obtain ⟨hdlv, hheld⟩ := hf y
    change (f y).dlv + 0 < e.seq
    rw [hdlv]
    exact hy e (hheld ▸ he)) i s hs.held

theorem settled_modXfer (i k : Nat) (f : Xfer → Xfer) : (modXfer i k f).Keeps State.Settled := settled_modSession i fun _ => ⟨rfl, rfl⟩

/-! ## A line of a MEM_WRITE lands (R197, R437) -/

/-- What is kept where a line lands. -/
theorem keeps_landLine {I : State → Prop} {i : Nat} {t : Xfer} (hses : ∀ s u, SessionsSame s u → I s → I u)
    (hmod : ∀ f : Xfer → Xfer, (∀ z, (f z).id = z.id) → (∀ z, (f z).total = z.total) → (modXfer i t.id f).Keeps I)
    (hreply : ∀ st d, (reply t.req st d).Keeps I) (w : MemWriteP) (l : Line) : (landLine i t w l).Keeps I := by
  have hoff : ∀ {a : Act}, a.Only Upd.OffLift → a.Keeps I := fun ha s hs => hses s _ (ha.sessionsSame s) hs
  refine Act.keeps_asked fun _ => ?_
  split
  · exact Act.keeps_done _
  · refine Act.keeps_ite (Act.keeps_done _) ?_
    split
    · exact Act.keeps_seq (hmod _ (fun _ => rfl) fun _ => rfl) (hreply _ _)
    · exact Act.keeps_list ⟨Act.keeps_when (hoff (offLift_bump _ 1)), Act.keeps_when (hoff (offLift_demandWake _)),
        hoff (offLift_putLine _ _ _), hmod _ (fun _ => rfl) fun _ => rfl⟩

theorem placing_landLine {i a n total : Nat} {t : Xfer} (w : MemWriteP) (l : Line) :
    (landLine i t w l).Keeps (State.SesIs i (Placing a n t.id total)) :=
  keeps_landLine (fun _ _ h => State.SesIs.of_session (h.session? i)) (fun _ hid htotal => keeps_placing_modXfer hid htotal)
    (fun _ _ => keeps_sesIs_reply (sendFree_placing a n t.id total) _ _ _ _) w l

theorem settled_landLine (i : Nat) (t : Xfer) (w : MemWriteP) (l : Line) : (landLine i t w l).Keeps State.Settled :=
  keeps_landLine (fun _ _ h => h.settled) (fun _ _ _ => settled_modXfer i t.id _) (fun _ _ _ => settled_reply _ _ _ _) w l

/-- The fields by which a memory takes a write as it stands. -/
def plainFlds : List Fld := [.PWR_STATE_STATE, .MEM_INJECT_ARMED]

theorem memPlain_spared {a : Act} (h : a.Only (Upd.Spares plainFlds)) {s : State} {p : Nat} (hs : s.memPlain p) : (a.run s).memPlain p := by
  obtain ⟨hpower, harmed⟩ := hs
  refine ⟨?_, ?_⟩
  · rw [State.power, h.rd_spared (by simp [plainFlds, dk])]
    exact hpower
  · rw [State.on, h.rd_spared (by simp [plainFlds, pk])]
    exact harmed

theorem memPlain_liftSame {s t : State} (h : LiftSame s t) {p : Nat} (hs : s.memPlain p) : t.memPlain p := by
  obtain ⟨hpower, harmed⟩ := hs
  refine ⟨?_, ?_⟩
  · rw [State.power, h.rd _ (by simp [liftFlds, dk])]
    exact hpower
  · rw [State.on, h.rd _ (by simp [liftFlds, pk])]
    exact harmed

theorem spares_modDom {fs : List Fld} (d : Nat) (f : DomSt → DomSt) : (modDom d f).Only (Upd.Spares fs) := fun _ => ⟨trivial, trivial⟩

theorem spares_demandWake (d : Nat) : (demandWake d).Only (Upd.Spares plainFlds) := by
  have hset : ∀ f ∈ [Fld.PWR_STATE_WAKING, .PWR_STATE_LATCHED], (setR (dk f d) 1).Only (Upd.Spares plainFlds) := fun f hf =>
    spares_setR (show f ∉ plainFlds by revert f; decide) 1
  have hwake : (wake d true).Only (Upd.Spares plainFlds) := fun _ =>
    Act.only_ite (Act.only_seq (hset _ (by decide)) (spares_modDom _ _))
      (Act.only_ite (spares_modDom _ _) (Act.only_ite trivial (Act.only_seq (hset _ (by decide)) (spares_modDom _ _))))
  exact fun _ => Act.only_ite trivial (Act.only_ite trivial (Act.only_seq (spares_bump (by decide) 1)
    (Act.only_seq hwake (Act.only_when fun _ => spares_modDom _ _))))

/-- A line lands where its transfer stands, poisoned where its BLOCK_CHECK fails (R437). -/
theorem landLine_lands {s : State} {i : Nat} {x : Session} {t : Xfer} {w : MemWriteP} (hx : s.session? i = some x)
    (ht : xferOf x t.id = some t) (hdrop : t.drop = false) (hland : s.landing w.pile (w.first + t.next) = none) (hpile : w.pile < 16)
    (hline : w.first + t.next < dramLines) (hplain : s.memPlain w.pile) (l : Line) :
    ((landLine i t w l).run s).dramWord (dramAddr w.pile (w.first + t.next)) =
      encodeWord { l with poison := l.poison || (w.lineForm && !lineCheckOk l) } := by
  have hcount : ∀ v : State, v.memPlain w.pile → ((Act.when (w.lineForm && !lineCheckOk l) (bump (dk .BULK_CHECK_FAIL))).run v).memPlain w.pile :=
    fun v => memPlain_spared (Act.only_when fun _ => spares_bump (by decide) 1)
  have hwake : ∀ (c : Bool) (v : State), v.memPlain w.pile → ((Act.when c (demandWake (domMem w.pile))).run v).memPlain w.pile :=
    fun c v => memPlain_spared (Act.only_when fun _ => spares_demandWake _)
  have hmod : ∀ (f : Xfer → Xfer) (v : State), ((modXfer i t.id f).run v).dram = v.dram := fun f v =>
    ((lift_modSession _ _).liftSame v).dram
  simp only [landLine, Act.run_ask, hx, Option.bind_some, ht, hdrop, Bool.false_eq_true, if_false, hland, Act.run_all_cons, Act.run_all_nil]
  rw [State.dramWord, hmod]
  exact (putLine_word hpile hline (hwake _ _ (hcount s hplain)) _).1

/-! ## The lines of a message -/

/-- Whether a write of a line may land depends on the job, the boot and the pile alone. -/
theorem landing_congr {s t : State} (h : LiftSame s t) (p x : Nat) : t.landing p x = s.landing p x := by
  have hstarted : t.jobStarted = s.jobStarted := by
    rw [State.jobStarted, State.jobState, h.rd _ (by decide), ← State.jobState, State.jobStarted]
  have hbank : t.inputBank p x = s.inputBank p x := by rw [State.inputBank, h.job, State.inputBank]
  have hstep : t.bankStep = s.bankStep := funext fun _ => by
    rw [State.bankStep, State.step, h.rd _ (by decide), ← State.step, State.bankStep]
  rw [State.landing, h.boot, hstarted, h.pile, hbank, hstep, h.job, State.landing]

/-- The lines of a message that does not end its transfer join it (R435). -/
def takeAll (i : Nat) (t : Xfer) (b : BulkMsg) : Act := match t.kind with
  | .memWrite w => Act.each ((List.range b.units).map b.line) (landLine i t w)
  | _ => modXfer i t.id (fun y => { y with next := y.next + b.units, lines := y.lines ++ (List.range b.units).map b.line })

section
variable {i : Nat} {t : Xfer} {b : BulkMsg}

theorem takeLines_eq (hdrop : t.drop = false) (hmore : t.next + b.units < t.total) : takeLines i t b = takeAll i t b := by
  have hn : (if t.total = 0 then b.units else min b.units (t.total - t.next)) = b.units := by
    rw [if_neg (by omega)]
    omega
  rw [takeAll]
  cases hkind : t.kind <;> simp only [takeLines, hn, hdrop, Bool.false_eq_true, if_false, hkind]

theorem keeps_takeAll {I : State → Prop} (hland : ∀ w l, (landLine i t w l).Keeps I)
    (hmod : ∀ f : Xfer → Xfer, (∀ z, (f z).id = z.id) → (∀ z, (f z).total = z.total) → (modXfer i t.id f).Keeps I) :
    (takeAll i t b).Keeps I := by
  rw [takeAll]
  split
  · exact Act.keeps_each fun l _ => hland _ l
  · exact hmod _ (fun _ => rfl) fun _ => rfl

theorem placing_takeAll {a n : Nat} : (takeAll i t b).Keeps (State.SesIs i (Placing a n t.id t.total)) :=
  keeps_takeAll placing_landLine fun _ hid htotal => keeps_placing_modXfer hid htotal

theorem settled_takeAll : (takeAll i t b).Keeps State.Settled :=
  keeps_takeAll (settled_landLine i t) fun _ _ _ => settled_modXfer i t.id _

/-- Lines that are no MEM_WRITE's are kept with their transfer. -/
theorem takeAll_joins {s : State} {x : Session} (hx : s.session? i = some x) (ht : xferOf x t.id = some t) (hkind : isMemWrite t.kind = false) :
    ((takeAll i t b).run s).SesIs i fun y =>
      { t with next := t.next + b.units, lines := t.lines ++ (List.range b.units).map b.line } ∈ y.xfers := by
  have hact : takeAll i t b = modXfer i t.id fun y =>
      { y with next := y.next + b.units, lines := y.lines ++ (List.range b.units).map b.line } := by
    rw [takeAll]
    cases hk : t.kind with
    | memWrite w => rw [hk] at hkind; cases hkind
    | _ => rfl
  rw [hact]
  exact sesIs_modSession ⟨x, hx, List.mem_map.mpr ⟨t, List.mem_of_find?_eq_some ht, if_pos (beq_self_eq_true t.id)⟩⟩

/-- A message in its place that does not end its transfer brings its lines, and nothing more. -/
theorem run_bulkArrived {s : State} {x : Session} (hx : s.session? i = some x) (ht : xferOf x b.xfer = some t) (hhost : fromHost t.kind = true)
    (hdrop : t.drop = false) (hsound : b.sound = true) (hform : b.lines = lineFormOf t.kind) (hplace : b.offset = t.next)
    (hlast : b.last = false) (hmore : t.next + b.units < t.total) : (bulkArrived i b).run s = (takeAll i t b).run s := by
  have hid : t.id = b.xfer := by simpa using List.find?_some ht
  have htotal : ((takeAll i t b).run s).SesIs i (Placing x.disposed x.dlv t.id t.total) :=
    placing_takeAll s ⟨x, hx, rfl, rfl, fun w hw => by rw [Option.some.inj (hw.symm.trans (hid ▸ ht))]⟩
  obtain ⟨y, hy, -, -, hlen⟩ := htotal
  simp only [bulkArrived, Act.run_ask, hx, Option.bind_some, ht, hhost, hsound, hform, hplace, Bool.not_true, bne_self_eq_false, Bool.or_self,
    Bool.false_eq_true, if_false, Act.run_seq, takeLines_eq hdrop hmore, hy]
  cases hfound : xferOf y b.xfer with
  | none => rfl
  | some z =>
    have hz : z.total = t.total := hlen z (hid ▸ hfound)
    have hopen : ¬ z.total ≤ t.next + b.units := by omega
    simp [hlast, hopen]

end

/-! ## What follows a message's lines -/

/-- Sessions, memory and the marks of what waits are unchanged. -/
structure FlowSame (s t : State) : Prop where
  sessions : t.sessions = s.sessions
  dram     : t.dram = s.dram
  marks    : LiftMarks s t

theorem FlowSame.keeps {a : Act} (h : ∀ t, FlowSame t (a.run t)) (s : State) : a.Keeps (FlowSame s) := fun t ht =>
  ⟨(h t).sessions.trans ht.sessions, (h t).dram.trans ht.dram, ht.marks.trans (h t).marks⟩

/-- Flow control notes what it sent, counts the frame and shows it, and touches nothing else (R419, R450, R453). -/
theorem flow_pfcCheck (s : State) : FlowSame s (pfcCheck.run s) := by
  have hcount : (bump (dk .HP_TX_FRAMES)).Keeps (FlowSame s) := FlowSame.keeps (fun _ => ⟨rfl, rfl, rfl, rfl, rfl⟩) s
  have hleave : ∀ o, (send o).Keeps (FlowSame s) := fun _ => FlowSame.keeps (fun _ => ⟨rfl, rfl, rfl, rfl, rfl⟩) s
  have hshow : showXoff.Keeps (FlowSame s) := FlowSame.keeps (fun _ => ⟨rfl, rfl, rfl, rfl, rfl⟩) s
  have hnote : ∀ xoff, (modLift fun l => { l with xoffSent := xoff }).Keeps (FlowSame s) := fun _ =>
    FlowSame.keeps (fun _ => ⟨rfl, rfl, rfl, rfl, rfl⟩) s
  have hsend : ∀ xoff, (sendPfc xoff).Keeps (FlowSame s) := fun xoff => Act.keeps_asked fun _ =>
    Act.keeps_list ⟨hnote xoff, Act.keeps_when (Act.keeps_seq hcount (hleave _)), hshow⟩
  have hkeep : pfcCheck.Keeps (FlowSame s) := Act.keeps_asked fun _ =>
    Act.keeps_ite (Act.keeps_done _) (Act.keeps_ite (hsend true) (Act.keeps_ite (hsend false) (Act.keeps_done _)))
  exact hkeep s ⟨rfl, rfl, .refl s⟩

/-- After a message's lines: its bytes count as disposed of, the limit is sent, and the receive buffer is looked at (R419, R434). -/
def bulkEnd (m : LiftMsg) : Act := Act.all [
  modSession m.session (fun x => { x with disposed := x.disposed + m.payload.length }), sendPlain m.session tyAckOnly, pfcCheck]

theorem sesIs_bulkEnd {m : LiftMsg} {P : Session → Prop} (hP : SendFree P) {s : State}
    (h : s.SesIs m.session fun y => P { y with disposed := y.disposed + m.payload.length }) : ((bulkEnd m).run s).SesIs m.session P := by
  have hsent := keeps_sesIs_sendPlain hP m.session tyAckOnly _ (sesIs_modSession (P := P) (f := fun x : Session =>
    { x with disposed := x.disposed + m.payload.length }) h)
  refine hsent.of_session ?_
  simp only [bulkEnd, Act.run_all_cons, Act.run_all_nil]
  rw [State.session?, (flow_pfcCheck _).sessions, State.session?]

theorem dram_bulkEnd (m : LiftMsg) (s : State) : ((bulkEnd m).run s).dram = s.dram := by
  simp only [bulkEnd, Act.run_all_cons, Act.run_all_nil]
  rw [(flow_pfcCheck _).dram, ((lift_sendPlain _ _).liftSame _).dram, ((lift_modSession _ _).liftSame _).dram]

theorem settled_bulkEnd (m : LiftMsg) {s : State} (hs : s.Settled) : ((bulkEnd m).run s).Settled := by
  have hmod := settled_modSession m.session (f := fun x => { x with disposed := x.disposed + m.payload.length }) (fun _ => ⟨rfl, rfl⟩) s hs
  have hsent := settled_of hmod (marks_send (send_sendPlain m.session tyAckOnly) _ _ (.refl _))
    (keeps_sendPlain (behind_sendFree 0) m.session tyAckOnly _ hmod.held)
  have hflow := flow_pfcCheck ((sendPlain m.session tyAckOnly).run
    ((modSession m.session fun x => { x with disposed := x.disposed + m.payload.length }).run s))
  simp only [bulkEnd, Act.run_all_cons, Act.run_all_nil]
  exact settled_of hsent hflow.marks (by rw [hflow.sessions]; exact hsent.held)

/-! ## The whole message -/

/-- The session of a message delivered in its turn stands one SEQ on, its transfers as they were. -/
theorem delivered_places {s : State} {m : LiftMsg} {x : Session} (h : s.InTurn m x) (b : Nat) (hb : x.within m b) :
    (s.delivered m b).SesIs m.session fun y => y.xfers = x.xfers ∧ y.disposed = x.disposed ∧ y.dlv = x.dlv + 1 := by
  obtain ⟨y, hy, hcore⟩ := sessions_delivered b (delivered_eq h b hb) h.open'
  have hxfers := xfers_of_core hcore
  have hdisposed := disposed_of_core hcore
  have horder := dlv_of_core hcore
  exact ⟨y, hy, hxfers, hdisposed, horder⟩

/-- A BULK_DATA message that its session takes in its turn. -/
theorem run_actBulkData {s : State} {m : LiftMsg} {x : Session} (h : s.InTurn m x) (htype : m.type = tyBulk)
    (hwin : x.within m m.payload.length) : (actBulkData m).run s =
      (bulkEnd m).run ((bulkArrived m.session (bulkOf m)).run (s.delivered m m.payload.length)) := by
  rw [actBulkData, if_neg (fun hne => hne htype), Act.run_seq, sequenced_inTurn h _ _ hwin]
  simp only [bulkEnd, Act.run_all_cons, Act.run_all_nil]

end Sys2Proof.Machine
end

section

open Sys2Proof Sys2Proof.Machine

/-- Settles O28 (R434-R437). In its turn the message is its lines and then its end (`run_actBulkData`), and as it does not complete its
transfer it is its lines alone (`run_bulkArrived`). Lines of a MEM_WRITE land one by one, lines of other kinds join their transfer; either way
the session keeps its place (`placing_takeAll`), to which the end adds the bytes disposed of. -/
theorem bulkDataArrives : Obligations.BulkDataArrives := by
  unfold Obligations.BulkDataArrives
  intro s m x z h htype hwin hfound hhost hdrop hsound hform hplace hlast hmore
  have hid : z.id = (bulkOf m).xfer := by simpa using List.find?_some hfound
  obtain ⟨d, hd, hxfers, hdisposed, horder⟩ := delivered_places h _ hwin
  have hz : xferOf d z.id = some z := by rw [xferOf, hxfers, hid]; exact hfound
  have hrun : (actBulkData m).run s = (bulkEnd m).run ((takeAll m.session z (bulkOf m)).run (s.delivered m m.payload.length)) := by
    rw [run_actBulkData h htype hwin, run_bulkArrived hd (hid ▸ hz) hhost hdrop hsound hform hplace hlast hmore]
  have hset : ((actBulkData m).run s).Settled := hrun ▸ settled_bulkEnd m (settled_takeAll _ (settled_delivered h _ hwin))
  obtain ⟨y, hy, hbytes, hnext, -⟩ : ((actBulkData m).run s).SesIs m.session
      (Placing (x.disposed + m.payload.length) (x.dlv + 1) z.id z.total) := by
    have hlines := placing_takeAll (b := bulkOf m) _ ⟨d, hd, hdisposed, horder, fun w hw => by rw [Option.some.inj (hw.symm.trans hz)]⟩
    rw [hrun]
    exact sesIs_bulkEnd (sendFree_placing _ _ _ _)
      (hlines.mono fun y hy => ⟨congrArg (· + m.payload.length) hy.disposed, hy.order, hy.total⟩)
  refine ⟨_, y, congrArg Host.Outcome.next (run_settled hset), hy, hbytes, hnext, fun hkind => ?_,
    fun w hkind hone hpile hland hpower harmed hline => ?_⟩
  · rw [hrun]
    exact sesIs_bulkEnd (sendFree_mem_xfers _) (takeAll_joins hd hz hkind)
  · have hsame := liftSame_delivered s m m.payload.length
    rw [hrun, State.dramWord, dram_bulkEnd, takeAll, hkind]
    simp only [hone, List.range_one, List.map_cons, List.map_nil, run_each_one]
    exact landLine_lands hd hz hdrop ((landing_congr hsame _ _).trans hland) hpile hline (memPlain_liftSame hsame ⟨hpower, harmed⟩) _

end

section
/-! PROOFS. HELLO (R424-R428): an acceptable one is answered, under an identifier that no session has. -/

namespace Sys2Proof.Machine

/-! ## A fresh identifier (R425) -/

/-- The identifiers of sessions, open and half open. -/
def State.ids (s : State) : List Nat := s.sessions.map Session.id ++ s.halfOpen.map HalfOpen.id

/-- The identifiers that a draw offers in turn. -/
def idsFrom (r : Nat) : List Nat := (List.range 32).map fun k => (r + k) % (2 ^ 32 - 1) + 1

theorem nodup_idsFrom (r : Nat) : (idsFrom r).Nodup :=
  List.nodup_range.map_on fun a ha b hb hab => by
    have ha := List.mem_range.mp ha
    have hb := List.mem_range.mp hb
    omega

/-- With fewer than 32 sessions, an identifier is found that is not 0 and that none of them has. -/
theorem newId_fresh {s : State} (h : s.ids.length < 32) (r : Nat) : s.newId r ≠ 0 ∧ s.newId r ∉ s.ids := by
  have hfree : ∃ i ∈ idsFrom r, i ∉ s.ids := by
    by_contra hall
    push Not at hall
    have hle := ((nodup_idsFrom r).subperm hall).length_le
    rw [idsFrom, List.length_map, List.length_range] at hle
    omega
  obtain ⟨i, hi, hnew⟩ := hfree
  cases hfind : (idsFrom r).find? fun i => !s.ids.contains i with
  | none => exact absurd (List.find?_eq_none.mp hfind i hi) (by simpa using hnew)
  | some j =>
    have hj : s.newId r = j := congrArg (fun o : Option Nat => o.getD 1) hfind
    obtain ⟨k, -, hk⟩ := List.mem_map.mp (List.mem_of_find?_eq_some hfind)
    rw [hj]
    exact ⟨by omega, by simpa using List.find?_some hfind⟩

/-! ## A frame leaves -/

/-- Whether the host port carries frames depends on registers that counting frames leaves alone. -/
theorem hostUp_congr {s t : State} (h : ∀ k : FKey, k.f ≠ .HP_RX_FRAMES → t.rd k = s.rd k) : t.hostUp = s.hostUp := by
  have hready : ∀ d, t.ready d = s.ready d := fun d => by
    simp only [State.ready, State.power, State.on, h (dk .PWR_STATE_STATE d) nofun, h (dk .PWR_STATE_ENTERING d) nofun,
      h (dk .PWR_STATE_WAKING d) nofun, h (dk .PWR_STATE_PAD_HELD d) nofun]
  rw [State.hostUp, hready, hready, h (dk .HP_STATUS_STATE) nofun, State.hostUp]

/-- A frame has left, with a message as the port tags it (R419), and sessions are as they were. -/
structure FrameSent (s t : State) (dst : Nat) (m : LiftMsg) : Prop where
  sessions : t.sessions = s.sessions
  halves   : t.halfOpen = s.halfOpen
  out      : ∃ a, t.out = s.out ++ [.lift dst a] ∧ a.type = m.type ∧ a.session = m.session ∧ a.payload = m.payload

theorem sendFrame_sends {s : State} (hup : s.hostUp = true) (dst : Nat) (m : LiftMsg) : FrameSent s ((sendFrame dst m).run s) dst m := by
  rw [sendFrame, Act.run_ask, if_pos hup, Act.run_seq]
  refine ⟨rfl, rfl, s.tagged m, rfl, ?_⟩
  rw [State.tagged]
  split <;> exact ⟨rfl, rfl, rfl⟩

/-! ## The answer (R424-R428) -/

/-- The shared secret of a HELLO (R425). -/
def State.helloSecret (s : State) (m : LiftMsg) : Nat := x25519 (Config.random s.free).toNat (ofLE ((ofBytes m.payload).take 32))

/-- The half-open session that an acceptable HELLO leaves (R425-R427). -/
structure HelloTaken (s : State) (m : LiftMsg) (h : HalfOpen) : Prop where
  src  : h.src = m.src
  host : h.host = (m.payload.drop 64).take 32
  hello : h.hello = m.payload
  mtu  : h.mtu = min (ofBE (((ofBytes m.payload).drop 96).take 2)) s.lift.mtu
  boot : h.boot = !s.on (dk .SEC_STATUS_BUNDLE_OK)
  id   : ∃ r, h.id = s.newId r

/-- An ACCEPT answers a HELLO that leaves `h` half open. -/
structure Accepts (h : HalfOpen) (a : LiftMsg) : Prop where
  type    : a.type = tyAccept
  session : a.session = h.id
  payload : a.payload = h.accept

/-- What the device answers to an acceptable HELLO: REJECT 6 for a zero secret, else an ACCEPT. -/
theorem accept_eq (m : LiftMsg) : ∃ opens : State → Act,
    accept m = .ask (fun s => if s.helloSecret m = 0 then (emit (.draw 3)).seq (rejectMsg m 0 6) else opens s) ∧
    ∀ s, ∃ h a, HelloTaken s m h ∧ Accepts h a ∧ opens s = Act.all [emit (.draw 3), emit (.openHalf h), sendFrame m.src a] :=
  ⟨_, rfl, fun _ => ⟨_, _, ⟨rfl, rfl, rfl, rfl, rfl, _, rfl⟩, ⟨rfl, rfl, rfl⟩, rfl⟩⟩

/-- Bytes that a list holds are those read at their place. -/
theorem bytesAt_eq {bs : Bytes} {off n : Nat} (h : off + n ≤ bs.length) : bytesAt bs off n = (bs.drop off).take n := by
  refine List.ext_getElem ?_ fun i hi hi' => ?_
  · rw [bytesAt, List.length_map, List.length_range, List.length_take, List.length_drop]
    omega
  · have hin : i < n := by simpa [bytesAt] using hi
    simp only [bytesAt, List.getElem_map, List.getElem_range, List.getElem_take, List.getElem_drop, List.getD_eq_getElem?_getD,
      List.getElem?_eq_getElem (show off + i < bs.length by omega), Option.getD_some]

/-- A HELLO that the device takes up (R424, R427, R428). -/
structure State.HelloOk (s : State) (m : LiftMsg) : Prop where
  reaches  : s.Reaches m
  halves   : s.halfOpen.length < 16
  sessions : s.sessions.length < 4
  magic    : m.magic = 0x4C46
  version  : m.version = 1
  type     : m.type = tyHello
  payload  : m.payload.length = 104
  length   : m.length = 104
  session  : m.session = 0
  mtu      : 1280 ≤ natBE (bytesAt m.payload 96 2)
  key      : s.hostKeyOk (bytesAt m.payload 64 32) = true

/-- The state once a frame that arrived is counted (R453). -/
def State.arrived (s : State) : State := (bump (dk .HP_RX_FRAMES)).run s

theorem rd_arrived {k : FKey} (hk : k.f ≠ .HP_RX_FRAMES) (s : State) : s.arrived.rd k = s.rd k := rd_bump_of_ne s hk 1

theorem bundleOk_arrived (s : State) : s.arrived.on (dk .SEC_STATUS_BUNDLE_OK) = s.on (dk .SEC_STATUS_BUNDLE_OK) := by
  rw [State.on, rd_arrived (k := dk .SEC_STATUS_BUNDLE_OK) nofun, State.on]

theorem hostKeyOk_arrived (s : State) (key : Bytes) : s.arrived.hostKeyOk key = s.hostKeyOk key := by
  have hsec : s.arrived.sec = s.sec := rfl
  have hfuses : s.arrived.fuses = s.fuses := rfl
  rw [State.hostKeyOk, bundleOk_arrived, hsec, hfuses, State.hostKeyOk]

theorem helloSecret_arrived (s : State) (m : LiftMsg) : s.arrived.helloSecret m = s.helloSecret m := by
  have hfree : s.arrived.free = s.free := rfl
  rw [State.helloSecret, hfree, State.helloSecret]

section
variable {s : State} {m : LiftMsg} (h : s.HelloOk m)
include h

/-- Such a HELLO passes every check. -/
theorem run_actHello : (actHello m).run s = (accept m).run s.arrived := by
  have hkey := (hostKeyOk_arrived s (bytesAt m.payload 64 32)).trans h.key
  have hhalves : ¬ 16 ≤ s.arrived.halfOpen.length := Nat.not_le.mpr h.halves
  have hsessions : ¬ 4 ≤ s.arrived.sessions.length := Nat.not_le.mpr h.sessions
  rw [actHello, onFrame_reaches h.reaches, ← State.arrived, Act.run_ask, if_neg hhalves, if_neg (by simp [h.magic, h.version]),
    if_neg (by simp [h.type, h.payload, h.length, h.session]), if_neg (Nat.not_lt.mpr h.mtu), if_neg (by simp [hkey]), if_neg hsessions]

/-- With a zero secret the answer is REJECT 6, and nothing is left half open. -/
theorem hello_rejected (hz : s.helloSecret m = 0) : ∃ r : LiftMsg, FrameSent s ((actHello m).run s) m.src r ∧ r.type = tyReject ∧
    r.payload = toBytes (bytesBE 4 6) := by
  obtain ⟨opens, haccept, -⟩ := accept_eq m
  have hup : ((emit (.draw 3)).run s.arrived).hostUp = true :=
    (hostUp_congr fun k hk => rd_arrived hk s).trans h.reaches.up
  rw [run_actHello h, haccept, Act.run_ask, if_pos ((helloSecret_arrived s m).trans hz), Act.run_seq, rejectMsg]
  have hsent := sendFrame_sends hup m.src { src := m.src, v6 := m.v6, port := m.port, type := tyReject, session := 0, seq := 0, length := 4
                                            payload := toBytes (bytesBE 4 6) }
  exact ⟨_, ⟨hsent.sessions, hsent.halves, hsent.out⟩, rfl, rfl⟩

/-- Otherwise a session is half open, and the answer is its ACCEPT. -/
theorem hello_accepted (hz : s.helloSecret m ≠ 0) : ∃ (x : HalfOpen) (a : LiftMsg), HelloTaken s m x ∧ Accepts x a ∧
    FrameSent { s with halfOpen := s.halfOpen ++ [x] } ((actHello m).run s) m.src a := by
  obtain ⟨opens, haccept, hopens⟩ := accept_eq m
  obtain ⟨x, a, hx, ha, hrun⟩ := hopens s.arrived
  have hopen : (emit (.openHalf x)).run ((emit (.draw 3)).run s.arrived) =
      { (emit (.draw 3)).run s.arrived with halfOpen := s.halfOpen ++ [x] } := if_pos h.halves
  have hup : State.hostUp { (emit (.draw 3)).run s.arrived with halfOpen := s.halfOpen ++ [x] } = true :=
    (hostUp_congr fun k hk => rd_arrived hk s).trans h.reaches.up
  obtain ⟨hsessions, hhalves, hout⟩ := sendFrame_sends hup m.src a
  have hboot : x.boot = !s.on (dk .SEC_STATUS_BUNDLE_OK) := by rw [hx.boot, bundleOk_arrived]
  refine ⟨x, a, ⟨hx.src, hx.host, hx.hello, hx.mtu, hboot, hx.id⟩, ha, ?_⟩
  rw [run_actHello h, haccept, Act.run_ask, if_neg fun hc => hz ((helloSecret_arrived s m).symm.trans hc), hrun]
  simp only [Act.run_all_cons, Act.run_all_nil]
  rw [hopen]
  exact ⟨hsessions, hhalves, hout⟩

end

end Sys2Proof.Machine
end

section

open Sys2Proof Sys2Proof.Machine

/-- Settles O7 (R424-R428). The HELLO passes every check and is answered on its shared secret alone (`hello_rejected`, `hello_accepted`). The
identifier is fresh because a draw offers 32 of them, and fewer than 20 are in use (`newId_fresh`). -/
theorem helloAnswered : Obligations.HelloAnswered := by
  unfold Obligations.HelloAnswered
  intro s m hreach hhalves hsessions hmagic hversion htype hpayload hlength hsession hmtu hkey
  have hok : s.HelloOk m := ⟨hreach, hhalves, hsessions, hmagic, hversion, htype, hpayload, hlength, hsession, hmtu, hkey⟩
  by_cases hz : s.helloSecret m = 0
  · obtain ⟨r, ⟨hses, hhalf, a, hout, htype', -, hbytes⟩, hreject, hreason⟩ := hello_rejected hok hz
    refine ⟨_, a, rfl, hses, hout, ?_⟩
    rw [State.helloSecret] at hz
    rw [if_pos hz]
    exact ⟨hhalf, htype'.trans hreject, hbytes.trans hreason⟩
  · obtain ⟨x, b, hx, hb, hses, hhalf, a, hout, htype', hid, hbytes⟩ := hello_accepted hok hz
    refine ⟨_, a, rfl, hses, hout, ?_⟩
    rw [State.helloSecret] at hz
    rw [if_neg hz]
    obtain ⟨r, hr⟩ := hx.id
    obtain ⟨hne, hfresh⟩ := newId_fresh (s := s) (by rw [State.ids, List.length_append, List.length_map, List.length_map]; omega) r
    rw [← hr] at hne hfresh
    have hfield : ofBE (((ofBytes m.payload).drop 96).take 2) = natBE (bytesAt m.payload 96 2) := by
      rw [natBE, bytesAt_eq (by omega), ofBytes, ofBytes, List.map_take, List.map_drop]
    exact ⟨x, hhalf, hx.src, hx.host, hx.hello, hfield ▸ hx.mtu, hx.boot, hne,
      fun y hy he => hfresh (List.mem_append_left _ (List.mem_map.mpr ⟨y, hy, he⟩)),
      fun y hy he => hfresh (List.mem_append_right _ (List.mem_map.mpr ⟨y, hy, he⟩)),
      htype'.trans hb.type, hid.trans hb.session, hbytes.trans hb.payload⟩

end

section
/-! PROOFS. A pile reset ends (R463): its request is answered where two open sessions share an identifier. -/

namespace Sys2Proof.Machine

/-- A PILE_RESET that waits for the end, of a host key whose own session has closed since. -/
def waitingReset : Req := { waitingStart with cmd := 0x0035 }

/-- Pile 0 is being reset; the session of the PILE_RESET's host key and another share an identifier, and an ABORT's reply waits behind the
reset's on its mailbox. -/
def sharedIdReset : State where
  piles := [(0, { resetSrc := 1, resetReqs := [waitingReset] })]
  sessions := [sessionOne [2], sessionOne [1]]
  mailboxes := [(1, owingMailbox)]

theorem sharedIdReset_hears : sharedIdReset.hears waitingReset :=
  ⟨⟨sessionOne [1], by decide +kernel⟩, fun h => absurd h (by decide)⟩

/-- The reply to the reset leaves no session of its host key, so that the ABORT's reply frees the mailbox. -/
theorem mailbox_pileResetEnd_sharedIdReset : (((actPileResetEnd 0).run sharedIdReset).mailbox waitingReset.mb).st = .idle := by
  decide +kernel

end Sys2Proof.Machine
end

section

open Sys2Proof Sys2Proof.Machine

/-- Refutes O35 (R441, R443, R463), in its last clause. `State.hears` asks for an open session of the request's host key, and the statement
asks nothing of session identifiers. Where two open sessions share one, the reply to the PILE_RESET is sent in the first of that
identifier, which replaces both (`Upd.setSession`); the ABORT's reply that waited on the mailbox then finds no session of its key, and
as the mailbox's time has run out `postReply` frees it, with the reply just handed to it. No HELLO opens two sessions of one identifier
(`newId_fresh`). -/
theorem not_resetsAct : ¬ Obligations.ResetsAct := by
  unfold Obligations.ResetsAct
  rintro ⟨-, -, -, hend⟩
  have hreset : (sharedIdReset.pile (0 : PileId).val).resetSrc ≠ 0 := by decide +kernel
  obtain ⟨t, ht, -, -, -, hreply⟩ := hend sharedIdReset 0 hreset
  obtain ⟨hdone, -⟩ := hreply waitingReset (by decide +kernel) sharedIdReset_hears
  have hrun : (actPileResetEnd 0).run sharedIdReset = t := Host.Outcome.next.inj ht
  rw [← hrun, mailbox_pileResetEnd_sharedIdReset] at hdone
  exact MbState.noConfusion hdone

end

section
/-! PROOFS. Bring-up ends (R473, R474): BRINGUP is answered where two open sessions share an identifier. -/

namespace Sys2Proof.Machine

/-- A BRINGUP whose last stage runs, of a host key whose own session has closed since. -/
def waitingBringup : Req := { waitingStart with cmd := 0x0031 }

/-- The bring-up of that request, in stage 5. -/
def lastStage : BringRun where
  req := waitingBringup
  flags := 0
  stage := 6
  cold := true

/-- An open session with identifier 1 in which a message waits for room to be sent (R433). -/
def crowdedSession : Session := { sessionOne [2] with waiting := [sessionMsg (sessionOne [2]) tyReply 0 1 0 []] }

/-- Bring-up is in its last stage; the session of the BRINGUP's host key and another share an identifier, and an ABORT's reply waits behind
the BRINGUP's on its mailbox. -/
def sharedIdBringup : State where
  boot := { run := some lastStage }
  sessions := [crowdedSession, sessionOne [1]]
  mailboxes := [(1, owingMailbox)]

theorem sharedIdBringup_hears : sharedIdBringup.hears lastStage.req :=
  ⟨⟨sessionOne [1], by decide +kernel⟩, fun h => absurd h (by decide)⟩

/-- The reply to BRINGUP joins the message that waits, which leaves no session of its host key, so that the ABORT's reply frees the mailbox. -/
theorem mailbox_bringupStageEnd_sharedIdBringup :
    (((actBringupStageEnd []).run sharedIdBringup).mailbox lastStage.req.mb).st = .idle := by
  decide +kernel

end Sys2Proof.Machine
end

section

open Sys2Proof Sys2Proof.Machine

/-- Refutes O33 (R433, R441, R443, R474), in its last clause: BRINGUP's answer. `State.hears` asks for an open session of the request's
host key, and the statement asks nothing of session identifiers. Where two open sessions share one, the reply to BRINGUP goes to the first
of that identifier, where it joins the messages that wait, and that session replaces both (`Upd.setSession`); the ABORT's reply that waited
on the mailbox then finds no session of its key, and as the mailbox's time has run out `postReply` frees it, with the reply just handed to
it. No HELLO opens two sessions of one identifier (`newId_fresh`). -/
theorem not_bringupRuns : ¬ Obligations.BringupRuns := by
  unfold Obligations.BringupRuns
  rintro ⟨-, -, -, -, hend⟩
  obtain ⟨t, ht, -, -, hdone, -⟩ := hend sharedIdBringup [] lastStage rfl rfl rfl sharedIdBringup_hears fun _ => rfl
  have hrun : (actBringupStageEnd []).run sharedIdBringup = t := Host.Outcome.next.inj ht
  rw [← hrun, mailbox_bringupStageEnd_sharedIdBringup] at hdone
  exact MbState.noConfusion hdone

end

section
/-! PROOFS. Invariants of every change, and so of every step: the legality of states, the fuses, and the model's own bookkeeping. -/

namespace Sys2Proof.Machine

/-! ## Register fields within their widths -/

/-- A value listed under a field's code fits that field. -/
def ListsFits (m : SMap Nat) : Prop := ∀ (k : FKey) (v : Nat), SMap.find? m k.code = some v → v < 2 ^ k.f.width

/-- Register fields within their widths are a matter of what the register map lists. -/
theorem fieldsFit_iff (s : State) : s.fieldsFit ↔ ListsFits s.regs := by
  constructor
  · intro h k v hv
    simpa [State.rd, hv] using h k
  · intro h k
    rw [State.rd_eq]
    cases hv : SMap.find? s.regs k.code with
    | none => exact Fld.reset_lt_two_pow_width k.f
    | some v => exact h k v hv

/-- A key's listed value is one of the pairs. -/
theorem SMap.mem_of_find? {α : Type} {m : SMap α} {c : Nat} {v : α} (h : SMap.find? m c = some v) : (c, v) ∈ m := by
  induction m with
  | nil => cases h
  | cons q r ih =>
    obtain ⟨a, x⟩ := q
    rw [SMap.find?] at h
    split at h
    next hac => cases h; exact hac ▸ List.mem_cons_self
    next => exact List.mem_cons_of_mem _ (ih h)

/-- A map whose keys rise from `lo` on holds nothing below. -/
theorem SMap.find?_of_lt {α : Type} {m : SMap α} {lo c : Nat} (hm : SMap.sortedFrom lo m = true) (h : c < lo) : SMap.find? m c = none := by
  induction m generalizing lo with
  | nil => rfl
  | cons q r ih =>
    obtain ⟨a, x⟩ := q
    simp only [SMap.sortedFrom, Bool.and_eq_true, decide_eq_true_eq] at hm
    rw [SMap.find?, if_neg (by omega), ih hm.2 (by omega)]

/-- In a map whose keys rise, each pair is what its key reads as. -/
theorem SMap.find?_of_mem {α : Type} {m : SMap α} {lo c : Nat} {v : α} (hm : SMap.sortedFrom lo m = true) (h : (c, v) ∈ m) :
    SMap.find? m c = some v := by
  induction m generalizing lo with
  | nil => cases h
  | cons q r ih =>
    obtain ⟨a, x⟩ := q
    simp only [SMap.sortedFrom, Bool.and_eq_true] at hm
    rcases List.mem_cons.mp h with he | hr
    · cases he; simp [SMap.find?]
    · have hf := ih hm.2 hr
      have hac : a ≠ c := by
        rintro rfl
        rw [SMap.find?_of_lt hm.2 (Nat.lt_succ_self a)] at hf
        cases hf
      rw [SMap.find?, if_neg hac, hf]

theorem listsFits_set {m : SMap Nat} (hm : ListsFits m) (c : Nat) (v : Option Nat)
    (hv : ∀ (k : FKey) (x : Nat), k.code = c → v = some x → x < 2 ^ k.f.width) : ListsFits (SMap.set m c v) := by
  intro k x hx
  by_cases hk : k.code = c
  · rw [hk, SMap.find?_set_self] at hx
    exact hv k x hk hx
  · rw [SMap.find?_set_of_ne _ _ hk] at hx
    exact hm k x hx

/-- Codes tell fields apart, so a value that fits one field of a code fits every field of that code. -/
theorem FKey.f_eq_of_code_eq {k k' : FKey} (h : k.code = k'.code) : k.f = k'.f :=
  by_contra fun hne => FKey.code_ne hne h

theorem listsFits_setReg (s : State) (h : ListsFits s.regs) (k : FKey) (v : Nat) : ListsFits (s.setReg k v).regs := by
  refine listsFits_set h _ _ fun k' x hk hx => ?_
  rw [FKey.f_eq_of_code_eq hk]
  split at hx
  · cases hx
  · cases hx; exact Nat.mod_lt _ (Nat.two_pow_pos _)

theorem listsFits_dropKeys {m : SMap Nat} (h : ListsFits m) (w : Nat → Bool) : ListsFits (SMap.dropKeys m w) := by
  intro k v hv
  rw [SMap.find?_dropKeys] at hv
  split at hv
  · cases hv
  · exact h k v hv

/-! ## A restart's registers (R553) -/

/-- The registers that a restart sets: the power states, the pads held and the switches' modes. -/
theorem listsFits_of_keys {m : SMap Nat} (h : ∀ q ∈ m, ∃ k : FKey, q.1 = k.code ∧ q.2 < 2 ^ k.f.width) : ListsFits m := by
  intro k v hv
  obtain ⟨k', hk, hlt⟩ := h _ (SMap.mem_of_find? hv)
  rwa [FKey.f_eq_of_code_eq hk]

theorem listsFits_up : ListsFits (resetModes ++ resetPower) := by
  have hmode : 1 < 2 ^ Fld.SW_STATUS_MODE.width := by decide
  have hstate : 2 < 2 ^ Fld.PWR_STATE_STATE.width := by decide
  refine listsFits_of_keys fun q hq => ?_
  rcases List.mem_append.mp hq with hq | hq
  · obtain ⟨n, -, rfl⟩ := List.mem_map.mp hq
    exact ⟨_, rfl, hmode⟩
  · obtain ⟨n, -, hq⟩ := List.mem_flatMap.mp hq
    obtain ⟨j, -, rfl⟩ := List.mem_map.mp hq
    exact ⟨_, rfl, hstate⟩

theorem listsFits_down : ListsFits downPower := by
  have hstate : 2 < 2 ^ Fld.PWR_STATE_STATE.width := by decide
  have hheld : 1 < 2 ^ Fld.PWR_STATE_PAD_HELD.width := by decide
  refine listsFits_of_keys fun q hq => ?_
  rcases List.mem_append.mp hq with hq | hq
  · obtain ⟨n, -, rfl⟩ := List.mem_map.mp hq
    exact ⟨_, rfl, hstate⟩
  · obtain ⟨n, -, rfl⟩ := List.mem_map.mp hq
    exact ⟨_, rfl, hheld⟩

theorem sorted_up : SMap.sorted (resetModes ++ resetPower) = true := by decide +kernel

theorem sorted_down : SMap.sorted downPower = true := by decide +kernel

/-- Kept registers set over others, one by one. -/
def overlay (base kept : SMap Nat) : SMap Nat := kept.foldl (fun m kv => SMap.set m kv.1 (some kv.2)) base

theorem sorted_overlay {base : SMap Nat} (kept : SMap Nat) (h : SMap.sorted base = true) : SMap.sorted (overlay base kept) = true := by
  induction kept generalizing base with
  | nil => exact h
  | cons q r ih => exact ih (SMap.sorted_set q.1 _ h)

/-- Where what is kept has rising keys, it reads through what lies below it. -/
theorem find?_overlay {base kept : SMap Nat} {lo : Nat} (hk : SMap.sortedFrom lo kept = true) (c : Nat) :
    SMap.find? (overlay base kept) c = (SMap.find? kept c).or (SMap.find? base c) := by
  induction kept generalizing base lo with
  | nil => rfl
  | cons q r ih =>
    obtain ⟨a, x⟩ := q
    simp only [SMap.sortedFrom, Bool.and_eq_true] at hk
    rw [overlay, List.foldl_cons, ← overlay, ih hk.2, SMap.find?]
    by_cases hac : a = c
    · subst hac
      have hr := SMap.find?_of_lt hk.2 (Nat.lt_succ_self a)
      simp [hr]
    · rw [SMap.find?_set_of_ne _ _ (Ne.symm hac), if_neg hac]

theorem listsFits_overlay {base kept : SMap Nat} {lo : Nat} (hk : SMap.sortedFrom lo kept = true) (h : ListsFits kept) (hb : ListsFits base) :
    ListsFits (overlay base kept) := by
  intro k v hv
  rw [find?_overlay hk] at hv
  cases hf : SMap.find? kept k.code with
  | none => rw [hf, Option.none_or] at hv; exact hb k v hv
  | some x => rw [hf] at hv; exact h k v (hf.trans hv)

/-- What the AON island keeps of the register map (R498, R553). -/
def State.aonRegs (s : State) : SMap Nat := s.regs.filter (fun kv => aonFlds.any (fun f => f.ctorIdx == codeFld kv.1))

theorem regs_restart (s : State) (base : SMap Nat) : (s.restart base).regs = overlay base s.aonRegs := rfl

theorem sorted_aonRegs {s : State} (h : SMap.sorted s.regs = true) : SMap.sorted s.aonRegs = true := SMap.sortedFrom_filter _ h

theorem aonRegs_eq (s : State) : s.aonRegs = SMap.dropKeys s.regs (fun c => !aonFlds.any (fun f => f.ctorIdx == codeFld c)) := by
  simp [State.aonRegs, SMap.dropKeys]

/-! ## Legality (R4, R428, R430, R444, R491) -/

/-- The register map is in canonical form and its fields are within their widths. -/
def RegsLegal (m : SMap Nat) : Prop := SMap.sorted m = true ∧ ListsFits m

theorem regsLegal_apply (u : Upd) (s : State) (h : RegsLegal s.regs) : RegsLegal (u.apply s).regs := by
  obtain ⟨hs, hf⟩ := h
  cases u with
  | reg k v => exact ⟨SMap.sorted_set _ _ hs, listsFits_setReg s hf k v⟩
  | clearRegs w => exact ⟨SMap.sortedFrom_filter _ hs, listsFits_dropKeys hf w⟩
  | restart up =>
    have ha := sorted_aonRegs hs
    have hl : ListsFits s.aonRegs := by rw [aonRegs_eq]; exact listsFits_dropKeys hf _
    cases up
    · exact ⟨sorted_overlay _ sorted_down, listsFits_overlay ha hl listsFits_down⟩
    · exact ⟨sorted_overlay _ sorted_up, listsFits_overlay ha hl listsFits_up⟩
  | dram _ _ | sram _ _ | openHalf _ | openSession _ | pushEvent _ => simp only [Upd.apply]; split <;> exact ⟨hs, hf⟩
  | _ => exact ⟨hs, hf⟩

/-- The spec's limits on sessions, half-open ones, queued events and the field bank. -/
structure WithinLimits (s : State) : Prop where
  sessions : s.sessions.length ≤ 4
  halfOpen : s.halfOpen.length ≤ 16
  events   : s.events.length ≤ 256
  bank     : s.fuses.field.length ≤ 2048

theorem length_field_burn (f : Fuses) (b : Burn) (h : f.field.length ≤ 2048) : (f.burn b).field.length ≤ 2048 := by
  cases b with
  | entry w =>
    simp only [Fuses.burn]
    split
    · exact h
    · next hn =>
      simp only [Bool.or_eq_true, decide_eq_true_eq, not_or] at hn
      simp only [List.length_append, List.length_cons, List.length_nil]
      omega
  | _ => exact h

theorem withinLimits_apply (u : Upd) (s : State) (h : WithinLimits s) : WithinLimits (u.apply s) := by
  obtain ⟨hs, hh, he, hb⟩ := h
  cases u with
  | openHalf v =>
    simp only [Upd.apply]
    split
    · exact ⟨hs, by simp only [List.length_append, List.length_cons, List.length_nil]; omega, he, hb⟩
    · exact ⟨hs, hh, he, hb⟩
  | openSession v =>
    simp only [Upd.apply]
    split
    · exact ⟨by simp only [List.length_append, List.length_cons, List.length_nil]; omega, hh, he, hb⟩
    · exact ⟨hs, hh, he, hb⟩
  | pushEvent e =>
    simp only [Upd.apply]
    split
    · exact ⟨hs, hh, by simp only [List.length_append, List.length_cons, List.length_nil]; omega, hb⟩
    · exact ⟨hs, hh, he, hb⟩
  | dropHalf id => exact ⟨hs, (List.length_filter_le _ _).trans hh, he, hb⟩
  | setSession v => exact ⟨by simpa [Upd.apply] using hs, hh, he, hb⟩
  | dropSession id => exact ⟨(List.length_filter_le _ _).trans hs, hh, he, hb⟩
  | popEvent => exact ⟨hs, hh, by simp only [Upd.apply, List.length_tail]; omega, hb⟩
  | fuse b => exact ⟨hs, hh, he, length_field_burn _ b hb⟩
  | restart up => exact ⟨Nat.zero_le _, Nat.zero_le _, Nat.zero_le _, hb⟩
  | dram _ _ | sram _ _ => simp only [Upd.apply]; split <;> exact ⟨hs, hh, he, hb⟩
  | _ => exact ⟨hs, hh, he, hb⟩

/-- Legality is memory's canonical form, the register map's legality and the limits. -/
theorem legal_iff (s : State) : s.Legal ↔ Memory.wf s = true ∧ RegsLegal s.regs ∧ WithinLimits s :=
  ⟨fun h => ⟨h.memory, ⟨h.sorted, (fieldsFit_iff s).mp h.fields⟩, h.sessions, h.halfOpen, h.events, h.bank⟩,
    fun ⟨hm, hr, hl⟩ => ⟨hm, hr.1, (fieldsFit_iff s).mpr hr.2, hl.sessions, hl.halfOpen, hl.events, hl.bank⟩⟩

/-- Every change keeps the state legal. -/
theorem legal_apply (u : Upd) (s : State) (h : s.Legal) : (u.apply s).Legal := by
  obtain ⟨hm, hr, hl⟩ := (legal_iff s).mp h
  exact (legal_iff _).mpr ⟨Upd.wf_apply u s hm, regsLegal_apply u s hr, withinLimits_apply u s hl⟩

/-- Taking a command off the queue keeps the state legal. -/
theorem legal_pending {s : State} (h : s.Legal) (rest : List Instr) : ({ s with pending := rest } : State).Legal :=
  ⟨h.memory, h.sorted, h.fields, h.sessions, h.halfOpen, h.events, h.bank⟩

theorem legal_reset : State.reset.Legal :=
  (legal_iff _).mpr ⟨rfl, ⟨sorted_up, listsFits_up⟩, Nat.zero_le _, Nat.zero_le _, Nat.zero_le _, Nat.zero_le _⟩

/-! ## Steps -/

/-- A step is the command at the front of the queue, run on the queue's rest. -/
theorem step_cons {s : State} {c : Instr} {rest : List Instr} (h : s.pending = c :: rest) : step s = exec c { s with pending := rest } := by
  rw [step, h]

theorem step_nil {s : State} (h : s.pending = []) : step s = .next s := by rw [step, h]

/-- What every change and the queue's moving on keep, a step keeps. -/
theorem step_keeps {I : State → Prop} (each : ∀ (u : Upd) (s : State), I s → I (u.apply s))
    (queue : ∀ (s : State) (rest : List Instr), I s → I { s with pending := rest }) {s t : State} (h : I s) (ht : step s = .next t) : I t := by
  cases hp : s.pending with
  | nil =>
    rw [step_nil hp] at ht
    exact Host.Outcome.next.inj ht ▸ h
  | cons c rest =>
    rw [step_cons hp] at ht
    exact exec_keeps each (queue s rest h) ht

/-! ## Fuses (R528) -/

theorem within_refl {w : Nat} (a : BitVec w) : Within a a := BitVec.and_self

theorem within_or {w : Nat} (a b : BitVec w) : Within a (a ||| b) := by
  rw [Within]
  ext i hi
  simp only [BitVec.getElem_and, BitVec.getElem_or]
  cases a[i] <;> rfl

theorem within_allOnes {w : Nat} (a : BitVec w) : Within a (BitVec.allOnes w) := BitVec.and_allOnes

theorem within_trans {w : Nat} {a b c : BitVec w} (h : Within a b) (k : Within b c) : Within a c := by
  rw [Within] at h k ⊢
  rw [← h, BitVec.and_assoc, k]

theorem Fuses.Follows.refl (f : Fuses) : Fuses.Follows f f :=
  ⟨within_refl _, within_refl _, within_refl _, within_refl _, within_refl _, List.prefix_refl _, rfl⟩

theorem Fuses.Follows.trans {f g h : Fuses} (a : Fuses.Follows f g) (b : Fuses.Follows g h) : Fuses.Follows f h :=
  ⟨within_trans a.sv b.sv, within_trans a.ownerKey b.ownerKey, within_trans a.ownerOk b.ownerOk, within_trans a.ownerHost b.ownerHost,
    within_trans a.hostOk b.hostOk, a.field.trans b.field, a.factory.trans b.factory⟩

/-- A burn sets bits, or appends an entry to the field bank. -/
theorem Fuses.follows_burn (f : Fuses) (b : Burn) : Fuses.Follows f (f.burn b) := by
  have h := Fuses.Follows.refl f
  cases b with
  | sv => exact { h with sv := within_or _ _ }
  | ownerKey k w => exact { h with ownerKey := within_or _ _ }
  | ownerHost k w => exact { h with ownerHost := within_or _ _ }
  | ownerOk => exact { h with ownerOk := within_allOnes _ }
  | hostOk => exact { h with hostOk := within_allOnes _ }
  | entry w =>
    simp only [Fuses.burn]
    split
    · exact h
    · exact { h with field := List.prefix_append _ _ }

theorem fuses_follow_apply (before : Fuses) (u : Upd) (s : State) (h : Fuses.Follows before s.fuses) : Fuses.Follows before (u.apply s).fuses := by
  cases u with
  | fuse b => exact h.trans (Fuses.follows_burn _ b)
  | dram _ _ | sram _ _ | openHalf _ | openSession _ | pushEvent _ => simp only [Upd.apply]; split <;> exact h
  | _ => exact h

/-! ## The model's own bookkeeping -/

/-- The queue stands as it did, what was sent stays sent, and free values are only drawn. -/
structure GoesOn (s t : State) : Prop where
  pending : t.pending = s.pending
  out     : s.out <+: t.out
  free    : s.free ≤ t.free

theorem goesOn_apply (s : State) (u : Upd) (t : State) (h : GoesOn s t) : GoesOn s (u.apply t) := by
  obtain ⟨hp, ho, hf⟩ := h
  cases u with
  | out o => exact ⟨hp, ho.trans (List.prefix_append _ _), hf⟩
  | draw n => exact ⟨hp, ho, hf.trans (Nat.le_add_right _ _)⟩
  | dram _ _ | sram _ _ | openHalf _ | openSession _ | pushEvent _ => simp only [Upd.apply]; split <;> exact ⟨hp, ho, hf⟩
  | _ => exact ⟨hp, ho, hf⟩

end Sys2Proof.Machine
end

section

open Sys2Proof Sys2Proof.Machine

/-- Settles O3 (R4, R428, R430, R444, R491). The limits hold where each change is applied, a register is clipped as it is written, and a
restart lays what AON keeps over legal registers; so every change keeps legality (`legal_apply`), and with it every step. -/
theorem stepKeepsLegal : Obligations.StepKeepsLegal := by
  unfold Obligations.StepKeepsLegal
  exact fun s t hs ht => step_keeps legal_apply (fun _ rest h => legal_pending h rest) hs ht

/-- Settles O4 (R528). The one change of the fuses is a burn, which sets bits or appends an entry (`Fuses.follows_burn`). -/
theorem fusesStayBurned : Obligations.FusesStayBurned := by
  unfold Obligations.FusesStayBurned
  intro c s t ht
  exact exec_keeps (I := fun u => Fuses.Follows s.fuses u.fuses) (fuses_follow_apply s.fuses) (Fuses.Follows.refl _) ht

/-- Settles O1. -/
theorem stepRunsFront : Obligations.StepRunsFront := by
  unfold Obligations.StepRunsFront
  exact fun s => ⟨step_nil, fun _ _ h => step_cons h⟩

/-- Settles O2. -/
theorem resetLegal : Obligations.ResetLegal := by
  unfold Obligations.ResetLegal
  exact legal_reset

/-- Settles O5. Every command is an action (`exec_act`), and no change touches the queue, takes back what was sent or lowers the count of
free values. -/
theorem commandsGoOn : Obligations.CommandsGoOn := by
  unfold Obligations.CommandsGoOn
  intro c s
  obtain ⟨a, ha⟩ := exec_act c s
  obtain ⟨hp, ho, hf⟩ := exec_keeps (goesOn_apply s) ⟨rfl, List.prefix_refl _, Nat.le_refl _⟩ ha
  exact ⟨a.run s, ha, hp, ho, hf⟩

end

section
/-! PROOFS. The host port (R417-R420, R428, R449, R450): a HELLO that is not taken, the network's own questions, and the link's training. -/

namespace Sys2Proof.Machine

/-! ## A frame that leaves -/

/-- A frame leaves as the port tags it, counted, while the link is up. -/
theorem run_sendFrame {s : State} (hup : s.hostUp = true) (d : Nat) (m : LiftMsg) :
    (sendFrame d m).run s = (Upd.out (.lift d (s.tagged m))).apply ((bump (dk .HP_TX_FRAMES)).run s) := by
  rw [sendFrame, Act.run_ask, if_pos hup, Act.run_seq, run_send]

/-- Whether the port carries frames depends on its own state and on two domains. -/
theorem hostUp_of_rd {s t : State} (h : ∀ d, t.ready d = s.ready d) (hst : t.rd (dk .HP_STATUS_STATE) = s.rd (dk .HP_STATUS_STATE)) :
    t.hostUp = s.hostUp := by
  rw [State.hostUp, State.hostUp, h, h, hst]

/-- The registers that tell whether a domain is ready. -/
def readyFlds : List Fld := [.PWR_STATE_STATE, .PWR_STATE_ENTERING, .PWR_STATE_WAKING, .PWR_STATE_PAD_HELD]

theorem ready_of_rd {s t : State} (h : ∀ k : FKey, k.f ∈ readyFlds → t.rd k = s.rd k) (d : Nat) : t.ready d = s.ready d := by
  simp only [State.ready, State.power, State.on, h (dk .PWR_STATE_STATE d) (by simp [dk, readyFlds]),
    h (dk .PWR_STATE_ENTERING d) (by simp [dk, readyFlds]), h (dk .PWR_STATE_WAKING d) (by simp [dk, readyFlds]),
    h (dk .PWR_STATE_PAD_HELD d) (by simp [dk, readyFlds])]

theorem hostUp_arrived (s : State) : s.arrived.hostUp = s.hostUp := hostUp_congr fun _ hk => rd_arrived hk s

theorem vlanOk_arrived (s : State) (v : Option Nat) : s.arrived.vlanOk v = s.vlanOk v := by
  rw [State.vlanOk, State.vlanOk, rd_arrived (k := dk .HP_CTL_VID) nofun]

theorem vlan_arrived (s : State) : s.arrived.vlan = s.vlan := by
  rw [State.vlan, State.vlan, rd_arrived (k := dk .HP_CTL_VID) nofun, rd_arrived (k := dk .HP_CTL_PCP) nofun]

theorem counted_arrived {k : FKey} (hk : k.f ≠ .HP_RX_FRAMES) (s : State) (n : Nat) : s.arrived.counted k n = s.counted k n :=
  State.counted_congr (rd_arrived hk s) n

/-! ## A HELLO that is not taken (R428; the order of the reasons is log 13) -/

/-- A REJECT has been sent, without TAG, and no session has changed. -/
structure Rejected (s t : State) (m : LiftMsg) (id reason : Nat) : Prop where
  halves   : t.halfOpen = s.halfOpen
  sessions : t.sessions = s.sessions
  out      : ∃ a, t.out = s.out ++ [.lift m.src a] ∧ a.type = tyReject ∧ a.session = id ∧ a.tag = [] ∧ a.payload = toBytes (bytesBE 4 reason)

theorem rejectMsg_rejects {s : State} (hup : s.hostUp = true) (m : LiftMsg) (id reason : Nat) :
    Rejected s ((rejectMsg m id reason).run s) m id reason := by
  rw [rejectMsg, run_sendFrame hup]
  refine ⟨rfl, rfl, _, rfl, ?_⟩
  rw [State.tagged]
  split <;> exact ⟨rfl, rfl, rfl, rfl⟩

/-- Why a HELLO of good length is refused, in the order in which its checks are made. -/
inductive State.Refuses (s : State) (m : LiftMsg) : Nat → Prop where
  | version (h : m.magic ≠ 0x4C46 ∨ m.version ≠ 1) : s.Refuses m 1
  | mtu (hm : m.magic = 0x4C46) (hv : m.version = 1) (ht : m.type = tyHello) (hp : m.payload.length = 104) (hl : m.length = 104)
      (hs : m.session = 0) (h : natBE (bytesAt m.payload 96 2) < 1280) : s.Refuses m 5
  | key (hm : m.magic = 0x4C46) (hv : m.version = 1) (ht : m.type = tyHello) (hp : m.payload.length = 104) (hl : m.length = 104)
      (hs : m.session = 0) (hmtu : 1280 ≤ natBE (bytesAt m.payload 96 2)) (h : s.hostKeyOk (bytesAt m.payload 64 32) = false) :
      s.Refuses m 2
  | full (hm : m.magic = 0x4C46) (hv : m.version = 1) (ht : m.type = tyHello) (hp : m.payload.length = 104) (hl : m.length = 104)
      (hs : m.session = 0) (hmtu : 1280 ≤ natBE (bytesAt m.payload 96 2)) (hkey : s.hostKeyOk (bytesAt m.payload 64 32) = true)
      (h : 4 ≤ s.sessions.length) : s.Refuses m 3

/-- With 16 sessions half open a HELLO is dropped. -/
theorem hello_dropped {s : State} {m : LiftMsg} (h : s.Reaches m) (hfull : 16 ≤ s.halfOpen.length) : (actHello m).run s = s.arrived := by
  rw [actHello, onFrame_reaches h, ← State.arrived, Act.run_ask, if_pos (show 16 ≤ s.arrived.halfOpen.length from hfull), Act.run_done]

/-- The first check that fails gives the reason. -/
theorem hello_refused {s : State} {m : LiftMsg} (h : s.Reaches m) (hroom : s.halfOpen.length < 16) {reason : Nat} (hr : s.Refuses m reason) :
    (actHello m).run s = (rejectMsg m 0 reason).run s.arrived := by
  have hhalves : ¬ 16 ≤ s.arrived.halfOpen.length := Nat.not_le.mpr hroom
  rw [actHello, onFrame_reaches h, ← State.arrived, Act.run_ask, if_neg hhalves]
  cases hr with
  | version hv => rw [if_pos hv]
  | mtu hm hv ht hp hl hs hmtu => rw [if_neg (by simp [hm, hv]), if_neg (by simp [ht, hp, hl, hs]), if_pos hmtu]
  | key hm hv ht hp hl hs hmtu hkey =>
    have hkey := (hostKeyOk_arrived s _).trans hkey
    rw [if_neg (by simp [hm, hv]), if_neg (by simp [ht, hp, hl, hs]), if_neg (Nat.not_lt.mpr hmtu), if_pos (by simp [hkey])]
  | full hm hv ht hp hl hs hmtu hkey hfull =>
    have hkey := (hostKeyOk_arrived s _).trans hkey
    have hfull : 4 ≤ s.arrived.sessions.length := hfull
    rw [if_neg (by simp [hm, hv]), if_neg (by simp [ht, hp, hl, hs]), if_neg (Nat.not_lt.mpr hmtu), if_neg (by simp [hkey]), if_pos hfull]

/-! ## The network's own questions (R419, R420) -/

/-- A question is answered with `o` where it is accepted and asks for what is the device's own, and a fragment is counted. -/
structure NetAnswered (s t : State) (vid : Option Nat) (frag : Bool) (size : Nat) (own : Prop) (o : Out) : Prop where
  answer : s.vlanOk vid = true → size ≤ s.lift.mtu → frag = false → own →
    t.out = s.out ++ [o] ∧ t.rd (dk .HP_TX_FRAMES) = s.counted (dk .HP_TX_FRAMES) 1
  silent : ¬ own ∨ s.vlanOk vid = false ∨ s.lift.mtu < size ∨ frag = true → t.out = s.out
  pieces : s.vlanOk vid = true → size ≤ s.lift.mtu → frag = true → t.rd (dk .HP_RX_DISCARD) = s.counted (dk .HP_RX_DISCARD) 1

theorem otherFrame_up {s : State} (hup : s.hostUp = true) (k : Act) : (otherFrame k).run s = k.run s.arrived := by
  rw [otherFrame, Act.run_ask, if_pos hup, Act.run_seq, State.arrived]

/-- An answer that leaves is counted. -/
theorem answerFrame_answers (o : Option (Nat × Nat) → Out) (s : State) :
    ((answerFrame o).run s).out = s.out ++ [o s.vlan] ∧ ((answerFrame o).run s).rd (dk .HP_TX_FRAMES) = s.counted (dk .HP_TX_FRAMES) 1 :=
  ⟨rfl, rd_bump_self s _ 1⟩

/-- What becomes of a question: the checks in their order, and the answer where it asks for an address of the device. -/
theorem netFrame_answers {α : Type} {s : State} (hup : s.hostUp = true) (f : Framed α) (size : Nat) {own : State → Bool}
    (o : α → Option (Nat × Nat) → Out) (hown : own s.arrived = own s) :
    NetAnswered s ((netFrame f size fun a => .ask fun u => Act.when (own u) (answerFrame (o a))).run s) f.vid f.frag size (own s = true)
      (o f.val s.vlan) := by
  have hrun : (netFrame f size fun a => .ask fun u => Act.when (own u) (answerFrame (o a))).run s =
      if s.vlanOk f.vid = false then s.arrived
      else if s.lift.mtu < size then (bump (dk .HP_RX_OVERSIZE)).run s.arrived
      else if f.frag = true then (bump (dk .HP_RX_DISCARD)).run s.arrived
      else if own s = true then (answerFrame (o f.val)).run s.arrived else s.arrived := by
    have hmtu : s.arrived.lift = s.lift := rfl
    simp only [netFrame, otherFrame_up hup, Act.run_ask, vlanOk_arrived, hmtu, Bool.not_eq_true', Act.run_ite, Act.run_done, Act.run_when,
      hown]
  obtain ⟨hout, hcount⟩ := answerFrame_answers (o f.val) s.arrived
  rw [vlan_arrived] at hout
  rw [counted_arrived (k := dk .HP_TX_FRAMES) nofun] at hcount
  rw [hrun]
  refine ⟨fun hv hs hf ho => ?_, fun h => ?_, fun hv hs hf => ?_⟩
  · rw [if_neg (by simp [hv]), if_neg (Nat.not_lt.mpr hs), if_neg (by simp [hf]), if_pos ho]
    exact ⟨hout, hcount⟩
  · split
    · rfl
    split
    · rfl
    split
    · rfl
    split
    · next hv hs hf ho => simp_all
    · rfl
  · rw [if_neg (by simp [hv]), if_neg (Nat.not_lt.mpr hs), if_pos hf, rd_bump_self, counted_arrived (k := dk .HP_RX_DISCARD) nofun]

/-- XOFF is shown and checked again without a word on what was received. -/
theorem xoffGot_pfcCheck (s : State) : (pfcCheck.run s).lift.xoffGot = s.lift.xoffGot := by
  have hsend : ∀ b (u : State), ((sendPfc b).run u).lift.xoffGot = u.lift.xoffGot := fun b u => by
    simp only [sendPfc, showXoff, Act.run_ask, Act.run_all_cons, Act.run_all_nil, Act.run_when, run_modLift, run_setB, Upd.lift_reg]
    split <;> rfl
  rw [pfcCheck, Act.run_ask]
  split
  · rfl
  split
  · exact hsend _ _
  split
  · exact hsend _ _
  · rfl

/-- A PFC frame is honoured for the configured priority where PFC is enabled. -/
theorem xoffGot_actPfcFrame {s : State} (hup : s.hostUp = true) (prio quanta : Nat) : ((actPfcFrame prio quanta).run s).lift.xoffGot =
    if s.on (dk .HP_CTL_PFC_EN) = true ∧ prio = s.rd (dk .HP_CTL_PFC_PRIO) then quanta != 0 else s.lift.xoffGot := by
  have hen : s.arrived.on (dk .HP_CTL_PFC_EN) = s.on (dk .HP_CTL_PFC_EN) := by
    rw [State.on, rd_arrived (k := dk .HP_CTL_PFC_EN) nofun, State.on]
  rw [actPfcFrame, otherFrame_up hup, Act.run_ask, hen, rd_arrived (k := dk .HP_CTL_PFC_PRIO) nofun]
  split
  · rw [Act.run_seq, Act.run_seq, xoffGot_pfcCheck]
    rfl
  · rfl

/-! ## The host link (R417, R418, R449, R450) -/

theorem Upd.rd_dk_of_ne {f g : Fld} (h : g ≠ f) (i j v : Nat) (s : State) : ((Upd.reg (dk f i) v).apply s).rd (dk g j) = s.rd (dk g j) :=
  Upd.rd_reg_of_ne v s (FKey.code_ne h)

/-- What a link starting over shows (R417, R449). -/
structure StartsOver (s t : State) : Prop where
  state : t.rd (dk .HP_STATUS_STATE) = if s.on (dk .HP_CTL_MEDIA) = true then 2 else 1
  rate  : t.rd (dk .HP_STATUS_RATE) = 0
  fails : t.lift.fails800 = s.lift.fails800

theorem startTraining_startsOver {s : State} (hen : s.on (dk .HP_CTL_ENABLE) = true) (hphy : s.ready 2 = true) :
    StartsOver s (startTraining.run s) := by
  simp only [startTraining, showXoff, Act.run_ask, Act.run_all_cons, Act.run_all_nil, run_setR, run_setB, run_modLift, hen, hphy,
    Bool.not_true, Bool.or_self, Bool.false_eq_true, if_false]
  refine ⟨?_, ?_, rfl⟩
  · simp (disch := decide) only [Upd.rd_dk_of_ne, Upd.rd_lift, Upd.rd_reg_self]
    split <;> rfl
  · simp (disch := decide) only [Upd.rd_dk_of_ne, Upd.rd_lift, Upd.rd_reg_self]
    rfl

theorem lanesUp_lt (s : State) (lanes : BitVec 8) : s.lanesUp lanes < 2 ^ Fld.HP_STATUS_LANES_UP.width := by
  have hw : Fld.HP_STATUS_LANES_UP.width = 8 := by decide
  have hl := lanes.isLt
  rw [hw, State.lanesUp]
  split <;> omega

section
variable {s : State} (hen : s.on (dk .HP_CTL_ENABLE) = true) (hhub : s.ready 1 = true) (hphy : s.ready 2 = true)
  (hdown : s.rd (dk .HP_STATUS_STATE) ≠ 3) (lanes : BitVec 8)
include hen hhub hphy hdown

/-- On copper auto-negotiation comes first; one that fails starts over (log 150). -/
theorem hostLink_negotiates (hmedia : s.on (dk .HP_CTL_MEDIA) = false) (hst : s.rd (dk .HP_STATUS_STATE) ≠ 2) (ok : Bool) :
    (actHostLinkTrain ok lanes).run s = if ok = true then (setR (dk .HP_STATUS_STATE) 2).run s else startTraining.run s := by
  simp [actHostLinkTrain, hen, hhub, hphy, hdown, hmedia, hst, Act.run_ite]

section
variable (hgo : s.on (dk .HP_CTL_MEDIA) = true ∨ s.rd (dk .HP_STATUS_STATE) = 2)
include hgo

/-- Training that succeeds brings the link UP at its rate. -/
theorem hostLink_trains : let t := (actHostLinkTrain true lanes).run s
    t.rd (dk .HP_STATUS_STATE) = 3 ∧ t.hostUp = true ∧ t.rd (dk .HP_STATUS_RATE) = s.trainRate ∧ t.lift.fails800 = 0 ∧
      t.rd (dk .HP_STATUS_LANES_UP) = s.lanesUp lanes := by
  have hneg : ¬ (!s.on (dk .HP_CTL_MEDIA) && s.rd (dk .HP_STATUS_STATE) != 2) = true := by
    rcases hgo with h | h <;> simp [h]
  have hrun : (actHostLinkTrain true lanes).run s = (Act.all [setR (dk .HP_STATUS_RATE) s.trainRate,
      setR (dk .HP_STATUS_MEDIA) (s.rd (dk .HP_CTL_MEDIA)), setR (dk .HP_STATUS_LANES_UP) (s.lanesUp lanes), setR (dk .HP_STATUS_STATE) 3,
      modLift (fun l => { l with fails800 := 0 })]).run s := by
    rw [actHostLinkTrain, Act.run_ask, if_neg (by simp [hen, hhub, hphy, hdown]), if_neg hneg, if_pos rfl]
  have hready : ∀ d, ((actHostLinkTrain true lanes).run s).ready d = s.ready d := ready_of_rd fun k hk => by
    rw [hrun]
    refine Act.Only.rd_spared (fs := readyFlds) (Act.only_all ?_) hk s
    simp only [List.forall_mem_cons, List.not_mem_nil, false_imp_iff, implies_true, and_true]
    exact ⟨spares_setR (by decide) _, spares_setR (by decide) _, spares_setR (by decide) _, spares_setR (by decide) _, fun _ => ⟨trivial, trivial⟩⟩
  have hrate : s.trainRate < 2 ^ Fld.HP_STATUS_RATE.width := by
    have hw : Fld.HP_STATUS_RATE.width = 2 := by decide
    rw [hw, State.trainRate]
    split_ifs <;> decide
  have hup : ((actHostLinkTrain true lanes).run s).rd (dk .HP_STATUS_STATE) = 3 →
      ((actHostLinkTrain true lanes).run s).hostUp = true := fun h => by
    rw [State.hostUp, hready, hready, hhub, hphy, h]
    rfl
  simp only [hrun, Act.run_all_cons, Act.run_all_nil, run_setR, run_modLift] at hup ⊢
  have hstate : ∀ u : State, ((Upd.reg (dk .HP_STATUS_STATE) 3).apply u).rd (dk .HP_STATUS_STATE) = 3 := fun u => Upd.rd_reg_self _ _ u
  simp (disch := decide) only [Upd.rd_dk_of_ne, Upd.rd_lift, Upd.rd_reg_self, hstate] at hup ⊢
  exact ⟨trivial, hup trivial, Nat.mod_eq_of_lt hrate, rfl, Nat.mod_eq_of_lt (lanesUp_lt s lanes)⟩

/-- Training that fails starts over, and counts at 800 Gb/s with no speed forced. -/
theorem hostLink_fails : let t := (actHostLinkTrain false lanes).run s
    t.rd (dk .HP_STATUS_STATE) = (if s.on (dk .HP_CTL_MEDIA) = true then 2 else 1) ∧ t.rd (dk .HP_STATUS_RATE) = 0 ∧
      t.rd (dk .HP_STATUS_LANES_UP) = s.lanesUp lanes ∧
      t.lift.fails800 = s.lift.fails800 + (if s.trainRate = 2 ∧ s.rd (dk .HP_CTL_SPEED) ≠ 1 then 1 else 0) := by
  have hneg : ¬ (!s.on (dk .HP_CTL_MEDIA) && s.rd (dk .HP_STATUS_STATE) != 2) = true := by
    rcases hgo with h | h <;> simp [h]
  let u := (Act.when (s.trainRate == 2 && s.rd (dk .HP_CTL_SPEED) != 1) (modLift (fun l => { l with fails800 := l.fails800 + 1 }))).run s
  have hrun : (actHostLinkTrain false lanes).run s = (setR (dk .HP_STATUS_LANES_UP) (s.lanesUp lanes)).run (startTraining.run u) := by
    rw [actHostLinkTrain, Act.run_ask, if_neg (by simp [hen, hhub, hphy, hdown]), if_neg hneg, if_neg Bool.false_ne_true]
    simp only [Act.run_all_cons, Act.run_all_nil, u]
  have hsame : ∀ k : FKey, u.rd k = s.rd k := fun k => by
    simp only [u, Act.run_when, run_modLift]
    split <;> rfl
  have hon : ∀ k : FKey, u.on k = s.on k := fun k => by rw [State.on, State.on, hsame]
  have hfails : u.lift.fails800 = s.lift.fails800 + (if s.trainRate = 2 ∧ s.rd (dk .HP_CTL_SPEED) ≠ 1 then 1 else 0) := by
    simp only [u, Act.run_when, run_modLift, Bool.and_eq_true, beq_iff_eq, bne_iff_ne]
    split <;> rfl
  obtain ⟨hstate, hrate, hkept⟩ := startTraining_startsOver (s := u) ((hon _).trans hen) ((ready_of_rd (fun k _ => hsame k) 2).trans hphy)
  simp only [hrun]
  refine ⟨?_, ?_, (rd_setR_self _ _ _).trans (Nat.mod_eq_of_lt (lanesUp_lt s lanes)), hkept.trans hfails⟩
  · simp (disch := decide) only [run_setR, Upd.rd_dk_of_ne, hstate, hon]
  · simp (disch := decide) only [run_setR, Upd.rd_dk_of_ne, hrate]

end

end

/-- What a link that goes down does. -/
def linkDown : Act := Act.all [setR (dk .HP_STATUS_STATE) 0, setR (dk .HP_STATUS_RATE) 0, setR (dk .HP_STATUS_LANES_UP) 0,
  modLift (fun l => { l with fails800 := 0, xoffSent := false, xoffGot := false }), showXoff]

theorem exec_hostLinkDown (s : State) : exec .hostLinkDown s = .next (linkDown.run s) := rfl

/-- A link that goes down shows no state, and its count of failures starts over. -/
theorem linkDown_shows (s : State) : let t := linkDown.run s
    t.rd (dk .HP_STATUS_STATE) = 0 ∧ t.rd (dk .HP_STATUS_RATE) = 0 ∧ t.rd (dk .HP_STATUS_LANES_UP) = 0 ∧ t.lift.fails800 = 0 ∧
      t.hostUp = false ∧ t.sessions = s.sessions := by
  have hstate : (linkDown.run s).rd (dk .HP_STATUS_STATE) = 0 := by
    simp only [linkDown, showXoff, Act.run_all_cons, Act.run_all_nil, Act.run_ask, run_setR, run_setB, run_modLift]
    simp (disch := decide) only [Upd.rd_dk_of_ne, Upd.rd_lift, Upd.rd_reg_self]
    rfl
  have hdown : (linkDown.run s).hostUp = false := by rw [State.hostUp, hstate]; exact Bool.and_false _
  refine ⟨hstate, ?_, ?_, rfl, hdown, rfl⟩
  all_goals
    simp only [linkDown, showXoff, Act.run_all_cons, Act.run_all_nil, Act.run_ask, run_setR, run_setB, run_modLift]
    simp (disch := decide) only [Upd.rd_dk_of_ne, Upd.rd_lift, Upd.rd_reg_self]
    rfl

end Sys2Proof.Machine
end

section

open Sys2Proof Sys2Proof.Machine

/-- Settles O8 (R428). The checks of a HELLO are made in one order (log 13), so the first that fails gives the reason (`hello_refused`). -/
theorem helloRefused : Obligations.HelloRefused := by
  unfold Obligations.HelloRefused
  intro s m hreach
  refine ⟨fun hfull => ⟨_, rfl, ?_⟩, fun reason hroom hwhy => ?_⟩
  · rw [hello_dropped hreach hfull]
    exact ⟨rfl, rfl⟩
  · have hrefuses : s.Refuses m reason := by
      rcases hwhy with ⟨rfl, h⟩ | ⟨hm, hv, ht, hp, hl, hs, ⟨rfl, h⟩ | ⟨hmtu, ⟨rfl, h⟩ | ⟨hkey, rfl, h⟩⟩⟩
      · exact .version h
      · exact .mtu hm hv ht hp hl hs h
      · exact .key hm hv ht hp hl hs hmtu h
      · exact .full hm hv ht hp hl hs hmtu hkey h
    obtain ⟨hhalves, hsessions, a, hout, htype, hid, htag, hbytes⟩ := rejectMsg_rejects ((hostUp_arrived s).trans hreach.up) m 0 reason
    rw [← hello_refused hreach hroom hrefuses] at hhalves hsessions hout
    exact ⟨_, a, rfl, hhalves, hsessions, hout, htype, hid, htag, hbytes⟩

/-- Settles O17 (R419, R420). All questions pass the same checks (`netFrame_answers`); what each asks for is read from Lift's state, which
counting a frame leaves alone. -/
theorem networkAnswers : Obligations.NetworkAnswers := by
  unfold Obligations.NetworkAnswers
  intro s hup
  have four : ∀ a, s.arrived.ownIp4 a = s.ownIp4 a := fun _ => rfl
  have six : ∀ a, s.arrived.ownIp6 a = s.ownIp6 a := fun _ => rfl
  refine ⟨⟨_, rfl, ?_⟩, fun target mac ip => ?_, fun target sender => ?_, fun src dst b => ?_, fun src dst b => ?_, fun prio quanta => ?_⟩
  · rw [otherFrame_up hup]
    exact ⟨(rd_bump_self _ _ 1).trans (counted_arrived (k := dk .HP_RX_DISCARD) nofun s 1), rfl, rfl⟩
  · obtain ⟨h1, h2, h3⟩ := netFrame_answers hup mac 28 (own := (·.ownIp4 target)) (fun a v => .arp v a ip) (four target)
    exact ⟨_, rfl, h1, h2, h3⟩
  · obtain ⟨h1, h2, h3⟩ := netFrame_answers hup sender 72 (own := (·.ownIp6 target)) (fun a v => .advert v a) (six target)
    exact ⟨_, rfl, h1, h2, h3⟩
  · obtain ⟨h1, h2, h3⟩ := netFrame_answers hup b (48 + b.val.length) (own := (·.ownIp6 dst)) (fun a v => .echo v true src a) (six dst)
    exact ⟨_, rfl, h1, h2, h3⟩
  · obtain ⟨h1, h2, h3⟩ := netFrame_answers hup b (28 + b.val.length)
      (own := fun u => decide (dst.toNat < 2 ^ 32) && u.ownIp4 (dst.setWidth 32)) (fun a v => .echo v false src a) (congrArg (decide (dst.toNat < 2 ^ 32) && ·) (four (dst.setWidth 32)))
    simp only [Bool.and_eq_true, decide_eq_true_eq] at h1 h2
    exact ⟨_, rfl, h1, h2, h3⟩
  · exact ⟨_, rfl, xoffGot_actPfcFrame hup prio quanta⟩

/-- Settles O18 (R417, R418, R449, R450; log 150). Each case is one branch of `actHostLinkTrain`. -/
theorem hostLinkTrains : Obligations.HostLinkTrains := by
  unfold Obligations.HostLinkTrains
  refine ⟨fun s lanes hen hhub hphy hdown => ⟨fun hgo => ?_, fun hmedia hst ok => ⟨_, rfl, ?_⟩⟩, fun s => ⟨_, exec_hostLinkDown s, linkDown_shows s⟩⟩
  · exact ⟨⟨_, rfl, hostLink_trains hen hhub hphy hdown lanes hgo⟩, _, rfl, hostLink_fails hen hhub hphy hdown lanes hgo⟩
  · have hover := startTraining_startsOver hen hphy
    have hstate := hover.state
    rw [hmedia, if_neg Bool.false_ne_true] at hstate
    rw [hostLink_negotiates hen hhub hphy hdown lanes hmedia hst]
    cases ok
    · exact ⟨hstate, hover.fails⟩
    · exact ⟨rd_setR_self _ _ s, rfl⟩

end

section
/-! PROOFS. Messages that are not acted on (R422, R429, R431): one that fails its check, and a duplicate, whatever row carries them. -/

namespace Sys2Proof.Machine

/-! ## Rows that carry a session's messages -/

/-- An action that a message starts: a message that only acknowledges, a sequenced one, or a request. -/
inductive Carries (m : LiftMsg) : Act → Prop where
  | header (k : Nat → Act) : Carries m (authed m k)
  | sequenced (row : Instr) (b : Nat) (k : Nat → Act) : Carries m (sequenced m row b k)
  | request (row : Instr) (k : Req → Act) : Carries m (requestAny m row k)

/-- A message in the order of its session's: a sequenced one, or a request. -/
inductive CarriesInOrder (m : LiftMsg) : Act → Prop where
  | sequenced (row : Instr) (b : Nat) (k : Nat → Act) : CarriesInOrder m (sequenced m row b k)
  | request (row : Instr) (k : Req → Act) : CarriesInOrder m (requestAny m row k)

/-- A request goes the way of a sequenced message while none is taken up again. -/
theorem run_requestAny_quiet {s : State} (h : s.lift.again = none) (m : LiftMsg) (row : Instr) (k : Req → Act) :
    ∃ k', (requestAny m row k).run s = (sequenced m row 0 k').run s := by
  rw [requestAny, Act.run_ask, h]
  exact ⟨_, rfl⟩

/-! ## A message that fails its check (R422, R429) -/

/-- A frame that is counted, with a message that is counted as failing its check. -/
def State.forged (s : State) : State := (bump (dk .LIFT_MAC_FAIL)).run s.arrived

section
variable {s : State} {m : LiftMsg} (hreach : s.Reaches m)
  (hbad : ∀ x, s.session? m.session = some x → headerOk m = false ∨ m.tag ≠ msgTag x.kIn m)
include hreach hbad

theorem authed_forged (k : Nat → Act) : (authed m k).run s = s.forged := by
  have hsame : s.arrived.session? m.session = s.session? m.session := rfl
  rw [authed, onFrame_reaches hreach, ← State.arrived, heardIn, Act.run_ask, hsame]
  cases hx : s.session? m.session with
  | none => rfl
  | some x =>
    have hfails : ¬ (headerOk m && m.tag == msgTag x.kIn m) = true := by
      rcases hbad x hx with h | h <;> simp [h]
    simp only [if_neg hfails]
    rfl

theorem carries_forged (hq : s.Quiet) {a : Act} (ha : Carries m a) : a.run s = s.forged := by
  have hseq : ∀ row b k, (Sys2Proof.Machine.sequenced m row b k).run s = s.forged := fun row b k => by
    rw [Sys2Proof.Machine.sequenced, Act.run_ask, hq.due, if_neg Bool.false_ne_true, authed_forged hreach hbad]
  cases ha with
  | header k => exact authed_forged hreach hbad k
  | sequenced row b k => exact hseq row b k
  | request row k =>
    obtain ⟨k', hk⟩ := run_requestAny_quiet hq.again m row k
    rw [hk, hseq]

end

/-- Counting leaves Lift's state, sessions and mailboxes as they were, and lets nothing go on. -/
theorem settled_forged {s : State} (hq : s.Quiet) : s.forged.Settled :=
  settled_of hq.settled ⟨rfl, rfl, rfl⟩ hq.settled.held

theorem liftSame_forged (s : State) : LiftSame s s.forged :=
  (Act.Only.liftSame (lift_count (by decide) 1) s).trans (Act.Only.liftSame (lift_count (by decide) 1) s.arrived)

theorem macFail_forged (s : State) : s.forged.rd (dk .LIFT_MAC_FAIL) = s.counted (dk .LIFT_MAC_FAIL) 1 :=
  (rd_bump_self s.arrived _ 1).trans (counted_arrived (k := dk .LIFT_MAC_FAIL) nofun s 1)

/-! ## A duplicate (R431) -/

/-- A duplicate is counted and acknowledged again, beside what its header says. -/
def State.duplicated (s : State) (m : LiftMsg) : State := (sendPlain m.session tyAckOnly).run ((bump (dk .LIFT_DUP)).run (s.heard m))

theorem carries_duplicated {s : State} {m : LiftMsg} {x y : Session} (hq : s.Quiet) (hg : s.Genuine m y)
    (hx : (s.heard m).session? m.session = some x) (hdup : m.seq < x.dlv) {a : Act} (ha : CarriesInOrder m a) : a.run s = s.duplicated m := by
  have hseq : ∀ row b k, (sequenced m row b k).run s = s.duplicated m := fun row b k => by
    rw [sequenced, Act.run_ask, hq.due, if_neg Bool.false_ne_true, authed_genuine hg, Act.run_ask, hx]
    simp only [if_pos (show m.seq < x.dlv ∨ x.held.any (fun h => h.seq == m.seq) = true from .inl hdup), Act.run_seq]
    rfl
  cases ha with
  | sequenced row b k => exact hseq row b k
  | request row k =>
    obtain ⟨k', hk⟩ := run_requestAny_quiet hq.again m row k
    rw [hk, hseq]

theorem spares_modSession {fs : List Fld} (id : Nat) (f : Session → Session) : (modSession id f).Only (Upd.Spares fs) := fun s => by
  simp only
  split
  · exact ⟨trivial, trivial⟩
  · trivial

theorem spares_grant {fs : List Fld} (id : Nat) : (grant id).Only (Upd.Spares fs) := fun _ => spares_modSession _ _

theorem spares_sendFrame {fs : List Fld} (h : .HP_TX_FRAMES ∉ fs) (d : Nat) (m : LiftMsg) : (sendFrame d m).Only (Upd.Spares fs) := fun s => by
  simp only
  split
  · exact Act.only_seq (spares_bump h 1) ⟨trivial, trivial⟩
  · trivial

theorem spares_sendPlain {fs : List Fld} (h : .HP_TX_FRAMES ∉ fs) (id ty : Nat) : (sendPlain id ty).Only (Upd.Spares fs) :=
  Act.only_seq (spares_grant id) fun s => by
    simp only
    split
    · exact spares_sendFrame h _ _
    · trivial

/-- Sending leaves mailboxes as they were. -/
theorem mailboxes_send {a : Act} (h : a.Only Upd.ofSend) (s : State) : (a.run s).mailboxes = s.mailboxes :=
  h.same (read := State.mailboxes) (fun u t hu => by cases u <;> first | rfl | exact absurd hu id) s

section
variable (s : State) (m : LiftMsg)

theorem duplicate_send : ((bump (dk .LIFT_DUP)).seq (sendPlain m.session tyAckOnly)).Only Upd.ofSend :=
  Act.only_seq (only_bump fun _ => by simp [Upd.ofSend, liftFlds, dk]) (send_sendPlain _ _)

theorem duplicated_eq : s.duplicated m = ((bump (dk .LIFT_DUP)).seq (sendPlain m.session tyAckOnly)).run (s.heard m) := by
  rw [State.duplicated, Act.run_seq]

theorem liftSame_duplicated : LiftSame s (s.duplicated m) := by
  rw [duplicated_eq]
  exact (liftSame_heard s m).trans (Act.Only.liftSame ((duplicate_send m).mono Upd.ofSend_ofLift) _)

theorem mailboxes_duplicated : (s.duplicated m).mailboxes = (s.heard m).mailboxes := by
  rw [duplicated_eq]
  exact mailboxes_send (duplicate_send m) _

theorem lift_duplicated : (s.duplicated m).lift = (s.heard m).lift := by
  rw [duplicated_eq]
  exact ((duplicate_send m).sendSame _).2

theorem dup_duplicated : (s.duplicated m).rd (dk .LIFT_DUP) = (s.heard m).counted (dk .LIFT_DUP) 1 :=
  ((spares_sendPlain (fs := [.LIFT_DUP]) (by decide) m.session tyAckOnly).rd_spared List.mem_cons_self _).trans (rd_bump_self _ _ 1)

theorem settled_duplicated (hq : s.Quiet) : (s.duplicated m).Settled := by
  have hh := settled_heard hq m
  have hl := lift_duplicated s m
  exact settled_of hh ⟨by rw [hl], by rw [hl], by rw [hl]⟩ (keeps_sendPlain (behind_sendFree 0) _ _ ((bump (dk .LIFT_DUP)).run (s.heard m)) hh.held)

end

/-- What is not acted on lets nothing go on. -/
theorem exec_carried {c : Instr} {a : Act} {s t : State} (hc : exec c s = (settled a).answer s) (ha : a.run s = t) (ht : t.Settled) :
    exec c s = .next t := by
  rw [hc, Act.answer_eq, run_settled (ha.symm ▸ ht), ha]

end Sys2Proof.Machine
end

section

open Sys2Proof Sys2Proof.Machine

/-- Settles O15 (R422, R429). Every row of the statement starts by taking its message (`Carries`), and there the check fails. -/
theorem forgedHasNoEffect : Obligations.ForgedHasNoEffect := by
  unfold Obligations.ForgedHasNoEffect
  intro s m hq hreach hbad c hc
  have hrow : ∃ a, Carries m a ∧ exec c s = (settled a).answer s := by
    simp only [List.mem_cons, List.not_mem_nil, or_false] at hc
    rcases hc with (rfl | rfl | rfl | rfl | rfl | rfl | rfl | rfl | rfl | rfl | rfl | rfl) | ⟨_, rfl⟩ | ⟨_, _, rfl⟩ | ⟨_, rfl⟩ | ⟨_, rfl⟩ |
      ⟨_, rfl⟩ | ⟨_, rfl | rfl | rfl | rfl | rfl | rfl | rfl | rfl⟩ | ⟨_, rfl⟩ | ⟨_, rfl⟩ | ⟨_, rfl⟩ | ⟨_, _, _, rfl⟩ | ⟨_, _, _, rfl⟩ |
      ⟨_, _, rfl⟩ | ⟨_, rfl⟩ | ⟨_, rfl⟩ | ⟨_, rfl⟩ | ⟨_, _, rfl⟩ | ⟨_, _, _, _, rfl⟩ | ⟨_, _, rfl⟩ | ⟨_, rfl⟩ | ⟨_, _, _, rfl⟩ | ⟨_, rfl⟩ |
      ⟨_, rfl⟩ | ⟨_, rfl⟩
    case inl.inl | inl.inr.inl => exact ⟨_, .header _, rfl⟩
    case inl.inr.inr.inl | inl.inr.inr.inr.inl => exact ⟨_, .sequenced _ _ _, rfl⟩
    all_goals exact ⟨_, .request _ _, rfl⟩
  obtain ⟨a, ha, hexec⟩ := hrow
  exact ⟨_, exec_carried hexec (carries_forged hreach hbad hq ha) (settled_forged hq), liftSame_forged s, rfl, rfl, rfl, rfl, macFail_forged s⟩

/-- Settles O16 (R431). Every row of the statement takes its message in order (`CarriesInOrder`), and there a duplicate goes no further. -/
theorem duplicateNotActedOn : Obligations.DuplicateNotActedOn := by
  unfold Obligations.DuplicateNotActedOn
  intro s m x y hq hg hx hdup c hc
  have hrow : ∃ a, CarriesInOrder m a ∧ exec c s = (settled a).answer s := by
    simp only [List.mem_cons, List.not_mem_nil, or_false] at hc
    rcases hc with (rfl | rfl | rfl | rfl | rfl | rfl | rfl | rfl | rfl | rfl) | ⟨_, _, rfl⟩ | ⟨_, _, rfl⟩ | ⟨_, rfl⟩ | ⟨_, rfl⟩ | ⟨_, rfl⟩ |
      ⟨_, rfl⟩ | ⟨_, rfl⟩
    case inl.inl | inl.inr.inl => exact ⟨_, .sequenced _ _ _, rfl⟩
    all_goals exact ⟨_, .request _ _, rfl⟩
  obtain ⟨a, ha, hexec⟩ := hrow
  exact ⟨_, exec_carried hexec (carries_duplicated hq hg hx hdup ha) (settled_duplicated s m hq), liftSame_duplicated s m,
    mailboxes_duplicated s m, lift_duplicated s m, dup_duplicated s m⟩

end

section
/-! PROOFS. How sessions open, send and end (R423, R426, R428, R430, R432, R433, R441). -/

namespace Sys2Proof.Machine

/-! ## Mailboxes changed one by one -/

/-- Each mailbox of a list without repetition changes as `f` says. -/
theorem mailbox_each_modMb {f : Mailbox → Mailbox} {is : List Nat} (h : is.Nodup) (s : State) (j : Nat) :
    ((Act.each is (fun i => modMb i f)).run s).mailbox j = if j ∈ is then f (s.mailbox j) else s.mailbox j := by
  induction is generalizing s with
  | nil => simp
  | cons i is ih =>
    obtain ⟨hi, his⟩ := List.nodup_cons.mp h
    rw [Act.run_each_cons, ih his, run_modMb]
    by_cases hj : j = i
    · subst hj
      simp [hi]
    · simp [hj, Upd.mailbox_mailbox_of_ne _ _ hj]

/-- Changes of mailboxes alone. -/
def Upd.ofMailbox : Upd → Prop
  | .mailbox _ _ => True
  | _ => False

theorem only_each_modMb (is : List Nat) (f : Nat → Mailbox → Mailbox) : (Act.each is (fun i => modMb i (f i))).Only Upd.ofMailbox :=
  Act.only_each fun _ _ _ => ⟨trivial, trivial⟩

/-- Changes of mailboxes leave any reading of the rest as it was. -/
theorem same_ofMailbox {β : Type} {read : State → β} (hread : ∀ (s : State) (i : Nat) (v : Mailbox), read ((Upd.mailbox i v).apply s) = read s)
    {a : Act} (h : a.Only Upd.ofMailbox) (s : State) : read (a.run s) = read s :=
  h.same (fun u t hu => by
    cases u with
    | mailbox i v => exact hread t i v
    | _ => exact absurd hu id) s

/-! ## RETAIN_S (R441) -/

/-- The mailboxes that are a key's. -/
def State.ofKey (s : State) (key : Bytes) : List Nat := (List.range 64).filter (fun i => (s.mailbox i).owner == some key)

theorem mem_ofKey {s : State} {key : Bytes} {i : Nat} : i ∈ s.ofKey key ↔ i < 64 ∧ (s.mailbox i).owner = some key := by
  simp [State.ofKey]

theorem nodup_ofKey (s : State) (key : Bytes) : (s.ofKey key).Nodup := List.nodup_range.filter _

/-- A mailbox once its key's time is over. -/
def Mailbox.expire (b : Mailbox) : Mailbox := if b.busy = 0 then {} else { b with replies := [], st := .busy, expired := true }

theorem run_actRetainExpire {s : State} {key : Bytes} (h : ∀ x ∈ s.sessions, x.host ≠ key) : (actRetainExpire key).run s =
    let t := (Act.each (s.ofKey key) (fun i => modMb i Mailbox.expire)).run s
    if s.lift.mb00 = some key ∧ s.lift.mb00Ses = none then (modLift (fun l => { l with mb00 := none })).run t else t := by
  have hnone : ¬ s.sessions.any (fun x => x.host == key) = true := by
    simpa using h
  rw [actRetainExpire, Act.run_ask, if_neg hnone]
  simp only [Act.run_all_cons, Act.run_all_nil, Act.run_when, Bool.and_eq_true, beq_iff_eq, Option.isNone_iff_eq_none]
  rfl

/-! ## Messages sent in a session (R423, R432, R433) -/

section
variable {s : State} {id : Nat} {x : Session} (hx : s.session? id = some x)
include hx

theorem session?_modSession_self (f : Session → Session) : ((modSession id f).run s).session? id = some { f x with id := x.id } := by
  rw [run_modSession, hx, Upd.session?_setSession, if_pos (State.id_of_session? hx).symm, hx, Option.map_some]

/-- The limit a session grants is brought up to date. -/
theorem session?_grant_self : ∃ n, ((grant id).run s).session? id = some { x with granted := n } :=
  ⟨_, by rw [grant, Act.run_ask]; exact session?_modSession_self hx _⟩

end

/-- Changing a session sends nothing and writes no register. -/
theorem modSession_same (id : Nat) (f : Session → Session) (s : State) :
    ((modSession id f).run s).out = s.out ∧ ((modSession id f).run s).regs = s.regs := by
  rw [run_modSession]
  split <;> exact ⟨rfl, rfl⟩

theorem grant_same (id : Nat) (s : State) : ((grant id).run s).out = s.out ∧ ((grant id).run s).regs = s.regs := modSession_same id _ s

theorem rd_of_regs {s t : State} (h : t.regs = s.regs) (k : FKey) : t.rd k = s.rd k := by rw [State.rd_eq, State.rd_eq, h]

theorem hostUp_of_regs {s t : State} (h : t.regs = s.regs) : t.hostUp = s.hostUp :=
  hostUp_of_rd (ready_of_rd fun k _ => rd_of_regs h k) (rd_of_regs h _)

theorem tagged_of_regs {s t : State} (h : t.regs = s.regs) (m : LiftMsg) : t.tagged m = s.tagged m := by
  simp only [State.tagged, State.vlan, rd_of_regs h]

/-- A sequenced message has been sent in a session: it follows what is unacknowledged, under the next SEQ. -/
structure SentIn (s t : State) (id : Nat) (x : Session) (type : Nat) : Prop where
  sent : ∃ y u, t.session? id = some y ∧ y.txNext = x.txNext + 1 ∧ y.waiting = x.waiting ∧ y.unacked = x.unacked ++ [u] ∧
    u.seq = x.txNext ∧ u.msg.type = type ∧ (s.hostUp = true → t.out = s.out ++ [.lift x.src (s.tagged u.msg)])

/-- Sending is a change of the session and a frame. -/
theorem run_transmit {s : State} {id : Nat} {x : Session} (hx : s.session? id = some x) (ty mb : Nat) (b : Bytes) :
    ∃ (u : State) (x' : Session) (m : LiftMsg), (transmit id ty mb b).run s = (sendFrame x.src m).run u ∧ m.type = ty ∧
      u.session? id = some x' ∧ x'.txNext = x.txNext + 1 ∧ x'.waiting = x.waiting ∧ x'.unacked = x.unacked ++ [⟨x.txNext, m, 0⟩] ∧
      u.out = s.out ∧ u.regs = s.regs := by
  obtain ⟨n, hx'⟩ := session?_grant_self hx
  obtain ⟨hout, hregs⟩ := grant_same id s
  rw [transmit, Act.run_seq, Act.run_ask, hx']
  simp only [Act.run_seq]
  generalize (grant id).run s = v at hx' hout hregs
  refine ⟨_, _, _, rfl, rfl, session?_modSession_self hx' _, rfl, rfl, rfl, ?_, ?_⟩
  · exact (modSession_same _ _ _).1.trans hout
  · exact (modSession_same _ _ _).2.trans hregs

theorem transmit_sends {s : State} {id : Nat} {x : Session} (hx : s.session? id = some x) (ty mb : Nat) (b : Bytes) :
    SentIn s ((transmit id ty mb b).run s) id x ty := by
  obtain ⟨u, x', m, hrun, htype, hx', hnext, hwaiting, hunacked, hout, hregs⟩ := run_transmit hx ty mb b
  rw [hrun]
  refine ⟨x', _, (session?_sendFrame _ _ _ _).trans hx', hnext, hwaiting, hunacked, rfl, htype, fun hup => ?_⟩
  rw [run_sendFrame ((hostUp_of_regs hregs).trans hup), tagged_of_regs hregs]
  exact congrArg (· ++ _) hout

/-- With 256 unacknowledged, or others waiting, a sequenced message waits (R433). -/
theorem sendSeq_waits {s : State} {id : Nat} {x : Session} (hx : s.session? id = some x) (h : ¬ (unackedOther x < 256 ∧ x.waiting = []))
    (ty mb : Nat) (b : Bytes) : ∃ w, w.type = ty ∧
      (sendSeq id ty mb b).run s = (Upd.setSession { x with waiting := x.waiting ++ [w] }).apply s := by
  have hfull : 256 ≤ unackedOther x ∨ ¬ x.waiting.isEmpty = true := by
    rw [List.isEmpty_iff]
    by_cases hw : x.waiting = []
    · exact .inl (Nat.le_of_not_lt fun hlt => h ⟨hlt, hw⟩)
    · exact .inr hw
  rw [sendSeq, Act.run_ask, hx]
  simp only [if_pos hfull, run_modSession, hx]
  exact ⟨{ src := x.src, type := ty, session := id, seq := 0, mailbox := mb, length := b.length, payload := b }, rfl, rfl⟩

theorem sendSeq_sends {s : State} {id : Nat} {x : Session} (hx : s.session? id = some x) (h : unackedOther x < 256 ∧ x.waiting = [])
    (ty mb : Nat) (b : Bytes) : (sendSeq id ty mb b).run s = (transmit id ty mb b).run s := by
  have hroom : ¬ (256 ≤ unackedOther x ∨ ¬ x.waiting.isEmpty = true) := by
    simp [h.2, h.1]
  rw [sendSeq, Act.run_ask, hx]
  simp only [if_neg hroom]

theorem settled_sendSeq (id ty mb : Nat) (b : Bytes) {s : State} (h : s.Settled) : ((sendSeq id ty mb b).run s).Settled :=
  settled_of h (marks_send (send_sendSeq id ty mb b) s s (LiftMarks.refl s)) (keeps_sendSeq (behind_sendFree 0) id ty mb b s h.held)

/-- A message that is still unacknowledged is sent again with RETX and its SEQ, and counted (R432). -/
theorem resend_sends {s : State} {id q : Nat} {x : Session} {u : Unacked} (hx : s.session? id = some x)
    (hu : x.unacked.find? (fun u => u.seq == q) = some u) (hup : s.hostUp = true) : let t := (resend id q).run s
    (∃ a, t.out = s.out ++ [.lift x.src a] ∧ a.seq = q ∧ a.flags = 1 ∧ a.type = u.msg.type ∧ a.payload = u.msg.payload) ∧
      t.rd (dk .LIFT_RETX) = s.counted (dk .LIFT_RETX) 1 := by
  obtain ⟨n, hx'⟩ := session?_grant_self hx
  obtain ⟨hout, hregs⟩ := grant_same id s
  rw [resend, Act.run_seq, Act.run_ask, hx']
  simp only [hu, Act.run_all_cons, Act.run_all_nil]
  generalize (grant id).run s = v at hx' hout hregs
  have hsame := modSession_same id (fun y => { y with
    unacked := y.unacked.map fun v => if v.seq == q then { v with tries := v.tries + 1 } else v }) v
  rw [hout, hregs] at hsame
  generalize (modSession id _).run v = w at hsame
  have hcount : ((bump (dk .LIFT_RETX)).run w).rd (dk .LIFT_RETX) = s.counted (dk .LIFT_RETX) 1 :=
    (rd_bump_self _ _ 1).trans (State.counted_congr (rd_of_regs hsame.2 _) 1)
  have hkept : ∀ k : FKey, k.f ≠ .LIFT_RETX → ((bump (dk .LIFT_RETX)).run w).rd k = s.rd k := fun k hk =>
    (rd_bump_of_ne w hk 1).trans (rd_of_regs hsame.2 k)
  have hready := ready_of_rd (s := s) (t := (bump (dk .LIFT_RETX)).run w) fun k hk => hkept k fun he => by
    rw [he] at hk
    exact absurd hk (by decide)
  have hup' : ((bump (dk .LIFT_RETX)).run w).hostUp = true :=
    (hostUp_of_rd hready (hkept (dk .HP_STATUS_STATE) nofun)).trans hup
  have hout' : ((bump (dk .LIFT_RETX)).run w).out = s.out := hsame.1
  generalize (bump (dk .LIFT_RETX)).run w = z at hcount hup' hout'
  rw [run_sendFrame hup']
  refine ⟨⟨_, congrArg (· ++ _) hout', ?_⟩, (rd_bump_of_ne (k := dk .HP_TX_FRAMES) (k' := dk .LIFT_RETX) z nofun 1).trans hcount⟩
  rw [State.tagged]
  split <;> exact ⟨rfl, rfl, rfl, rfl⟩

/-! ## How a session ends (R430, R441) -/

/-- A session gone, and MB00 held by none where it held it. -/
def State.closed (s : State) (id : Nat) : State :=
  (Act.when (s.lift.mb00Ses == some id) (modLift (fun l => { l with mb00Ses := none }))).run ((emit (.dropSession id)).run s)

theorem session?_closed (s : State) (id j : Nat) : (s.closed id).session? j = if j = id then none else s.session? j := by
  rw [State.closed, Act.run_when]
  split <;> exact Upd.session?_dropSession id j s

theorem sessions_closed (s : State) (id : Nat) : (s.closed id).sessions = s.sessions.filter (fun x => x.id != id) := by
  rw [State.closed, Act.run_when]
  split <;> rfl

theorem mailboxes_closed (s : State) (id : Nat) : (s.closed id).mailboxes = s.mailboxes := by
  rw [State.closed, Act.run_when]
  split <;> rfl

theorem mb00_closed (s : State) (id : Nat) : (s.closed id).lift.mb00 = s.lift.mb00 := by
  rw [State.closed, Act.run_when]
  split <;> rfl

theorem mb00Ses_closed {s : State} {id : Nat} (h : s.lift.mb00Ses = some id) : (s.closed id).lift.mb00Ses = none := by
  rw [State.closed, h, Act.run_when, if_pos (beq_self_eq_true _)]
  rfl

section
variable {s : State} {id : Nat} {x : Session} (hx : s.session? id = some x) (hl : s.lonely id)
include hx hl

/-- Its key's only session passes nothing on; the requests of its transfers are answered. -/
theorem run_endSession_lonely : (endSession id).run s =
    (Act.each (x.xfers.filter (fun t => !t.drop)) (fun t => reply t.req stAborted t.next)).run (s.closed id) := by
  have hother : s.sessions.find? (fun y => y.host == x.host && y.id != id) = none := by
    rw [List.find?_eq_none]
    intro y hy hc
    simp only [Bool.and_eq_true, beq_iff_eq, bne_iff_ne] at hc
    exact hc.2 (hl x hx y hy hc.1)
  rw [endSession, Act.run_ask, hx]
  simp only [hother, Act.run_all_cons, Act.run_all_nil, Act.run_done]
  rfl

theorem endSession_lonely_idle (hxf : x.xfers = []) : (endSession id).run s = s.closed id := by
  rw [run_endSession_lonely hx hl, hxf]
  rfl

/-- No open session of its key is left to hear a reply. -/
theorem replySession_closed {r : Req} (hr : r.hostKey = x.host) : (s.closed id).replySession r = none := by
  have hgone : ∀ y ∈ (s.closed id).sessions, y.host ≠ r.hostKey := fun y hy he => by
    rw [sessions_closed] at hy
    obtain ⟨hy, hid⟩ := List.mem_filter.mp hy
    exact absurd (hl x hx y hy (he.trans hr)) (by simpa using hid)
  have hnone : (s.closed id).sessions.find? (fun y => y.host == r.hostKey) = none := by
    rw [List.find?_eq_none]
    exact fun y hy he => hgone y hy (by simpa using he)
  rw [State.replySession]
  split
  · next y hy => rw [if_neg (hgone y (List.mem_of_find?_eq_some hy)), hnone]
  · exact hnone

end

/-! ## Replies that wait for a session (R441) -/

/-- A mailbox that keeps replies of a request that no open session hears: `b` is among them, and it is DONE. -/
structure KeepsReply (s t : State) (r : Req) (b : Bytes) : Prop where
  unheard : t.replySession r = none
  kept    : (t.mailbox r.mb).expired = false
  done    : (t.mailbox r.mb).st = .done
  replies : ((s.mailbox r.mb).replies ++ [b]) <+: (t.mailbox r.mb).replies

theorem run_postReply_unheard {s : State} {r : Req} (h : s.replySession r = none) (he : (s.mailbox r.mb).expired = false) (b : Bytes) :
    (postReply r b).run s = (modMb r.mb (fun m => { m.less r with st := .done, replies := m.replies ++ [b] })).run s := by
  rw [postReply, Act.run_ask, h]
  simp only [he, Bool.false_eq_true, if_false]

/-- A reply that no open session hears is kept in its mailbox, and ABORT replies that waited follow it. -/
theorem answered_unheard {s : State} {r : Req} (h : s.replySession r = none) (he : (s.mailbox r.mb).expired = false) (hc : r.cmd ≠ abortCode)
    (st d : Nat) (data : List Nat) : Answered s ((reply r st d data).run s) r st d data := by
  have hstart : KeepsReply s ((postReply r (replyBytes r st d data)).run s) r (replyBytes r st d data) := by
    rw [run_postReply_unheard h he]
    refine ⟨h, ?_, ?_, ?_⟩
    · simpa [Mailbox.less] using he
    · simp
    · simp [Mailbox.less]
  have hnext : ∀ e : Bytes, ((modMb r.mb (fun b => { b with deferred := b.deferred.tail })).seq (postReply { r with cmd := abortCode } e)).Keeps
      (fun t => KeepsReply s t r (replyBytes r st d data)) := fun e t ht => by
    have hu : ((modMb r.mb (fun b => { b with deferred := b.deferred.tail })).run t).replySession { r with cmd := abortCode } = none := ht.unheard
    have hk : (((modMb r.mb (fun b => { b with deferred := b.deferred.tail })).run t).mailbox r.mb).expired = false := by
      simpa using ht.kept
    rw [Act.run_seq, run_postReply_unheard hu hk]
    refine ⟨ht.unheard, ?_, ?_, ?_⟩
    · simpa [Mailbox.less] using ht.kept
    · simp
    · simpa [Mailbox.less] using ht.replies.trans (List.prefix_append _ _)
  have hend : KeepsReply s ((reply r st d data).run s) r (replyBytes r st d data) := by
    rw [reply, if_neg hc, Act.run_seq, flushDeferred, Act.run_ask]
    split
    · exact Act.keeps_each (fun e _ => hnext e) _ hstart
    · exact hstart
  exact ⟨hend.done, hend.replies⟩

theorem settled_endSession (id : Nat) {s : State} (h : s.Settled) : ((endSession id).run s).Settled :=
  settled_of h (marks_endSession s id s (LiftMarks.refl s)) (keeps_endSession (behind_sendFree 0) id s h.held)

/-- What ends a session and leaves nothing due. -/
theorem exec_idleTimeout {s : State} (hq : s.Quiet) (id : Nat) : exec (.idleTimeout id) s = .next ((endSession id).run s) :=
  exec_carried (a := endSession id) rfl rfl (settled_endSession id hq.settled)

/-- A message unacknowledged for 2 s ends its session, and is counted (R432). -/
theorem exec_sessionFail {s : State} (hq : s.Quiet) {id q : Nat} {x : Session} (hx : s.session? id = some x) (hu : ∃ u ∈ x.unacked, u.seq = q) :
    exec (.sessionFail id q) s = .next ((endSession id).run ((bump (dk .LIFT_SESSION_FAIL)).run s)) := by
  have hany : x.unacked.any (fun u => u.seq == q) = true := by
    obtain ⟨u, hu, he⟩ := hu
    exact List.any_eq_true.mpr ⟨u, hu, by simp [he]⟩
  have hs : ((bump (dk .LIFT_SESSION_FAIL)).run s).Settled := settled_of hq.settled ⟨rfl, rfl, rfl⟩ hq.settled.held
  refine exec_carried rfl ?_ (settled_endSession id hs)
  rw [Act.run_ask, hx]
  simp only [hany, if_true, Act.run_seq]

/-- A CLOSE of the host's in its turn is acknowledged, and its session ends (R430). -/
theorem exec_close {s : State} {m : LiftMsg} {x : Session} (h : s.InTurn m x) :
    exec (.close false m) s = .next ((endSession m.session).run (s.delivered m 0)) :=
  exec_carried (a := actClose false m) rfl (sequenced_inTurn h _ 0 (.inl rfl) _) (settled_endSession _ (settled_delivered h 0 (.inl rfl)))

/-- Delivering a message leaves a key's only session its only one. -/
theorem lonely_delivered {s : State} {m : LiftMsg} {x : Session} (h : s.InTurn m x) (hl : (s.heard m).lonely m.session) :
    (s.delivered m 0).lonely m.session := by
  have hP : SendFree fun y : Session => y.host = x.host → y.id = m.session := fun y z hyz hy hz => by
    have hh : y.core.host = z.core.host := by rw [hyz]
    have hi : y.core.id = z.core.id := by rw [hyz]
    exact hi.symm.trans (hy (hh.trans hz))
  have hall : State.allSes (fun y : Session => y.host = x.host → y.id = m.session) (s.delivered m 0) := by
    rw [delivered_eq h 0 (.inl rfl)]
    refine keeps_sendPlain hP _ _ _ (all_modSession ?_ m.session (s.heard m) fun y hy hh => hl x h.open' y hy hh)
    exact fun _ hy => hy
  obtain ⟨x', hx', hcore⟩ := sessions_delivered 0 (delivered_eq h 0 (.inl rfl)) h.open'
  have hhost : x'.host = x.host := show x'.core.host = x.host by rw [hcore]; rfl
  intro z hz y hy hh
  rw [hx', Option.some.injEq] at hz
  exact hall y hy (hh.trans (by rw [← hz, hhost]))

theorem half?_dropHalf (s : State) (id j : Nat) : ((emit (.dropHalf id)).run s).half? j = if j = id then none else s.half? j := by
  simp only [run_emit, Upd.apply, State.half?, List.find?_filter]
  split
  · next h => subst h; rw [List.find?_eq_none]; intro y _ hy; simp at hy
  · next h =>
    congr 1
    funext y
    by_cases hy : y.id = j <;> simp [hy, h]

end Sys2Proof.Machine
end

section

open Sys2Proof Sys2Proof.Machine

/-- Settles O12 (R423, R432, R433). -/
theorem deviceSends : Obligations.DeviceSends := by
  unfold Obligations.DeviceSends
  refine ⟨fun s m x hq hx => ?_, fun s id q x u hx hu hup => ?_⟩
  · have hexec : exec (.close true m) s = .next ((sendSeq m.session tyClose 0xFF []).run s) :=
      exec_carried (a := sendSeq m.session tyClose 0xFF []) rfl rfl (settled_sendSeq _ _ _ _ hq.settled)
    by_cases hroom : unackedOther x < 256 ∧ x.waiting = []
    · obtain ⟨y, u, hy, hnext, hwaiting, hunacked, hseq, htype, hout⟩ := (transmit_sends hx tyClose 0xFF []).sent
      rw [sendSeq_sends hx hroom] at hexec
      refine ⟨_, y, hexec, hy, ?_⟩
      rw [if_pos hroom]
      exact ⟨hnext, hwaiting.trans hroom.2, u, hunacked, hseq, htype, hout⟩
    · obtain ⟨w, htype, hwaits⟩ := sendSeq_waits hx hroom tyClose 0xFF []
      rw [hwaits] at hexec
      refine ⟨_, _, hexec, (Upd.session?_setSession _ _ _).trans ((if_pos (State.id_of_session? hx).symm).trans (by rw [hx]; rfl)), ?_⟩
      rw [if_neg hroom]
      exact ⟨rfl, rfl, rfl, w, rfl, htype⟩
  · obtain ⟨⟨a, hout, hseq, hflags, htype, hbytes⟩, hcount⟩ := resend_sends hx hu hup
    exact ⟨_, a, rfl, hout, hseq, hflags, htype, hbytes, hcount⟩

/-- Settles O13 (R441). The mailboxes of the key are those that its time's end visits, each once (`mailbox_each_modMb`). -/
theorem retainExpires : Obligations.RetainExpires := by
  unfold Obligations.RetainExpires
  intro s key hnone
  let t := (Act.each (s.ofKey key) (fun i => modMb i Mailbox.expire)).run s
  have hmb : ∀ i, ((actRetainExpire key).run s).mailbox i = if i ∈ s.ofKey key then (s.mailbox i).expire else s.mailbox i := fun i => by
    rw [← mailbox_each_modMb (nodup_ofKey s key) s i, run_actRetainExpire hnone]
    simp only
    split <;> rfl
  have hlift : t.lift = s.lift := same_ofMailbox (fun _ _ _ => rfl) (only_each_modMb _ _) s
  refine ⟨_, rfl, fun i hi ho hb => ?_, fun i hi ho hb => ?_, fun i ho => ?_, fun hkey hses => ?_⟩
  · rw [hmb, if_pos (mem_ofKey.mpr ⟨hi, ho⟩), Mailbox.expire, if_pos hb]
  · rw [hmb, if_pos (mem_ofKey.mpr ⟨hi, ho⟩), Mailbox.expire, if_neg hb]
    exact ⟨rfl, rfl, ho⟩
  · rw [hmb, if_neg fun h => ho (mem_ofKey.mp h).2]
  · rw [run_actRetainExpire hnone]
    simp only [hkey, hses, and_self, if_true]
    rfl

/-- Settles O11 (R428, R430, R432, R441; log 149). A session that ends alone of its key passes nothing on (`run_endSession_lonely`), and
what answers its transfer's request finds no session to go to, and stays in the mailbox (`answered_unheard`). -/
theorem sessionsEnd : Obligations.SessionsEnd := by
  unfold Obligations.SessionsEnd
  refine ⟨fun s id hq => ⟨_, exec_idleTimeout hq id, closed_endSession id s, fun hl hxf => ?_, fun x z hl hx hxf hd hk hc he => ?_⟩,
    fun s id q x hq hx hu => ⟨_, exec_sessionFail hq hx hu, closed_endSession id _, ?_, fun hl hxf => ?_⟩,
    fun s m x h => ⟨_, exec_close h, closed_endSession _ _, fun hl hxf => ?_⟩,
    fun s id => ⟨_, rfl, (half?_dropHalf s id id).trans (if_pos rfl), fun j hj => (half?_dropHalf s id j).trans (if_neg hj), rfl⟩⟩
  · cases hx : s.session? id with
    | none =>
      have hrun : (endSession id).run s = s := by rw [endSession, Act.run_ask, hx]; rfl
      rw [hrun]
      exact ⟨fun _ _ => rfl, rfl, rfl, fun _ h => absurd h Bool.false_ne_true⟩
    | some x =>
      rw [endSession_lonely_idle hx hl (hxf x hx)]
      exact ⟨fun j hj => (session?_closed s id j).trans (if_neg hj), mailboxes_closed s id, mb00_closed s id, fun h _ => mb00Ses_closed h⟩
  · have hmb : ∀ i, (s.closed id).mailbox i = s.mailbox i := fun i => by rw [State.mailbox, mailboxes_closed, State.mailbox]
    have hrun : (endSession id).run s = (reply z.req stAborted z.next).run (s.closed id) := by
      rw [run_endSession_lonely hx hl, hxf, List.filter_cons_of_pos (by simp [hd]), List.filter_nil, Act.run_each_cons, Act.run_each_nil]
    obtain ⟨hdone, hreplies⟩ := answered_unheard (replySession_closed hx hl hk) ((congrArg Mailbox.expired (hmb _)).trans he) hc stAborted z.next []
    rw [hrun]
    exact ⟨hdone, by rwa [hmb] at hreplies⟩
  · exact ((lift_endSession id).liftSame _).rd (dk .LIFT_SESSION_FAIL) (by decide) |>.trans (rd_bump_self s _ 1)
  · have hx' : ((bump (dk .LIFT_SESSION_FAIL)).run s).session? id = some x := hx
    rw [endSession_lonely_idle hx' hl hxf]
    exact ⟨fun j hj => (session?_closed _ id j).trans (if_neg hj), mailboxes_closed _ id⟩
  · obtain ⟨x', hx', hcore⟩ := sessions_delivered 0 (delivered_eq h 0 (.inl rfl)) h.open'
    have hxf' : x'.xfers = [] := (show x'.core.xfers = x.xfers by rw [hcore]; rfl).trans hxf
    rw [endSession_lonely_idle hx' (lonely_delivered h hl) hxf', mailboxes_closed, delivered_eq h 0 (.inl rfl), ← Act.run_seq]
    exact mailboxes_send (Act.only_seq (send_modSession _ _) (send_sendPlain _ _)) _

end

section
/-! PROOFS. CONFIRM (R426): a half-open session opens, and what it is sent as it opens leaves it as it is. -/

namespace Sys2Proof.Machine

/-! ## What a session that opens is sent -/

/-- Sending and events leave half-open sessions, the number of sessions, the holder of MB00 and one session's core as they were, and take
nothing back. -/
structure Serves (id : Nat) (s t : State) : Prop where
  halves : t.halfOpen = s.halfOpen
  count  : t.sessions.length = s.sessions.length
  core   : (t.session? id).map Session.core = (s.session? id).map Session.core
  out    : s.out <+: t.out
  mb00   : t.lift.mb00 = s.lift.mb00
  holder : t.lift.mb00Ses = s.lift.mb00Ses

section
variable {i : Nat} {r s t : State}

theorem Serves.refl (s : State) : Serves i s s := ⟨rfl, rfl, rfl, List.prefix_refl _, rfl, rfl⟩

theorem Serves.trans (h : Serves i r s) (k : Serves i s t) : Serves i r t :=
  ⟨k.halves.trans h.halves, k.count.trans h.count, k.core.trans h.core, h.out.trans k.out, k.mb00.trans h.mb00, k.holder.trans h.holder⟩

theorem serves_of {a : Act} (h : ∀ s, Serves i s (a.run s)) : a.Keeps (Serves i r) := fun s hs => hs.trans (h s)

/-- What sending sends and counts. -/
theorem serves_send {a : Act} (ha : a.Only Upd.ofSend) (hcore : ∀ s, ((a.run s).session? i).map Session.core = (s.session? i).map Session.core) :
    a.Keeps (Serves i r) := serves_of fun s => by
  have hlift := (ha.sendSame s).2
  have hrest : (a.run s).halfOpen = s.halfOpen ∧ (a.run s).sessions.length = s.sessions.length ∧ s.out <+: (a.run s).out := by
    refine ha.keeps (I := fun t => t.halfOpen = s.halfOpen ∧ t.sessions.length = s.sessions.length ∧ s.out <+: t.out) (fun u t hu ht => ?_)
      ⟨rfl, rfl, List.prefix_refl _⟩
    obtain ⟨hh, hc, ho⟩ := ht
    cases u with
    | reg k v => exact ⟨hh, hc, ho⟩
    | setSession v => exact ⟨hh, (List.length_map _).trans hc, ho⟩
    | out o => exact ⟨hh, hc, ho.trans (List.prefix_append _ _)⟩
    | _ => exact absurd hu id
  obtain ⟨hh, hc, ho⟩ := hrest
  exact ⟨hh, hc, hcore s, ho, by rw [hlift], by rw [hlift]⟩

theorem serves_sendSeq (j ty mb : Nat) (b : Bytes) : (sendSeq j ty mb b).Keeps (Serves i r) :=
  serves_send (send_sendSeq j ty mb b) fun s => core_sendSeq j ty mb b s i

theorem serves_sendPlain (j ty : Nat) : (sendPlain j ty).Keeps (Serves i r) :=
  serves_send (send_sendPlain j ty) fun s => core_sendPlain j ty s i

theorem serves_modMb (j : Nat) (f : Mailbox → Mailbox) : (modMb j f).Keeps (Serves i r) :=
  serves_of fun _ => ⟨rfl, rfl, rfl, List.prefix_refl _, rfl, rfl⟩

theorem serves_modLift {f : LiftSt → LiftSt} (hf : ∀ l, (f l).mb00 = l.mb00 ∧ (f l).mb00Ses = l.mb00Ses) : (modLift f).Keeps (Serves i r) :=
  serves_of fun s => ⟨rfl, rfl, rfl, List.prefix_refl _, (hf s.lift).1, (hf s.lift).2⟩

theorem serves_sendEvent : sendEvent.Keeps (Serves i r) := Act.keeps_asked fun _ => by
  split
  · exact serves_sendSeq _ _ _ _
  · exact Act.keeps_done _

theorem serves_nextEvent : nextEvent.Keeps (Serves i r) := Act.keeps_asked fun _ => by
  have hpush : ∀ e, (emit (.pushEvent e)).Keeps (Serves i r) := fun e => serves_of fun t => by
    simp only [run_emit, Upd.apply]
    split <;> exact ⟨rfl, rfl, rfl, List.prefix_refl _, rfl, rfl⟩
  split
  · refine Act.keeps_list ⟨serves_of fun t => ⟨rfl, rfl, rfl, List.prefix_refl _, rfl, rfl⟩, serves_modLift fun _ => ⟨rfl, rfl⟩, serves_sendEvent,
      Act.keeps_ite (Act.keeps_done _) fun t ht => ?_⟩
    have hdraw : Serves i t ((Upd.draw 1).apply t) := ⟨rfl, rfl, rfl, List.prefix_refl _, rfl, rfl⟩
    rw [run_withFree, Act.run_ask, Act.run_seq]
    refine serves_modLift ?_ _ (hpush _ _ (ht.trans hdraw))
    exact fun _ => ⟨rfl, rfl⟩
  · exact Act.keeps_done _

end

/-- An unsequenced message leaves for the session's sender. -/
theorem sendPlain_sends {s : State} {id : Nat} {x : Session} (hx : s.session? id = some x) (hup : s.hostUp = true) (ty : Nat) :
    ∃ a, ((sendPlain id ty).run s).out = s.out ++ [.lift x.src a] ∧ a.type = ty ∧ a.session = x.id := by
  obtain ⟨n, hx'⟩ := session?_grant_self hx
  obtain ⟨hout, hregs⟩ := grant_same id s
  rw [sendPlain, Act.run_seq, Act.run_ask, hx']
  generalize (grant id).run s = v at hx' hout hregs
  simp only [run_sendFrame ((hostUp_of_regs hregs).trans hup)]
  refine ⟨_, congrArg (· ++ _) hout, ?_⟩
  rw [State.tagged]
  split <;> exact ⟨rfl, rfl⟩

/-! ## A session opens (R426, R441, R444) -/

/-- The session that a CONFIRM opens. -/
def State.confirmed (s : State) (h : HalfOpen) (m : LiftMsg) : Session :=
  { id := h.id, src := m.src, host := h.host, kIn := h.kIn, kOut := h.kOut, mtu := h.mtu, boot := h.boot
    idleS := s.rd (dk .LIFT_CTL_IDLE_S), retainS := s.rd (dk .LIFT_CTL_RETAIN_S)
    port := s.rd (dk .LIFT_CTL_UDP_PORT), v6 := m.v6, ip4 := s.lift.ip4, ip6 := s.lift.ip6, ipMtu := s.lift.mtu }

/-- The state with the session open and nothing sent in it yet. -/
def State.withOpen (s : State) (h : HalfOpen) (m : LiftMsg) : State :=
  (Act.each (s.ofKey h.host) (fun i => modMb i (fun b => { b with expired := false }))).run
    ((emit (.openSession (s.confirmed h m))).run ((emit (.dropHalf h.id)).run s))

section
variable {s : State} {h : HalfOpen} {m : LiftMsg} (hroom : s.sessions.length < 4) (hnew : s.session? h.id = none)
include hroom

theorem sessions_withOpen : (s.withOpen h m).sessions = s.sessions ++ [s.confirmed h m] := by
  rw [State.withOpen, same_ofMailbox (read := State.sessions) (fun _ _ _ => rfl) (only_each_modMb _ _)]
  exact congrArg State.sessions (if_pos hroom)

theorem halfOpen_withOpen : (s.withOpen h m).halfOpen = s.halfOpen.filter (fun y => y.id != h.id) := by
  rw [State.withOpen, same_ofMailbox (read := State.halfOpen) (fun _ _ _ => rfl) (only_each_modMb _ _)]
  exact congrArg State.halfOpen (if_pos hroom)

omit hroom in
theorem regs_withOpen : (s.withOpen h m).regs = s.regs := by
  rw [State.withOpen, same_ofMailbox (read := State.regs) (fun _ _ _ => rfl) (only_each_modMb _ _)]
  simp only [run_emit, Upd.apply]
  split <;> rfl

include hnew in
theorem session?_withOpen : (s.withOpen h m).session? h.id = some (s.confirmed h m) := by
  have hnone : s.sessions.find? (fun x => x.id == h.id) = none := hnew
  rw [State.session?, sessions_withOpen hroom, List.find?_append, hnone, Option.none_or]
  exact List.find?_cons_of_pos (beq_self_eq_true _)

end

/-- The half-open session's place is taken by an open one, which is acknowledged; then kept replies and events follow. -/
structure Opens (s t : State) (h : HalfOpen) (m : LiftMsg) : Prop where
  halves : t.halfOpen = (s.withOpen h m).halfOpen
  count  : t.sessions.length = (s.withOpen h m).sessions.length
  core   : (t.session? h.id).map Session.core = some (s.confirmed h m).core
  acked  : ∃ a, ((s.withOpen h m).out ++ [Out.lift m.src a]) <+: t.out ∧ a.type = tyAckOnly ∧ a.session = h.id
  events : s.takesMb00 h.events h.host = true → t.lift.mb00 = some h.host ∧ t.lift.mb00Ses = some h.id

theorem openFrom_opens {s : State} (h : HalfOpen) (m : LiftMsg) (hup : s.hostUp = true) (hroom : s.sessions.length < 4)
    (hnew : s.session? h.id = none) : Opens s ((openFrom h m).run s) h m := by
  have hx := session?_withOpen (m := m) hroom hnew
  obtain ⟨a, hout, htype, hid⟩ := sendPlain_sends hx ((hostUp_of_regs (regs_withOpen)).trans hup) tyAckOnly
  have hout : ((sendPlain h.id tyAckOnly).run (s.withOpen h m)).out = (s.withOpen h m).out ++ [Out.lift m.src a] := hout
  let replies : Act := Act.each ((s.ofKey h.host).filter (fun i => !s.replyOnWay h.host i)) (fun i =>
    Act.each (s.mailbox i).replies (fun p => sendSeq h.id tyReply i p))
  let takes : Act := Act.all [modLift (fun l => { l with mb00 := some h.host, mb00Ses := some h.id }), sendEvent, nextEvent]
  have hrun : (openFrom h m).run s =
      (Act.when (s.takesMb00 h.events h.host) takes).run (replies.run ((sendPlain h.id tyAckOnly).run (s.withOpen h m))) := by
    rw [openFrom, Act.run_ask]
    simp only [Act.run_all_cons, Act.run_all_nil]
    rfl
  have hreplies : ∀ u, Serves h.id u (replies.run u) := fun u =>
    Act.keeps_each (fun _ _ => Act.keeps_each fun _ _ => serves_sendSeq _ _ _ _) u (.refl u)
  have hplain : Serves h.id (s.withOpen h m) ((sendPlain h.id tyAckOnly).run (s.withOpen h m)) := serves_sendPlain _ _ _ (.refl _)
  have hsent := hreplies ((sendPlain h.id tyAckOnly).run (s.withOpen h m))
  rw [hrun, Act.run_when]
  generalize (sendPlain h.id tyAckOnly).run (s.withOpen h m) = u at hout hplain hsent
  generalize replies.run u = v at hsent
  have hall := hplain.trans hsent
  have hcore : (v.session? h.id).map Session.core = some (s.confirmed h m).core := by rw [hall.core, hx, Option.map_some]
  by_cases htake : s.takesMb00 h.events h.host = true
  · rw [if_pos htake]
    have hafter : Serves h.id ((modLift (fun l => { l with mb00 := some h.host, mb00Ses := some h.id })).run v) (takes.run v) := by
      simp only [takes, Act.run_all_cons, Act.run_all_nil]
      exact serves_nextEvent _ (serves_sendEvent _ (.refl _))
    refine ⟨hafter.halves.trans hall.halves, hafter.count.trans hall.count, hafter.core.trans hcore,
      ⟨a, ?_, htype, hid⟩, fun _ => ⟨hafter.mb00, hafter.holder⟩⟩
    rw [← hout]
    exact hsent.out.trans hafter.out
  · rw [if_neg htake]
    refine ⟨hall.halves, hall.count, hcore, ⟨a, ?_, htype, hid⟩, fun h => absurd h htake⟩
    rw [← hout]
    exact hsent.out

/-- A CONFIRM that passes every check opens its session. -/
theorem run_actConfirm {s : State} {m : LiftMsg} {h : HalfOpen} (hreach : s.Reaches m) (hh : s.half? m.session = some h)
    (hroom : s.sessions.length < 4) (hok : headerOk m = true) (htype : m.type = tyConfirm) (hseq : m.seq = 0) (htag : m.tag = msgTag h.kIn m)
    (hsig : edVerify (ofBytes h.host) (sha512 (ofBytes h.hello ++ ofBytes h.accept)) (ofBytes m.payload) = true) :
    (actConfirm m).run s = (openFrom h m).run s.arrived := by
  have hh' : s.arrived.half? m.session = some h := hh
  have hroom' : ¬ 4 ≤ s.arrived.sessions.length := Nat.not_le.mpr hroom
  rw [actConfirm, onFrame_reaches hreach, ← State.arrived, Act.run_ask, hh']
  simp only [hok, htype, hseq, ← htag, hsig, bne_self_eq_false, Bool.not_true, Bool.or_self, Bool.false_eq_true, if_false, if_neg hroom']

end Sys2Proof.Machine
end

section

open Sys2Proof Sys2Proof.Machine

/-- Settles O9 (R426). The CONFIRM passes every check (`run_actConfirm`), and what its session is then sent leaves its core as it opened
(`openFrom_opens`). -/
theorem confirmOpens : Obligations.ConfirmOpens := by
  unfold Obligations.ConfirmOpens
  intro s m h hreach hh hnone hroom hok htype hseq htag hsig
  have hid : h.id = m.session := by simpa using List.find?_some hh
  have hnew : s.arrived.session? h.id = none := by rw [hid]; exact hnone
  obtain ⟨hhalves, hcount, hcore, ⟨a, hout, hack, hses⟩, hevents⟩ := openFrom_opens (s := s.arrived) h m ((hostUp_arrived s).trans hreach.up) hroom hnew
  have hexec : exec (.confirm m) s = .next ((openFrom h m).run s.arrived) :=
    congrArg Host.Outcome.next (run_actConfirm hreach hh hroom hok htype hseq htag hsig)
  generalize (openFrom h m).run s.arrived = t at hhalves hcount hcore hout hevents hexec
  rw [Option.map_eq_some_iff] at hcore
  obtain ⟨x, hx, hxc⟩ := hcore
  have hof : ∀ {β : Type} (f : Session → β), (∀ y, f y = f y.core) → f x = f (s.arrived.confirmed h m) := fun f hf => by
    rw [hf, hxc, ← hf]
  have hhalf : t.half? m.session = none := by
    have hdropped := half?_dropHalf s.arrived h.id m.session
    rw [if_pos hid.symm] at hdropped
    rw [State.half?, hhalves, halfOpen_withOpen (s := s.arrived) hroom]
    exact hdropped
  refine ⟨t, x, a, hexec, hhalf, hid ▸ hx, ?_, hof Session.host fun _ => rfl, hof Session.kIn fun _ => rfl, hof Session.kOut fun _ => rfl,
    hof Session.mtu fun _ => rfl, hof Session.boot fun _ => rfl, hof Session.src fun _ => rfl, hof Session.dlv fun _ => rfl,
    hout.subset (List.mem_append_right _ List.mem_cons_self), hack, hses.trans hid, fun he hfree => ?_⟩
  · rw [hcount, sessions_withOpen (s := s.arrived) hroom, List.length_append]
    rfl
  · have htakes : s.arrived.takesMb00 h.events h.host = true := by
      rw [State.takesMb00, he, Bool.true_or, Bool.true_and]
      exact hfree
    rw [← hid]
    exact hevents htakes

end

section
/-! PROOFS. What a request leaves to be taken up (R431, R442), and the answer that a command gives after work beside Lift. -/

namespace Sys2Proof.Machine

/-! ## A request of a quiet state leaves nothing to be taken up -/

theorem authed_forged_or_genuine (s : State) (m : LiftMsg) (k : Nat → Act) :
    (authed m k).run s = s.heard m ∨ ∃ y, s.Genuine m y := by
  rw [State.heard, authed, authed, onFrame, onFrame, Act.run_ask, Act.run_ask]
  by_cases hup : s.hostUp = true
  case neg => exact .inl (by simp [hup])
  have hup' : (!s.hostUp) = false := by simp [hup]
  simp only [hup', Bool.false_eq_true, if_false, Act.run_seq]
  by_cases hvlan : s.vlanOk m.vid = true
  case neg => exact .inl (by simp [hvlan])
  by_cases hsize : s.mtuFor m < datagramBytes m
  case pos => exact .inl (by simp [hsize])
  by_cases hport : (m.frag || !m.udp || !s.udpOk m) = true
  case pos => exact .inl (by simp [hsize, hport])
  obtain ⟨⟨hfrag, hudp⟩, hok⟩ : (m.frag = false ∧ m.udp = true) ∧ s.udpOk m = true := by simpa using hport
  have hreach : s.Reaches m :=
    ⟨hup, by simpa [State.vlanOk] using hvlan, Nat.not_lt.mp hsize, hfrag, hudp, hok⟩
  rw [if_neg (by simp [hvlan]), if_neg hsize, if_neg hport, if_neg (by simp [hvlan]), if_neg hsize, if_neg hport]
  have hses : ((bump (dk .HP_RX_FRAMES)).run s).session? m.session = s.session? m.session := rfl
  simp only [heardIn, Act.run_ask, hses]
  cases hx : s.session? m.session with
  | none => exact .inl rfl
  | some x =>
    by_cases hgood : (headerOk m && m.tag == msgTag x.kIn m) = true
    case neg => exact .inl (by simp only [if_neg hgood])
    obtain ⟨hhead, htag⟩ := Bool.and_eq_true_iff.mp hgood
    exact .inr ⟨x, hreach, hx, hhead, beq_iff_eq.mp htag⟩

theorem nextExpected_of_behind {x : Session} (h : x.behind 0) : nextExpected x = x.dlv := by
  have hnone : ¬ x.held.any (fun e => e.seq == x.dlv) = true := by
    rw [List.any_eq_true]
    rintro ⟨e, he, heq⟩
    exact (h e he).ne' (beq_iff_eq.mp heq)
  rw [nextExpected, ackFrom, if_neg hnone]

theorem settled_mbRefuse (i : Nat) (m : LiftMsg) (n : Nat) : (mbRefuse i m n).Keeps State.Settled :=
  Act.keeps_seq (fun _ hs => settled_bump hs _ 1) fun _ hs => settled_sendSeq _ _ _ _ hs

section
variable {s : State} (hq : s.Quiet) (m : LiftMsg) (row : Instr)
include hq

/-- What a request does that its mailbox may or may not take. -/
theorem settled_requestAny {k : Req → Act} (hk : ∀ r, (k r).Keeps State.Settled) : ((requestAny m row k).run s).Settled := by
  have hheard := settled_heard hq m
  rw [requestAny, Act.run_ask, hq.again, sequenced, Act.run_ask, hq.due, if_neg Bool.false_ne_true]
  obtain hrun | ⟨y, hy⟩ := authed_forged_or_genuine s m _
  case inl => exact hrun ▸ hheard
  rw [authed_genuine hy, Act.run_ask]
  cases hx : (s.heard m).session? m.session with
  | none => exact hheard
  | some x =>
    have hbeh : x.behind 1 := behind_session (heard_behind m hq.held) hx
    have hnext : nextExpected x = x.dlv := nextExpected_of_behind fun e he => (Nat.lt_succ_self _).trans (hbeh e he)
    have hplain : ∀ {a : Act}, a.Keeps State.Settled → (a.seq (sendPlain m.session tyAckOnly)).Keeps State.Settled := fun ha =>
      Act.keeps_seq ha fun t ht =>
        settled_of ht (marks_send (send_sendPlain _ _) t t (.refl t)) (keeps_sendPlain (behind_sendFree 0) _ _ t ht.held)
    dsimp only
    split
    · exact hplain (fun _ hs => settled_bump hs _ 1) _ hheard
    case isFalse hnew =>
    split
    · exact hheard
    case isFalse hfar =>
    rw [if_neg fun h => absurd h.1 (Nat.lt_irrefl 0)]
    split
    case isTrue hturn =>
      have hin : s.InTurn m x := ⟨⟨y, hy⟩, hx, hturn, hq⟩
      have hdel := settled_delivered hin 0 (.inl rfl)
      rw [delivered_eq hin 0 (.inl rfl)] at hdel
      simp only [Act.run_all_cons, Act.run_all_nil]
      refine Act.keeps_asked (fun u => ?_) _ hdel
      split
      · exact Act.keeps_done _
      · exact Act.keeps_ite (settled_mbRefuse _ _ _) (Act.keeps_ite (settled_mbRefuse _ _ _) (Act.keeps_ite (settled_mbRefuse _ _ _)
          (Act.keeps_ite (settled_mbRefuse _ _ _) (Act.keeps_seq (fun t ht => ⟨ht.due, ht.again, ht.parked, ht.held⟩) (hk _)))))
    case isFalse hturn =>
      rw [not_or, List.any_eq_true] at hnew
      obtain ⟨hge, hfresh⟩ := hnew
      have hcome : s.ComesEarly m x := ⟨⟨y, hy⟩, hx, by omega, by omega,
        fun e he heq => hfresh ⟨e, he, beq_iff_eq.mpr heq⟩, hq⟩
      have := settled_request_early hcome row none fun _ => .done
      rw [request_early hcome] at this
      rwa [Act.run_seq]

theorem settled_request_quiet (n : Option Nat) {k : Req → Act} (hk : ∀ r, (k r).Keeps State.Settled) : ((request m row n k).run s).Settled :=
  settled_requestAny hq m row fun r => Act.keeps_ite (fun _ => settled_reply _ _ _ _) <| Act.keeps_ite (fun _ => settled_reply _ _ _ _) <|
    Act.keeps_ite (fun _ => settled_reply _ _ _ _) <| by
      split
      · exact fun _ => settled_reply _ _ _ _
      · exact hk r

end

theorem lift_request (m : LiftMsg) (row : Instr) (n : Option Nat) {k : Req → Act} (hk : ∀ r, (k r).Only Upd.ofLift) :
    (request m row n k).Only Upd.ofLift :=
  lift_requestAny m row fun r => Act.only_ite (lift_reply _ _ _ _) <| Act.only_ite (lift_reply _ _ _ _) <| Act.only_ite (lift_reply _ _ _ _) <| by
    split
    · exact lift_reply _ _ _ _
    · exact hk r

/-- An action of Lift's that lets nothing go on. -/
theorem liftSame_settled {a : Act} {s : State} (ha : a.Only Upd.ofLift) (hs : (a.run s).Settled) : LiftSame s ((settled a).run s) := by
  rw [run_settled hs]
  exact ha.liftSame s

/-! ## Answers after work beside Lift -/

/-- Changes that leave sessions, mailboxes and Lift's own state alone. -/
def Upd.Unsent (u : Upd) : Prop := u.OffLift ∧ ∀ i v, u ≠ .mailbox i v

/-- A command's work beside Lift leaves what its reply needs as it was. -/
structure ReplyReady (s t : State) : Prop where
  core    : ∀ i, (t.session? i).map Session.core = (s.session? i).map Session.core
  mailbox : ∀ i, t.mailbox i = s.mailbox i
  settled : s.Settled → t.Settled

section
variable {r s t : State}

theorem ReplyReady.refl (s : State) : ReplyReady s s := ⟨fun _ => rfl, fun _ => rfl, id⟩
theorem ReplyReady.trans (h : ReplyReady r s) (k : ReplyReady s t) : ReplyReady r t :=
  ⟨fun i => (k.core i).trans (h.core i), fun i => (k.mailbox i).trans (h.mailbox i), fun hr => k.settled (h.settled hr)⟩

theorem SessionsSame.replyReady (h : SessionsSame s t) (hmb : t.mailboxes = s.mailboxes) : ReplyReady s t :=
  ⟨fun i => by rw [h.session?], fun i => by rw [State.mailbox, hmb, State.mailbox], h.settled⟩

theorem mailboxes_unsent {a : Act} (h : a.Only Upd.Unsent) (s : State) : (a.run s).mailboxes = s.mailboxes := by
  refine h.same (read := State.mailboxes) (fun u t hu => ?_) s
  obtain ⟨hoff, hmb⟩ := hu
  cases u with
  | mailbox i v => exact absurd rfl (hmb i v)
  | openSession _ | setSession _ | dropSession _ | lift _ | restart _ => exact absurd hoff id
  | dram _ _ | sram _ _ | openHalf _ | pushEvent _ => simp only [Upd.apply]; split <;> rfl
  | _ => rfl

theorem Act.Only.replyReady {a : Act} (h : a.Only Upd.Unsent) (s : State) : ReplyReady s (a.run s) :=
  ((h.mono fun _ hu => hu.1).sessionsSame s).replyReady (mailboxes_unsent h s)

theorem replyReady_modLift {f : LiftSt → LiftSt} (hf : ∀ l, (f l).due = l.due ∧ (f l).again = l.again ∧ (f l).parked = l.parked) (s : State) :
    ReplyReady s ((modLift f).run s) := by
  obtain ⟨hdue, hagain, hparked⟩ := hf s.lift
  exact ⟨fun _ => rfl, fun _ => rfl, fun hs => ⟨hdue.trans hs.due, hagain.trans hs.again, hparked.trans hs.parked, hs.held⟩⟩

end

/-- A reply's outcome: the state that handing it over leaves, in which it stands at its mailbox. -/
def AnsweredFrom (s u t : State) (r : Req) (status detail : Nat) (data : List Nat) : Prop :=
  t = (reply r status detail data).run u ∧ Answered s t r status detail data

/-- A command that works beside Lift and then replies. -/
theorem command_answers {s u : State} {m : LiftMsg} {x : Session} (h : s.Taken m x) (hl : s.lone m) {a : Act} {st d : Nat} {data : List Nat}
    (hu : ReplyReady (s.started m) u) (hrun : a.run s = (reply (reqOf m x) st d data).run u) :
    AnsweredFrom (s.started m) u ((settled a).run s) (reqOf m x) st d data := by
  have hset : (a.run s).Settled := hrun ▸ settled_reply _ _ _ _ (hu.settled (settled_started h))
  have hopen : u.ownOpen (reqOf m x) := ownOpen_of_core (hu.core _) (ownOpen_started h)
  have hans := answered_reply (reqOf m x) st d data u hopen fun hc => by
    rw [hu.mailbox]
    exact lone_started h hl hc
  rw [run_settled hset, hrun]
  refine ⟨rfl, ?_⟩
  rw [Answered, hu.mailbox] at hans
  exact hans

/-- A request that its command answers at once. -/
theorem request_replies {s : State} {m : LiftMsg} {x : Session} (h : s.Accepted m x) (row : Instr) (n : Option Nat)
    (hn : ∀ k, n = some k → reqParamLen m = k) {k : Req → Act} {u : State} {st d : Nat} {data : List Nat} (hu : ReplyReady (s.started m) u)
    (hk : (k (reqOf m x)).run (s.started m) = (reply (reqOf m x) st d data).run u) :
    AnsweredFrom (s.started m) u ((settled (request m row n k)).run s) (reqOf m x) st d data :=
  command_answers h.toTaken h.lone hu ((request_heeded h.toHeeded row n hn k).trans hk)

end Sys2Proof.Machine
end

section
/-! PROOFS. Commands that report, commands that set the device's place, and requests that are refused (R439, R455, R457-R460, R464-R466). -/

namespace Sys2Proof.Machine

/-! ## Requests that are refused -/

theorem jobState_started (s : State) (m : LiftMsg) : (s.started m).jobState = s.jobState := (liftSame_started s m).rd _ (by decide)

theorem run_inStates (r : Req) (ok : List Nat) (k : Act) (s : State) :
    (inStates r ok k).run s = if ok.contains s.jobState = true then k.run s else (reply r stWrongState s.jobState).run s := by
  rw [inStates, Act.run_ask, Act.run_ite]

theorem run_onJob (r : Req) (ok : List Nat) (k : Act) (s : State) :
    (onJob r ok k).run s = if s.jobState = jsAborting then (reply r stAborting).run s else (inStates r ok k).run s := by
  rw [onJob, Act.run_ask, Act.run_ite]

section
variable {s : State} {m : LiftMsg} {x : Session} {row : Instr}

/-- A command that answers at once and does nothing else. -/
theorem command_refuses (h : s.Taken m x) (hl : s.lone m) {a : Act} {st d : Nat} {data : List Nat}
    (hrun : a.run s = (reply (reqOf m x) st d data).run (s.started m)) :
    LiftSame s ((settled a).run s) ∧ Answered (s.started m) ((settled a).run s) (reqOf m x) st d data := by
  obtain ⟨hstate, hans⟩ := command_answers h hl (.refl _) hrun
  exact ⟨hstate ▸ (liftSame_started s m).trans (liftSame_reply _ _ _ _ _), hans⟩

theorem request_refuses (h : s.Accepted m x) (n : Option Nat) (hn : ∀ k, n = some k → reqParamLen m = k) {k : Req → Act} {st d : Nat}
    {data : List Nat} (hk : (k (reqOf m x)).run (s.started m) = (reply (reqOf m x) st d data).run (s.started m)) :
    LiftSame s ((settled (request m row n k)).run s) ∧
      Answered (s.started m) ((settled (request m row n k)).run s) (reqOf m x) st d data :=
  command_refuses h.toTaken h.lone ((request_heeded h.toHeeded row n hn k).trans hk)

theorem request_wrongState (h : s.Accepted m x) (n : Option Nat) (hn : ∀ k, n = some k → reqParamLen m = k) {ok : List Nat} (hno : s.jobState ∉ ok)
    (k : Req → Act) : LiftSame s ((settled (request m row n fun r => inStates r ok (k r))).run s) ∧
      Answered (s.started m) ((settled (request m row n fun r => inStates r ok (k r))).run s) (reqOf m x) stWrongState s.jobState [] :=
  request_refuses h n hn <| by
    rw [run_inStates, jobState_started, if_neg (by simpa using hno)]

theorem request_offJob (h : s.Accepted m x) (n : Option Nat) (hn : ∀ k, n = some k → reqParamLen m = k) {ok : List Nat} (hno : s.jobState ∉ ok)
    (hab : s.jobState ≠ jsAborting) (k : Req → Act) : LiftSame s ((settled (request m row n fun r => onJob r ok (k r))).run s) ∧
      Answered (s.started m) ((settled (request m row n fun r => onJob r ok (k r))).run s) (reqOf m x) stWrongState s.jobState [] :=
  request_refuses h n hn <| by
    rw [run_onJob, run_inStates, jobState_started, if_neg hab, if_neg (by simpa using hno)]

theorem request_aborting (h : s.Accepted m x) (n : Option Nat) (hn : ∀ k, n = some k → reqParamLen m = k) {ok : List Nat}
    (hab : s.jobState = jsAborting) (k : Req → Act) : LiftSame s ((settled (request m row n fun r => onJob r ok (k r))).run s) ∧
      Answered (s.started m) ((settled (request m row n fun r => onJob r ok (k r))).run s) (reqOf m x) stAborting 0 [] :=
  request_refuses h n hn <| by
    rw [run_onJob, jobState_started, if_pos hab]

theorem request_wrongLength (h : s.Taken m x) {n : Nat} (hn : reqParamLen m ≠ n) (k : Req → Act) :
    (request m row (some n) k).run s = (reply (reqOf m x) stBadLength n).run (s.started m) := by
  rw [request, requestAny_accepted h, if_neg (by simpa using h.length), if_pos (by simpa using hn)]
  rfl

end

/-! ## What reports read -/

/-- What a state tells beside the counters of receiving and answering, and beside clocks and free values. -/
structure TellsSame (s t : State) : Prop where
  rd   : ∀ k : FKey, k.f ∉ liftFlds → t.rd k = s.rd k
  pile : ∀ p, t.pile p = s.pile p
  port : ∀ p k, t.port p k = s.port p k
  dram : t.dram = s.dram
  job  : t.job = s.job

theorem LiftSame.tells {s t : State} (h : LiftSame s t) : TellsSame s t := ⟨h.rd, h.pile, h.port, h.dram, h.job⟩

section
variable {s t : State} (h : TellsSame s t)
include h

theorem TellsSame.step : t.step = s.step := h.rd _ (by decide)

theorem TellsSame.jobLoaded : t.jobLoaded = s.jobLoaded := by
  rw [State.jobLoaded, State.jobState, h.rd _ (by decide), State.jobLoaded, State.jobState]

theorem TellsSame.usesPile (p : Nat) : t.usesPile p = s.usesPile p := by rw [State.usesPile, h.job, State.usesPile]

theorem TellsSame.tracker (p i : Nat) : t.tracker p i = s.tracker p i := by
  have hword : ∀ a, t.dramWord a = s.dramWord a := fun a => by rw [State.dramWord, h.dram, State.dramWord]
  simp only [State.tracker, h.job, hword]

theorem TellsSame.liveDigest (p q d : Nat) : t.liveDigest p q d = s.liveDigest p q d := by
  simp only [State.liveDigest, h.pile, h.rd (pk .GATE_STATUS_PHASE p) (show Fld.GATE_STATUS_PHASE ∉ liftFlds by decide), h.rd (pk .DIG_CUR p q d) (show Fld.DIG_CUR ∉ liftFlds by decide)]

theorem TellsSame.digestSet (p n : Nat) : t.digestSet p n = s.digestSet p n := by
  have hrd : ∀ (f : Fld) (i j : Nat), f ∉ liftFlds → t.rd (pk f p i j) = s.rd (pk f p i j) := fun f i j hf => h.rd _ hf
  simp only [State.digestSet, h.liveDigest, h.step, hrd .DIG_HIST _ _ (by decide), hrd .DIG_DISC _ _ (by decide), hrd .DIG_HIST_STEP_STEP _ _ (by decide),
    hrd .DIG_DISC_STEP _ _ (by decide)]

theorem TellsSame.recordsOf (kind set p : Nat) : t.recordsOf kind set p = s.recordsOf kind set p := by
  have hkeys : ∀ m, t.healthKeys m = s.healthKeys m := fun m => by simp only [State.healthKeys, h.job]
  have hlayers : ∀ m, t.dispatchKeys p m = s.dispatchKeys p m := fun m => by simp only [State.dispatchKeys, h.job]
  have hdigest : t.digestSet p = s.digestSet p := funext (h.digestSet p)
  simp only [State.recordsOf, h.pile, h.job, h.step, h.usesPile, h.tracker, hkeys, hlayers, hdigest]

/-- A register's value, of fields that show no other unit's state. -/
theorem TellsSame.named {n : String} {r : RegSpec} (hn : regNamed n = some r) (hf : ∀ f ∈ r.fields, f ∉ liftFlds)
    (hown : ∀ f ∈ r.fields, ∀ (u : State) (p t i j : Nat), u.shown ⟨f, p, t, i, j⟩ = none) (p : Nat) : t.named n p 0 0 0 = s.named n p 0 0 0 := by
  simp only [State.named, hn, State.regValue]
  refine List.foldl_ext _ _ _ fun a f hmem => ?_
  rw [State.view, hown f hmem, State.view, hown f hmem]
  dsimp only
  rw [h.rd _ (hf f hmem)]

theorem TellsSame.pileHealth (p die : Nat) : t.pileHealth p die = s.pileHealth p die := by
  have hgate : t.named "GATE_STATUS" p 0 0 0 = s.named "GATE_STATUS" p 0 0 0 :=
    h.named (r := ⟨"GATE_STATUS", .pile, [], 32, [.GATE_STATUS_STATE, .GATE_STATUS_HEAD_PHASE, .GATE_STATUS_FINISH_PHASE, .GATE_STATUS_ATTEMPT,
      .GATE_STATUS_PHASE]⟩) rfl (by decide) (by simp [State.shown]) p
  have hrd : ∀ (f : Fld) (i j : Nat), f ∉ liftFlds → t.rd (pk f p i j) = s.rd (pk f p i j) := fun f i j hf => h.rd _ hf
  have hage : ∀ d, t.rd (dk .AGE_EOL_MONTHS d) = s.rd (dk .AGE_EOL_MONTHS d) := fun d => h.rd _ (show Fld.AGE_EOL_MONTHS ∉ liftFlds by decide)
  have hphys : t.physOf p = s.physOf p := funext fun j => by simp only [State.physOf, hrd .FLT_STATUS_MAP _ _ (by decide)]
  have hbridge : ∀ d, t.bridgeState p d = s.bridgeState p d := fun d => by
    simp only [State.bridgeState, hrd .BRG_STATUS_STATE _ _ (by decide)]
  have hview : t.view (pk .FLT_STATUS_SUBST_PENDING p) = s.view (pk .FLT_STATUS_SUBST_PENDING p) ∧
      t.view (pk .MEM_STATUS_MOVE_PENDING p) = s.view (pk .MEM_STATUS_MOVE_PENDING p) ∧
      t.view (pk .FLT_STATUS_SPARE_TILES p) = s.view (pk .FLT_STATUS_SPARE_TILES p) := by
    simp [State.view, State.shown, pk, h.pile, h.jobLoaded]
  obtain ⟨hsubst, hmove, hspare⟩ := hview
  simp only [State.pileHealth, State.on, hgate, hage, hphys, hbridge, hsubst, hmove, hspare, h.pile, h.port,
    h.rd (dk .JOB_STATE_ABORT_PILES) (by decide)]
  simp (disch := decide) only [hrd]

end

/-! ## Work before a report -/

theorem Upd.ofClock_unsent (u : Upd) (h : u.ofClock) : u.Unsent := by
  cases u with
  | reg _ _ | draw _ => exact ⟨trivial, nofun⟩
  | _ => exact absurd h id

theorem unsent_tickClocks : tickClocks.Only Upd.Unsent := clock_tickClocks.mono Upd.ofClock_unsent

theorem run_whenUp_ready {s : State} {ds : List Nat} (h : ∀ d ∈ ds, s.ready d = true) (r : Req) (c : Instr) (k : Act) :
    (whenUp r c ds k).run s = k.run s := by
  have hwake : (Act.each ds demandWake).run s = s := by
    induction ds with
    | nil => rfl
    | cons d ds ih =>
      rw [Act.run_each_cons]
      have hd : (demandWake d).run s = s := by simp [demandWake, h d List.mem_cons_self]
      rw [hd, ih fun e he => h e (List.mem_cons_of_mem _ he)]
  rw [whenUp, Act.run_seq, hwake, Act.run_ask, if_pos (List.all_eq_true.mpr h)]

theorem run_onPile_ready {s : State} {p : Nat} (hp : p < 16) (hsw : s.power (domSw p) = 0) (hctl : s.ready (domCtl p) = true) (r : Req) (c : Instr)
    (k : Act) : (onPile r c p k).run s = k.run s := by
  rw [onPile, if_neg (by omega), Act.run_ask, if_neg (by simp [hsw]), run_whenUp_ready (by simpa using hctl)]

theorem LiftSame.power {s t : State} (h : LiftSame s t) (d : Nat) : t.power d = s.power d := h.rd _ (show Fld.PWR_STATE_STATE ∉ liftFlds by decide)

theorem LiftSame.ready {s t : State} (h : LiftSame s t) (d : Nat) : t.ready d = s.ready d :=
  ready_of_rd (fun k hk => h.rd k fun hl => (by decide : ∀ f ∈ liftFlds, f ∉ readyFlds) _ hl hk) d

/-! ## Registers read (R17, R459) -/

theorem unsent_demandWake (d : Nat) : (demandWake d).Only Upd.Unsent := by
  have hmod : ∀ e (f : DomSt → DomSt), (modDom e f).Only Upd.Unsent := fun _ _ _ => ⟨⟨trivial, nofun⟩, trivial⟩
  have hset : ∀ k v, (setR k v).Only Upd.Unsent := fun _ _ => ⟨⟨trivial, nofun⟩, trivial⟩
  have hwake : (wake d true).Only Upd.Unsent := fun _ => Act.only_ite (Act.only_seq (hset _ _) (hmod _ _))
    (Act.only_ite (hmod _ _) (Act.only_ite trivial (Act.only_seq (hset _ _) (hmod _ _))))
  exact fun _ => Act.only_ite trivial (Act.only_ite trivial (Act.only_seq (only_bump fun _ => ⟨trivial, nofun⟩)
    (Act.only_seq hwake (Act.only_when fun _ => hmod _ _))))

theorem unsent_reachReg (y : RegPlace) : (reachReg y).Only Upd.Unsent :=
  Act.only_when fun _ => Act.only_seq (unsent_demandWake _) (Act.only_when fun _ => unsent_demandWake _)

theorem RegPlace.stepIdx_zero (y : RegPlace) : y.stepIdx 0 = y := by
  have hidx : y.idx.dropLast ++ (y.idx.getLast?.map (· + 0)).toList = y.idx := by
    cases hy : y.idx.getLast? with
    | none => simp [List.getLast?_eq_none_iff.mp hy]
    | some v =>
      obtain ⟨l, hl⟩ := List.getLast?_eq_some_iff.mp hy
      simp [hl]
  rw [RegPlace.stepIdx, hidx]

end Sys2Proof.Machine
end

section

open Sys2Proof Sys2Proof.Machine

/-- Settles O20 (R457). A request of a quiet state leaves nothing to be taken up (`settled_requestAny`), and these do Lift's work only. -/
theorem queriesChangeNothingElse : Obligations.QueriesChangeNothingElse := by
  unfold Obligations.QueriesChangeNothingElse
  intro s t m c hq hc ht
  have hrow : ∃ a : Act, exec c s = (settled a).answer s ∧ a.Only Upd.ofLift ∧ (a.run s).Settled := by
    have hreply : ∀ (r : Req) st (f : State → List Nat), (Act.ask fun s => reply r st 0 (f s)).Only Upd.ofLift ∧
        (Act.ask fun s => reply r st 0 (f s)).Keeps State.Settled := fun r st f =>
      ⟨fun _ => lift_reply _ _ _ _, Act.keeps_asked fun _ _ => settled_reply _ _ _ _⟩
    simp only [List.mem_cons, List.not_mem_nil, or_false] at hc
    obtain (rfl | rfl | rfl | rfl) | ⟨first, rfl⟩ := hc
    · exact ⟨_, rfl, lift_request _ _ _ fun r => (hreply r _ _).1, settled_request_quiet hq _ _ _ fun r => (hreply r _ _).2⟩
    · exact ⟨_, rfl, lift_request _ _ _ fun r => lift_reply _ _ _ _, settled_request_quiet hq _ _ _ fun _ _ => settled_reply _ _ _ _⟩
    · exact ⟨_, rfl, lift_request _ _ _ fun r => (hreply r _ _).1, settled_request_quiet hq _ _ _ fun r => (hreply r _ _).2⟩
    · refine ⟨_, rfl, Act.only_ite trivial (lift_requestAny _ _ fun _ => lift_reply _ _ _ _), ?_⟩
      rw [actUnknownCommand, Act.run_ite]
      split
      · exact hq.settled
      · exact settled_requestAny hq _ _ fun _ _ => settled_reply _ _ _ _
    · exact ⟨_, rfl, lift_request _ _ _ fun _ _ => Act.only_ite (lift_reply _ _ _ _) (lift_reply _ _ _ _),
        settled_request_quiet hq _ _ _ fun _ => Act.keeps_asked fun _ =>
          Act.keeps_ite (fun _ => settled_reply _ _ _ _) (fun _ => settled_reply _ _ _ _)⟩
  obtain ⟨a, hexec, honly, hset⟩ := hrow
  rw [hexec] at ht
  cases ht
  exact liftSame_settled honly hset

/-- Settles O26 (R439, R455, R458). PARAM_LEN and the reserved fields are looked at before anything of the command. -/
theorem wrongLengthRefused : Obligations.WrongLengthRefused := by
  unfold Obligations.WrongLengthRefused
  refine ⟨fun s m x c n h hl hc hlen => ?_, fun s m x c o h hl ho hc => ?_⟩
  · have hrow : ∃ row k, exec c s = (settled (request m row (some n) k)).answer s := by
      rcases hc with ⟨rfl, hc⟩ | ⟨rfl, _, rfl | rfl⟩ | ⟨rfl, _, rfl⟩ | ⟨rfl, _, _, rfl⟩ | ⟨rfl, _, _, rfl⟩ | ⟨rfl, _, rfl⟩ | ⟨rfl, _, rfl⟩ |
        ⟨rfl, _, rfl⟩ | ⟨rfl, _, rfl⟩ | ⟨rfl, _, rfl⟩ | ⟨rfl, _, _, _, rfl⟩ | ⟨rfl, _, _, _, rfl⟩ | ⟨rfl, _, rfl⟩
      case inl =>
        simp only [List.mem_cons, List.not_mem_nil, or_false] at hc
        rcases hc with rfl | rfl | rfl | rfl | rfl | rfl | rfl | rfl
        all_goals exact ⟨_, _, rfl⟩
      all_goals exact ⟨_, _, rfl⟩
    obtain ⟨row, k, hexec⟩ := hrow
    exact ⟨_, hexec, command_refuses h hl (request_wrongLength h hlen k)⟩
  · have hrow : ∃ n row k, reqParamLen m = n ∧ n % 8 = 0 ∧ exec c s = (settled (request m row (some n) k)).answer s := by
      rcases hc with ⟨hn, _, rfl | rfl⟩ | ⟨hn, ⟨_, rfl | rfl⟩ | ⟨_, _, rfl⟩ | ⟨_, rfl⟩⟩ | ⟨hn, _, _, _, rfl⟩ | ⟨hn, _, rfl⟩
      all_goals exact ⟨_, _, _, hn, rfl, rfl⟩
    obtain ⟨n, row, k, hn, hwords, hexec⟩ := hrow
    exact ⟨_, hexec, command_refuses h hl (request_reserved h row (some n) (by simp [hn]) (hn ▸ hwords) ho k)⟩

/-- Settles O25 (R457, R471). Each of these rows looks at the job's state first (`inStates`, `onJob`). -/
theorem wrongStateRefused : Obligations.WrongStateRefused := by
  unfold Obligations.WrongStateRefused
  intro s m x h no
  have hone : ∀ {n : Nat}, reqParamLen m = n → ∀ k, some n = some k → reqParamLen m = k := fun hn k hk => hn.trans (Option.some.inj hk)
  refine ⟨fun hst => ?_, fun hst hlen _ _ => ?_, fun hl hs hlen => ?_, fun hst hlen => ?_, fun hh ha hlen => ?_, fun hst ha hlen _ => ?_,
    fun ha hlen => ⟨_, rfl, request_aborting h _ (hone hlen) ha _⟩, fun ha hlen _ => ⟨_, rfl, request_aborting h _ (hone hlen) ha _⟩⟩
  · have hno : s.jobState ∉ [jsNone] := by simpa using hst
    exact ⟨fun hlen _ => ⟨_, rfl, request_wrongState h _ (hone hlen) hno _⟩, fun hlen _ _ _ => ⟨_, rfl, request_wrongState h _ (hone hlen) hno _⟩,
      fun hlen _ _ _ => ⟨_, rfl, request_wrongState h _ (hone hlen) hno _⟩, fun _ => ⟨_, rfl, request_wrongState h _ (by simp) hno _⟩,
      fun hlen _ => ⟨_, rfl, request_wrongState h _ (hone hlen) hno _⟩, fun hlen _ => ⟨_, rfl, request_wrongState h _ (hone hlen) hno _⟩,
      fun hlen _ => ⟨_, rfl, request_wrongState h _ (hone hlen) hno _⟩⟩
  · exact ⟨_, rfl, request_wrongState h _ (hone hlen) (by simpa using hst) _⟩
  · exact ⟨_, rfl, request_wrongState h _ (hone hlen) (by simp [hl, hs]) _⟩
  · refine ⟨_, rfl, request_wrongState h _ (hone hlen) ?_ _⟩
    rcases hst with hst | hst | hst <;> rw [hst] <;> decide
  · exact ⟨_, rfl, request_offJob h _ (hone hlen) (by simpa using hh) ha _⟩
  · refine ⟨_, rfl, request_offJob h _ (hone hlen) ?_ ha _⟩
    simpa [State.jobStarted, and_assoc] using hst

end

section
/-! PROOFS. Commands that report, and those that set the device's place: what they answer (R419, R420, R457-R460, R464-R466). -/

namespace Sys2Proof.Machine

theorem readyFor_tickClocks (s : State) : ReplyReady s (tickClocks.run s) := unsent_tickClocks.replyReady s

theorem tells_draw {s t : State} (h : TellsSame s t) : TellsSame s ((Upd.draw 1).apply t) := ⟨h.rd, h.pile, h.port, h.dram, h.job⟩

theorem replyReady_draw (s : State) : ReplyReady s ((Upd.draw 1).apply s) := ⟨fun _ => rfl, fun _ => rfl, fun h => ⟨h.due, h.again, h.parked, h.held⟩⟩

theorem replyReady_modJob (f : Job → Job) (s : State) : ReplyReady s ((modJob f).run s) :=
  ⟨fun _ => rfl, fun _ => rfl, fun h => ⟨h.due, h.again, h.parked, h.held⟩⟩

theorem deviceInfo_started (s : State) (m : LiftMsg) : (s.started m).deviceInfo = s.deviceInfo := by
  obtain ⟨hrd, -, -, -, -, -, -, -, -, -, -, hfuses, hsec, -, -, -, -⟩ := liftSame_started s m
  simp only [State.deviceInfo, State.fusedOf, hfuses, hsec, hrd (dk .SEC_STATUS_SV_BUNDLE) (by decide)]

section
variable {s : State} {m : LiftMsg} {x : Session} (h : s.Accepted m x)
include h

/-- A pile's records, read after a free value was drawn. -/
theorem records_answers {q : RecordsP} (hlen : reqParamLen m = 16) (hk1 : 1 ≤ q.kind) (hk6 : q.kind ≤ 6) (hset : q.kind < 4 → q.set ≤ 2)
    (hp : q.pile < 16) (hsw : s.power (domSw q.pile) = 0) (hctl : s.ready (domCtl q.pile) = true) (hmax : q.count ≤ recordsMax q.kind)
    (hlast : q.first + q.count ≤ (s.recordsOf q.kind q.set q.pile).1.length) :
    Answered (s.started m) ((settled (actRecords m q)).run s) (reqOf m x) stUnsync 0
      (bytesLE 8 ((s.recordsOf q.kind q.set q.pile).2.getD (Config.freeValue s.free).toNat) ++
        bytesLE 4 (s.recordsOf q.kind q.set q.pile).1.length ++ List.replicate 4 0 ++
        (((s.recordsOf q.kind q.set q.pile).1.drop q.first).take q.count).flatten) := by
  have hsame := liftSame_started s m
  refine (request_replies h _ _ (by simp [hlen]) (replyReady_draw _) ?_).2
  have hrec : ((Upd.draw 1).apply (s.started m)).recordsOf q.kind q.set q.pile = s.recordsOf q.kind q.set q.pile :=
    (tells_draw hsame.tells).recordsOf _ _ _
  rw [run_withFree, Act.run_ask, hrec, hsame.free, if_neg (by omega), if_neg (by omega), if_neg (by omega), if_neg (by omega), if_neg (by omega)]
  exact run_onPile_ready (s := (Upd.draw 1).apply (s.started m)) hp ((hsame.power _).trans hsw) ((hsame.ready _).trans hctl) _ _ _

theorem pileHealth_answers {p : Nat} (hlen : reqParamLen m = 8) (hp : p < 16) (hsw : s.power (domSw p) = 0) (hctl : s.ready (domCtl p) = true) :
    Answered (s.started m) ((settled (actPileHealth m p)).run s) (reqOf m x) stOk 0 (s.pileHealth p (Config.freeValue s.free).toNat) := by
  have hsame := liftSame_started s m
  refine (request_replies h _ _ (by simp [hlen]) (replyReady_draw _) ?_).2
  rw [run_onPile_ready hp ((hsame.power _).trans hsw) ((hsame.ready _).trans hctl), run_withFree, Act.run_ask, hsame.free,
    (tells_draw hsame.tells).pileHealth]

end

/-- Lift's settings as NET_CONFIG sets them (R419, R420). -/
def LiftSt.withNet (c : NetCfg) (l : LiftSt) : LiftSt :=
  { l with ip4 := c.ip4, prefix4 := c.prefix4, gw4 := c.gw4, ip6 := c.ip6, prefix6 := c.prefix6, gw6 := c.gw6, mtu := c.mtu }

/-! ## What an answer leaves of Lift's settings and of the job -/

/-- What handing over a reply may change. -/
def Upd.ofReply : Upd → Prop
  | .reg k _ => k.f ∈ liftFlds
  | .setSession _ | .mailbox _ _ | .out _ => True
  | _ => False

theorem reply_ofReply (r : Req) (st d : Nat) (data : List Nat) : (reply r st d data).Only Upd.ofReply := by
  have hsend : ∀ i ty mb b, (sendSeq i ty mb b).Only Upd.ofReply := fun i ty mb b => (send_sendSeq i ty mb b).mono fun u hu => by
    cases u with
    | reg _ _ => exact hu
    | setSession _ | out _ => trivial
    | _ => exact absurd hu id
  have hmb : ∀ i f, (modMb i f).Only Upd.ofReply := fun _ _ _ => ⟨trivial, trivial⟩
  have hpost : ∀ q b, (postReply q b).Only Upd.ofReply := fun q b s => by
    dsimp only
    split
    · exact Act.only_seq (hmb _ _) (hsend _ _ _ _)
    · exact Act.only_ite (hmb _ _) (hmb _ _)
  exact Act.only_seq (Act.only_ite (hmb _ _) (hpost _ _))
    fun _ => Act.only_ite (Act.only_each fun _ _ => Act.only_seq (hmb _ _) (hpost _ _)) trivial

theorem lift_run_reply (r : Req) (st d : Nat) (data : List Nat) (s : State) : ((reply r st d data).run s).lift = s.lift :=
  (reply_ofReply r st d data).same (read := State.lift) (fun u t hu => by
    cases u with
    | reg _ _ | setSession _ | mailbox _ _ | out _ => rfl
    | _ => exact absurd hu id) s

end Sys2Proof.Machine
end

section

open Sys2Proof Sys2Proof.Machine

/-- Settles O19 (R457, R464-R466, R494, R537). Each command replies at once, after clocks or a free value at most. -/
theorem queriesAnswer : Obligations.QueriesAnswer := by
  unfold Obligations.QueriesAnswer
  intro s m x h u
  have hsame := liftSame_started s m
  have htick := readyFor_tickClocks (s.started m)
  have hone : ∀ {n : Nat}, reqParamLen m = n → ∀ k, some n = some k → reqParamLen m = k := fun hn k hk => hn.trans (Option.some.inj hk)
  refine ⟨fun hlen => ⟨⟨_, rfl, ?_⟩, ⟨_, rfl, ?_⟩, ⟨_, rfl, ?_⟩, ⟨_, rfl, ?_⟩⟩, fun nonce hlen => ⟨_, rfl, ?_⟩, fun first hlen hfirst => ⟨_, rfl, ?_⟩,
    fun p hp hsw hctl hlen => ⟨_, rfl, pileHealth_answers h hlen hp hsw hctl⟩,
    fun q hlen hk1 hk6 hset hp hsw hctl hmax hlast => ⟨_, rfl, records_answers h hlen hk1 hk6 hset hp hsw hctl hmax hlast⟩, fun hcode => ⟨_, rfl, ?_⟩⟩
  · refine (request_refuses h _ (hone hlen) ?_).2
    rw [Act.run_ask, deviceInfo_started]
  · exact (request_refuses h _ (hone hlen) rfl).2
  · refine (request_refuses h _ (hone hlen) ?_).2
    rw [Act.run_ask, State.spareBytes, hsame.boot, State.spareBytes]
  · refine (request_replies h _ _ (hone hlen) htick ?_).2
    rw [Act.run_seq, Act.run_ask]
  · refine (request_replies h _ _ (hone hlen) htick ?_).2
    rw [Act.run_seq, Act.run_ask]
  · refine (request_refuses h _ (hone hlen) ?_).2
    have hnames : (s.started m).objectNames = s.objectNames := by rw [State.objectNames, hsame.job, State.objectNames]
    have hgen : (s.started m).gen = s.gen := funext fun n => by rw [State.gen, hsame.job, State.gen]
    rw [Act.run_ask, hnames, hgen, if_neg (by omega)]
  · refine (command_refuses h.toTaken h.lone ?_).2
    rw [actUnknownCommand, if_neg (Bool.eq_false_iff.mp hcode), requestAny_accepted h.toTaken]

/-- Settles O21 (R17, R458, R459). The values are those the registers have as the clocks are read; reaching a core changes none of them. -/
theorem registerReads : Obligations.RegisterReads := by
  unfold Obligations.RegisterReads
  intro s m x r y h hlen hplace habsent hcount htop hone hlast
  have hself : (tickClocks.run (s.started m)).regAbsent y = false := by
    have := habsent 0 hcount
    rwa [y.stepIdx_zero] at this
  have hnone : ¬ (List.range r.count).any (fun c => (tickClocks.run (s.started m)).regAbsent (y.stepIdx c)) = true := by
    rw [List.any_eq_true]
    rintro ⟨c, hc, htrue⟩
    rw [habsent c (List.mem_range.mp hc)] at htrue
    exact Bool.false_ne_true htrue
  refine ⟨_, rfl, (request_replies h _ _ (by simp [hlen])
    ((readyFor_tickClocks (s.started m)).trans ((unsent_reachReg y).replyReady _)) ?_).2⟩
  rw [Act.run_seq, Act.run_ask, hplace]
  simp only [hself, Bool.false_eq_true, if_false, if_neg hnone]
  rw [if_neg (by rintro (hc | hc | ⟨hd, hc⟩) <;> [omega; omega; exact hc (hone hd)]), if_neg (by rintro ⟨hd, hc⟩; have := hlast hd; omega), Act.run_seq]

/-- Settles O24 (R419, R420, R457, R460). -/
theorem settingsTake : Obligations.SettingsTake := by
  unfold Obligations.SettingsTake
  intro s m x h
  have hsame := liftSame_started s m
  have hone : ∀ {n : Nat}, reqParamLen m = n → ∀ k, some n = some k → reqParamLen m = k := fun hn k hk => hn.trans (Option.some.inj hk)
  refine ⟨fun c hlen h4 h6 hlo hhi => ?_, fun device size root hlen hst h1 hmax hd hr => ?_, fun step i hlen hst hi hin hlo hhi => ?_⟩
  · obtain ⟨hrun, hans⟩ : AnsweredFrom (s.started m) ((modLift (LiftSt.withNet c)).run (s.started m)) ((settled (actNetConfig m c)).run s) (reqOf m x)
        stOk 0 [] := request_replies h _ _ (hone hlen) (replyReady_modLift (f := LiftSt.withNet c) (fun _ => ⟨rfl, rfl, rfl⟩) _) <| by
      rw [if_neg (by omega), if_neg (by omega), if_neg (by omega), Act.run_seq]
      rfl
    have hlift : ((settled (actNetConfig m c)).run s).lift = (s.started m).lift.withNet c := by
      rw [hrun, lift_run_reply]
      rfl
    exact ⟨_, rfl, hans, by rw [hlift]; rfl, by rw [hlift]; rfl, by rw [hlift]; rfl, by rw [hlift]; rfl, by rw [hlift]; rfl, by rw [hlift]; rfl,
      by rw [hlift]; rfl⟩
  · obtain ⟨hrun, hans⟩ : AnsweredFrom (s.started m) ((modJob (fun j => { j with domain := some (device, size, root) })).run (s.started m))
        ((settled (actDomainSet m device size root)).run s) (reqOf m x) stOk 0 [] := request_replies h _ _ (hone hlen) (replyReady_modJob _ _) <| by
      rw [run_inStates, jobState_started, hst, if_pos (by decide), if_neg (by omega), if_neg (by omega), if_neg (by omega), Act.run_seq]
    refine ⟨_, rfl, hans, ?_⟩
    rw [hrun, (liftSame_reply _ _ _ _ _).job, ← hsame.job]
    rfl
  · have hlead : ∀ k : Act, (onJob (reqOf m x) [jsStarting, jsRunning, jsHalted] k).run (s.started m) = k.run (s.started m) := fun k => by
      have hjob : s.jobState = jsStarting ∨ s.jobState = jsRunning ∨ s.jobState = jsHalted := by
        simpa [State.jobStarted, or_assoc] using hst
      rw [run_onJob, run_inStates, jobState_started]
      rcases hjob with hj | hj | hj <;> rw [hj] <;> rfl
    have hstep : (s.started m).step = s.step := hsame.tells.step
    have hinput : ¬ ((s.started m).job.image.map Image.hostInput).getD false = false := by simp [hsame.job, hi, hin]
    have hready : (s.started m).job.ready = s.job.ready := by rw [hsame.job]
    refine ⟨_, rfl, ?_⟩
    by_cases hmem : step ∈ s.job.ready
    · rw [if_pos hmem]
      obtain ⟨hrun, hans⟩ : AnsweredFrom (s.started m) (s.started m) ((settled (actInputReady m step)).run s) (reqOf m x) stOk 1 [] :=
        request_replies h _ _ (hone hlen) (.refl _) <| by
          rw [hlead, Act.run_ask, if_neg hinput, hstep, if_neg (by omega), hready, if_pos (by simpa using hmem)]
      exact ⟨hans, by rw [hrun, (liftSame_reply _ _ _ _ _).job, hsame.job]⟩
    · rw [if_neg hmem]
      obtain ⟨hrun, hans⟩ : AnsweredFrom (s.started m) ((modJob (fun j => { j with ready := j.ready ++ [step] })).run (s.started m))
          ((settled (actInputReady m step)).run s) (reqOf m x) stOk 0 [] :=
        request_replies h _ _ (hone hlen) (replyReady_modJob _ _) <| by
          rw [hlead, Act.run_ask, if_neg hinput, hstep, if_neg (by omega), hready, if_neg (by simpa using hmem), Act.run_seq]
      refine ⟨hans, ?_⟩
      rw [hrun, (liftSame_reply _ _ _ _ _).job, ← hsame.job]
      rfl

end

section
/-! PROOFS. Register writes (R4, R6, R459): what each field takes, and what else the writes of certain registers do. -/

namespace Sys2Proof.Machine

/-! ## Work that leaves written fields alone -/

/-- Changes that leave alone what a register write may set: fields with another access than read-only, and writes that wait. -/
def Upd.Unwritten : Upd → Prop
  | .reg k _ => k.f.spec.acc = .ro
  | .clearRegs _ | .hold _ | .restart _ => False
  | _ => True

/-- Fields that a write may set, and writes that wait, are unchanged. -/
structure WritesSame (s t : State) : Prop where
  rd   : ∀ k : FKey, k.f.spec.acc ≠ .ro → t.rd k = s.rd k
  hold : t.hold = s.hold

theorem WritesSame.trans {r s t : State} (h : WritesSame r s) (k : WritesSame s t) : WritesSame r t :=
  ⟨fun q hq => (k.rd q hq).trans (h.rd q hq), k.hold.trans h.hold⟩

theorem Act.Only.writesSame {a : Act} (h : a.Only Upd.Unwritten) (s : State) : WritesSame s (a.run s) := by
  refine ⟨fun k hk => (h.mono (Q := Upd.Spares [k.f]) fun u hu => ?_).rd_spared List.mem_cons_self s,
    h.same (read := State.hold) (fun u t hu => ?_) s⟩
  · cases u with
    | reg q v => exact fun he => hk (List.mem_singleton.mp he ▸ hu)
    | clearRegs _ | restart _ => exact absurd hu id
    | _ => trivial
  · cases u with
    | clearRegs _ | hold _ | restart _ => exact absurd hu id
    | dram _ _ | sram _ _ | openHalf _ | pushEvent _ | openSession _ => simp only [Upd.apply]; split <;> rfl
    | _ => rfl

theorem readOnly_liftFlds : ∀ f ∈ liftFlds, f.spec.acc = .ro := by decide

theorem not_liftFlds_of_acc {f : Fld} (h : f.spec.acc ≠ .ro) : f ∉ liftFlds := fun hf => h (readOnly_liftFlds f hf)

theorem LiftSame.writesSame {s t : State} (h : LiftSame s t) : WritesSame s t := ⟨fun _ hk => h.rd _ (not_liftFlds_of_acc hk), h.hold⟩

theorem unwritten_setR {k : FKey} (h : k.f.spec.acc = .ro) (v : Nat) : (setR k v).Only Upd.Unwritten := ⟨h, trivial⟩
theorem unwritten_bump {k : FKey} (h : k.f.spec.acc = .ro) (n : Nat) : (bump k n).Only Upd.Unwritten := only_bump fun _ => h

theorem unwritten_demandWake (d : Nat) : (demandWake d).Only Upd.Unwritten := by
  have hmod : ∀ e (f : DomSt → DomSt), (modDom e f).Only Upd.Unwritten := fun _ _ _ => ⟨trivial, trivial⟩
  have hwake : (wake d true).Only Upd.Unwritten := fun _ => Act.only_ite (Act.only_seq (unwritten_setR rfl _) (hmod _ _))
    (Act.only_ite (hmod _ _) (Act.only_ite trivial (Act.only_seq (unwritten_setR rfl _) (hmod _ _))))
  exact fun _ => Act.only_ite trivial (Act.only_ite trivial (Act.only_seq (unwritten_bump rfl 1)
    (Act.only_seq hwake (Act.only_when fun _ => hmod _ _))))

theorem unwritten_reachReg (y : RegPlace) : (reachReg y).Only Upd.Unwritten :=
  Act.only_when fun _ => Act.only_seq (unwritten_demandWake _) (Act.only_when fun _ => unwritten_demandWake _)

theorem unwritten_startTraining : startTraining.Only Upd.Unwritten := fun _ => Act.only_list
  ⟨unwritten_setR rfl _, unwritten_setR rfl _, unwritten_setR rfl _, fun _ => ⟨trivial, trivial⟩, fun _ => ⟨rfl, trivial⟩⟩

theorem unwritten_linkReturns (d : Nat) : (linkReturns d).Only Upd.Unwritten :=
  Act.only_ite unwritten_startTraining (Act.only_ite
    (fun _ => Act.only_when fun _ => Act.only_seq (fun _ => ⟨trivial, trivial⟩) (unwritten_setR rfl _))
    (Act.only_ite (fun _ => Act.only_when fun _ => Act.only_each fun _ _ _ => Act.only_when fun _ => unwritten_setR rfl _) trivial))

/-- Movers and frames that go on change no register, and nothing of Lift. -/
def Upd.OfUnits : Upd → Prop
  | .pile _ _ | .tile _ _ _ | .out _ => True
  | _ => False

theorem ofUnits_resumeMovers (d : Nat) : (resumeMovers d).Only Upd.OfUnits := fun _ =>
  Act.only_seq (Act.only_ite trivial fun _ => Act.only_seq (fun _ => ⟨trivial, trivial⟩) (Act.only_each fun _ _ => ⟨trivial, trivial⟩))
    (Act.only_when fun _ => Act.only_each fun _ _ => Act.only_when fun _ _ => ⟨trivial, trivial⟩)

theorem Upd.OfUnits.unwritten (u : Upd) (h : u.OfUnits) : u.Unwritten := by
  cases u with
  | pile _ _ | tile _ _ _ | out _ => trivial
  | _ => exact absurd h id

theorem Upd.OfUnits.unsent (u : Upd) (h : u.OfUnits) : u.Unsent := by
  cases u with
  | pile _ _ | tile _ _ _ | out _ => exact ⟨trivial, nofun⟩
  | _ => exact absurd h id

theorem unwritten_padRelease (d : Nat) : (padRelease d).Only Upd.Unwritten := fun _ => Act.only_when fun _ => Act.only_list
  ⟨unwritten_setR rfl _, unwritten_linkReturns _, (ofUnits_resumeMovers d).mono Upd.OfUnits.unwritten⟩

theorem unwritten_tbEnable (old : State) : (tbEnable old).Only Upd.Unwritten := by
  have hoff : (Act.all [setR (dk .TB_STATUS_LOCKED) 0, setR (dk .TB_STATUS_ALIGNED) 0, emit (.tbLoaded false)]).Only Upd.Unwritten :=
    Act.only_list ⟨unwritten_setR rfl _, unwritten_setR rfl _, trivial, trivial⟩
  have hroot : asRoot.Only Upd.Unwritten := fun _ => Act.only_list ⟨unwritten_setR rfl _, ⟨trivial, trivial⟩, rfl, trivial⟩
  exact fun _ => Act.only_ite
    (Act.only_ite hoff (Act.only_seq (unwritten_setR rfl _) (Act.only_when fun _ => Act.only_seq (unwritten_setR rfl _) hroot)))
    (Act.only_ite (Act.only_ite (Act.only_seq (unwritten_setR rfl _) hroot) hoff) trivial)

theorem unwritten_portEnable (p k : Nat) (was : Bool) : (portEnable p k was).Only Upd.Unwritten := fun _ =>
  Act.only_ite trivial (Act.only_ite (unwritten_setR rfl _)
    (Act.only_seq (fun _ => ⟨trivial, trivial⟩) (Act.only_when fun _ => unwritten_setR rfl _)))

theorem unwritten_afterWrite (old : State) (r : RegReq) (y : RegPlace) : (afterWrite old r y).Only Upd.Unwritten :=
  Act.only_ite (unwritten_tbEnable _) <| Act.only_ite (unwritten_portEnable _ _ _) <|
    Act.only_ite (fun _ => Act.only_when fun _ => unwritten_startTraining) <| Act.only_ite (fun _ => unwritten_setR rfl _) <|
      Act.only_ite (Act.only_when fun _ => unwritten_padRelease _) trivial

/-! ## Work beside a write that a reply waits for -/

theorem keeps_replyReady {r : State} {a : Act} (h : a.Only Upd.Unsent) : a.Keeps (ReplyReady r) := fun s hs => hs.trans (h.replyReady s)

theorem unsent_setR (k : FKey) (v : Nat) : (setR k v).Only Upd.Unsent := ⟨⟨trivial, nofun⟩, trivial⟩

section
variable {r : State}

theorem ready_startTraining : startTraining.Keeps (ReplyReady r) := Act.keeps_asked fun _ => Act.keeps_list
  ⟨keeps_replyReady (unsent_setR _ _), keeps_replyReady (unsent_setR _ _), keeps_replyReady (unsent_setR _ _),
    fun s hs => hs.trans (replyReady_modLift (f := fun l => { l with xoffSent := false, xoffGot := false }) (fun _ => ⟨rfl, rfl, rfl⟩) s),
    keeps_replyReady fun _ => unsent_setR _ _⟩

theorem ready_linkReturns (d : Nat) : (linkReturns d).Keeps (ReplyReady r) :=
  Act.keeps_ite ready_startTraining <| keeps_replyReady <| Act.only_ite
    (fun _ => Act.only_when fun _ => Act.only_seq (fun _ => ⟨⟨trivial, nofun⟩, trivial⟩) (unsent_setR _ _))
    (Act.only_ite (fun _ => Act.only_when fun _ => Act.only_each fun _ _ _ => Act.only_when fun _ => unsent_setR _ _) trivial)

theorem ready_padRelease (d : Nat) : (padRelease d).Keeps (ReplyReady r) := Act.keeps_asked fun _ => Act.keeps_when <| Act.keeps_list
  ⟨keeps_replyReady (unsent_setR _ _), ready_linkReturns d, keeps_replyReady ((ofUnits_resumeMovers d).mono Upd.OfUnits.unsent)⟩

theorem ready_tbEnable (old : State) : (tbEnable old).Keeps (ReplyReady r) := keeps_replyReady <| by
  have hoff : (Act.all [setR (dk .TB_STATUS_LOCKED) 0, setR (dk .TB_STATUS_ALIGNED) 0, emit (.tbLoaded false)]).Only Upd.Unsent :=
    Act.only_list ⟨unsent_setR _ _, unsent_setR _ _, ⟨trivial, nofun⟩, trivial⟩
  have hroot : asRoot.Only Upd.Unsent := fun _ => Act.only_list ⟨unsent_setR _ _, ⟨⟨trivial, nofun⟩, trivial⟩, ⟨trivial, nofun⟩, trivial⟩
  exact fun _ => Act.only_ite
    (Act.only_ite hoff (Act.only_seq (unsent_setR _ _) (Act.only_when fun _ => Act.only_seq (unsent_setR _ _) hroot)))
    (Act.only_ite (Act.only_ite (Act.only_seq (unsent_setR _ _) hroot) hoff) trivial)

theorem ready_portEnable (p k : Nat) (was : Bool) : (portEnable p k was).Keeps (ReplyReady r) := keeps_replyReady fun _ =>
  Act.only_ite trivial (Act.only_ite (unsent_setR _ _)
    (Act.only_seq (fun _ => ⟨⟨trivial, nofun⟩, trivial⟩) (Act.only_when fun _ => unsent_setR _ _)))

theorem ready_afterWrite (old : State) (q : RegReq) (y : RegPlace) : (afterWrite old q y).Keeps (ReplyReady r) :=
  Act.keeps_ite (ready_tbEnable _) <| Act.keeps_ite (ready_portEnable _ _ _) <|
    Act.keeps_ite (Act.keeps_asked fun _ => Act.keeps_when ready_startTraining) <|
      Act.keeps_ite (keeps_replyReady fun _ => unsent_setR _ _) <|
        Act.keeps_ite (Act.keeps_when (ready_padRelease _)) (Act.keeps_done _)

theorem unsent_writeField (s : State) (q : RegReq) (k : FKey) : (writeField s q k).Only Upd.Unsent := by
  rw [writeField]
  split
  · exact unsent_setR _ _
  · exact unsent_setR _ _
  · exact fun _ => ⟨⟨trivial, nofun⟩, trivial⟩
  · exact fun _ => ⟨⟨trivial, nofun⟩, trivial⟩
  · trivial
  · trivial

end

/-! ## Fields take their values -/

/-- What a field of a write has come to (R4, R6): one that applies at once has the value written, one that waits is pending with it and
stands as it did. -/
structure FieldTaken (r : RegReq) (s t : State) (k : FKey) : Prop where
  now  : k.f.spec.acc = .rw ∨ k.f.spec.acc = .w1c → t.rd k = clipTo k.f.width (s.written r k)
  held : k.f.spec.acc = .rwg ∨ k.f.spec.acc = .rws → t.rd k = s.rd k ∧
    t.hold.waiting.filter (fun w => w.key == k) = [⟨k, s.written r k, k.f.spec.acc == .rws⟩]

section
variable {r : RegReq} {s t u : State}

theorem FieldTaken.of_same {k : FKey} (h : FieldTaken r s t k) (hu : WritesSame t u) : FieldTaken r s u k := by
  refine ⟨fun ha => (hu.rd k ?_).trans (h.now ha), fun ha => ?_⟩
  · rcases ha with ha | ha <;> rw [ha] <;> decide
  · obtain ⟨hrd, hwait⟩ := h.held ha
    refine ⟨(hu.rd k ?_).trans hrd, by rw [hu.hold]; exact hwait⟩
    rcases ha with ha | ha <;> rw [ha] <;> decide

theorem waiting_holdWrite (k q : FKey) (v : Nat) (strict : Bool) (t : State) :
    ((holdWrite k v strict).run t).hold.waiting.filter (fun w : HeldWrite => w.key == q) =
      if q = k then [(⟨k, v, strict⟩ : HeldWrite)] else t.hold.waiting.filter (fun w => w.key == q) := by
  change (t.hold.waiting.filter (fun w : HeldWrite => w.key != k) ++ [(⟨k, v, strict⟩ : HeldWrite)]).filter (fun w : HeldWrite => w.key == q) = _
  rw [List.filter_append, List.filter_filter]
  by_cases hq : q = k
  · subst hq
    have hnone : t.hold.waiting.filter (fun w => w.key == q && w.key != q) = [] := by
      rw [List.filter_eq_nil_iff]
      intro w _
      simp
    rw [hnone, if_pos rfl]
    simp
  · have hsame : (fun w : HeldWrite => w.key == q && w.key != k) = fun w => w.key == q := by
      funext w
      by_cases hw : w.key = q
      · simp [hw, hq]
      · simp [hw]
    rw [hsame, if_neg hq, List.filter_cons_of_neg (by simpa using fun h => hq h.symm), List.filter_nil, List.append_nil]

theorem writeField_takes {k : FKey} (h : t.rd k = s.rd k) : FieldTaken r s ((writeField s r k).run t) k := by
  refine ⟨fun ha => ?_, fun ha => ?_⟩
  · rcases ha with ha | ha <;> rw [writeField, ha] <;> exact Upd.rd_reg_self _ _ _
  · rcases ha with ha | ha
    all_goals
      rw [writeField, ha]
      exact ⟨h, (waiting_holdWrite k k _ _ t).trans (if_pos rfl)⟩

theorem rd_writeField_of_ne {k q : FKey} (h : q.f ≠ k.f) (t : State) : ((writeField s r k).run t).rd q = t.rd q := by
  rw [writeField]
  split
  · exact rd_setR_of_ne h _ _
  · exact rd_setR_of_ne h _ _
  all_goals rfl

theorem FieldTaken.writeField {k q : FKey} (h : FieldTaken r s t q) (hne : q.f ≠ k.f) : FieldTaken r s ((writeField s r k).run t) q := by
  refine ⟨fun ha => (rd_writeField_of_ne hne t).trans (h.now ha), fun ha => ?_⟩
  obtain ⟨hrd, hwait⟩ := h.held ha
  refine ⟨(rd_writeField_of_ne hne t).trans hrd, ?_⟩
  rw [← hwait, Machine.writeField]
  split
  case h_3 | h_4 => exact (waiting_holdWrite _ _ _ _ t).trans (if_neg fun he => hne (by rw [he]))
  all_goals rfl

theorem FieldTaken.each {y : RegPlace} {fs : List Fld} {q : FKey} (hq : q.f ∉ fs) (h : FieldTaken r s t q) :
    FieldTaken r s ((Act.each fs (fun g => Machine.writeField s r (y.key g))).run t) q := by
  induction fs generalizing t with
  | nil => exact h
  | cons g gs ih =>
    obtain ⟨hne, hgs⟩ := not_or.mp (List.mem_cons.not.mp hq)
    rw [Act.run_each_cons]
    exact ih hgs (h.writeField (k := y.key g) hne)

/-- The fields that a write touches, each once. -/
theorem each_writeField_takes {y : RegPlace} {fs : List Fld} (hfs : fs.Nodup) (h : ∀ f ∈ fs, t.rd (y.key f) = s.rd (y.key f)) {f : Fld} (hf : f ∈ fs) :
    FieldTaken r s ((Act.each fs (fun g => Machine.writeField s r (y.key g))).run t) (y.key f) := by
  induction fs generalizing t with
  | nil => exact absurd hf List.not_mem_nil
  | cons g gs ih =>
    obtain ⟨hg, hgs⟩ := List.nodup_cons.mp hfs
    rw [Act.run_each_cons]
    rcases List.mem_cons.mp hf with rfl | hf
    · exact (writeField_takes (h f List.mem_cons_self)).each (q := y.key f) hg
    · exact ih hgs (fun e he => (rd_writeField_of_ne (k := y.key g) (q := y.key e) (show e ≠ g by rintro rfl; exact hg he) t).trans
        (h e (List.mem_cons_of_mem _ he))) hf

theorem rd_each_writeField {y : RegPlace} {fs : List Fld} {q : FKey} (hq : q.f ∉ fs) (t : State) :
    ((Act.each fs (fun g => Machine.writeField s r (y.key g))).run t).rd q = t.rd q := by
  induction fs generalizing t with
  | nil => rfl
  | cons g gs ih =>
    obtain ⟨hne, hgs⟩ := not_or.mp (List.mem_cons.not.mp hq)
    rw [Act.run_each_cons, ih hgs]
    exact rd_writeField_of_ne (k := y.key g) hne t

end

theorem nodup_fields : ∀ y ∈ regTable, y.fields.Nodup := by decide +kernel

/-! ## A register write that is not refused -/

section
variable {s t : State} (h : LiftSame s t)
include h

theorem LiftSame.written (r : RegReq) {k : FKey} (hk : k.f ∉ liftFlds) : t.written r k = s.written r k := by
  simp only [State.written, State.latest, h.hold, h.rd k hk]

theorem LiftSame.writeRefused (r : RegReq) (y : RegPlace) : t.writeRefused r y = s.writeRefused r y := by
  have hnew : ∀ f ∈ y.spec.fields.filter (touches r), t.written r (y.key f) = s.written r (y.key f) := fun f hf => by
    have hacc : f.spec.acc ≠ .ro := by
      have := (List.mem_filter.mp hf).2
      simpa [touches] using (Bool.and_eq_true_iff.mp this).2
    exact h.written r (k := y.key f) (not_liftFlds_of_acc hacc)
  have hnamed : ∀ f : Fld, f ∉ liftFlds → t.written r (y.key f) = s.written r (y.key f) := fun f hf => h.written r (k := y.key f) hf
  have hfind : (y.spec.fields.filter (touches r)).find? (fun f => outOfRange f (t.written r (y.key f))) =
      (y.spec.fields.filter (touches r)).find? (fun f => outOfRange f (s.written r (y.key f))) :=
    List.find?_congr fun f hf => by rw [hnew f hf]
  have hrd : ∀ f : Fld, f ∉ liftFlds → t.rd (y.key f) = s.rd (y.key f) := fun f hf => h.rd (y.key f) hf
  have hstate : t.jobState = s.jobState := h.rd _ (by decide)
  have hloaded : t.jobLoaded = s.jobLoaded := h.tells.jobLoaded
  have hport : ∀ p k, t.portUsed p k = s.portUsed p k := fun p k => by simp only [State.portUsed, h.job]
  simp only [State.writeRefused, hfind, h.boot, hstate, hloaded, hport, h.job, hnamed .PAD_RELEASE (by decide), hnamed .STEP_PARAM (by decide),
    hnamed .LNK_CTL_ENABLE (by decide), hnamed .MEM_INJECT_COUNT (by decide), hnamed .MEM_INJECT_XOR (by decide), hnamed .MEM_INJECT_FIRST (by decide),
    hrd .MEM_INJECT_COUNT (by decide), hrd .MEM_INJECT_XOR (by decide), hrd .MEM_INJECT_FIRST (by decide)]

theorem LiftSame.regAbsent (y : RegPlace) : t.regAbsent y = s.regAbsent y := by
  simp only [State.regAbsent, h.power]

end

/-- The fields that a request's write touches. -/
def RegPlace.touched (y : RegPlace) (r : RegReq) : List Fld := y.spec.fields.filter (touches r)

/-- The state when a write has reached its register, of a request that left `v`. -/
def State.reached (v : State) (y : RegPlace) : State := (reachReg y).run v

/-- The state when a write's fields have their values. -/
def State.stored (v : State) (r : RegReq) (y : RegPlace) : State :=
  (Act.each (y.touched r) (fun f => writeField v r (y.key f))).run (v.reached y)

/-- The state when what the register's write does besides is done. -/
def State.rewritten (v : State) (r : RegReq) (y : RegPlace) : State := (afterWrite v r y).run (v.stored r y)

section
variable {s : State} {m : LiftMsg} {x : Session} {r : RegReq} {y : RegPlace} (h : s.Accepted m x) (hlen : reqParamLen m = 80) (hw : s.Writable r y)
include h hlen hw

/-- A register write that is not refused: it reaches its register, stores its fields, does what the register's write does, and answers. -/
theorem regWrite_answers (row : Instr) : AnsweredFrom (s.started m) ((s.started m).rewritten r y) ((settled (regWrite m row r)).run s) (reqOf m x)
    stOk (writeDetail (y.touched r)) [] := by
  have hsame := liftSame_started s m
  have hready : ReplyReady (s.started m) ((s.started m).rewritten r y) :=
    ready_afterWrite _ _ _ _ (Act.keeps_each (fun _ _ => keeps_replyReady (unsent_writeField _ _ _)) _ ((unsent_reachReg y).replyReady _))
  refine request_replies h _ _ (by simp [hlen]) hready ?_
  have hfree : ¬ (s.jobState = jsAborting ∧ writeDetail (y.spec.fields.filter (touches r)) ≠ 0) := by
    rintro ⟨hj, hd⟩
    exact hw.free.elim (fun hf => hf hj) hd
  rw [Act.run_ask, hw.place]
  simp only [hsame.regAbsent, hw.present, Bool.false_eq_true, if_false, hw.one, ne_eq, not_true_eq_false, if_neg (Nat.not_lt.mpr hw.width),
    jobState_started, hsame.writeRefused, hw.allowed]
  rw [if_neg hfree]
  simp only [Act.run_all_cons, Act.run_all_nil]
  rfl

omit h hlen in
theorem touched_takes {f : Fld} (hf : f ∈ y.spec.fields) (htouch : touches r f = true) (v : State) : FieldTaken r v (v.stored r y) (y.key f) := by
  have hmem : f ∈ y.touched r := List.mem_filter.mpr ⟨hf, htouch⟩
  have hacc : ∀ g ∈ y.touched r, g.spec.acc ≠ .ro := fun g hg => by
    simpa [touches] using (Bool.and_eq_true_iff.mp (List.mem_filter.mp hg).2).2
  have hreach := (unwritten_reachReg y).writesSame v
  exact each_writeField_takes ((nodup_fields _ (spec_mem_regTable hw.place)).filter _)
    (fun g hg => hreach.rd (y.key g) (hacc g hg)) hmem

end

end Sys2Proof.Machine
end

section

open Sys2Proof Sys2Proof.Machine

/-- Settles O22 (R4, R6, R459). Nothing that a register's write does besides sets a field that a write may set (`unwritten_afterWrite`). -/
theorem registerWrites : Obligations.RegisterWrites := by
  unfold Obligations.RegisterWrites
  intro s m x r y h hlen hw c hc
  obtain ⟨row, hexec⟩ : ∃ row, exec c s = (settled (regWrite m row r)).answer s := by
    simp only [List.mem_cons, List.not_mem_nil, or_false] at hc
    rcases hc with rfl | rfl | rfl | rfl | rfl | rfl | rfl
    all_goals exact ⟨_, rfl⟩
  obtain ⟨hrun, hans⟩ := regWrite_answers h hlen hw row
  have hsame := liftSame_started s m
  refine ⟨_, hexec, hans, fun f hf htouch => ?_⟩
  have hacc : (y.key f).f.spec.acc ≠ .ro := show f.spec.acc ≠ .ro by
    simpa [touches] using (Bool.and_eq_true_iff.mp htouch).2
  have hend : WritesSame ((s.started m).stored r y) ((settled (regWrite m row r)).run s) := by
    rw [hrun]
    exact ((unwritten_afterWrite _ r y).writesSame _).trans (liftSame_reply _ _ _ _ _).writesSame
  obtain ⟨hnow, hheld⟩ := (touched_takes hw hf htouch (s.started m)).of_same hend
  rw [hsame.written r (not_liftFlds_of_acc hacc), hsame.rd _ (not_liftFlds_of_acc hacc)] at *
  exact ⟨hnow, hheld⟩

end

section
/-! PROOFS. What the writes of certain registers do beside storing their fields (R185, R188, R255, R367, R449, R505). -/

namespace Sys2Proof.Machine

/-! ## The register that a name finds -/

/-- A register found is the one named, in its scope, with indices in its range. -/
structure RegPlace.FoundBy (y : RegPlace) (r : RegReq) : Prop where
  named : regNamed r.name = some y.spec
  scope : scopeOk y.spec r = true
  pile  : y.p = if r.scope = 0 then 0 else r.pile
  tile  : y.t = if r.scope = 2 then r.tile else 0
  idx   : y.idx = reqIdx r y.spec.dims.length
  range : badIdx y.spec.dims y.idx 28 = none
  bound : 1 ≤ r.scope → r.pile < 16

theorem foundBy_of_place {r : RegReq} {y : RegPlace} (h : regPlace r = .ok y) : y.FoundBy r := by
  unfold regPlace at h
  cases hn : regNamed r.name with
  | none => rw [hn] at h; cases h
  | some x =>
    simp only [hn] at h
    split at h
    · cases h
    split at h
    · cases h
    case isFalse hscope =>
    split at h
    · cases h
    case isFalse hpile =>
    split at h
    · cases h
    split at h
    · cases h
    split at h
    · cases h
    split at h
    · cases h
    split at h
    · cases h
    case _ hrange =>
      cases h
      exact ⟨hn, by simpa using hscope, rfl, rfl, rfl, hrange, fun hs => by omega⟩

/-- A register of the device is named by its field alone. -/
theorem RegPlace.FoundBy.key_device {y : RegPlace} {r : RegReq} (h : y.FoundBy r) (hs : y.spec.scope = .device) (hd : y.spec.dims = []) (f : Fld) :
    y.key f = dk f := by
  have hr : r.scope = 0 := by have := h.scope; rw [scopeOk, hs] at this; simpa using this
  rw [RegPlace.key, h.pile, h.tile, hr, hd]
  rfl

/-- A register of a pile with no index. -/
theorem RegPlace.FoundBy.key_pile {y : RegPlace} {r : RegReq} (h : y.FoundBy r) (hs : y.spec.scope = .pile) (hd : y.spec.dims = []) (f : Fld) :
    y.key f = pk f y.p := by
  have hr : r.scope = 1 := by have := h.scope; rw [scopeOk, hs] at this; simpa using this
  rw [RegPlace.key, h.tile, hr, hd]
  rfl

/-- A register of a pile with one index. -/
theorem RegPlace.FoundBy.key_indexed {y : RegPlace} {r : RegReq} {n : Nat} (h : y.FoundBy r) (hs : y.spec.scope = .pile) (hd : y.spec.dims = [n])
    (f : Fld) : y.key f = pk f y.p (y.idx.headD 0) := by
  have hr : r.scope = 1 := by have := h.scope; rw [scopeOk, hs] at this; simpa using this
  rw [RegPlace.key, h.tile, h.idx, hr, hd]
  rfl

theorem RegPlace.FoundBy.pile_lt {y : RegPlace} {r : RegReq} (h : y.FoundBy r) (hs : y.spec.scope = .pile) : y.p < 16 := by
  have hr : r.scope = 1 := by have := h.scope; rw [scopeOk, hs] at this; simpa using this
  rw [h.pile, hr]
  exact h.bound (by omega)

theorem RegPlace.FoundBy.idx_lt {y : RegPlace} {r : RegReq} {n : Nat} (h : y.FoundBy r) (hd : y.spec.dims = [n]) : y.idx.headD 0 < n := by
  have hr := h.range
  rw [h.idx, hd] at hr ⊢
  by_contra hge
  have hbad : badIdx [n] (reqIdx r 1) 28 = some 28 := if_pos (Nat.not_lt.mp hge)
  exact absurd (hbad.symm.trans hr) nofun

theorem regNamed_hpCtl : regNamed "HP_CTL" = some ⟨"HP_CTL", .device, [], 32,
    [.HP_CTL_ENABLE, .HP_CTL_SPEED, .HP_CTL_MEDIA, .HP_CTL_PFC_EN, .HP_CTL_PFC_PRIO, .HP_CTL_PCP, .HP_CTL_VID]⟩ := by decide +kernel
theorem regNamed_padRelease : regNamed "PAD_RELEASE" = some ⟨"PAD_RELEASE", .device, [], 32, [.PAD_RELEASE]⟩ := by decide +kernel
theorem regNamed_tbCtl : regNamed "TB_CTL" = some ⟨"TB_CTL", .device, [], 32, [.TB_CTL_ENABLE, .TB_CTL_ROOT, .TB_CTL_UP_PILE, .TB_CTL_UP_PORT]⟩ := rfl
theorem regNamed_lnkCtl : regNamed "LNK_CTL" = some ⟨"LNK_CTL", .pile, [2], 32, [.LNK_CTL_ENABLE, .LNK_CTL_NEAR_LOOP, .LNK_CTL_CE_LIMIT]⟩ := rfl

theorem regNamed_memBucketCtl : regNamed "MEM_BUCKET_CTL" = some ⟨"MEM_BUCKET_CTL", .pile, [], 32, [.MEM_BUCKET_CTL_LEAK_S, .MEM_BUCKET_CTL_DEPTH]⟩ := rfl

theorem RegPlace.FoundBy.spec_eq {y : RegPlace} {r : RegReq} (h : y.FoundBy r) {n : String} {sp : RegSpec} (hn : r.name = n)
    (hsp : regNamed n = some sp) : y.spec = sp := by
  have := h.named
  rw [hn, hsp] at this
  exact (Option.some.inj this).symm

/-- The fields that waking a domain writes. -/
def wakeFlds : List Fld := [.PWR_DEMAND_WAKES, .PWR_STATE_WAKING, .PWR_STATE_LATCHED]

section
variable {fs : List Fld} (h : ∀ f ∈ wakeFlds, f ∉ fs)
include h

theorem spares_wake_of (d : Nat) (own : Bool) : (wake d own).Only (Upd.Spares fs) := fun _ =>
  Act.only_ite (Act.only_seq (spares_setR (h .PWR_STATE_LATCHED (by decide)) _) (spares_modDom _ _)) <| Act.only_ite (spares_modDom _ _) <|
    Act.only_ite trivial (Act.only_seq (spares_setR (h .PWR_STATE_WAKING (by decide)) _) (spares_modDom _ _))

theorem spares_demandWake_of (d : Nat) : (demandWake d).Only (Upd.Spares fs) := fun _ =>
  Act.only_ite trivial <| Act.only_ite trivial <| Act.only_seq (spares_bump (h .PWR_DEMAND_WAKES (by decide)) 1) <|
    Act.only_seq (spares_wake_of h d true) (Act.only_when fun _ => spares_modDom _ _)

theorem spares_reachReg (y : RegPlace) : (reachReg y).Only (Upd.Spares fs) :=
  Act.only_when fun _ => Act.only_seq (spares_demandWake_of h _) (Act.only_when fun _ => spares_demandWake_of h _)

end

/-- Waking another domain leaves a domain's readiness alone. -/
theorem ready_demandWake_of_ne {d e : Nat} (hd : d < 131072) (he : e < 131072) (hne : d ≠ e) (s : State) :
    ((demandWake e).run s).ready d = s.ready d := by
  have hset : ∀ (f : Fld) (v : Nat), (setR (dk f e) v).Only (fun u => ∀ t, (u.apply t).ready d = t.ready d) := fun f v =>
    ⟨fun t => by
      have hrd : ∀ g : Fld, ((Upd.reg (dk f e) v).apply t).rd (dk g d) = t.rd (dk g d) := fun g =>
        Upd.rd_reg_of_ne _ _ (code_dk_ne hd he hne g f)
      simp only [State.ready, State.power, State.on, hrd], trivial⟩
  have hmod : ∀ c (f : DomSt → DomSt), (modDom c f).Only (fun u => ∀ t, (u.apply t).ready d = t.ready d) := fun _ _ _ => ⟨fun _ => rfl, trivial⟩
  have hbump : (bump (dk .PWR_DEMAND_WAKES)).Only (fun u => ∀ t, (u.apply t).ready d = t.ready d) := only_bump fun v t =>
    ready_of_rd (fun k hk => Upd.rd_reg_of_ne v t (FKey.code_ne ((by decide : ∀ f ∈ readyFlds, f ≠ Fld.PWR_DEMAND_WAKES) k.f hk))) d
  have honly : (demandWake e).Only (fun u => ∀ t, (u.apply t).ready d = t.ready d) := fun _ =>
    Act.only_ite trivial <| Act.only_ite trivial <| Act.only_seq hbump <| Act.only_seq (fun _ =>
      Act.only_ite (Act.only_seq (hset .PWR_STATE_LATCHED 1) (hmod _ _)) <| Act.only_ite (hmod _ _) <|
        Act.only_ite trivial (Act.only_seq (hset .PWR_STATE_WAKING 1) (hmod _ _))) (Act.only_when fun _ => hmod _ _)
  exact honly.same (read := fun t => t.ready d) (fun _ t hu => hu t) s

/-! ## The time base starts (R185, R188) -/

/-- The root's time base runs, its counter at 0. -/
structure RootStarted (t : State) : Prop where
  enabled : t.rd (dk .TB_CTL_ENABLE) = 1
  slot    : t.rd (dk .TB_SLOT) = 0
  locked  : t.rd (dk .TB_STATUS_LOCKED) = 1

/-- A bit written 1 is set, whatever stood there. -/
theorem or_one_mod_two (a : Nat) : (a ||| 1) % 2 = 1 := by
  have := Nat.or_mod_two_eq_one (a := a) (b := 1)
  omega

theorem fieldBits_one {f : Fld} (hw : f.width = 1) {r : RegReq} (ht : touches r f = true) : fieldBits f r.mask.toNat = 1 := by
  have hne : fieldBits f r.mask.toNat ≠ 0 := by simpa using (Bool.and_eq_true_iff.mp ht).1
  have hlt : fieldBits f r.mask.toNat < 2 ^ f.width := Nat.mod_lt _ (Nat.two_pow_pos _)
  rw [hw] at hlt
  omega

theorem tbEnable_starts {old s : State} (hold : old.on (dk .TB_CTL_ENABLE) = false) (hen : s.rd (dk .TB_CTL_ENABLE) = 1)
    (hroot : s.on (dk .TB_CTL_ROOT) = true) : RootStarted ((tbEnable old).run s) := by
  have hon : s.on (dk .TB_CTL_ENABLE) = true := by rw [State.on, hen]; rfl
  have hrun : (tbEnable old).run s = asRoot.run ((Upd.reg (dk .TB_SLOT) 0).apply ((Upd.reg (dk .TB_STATUS_HOLDOVER) 0).apply s)) := by
    rw [tbEnable, Act.run_ask]
    simp only [hon, hold, hroot, Bool.true_bne, Bool.not_false, if_true, Bool.false_eq_true, if_false, Act.run_seq, Act.run_when, run_setR]
  rw [hrun]
  have hrest : ∀ (u : State) (k : FKey), k.f ≠ .TB_STATUS_LOCKED → k.f ≠ .TB_STATUS_ALIGNED → (asRoot.run u).rd k = u.rd k := fun u k h1 h2 => by
    have honly : asRoot.Only (Upd.Spares [k.f]) := fun _ => Act.only_list
      ⟨spares_setR (fun h => h1 (List.mem_singleton.mp h).symm) _, ⟨trivial, trivial⟩, spares_setB (fun h => h2 (List.mem_singleton.mp h).symm) _⟩
    exact honly.rd_spared List.mem_cons_self u
  refine ⟨?_, ?_, ?_⟩
  · rw [hrest _ _ (by decide) (by decide), Upd.rd_dk_of_ne (by decide), Upd.rd_dk_of_ne (by decide), hen]
  · rw [hrest _ _ (by decide) (by decide), Upd.rd_reg_self]
    rfl
  · rw [asRoot, Act.run_ask, Act.run_all_cons, Act.run_all_cons, Act.run_all_cons, Act.run_all_nil, run_setB, Upd.rd_dk_of_ne (by decide)]
    exact Upd.rd_reg_self (dk .TB_STATUS_LOCKED) 1 _

section
variable {s : State} {r : RegReq} {y : RegPlace} (hw : s.Writable r y)
include hw

theorem tbCtl_starts (hn : r.name = "TB_CTL") {v : State} (hoff : v.on (dk .TB_CTL_ENABLE) = false) (htouch : touches r .TB_CTL_ENABLE = true)
    (hone : fieldBits .TB_CTL_ENABLE r.value.toNat = 1) (hkeep : touches r .TB_CTL_ROOT = false) (hroot : v.on (dk .TB_CTL_ROOT) = true) :
    RootStarted (v.rewritten r y) := by
  have hfound := foundBy_of_place hw.place
  have hsp := hfound.spec_eq hn regNamed_tbCtl
  have hkey : ∀ f, y.key f = dk f := hfound.key_device (by rw [hsp]) (by rw [hsp])
  have hafter : v.rewritten r y = (tbEnable v).run (v.stored r y) := by rw [State.rewritten, afterWrite, hsp, if_pos rfl]
  rw [hafter]
  have htaken := (touched_takes hw (f := .TB_CTL_ENABLE) (by rw [hsp]; decide) htouch v).now (.inl rfl)
  rw [hkey] at htaken
  refine tbEnable_starts hoff (htaken.trans ?_) ?_
  · rw [State.written, if_neg (by decide)]
    change _ % 2 = 1
    have hmask : fieldBits (dk .TB_CTL_ENABLE).f r.mask.toNat = 1 := fieldBits_one rfl htouch
    have hval : fieldBits (dk .TB_CTL_ENABLE).f r.value.toNat = 1 := hone
    rw [hmask, hval]
    exact or_one_mod_two _
  · have hnot : (dk .TB_CTL_ROOT).f ∉ y.touched r := fun hmem => Bool.false_ne_true (hkeep.symm.trans (List.mem_filter.mp hmem).2)
    rw [State.on, State.stored, rd_each_writeField hnot, State.reached, ((unwritten_reachReg y).writesSame v).rd _ (by decide)]
    exact hroot

/-! ## The bucket's LEVEL (R367) -/

theorem memBucketCtl_clamps (hn : r.name = "MEM_BUCKET_CTL") {v : State} (hv : v.rd (pk .MEM_BUCKET y.p) < 2 ^ Fld.MEM_BUCKET.width) :
    (v.rewritten r y).rd (pk .MEM_BUCKET y.p) = min (v.rd (pk .MEM_BUCKET y.p)) ((v.rewritten r y).rd (pk .MEM_BUCKET_CTL_DEPTH y.p)) := by
  have hsp := (foundBy_of_place hw.place).spec_eq hn regNamed_memBucketCtl
  have hafter : v.rewritten r y = (clampBucket y.p).run (v.stored r y) := by
    simp only [State.rewritten, afterWrite, hsp]
    rfl
  have hlevel : (v.stored r y).rd (pk .MEM_BUCKET y.p) = v.rd (pk .MEM_BUCKET y.p) := by
    have hnot : (pk .MEM_BUCKET y.p).f ∉ y.touched r := fun hmem => by
      have := (List.mem_filter.mp hmem).1
      rw [hsp] at this
      revert this
      exact (by decide : Fld.MEM_BUCKET ∉ [Fld.MEM_BUCKET_CTL_LEAK_S, .MEM_BUCKET_CTL_DEPTH])
    rw [State.stored, rd_each_writeField hnot]
    exact (spares_reachReg (fs := [.MEM_BUCKET]) (by decide) y).rd_spared List.mem_cons_self v
  have hdepth : ((clampBucket y.p).run (v.stored r y)).rd (pk .MEM_BUCKET_CTL_DEPTH y.p) = (v.stored r y).rd (pk .MEM_BUCKET_CTL_DEPTH y.p) :=
    rd_setR_of_ne (show Fld.MEM_BUCKET_CTL_DEPTH ≠ .MEM_BUCKET by decide) _ _
  rw [hafter, hdepth, clampBucket, Act.run_ask, run_setR, Upd.rd_reg_self, hlevel]
  exact Nat.mod_eq_of_lt ((Nat.min_le_left _ _).trans_lt hv)

/-! ## A port trains or goes down (R255) -/

omit hw in
theorem portEnable_state (p k : Nat) {was : Bool} {u : State} (hstate : u.rd (pk .LNK_STATUS_STATE p k) ≠ 10) (hready : u.ready (domX p k) = true)
    (hne : u.on (pk .LNK_CTL_ENABLE p k) ≠ was) :
    ((portEnable p k was).run u).rd (pk .LNK_STATUS_STATE p k) = if u.on (pk .LNK_CTL_ENABLE p k) = true then 1 else 0 := by
  have hgo : ¬ (u.on (pk .LNK_CTL_ENABLE p k) == was || u.rd (pk .LNK_STATUS_STATE p k) == 10) = true := by simp [hne, hstate]
  rw [portEnable, Act.run_ask, if_neg hgo]
  cases was with
  | true =>
    have hoff : u.on (pk .LNK_CTL_ENABLE p k) = false := by simpa using hne
    rw [if_pos rfl, hoff]
    exact Upd.rd_reg_self _ _ _
  | false =>
    have hon : u.on (pk .LNK_CTL_ENABLE p k) = true := by simpa using hne
    rw [if_neg Bool.false_ne_true, hon, Act.run_seq, Act.run_when, hready]
    exact Upd.rd_reg_self _ _ _

theorem lnkCtl_trains (hn : r.name = "LNK_CTL") {v : State} (hstate : v.rd (pk .LNK_STATUS_STATE y.p (y.idx.headD 0)) ≠ 10)
    (hready : v.ready (domX y.p (y.idx.headD 0)) = true)
    (hne : (v.rewritten r y).on (pk .LNK_CTL_ENABLE y.p (y.idx.headD 0)) ≠ v.on (pk .LNK_CTL_ENABLE y.p (y.idx.headD 0))) :
    (v.rewritten r y).rd (pk .LNK_STATUS_STATE y.p (y.idx.headD 0)) =
      if (v.rewritten r y).on (pk .LNK_CTL_ENABLE y.p (y.idx.headD 0)) = true then 1 else 0 := by
  have hfound := foundBy_of_place hw.place
  have hsp := hfound.spec_eq hn regNamed_lnkCtl
  have hp := hfound.pile_lt (by rw [hsp])
  have hk : y.idx.headD 0 < 2 := hfound.idx_lt (by rw [hsp])
  have hkey : ∀ f, y.key f = pk f y.p (y.idx.headD 0) := hfound.key_indexed (by rw [hsp]) (by rw [hsp])
  have hafter : v.rewritten r y = (portEnable y.p (y.idx.headD 0) (v.on (pk .LNK_CTL_ENABLE y.p (y.idx.headD 0)))).run (v.stored r y) := by
    simp only [State.rewritten, afterWrite, hsp]
    rfl
  have hnot : ∀ f : Fld, f.spec.acc = .ro → f ∉ y.touched r := fun f hf hmem => by
    have := (Bool.and_eq_true_iff.mp (List.mem_filter.mp hmem).2).2
    rw [hf] at this
    exact absurd this (by decide)
  generalize y.idx.headD 0 = k at *
  have hstored : ∀ q : FKey, q.f.spec.acc = .ro → (v.stored r y).rd q = (v.reached y).rd q := fun q hq => rd_each_writeField (hnot _ hq) _
  have hst : (v.stored r y).rd (pk .LNK_STATUS_STATE y.p k) ≠ 10 := by
    rw [hstored (pk .LNK_STATUS_STATE y.p k) rfl]
    exact ((spares_reachReg (fs := [.LNK_STATUS_STATE]) (by decide) y).rd_spared (k := pk .LNK_STATUS_STATE y.p k) List.mem_cons_self v).symm ▸ hstate
  have hrdy : (v.stored r y).ready (domX y.p k) = true := by
    rw [ready_of_rd fun q hq => hstored q ((by decide : ∀ f ∈ readyFlds, f.spec.acc = .ro) q.f hq)]
    have hreach : v.reached y = (demandWake (domCtl y.p)).run v := by
      have hown : (Scope.pile == .tile || Scope.pile == .tilePile && y.idx.headD 0 != 5) = false := rfl
      simp only [State.reached, reachReg, hsp, hown, Act.run_when, Act.run_seq]
      rfl
    have hdom : domX y.p k < 131072 ∧ domCtl y.p < 131072 ∧ domX y.p k ≠ domCtl y.p := by
      rw [domX, domCtl]
      omega
    obtain ⟨hx, hc, hxc⟩ := hdom
    rw [hreach, ready_demandWake_of_ne hx hc hxc]
    exact hready
  rw [hafter] at hne ⊢
  have hon : ((portEnable y.p k (v.on (pk .LNK_CTL_ENABLE y.p k))).run (v.stored r y)).on (pk .LNK_CTL_ENABLE y.p k) =
      (v.stored r y).on (pk .LNK_CTL_ENABLE y.p k) := by
    rw [State.on, ((unwritten_portEnable _ _ _).writesSame _).rd (pk .LNK_CTL_ENABLE y.p k) (show Fld.LNK_CTL_ENABLE.spec.acc ≠ .ro by decide), State.on]
  rw [hon] at hne ⊢
  exact portEnable_state _ _ hst hrdy hne

/-! ## The host link retrains (R449) -/

omit hw in
theorem startTraining_downs (u : State) : (startTraining.run u).rd (dk .HP_STATUS_RATE) = 0 ∧ (startTraining.run u).hostUp = false := by
  have hlast : ∀ {w : State} {k : FKey}, k.f ≠ .HP_STATUS_PFC_XOFF → (showXoff.run w).rd k = w.rd k := fun hk => Upd.rd_reg_of_ne _ _ (FKey.code_ne hk)
  rw [startTraining, Act.run_ask]
  simp only [Act.run_all_cons, Act.run_all_nil, run_setR, run_modLift]
  refine ⟨?_, ?_⟩
  · rw [hlast (by decide)]
    simp (disch := decide) only [Upd.rd_dk_of_ne, Upd.rd_lift, Upd.rd_reg_self]
    rfl
  · rw [State.hostUp, hlast (by decide)]
    simp (disch := decide) only [Upd.rd_dk_of_ne, Upd.rd_lift, Upd.rd_reg_self]
    rw [Bool.and_eq_false_iff]
    right
    split
    · rfl
    · split <;> rfl

theorem hpCtl_retrains (hn : r.name = "HP_CTL") {v : State} (hne : ∃ f ∈ [Fld.HP_CTL_SPEED, .HP_CTL_MEDIA, .HP_CTL_PFC_EN],
    (v.rewritten r y).rd (dk f) ≠ v.rd (dk f)) :
    (v.rewritten r y).rd (dk .HP_STATUS_RATE) = 0 ∧ (v.rewritten r y).hostUp = false := by
  have hsp := (foundBy_of_place hw.place).spec_eq hn regNamed_hpCtl
  have hafter : v.rewritten r y = (hpRetrain v).run (v.stored r y) := by
    simp only [State.rewritten, afterWrite, hsp]
    rfl
  obtain ⟨f, hf, hne⟩ := hne
  have hacc : (dk f).f.spec.acc ≠ .ro := (by decide : ∀ f ∈ [Fld.HP_CTL_SPEED, .HP_CTL_MEDIA, .HP_CTL_PFC_EN], f.spec.acc ≠ .ro) f hf
  rw [State.rewritten, ((unwritten_afterWrite v r y).writesSame (v.stored r y)).rd (dk f) hacc] at hne
  have hany : [Fld.HP_CTL_ENABLE, .HP_CTL_SPEED, .HP_CTL_MEDIA, .HP_CTL_PFC_EN].any (fun f => (v.stored r y).rd (dk f) != v.rd (dk f)) = true :=
    List.any_eq_true.mpr ⟨f, List.mem_cons_of_mem _ hf, bne_iff_ne.mpr hne⟩
  rw [hafter, hpRetrain, Act.run_ask, Act.run_when, if_pos hany]
  exact startTraining_downs _

/-! ## Held outputs are released (R505) -/

omit hw in
theorem padRelease_releases {d : Nat} {u : State} (hexists : domainExists d = true) (hon : u.power d = 0) (hentering : u.on (pEnter d) = false) :
    ((padRelease d).run u).rd (pHeld d) = 0 := by
  rw [padRelease, Act.run_ask]
  by_cases hheld : u.on (pHeld d) = true
  · have hgo : (domainExists d && u.power d == 0 && !u.on (pEnter d) && u.on (pHeld d)) = true := by simp [hexists, hon, hentering, hheld]
    rw [Act.run_when, if_pos hgo]
    simp only [Act.run_all_cons, Act.run_all_nil]
    have hlink : ∀ w : State, ((linkReturns d).run w).rd (pHeld d) = w.rd (pHeld d) := fun w => by
      have htrain : startTraining.Only (Upd.Spares [.PWR_STATE_PAD_HELD]) := fun _ => Act.only_list
        ⟨spares_setR (by decide) _, spares_setR (by decide) _, spares_setR (by decide) _, fun _ => ⟨trivial, trivial⟩, fun _ => spares_setB (by decide) _⟩
      have honly : (linkReturns d).Only (Upd.Spares [.PWR_STATE_PAD_HELD]) := Act.only_ite htrain <| Act.only_ite
        (fun _ => Act.only_when fun _ => Act.only_seq (fun _ => ⟨trivial, trivial⟩) (spares_setR (show Fld.LNK_STATUS_STATE ∉ _ by decide) _))
        (Act.only_ite (fun _ => Act.only_when fun _ => Act.only_each fun _ _ _ => Act.only_when fun _ =>
          spares_setR (show Fld.BRG_STATUS_STATE ∉ _ by decide) _) trivial)
      exact honly.rd_spared (k := pHeld d) List.mem_cons_self w
    have hmovers : ∀ w : State, ((resumeMovers d).run w).rd (pHeld d) = w.rd (pHeld d) := fun w =>
      (ofUnits_resumeMovers d).same (read := fun w => w.rd (pHeld d)) (fun u t hu => by
        cases u with
        | pile _ _ | tile _ _ _ | out _ => rfl
        | _ => exact absurd hu id) w
    rw [hmovers, hlink]
    exact Upd.rd_reg_self _ _ _
  · have hgo : ¬ (domainExists d && u.power d == 0 && !u.on (pEnter d) && u.on (pHeld d)) = true := by simp [hheld]
    rw [Act.run_when, if_neg hgo]
    simpa [State.on] using hheld

theorem padRelease_register (hn : r.name = "PAD_RELEASE") (htouch : touches r .PAD_RELEASE = true) {v : State} {d : Nat}
    (hd : d = fieldBits .PAD_RELEASE (r.value.toNat &&& r.mask.toNat)) (hexists : domainExists d = true) (hon : v.power d = 0)
    (hentering : v.on (pEnter d) = false) : (v.rewritten r y).rd (pHeld d) = 0 := by
  have hsp := (foundBy_of_place hw.place).spec_eq hn regNamed_padRelease
  have hreach : v.reached y = v := by
    simp only [State.reached, reachReg, hsp]
    rfl
  have hstored : v.stored r y = v := by
    have hacc : ∀ f ∈ y.touched r, f.spec.acc = .wo := fun f hf => by
      have hmem := (List.mem_filter.mp hf).1
      rw [hsp] at hmem
      rw [List.mem_singleton.mp hmem]
      rfl
    rw [State.stored, hreach]
    generalize y.touched r = fs at hacc
    induction fs with
    | nil => rfl
    | cons f fs ih =>
      have hwrite : writeField v r (y.key f) = .done := by
        rw [writeField, show (y.key f).f.spec.acc = .wo from hacc f List.mem_cons_self]
      rw [Act.run_each_cons, hwrite]
      exact ih fun g hg => hacc g (List.mem_cons_of_mem _ hg)
  have hafter : v.rewritten r y = (padRelease d).run v := by
    simp only [State.rewritten, afterWrite, hsp, hstored, htouch, hd]
    rfl
  rw [hafter]
  exact padRelease_releases hexists hon hentering

end

end Sys2Proof.Machine
end

section

open Sys2Proof Sys2Proof.Machine

/-- Settles O23 (R185, R188, R255, R367, R449, R505). Each write is taken as any register write is, and then does its own work. -/
theorem registerWriteEffects : Obligations.RegisterWriteEffects := by
  unfold Obligations.RegisterWriteEffects
  intro s m x r y h hlen hw
  have hsame := liftSame_started s m
  have hrun : ∀ row, (settled (regWrite m row r)).run s = (reply (reqOf m x) stOk (writeDetail (y.touched r)) []).run ((s.started m).rewritten r y) :=
    fun row => (regWrite_answers h hlen hw row).1
  have hend : ∀ row, LiftSame ((s.started m).rewritten r y) ((settled (regWrite m row r)).run s) := fun row => by
    rw [hrun]
    exact liftSame_reply _ _ _ _ _
  have hon : ∀ {u v : State}, LiftSame u v → ∀ k : FKey, k.f ∉ liftFlds → v.on k = u.on k := fun huv k hk => by rw [State.on, huv.rd k hk, State.on]
  refine ⟨fun hn hoff htouch hone hkeep hroot => ⟨_, rfl, ?_⟩, fun hn hlegal => ⟨_, rfl, ?_⟩, fun hn hstate hready => ⟨_, rfl, fun hne => ?_⟩,
    fun hn => ⟨_, rfl, fun hne => ?_⟩, fun hn htouch => fun hexists hpower hentering => ⟨_, rfl, ?_⟩⟩
  · obtain ⟨henabled, hslot, hlocked⟩ := tbCtl_starts hw hn ((hon hsame _ (by decide)).trans hoff) htouch hone hkeep ((hon hsame _ (by decide)).trans hroot)
    exact ⟨((hend _).rd _ (by decide)).trans henabled, ((hend _).rd _ (by decide)).trans hslot, ((hend _).rd _ (by decide)).trans hlocked⟩
  · have hlevel : (s.started m).rd (pk .MEM_BUCKET y.p) = s.rd (pk .MEM_BUCKET y.p) := hsame.rd _ (show Fld.MEM_BUCKET ∉ liftFlds by decide)
    rw [(hend (.memBucketCtl m r)).rd _ (show Fld.MEM_BUCKET ∉ liftFlds by decide),
      (hend (.memBucketCtl m r)).rd _ (show Fld.MEM_BUCKET_CTL_DEPTH ∉ liftFlds by decide), ← hlevel]
    exact memBucketCtl_clamps hw hn (hlevel ▸ hlegal.fields (pk .MEM_BUCKET y.p))
  · have hen : ∀ u : State, u = (settled (regWrite m (.lnkCtlEnable m r) r)).run s → u.on (pk .LNK_CTL_ENABLE y.p (y.idx.headD 0)) =
        ((s.started m).rewritten r y).on (pk .LNK_CTL_ENABLE y.p (y.idx.headD 0)) := fun u hu =>
      hu ▸ hon (hend _) _ (show Fld.LNK_CTL_ENABLE ∉ liftFlds by decide)
    rw [hen _ rfl, ← hon hsame _ (show (pk .LNK_CTL_ENABLE y.p (y.idx.headD 0)).f ∉ liftFlds from (by decide : Fld.LNK_CTL_ENABLE ∉ liftFlds))] at hne
    rw [hen _ rfl, (hend _).rd _ (show Fld.LNK_STATUS_STATE ∉ liftFlds by decide)]
    refine lnkCtl_trains hw hn ?_ ((hsame.ready _).trans hready) hne
    rw [hsame.rd _ (show Fld.LNK_STATUS_STATE ∉ liftFlds by decide)]
    exact hstate
  · have hfs : ∃ f ∈ [Fld.HP_CTL_SPEED, .HP_CTL_MEDIA, .HP_CTL_PFC_EN],
        ((settled (regWrite m (.hpCtl m r) r)).run s).rd (dk f) ≠ s.rd (dk f) := by
      rcases hne with hne | hne | hne
      · exact ⟨_, by decide, hne⟩
      · exact ⟨_, by decide, hne⟩
      · exact ⟨_, by decide, hne⟩
    obtain ⟨f, hf, hne⟩ := hfs
    have hnot : (dk f).f ∉ liftFlds := (by decide : ∀ f ∈ [Fld.HP_CTL_SPEED, .HP_CTL_MEDIA, .HP_CTL_PFC_EN], f ∉ liftFlds) f hf
    rw [(hend _).rd _ hnot, ← hsame.rd _ hnot] at hne
    obtain ⟨hrate, hdown⟩ := hpCtl_retrains hw hn ⟨f, hf, hne⟩
    refine ⟨((hend _).rd _ (by decide)).trans hrate, ?_⟩
    rw [hostUp_of_rd (hend _).ready ((hend _).rd _ (by decide)), hdown]
  · rw [(hend _).rd _ (show (pHeld _).f ∉ liftFlds from (by decide : Fld.PWR_STATE_PAD_HELD ∉ liftFlds))]
    exact padRelease_register hw hn htouch rfl hexists ((hsame.power _).trans hpower)
      ((hon hsame _ (show (pEnter _).f ∉ liftFlds from (by decide : Fld.PWR_STATE_ENTERING ∉ liftFlds))).trans hentering)

end

section
/-! PROOFS. Debug unlock (R540, R541). -/

namespace Sys2Proof.Machine

theorem length_bytesLE (n v : Nat) : (bytesLE n v).length = n := by
  induction n generalizing v with
  | zero => rfl
  | succ n ih => rw [bytesLE, List.length_cons, ih]

theorem unsent_modSec (f : SecSt → SecSt) : (modSec f).Only Upd.Unsent := fun _ => ⟨⟨trivial, nofun⟩, trivial⟩

/-- What a debug response proves (R541): the challenge kept, the vendor's key and signature, and the owner's where that key is burned. -/
theorem unlocks_iff (s : State) (resp : Bytes) : let bs := ofBytes resp
    let field (k n : Nat) : List Nat := (bs.drop k).take n
    let digest := sha512 (field 0 96)
    s.unlocks resp = true ↔ (∃ c, s.sec.challenge = some c ∧ ofBytes c = field 0 96) ∧
      (sha512 (field 96 32) = bytesLE 64 Config.vendorKeyHash.toNat ∧ edVerify (field 96 32) digest (field 128 64) = true) ∧
      (s.fuses.ownerValid = true →
        sha512 (field 192 32) = bytesLE 64 s.fuses.ownerKey.toNat ∧ edVerify (field 192 32) digest (field 224 64) = true) := by
  intro bs field digest
  have howner : ∀ a : Bool, (!s.fuses.ownerValid || a) = true ↔ (s.fuses.ownerValid = true → a = true) := fun a => by
    cases s.fuses.ownerValid <;> simp
  rw [State.unlocks, Bool.and_eq_true, howner, Bool.and_eq_true, Bool.and_eq_true, Bool.and_eq_true, beq_iff_eq, beq_iff_eq, and_assoc, and_assoc]
  refine and_congr ?_ (and_assoc.symm.trans Iff.rfl)
  cases s.sec.challenge with
  | none => exact ⟨nofun, fun ⟨_, h, _⟩ => nomatch h⟩
  | some c => exact ⟨fun h => ⟨c, rfl, beq_iff_eq.mp h⟩, fun ⟨_, hc, h⟩ => beq_iff_eq.mpr (Option.some.inj hc ▸ h)⟩

theorem sec_run_reply (r : Req) (st d : Nat) (data : List Nat) (s : State) : ((reply r st d data).run s).sec = s.sec :=
  (liftSame_reply r st d data s).sec

section
variable {s : State} {m : LiftMsg} {x : Session} (h : s.Accepted m x) (hst : s.jobState = jsNone)
include h hst

/-- A challenge is drawn, kept and answered. -/
theorem debugChallenge_answers {scope : BitVec 32} (hlen : reqParamLen m = 8) (hscope : scope.toNat ≤ 3) : ∃ nonce up,
    let c := challengeBytes scope.toNat nonce up
    let t := (settled (actDebugChallenge m scope)).run s
    Answered (s.started m) t (reqOf m x) stOk 0 c ∧ t.sec.challenge = some (toBytes c) ∧ t.fuses = s.fuses := by
  let u := (Upd.draw 1).apply (s.started m)
  let nonce := (Config.random u.free).toNat
  let up := (Config.freeValue (s.started m).free).toNat
  let c := challengeBytes scope.toNat nonce up
  let v := (modSec (fun x => { x with challenge := some (toBytes c) })).run ((Upd.draw 1).apply u)
  have hready : ReplyReady (s.started m) v :=
    ((replyReady_draw _).trans (replyReady_draw _)).trans ((unsent_modSec _).replyReady _)
  obtain ⟨hrun, hans⟩ : AnsweredFrom (s.started m) v ((settled (actDebugChallenge m scope)).run s) (reqOf m x) stOk 0 c :=
    request_replies h _ _ (by simp [hlen]) hready <| by
      rw [run_inStates, jobState_started, hst, if_pos (by decide), if_neg (by omega), run_withFree, Act.run_ask]
      simp only [Act.run_all_cons, Act.run_all_nil]
      rfl
  refine ⟨nonce, up, hans, ?_, ?_⟩
  · rw [hrun, sec_run_reply]
    rfl
  · rw [hrun, (liftSame_reply _ _ _ _ _).fuses, ← (liftSame_started s m).fuses]
    rfl

/-- A response consumes the challenge, and unlocks where it proves what it must. -/
theorem debugUnlock_answers {resp : Bytes} (hlen : reqParamLen m = 288) : let t := (settled (actDebugUnlock m resp)).run s
    t.sec.challenge = none ∧ t.fuses = s.fuses ∧
    (s.unlocks resp = true → Answered (s.started m) t (reqOf m x) stOk 0 [] ∧
      t.rd (dk .SEC_STATUS_DEBUG_SCOPE) = (s.rd (dk .SEC_STATUS_DEBUG_SCOPE) ||| (atLE (ofBytes resp) 24 4 % 4)) % 4) ∧
    (s.unlocks resp = false → Answered (s.started m) t (reqOf m x) stAuthFailed 0 [] ∧
      t.rd (dk .SEC_STATUS_DEBUG_SCOPE) = s.rd (dk .SEC_STATUS_DEBUG_SCOPE)) := by
  have hsame := liftSame_started s m
  have hunlocks : (s.started m).unlocks resp = s.unlocks resp := by simp only [State.unlocks, hsame.sec, hsame.fuses]
  have hscope : (s.started m).rd (dk .SEC_STATUS_DEBUG_SCOPE) = s.rd (dk .SEC_STATUS_DEBUG_SCOPE) := hsame.rd _ (by decide)
  let u := (modSec (fun x => { x with challenge := none })).run (s.started m)
  have hu : ReplyReady (s.started m) u := (unsent_modSec _).replyReady _
  cases hproved : s.unlocks resp with
  | true =>
    let v := (Upd.reg (dk .SEC_STATUS_DEBUG_SCOPE) (s.rd (dk .SEC_STATUS_DEBUG_SCOPE) ||| (atLE (ofBytes resp) 24 4 % 4))).apply u
    obtain ⟨hrun, hans⟩ : AnsweredFrom (s.started m) v ((settled (actDebugUnlock m resp)).run s) (reqOf m x) stOk 0 [] :=
      request_replies h _ _ (by simp [hlen]) (hu.trans ((unsent_setR _ _).replyReady u)) <| by
        rw [run_inStates, jobState_started, hst, if_pos (by decide), Act.run_ask]
        simp only [Act.run_all_cons, Act.run_all_nil, hunlocks, hproved, if_true, Act.run_seq, hscope]
        rfl
    have hend := liftSame_reply (reqOf m x) stOk 0 [] v
    refine ⟨?_, ?_, fun _ => ⟨hans, ?_⟩, nofun⟩
    · rw [hrun, hend.sec]
      rfl
    · rw [hrun, hend.fuses, ← hsame.fuses]
      rfl
    · rw [hrun, hend.rd _ (by decide)]
      exact Upd.rd_reg_self _ _ _
  | false =>
    obtain ⟨hrun, hans⟩ : AnsweredFrom (s.started m) u ((settled (actDebugUnlock m resp)).run s) (reqOf m x) stAuthFailed 0 [] :=
      request_replies h _ _ (by simp [hlen]) hu <| by
        rw [run_inStates, jobState_started, hst, if_pos (by decide), Act.run_ask]
        simp only [Act.run_all_cons, Act.run_all_nil, hunlocks, hproved, Bool.false_eq_true, if_false]
        rfl
    have hend := liftSame_reply (reqOf m x) stAuthFailed 0 [] u
    refine ⟨?_, ?_, nofun, fun _ => ⟨hans, ?_⟩⟩
    · rw [hrun, hend.sec]
      rfl
    · rw [hrun, hend.fuses, ← hsame.fuses]
      rfl
    · rw [hrun, hend.rd _ (by decide), ← hscope]
      rfl

end

end Sys2Proof.Machine
end

section

open Sys2Proof Sys2Proof.Machine

/-- Settles O31 (R540, R541). -/
theorem debugUnlocks : Obligations.DebugUnlocks := by
  unfold Obligations.DebugUnlocks
  intro s m x h hst
  refine ⟨fun scope hlen hscope => ?_, fun scope hlen hscope => ?_, ⟨_, rfl, rfl⟩, fun resp hlen => ?_⟩
  · obtain ⟨nonce, up, hans, hkept, hfuses⟩ := debugChallenge_answers h hst hlen hscope
    refine ⟨_, challengeBytes scope.toNat nonce up, bytesLE 32 nonce, bytesLE 8 up, rfl, rfl, length_bytesLE _ _, length_bytesLE _ _, length_bytesLE _ _, ?_, hans, hkept, hfuses⟩
    have hname : (ascii "VXDBGCHL").length = 8 := rfl
    simp only [challengeBytes, serialBytes, List.length_append, length_bytesLE, hname, List.length_cons, List.length_nil, List.length_replicate]
  · obtain ⟨hsame, hans⟩ : LiftSame s ((settled (actDebugChallenge m scope)).run s) ∧
        Answered (s.started m) ((settled (actDebugChallenge m scope)).run s) (reqOf m x) stBadParam 0 [] :=
      request_refuses h _ (by simp [hlen]) <| by
        rw [run_inStates, jobState_started, hst, if_pos (by decide), if_pos hscope]
    exact ⟨_, rfl, hans, hsame.sec, hsame.fuses⟩
  · intro bs field digest proved
    obtain ⟨hchallenge, hfuses, hyes, hno⟩ := debugUnlock_answers (x := x) h hst hlen (resp := resp)
    have hiff := unlocks_iff s resp
    exact ⟨_, rfl, hchallenge, hfuses, fun hp => hyes (hiff.mpr hp), fun hp => hno (Bool.eq_false_iff.mpr fun hu => hp (hiff.mp hu))⟩

end

section
/-! PROOFS. Waits that end (R441, R443): SPARE_COMMIT, POWER_SET and ABORT are answered where two open sessions share an identifier. -/

namespace Sys2Proof.Machine

/-- A SPARE_COMMIT that waits for its last burn, of a host key whose own session has closed since. -/
def waitingCommit : Req := { waitingStart with cmd := 0x0034 }

/-- One burn is under way; the session of the SPARE_COMMIT's host key and another share an identifier, and an ABORT's reply waits behind the
SPARE_COMMIT's on its mailbox. -/
def sharedIdBurn : State where
  sec := { burns := [.entry 0], burnReq := some waitingCommit }
  sessions := [sessionOne [2], sessionOne [1]]
  mailboxes := [(1, owingMailbox)]

theorem sharedIdBurn_hears : sharedIdBurn.hears waitingCommit :=
  ⟨⟨sessionOne [1], by decide +kernel⟩, fun h => absurd h (by decide)⟩

/-- The reply to SPARE_COMMIT leaves no session of its host key, so that the ABORT's reply frees the mailbox. -/
theorem mailbox_fuseWordBurned_sharedIdBurn : ((actFuseWordBurned.run sharedIdBurn).mailbox waitingCommit.mb).st = .idle := by
  decide +kernel

/-- A POWER_SET that waits for a tile, of a host key whose own session has closed since. -/
def waitingPower : Req := { waitingStart with cmd := 0x0036 }

/-- A tile wakes; the session of the POWER_SET's host key and another share an identifier, and an ABORT's reply waits behind the POWER_SET's
on its mailbox. -/
def sharedIdWake : State where
  regs := [((dk .PWR_STATE_WAKING 34).code, 1)]
  pwr := { doms := [(34, { to' := some 0, reqs := [waitingPower] })] }
  sessions := [sessionOne [2], sessionOne [1]]
  mailboxes := [(1, owingMailbox)]

theorem sharedIdWake_hears : sharedIdWake.hears waitingPower :=
  ⟨⟨sessionOne [1], by decide +kernel⟩, fun h => absurd h (by decide)⟩

theorem sharedIdWake_quiet : sharedIdWake.Quiet := ⟨rfl, rfl, rfl, by simp [sharedIdWake, sessionOne]⟩

/-- The reply to POWER_SET leaves no session of its host key, so that the ABORT's reply frees the mailbox. -/
theorem mailbox_wakeComplete_sharedIdWake : (((settled (actWakeComplete 34)).run sharedIdWake).mailbox waitingPower.mb).st = .idle := by
  decide +kernel

/-- A job's abort is under way, for which a request waits whose host key's own session has closed since. -/
def sharedIdAbort : State where
  regs := [((dk .JOB_STATE_STATE).code, jsAborting)]
  job := { abortReqs := [waitingStart] }
  sessions := [sessionOne [2], sessionOne [1]]
  mailboxes := [(1, owingMailbox)]

theorem sharedIdAbort_hears : sharedIdAbort.hears waitingStart :=
  ⟨⟨sessionOne [1], by decide +kernel⟩, fun h => absurd h (by decide)⟩

theorem sharedIdAbort_quiet : sharedIdAbort.Quiet := ⟨rfl, rfl, rfl, by simp [sharedIdAbort, sessionOne]⟩

/-- The reply leaves no session of its host key, so that the ABORT's reply that waited frees the mailbox. -/
theorem mailbox_abortComplete_sharedIdAbort : (((settled (actAbortComplete 0)).run sharedIdAbort).mailbox waitingStart.mb).st = .idle := by
  decide +kernel

end Sys2Proof.Machine
end

section

open Sys2Proof Sys2Proof.Machine

/-- Refutes O32 (R441, R443, R495): the clause that fails is SPARE_COMMIT's answer once its last burn is done. `State.hears` asks for an open
session of the request's host key, and the statement asks nothing of session identifiers. Where two open sessions share one, the reply is sent
in the first of that identifier, which replaces both (`Upd.setSession`); the ABORT's reply that waited on the mailbox then finds no session of
its key, and as the mailbox's time has run out `postReply` frees it, with the reply just handed to it. No HELLO opens two sessions of one
identifier (`newId_fresh`). -/
theorem not_fusesBurn : ¬ Obligations.FusesBurn := by
  unfold Obligations.FusesBurn
  rintro ⟨-, hburn⟩
  obtain ⟨t, ht, -, -, hlast⟩ := hburn sharedIdBurn (.entry 0) [] rfl
  obtain ⟨-, -, hreply, -⟩ := hlast rfl rfl rfl
  obtain ⟨hdone, -⟩ := hreply waitingCommit rfl rfl sharedIdBurn_hears
  have hrun : actFuseWordBurned.run sharedIdBurn = t := Host.Outcome.next.inj ht
  rw [← hrun, mailbox_fuseWordBurned_sharedIdBurn] at hdone
  exact MbState.noConfusion hdone

/-- Refutes O37 (R441, R443, R508): the clause that fails is the answer to who waited for a wake, as in `not_fusesBurn`: the statement lets two
open sessions share an identifier. -/
theorem not_transitionsEnd : ¬ Obligations.TransitionsEnd := by
  unfold Obligations.TransitionsEnd
  rintro ⟨hwake, -⟩
  obtain ⟨t, ht, -, -, -, -, hend⟩ := hwake sharedIdWake 34 sharedIdWake_quiet (by decide +kernel)
  obtain ⟨-, hreply⟩ := hend (by decide +kernel)
  obtain ⟨hdone, -⟩ := hreply waitingPower (by decide +kernel) sharedIdWake_hears
  have hrun : (settled (actWakeComplete 34)).run sharedIdWake = t := Host.Outcome.next.inj ht
  rw [← hrun, mailbox_wakeComplete_sharedIdWake] at hdone
  exact MbState.noConfusion hdone

/-- Refutes O42 (R441, R443, R468): the clause that fails is the answer at an abort's end, as in `not_fusesBurn`: the statement lets two open
sessions share an identifier, and asks nothing of the commands of the requests that wait for the end. -/
theorem not_jobCommandsAct : ¬ Obligations.JobCommandsAct := by
  unfold Obligations.JobCommandsAct
  rintro ⟨-, -, -, -, -, -, -, -, hend, -⟩
  obtain ⟨t, ht, -, -, -, -, hreply⟩ := hend sharedIdAbort 0 sharedIdAbort_quiet (by decide +kernel)
  obtain ⟨hdone, -⟩ := hreply waitingStart rfl sharedIdAbort_hears
  have hrun : (settled (actAbortComplete 0)).run sharedIdAbort = t := Host.Outcome.next.inj ht
  rw [← hrun, mailbox_abortComplete_sharedIdAbort] at hdone
  exact MbState.noConfusion hdone

end

section
/-! PROOFS. A relayed bundle line (R478, R479). -/

namespace Sys2Proof.Machine

theorem SMap.length_insert_le {α : Type} (m : SMap α) (k : Nat) (y : α) : (SMap.insert m k y).length ≤ m.length + 1 := by
  induction m with
  | nil => exact Nat.le_refl _
  | cons q r ih =>
    obtain ⟨a, x⟩ := q
    rw [SMap.insert]
    split
    · exact Nat.le_succ _
    · split
      · exact Nat.le_refl _
      · exact Nat.succ_le_succ ih

/-- Index and length of a bundle line, as its tag has them. -/
def relayIdx (l : Line) : Nat := l.tag.toNat / 2 ^ 32 % 2 ^ 32
def relayLen (l : Line) : Nat := l.tag.toNat / 2 ^ 64 % 2 ^ 32

/-- The state with a line kept and forwarded. -/
def State.relayed (s : State) (l : Line) : State :=
  { s with
    boot := { s.boot with relay := SMap.set s.boot.relay (relayIdx l) (some l), relayLen := (relayLen l) }
    out := s.out ++ [.relay l] }

section
variable {s : State} {l : Line} (hub : s.ready 1 = true) (hstage : s.boot.stage1 = true) (hok : s.on (dk .SEC_STATUS_BUNDLE_OK) = false)
include hub hstage hok

/-- The first good copy of an index: it is kept and forwarded, and what follows starts from there. -/
theorem relayLine_keeps (hgood : l.poison = false) (hcheck : lineCheckOk l = true) (hlen : s.boot.relay = [] ∨ (relayLen l) = s.boot.relayLen)
    (hidx : (relayIdx l) < (relayLen l)) (hmax : (relayLen l) ≤ bundleMax / 128) (hnew : SMap.find? s.boot.relay (relayIdx l) = none) :
    ∃ k : Act, (actRelayLine l false).run s = k.run (s.relayed l) ∧ (s.boot.relay.length + 1 < (relayLen l) → k.run (s.relayed l) = s.relayed l) := by
  have hfixed : (if s.boot.relay.isEmpty = true then (relayLen l) else s.boot.relayLen) = (relayLen l) := by
    rcases hlen with hlen | hlen
    · rw [hlen]
      rfl
    · rw [← hlen, ite_self]
  have hgo : ¬ ((relayLen l) ≠ (relayLen l) ∨ (relayLen l) ≤ (relayIdx l) ∨ bundleMax / 128 < (relayLen l) ∨ (SMap.find? s.boot.relay (relayIdx l)).isSome = true) := by
    rw [hnew]
    simp only [ne_eq, not_true_eq_false, false_or, Option.isSome_none, Bool.false_eq_true, or_false]
    omega
  rw [relayLen, relayIdx] at *
  rw [actRelayLine, Act.run_ask]
  simp only [hub, hstage, hok, hgood, hcheck, Bool.not_true, Bool.or_self, Bool.false_eq_true, if_false, hfixed, hgo,
    Act.run_all_cons, Act.run_all_nil]
  refine ⟨.ask _, rfl, fun hmore => ?_⟩
  rw [Act.run_ask]
  have hshort : (s.relayed l).boot.relay.length < l.tag.toNat / 2 ^ 64 % 2 ^ 32 :=
    (SMap.length_insert_le s.boot.relay _ l).trans_lt hmore
  rw [if_pos hshort, Act.run_done]

omit hub hstage hok in
theorem relayLine_ignores {empty : Bool} (hbad : l.poison = true ∨ empty = true ∨ lineCheckOk l = false ∨
    (SMap.find? s.boot.relay (relayIdx l)).isSome = true) : (actRelayLine l empty).run s = s := by
  rw [actRelayLine, Act.run_ask]
  rcases hbad with hbad | hbad | hbad | hbad
  · simp [hbad]
  · simp [hbad]
  · simp [hbad]
  · rw [relayIdx] at hbad
    dsimp only
    split
    · rfl
    · rw [if_pos (Or.inr (Or.inr (Or.inr hbad)))]
      rfl

end

end Sys2Proof.Machine
end

section

open Sys2Proof Sys2Proof.Machine

/-- Settles O34 (R478, R479). -/
theorem relayedLinesKept : Obligations.RelayedLinesKept := by
  unfold Obligations.RelayedLinesKept
  intro s l hub hstage hok i n
  refine ⟨fun hgood hcheck hlen hidx hmax hnew => ?_, fun empty hbad => congrArg Host.Outcome.next (relayLine_ignores hbad)⟩
  obtain ⟨k, hrun, hmore⟩ := relayLine_keeps hub hstage hok hgood hcheck hlen hidx hmax hnew
  have hout : (s.relayed l).out <+: (k.run (s.relayed l)).out :=
    (k.keeps (goesOn_apply _) (s := s.relayed l) ⟨rfl, List.prefix_refl _, Nat.le_refl _⟩).out
  refine ⟨_, congrArg Host.Outcome.next hrun, hout.subset (List.mem_append_right _ (List.mem_singleton_self _)), fun hshort => ?_⟩
  rw [hmore hshort]
  exact ⟨rfl, SMap.find?_set_self s.boot.relay (relayIdx l) (some l), rfl, fun j hj => SMap.find?_set_of_ne s.boot.relay (some l) hj⟩

end

section
/-! PROOFS. Die temperatures (R466, R517): what the sensors set, the device's own abort at 105 °C, and its tiles' entry of OFF. -/

namespace Sys2Proof.Machine

/-! ## The sensors -/

/-- ALERT reached: the pin is asserted, and a crossing raises its event. -/
def alertReached (above : Bool) (t : Int) : Act :=
  (setR (dk .THERM_STATUS_ALERT_ON) 1).seq (Act.when (!above) (raiseEvent 0x0014 0xFF (bytesLE 2 (signed16 t))))

/-- What a reading of the highest base-die sensor sets. -/
structure DieSensed (s t : State) (v : Int) : Prop where
  temp  : t.rd (dk .THERM_STATUS_TEMP) = signed16 v
  above : t.pwr.above = decide (s.alertLevel ≤ v)
  alert : t.rd (dk .THERM_STATUS_ALERT_ON) = if s.alertLevel ≤ v then 1 else s.rd (dk .THERM_STATUS_ALERT_ON)
  quiet : v < s.alertLevel ∨ s.pwr.above = true → t.events = s.events
  event : s.alertLevel ≤ v → s.pwr.above = false → Raised s t 0x0014 0xFF (bytesLE 2 (signed16 v))
  boot  : t.boot = s.boot

theorem run_dieTemp (temp : Int) (s : State) : (dieTemp temp).run s = (modPwr fun x => { x with above := decide (s.alertLevel ≤ temp) }).run
    ((Act.when (decide (s.alertLevel ≤ temp)) (alertReached s.pwr.above temp)).run ((setR (dk .THERM_STATUS_TEMP) (signed16 temp)).run s)) := by
  rw [dieTemp, Act.run_ask, Act.run_all_next, Act.run_all_next, Act.run_all_last]
  rfl

theorem whenEvent_boot (b : Bool) (c p : Nat) (data : List Nat) (s : State) :
    ((Act.when b (raiseEvent c p data)).run s).boot = s.boot := by
  rw [Act.run_when]
  split
  · exact (raiseEvent_same c p data s).1
  · rfl

theorem dieTemp_senses (temp : Int) (s : State) : DieSensed s ((dieTemp temp).run s) temp := by
  have halert : Fld.THERM_STATUS_ALERT_ON ≠ .THERM_STATUS_TEMP := by decide
  have htemp : ((setR (dk .THERM_STATUS_TEMP) (signed16 temp)).run s).rd (dk .THERM_STATUS_TEMP) = signed16 temp := by
    rw [rd_setR_self]
    exact signed16_clip temp
  rw [run_dieTemp, Act.run_when]
  by_cases hlevel : s.alertLevel ≤ temp
  · have hevents : ∀ {k : FKey}, k.f ∉ eventFlds → ∀ u : State,
        ((Act.when (!s.pwr.above) (raiseEvent 0x0014 0xFF (bytesLE 2 (signed16 temp)))).run u).rd k = u.rd k := fun hk u =>
      rd_whenEvent u hk _ _ _ _
    rw [if_pos (decide_eq_true hlevel), alertReached, Act.run_seq]
    refine ⟨?_, rfl, ?_, ?_, ?_, ?_⟩
    · exact (hevents (show Fld.THERM_STATUS_TEMP ∉ eventFlds by decide) _).trans ((rd_setR_of_ne halert.symm _ _).trans htemp)
    · rw [if_pos hlevel]
      exact (hevents (show Fld.THERM_STATUS_ALERT_ON ∉ eventFlds by decide) _).trans (rd_setR_self _ _ _)
    · rintro (hlow | habove)
      · exact absurd hlevel (not_le.mpr hlow)
      · rw [habove]
        rfl
    · intro _ habove
      rw [habove]
      have hlost : ∀ g ∈ [Fld.THERM_STATUS_ALERT_ON, .THERM_STATUS_TEMP], Fld.EVT_LOST ≠ g := by decide
      refine (raised_raiseEvent _ _ _ ((setR (dk .THERM_STATUS_ALERT_ON) 1).run ((setR (dk .THERM_STATUS_TEMP) (signed16 temp)).run s))).of_before
        rfl rfl ?_
      rw [rd_setR_of_ne (hlost _ (by decide)), rd_setR_of_ne (hlost _ (by decide))]
    · exact (whenEvent_boot _ _ _ _ _).trans rfl
  · rw [if_neg (by simpa using hlevel)]
    refine ⟨htemp, rfl, ?_, fun _ => rfl, fun h => absurd h hlevel, rfl⟩
    rw [if_neg hlevel]
    exact rd_setR_of_ne halert _ s

/-- The sensors' reading goes by what a state tells of ALERT's level, of the events and of the last crossing. -/
theorem DieSensed.of_before {s s' t : State} {temp : Int} (h : DieSensed s' t temp) (hregs : s'.regs = s.regs) (habove : s'.pwr.above = s.pwr.above)
    (hlift : s'.lift = s.lift) (hevents : s'.events = s.events) (hboot : s'.boot = s.boot) : DieSensed s t temp := by
  have hrd := rd_of_regs hregs
  have hlevel : s'.alertLevel = s.alertLevel := by rw [State.alertLevel, hrd, State.alertLevel]
  obtain ⟨htemp, hnow, halert, hquiet, hevent, hboot'⟩ := h
  rw [hlevel] at hnow halert hquiet hevent
  rw [habove] at hquiet hevent
  rw [hrd] at halert
  rw [hevents] at hquiet
  exact ⟨htemp, hnow, halert, hquiet, fun hl ha => (hevent hl ha).of_before hlift hevents (hrd _), hboot'.trans hboot⟩

theorem dieTempAt_senses (p : Nat) (temp : Int) (s : State) : DieSensed s ((dieTempAt p temp).run s) temp :=
  (dieTemp_senses temp _).of_before rfl rfl rfl rfl rfl

/-- The reports of piles are forgotten. -/
def forgetDieTemps : Act := Act.each allPiles fun p => modPile p fun x => { x with dieTemp := none }

theorem forgetDieTemps_same (s : State) : let t := forgetDieTemps.run s
    t.regs = s.regs ∧ t.pwr.above = s.pwr.above ∧ t.lift = s.lift ∧ t.events = s.events ∧ t.boot = s.boot := by
  have honly : forgetDieTemps.Only fun u => ∀ t : State,
      ((u.apply t).regs, (u.apply t).pwr.above, (u.apply t).lift, (u.apply t).events, (u.apply t).boot) =
        (t.regs, t.pwr.above, t.lift, t.events, t.boot) :=
    Act.only_each fun _ _ _ => ⟨fun _ => rfl, trivial⟩
  simpa only [Prod.mk.injEq] using
    honly.same (read := fun t : State => (t.regs, t.pwr.above, t.lift, t.events, t.boot)) (fun u t hu => hu t) s

theorem thermRelease_releases {die dram : Int} {s : State} (hdie : die ≤ s.alertLevel - 32) (hdram : dram ≤ 95 * 16) :
    let t := (actThermRelease die dram).run s
    t.rd (dk .THERM_STATUS_TEMP) = signed16 die ∧ t.rd (dk .THERM_STATUS_ALERT_ON) = 0 := by
  obtain ⟨hregs, habove, hlift, hevents, hboot⟩ := forgetDieTemps_same s
  have hsensed := (dieTemp_senses die (forgetDieTemps.run s)).of_before hregs habove hlift hevents hboot
  dsimp only
  rw [actThermRelease, Act.run_ask, Act.run_seq, Act.run_seq, Act.run_when, if_pos (decide_eq_true ⟨hdie, hdram⟩), ← forgetDieTemps]
  exact ⟨(rd_setR_of_ne (show Fld.THERM_STATUS_TEMP ≠ .THERM_STATUS_ALERT_ON by decide) _ _).trans hsensed.temp, rd_setR_self _ _ _⟩

/-! ## The device aborts itself at 105 °C -/

theorem beside_dieTempAt {fs : List Fld} {r : State} (hsense : ∀ g ∈ [Fld.THERM_STATUS_TEMP, .THERM_STATUS_ALERT_ON], g ∉ fs)
    (hevent : ∀ g ∈ eventFlds, g ∉ fs) (p : Nat) (temp : Int) : (dieTempAt p temp).Keeps (Beside State.doms fs r) :=
  Act.keeps_seq (beside_modPile p fun _ => rfl) <| Act.keeps_asked fun _ => Act.keeps_list
    ⟨beside_setR overlooks_doms (hsense _ (by decide)) _,
      Act.keeps_when (Act.keeps_seq (beside_setR overlooks_doms (hsense _ (by decide)) _)
        (Act.keeps_when (beside_raiseEvent overlooks_doms hevent _ _ _))),
      beside_modPwr fun _ => rfl⟩

section
variable {fs : List Fld} (hfs : ∀ g ∈ abortFlds, g ≠ .THERM_STATUS_HOT_ABORT → g ∉ fs)
include hfs

theorem spares_stopTile (p t : Nat) : (stopTile p t).Only (Upd.Spares fs) := by
  have hkey : ∀ g ∈ [Fld.ARR_BUSY_CLK, .ARR_STALL_CLK, .GOV_STATUS_FILLER, .TSQ_STATUS_RUN, .TSQ_STATUS_STALL, .TSQ_STATUS_IN_IDLE], g ∉ fs :=
    fun g hg => hfs g (by revert g; decide) (by revert g; decide)
  exact Act.only_list ⟨Act.only_each fun a _ _ => Act.only_each fun q _ => only_withFree trivial fun _ => only_withFree trivial fun _ =>
      Act.only_seq (spares_bump (hkey _ (show Fld.ARR_BUSY_CLK ∈ _ by decide)) _) (spares_bump (hkey _ (show Fld.ARR_STALL_CLK ∈ _ by decide)) _),
    fun _ => Act.only_when fun _ => fun _ => Act.only_when fun _ => (spares_setR (hkey _ (show Fld.GOV_STATUS_FILLER ∈ _ by decide)) _),
    spares_setR (hkey _ (show Fld.TSQ_STATUS_RUN ∈ _ by decide)) 0, spares_setR (hkey _ (show Fld.TSQ_STATUS_STALL ∈ _ by decide)) 0,
    spares_setR (hkey _ (show Fld.TSQ_STATUS_IN_IDLE ∈ _ by decide)) 0, spares_modTile p t _⟩

theorem spares_stopPile (p : Nat) : (stopPile p).Only (Upd.Spares fs) := fun _ => by
  have hkey : ∀ g ∈ [Fld.SW_STATUS_STAND_IN, .SW_STATUS_GATE_HELD, .LNK_STATUS_STATE], g ∉ fs :=
    fun g hg => hfs g (by revert g; decide) (by revert g; decide)
  exact Act.only_list ⟨Act.only_each fun t _ => spares_stopTile hfs p t, spares_modPile p _,
    spares_setR (hkey _ (show Fld.SW_STATUS_STAND_IN ∈ _ by decide)) 1, spares_setR (hkey _ (show Fld.SW_STATUS_GATE_HELD ∈ _ by decide)) 1,
    spares_modPile p _, Act.only_each fun k _ => Act.only_seq (fun _ => ⟨trivial, trivial⟩)
      fun _ => Act.only_when fun _ => (spares_setR (hkey _ (show Fld.LNK_STATUS_STATE ∈ _ by decide)) 9)⟩

theorem spares_stopJob (a b : Option Req) : (stopJob a b).Only (Upd.Spares fs) := by
  have hlift : ∀ g ∈ liftFlds, g ∉ fs := fun g hg =>
    hfs g (List.mem_append_right _ (List.mem_cons_of_mem _ hg)) (by revert g; decide)
  have hkey : ∀ g ∈ [Fld.JOB_STATE_WATCHDOG, .JOB_STATE_ABORT_PILES], g ∉ fs := fun g hg => hfs g (by revert g; decide) (by revert g; decide)
  have hreply : ∀ q st d data, (reply q st d data).Only (Upd.Spares fs) := fun q st d data =>
    (lift_reply q st d data).mono (Upd.ofLift_spares hlift)
  have hcut : ∀ q, (cutReq q).Only (Upd.Spares fs)
    | none => trivial
    | some q => hreply q _ _ _
  exact Act.only_list ⟨spares_setR (hkey _ (show Fld.JOB_STATE_WATCHDOG ∈ _ by decide)) 0,
    spares_setR (hkey _ (show Fld.JOB_STATE_ABORT_PILES ∈ _ by decide)) 0, Act.only_each fun p _ => spares_stopPile hfs p,
    fun _ => ⟨trivial, trivial⟩,
    fun _ => Act.only_each fun _ _ => Act.only_each fun _ _ => Act.only_seq (spares_modSession _ _) (hreply _ _ _ _),
    fun _ => Act.only_seq (fun _ => ⟨trivial, trivial⟩) (Act.only_each fun _ _ => hreply _ _ _ _),
    hcut a, hcut b, fun _ => ⟨trivial, trivial⟩, fun _ => ⟨trivial, trivial⟩⟩

end

section
variable {s : State} (thermal : Bool) (hjob : s.jobStarted = true) (hboot : s.boot.run = none)
include hjob hboot

theorem run_selfAbort_started :
    (selfAbort thermal).run s = (stopJob s.job.startReq s.job.resumeReq).run
      ((setR (dk .JOB_STATE_STATE) jsAborting).run ((setB (dk .THERM_STATUS_HOT_ABORT) thermal).run s)) := by
  have hnotlate : ∀ a, Act.when (!(s.jobStarted || s.jobState == jsAborting)) a = .done := fun a => by
    rw [hjob, Bool.true_or]
    rfl
  have hnone : ¬ s.boot.run.isSome = true := by rw [hboot]; exact Bool.false_ne_true
  rw [selfAbort, Act.run_ask, hnotlate, abortNow, Act.run_ask, if_neg hnone, Act.run_all_next, Act.run_all_last, if_pos hjob,
    Act.run_seq, Act.run_done, run_abortStarted]
  rfl

theorem selfAbort_flags : ((selfAbort thermal).run s).rd (dk .THERM_STATUS_HOT_ABORT) = if thermal then 1 else 0 := by
  have hspare : (stopJob s.job.startReq s.job.resumeReq).Only (Upd.Spares [.THERM_STATUS_HOT_ABORT]) :=
    spares_stopJob (fun g _ hg => by rwa [List.mem_singleton]) _ _
  rw [run_selfAbort_started thermal hjob hboot, hspare.rd_spared (show Fld.THERM_STATUS_HOT_ABORT ∈ _ by decide),
    rd_setR_of_ne (show Fld.THERM_STATUS_HOT_ABORT ≠ .JOB_STATE_STATE by decide), setB]
  cases thermal <;> exact rd_setR_self _ _ s

end

/-! ## Tiles and buffers go OFF (R504, R517) -/

/-- The domains of a pile's tiles and of its buffer. -/
def tileDoms (p : Nat) : List Nat := (List.range 9).map (domTile p) ++ [domBuf p]

/-- The domains that go OFF at 105 °C, in their order. -/
def hotDoms : List Nat := allPiles.flatMap tileDoms

theorem mem_hotDoms {d : Nat} (hd : d ∈ hotDoms) : ∃ p j, p < 16 ∧ j < 10 ∧ d = 34 + 32 * p + j := by
  obtain ⟨p, hp, hmem⟩ := List.mem_flatMap.mp hd
  have hp := List.mem_range.mp hp
  rcases List.mem_append.mp hmem with hmem | hmem
  · obtain ⟨i, hi, rfl⟩ := List.mem_map.mp hmem
    exact ⟨p, i, hp, (List.mem_range.mp hi).trans (by decide), rfl⟩
  · exact ⟨p, 9, hp, by decide, by rw [List.mem_singleton.mp hmem, domBuf]; omega⟩

/-- A domain that carries no link leaves none behind. -/
theorem linkLeaves_hot {d : Nat} (hd : d ∈ hotDoms) : linkLeaves d = .done := by
  obtain ⟨p, j, hp, hj, rfl⟩ := mem_hotDoms hd
  rw [linkLeaves, if_neg (by omega), if_neg (by omega), if_neg (by omega)]

theorem hotDoms_lt {d : Nat} (hd : d ∈ hotDoms) : d < 131072 := by
  obtain ⟨p, j, hp, hj, rfl⟩ := mem_hotDoms hd
  omega

theorem hotDoms_nodup : hotDoms.Nodup := by decide +kernel

theorem domTile_hot {q i : Nat} (hq : q < 16) (hi : i < 9) : domTile q i ∈ hotDoms :=
  List.mem_flatMap.mpr ⟨q, List.mem_range.mpr hq, List.mem_append_left _ (List.mem_map.mpr ⟨i, List.mem_range.mpr hi, rfl⟩)⟩

section
variable {d : Nat} {target : Nat}

/-- A domain without a link that enters leaves another's state and transition alone. -/
theorem domKept_enter {e : Nat} {r : State} (hleaves : linkLeaves e = .done) (hd : d < 131072) (he : e < 131072) (hne : d ≠ e) :
    (enter e target).Keeps (DomKept d r) := by
  have hset : ∀ f v, (setR (dk f e) v).Keeps (DomKept d r) := domKept_setR hd he hne
  have hmod : ∀ f, (modDom e f).Keeps (DomKept d r) := domKept_modDom hne
  rw [enter]
  refine Act.keeps_asked fun _ => Act.keeps_ite (hmod _) (Act.keeps_ite (hmod _) (Act.keeps_ite (Act.keeps_done _)
    (Act.keeps_ite (Act.keeps_seq (Act.keeps_seq (hset _ 1) (hmod _)) (hmod _)) ?_)))
  rw [beginEntry, hleaves]
  exact Act.keeps_list ⟨hset _ 1, hmod _, Act.keeps_done _⟩

theorem beside_enter {fs : List Fld} {r : State} (hleaves : linkLeaves d = .done) (hentering : Fld.PWR_STATE_ENTERING ∉ fs)
    (hwaking : Fld.PWR_STATE_WAKING ∉ fs) : (enter d target).Keeps (Beside (fun _ => ()) fs r) := by
  have hunit : Overlooks fun _ : State => () := fun _ _ _ => rfl
  have hmod : ∀ f, (modDom d f).Keeps (Beside (fun _ => ()) fs r) := fun _ => beside_modDom _ fun _ => rfl
  rw [enter]
  refine Act.keeps_asked fun _ => Act.keeps_ite (hmod _) (Act.keeps_ite (hmod _) (Act.keeps_ite (Act.keeps_done _)
    (Act.keeps_ite (Act.keeps_seq (Act.keeps_seq (beside_setR hunit hwaking 1) (hmod _)) (hmod _)) ?_)))
  rw [beginEntry, hleaves]
  exact Act.keeps_list ⟨beside_setR hunit hentering 1, hmod _, Act.keeps_done _⟩

/-- A still domain that is elsewhere begins its entry (R504). -/
theorem enter_begins {s : State} (hleaves : linkLeaves d = .done) (hstill : s.Still d) (hstate : s.power d ≠ target) (hpowered : s.power d ≠ 2) :
    let t := (enter d target).run s
    t.on (pEnter d) = true ∧ (t.dom d).to' = some target := by
  dsimp only
  rw [enter, Act.run_ask, if_neg (by rw [hstill.waking]; decide), if_neg (by rw [hstill.entering]; decide),
    if_neg hstate, if_neg hpowered, beginEntry, hleaves, Act.run_all_next, Act.run_all_next, Act.run_all_last, Act.run_done]
  exact ⟨congrArg (· != 0) (rd_setR_self (pEnter d) 1 s), by rw [dom_modDom_self]⟩

/-- Of several domains that go OFF, each that was powered and still has begun to. -/
theorem each_enter_begins {ds : List Nat} (hds : ds.Nodup) (hall : ∀ e ∈ ds, linkLeaves e = .done ∧ e < 131072) (hd : d ∈ ds) {s : State}
    (hstill : s.Still d) (hstate : s.power d ≠ target) (hpowered : s.power d ≠ 2) :
    let t := (Act.each ds fun e => enter e target).run s
    t.on (pEnter d) = true ∧ (t.dom d).to' = some target := by
  have hlt := (hall d hd).2
  induction ds generalizing s with
  | nil => exact absurd hd List.not_mem_nil
  | cons x xs ih =>
    obtain ⟨hnew, hxs⟩ := List.nodup_cons.mp hds
    obtain ⟨hleaves, hx⟩ := hall x List.mem_cons_self
    have hrest : ∀ e ∈ xs, linkLeaves e = .done ∧ e < 131072 := fun e he => hall e (List.mem_cons_of_mem x he)
    rw [Act.run_each_cons]
    by_cases hdx : d = x
    · subst hdx
      obtain ⟨hentering, hto⟩ := enter_begins hleaves hstill hstate hpowered
      have hkept : DomKept d ((enter d target).run s) _ := Act.keeps_each
        (fun e he => domKept_enter (target := target) (hrest e he).1 hlt (hrest e he).2 fun h => hnew (h ▸ he)) _ (.refl _ _)
      exact ⟨hkept.entering.trans hentering, by rw [hkept.2, hto]⟩
    · have hkept : DomKept d s _ := domKept_enter (target := target) hleaves hlt hx hdx _ (.refl _ s)
      exact ih hxs hrest ((List.mem_cons.mp hd).resolve_left hdx) (hkept.still hstill) (by rwa [hkept.power]) (by rwa [hkept.power])

end

/-- Every tile and buffer goes OFF. -/
def tilesOff : Act := Act.each hotDoms fun d => enter d 2

theorem beside_tilesOff {fs : List Fld} {r : State} (hentering : Fld.PWR_STATE_ENTERING ∉ fs) (hwaking : Fld.PWR_STATE_WAKING ∉ fs) :
    tilesOff.Keeps (Beside (fun _ => ()) fs r) :=
  Act.keeps_each fun _ hd => beside_enter (linkLeaves_hot hd) hentering hwaking

theorem run_tilesOff (s : State) : tilesOff.run s =
    (Act.each allPiles (fun p => (Act.each (List.range 9) (fun i => toState (domTile p i) 2 true)).seq (toState (domBuf p) 2 true))).run s := by
  simp [tilesOff, hotDoms, tileDoms, toState, Act.run_each, List.foldl_flatMap, List.foldl_map, List.foldl_append]

theorem run_hotAbort {temp : Int} (hhot : 105 * 16 ≤ temp) (p : Nat) (s : State) :
    (actHotAbort p temp).run s = tilesOff.run ((selfAbort true).run ((dieTempAt p temp).run s)) := by
  rw [actHotAbort, Act.run_seq, Act.run_when, if_pos (decide_eq_true hhot), Act.run_seq, run_tilesOff]

theorem hotAbort_aborts {s : State} (hs : s.Settled) {temp : Int} (hhot : 105 * 16 ≤ temp) (p : Nat) (hjob : s.jobStarted = true)
    (hboot : s.boot.run = none) : let t := (settled (actHotAbort p temp)).run s
    t.jobState = jsAborting ∧ t.rd (dk .THERM_STATUS_HOT_ABORT) = 1 ∧ t.rd (dk .THERM_STATUS_TEMP) = signed16 temp ∧
    ∀ q i, q < 16 → i < 9 → s.Still (domTile q i) → s.power (domTile q i) < 2 →
      t.on (pEnter (domTile q i)) = true ∧ (t.dom (domTile q i)).to' = some 2 := by
  obtain ⟨hsensed, -, -, -, -, hsame⟩ := dieTempAt_senses p temp s
  have hsense : Beside State.doms (.JOB_STATE_STATE :: domFlds) s ((dieTempAt p temp).run s) :=
    .of_keeps (beside_dieTempAt (by decide) (by decide) p temp)
  rw [← hsame] at hboot
  generalize hu : (dieTempAt p temp).run s = u at hsensed hsense hboot
  have hjob' : u.jobStarted = true := by
    rw [State.jobStarted, show u.jobState = s.jobState from hsense.rd _ List.mem_cons_self]
    exact hjob
  have habort : Beside State.doms (.THERM_STATUS_TEMP :: domFlds) u ((selfAbort true).run u) := .of_keeps (abort_selfAbort (by decide) (by decide) true)
  have hflag := selfAbort_flags true hjob' hboot
  have hstate := selfAbort_aborts true hjob' hboot
  have hrun := run_hotAbort hhot p s
  rw [hu] at hrun
  generalize (selfAbort true).run u = v at habort hflag hstate hrun
  have hoff : Beside (fun _ => ()) [.JOB_STATE_STATE, .THERM_STATUS_HOT_ABORT, .THERM_STATUS_TEMP] v (tilesOff.run v) :=
    .of_keeps (beside_tilesOff (by decide) (by decide))
  dsimp only
  rw [run_settled (by rw [hrun]; exact hoff.settled (habort.settled (hsense.settled hs))), hrun]
  refine ⟨(hoff.rd _ (show Fld.JOB_STATE_STATE ∈ _ by decide)).trans hstate, (hoff.rd _ (show Fld.THERM_STATUS_HOT_ABORT ∈ _ by decide)).trans hflag,
    (hoff.rd _ (show Fld.THERM_STATUS_TEMP ∈ _ by decide)).trans ((habort.rd _ List.mem_cons_self).trans hsensed), fun q i hq hi hstill hpower => ?_⟩
  have hkept := (hsense.domKept (fun f hf => List.mem_cons_of_mem _ hf) (domTile q i)).trans
    (habort.domKept (fun f hf => List.mem_cons_of_mem _ hf) (domTile q i))
  have hpowered : v.power (domTile q i) ≠ 2 := by rw [hkept.power]; exact hpower.ne
  exact each_enter_begins hotDoms_nodup (fun e he => ⟨linkLeaves_hot he, hotDoms_lt he⟩) (domTile_hot hq hi) (hkept.still hstill) hpowered hpowered

end Sys2Proof.Machine
end

section

open Sys2Proof Sys2Proof.Machine

/-- Settles O40 (R517). The sensors' fields are read back one by one (`dieTemp_senses`); the abort leaves the domains alone until they enter OFF
one by one (`each_enter_begins`), and nothing after it writes what it has shown. -/
theorem temperaturesAct : Obligations.TemperaturesAct := by
  unfold Obligations.TemperaturesAct
  refine ⟨fun s p temp => ?_, fun s die dram hdie hdram => ⟨_, rfl, thermRelease_releases hdie hdram⟩,
    fun s p temp hq hhot hjob hboot => ⟨_, rfl, hotAbort_aborts hq.settled hhot p.val hjob hboot⟩⟩
  obtain ⟨htemp, habove, halert, hquiet, hevent, -⟩ := dieTempAt_senses p.val temp s
  refine ⟨_, rfl, htemp, ?_⟩
  by_cases hlevel : s.alertLevel ≤ temp
  · rw [if_pos hlevel] at halert ⊢
    exact ⟨halert, habove.trans (decide_eq_true hlevel), hevent hlevel, fun h => hquiet (.inr h)⟩
  · rw [if_neg hlevel] at halert ⊢
    exact ⟨halert, habove.trans (decide_eq_false hlevel), hquiet (.inl (not_le.mp hlevel))⟩

end

section
/-! PROOFS. Rails (R518, R519), the current-ramp governor (R512-R514) and ageing samples (R404-R406). -/

namespace Sys2Proof.Machine

/-! ## A rail is polled -/

theorem run_pmbusPoll_one {s : State} (hen : s.on (dk .PMB_CTL_ENABLE) = true) (hub : s.ready 1 = true) (x : RailReading) :
    (actPmbusPoll [x]).run s = (pollRail x).run s := by
  rw [actPmbusPoll, Act.run_ask, hen, hub, Act.run_when, Bool.and_self, if_pos rfl, Act.run_each_cons, Act.run_each_nil]

theorem pollRail_shows {s : State} {x : RailReading} (hvalid : s.on (dk .PMB_MAP_VALID x.rail.val) = true) :
    let t := (pollRail x).run s
    let f := (Config.freeValue s.free).toNat
    t.rd (dk .PMB_RAIL_VOUT x.rail.val) = clipTo 16 (scaleTo (x.vout.toNat : Int) (signedBits x.voutMode.toNat 0 5) 1000 f).toNat ∧
    t.rd (dk .PMB_RAIL_IOUT x.rail.val) = (linear11 x.iout (f / 2) % 65536).toNat ∧
    t.rd (dk .PMB_RAIL_TEMP x.rail.val) = signed16 (linear11 x.temp (f / 4)) := by
  intro t f
  have hvalid' : ((Upd.draw 1).apply s).on (dk .PMB_MAP_VALID x.rail.val) = true := hvalid
  have hcharge : ∀ (b : Bool) (g : PwrSt → PwrSt) (k : FKey) (u : State), ((Act.when b (modPwr g)).run u).rd k = u.rd k := fun b g k u => by
    rw [Act.run_when]
    split <;> rfl
  have hrun : ∀ k, t.rd k = ((setR (dk .PMB_RAIL_TEMP x.rail.val) (signed16 (linear11 x.temp (f / 4)))).run
      ((setR (dk .PMB_RAIL_IOUT x.rail.val) (linear11 x.iout (f / 2) % 65536).toNat).run
        ((setR (dk .PMB_RAIL_VOUT x.rail.val) (scaleTo (x.vout.toNat : Int) (signedBits x.voutMode.toNat 0 5) 1000 f).toNat).run
          ((Upd.draw 1).apply s)))).rd k := fun k => by
    show ((pollRail x).run s).rd k = _
    rw [pollRail, run_withFree, Act.run_ask]
    dsimp only
    rw [hvalid', Act.run_when, if_pos rfl, Act.run_all_next, Act.run_all_next, Act.run_all_next,
      Act.run_all_last, hcharge]
  rw [hrun, hrun, hrun]
  refine ⟨?_, ?_, ?_⟩
  · rw [rd_setR_of_ne (show Fld.PMB_RAIL_VOUT ≠ .PMB_RAIL_TEMP by decide), rd_setR_of_ne (show Fld.PMB_RAIL_VOUT ≠ .PMB_RAIL_IOUT by decide),
      rd_setR_self]
    rfl
  · rw [rd_setR_of_ne (show Fld.PMB_RAIL_IOUT ≠ .PMB_RAIL_TEMP by decide), rd_setR_self]
    exact Nat.mod_eq_of_lt (show _ < 65536 by omega)
  · rw [rd_setR_self]
    exact signed16_clip _

/-! ## A rail's alert -/

/-- What the alert of one rail shows. -/
structure StatusLatched (s t : State) (r : Nat) (w : BitVec 16) : Prop where
  status : t.rd (dk .PMB_RAIL_STATUS r) = w.toNat
  sent   : Out.clearFaults r ∈ t.out
  rails  : w ≠ 0 → (t.rd (dk .PMB_FAULT_RAILS)).testBit r = true
  bits   : w ≠ 0 → t.rd (dk .PMB_FAULT_BITS) = (s.rd (dk .PMB_FAULT_BITS) ||| w.toNat) % 65536

/-- The fields that show a rail's fault. -/
def statusFlds : List Fld := [.PMB_RAIL_STATUS, .PMB_FAULT_RAILS, .PMB_FAULT_BITS]

theorem StatusLatched.of_after {s t u : State} {r : Nat} {w : BitVec 16} (h : StatusLatched s t r w)
    (hrd : ∀ k : FKey, k.f ∈ statusFlds → u.rd k = t.rd k) (hout : t.out <+: u.out) : StatusLatched s u r w := by
  obtain ⟨hstatus, hsent, hrails, hbits⟩ := h
  have hkeep : ∀ f ∈ statusFlds, ∀ i, u.rd (dk f i) = t.rd (dk f i) := fun f hf i => hrd (dk f i) hf
  refine ⟨?_, hout.subset hsent, ?_, ?_⟩
  · rwa [hkeep _ (by decide)]
  · rwa [hkeep _ (by decide)]
  · rwa [hkeep _ (by decide)]

theorem latchStatus_latches {r : Nat} (hr : r < 16) (w : BitVec 16) (s : State) : StatusLatched s ((latchStatus (r, w)).run s) r w := by
  have hw : clipTo 16 w.toNat = w.toNat := Nat.mod_eq_of_lt w.isLt
  have hrail : (clipTo 16 (s.rd (dk .PMB_FAULT_RAILS) ||| 2 ^ r)).testBit r = true := by
    rw [clipTo, Nat.testBit_mod_two_pow, Nat.testBit_or, Nat.testBit_two_pow_self, Bool.or_true, decide_eq_true hr, Bool.and_true]
  rw [latchStatus, Act.run_ask, Act.run_all_next, Act.run_all_next, Act.run_all_last, Act.run_when]
  split
  · rw [Act.run_seq]
    refine ⟨?_, List.mem_append_right _ (List.mem_singleton_self _), fun _ => ?_, fun _ => rd_setR_self _ _ _⟩
    · refine (rd_setR_of_ne (show Fld.PMB_RAIL_STATUS ≠ .PMB_FAULT_BITS by decide) _ _).trans ?_
      rw [rd_setR_of_ne (show Fld.PMB_RAIL_STATUS ≠ .PMB_FAULT_RAILS by decide), rd_setR_self]
      exact hw
    · refine (congrArg (Nat.testBit · r) (rd_setR_of_ne (show Fld.PMB_FAULT_RAILS ≠ .PMB_FAULT_BITS by decide) _ _)).trans ?_
      rw [rd_setR_self]
      exact hrail
  · next hzero =>
    have hz : w = 0 := by simpa using hzero
    exact ⟨(rd_setR_self _ _ _).trans hw, List.mem_append_right _ (List.mem_singleton_self _), fun h => absurd hz h, fun h => absurd hz h⟩

theorem beside_latchStatus {fs : List Fld} {r : State} (hfs : ∀ g ∈ statusFlds, g ∉ fs) (x : Nat × BitVec 16) :
    (latchStatus x).Keeps (Beside State.doms fs r) :=
  have hset : ∀ f ∈ statusFlds, ∀ (i v : Nat), (setR (dk f i) v).Keeps (Beside State.doms fs r) := fun f hf _ v =>
    beside_setR overlooks_doms (hfs f hf) v
  Act.keeps_asked fun _ => Act.keeps_list ⟨hset _ (by decide) _ _,
    Act.keeps_when (Act.keeps_seq (hset _ (by decide) _ _) (hset _ (by decide) _ _)), beside_send overlooks_doms _⟩

theorem latchStatus_boot (x : Nat × BitVec 16) (s : State) : ((latchStatus x).run s).boot = s.boot := by
  rw [latchStatus, Act.run_ask, Act.run_all_next, Act.run_all_next, Act.run_all_last, Act.run_when]
  split <;> rfl

theorem run_pmbAlert_one {s : State} {r : Nat} (hr : r < 16) (hub : s.ready 1 = true) (hvalid : s.on (dk .PMB_MAP_VALID r) = true)
    (w : BitVec 16) : (actPmbAlert [(r, w)]).run s = (Act.when (railFault w) (selfAbort false)).run ((latchStatus (r, w)).run s) := by
  have hfilter : [(r, w)].filter (fun x => decide (x.1 < 16) && s.on (dk .PMB_MAP_VALID x.1)) = [(r, w)] := by
    simp [hr, hvalid]
  rw [actPmbAlert, Act.run_ask, hfilter, hub, Act.run_when, if_pos rfl, Act.run_seq, Act.run_each_cons, Act.run_each_nil,
    List.any_cons, List.any_nil, Bool.or_false]

theorem pmbAlert_latches {s : State} (hs : s.Settled) {r : Nat} (hr : r < 16) (hub : s.ready 1 = true)
    (hvalid : s.on (dk .PMB_MAP_VALID r) = true) (w : BitVec 16) : let t := (settled (actPmbAlert [(r, w)])).run s
    StatusLatched s t r w ∧ (railFault w = true → s.jobStarted = true → s.boot.run = none → t.jobState = jsAborting) := by
  have hlatched := latchStatus_latches hr w s
  have hbeside : Beside State.doms [.JOB_STATE_STATE] s ((latchStatus (r, w)).run s) := .of_keeps (beside_latchStatus (by decide) _)
  have hboot := latchStatus_boot (r, w) s
  have hrun := run_pmbAlert_one hr hub hvalid w
  generalize (latchStatus (r, w)).run s = u at hlatched hbeside hboot hrun
  have habort : Beside State.doms statusFlds u ((Act.when (railFault w) (selfAbort false)).run u) :=
    .of_keeps (Act.keeps_when (abort_selfAbort (by decide) (by decide) false))
  have hout : u.out <+: ((Act.when (railFault w) (selfAbort false)).run u).out :=
    (Act.keeps (goesOn_apply _) _ (s := u) ⟨rfl, List.prefix_refl _, Nat.le_refl _⟩).out
  dsimp only
  rw [run_settled (by rw [hrun]; exact habort.settled (hbeside.settled hs)), hrun]
  refine ⟨hlatched.of_after habort.rd hout, fun hfault hjob hrun' => ?_⟩
  rw [Act.run_when, if_pos hfault]
  refine selfAbort_aborts false ?_ (by rw [hboot, hrun'])
  rw [State.jobStarted, show u.jobState = s.jobState from hbeside.rd _ (List.mem_singleton_self _)]
  exact hjob

/-! ## The governor (R512-R514) -/

/-- What one update of the governor makes of the measured current `w`, in 10 uA. -/
structure Governed (s t : State) (w : Int) : Prop where
  current : t.rd (dk .GOV_STATUS_CURRENT) = amps16 t.pwr.act
  holding : t.on (dk .GOV_STATUS_HOLDING) = decide (t.pwr.act < s.floorNow)
  target  : t.pwr.prev = if s.jobStarted then
      min (max (max (w + (s.rd (dk .GOV_CTL_RESERVE) : Int) * 100000) s.floorNow) (s.pwr.prev - s.slew16)) (s.pwr.prev + s.slew16)
    else max w (s.pwr.prev - s.slew16)
  actual  : t.pwr.act = w + min s.fillerMax (max 0 (t.pwr.prev - w))

theorem amps16_clip (i : Int) : clipTo 16 (amps16 i) = amps16 i :=
  Nat.mod_eq_of_lt (show min 65535 _ < 65536 by omega)

theorem on_setB_holding (b : Bool) (s : State) : ((setB (dk .GOV_STATUS_HOLDING) b).run s).on (dk .GOV_STATUS_HOLDING) = b := by
  rw [State.on, setB]
  refine (congrArg (· != 0) (rd_setR_self _ _ _)).trans ?_
  cases b <;> rfl

theorem governorUpdate_governs (w : Nat) (s : State) : Governed s ((actGovernorUpdate w).run s) ((w : Int) * 6250) := by
  have hpwr : ∀ (k : FKey) (v : Nat) (u : State), ((setR k v).run u).pwr = u.pwr := fun _ _ _ => rfl
  rw [actGovernorUpdate, Act.run_ask]
  simp only [Act.run_all_cons, Act.run_all_nil]
  generalize (Act.when _ (bump (dk .GOV_SLEW_VIOL))).run s = u
  refine ⟨?_, ?_, rfl, rfl⟩
  · refine (rd_setR_of_ne (show Fld.GOV_STATUS_CURRENT ≠ .GOV_STATUS_HOLDING by decide) _ _).trans ?_
    rw [rd_setR_of_ne (show Fld.GOV_STATUS_CURRENT ≠ .GOV_STATUS_FLOOR by decide),
      rd_setR_of_ne (show Fld.GOV_STATUS_CURRENT ≠ .GOV_STATUS_FILLER by decide), rd_setR_self]
    exact amps16_clip _
  · exact on_setB_holding _ _

theorem fillerMax_nonneg (s : State) : 0 ≤ s.fillerMax := by rw [State.fillerMax]; omega
theorem slew16_nonneg (s : State) : 0 ≤ s.slew16 := by rw [State.slew16]; omega

/-! ## Ageing (R404-R406) -/

/-- The fields that show a domain's prediction. -/
def ageFlds : List Fld := [.AGE_EOL_SAMPLES, .AGE_EOL_VALID, .AGE_EOL_MONTHS]

/-- A domain's samples, its prediction and the core's charge are unchanged. -/
structure AgeKept (d : Nat) (s t : State) : Prop where
  age    : SMap.getD t.pwr.age d [] = SMap.getD s.pwr.age d []
  charge : t.pwr.charge = s.pwr.charge
  rd     : ∀ f ∈ ageFlds, t.rd (dk f d) = s.rd (dk f d)

theorem AgeKept.refl (d : Nat) (s : State) : AgeKept d s s := ⟨rfl, rfl, fun _ _ => rfl⟩

theorem AgeKept.trans {d : Nat} {s t u : State} (h : AgeKept d s t) (k : AgeKept d t u) : AgeKept d s u :=
  ⟨k.age.trans h.age, k.charge.trans h.charge, fun f hf => (k.rd f hf).trans (h.rd f hf)⟩

/-- Changes beside power and the fields of predictions. -/
def Upd.Ageless : Upd → Prop
  | .reg k _ => k.f ∉ ageFlds
  | .clearRegs _ | .restart _ | .pwr _ => False
  | _ => True

theorem Upd.Ageless.spares {u : Upd} (h : u.Ageless) : u.Spares ageFlds := by
  cases u with
  | reg k v => exact h
  | clearRegs _ | restart _ | pwr _ => exact absurd h id
  | _ => trivial

theorem Upd.Ageless.pwr_apply {u : Upd} (h : u.Ageless) (s : State) : (u.apply s).pwr = s.pwr := by
  cases u with
  | openHalf v | openSession v | pushEvent v => simp only [Upd.apply]; split <;> rfl
  | dram a c => exact Upd.pwr_dram a c s
  | sram a l => exact Upd.pwr_sram a l s
  | clearRegs _ | restart _ | pwr _ => exact absurd h id
  | _ => rfl

theorem Upd.ofLift_ageless (u : Upd) (h : u.ofLift) : u.Ageless := by
  cases u with
  | reg k v => exact (show ∀ g ∈ liftFlds, g ∉ ageFlds by decide) _ h
  | clearRegs _ | restart _ | pwr _ => exact absurd h id
  | _ => trivial

section
variable {d : Nat} {r : State}

theorem Act.Only.ageKept {a : Act} (h : a.Only Upd.Ageless) : a.Keeps (AgeKept d r) := fun s hs => by
  have hpwr := h.same (read := State.pwr) (fun u t hu => hu.pwr_apply t) s
  exact hs.trans ⟨by rw [hpwr], by rw [hpwr], fun f hf => (h.mono fun _ hu => hu.spares).rd_spared (k := dk f d) hf s⟩

theorem ageless_setR {k : FKey} (hk : k.f ∉ ageFlds) (v : Nat) : (setR k v).Only Upd.Ageless := ⟨hk, trivial⟩
theorem ageless_bump {k : FKey} (hk : k.f ∉ ageFlds) (n : Nat) : (bump k n).Only Upd.Ageless := only_bump fun _ => hk
theorem ageless_modPile (p : Nat) (f : Pile → Pile) : (modPile p f).Only Upd.Ageless := fun _ => ⟨trivial, trivial⟩
theorem ageless_modFlt (p : Nat) (f : FltSt → FltSt) : (modFlt p f).Only Upd.Ageless := fun _ => ⟨trivial, trivial⟩
theorem ageless_modHop (p q : Nat) (f : UHop → UHop) : (modHop p q f).Only Upd.Ageless := fun _ => ⟨trivial, trivial⟩
theorem ageless_modPort (p k : Nat) (f : Port → Port) : (modPort p k f).Only Upd.Ageless := fun _ => ⟨trivial, trivial⟩
theorem ageless_propose (n : Nat) (e : BitVec 32) : (propose n e).Only Upd.Ageless := fun _ _ => ⟨trivial, trivial⟩
theorem ageless_waxDirty : waxDirty.Only Upd.Ageless := fun _ _ => ⟨trivial, trivial⟩
theorem ageless_send (o : Out) : (send o).Only Upd.Ageless := ⟨trivial, trivial⟩

theorem ageless_raiseEvent (c p : Nat) (b : List Nat) : (raiseEvent c p b).Only Upd.Ageless :=
  only_raiseEvent Upd.ofLift_ageless trivial (fun _ => trivial) (fun _ => show Fld.EVT_LOST ∉ ageFlds by decide) c p b

theorem ageKept_modDom (e : Nat) (f : DomSt → DomSt) : (modDom e f).Keeps (AgeKept d r) :=
  fun _ hs => hs.trans ⟨rfl, rfl, fun _ _ => rfl⟩

theorem ageKept_demandWake (e : Nat) : (demandWake e).Keeps (AgeKept d r) := by
  have hset : ∀ f ∈ [Fld.PWR_STATE_WAKING, .PWR_STATE_LATCHED], ∀ v, (setR (dk f e) v).Keeps (AgeKept d r) := fun f hf v =>
    (ageless_setR (k := dk f e) ((show ∀ f ∈ [Fld.PWR_STATE_WAKING, .PWR_STATE_LATCHED], f ∉ ageFlds by decide) f hf) v).ageKept
  have hwake : (wake e true).Keeps (AgeKept d r) := Act.keeps_asked fun _ =>
    Act.keeps_ite (Act.keeps_seq (hset _ (by decide) _) (ageKept_modDom _ _)) (Act.keeps_ite (ageKept_modDom _ _)
      (Act.keeps_ite (Act.keeps_done _) (Act.keeps_seq (hset _ (by decide) _) (ageKept_modDom _ _))))
  exact Act.keeps_asked fun _ => Act.keeps_ite (Act.keeps_done _) (Act.keeps_ite (Act.keeps_done _) (Act.keeps_seq
    (ageless_bump (show Fld.PWR_DEMAND_WAKES ∉ ageFlds by decide) 1).ageKept (Act.keeps_seq hwake (Act.keeps_when (ageKept_modDom _ _)))))

/-! ### A lane that needs a spare -/

theorem ageKept_routeFrame (p from' : Nat) (f : UFrame) (n : Nat) : (routeFrame p from' f n).Keeps (AgeKept d r) := by
  have hdeliver : ∀ f, (deliverFrame p f).Keeps (AgeKept d r) := fun f => Act.keeps_asked fun _ => Act.keeps_ite
    (Act.keeps_seq (ageKept_demandWake _) (ageless_modPile p _).ageKept) (ageless_send _).ageKept
  induction n generalizing from' f with
  | zero => exact Act.keeps_done _
  | succ n ih =>
    refine Act.keeps_asked fun s => ?_
    split
    · exact ih _ _
    · exact Act.keeps_ite (ih _ _) (hdeliver f)
    · exact Act.keeps_ite (ageless_modHop p _ _).ageKept (ih _ _)

theorem ageKept_dropFrames (p q : Nat) : (dropFrames p q).Keeps (AgeKept d r) :=
  Act.keeps_asked fun _ => Act.keeps_seq (ageless_modHop p q _).ageKept (Act.keeps_each fun _ _ =>
    Act.keeps_seq (Act.keeps_ite (Act.keeps_done _) (Act.keeps_asked fun _ => (ageless_modHop p _ _).ageKept)) (ageKept_routeFrame p 0 _ 2))

theorem ageless_loseLock : loseLock.Only Upd.Ageless := by
  have hcause : ∀ p, (causeNow p cTiming).Only Upd.Ageless := fun _ _ => ⟨trivial, trivial⟩
  exact fun _ => Act.only_ite trivial (Act.only_list ⟨ageless_setR (show Fld.TB_STATUS_HOLDOVER ∉ ageFlds by decide) _,
    ageless_setR (show Fld.TB_STATUS_LOCKED ∉ ageFlds by decide) _, ageless_bump (show Fld.TB_STATUS_LOSS_COUNT ∉ ageFlds by decide) 1,
    Act.only_when fun _ => Act.only_each fun p _ => hcause p, fun _ => ageless_raiseEvent _ _ _,
    Act.only_when fun _ => fun _ => ⟨trivial, trivial⟩⟩)

theorem ageless_parentLost (p q : Nat) : (parentLost p q).Only Upd.Ageless :=
  fun _ => Act.only_when fun _ => fun _ => Act.only_list ⟨ageless_raiseEvent _ _ _, ageless_setR (show Fld.GATE_STATUS_STATE ∉ ageFlds by decide) _,
    ageless_setR (show Fld.JOB_STATE_STATE ∉ ageFlds by decide) _⟩

theorem ageKept_needSpare (p k lane : Nat) : (needSpare p k lane).Keeps (AgeKept d r) := by
  have hport : ∀ f, (modPort p k f).Keeps (AgeKept d r) := fun f => (ageless_modPort p k f).ageKept
  have hnow : (retireNow p k lane).Only Upd.Ageless := Act.only_list
    ⟨ageless_setR (show Fld.LNK_STATUS_STATE ∉ ageFlds by decide) 10, ageless_modPort p k _, ageless_raiseEvent _ _ _⟩
  have hfails : (portFails p k).Keeps (AgeKept d r) := Act.keeps_list
    ⟨ageKept_dropFrames p _, Act.keeps_asked fun _ => Act.keeps_when ageless_loseLock.ageKept, (ageless_parentLost p _).ageKept⟩
  refine Act.keeps_asked fun s => Act.keeps_ite (Act.keeps_done _) (Act.keeps_ite (hport _) (Act.keeps_ite (hport _) ?_))
  split
  · exact Act.keeps_seq (hport _) (ageless_send _).ageKept
  · exact Act.keeps_list ⟨hnow.ageKept, (ageless_propose _ _).ageKept, ageless_waxDirty.ageKept, hfails⟩

/-! ### The action of a crossing (R408) -/

theorem ageless_condemn (p : Nat) (x : PfRec) : (condemn p x).Only Upd.Ageless := by
  have hput : ∀ x, (putRecord p x).Only Upd.Ageless := fun x _ => Act.only_list
    ⟨ageless_modFlt p _, ageless_setR (show Fld.FLT_TILE_PF_INDEX ∉ ageFlds by decide) _, ageless_raiseEvent _ _ _⟩
  have hnone : (noSpare p x).Only Upd.Ageless := Act.only_list
    ⟨hput _, ageless_raiseEvent _ _ _, ageless_propose _ _, ageless_waxDirty⟩
  have hmark : (setR (if x.kind < 4 then pk .FLT_TILE_PERMANENT p x.phys else pk .FLT_TILE_MARGINAL p x.phys) 1).Only Upd.Ageless := by
    split
    · exact ageless_setR (show Fld.FLT_TILE_PERMANENT ∉ ageFlds by decide) 1
    · exact ageless_setR (show Fld.FLT_TILE_MARGINAL ∉ ageFlds by decide) 1
  exact fun _ => Act.only_ite trivial (Act.only_seq hmark (Act.only_ite (hput _) (Act.only_ite hnone
    (Act.only_seq (hput _) (ageless_modFlt p _)))))

theorem ageless_queueWeak (p : Nat) (rows : List Nat) : (queueWeak p rows).Only Upd.Ageless := by
  induction rows with
  | nil => trivial
  | cons x rest ih =>
    exact only_withFree trivial fun _ => Act.only_seq (Act.only_when fun _ => Act.only_seq (ageless_modPile p _)
      fun _ => Act.only_when fun _ => ageless_setR (show Fld.MEM_UE_LOG_QUEUED ∉ ageFlds by decide) 1) ih

theorem ageKept_ageAction (e : Nat) : (ageAction e).Keeps (AgeKept d r) :=
  Act.keeps_asked fun _ => Act.keeps_ite (ageless_condemn _ _).ageKept (Act.keeps_ite
    (Act.keeps_seq (ageless_setR (show Fld.GROOM_CTL_PERIOD_MIN ∉ ageFlds by decide) 60).ageKept (ageless_queueWeak _ _).ageKept)
    (Act.keeps_ite (fun s hs => Act.keeps_when (ageKept_needSpare _ _ _) _ (Act.Only.ageKept (a := emit (.draw 1)) ⟨trivial, trivial⟩ s hs))
      (Act.keeps_done _)))

/-! ### One domain's sample -/

/-- What a sample's prediction sets, where there are samples enough, and what its crossing does (R406-R408). -/
def predict (d old new th : Nat) : Act := Act.all [
  setR (dk .AGE_EOL_VALID d) 1, setR (dk .AGE_EOL_MONTHS d) new,
  Act.when (decide (new < th ∧ th ≤ old)) (Act.all [
    setR (dk .AGE_EOL_QUEUED d) 1, raiseEvent 0x0011 (agePile d) (bytesLE 2 d ++ bytesLE 2 new), ageAction d])]

/-- A domain's samples once one more has come (R404). -/
def State.agedBy (s : State) (d : Nat) (x : AgeSample) : List AgeSample :=
  let y := if d = 192 then { x with quantity := s.pwr.charge } else x
  let all := SMap.getD s.pwr.age d [] ++ [y]
  all.drop (all.length - 90)

theorem run_ageOne (d : Nat) (x : AgeSample) (s : State) : (ageOne d x).run s =
    (Act.when (agesEnough d (s.agedBy d x).length) (predict d (s.rd (dk .AGE_EOL_MONTHS d))
      (ageMonths d (s.agedBy d x) s.pwr.charge (Config.freeValue s.free).toNat) (s.rd (dk .AGE_CTL_THRESH_MONTHS)))).run
    ((setR (dk .AGE_EOL_SAMPLES d) (s.agedBy d x).length).run
      ((modPwr fun w => { w with age := SMap.put [] w.age d (s.agedBy d x) }).run ((Upd.draw 1).apply s))) := by
  rw [ageOne, run_withFree, Act.run_ask, Act.run_all_next, Act.run_all_next, Act.run_all_last]
  rfl

/-- The crossing's action leaves the prediction as it was. -/
theorem ageKept_crossing (b : Bool) (e new : Nat) : (Act.when b (Act.all [
    setR (dk .AGE_EOL_QUEUED e) 1, raiseEvent 0x0011 (agePile e) (bytesLE 2 e ++ bytesLE 2 new), ageAction e])).Keeps (AgeKept d r) :=
  Act.keeps_when (Act.keeps_list ⟨(ageless_setR (show Fld.AGE_EOL_QUEUED ∉ ageFlds by decide) 1).ageKept, (ageless_raiseEvent _ _ _).ageKept,
    ageKept_ageAction e⟩)

/-- Another domain's sample leaves this one's alone. -/
theorem ageKept_ageOne {e : Nat} (hd : d < 131072) (he : e < 131072) (hne : d ≠ e) (x : AgeSample) : (ageOne e x).Keeps (AgeKept d r) := by
  have hset : ∀ f v, (setR (dk f e) v).Keeps (AgeKept d r) := fun f v _ hs =>
    hs.trans ⟨rfl, rfl, fun g _ => Upd.rd_reg_of_ne v _ (code_dk_ne hd he hne g f)⟩
  have hpredict : ∀ old new th, (predict e old new th).Keeps (AgeKept d r) := fun _ _ _ =>
    Act.keeps_list ⟨hset _ _, hset _ _, ageKept_crossing _ _ _⟩
  intro s hs
  rw [run_ageOne]
  refine Act.keeps_when (hpredict _ _ _) _ (hset _ _ _ (hs.trans ⟨?_, rfl, fun _ _ => rfl⟩))
  exact SMap.getD_put_of_ne _ _ _ hne

end

/-- What a domain's sample leaves: it joins the last 90, and with samples enough there is a prediction. -/
structure Aged (s t : State) (d f : Nat) (x : AgeSample) : Prop where
  age     : SMap.getD t.pwr.age d [] = s.agedBy d x
  samples : t.rd (dk .AGE_EOL_SAMPLES d) = (s.agedBy d x).length
  valid   : agesEnough d (s.agedBy d x).length = true → t.rd (dk .AGE_EOL_VALID d) = 1
  months  : agesEnough d (s.agedBy d x).length = true → t.rd (dk .AGE_EOL_MONTHS d) = clipTo 16 (ageMonths d (s.agedBy d x) s.pwr.charge f)

theorem Aged.of_before {s s' t : State} {d f : Nat} {x : AgeSample} (h : Aged s' t d f x) (hkept : AgeKept d s s') : Aged s t d f x := by
  have haged : s'.agedBy d x = s.agedBy d x := by rw [State.agedBy, State.agedBy, hkept.age, hkept.charge]
  obtain ⟨hage, hsamples, hvalid, hmonths⟩ := h
  rw [haged] at hage hsamples hvalid hmonths
  rw [hkept.charge] at hmonths
  exact ⟨hage, hsamples, hvalid, hmonths⟩

theorem Aged.of_after {s t u : State} {d f : Nat} {x : AgeSample} (h : Aged s t d f x) (hkept : AgeKept d t u) : Aged s u d f x :=
  ⟨hkept.age.trans h.age, (hkept.rd _ (show Fld.AGE_EOL_SAMPLES ∈ ageFlds by decide)).trans h.samples,
    fun he => (hkept.rd _ (show Fld.AGE_EOL_VALID ∈ ageFlds by decide)).trans (h.valid he),
    fun he => (hkept.rd _ (show Fld.AGE_EOL_MONTHS ∈ ageFlds by decide)).trans (h.months he)⟩

theorem length_agedBy_le (s : State) (d : Nat) (x : AgeSample) : (s.agedBy d x).length ≤ 90 := by
  rw [State.agedBy, List.length_drop]
  omega

theorem ageOne_ages (d : Nat) (x : AgeSample) (s : State) :
    Aged s ((ageOne d x).run s) d (Config.freeValue s.free).toNat x := by
  have hshort : clipTo 13 (s.agedBy d x).length = (s.agedBy d x).length :=
    Nat.mod_eq_of_lt ((length_agedBy_le s d x).trans_lt (by decide))
  rw [run_ageOne]
  have hage : SMap.getD ((setR (dk .AGE_EOL_SAMPLES d) (s.agedBy d x).length).run
      ((modPwr fun w => { w with age := SMap.put [] w.age d (s.agedBy d x) }).run ((Upd.draw 1).apply s))).pwr.age d [] = s.agedBy d x :=
    SMap.getD_put_self _ _ _ _
  have hsamples := (rd_setR_self (dk .AGE_EOL_SAMPLES d) (s.agedBy d x).length
    ((modPwr fun w => { w with age := SMap.put [] w.age d (s.agedBy d x) }).run ((Upd.draw 1).apply s))).trans hshort
  generalize (setR (dk .AGE_EOL_SAMPLES d) (s.agedBy d x).length).run _ = u at hage hsamples
  rw [Act.run_when]
  split
  · rw [predict, Act.run_all_next, Act.run_all_next, Act.run_all_last]
    generalize hmonths : ageMonths d (s.agedBy d x) s.pwr.charge (Config.freeValue s.free).toNat = months
    refine Aged.of_after (t := (setR (dk .AGE_EOL_MONTHS d) months).run ((setR (dk .AGE_EOL_VALID d) 1).run u))
      ⟨hage, ?_, fun _ => ?_, fun _ => ?_⟩ (ageKept_crossing _ d months _ (.refl d _))
    · rw [rd_setR_of_ne (show Fld.AGE_EOL_SAMPLES ≠ .AGE_EOL_MONTHS by decide), rd_setR_of_ne (show Fld.AGE_EOL_SAMPLES ≠ .AGE_EOL_VALID by decide)]
      exact hsamples
    · rw [rd_setR_of_ne (show Fld.AGE_EOL_VALID ≠ .AGE_EOL_MONTHS by decide), rd_setR_self]
      rfl
    · rw [hmonths]
      exact rd_setR_self _ _ _
  · next hfew => exact ⟨hage, hsamples, fun h => absurd h hfew, fun h => absurd h hfew⟩

/-- Of several samples, each domain's is taken. -/
theorem all_ageOne {xs : List AgeSample} {k d : Nat} {x : AgeSample} (hd : d < 131072) (hk : k ≤ d) (hx : xs[d - k]? = some x)
    (hlen : k + xs.length ≤ 131072) (s : State) :
    ∃ f, Aged s ((Act.all (xs.mapIdx fun i y => ageOne (k + i) y)).run s) d f x := by
  induction xs generalizing k s with
  | nil => simp at hx
  | cons y ys ih =>
    have hshift : (fun i y => ageOne (k + (i + 1)) y) = fun i y => ageOne (k + 1 + i) y := by
      funext i y
      rw [Nat.add_assoc, Nat.add_comm 1]
    rw [List.length_cons] at hlen
    rw [List.mapIdx_cons, Act.run_all_cons, Nat.add_zero, hshift]
    rcases Nat.eq_or_lt_of_le hk with rfl | hlt
    · rw [Nat.sub_self, List.getElem?_cons_zero, Option.some.injEq] at hx
      subst hx
      refine ⟨_, (ageOne_ages k y s).of_after (Act.keeps_all (fun a ha => ?_) _ (.refl k _))⟩
      obtain ⟨i, hi, rfl⟩ := List.mem_mapIdx.mp ha
      exact ageKept_ageOne hd (by omega) (by omega) _
    · have hx' : ys[d - (k + 1)]? = some x := by
        rw [← hx, show d - k = d - (k + 1) + 1 by omega, List.getElem?_cons_succ]
      obtain ⟨f, haged⟩ := ih hlt hx' (by omega) ((ageOne k y).run s)
      exact ⟨f, haged.of_before (ageKept_ageOne hd (by omega) hlt.ne' y _ (.refl d s))⟩

theorem ageingSample_ages {s : State} {xs : List AgeSample} {d : Nat} {x : AgeSample} (hen : s.on (dk .AGE_CTL_ENABLE) = true)
    (hub : s.ready 1 = true) (hd : d < 193) (hx : xs[d]? = some x) : ∃ f, Aged s ((actAgeingSample xs).run s) d f x := by
  have htake : (xs.take 193)[d - 0]? = some x := by rw [Nat.sub_zero, List.getElem?_take_of_lt hd, hx]
  have hlen : 0 + (xs.take 193).length ≤ 131072 := by
    rw [List.length_take]
    omega
  obtain ⟨f, haged⟩ := all_ageOne (hd.trans (by decide)) (Nat.zero_le d) htake hlen s
  rw [actAgeingSample, Act.run_ask, hen, hub, Act.run_when, Bool.and_self, if_pos rfl, Act.run_seq]
  simp only [Nat.zero_add] at haged
  exact ⟨f, haged.of_after (ageless_waxDirty.ageKept _ (.refl d _))⟩

end Sys2Proof.Machine
end

section

open Sys2Proof Sys2Proof.Machine

/-- Settles O41 (R404-R406, R512-R514, R518, R519). A domain's sample is followed through the others (`all_ageOne`): whatever a crossing does, it
leaves the samples, the charge and the predictions alone. -/
theorem telemetryActs : Obligations.TelemetryActs := by
  unfold Obligations.TelemetryActs
  refine ⟨fun s x hen hub hvalid => ?_, fun s r w hs hr hub hvalid => ?_, fun s w => ?_, fun s xs d x hen hub hd hx => ?_⟩
  · exact ⟨_, _, congrArg Host.Outcome.next (run_pmbusPoll_one hen hub x), pollRail_shows hvalid⟩
  · obtain ⟨⟨hstatus, hsent, hrails, hbits⟩, habort⟩ := pmbAlert_latches hs.settled hr hub hvalid w
    exact ⟨_, rfl, hstatus, hsent, fun hw => ⟨hrails hw, hbits hw⟩, habort⟩
  · obtain ⟨hcurrent, hholding, htarget, hactual⟩ := governorUpdate_governs w s
    have hfiller := fillerMax_nonneg s
    have hslew := slew16_nonneg s
    refine ⟨_, rfl, by omega, hcurrent, hholding, by omega, by omega, fun hjob => ?_, fun hjob => ?_⟩
    · rw [htarget, hjob]
      rfl
    · rw [hjob, if_pos rfl] at htarget
      omega
  · obtain ⟨f, hage, hsamples, hvalid, hmonths⟩ := ageingSample_ages hen hub hd hx
    exact ⟨_, f, rfl, hage, hsamples, fun he => ⟨hvalid he, hmonths he⟩⟩

end

section
/-! PROOFS. What a restart of the device leaves (R473, R551-R553), and the pins that start it (R562). -/

namespace Sys2Proof.Machine

/-! ## The registers after a restart -/

/-- Whether AON keeps the register with this code. -/
def aonCode (c : Nat) : Bool := aonFlds.any fun f => f.ctorIdx == codeFld c

theorem aonCode_of_mem {k : FKey} (hk : k.f ∈ aonFlds) : aonCode k.code = true :=
  List.any_eq_true.mpr ⟨k.f, hk, by rw [codeFld_code, beq_self_eq_true]⟩

theorem ctorIdx_aon : ∀ f : Fld, aonFlds.any (fun g => g.ctorIdx == f.ctorIdx) = decide (f ∈ aonFlds) := fun f => by
  cases f <;> rfl

theorem aonCode_of_not_mem {k : FKey} (hk : k.f ∉ aonFlds) : aonCode k.code = false := by
  rw [aonCode, codeFld_code, ctorIdx_aon, decide_eq_false hk]

/-- A register that is not kept reads as the restart sets it. -/
theorem find?_overlay_other {base kept : SMap Nat} {c : Nat} (hc : ∀ q ∈ kept, q.1 ≠ c) : SMap.find? (overlay base kept) c = SMap.find? base c := by
  induction kept generalizing base with
  | nil => rfl
  | cons q r ih =>
    rw [overlay, List.foldl_cons, ← overlay, ih fun x hx => hc x (List.mem_cons_of_mem q hx)]
    exact SMap.find?_set_of_ne _ _ (hc q List.mem_cons_self).symm

theorem rd_powerDown_other {k : FKey} (hk : k.f ∉ aonFlds) (s : State) :
    (powerDown.run s).rd k = (SMap.find? downPower k.code).getD k.f.spec.reset := by
  have hfind : SMap.find? (overlay downPower s.aonRegs) k.code = SMap.find? downPower k.code := find?_overlay_other fun q hq he => by
    have haon : aonCode q.1 = true := (List.mem_filter.mp hq).2
    rw [he, aonCode_of_not_mem hk] at haon
    exact Bool.false_ne_true haon
  exact congrArg (·.getD k.f.spec.reset) hfind

theorem find?_downPower_aon {k : FKey} (hk : k.f ∈ aonFlds) : SMap.find? downPower k.code = none := by
  have hall : ∀ q ∈ downPower, aonCode q.1 = false := by decide +kernel
  refine Option.eq_none_iff_forall_ne_some.mpr fun v hv => ?_
  have haon := hall _ (SMap.mem_of_find? hv)
  rw [aonCode_of_mem hk] at haon
  exact Bool.noConfusion haon

/-- What AON keeps reads as before (R553). -/
theorem rd_powerDown_aon {s : State} (hs : SMap.sorted s.regs = true) {k : FKey} (hk : k.f ∈ aonFlds) : (powerDown.run s).rd k = s.rd k := by
  have hkept : SMap.find? s.aonRegs k.code = SMap.find? s.regs k.code := by
    rw [aonRegs_eq, SMap.find?_dropKeys, ← aonCode, aonCode_of_mem hk, Bool.not_true, if_neg Bool.false_ne_true]
  have hfind : SMap.find? (overlay downPower s.aonRegs) k.code = SMap.find? s.regs k.code := by
    rw [find?_overlay (sorted_aonRegs hs), hkept, find?_downPower_aon hk, Option.or_none]
  exact congrArg (·.getD k.f.spec.reset) hfind

theorem downPower_lists : ∀ d ∈ List.range 544, domainExists d = true → d ≠ 0 →
    SMap.find? downPower (dk .PWR_STATE_STATE d).code = some 2 ∧ SMap.find? downPower (pHeld d).code = some 1 := by decide +kernel

theorem domainExists_lt {d : Nat} (h : domainExists d = true) : d < 544 := by
  simp only [domainExists, Bool.or_eq_true, Bool.and_eq_true, decide_eq_true_eq] at h
  omega

/-! ## Down -/

theorem power_powerDown {d : Nat} (hd : domainExists d = true) (hne : d ≠ 0) (s : State) :
    (powerDown.run s).power d = 2 ∧ (powerDown.run s).on (pHeld d) = true := by
  obtain ⟨hstate, hheld⟩ := downPower_lists d (List.mem_range.mpr (domainExists_lt hd)) hd hne
  constructor
  · rw [State.power, rd_powerDown_other (show Fld.PWR_STATE_STATE ∉ aonFlds by decide), hstate]
    rfl
  · rw [State.on, rd_powerDown_other (show (pHeld d).f ∉ aonFlds from (show Fld.PWR_STATE_PAD_HELD ∉ aonFlds by decide)), hheld]
    rfl

theorem jobState_powerDown (s : State) : (powerDown.run s).jobState = jsNone := by
  rw [State.jobState, rd_powerDown_other (show Fld.JOB_STATE_STATE ∉ aonFlds by decide),
    show SMap.find? downPower (dk .JOB_STATE_STATE).code = none by decide +kernel]
  rfl

theorem powerDown_downs (s : State) : (powerDown.run s).Down :=
  ⟨fun _ hd hne => power_powerDown hd hne s, rfl, rfl, rfl, jobState_powerDown s, ⟨rfl, rfl⟩⟩

/-- The fields that tell whether a device is down. -/
def downFlds : List Fld := [.PWR_STATE_STATE, .PWR_STATE_PAD_HELD, .JOB_STATE_STATE]

theorem State.Down.setR {s : State} (h : s.Down) {k : FKey} (hk : k.f ∉ downFlds) (v : Nat) : ((setR k v).run s).Down := by
  obtain ⟨hoff, hsessions, hhalves, hevents, hjob, hmemory⟩ := h
  have hrd : ∀ f ∈ downFlds, ∀ i, ((Machine.setR k v).run s).rd (dk f i) = s.rd (dk f i) := fun f hf i =>
    rd_setR_of_ne (fun he : f = k.f => hk (he ▸ hf)) v s
  refine ⟨fun d hd hne => ?_, hsessions, hhalves, hevents, (hrd _ (by decide) 0).trans hjob, hmemory⟩
  obtain ⟨hstate, hheld⟩ := hoff d hd hne
  exact ⟨(hrd _ (by decide) d).trans hstate, (congrArg (· != 0) (hrd .PWR_STATE_PAD_HELD (by decide) d)).trans hheld⟩

/-! ## Stage 1 -/

theorem run_startStage1 (s : State) : startStage1.run s = (modBoot fun b => { b with stage1 := false }).run
    ((setR (pHeld 1) 0).run ((setR (dk .PWR_STATE_STATE 1) 0).run (powerDown.run s))) := by
  rw [startStage1, Act.run_all_next, Act.run_all_next, Act.run_all_next, Act.run_all_last]

/-- Stage 1 sets only the hub's state and its held outputs beside what a restart sets. -/
theorem rd_startStage1 {k : FKey} (hstate : k.f ≠ .PWR_STATE_STATE) (hheld : k.f ≠ .PWR_STATE_PAD_HELD) (s : State) :
    (startStage1.run s).rd k = (powerDown.run s).rd k := by
  rw [run_startStage1]
  exact (rd_setR_of_ne (show k.f ≠ (pHeld 1).f from hheld) 0 _).trans (rd_setR_of_ne (show k.f ≠ (dk .PWR_STATE_STATE 1).f from hstate) 0 _)

theorem startStage1_boots (s : State) : (startStage1.run s).Booting := by
  have hpower : ∀ d, (startStage1.run s).power d = ((setR (dk .PWR_STATE_STATE 1) 0).run (powerDown.run s)).power d := fun d => by
    rw [run_startStage1]
    exact rd_setR_of_ne (show (dk .PWR_STATE_STATE d).f ≠ (pHeld 1).f from (show Fld.PWR_STATE_STATE ≠ .PWR_STATE_PAD_HELD by decide)) 0 _
  refine ⟨⟨?_, ?_⟩, fun d hd htwo => ?_, ⟨rfl, rfl⟩, rfl, rfl, ?_, ?_⟩
  · rw [hpower]
    exact rd_setR_self _ _ _
  · rw [run_startStage1]
    exact congrArg (· != 0) (rd_setR_self (pHeld 1) 0 _)
  · have hcode := code_dk_ne ((domainExists_lt hd).trans (by decide)) (show 1 < 131072 by decide) (show d ≠ 1 by omega)
      .PWR_STATE_STATE .PWR_STATE_STATE
    rw [hpower]
    exact (Upd.rd_reg_of_ne 0 _ hcode).trans (power_powerDown hd (by omega) s).1
  · rw [State.jobState, rd_startStage1 (by decide) (by decide)]
    exact jobState_powerDown s
  · rw [rd_startStage1 (by decide) (by decide), rd_powerDown_other (show Fld.SEC_STATUS_BUNDLE_OK ∉ aonFlds by decide),
      show SMap.find? downPower (dk .SEC_STATUS_BUNDLE_OK).code = none by decide +kernel]
    rfl

theorem startStage1_keepsAon {s : State} (hs : SMap.sorted s.regs = true) {k : FKey} (hk : k.f ∈ aonFlds) : (startStage1.run s).rd k = s.rd k := by
  rw [rd_startStage1 (fun he => absurd (he ▸ hk) (by decide)) (fun he => absurd (he ▸ hk) (by decide)), rd_powerDown_aon hs hk]

theorem sorted_of_legal {s : State} (h : s.Legal) : SMap.sorted s.regs = true := ((legal_iff s).mp h).2.1.1

theorem sorted_setR {s : State} (hs : SMap.sorted s.regs = true) (k : FKey) (v : Nat) : SMap.sorted ((setR k v).run s).regs = true :=
  SMap.sorted_set _ _ hs

/-! ## A burn that is cut (R553) -/

theorem cutBurn_regs (s : State) : (cutBurn.run s).regs = s.regs := by
  have hfuse : ∀ b, (emit (.fuse b)).Only fun u => ∀ t : State, (u.apply t).regs = t.regs := fun b => ⟨fun _ => rfl, trivial⟩
  have honly : cutBurn.Only fun u => ∀ t : State, (u.apply t).regs = t.regs := fun s => by
    dsimp only
    split
    · trivial
    · refine only_withFree (fun _ => rfl) fun f => ?_
      split
      · exact Act.only_when fun _ => hfuse _
      · exact hfuse _
      · exact hfuse _
      · trivial
      · trivial
      · exact Act.only_when fun _ => hfuse _
  exact honly.same (read := State.regs) (fun u t hu => hu t) s

theorem cutBurn_idle {s : State} (h : s.sec.burns = []) : cutBurn.run s = s := by
  rw [cutBurn, Act.run_ask, h]
  rfl

/-! ## The pins -/

/-- A restart by a pin takes everything but AON OFF. -/
theorem cutDown_downs {k : FKey} (hk : k.f ∉ downFlds) (v : Nat) (s : State) : ((setR k v).run (powerDown.run (cutBurn.run s))).Down :=
  (powerDown_downs _).setR hk v

theorem pin_keepsAon {s : State} (hs : SMap.sorted s.regs = true) {k : FKey} (v : Nat) {f : Fld} (hf : f ∈ aonFlds) (hne : f ≠ k.f) (i : Nat) :
    ((setR k v).run (powerDown.run s)).rd (dk f i) = s.rd (dk f i) :=
  (rd_setR_of_ne (show (dk f i).f ≠ k.f from hne) v _).trans (rd_powerDown_aon hs hf)

theorem run_pwrGoodFall (s : State) :
    actPwrGoodFall.run s = (setR (dk .PIN_STATUS_PWR_GOOD) 0).run (powerDown.run (cutBurn.run s)) := by
  rw [actPwrGoodFall, Act.run_all_next, Act.run_all_next, Act.run_all_last]

theorem pwrGoodFall_downs {s : State} (hs : SMap.sorted s.regs = true) : let t := actPwrGoodFall.run s
    t.Down ∧ t.rd (dk .PIN_STATUS_PWR_GOOD) = 0 ∧ AonKept s t [.PIN_STATUS_PWR_GOOD] ∧ (s.sec.burns = [] → t.fuses = s.fuses) := by
  have hregs := cutBurn_regs s
  dsimp only
  rw [run_pwrGoodFall]
  refine ⟨cutDown_downs (by decide) 0 s, rd_setR_self _ _ _, fun f hf hbut i => ?_, fun hidle => ?_⟩
  · rw [pin_keepsAon (hregs ▸ hs) 0 hf (fun he : f = .PIN_STATUS_PWR_GOOD => hbut (he ▸ List.mem_singleton_self _)), rd_of_regs hregs]
  · rw [cutBurn_idle hidle]
    rfl

/-- A pin that stage 1 asks for is released: stage 1 starts where the other is there too, and else only the pin is noted. -/
theorem pinRise_boots {s : State} (hs : SMap.sorted s.regs = true) {f g : Fld} (hpins : f = .PIN_STATUS_PWR_GOOD ∧ g = .PIN_STATUS_RESET_N ∨
      f = .PIN_STATUS_RESET_N ∧ g = .PIN_STATUS_PWR_GOOD) : let t := ((setR (dk f) 1).seq stage1IfReady).run s
    t.rd (dk f) = 1 ∧ t.fuses = s.fuses ∧
    if s.on (dk g) = true then t.Booting ∧ t.pwr.pinWake = false else RegsKept s t (fun k => k = dk f) ∧ t.sessions = s.sessions := by
  have hself : ((setR (dk f) 1).run s).rd (dk f) = 1 := by
    rw [rd_setR_self]
    rcases hpins with ⟨rfl, -⟩ | ⟨rfl, -⟩ <;> rfl
  have hother : ((setR (dk f) 1).run s).on (dk g) = s.on (dk g) := by
    refine congrArg (· != 0) (rd_setR_of_ne ?_ 1 s)
    rcases hpins with ⟨rfl, rfl⟩ | ⟨rfl, rfl⟩ <;> exact nofun
  have hf : f ∈ aonFlds := by rcases hpins with ⟨rfl, -⟩ | ⟨rfl, -⟩ <;> decide
  have hready : (((setR (dk f) 1).run s).on (dk .PIN_STATUS_PWR_GOOD) && ((setR (dk f) 1).run s).on (dk .PIN_STATUS_RESET_N)) = s.on (dk g) := by
    have hon : ((setR (dk f) 1).run s).on (dk f) = true := congrArg (· != 0) hself
    rcases hpins with ⟨rfl, rfl⟩ | ⟨rfl, rfl⟩
    · rw [hon, hother, Bool.true_and]
    · rw [hon, hother, Bool.and_true]
  have hsorted := sorted_setR hs (dk f) 1
  have hrest : RegsKept s ((setR (dk f) 1).run s) (fun k => k = dk f) := fun k hk => Upd.rd_reg_of_ne 1 s (hk _ rfl).symm
  have hsame : ((setR (dk f) 1).run s).fuses = s.fuses ∧ ((setR (dk f) 1).run s).sessions = s.sessions := ⟨rfl, rfl⟩
  dsimp only
  rw [Act.run_seq, stage1IfReady, Act.run_ask, hready, Act.run_when]
  generalize (setR (dk f) 1).run s = u at hself hsorted hrest hsame
  split
  · rw [Act.run_seq]
    obtain ⟨hhub, hoff, hstage, hsessions, hhalves, hjob, hbundle⟩ := startStage1_boots u
    exact ⟨(startStage1_keepsAon hsorted (k := dk f) hf).trans hself, hsame.1, ⟨hhub, hoff, hstage, hsessions, hhalves, hjob, hbundle⟩, rfl⟩
  · exact ⟨hself, hsame.1, hrest, hsame.2⟩

/-- Burning a word's parts, one after the other. -/
theorem each_fuse (bs : List Burn) (s : State) :
    (Act.each bs fun b => emit (.fuse b)).run s = { s with fuses := bs.foldl Fuses.burn s.fuses } := by
  induction bs generalizing s with
  | nil => rfl
  | cons b bs ih => rw [Act.run_each_cons, ih, List.foldl_cons]; rfl

/-- The word in progress is burned to its end. -/
def finishBurn (burns : List Burn) : Act := match burns with
  | b :: _ => Act.each b.completed fun x => emit (.fuse x)
  | [] => .done

theorem finishBurn_regs (burns : List Burn) (s : State) : ((finishBurn burns).run s).regs = s.regs := by
  cases burns with
  | nil => rfl
  | cons b rest => rw [finishBurn, each_fuse]

theorem run_resetNAssert (s : State) : actResetNAssert.run s = (setR (dk .PIN_STATUS_RESET_N) 0).run
    ((Act.when (s.on (dk .PIN_STATUS_PWR_GOOD)) ((finishBurn s.sec.burns).seq powerDown)).run s) := by
  rw [actResetNAssert, Act.run_ask, Act.run_all_next, Act.run_all_last]
  cases hburns : s.sec.burns <;> rfl

theorem resetNAssert_downs {s : State} (hs : SMap.sorted s.regs = true) (hgood : s.on (dk .PIN_STATUS_PWR_GOOD) = true) :
    let t := actResetNAssert.run s
    t.Down ∧ AonKept s t [.PIN_STATUS_RESET_N] ∧ ∀ b rest, s.sec.burns = b :: rest → t.fuses = b.completed.foldl Fuses.burn s.fuses := by
  have hregs := finishBurn_regs s.sec.burns s
  dsimp only
  rw [run_resetNAssert, hgood, Act.run_when, if_pos rfl, Act.run_seq]
  refine ⟨(powerDown_downs _).setR (by decide) 0, fun f hf hbut i => ?_, fun b rest hburns => ?_⟩
  · rw [pin_keepsAon (hregs ▸ hs) 0 hf (fun he : f = .PIN_STATUS_RESET_N => hbut (he ▸ List.mem_singleton_self _)), rd_of_regs hregs]
  · rw [hburns, finishBurn, each_fuse]
    rfl

theorem uvTrip_downs {s : State} (hgood : s.on (dk .PIN_STATUS_PWR_GOOD) = true) (rail : Nat) : let t := (actUvTrip rail).run s
    t.Down ∧ t.rd (dk .PIN_STATUS_UV_TRIP) = 1 ∧ t.rd (dk .PIN_STATUS_UV_RAIL) = rail % 4 := by
  dsimp only
  rw [actUvTrip, Act.run_ask, hgood, Bool.not_true, if_neg Bool.false_ne_true, Act.run_all_next, Act.run_all_next, Act.run_all_next, Act.run_all_last]
  refine ⟨(cutDown_downs (by decide) 1 s).setR (by decide) _, ?_, ?_⟩
  · exact (rd_setR_of_ne (show Fld.PIN_STATUS_UV_TRIP ≠ .PIN_STATUS_UV_RAIL by decide) _ _).trans (rd_setR_self _ _ _)
  · exact (rd_setR_self _ _ _).trans (Nat.mod_mod rail 4)

theorem tripped_downs {temp : Int} (hhot : 110 * 16 ≤ temp) (s : State) : let t := (actTripped temp).run s
    t.Down ∧ t.rd (dk .THERM_STATUS_TRIPPED) = 1 := by
  dsimp only
  rw [actTripped, decide_eq_true hhot, Act.run_when, if_pos rfl, Act.run_all_next, Act.run_all_next, Act.run_all_last]
  exact ⟨cutDown_downs (by decide) 1 s, rd_setR_self _ _ _⟩

/-! ## AON's own power -/

/-- AON's registers are as at reset. -/
def clearAon : Act := emit (.clearRegs aonCode)

theorem rd_clearAon {k : FKey} (hk : k.f ∈ aonFlds) (s : State) : (clearAon.run s).rd k = k.f.spec.reset := by
  refine congrArg (Option.getD · k.f.spec.reset) (SMap.find?_dropKeys s.regs aonCode k.code) |>.trans ?_
  rw [aonCode_of_mem hk, if_pos rfl]
  rfl

theorem clearAon_downs {s : State} (h : s.Down) : (clearAon.run s).Down := by
  obtain ⟨hoff, hsessions, hhalves, hevents, hjob, hmemory⟩ := h
  have hrd : ∀ f ∉ aonFlds, ∀ i, (clearAon.run s).rd (dk f i) = s.rd (dk f i) := fun f hf i => by
    refine congrArg (Option.getD · f.spec.reset) ((SMap.find?_dropKeys s.regs aonCode (dk f i).code).trans ?_)
    rw [aonCode_of_not_mem (k := dk f i) hf, if_neg Bool.false_ne_true]
  refine ⟨fun d hd hne => ?_, hsessions, hhalves, hevents, (hrd _ (by decide) 0).trans hjob, hmemory⟩
  obtain ⟨hstate, hheld⟩ := hoff d hd hne
  exact ⟨(hrd _ (by decide) d).trans hstate, (congrArg (· != 0) (hrd .PWR_STATE_PAD_HELD (by decide) d)).trans hheld⟩

/-- The device down, with AON as at reset and no wake waiting. -/
def aonFresh (s : State) : State := (modPwr fun x => { x with pinWake := false }).run (clearAon.run (powerDown.run s))

theorem aonFresh_downs (s : State) : (aonFresh s).Down := by
  obtain ⟨hoff, hsessions, hhalves, hevents, hjob, hmemory⟩ := clearAon_downs (powerDown_downs s)
  exact ⟨hoff, hsessions, hhalves, hevents, hjob, hmemory⟩

theorem rd_aonFresh {k : FKey} (hk : k.f ∈ aonFlds) (s : State) : (aonFresh s).rd k = k.f.spec.reset := rd_clearAon hk _

theorem run_aonPowerUp (s : State) : actAonPowerUp.run s = (setR (dk .PIN_STATUS_XTAL_OK) 1).run
    ((setR (dk .PIN_STATUS_RESET_N) 0).run ((setR (dk .PIN_STATUS_PWR_GOOD) 0).run (aonFresh s))) := by
  rw [actAonPowerUp, Act.run_all_next, Act.run_all_next, Act.run_all_next, Act.run_all_next, Act.run_all_next, Act.run_all_last]
  rfl

theorem run_aonPowerLoss (s : State) : actAonPowerLoss.run s = (setR (dk .PIN_STATUS_HREF_OK) 0).run ((setR (dk .PIN_STATUS_FREF_OK) 0).run
    ((setR (dk .PIN_STATUS_XTAL_OK) 0).run ((setR (dk .PIN_STATUS_RESET_N) 0).run
      ((setR (dk .PIN_STATUS_PWR_GOOD) 0).run (aonFresh (cutBurn.run s)))))) := by
  rw [actAonPowerLoss, Act.run_all_next, Act.run_all_next, Act.run_all_next, Act.run_all_next, Act.run_all_next, Act.run_all_next,
    Act.run_all_next, Act.run_all_next, Act.run_all_last]
  rfl

theorem aonPowerUp_starts (s : State) : let t := actAonPowerUp.run s
    t.Down ∧ t.rd (dk .PIN_STATUS_PWR_GOOD) = 0 ∧ t.rd (dk .PIN_STATUS_RESET_N) = 0 ∧ t.rd (dk .PIN_STATUS_XTAL_OK) = 1 ∧
    ∀ f ∈ aonFlds, f ∉ [Fld.PIN_STATUS_PWR_GOOD, .PIN_STATUS_RESET_N, .PIN_STATUS_XTAL_OK] → ∀ i, t.rd (dk f i) = f.spec.reset := by
  dsimp only
  rw [run_aonPowerUp]
  refine ⟨(((aonFresh_downs s).setR (by decide) 0).setR (by decide) 0).setR (by decide) 1, ?_, ?_, rd_setR_self _ _ _, fun f hf hbut i => ?_⟩
  · rw [rd_setR_of_ne (show Fld.PIN_STATUS_PWR_GOOD ≠ .PIN_STATUS_XTAL_OK by decide),
      rd_setR_of_ne (show Fld.PIN_STATUS_PWR_GOOD ≠ .PIN_STATUS_RESET_N by decide), rd_setR_self]
    rfl
  · rw [rd_setR_of_ne (show Fld.PIN_STATUS_RESET_N ≠ .PIN_STATUS_XTAL_OK by decide), rd_setR_self]
    rfl
  · simp only [List.mem_cons, List.not_mem_nil, or_false, not_or] at hbut
    obtain ⟨hgood, hreset, hxtal⟩ := hbut
    rw [rd_setR_of_ne (show (dk f i).f ≠ .PIN_STATUS_XTAL_OK from hxtal), rd_setR_of_ne (show (dk f i).f ≠ .PIN_STATUS_RESET_N from hreset),
      rd_setR_of_ne (show (dk f i).f ≠ .PIN_STATUS_PWR_GOOD from hgood)]
    exact rd_aonFresh (k := dk f i) hf s

theorem aonPowerLoss_loses (s : State) : let t := actAonPowerLoss.run s
    t.Down ∧ t.rd (dk .PIN_STATUS_PWR_GOOD) = 0 ∧ t.rd (dk .PIN_STATUS_XTAL_OK) = 0 ∧ t.rd (dk .BR_TIME) = 0 := by
  dsimp only
  rw [run_aonPowerLoss]
  refine ⟨(((((aonFresh_downs _).setR (by decide) 0).setR (by decide) 0).setR (by decide) 0).setR (by decide) 0).setR (by decide) 0, ?_, ?_, ?_⟩
  · rw [rd_setR_of_ne (show Fld.PIN_STATUS_PWR_GOOD ≠ .PIN_STATUS_HREF_OK by decide),
      rd_setR_of_ne (show Fld.PIN_STATUS_PWR_GOOD ≠ .PIN_STATUS_FREF_OK by decide),
      rd_setR_of_ne (show Fld.PIN_STATUS_PWR_GOOD ≠ .PIN_STATUS_XTAL_OK by decide),
      rd_setR_of_ne (show Fld.PIN_STATUS_PWR_GOOD ≠ .PIN_STATUS_RESET_N by decide), rd_setR_self]
    rfl
  · rw [rd_setR_of_ne (show Fld.PIN_STATUS_XTAL_OK ≠ .PIN_STATUS_HREF_OK by decide),
      rd_setR_of_ne (show Fld.PIN_STATUS_XTAL_OK ≠ .PIN_STATUS_FREF_OK by decide), rd_setR_self]
    rfl
  · rw [rd_setR_of_ne (show Fld.BR_TIME ≠ .PIN_STATUS_HREF_OK by decide), rd_setR_of_ne (show Fld.BR_TIME ≠ .PIN_STATUS_FREF_OK by decide),
      rd_setR_of_ne (show Fld.BR_TIME ≠ .PIN_STATUS_XTAL_OK by decide), rd_setR_of_ne (show Fld.BR_TIME ≠ .PIN_STATUS_RESET_N by decide),
      rd_setR_of_ne (show Fld.BR_TIME ≠ .PIN_STATUS_PWR_GOOD by decide)]
    exact rd_aonFresh (show Fld.BR_TIME ∈ aonFlds by decide) _

/-! ## Reference clocks -/

theorem on_setB_clock {f : Fld} (hf : f ∈ [Fld.PIN_STATUS_XTAL_OK, .PIN_STATUS_FREF_OK, .PIN_STATUS_HREF_OK]) (ok : Bool) (s : State) :
    ((setB (dk f) ok).run s).on (dk f) = ok := by
  rw [State.on, setB]
  refine (congrArg (· != 0) (rd_setR_self _ _ _)).trans ?_
  revert f
  cases ok <;> decide

end Sys2Proof.Machine
end

section

open Sys2Proof Sys2Proof.Machine

/-- Settles O38 (R517, R551-R553, R562). A restart lays what AON keeps over the registers that it sets: whatever AON does not keep reads as it sets
it (`rd_powerDown_other`), and of a legal state AON's registers read as before (`rd_powerDown_aon`). -/
theorem pinsAct : Obligations.PinsAct := by
  unfold Obligations.PinsAct
  refine ⟨fun s hs => ⟨_, rfl, pwrGoodFall_downs (sorted_of_legal hs)⟩, fun s hs => ⟨_, rfl, pinRise_boots (sorted_of_legal hs) (.inl ⟨rfl, rfl⟩)⟩,
    fun s hs => ⟨_, rfl, ?_, resetNAssert_downs (sorted_of_legal hs)⟩,
    fun s hs => ⟨_, rfl, pinRise_boots (sorted_of_legal hs) (.inr ⟨rfl, rfl⟩)⟩, fun s rail hgood => ⟨_, rfl, uvTrip_downs hgood rail⟩,
    fun s => ⟨_, rfl, aonPowerUp_starts s⟩, fun s => ⟨_, rfl, aonPowerLoss_loses s⟩,
    fun s temp => ⟨fun hhot => ⟨_, rfl, tripped_downs hhot s⟩, fun hcool => ?_⟩,
    fun s ok => ⟨⟨_, rfl, on_setB_clock (by decide) ok s⟩, ⟨_, rfl, on_setB_clock (by decide) ok s⟩, ⟨_, rfl, on_setB_clock (by decide) ok s⟩⟩⟩
  · rw [run_resetNAssert]
    exact rd_setR_self _ _ _
  · refine congrArg Host.Outcome.next ?_
    rw [actTripped, decide_eq_false (not_le.mpr hcool)]
    rfl

end

section
/-! PROOFS. Wakes and entries of domains (R504, R508), the wake pin and signal detect (R509, R553), and POWER_SET (R462, R501). -/

namespace Sys2Proof.Machine

/-! ## What a link that leaves takes with it -/

/-- A domain's state and transition, the entries that are due, the sessions and Lift's own state are unchanged. -/
structure EntryKept (d : Nat) (s t : State) : Prop where
  dom : DomKept d s t
  due : t.pwr.due = s.pwr.due
  ses : SessionsSame s t

theorem SessionsSame.refl (s : State) : SessionsSame s s := ⟨rfl, rfl⟩
theorem SessionsSame.trans {s t u : State} (h : SessionsSame s t) (k : SessionsSame t u) : SessionsSame s u :=
  ⟨k.sessions.trans h.sessions, k.lift.trans h.lift⟩

theorem modPwr_sessionsSame (f : PwrSt → PwrSt) (s : State) : SessionsSame s ((modPwr f).run s) := ⟨rfl, rfl⟩
theorem modDom_sessionsSame (d : Nat) (f : DomSt → DomSt) (s : State) : SessionsSame s ((modDom d f).run s) := ⟨rfl, rfl⟩

theorem EntryKept.refl (d : Nat) (s : State) : EntryKept d s s := ⟨.refl d s, rfl, .refl s⟩
theorem EntryKept.trans {d : Nat} {s t u : State} (h : EntryKept d s t) (k : EntryKept d t u) : EntryKept d s u :=
  ⟨h.dom.trans k.dom, k.due.trans h.due, h.ses.trans k.ses⟩

theorem code_dk_mod_ne {i i' : Nat} (h : i % 131072 ≠ i' % 131072) (f g : Fld) : (dk f i).code ≠ (dk g i').code := by
  simp only [FKey.code, dk]
  omega

/-- Changes of units and of fields that tell nothing of a domain. -/
def Upd.Linked : Upd → Prop
  | .reg k _ => k.f ∉ domFlds
  | .pile _ _ | .port _ _ _ | .bridge _ _ _ | .out _ => True
  | _ => False

section
variable {d : Nat} {r : State}

theorem Act.Only.entryKept {a : Act} (h : a.Only Upd.Linked) : a.Keeps (EntryKept d r) := h.toKeeps fun u s hu hs => by
  refine hs.trans ?_
  cases u with
  | reg k v => exact ⟨⟨fun f hf => rd_setR_of_ne (show f ≠ k.f from fun he => hu (he ▸ hf)) v s, rfl⟩, rfl, ⟨rfl, rfl⟩⟩
  | pile _ _ | port _ _ _ | bridge _ _ _ | out _ => exact ⟨⟨fun _ _ => rfl, rfl⟩, rfl, ⟨rfl, rfl⟩⟩
  | _ => exact absurd hu id

theorem linked_setR {k : FKey} (hk : k.f ∉ domFlds) (v : Nat) : (setR k v).Only Upd.Linked := ⟨hk, trivial⟩
theorem linked_modHop (p q : Nat) (f : UHop → UHop) : (modHop p q f).Only Upd.Linked := fun _ => ⟨trivial, trivial⟩
theorem linked_modPort (p k : Nat) (f : Port → Port) : (modPort p k f).Only Upd.Linked := fun _ => ⟨trivial, trivial⟩

section
variable {e : Nat} (he : d % 131072 ≠ e % 131072)
include he

theorem entryKept_setOther (f : Fld) (v : Nat) : (setR (dk f e) v).Keeps (EntryKept d r) := fun _ hs =>
  hs.trans ⟨⟨fun g _ => Upd.rd_reg_of_ne v _ (code_dk_mod_ne he g f), rfl⟩, rfl, ⟨rfl, rfl⟩⟩

theorem entryKept_modDom (f : DomSt → DomSt) : (modDom e f).Keeps (EntryKept d r) := fun _ hs =>
  hs.trans ⟨⟨fun _ _ => rfl, SMap.getD_put_of_ne _ _ _ (fun h => he (h ▸ rfl))⟩, rfl, ⟨rfl, rfl⟩⟩

theorem entryKept_demandWake : (demandWake e).Keeps (EntryKept d r) := by
  have hwake : (wake e true).Keeps (EntryKept d r) := Act.keeps_asked fun _ =>
    Act.keeps_ite (Act.keeps_seq (entryKept_setOther he _ _) (entryKept_modDom he _)) (Act.keeps_ite (entryKept_modDom he _)
      (Act.keeps_ite (Act.keeps_done _) (Act.keeps_seq (entryKept_setOther he _ _) (entryKept_modDom he _))))
  have hcount : (bump (dk .PWR_DEMAND_WAKES)).Only Upd.Linked := only_bump fun _ => show Fld.PWR_DEMAND_WAKES ∉ domFlds by decide
  exact Act.keeps_asked fun _ => Act.keeps_ite (Act.keeps_done _) (Act.keeps_ite (Act.keeps_done _)
    (Act.keeps_seq hcount.entryKept (Act.keeps_seq hwake (Act.keeps_when (entryKept_modDom he _)))))

end

/-- An endpoint's domain is a switch, a pile's control cores or its memory, never a link. -/
theorem endpointDomain_mod (p ep : Nat) : endpointDomain p ep % 32 < 13 := by
  rw [endpointDomain]
  split
  · rw [domMem]; omega
  · split
    · rw [domSw]; omega
    · rw [domCtl]; omega

section
variable (hlink : 13 ≤ d % 32)
include hlink

theorem entryKept_routeFrame (p from' : Nat) (f : UFrame) (n : Nat) : (routeFrame p from' f n).Keeps (EntryKept d r) := by
  have hdeliver : ∀ f, (deliverFrame p f).Keeps (EntryKept d r) := fun f => by
    have hmod := endpointDomain_mod p f.dstEp
    have hsw : ∀ g, (modSw p g).Only Upd.Linked := fun _ _ => ⟨trivial, trivial⟩
    have hsend : (send (.deliver p f)).Only Upd.Linked := ⟨trivial, trivial⟩
    exact Act.keeps_asked fun _ => Act.keeps_ite
      (Act.keeps_seq (entryKept_demandWake (by omega)) (hsw _).entryKept) hsend.entryKept
  induction n generalizing from' f with
  | zero => exact Act.keeps_done _
  | succ n ih =>
    refine Act.keeps_asked fun s => ?_
    split
    · exact ih _ _
    · exact Act.keeps_ite (ih _ _) (hdeliver f)
    · exact Act.keeps_ite (linked_modHop p _ _).entryKept (ih _ _)

theorem entryKept_dropFrames (p q : Nat) : (dropFrames p q).Keeps (EntryKept d r) :=
  Act.keeps_asked fun _ => Act.keeps_seq (linked_modHop p q _).entryKept (Act.keeps_each fun _ _ =>
    Act.keeps_seq (Act.keeps_ite (Act.keeps_done _) (Act.keeps_asked fun _ => (linked_modHop p _ _).entryKept)) (entryKept_routeFrame hlink p 0 _ 2))

end

/-- What a link takes with it leaves its domain alone. -/
theorem entryKept_linkLeaves (d : Nat) {r : State} : (linkLeaves d).Keeps (EntryKept d r) := by
  have hbridge : ∀ p k st, (bridgeState p k st).Only Upd.Linked := fun _ _ _ => Act.only_each fun _ _ => fun _ => Act.only_when fun _ =>
    linked_setR (show Fld.BRG_STATUS_STATE ∉ domFlds by decide) _
  refine Act.keeps_ite ?_ ?_
  · exact Act.keeps_list ⟨(linked_setR (show Fld.HP_STATUS_STATE ∉ domFlds by decide) 0).entryKept,
      (linked_setR (show Fld.HP_STATUS_RATE ∉ domFlds by decide) 0).entryKept,
      (linked_setR (show Fld.HP_STATUS_LANES_UP ∉ domFlds by decide) 0).entryKept⟩
  · split
    · refine Act.keeps_asked fun _ => Act.keeps_seq (Act.keeps_when ?_) (entryKept_dropFrames (by omega) _ _)
      exact (linked_setR (show Fld.LNK_STATUS_STATE ∉ domFlds by decide) 0).entryKept
    · split
      · exact Act.keeps_list ⟨(hbridge _ _ _).entryKept, entryKept_dropFrames (by omega) _ _, entryKept_dropFrames (by omega) _ _⟩
      · exact Act.keeps_done _

end

/-! ## A transition begins (R504) -/

/-- A transition of domain `d` has begun, towards what `x` says, with its field `k` set. -/
structure Begun (d : Nat) (k : FKey) (x : DomSt) (s t : State) : Prop where
  shown : t.on k = true
  dom   : t.dom d = x
  power : t.power d = s.power d
  due   : t.pwr.due = s.pwr.due
  ses   : SessionsSame s t

theorem power_setShown {d : Nat} {k : FKey} (hk : k = pEnter d ∨ k = pWake d) (s : State) : ((setR k 1).run s).power d = s.power d := by
  refine rd_setR_of_ne (k' := dk .PWR_STATE_STATE d) ?_ 1 s
  rcases hk with rfl | rfl <;> exact nofun

section
variable {d : Nat} {s : State} (hstill : s.Still d)
include hstill

theorem wake_begun (own : Bool) (hpower : s.power d ≠ 0) :
    Begun d (pWake d) { s.dom d with to' := some 0, own := own } s ((wake d own).run s) := by
  rw [wake, Act.run_ask, if_neg (by rw [hstill.entering]; decide), if_neg (by rw [hstill.waking]; decide), if_neg hpower, beginWake, Act.run_seq]
  exact ⟨congrArg (· != 0) (rd_setR_self (pWake d) 1 s), dom_modDom_self d _ _,
    power_setShown (.inr rfl) s, rfl, ⟨rfl, rfl⟩⟩

/-- A domain that is ON or in RET begins to enter. -/
theorem enter_begun {n : Nat} (hn : s.power d ≠ n) (hpower : s.power d ≠ 2) :
    Begun d (pEnter d) { s.dom d with to' := some n } s ((enter d n).run s) := by
  rw [enter, Act.run_ask, if_neg (by rw [hstill.waking]; decide), if_neg (by rw [hstill.entering]; decide), if_neg hn, if_neg hpower,
    beginEntry, Act.run_all_next, Act.run_all_next, Act.run_all_last]
  have hshown : ((modDom d fun x => { x with to' := some n }).run ((setR (pEnter d) 1).run s)).on (pEnter d) = true :=
    congrArg (· != 0) (rd_setR_self (pEnter d) 1 s)
  have hdom : ((modDom d fun x => { x with to' := some n }).run ((setR (pEnter d) 1).run s)).dom d = { s.dom d with to' := some n } :=
    dom_modDom_self d _ _
  have hstate : ((modDom d fun x => { x with to' := some n }).run ((setR (pEnter d) 1).run s)).power d = s.power d :=
    power_setShown (.inl rfl) s
  have hses : SessionsSame s ((modDom d fun x => { x with to' := some n }).run ((setR (pEnter d) 1).run s)) := ⟨rfl, rfl⟩
  have hdue : ((modDom d fun x => { x with to' := some n }).run ((setR (pEnter d) 1).run s)).pwr.due = s.pwr.due := rfl
  generalize (modDom d fun x => { x with to' := some n }).run ((setR (pEnter d) 1).run s) = u at *
  have hkept := entryKept_linkLeaves d (r := u) u (.refl d u)
  exact ⟨hkept.dom.entering.trans hshown, hkept.dom.2.trans hdom, hkept.dom.power.trans hstate, hkept.due.trans hdue, hses.trans hkept.ses⟩

/-- A domain that is OFF reaches another state through a wake (R508). -/
theorem enter_wakes {n : Nat} (hn : n ≠ 2) (hpower : s.power d = 2) :
    Begun d (pWake d) { s.dom d with to' := some 0, own := false, next := some n } s ((enter d n).run s) := by
  rw [enter, Act.run_ask, if_neg (by rw [hstill.waking]; decide), if_neg (by rw [hstill.entering]; decide), if_neg (by rw [hpower]; exact hn.symm),
    if_pos hpower, Act.run_seq, beginWake, Act.run_seq]
  exact ⟨congrArg (· != 0) (rd_setR_self (pWake d) 1 s), by rw [dom_modDom_self, dom_modDom_self]; rfl,
    power_setShown (.inr rfl) s, rfl, ⟨rfl, rfl⟩⟩

end

/-! ## Wake events (R509, R553) -/

theorem wakeHub_wakes (s : State) : let t := wakeHub.run s
    (s.power 1 = 2 → t.Booting) ∧ (s.power 1 = 1 → s.Still 1 → t.on (pWake 1) = true) ∧
    (s.power 1 = 0 → s.on (pEnter 1) = false → s.power 2 ≠ 0 → s.Still 2 → t.on (pWake 2) = true) := by
  dsimp only
  rw [wakeHub, Act.run_ask]
  refine ⟨fun hoff => ?_, fun hret hstill => ?_, fun hon hentering hpower hstill => ?_⟩
  · rw [if_pos hoff]
    exact startStage1_boots s
  · rw [if_neg (by rw [hret]; decide), if_neg (by simp [hret])]
    exact (wake_begun hstill true (by rw [hret]; decide)).shown
  · rw [if_neg (by rw [hon]; decide), if_pos (by rw [hon, hentering]; rfl)]
    exact (wake_begun hstill true hpower).shown

/-- Waking the hub leaves what AON keeps alone. -/
theorem wakeHub_keepsAon {s : State} (hs : SMap.sorted s.regs = true) {f : Fld} (hf : f ∈ aonFlds) (i : Nat) :
    (wakeHub.run s).rd (dk f i) = s.rd (dk f i) := by
  have hwake : ∀ d, ((wake d true).run s).rd (dk f i) = s.rd (dk f i) := fun d =>
    (spares_wake_of (fs := aonFlds) (show ∀ g ∈ wakeFlds, g ∉ aonFlds by decide) d true).rd_spared (k := dk f i) hf s
  rw [wakeHub, Act.run_ask, Act.run_ite, Act.run_ite]
  split
  · exact startStage1_keepsAon hs (k := dk f i) hf
  · split
    · exact hwake 2
    · exact hwake 1

/-- What is under way does not depend on a pin's field. -/
theorem still_setR {s : State} {k : FKey} (hk : k.f ∉ domFlds) (v d : Nat) (h : s.Still d) : ((setR k v).run s).Still d := by
  have hkept : DomKept d s ((setR k v).run s) := ⟨fun f hf => rd_setR_of_ne (show f ≠ k.f from fun he => hk (he ▸ hf)) v s, rfl⟩
  exact hkept.still h

theorem domKept_setField {s : State} {k : FKey} (hk : k.f ∉ domFlds) (v d : Nat) : DomKept d s ((setR k v).run s) :=
  ⟨fun f hf => rd_setR_of_ne (show f ≠ k.f from fun he => hk (he ▸ hf)) v s, rfl⟩

/-- The state in which WAKE's level is shown and its event latched. -/
def State.pinLatched (s : State) : State :=
  (setR (dk .WAKE_LATCH_PIN) 1).run ((setR (dk .PIN_STATUS_WAKE) ((Config.freeValue s.free).toNat % 2)).run ((Upd.draw 1).apply s))

theorem domKept_pinLatched (d : Nat) (s : State) : DomKept d s s.pinLatched :=
  (domKept_setField (s := (Upd.draw 1).apply s) (show (dk .PIN_STATUS_WAKE).f ∉ domFlds by decide) _ d).trans
    (domKept_setField (show (dk .WAKE_LATCH_PIN).f ∉ domFlds by decide) 1 d)

theorem rd_pinLatched {f : Fld} (hlatch : f ≠ .WAKE_LATCH_PIN) (hpin : f ≠ .PIN_STATUS_WAKE) (s : State) : s.pinLatched.rd (dk f) = s.rd (dk f) :=
  (rd_setR_of_ne (k := dk .WAKE_LATCH_PIN) (k' := dk f) hlatch 1 _).trans (rd_setR_of_ne (k := dk .PIN_STATUS_WAKE) (k' := dk f) hpin _ _)

theorem run_actWakePin (held : Nat) (s : State) : (actWakePin held).run s =
    (if held < 1000 ∨ s.on (dk .WAKE_CTL_PIN_EN) = false then (Act.done : Act) else (setR (dk .WAKE_LATCH_PIN) 1).seq
      (if s.on (dk .PIN_STATUS_PWR_GOOD) = true ∧ s.on (dk .PIN_STATUS_RESET_N) = true then wakeHub
       else modPwr fun x => { x with pinWake := true })).run
    ((setR (dk .PIN_STATUS_WAKE) ((Config.freeValue s.free).toNat % 2)).run ((Upd.draw 1).apply s)) := by
  rw [actWakePin, run_withFree, Act.run_ask, Act.run_seq]
  simp only [Bool.not_eq_true']
  rfl

theorem wakePin_wakes {s : State} (hs : SMap.sorted s.regs = true) {held : Nat} (hheld : 1000 ≤ held) (hen : s.on (dk .WAKE_CTL_PIN_EN) = true) :
    let t := (actWakePin held).run s
    t.rd (dk .WAKE_LATCH_PIN) = 1 ∧
    (s.on (dk .PIN_STATUS_PWR_GOOD) = false ∨ s.on (dk .PIN_STATUS_RESET_N) = false → t.pwr = { s.pwr with pinWake := true }) ∧
    (s.on (dk .PIN_STATUS_PWR_GOOD) = true → s.on (dk .PIN_STATUS_RESET_N) = true →
      (s.power 1 = 2 → t.Booting) ∧ (s.power 1 = 1 → s.Still 1 → t.on (pWake 1) = true) ∧
      (s.power 1 = 0 → s.on (pEnter 1) = false → s.power 2 ≠ 0 → s.Still 2 → t.on (pWake 2) = true)) := by
  have hgo : ¬ (held < 1000 ∨ s.on (dk .WAKE_CTL_PIN_EN) = false) := by
    rw [hen]
    simp [hheld]
  have hlatched : s.pinLatched.rd (dk .WAKE_LATCH_PIN) = 1 := rd_setR_self _ _ _
  have hsorted : SMap.sorted s.pinLatched.regs = true := sorted_setR (sorted_setR hs _ _) _ _
  have hdom := fun d => domKept_pinLatched d s
  have hpwr : s.pinLatched.pwr = s.pwr := rfl
  dsimp only
  rw [run_actWakePin, if_neg hgo, Act.run_seq, Act.run_ite, ← State.pinLatched]
  generalize s.pinLatched = u at hlatched hsorted hdom hpwr
  by_cases hpins : s.on (dk .PIN_STATUS_PWR_GOOD) = true ∧ s.on (dk .PIN_STATUS_RESET_N) = true
  · rw [if_pos hpins]
    obtain ⟨hgood, hreset⟩ := hpins
    obtain ⟨hboot, hhub, hport⟩ := wakeHub_wakes u
    rw [(hdom 1).power] at hboot hhub hport
    rw [(hdom 1).entering, (hdom 2).power] at hport
    refine ⟨(wakeHub_keepsAon hsorted (show Fld.WAKE_LATCH_PIN ∈ aonFlds by decide) 0).trans hlatched, ?_,
      fun _ _ => ⟨hboot, fun hret hstill => hhub hret ((hdom 1).still hstill),
        fun hon hentering hpower hstill => hport hon hentering hpower ((hdom 2).still hstill)⟩⟩
    rw [hgood, hreset]
    exact fun h => absurd h (by decide)
  · rw [if_neg hpins]
    refine ⟨hlatched, fun _ => ?_, fun hgood hreset => absurd ⟨hgood, hreset⟩ hpins⟩
    rw [run_modPwr, hpwr]
    rfl

theorem wakePin_ignored {s : State} {held : Nat} (h : held < 1000 ∨ s.on (dk .WAKE_CTL_PIN_EN) = false) :
    RegsKept s ((actWakePin held).run s) (fun k => k = dk .PIN_STATUS_WAKE) ∧ ((actWakePin held).run s).pwr = s.pwr := by
  rw [run_actWakePin, if_pos h]
  exact ⟨fun k hk => Upd.rd_reg_of_ne _ _ (hk _ rfl).symm, rfl⟩

theorem signalDetect_wakes {s : State} (hs : SMap.sorted s.regs = true) (hen : s.on (dk .WAKE_CTL_DETECT_EN) = true) (hret : s.power 2 = 1) :
    let t := actSignalDetect.run s
    t.rd (dk .WAKE_LATCH_DETECT) = 1 ∧ (s.power 1 = 0 → s.on (pEnter 1) = false → s.Still 2 → t.on (pWake 2) = true) := by
  have hdom : ∀ d, DomKept d s ((setR (dk .WAKE_LATCH_DETECT) 1).run s) := domKept_setField (show (dk .WAKE_LATCH_DETECT).f ∉ domFlds by decide) 1
  have hsorted := sorted_setR hs (dk .WAKE_LATCH_DETECT) 1
  have hlatched : ((setR (dk .WAKE_LATCH_DETECT) 1).run s).rd (dk .WAKE_LATCH_DETECT) = 1 := rd_setR_self _ _ _
  dsimp only
  rw [actSignalDetect, Act.run_ask, if_pos ⟨hen, hret⟩, Act.run_seq]
  generalize (setR (dk .WAKE_LATCH_DETECT) 1).run s = u at hdom hsorted hlatched
  obtain ⟨-, -, hport⟩ := wakeHub_wakes u
  rw [(hdom 1).power, (hdom 1).entering, (hdom 2).power] at hport
  exact ⟨(wakeHub_keepsAon hsorted (show Fld.WAKE_LATCH_DETECT ∈ aonFlds by decide) 0).trans hlatched,
    fun hon hentering hstill => hport hon hentering (by rw [hret]; decide) ((hdom 2).still hstill)⟩

/-! ## POWER_SET (R462, R501, R508) -/

theorem depsOk_congr {s t : State} (hpwr : t.pwr = s.pwr) (hpower : ∀ d, t.power d = s.power d) (d n : Nat) : t.depsOk d n = s.depsOk d n := by
  have heff : t.effPower = s.effPower := by
    funext e
    rw [State.effPower, State.dom, hpwr, hpower]
    rfl
  rw [State.depsOk, heff, State.depsOk]

theorem carriesClock_congr {s t : State} (hrd : ∀ f ∈ [Fld.TB_CTL_ENABLE, .TB_CTL_ROOT, .TB_CTL_UP_PILE, .TB_CTL_UP_PORT], t.rd (dk f) = s.rd (dk f))
    (d : Nat) : t.carriesClock d = s.carriesClock d := by
  rw [State.carriesClock, State.on, State.on, hrd _ (by decide), hrd _ (by decide), hrd _ (by decide), hrd _ (by decide)]
  rfl

/-- Domains that are not a pile's carry no clock. -/
theorem carriesClock_low {d : Nat} (hd : d < 32) (s : State) : s.carriesClock d = false := by
  have hsw : (d == domSw (s.rd (dk .TB_CTL_UP_PILE))) = false := beq_false_of_ne (by rw [domSw]; omega)
  have hx : (d == domX (s.rd (dk .TB_CTL_UP_PILE)) (s.rd (dk .TB_CTL_UP_PORT))) = false := beq_false_of_ne (by rw [domX]; omega)
  rw [State.carriesClock, hsw, hx, Bool.or_self, Bool.and_false]

theorem carriesPages_unloaded {s : State} (h : s.jobLoaded = false) (d : Nat) : s.carriesPages d = false := by
  rw [State.carriesPages, h, Bool.and_false, Bool.false_and, Bool.false_and]

section
variable {s : State} {m : LiftMsg} {x : Session}

/-- A due entry that a POWER_SET replaces is no longer due. -/
def notDue (d : Nat) : Act := modPwr fun x => { x with due := x.due.filter fun q => q.1 != d }

/-- POWER_SET of a pile's domain that nothing forbids. -/
theorem run_powerSet_pile (h : s.Accepted m x) (hlen : reqParamLen m = 8) {d n : Nat} (hex : domainExists d = true) (hd : 32 ≤ d) (hn : n ≤ 2)
    (hboot : s.boot.run = none) (hjob : s.jobLoaded = false) (hdeps : s.depsOk d n = true) (hfill : (s.pile ((d - 32) / 32)).mem.fill = none)
    (huse : n ≠ 0 → s.domainInUse d = false) : (actPowerSet m d n).run s =
      (whenSettled d (reqOf m x)).run ((toState d n false).run ((notDue d).run (s.started m))) := by
  have hsame := liftSame_started s m
  have hjob' : (s.started m).jobLoaded = false := hsame.tells.jobLoaded.trans hjob
  have hclock : ¬ (n ≠ 0 ∧ (s.started m).carriesClock d = true) := fun ⟨hne, hc⟩ => by
    rw [carriesClock_congr (fun f hf => hsame.rd (dk f) (show f ∉ liftFlds by revert f; decide))] at hc
    have := huse hne
    rw [State.domainInUse, hc, Bool.true_or] at this
    exact Bool.noConfusion this
  have hfill' : ((s.started m).pile ((d - 32) / 32)).mem.fill.isSome = false := by rw [hsame.pile, hfill, Option.isSome_none]
  rw [actPowerSet, request_heeded h.toHeeded _ _ (fun k hk => by cases hk; exact hlen), Act.run_ask]
  rw [if_neg (by rw [hex]; decide), if_neg (Nat.not_lt.mpr hn), if_neg (by rw [hsame.boot, hboot]; simp), if_neg hclock,
    if_neg (by rw [hjob', Bool.false_and]; decide), if_neg (by rw [carriesPages_unloaded hjob']; simp),
    if_neg (by rw [depsOk_congr hsame.pwr hsame.power, hdeps, hfill']; simp; omega), if_neg (by omega),
    Act.run_all_next, Act.run_all_next, Act.run_all_last, notDue]

/-- A domain that is there already. -/
theorem toState_there {d n : Nat} (own : Bool) {u : State} (hstill : u.Still d) (hpower : u.power d = n) : (toState d n own).run u = u := by
  rw [toState]
  split
  · next hzero =>
    rw [wake, Act.run_ask, if_neg (by rw [hstill.entering]; decide), if_neg (by rw [hstill.waking]; decide), if_pos (hpower.trans hzero), Act.run_done]
  · rw [enter, Act.run_ask, if_neg (by rw [hstill.waking]; decide), if_neg (by rw [hstill.entering]; decide), if_pos hpower, Act.run_done]

/-- What a transition towards `n` has begun. -/
structure Leads (d n : Nat) (s t : State) : Prop where
  power : t.power d = s.power d
  ses   : SessionsSame s t
  reqs  : (t.dom d).reqs = (s.dom d).reqs
  to'   : (t.dom d).to' ≠ none
  leads : if n = 0 ∨ s.power d = 2 then t.on (pWake d) = true ∧ (t.dom d).to' = some 0 ∧ (t.dom d).next = (if n = 0 then none else some n)
    else t.on (pEnter d) = true ∧ (t.dom d).to' = some n

theorem toState_leads {d n : Nat} {u : State} (hstill : u.Still d) (hpower : u.power d ≠ n) : Leads d n u ((toState d n false).run u) := by
  rw [toState]
  by_cases hzero : n = 0
  · subst hzero
    obtain ⟨hshown, hdom, hstate, -, hses⟩ := wake_begun hstill false hpower
    rw [if_pos rfl]
    exact ⟨hstate, hses, by rw [hdom], by rw [hdom]; exact nofun, by rw [if_pos (.inl rfl), hdom]; exact ⟨hshown, rfl, hstill.next⟩⟩
  · rw [if_neg hzero]
    by_cases htwo : u.power d = 2
    · obtain ⟨hshown, hdom, hstate, -, hses⟩ := enter_wakes hstill (fun hn => hpower (htwo.trans hn.symm)) htwo
      exact ⟨hstate, hses, by rw [hdom], by rw [hdom]; exact nofun,
        by rw [if_pos (.inr htwo), hdom, if_neg hzero]; exact ⟨hshown, rfl, rfl⟩⟩
    · obtain ⟨hshown, hdom, hstate, -, hses⟩ := enter_begun hstill hpower htwo
      exact ⟨hstate, hses, by rw [hdom], by rw [hdom]; exact nofun,
        by rw [if_neg (by rintro (h | h); exacts [hzero h, htwo h]), hdom]; exact ⟨hshown, rfl⟩⟩

/-- The reply waits for the transition's end. -/
theorem whenSettled_waits {d : Nat} {u : State} (r : Req) (h : (u.dom d).to' ≠ none) :
    (whenSettled d r).run u = (modDom d fun y => { y with reqs := y.reqs ++ [r] }).run u := by
  have hto : ¬ ((u.dom d).to'.isNone = true ∧ (u.dom d).next.isNone = true) := fun hc => h (Option.isNone_iff_eq_none.mp hc.1)
  rw [whenSettled, Act.run_ask, if_neg hto]

theorem whenSettled_replies {d : Nat} {u : State} (r : Req) (h : u.Still d) : (whenSettled d r).run u = (reply r stOk).run u := by
  rw [whenSettled, Act.run_ask, if_pos ⟨by rw [h.to']; rfl, by rw [h.next]; rfl⟩]

/-- POWER_SET of a pile's domain (R462): what its request leaves. -/
structure PowerSet (s t : State) (m : LiftMsg) (x : Session) (d n : Nat) : Prop where
  power : t.power d = s.power d
  there : s.power d = n → Answered (s.started m) t (reqOf m x) stOk 0 []
  reqs  : s.power d ≠ n → (t.dom d).reqs = (s.dom d).reqs ++ [reqOf m x]
  leads : s.power d ≠ n →
    if n = 0 ∨ s.power d = 2 then t.on (pWake d) = true ∧ (t.dom d).to' = some 0 ∧ (t.dom d).next = (if n = 0 then none else some n)
    else t.on (pEnter d) = true ∧ (t.dom d).to' = some n

theorem powerSet_pile (h : s.Accepted m x) (hlen : reqParamLen m = 8) {d n : Nat} (hex : domainExists d = true) (hd : 32 ≤ d) (hn : n ≤ 2)
    (hboot : s.boot.run = none) (hjob : s.jobLoaded = false) (hdeps : s.depsOk d n = true) (hfill : (s.pile ((d - 32) / 32)).mem.fill = none)
    (huse : n ≠ 0 → s.domainInUse d = false) (hstill : s.Still d) : PowerSet s ((settled (actPowerSet m d n)).run s) m x d n := by
  have hsame := liftSame_started s m
  have hrun := run_powerSet_pile h hlen hex hd hn hboot hjob hdeps hfill huse
  have hkept : DomKept d s (s.started m) :=
    ⟨fun f hf => hsame.rd (dk f d) (show f ∉ liftFlds by revert f; decide), congrArg (fun y : PwrSt => SMap.getD y.doms d {}) hsame.pwr⟩
  have hses : SessionsSame (s.started m) ((notDue d).run (s.started m)) := ⟨rfl, rfl⟩
  have hready : ReplyReady (s.started m) ((notDue d).run (s.started m)) := hses.replyReady rfl
  have hkept : DomKept d s ((notDue d).run (s.started m)) := hkept.trans ⟨fun _ _ => rfl, rfl⟩
  have hstill' := hkept.still hstill
  have hpower' := hkept.power
  by_cases hpower : s.power d = n
  · rw [toState_there false hstill' (hpower'.trans hpower), whenSettled_replies _ hstill'] at hrun
    obtain ⟨hfinal, hans⟩ := command_answers h.toTaken h.lone hready hrun
    refine ⟨?_, fun _ => hans, fun hne => absurd hpower hne, fun hne => absurd hpower hne⟩
    rw [hfinal, (liftSame_reply _ _ _ _ _).power, hpower']
  · obtain ⟨hstate, hsame', hreqs, hto, hleads⟩ := toState_leads (n := n) hstill' (by rwa [hpower'])
    generalize (notDue d).run (s.started m) = u at *
    generalize (toState d n false).run u = v at *
    rw [whenSettled_waits _ hto] at hrun
    have hset : ((actPowerSet m d n).run s).Settled := by
      rw [hrun]
      exact ((hses.trans hsame').trans (modDom_sessionsSame d _ v)).settled (settled_started h.toTaken)
    have hdom := dom_modDom_self d (fun y => { y with reqs := y.reqs ++ [reqOf m x] }) v
    rw [run_settled hset, hrun]
    refine ⟨hstate.trans hpower', fun he => absurd he hpower, fun _ => ?_, fun _ => ?_⟩
    · rw [hdom, hreqs, hkept.2]
    · rw [hpower'] at hleads
      rw [hdom]
      exact hleads

/-- POWER_SET of HUB or HOST_PHY to RET or OFF (R508): answered, and the entry is due. -/
theorem powerSet_host (h : s.Accepted m x) (hlen : reqParamLen m = 8) {d n : Nat} (hd : d = 1 ∨ d = 2) (hn : n = 1 ∨ n = 2)
    (hjob : s.jobLoaded = false) (hdeps : s.depsOk d n = true) : let t := (settled (actPowerSet m d n)).run s
    Answered (s.started m) t (reqOf m x) stOk 0 [] ∧ t.pwr.due.getLast? = some (d, n) ∧ t.power d = s.power d := by
  have hsame := liftSame_started s m
  have hjob' : (s.started m).jobLoaded = false := hsame.tells.jobLoaded.trans hjob
  have hex : domainExists d = true := by rcases hd with rfl | rfl <;> rfl
  have hrun : (actPowerSet m d n).run s = (modPwr fun y => { y with due := y.due.filter (fun q => q.1 != d) ++ [(d, n)] }).run
      ((reply (reqOf m x) stOk).run (s.started m)) := by
    rw [actPowerSet, request_heeded h.toHeeded _ _ (fun k hk => by cases hk; exact hlen), Act.run_ask]
    rw [if_neg (by rw [hex]; decide), if_neg (by omega), if_neg (by simp; omega), if_neg (by rw [carriesClock_low (by omega)]; simp),
      if_neg (by rw [hjob', Bool.false_and]; decide), if_neg (by rw [carriesPages_unloaded hjob']; simp),
      if_neg (by rw [depsOk_congr hsame.pwr hsame.power, hdeps]; simp; omega), if_pos (by omega), Act.run_seq]
  have hset : ((actPowerSet m d n).run s).Settled := by
    rw [hrun]
    exact (modPwr_sessionsSame _ _).settled
      (settled_reply _ _ _ _ (settled_started h.toTaken))
  dsimp only
  rw [run_settled hset, hrun]
  refine ⟨answered_started h.toTaken h.lone stOk 0 [], by rw [run_modPwr]; exact List.getLast?_concat, ?_⟩
  exact ((liftSame_reply _ _ _ _ _).power d).trans (hsame.power d)

end

/-! ## The entry of HUB or HOST_PHY starts (R501, R508) -/

/-- Sessions that end, one by one, are open no more. -/
theorem each_endSession_closes (ids : List Nat) (s : State) : let t := (Act.each ids endSession).run s
    LiftSame s t ∧ (∀ i ∈ ids, t.session? i = none) ∧ ∀ P, SendFree P → s.allSes P → t.allSes P := by
  have honly : ∀ is, (Act.each is endSession).Only Upd.ofLift := fun _ => Act.only_each fun i _ => lift_endSession i
  refine ⟨(honly ids).liftSame s, fun i hi => ?_, fun P hP hs => Act.keeps_each (fun _ _ => keeps_endSession hP _) s hs⟩
  induction ids generalizing s with
  | nil => exact absurd hi List.not_mem_nil
  | cons j js ih =>
    rw [Act.run_each_cons]
    by_cases hj : i ∈ js
    · exact ih _ hj
    · obtain rfl := (List.mem_cons.mp hi).resolve_right hj
      exact (honly js).toKeeps (I := fun t => t.session? i = none) (fun _ _ hu ht => Upd.ofLift_closed hu ht) _ (closed_endSession i s)

theorem sessions_each_endSession (s : State) : ((Act.each (s.sessions.map Session.id) endSession).run s).sessions = [] := by
  obtain ⟨-, hclosed, hall⟩ := each_endSession_closes (s.sessions.map Session.id) s
  have hids := hall (fun y => y.id ∈ s.sessions.map Session.id)
    (fun y z hyz hy => by
      have hid : y.id = z.id := show y.core.id = z.core.id by rw [hyz]
      exact (congrArg (· ∈ s.sessions.map Session.id) hid).mp hy) fun y hy => List.mem_map_of_mem hy
  generalize (Act.each (s.sessions.map Session.id) endSession).run s = t at hclosed hids
  refine List.eq_nil_iff_forall_not_mem.mpr fun y hy => ?_
  have hnone := List.find?_eq_none.mp (hclosed y.id (hids y hy)) y hy
  exact hnone (beq_self_eq_true y.id)

theorem hubEntryStart_enters {s : State} {d n : Nat} {rest : List (Nat × Nat)} (hdue : s.pwr.due = (d, n) :: rest) (hn : n ≠ 0)
    (hpower : s.power d = 0) (hstill : s.Still d) (hdeps : ({ s with pwr := { s.pwr with due := rest } } : State).depsOk d n = true) :
    let t := (actHubEntryStart d).run s
    t.sessions = [] ∧ t.pwr.due = rest ∧ t.on (pEnter d) = true ∧ (t.dom d).to' = some n := by
  have hdeps' : ¬ (!((modPwr fun x => { x with due := rest }).run s).depsOk d n) = true := by
    rw [show (modPwr fun x => { x with due := rest }).run s = { s with pwr := { s.pwr with due := rest } } from rfl, hdeps]
    decide
  dsimp only
  rw [actHubEntryStart, Act.run_ask, hdue]
  dsimp only
  rw [if_neg (by simp), if_neg hdeps', Act.run_all_next, Act.run_all_next, Act.run_all_last]
  have hkept : DomKept d s ((modPwr fun x => { x with due := rest }).run s) := ⟨fun _ _ => rfl, rfl⟩
  have hrest : ((modPwr fun x => { x with due := rest }).run s).pwr.due = rest := rfl
  have hsessions : s.sessions = ((modPwr fun x => { x with due := rest }).run s).sessions := rfl
  generalize (modPwr fun x => { x with due := rest }).run s = u at hkept hrest hsessions
  rw [hsessions]
  have hended := sessions_each_endSession u
  have hsame := (each_endSession_closes (u.sessions.map Session.id) u).1
  generalize (Act.each (u.sessions.map Session.id) endSession).run u = v at hended hsame
  have hkept' : DomKept d s v := hkept.trans
    ⟨fun f hf => hsame.rd (dk f d) (show f ∉ liftFlds by revert f; decide), congrArg (fun y : PwrSt => SMap.getD y.doms d {}) hsame.pwr⟩
  obtain ⟨hshown, hdom, -, hdue', hses⟩ := enter_begun (hkept'.still hstill) (n := n) (by rw [hkept'.power, hpower]; exact hn.symm)
    (by rw [hkept'.power, hpower]; decide)
  exact ⟨hses.sessions.trans hended, by rw [hdue', hsame.pwr, hrest], hshown, by rw [hdom]⟩

theorem hubEntryStart_refused {s : State} {d n : Nat} {rest : List (Nat × Nat)} (hdue : s.pwr.due = (d, n) :: rest)
    (hdeps : ({ s with pwr := { s.pwr with due := rest } } : State).depsOk d n = false) :
    (actHubEntryStart d).run s = { s with pwr := { s.pwr with due := rest } } := by
  have hdeps' : (!((modPwr fun x => { x with due := rest }).run s).depsOk d n) = true := by
    rw [show (modPwr fun x => { x with due := rest }).run s = { s with pwr := { s.pwr with due := rest } } from rfl, hdeps]
    rfl
  rw [actHubEntryStart, Act.run_ask, hdue]
  dsimp only
  rw [if_neg (by simp), if_pos hdeps']
  rfl

end Sys2Proof.Machine
end

section

open Sys2Proof Sys2Proof.Machine

/-- Settles O39 (R509, R553): WAKE's level and latch are AON's, which a boot of the hub keeps (`wakeHub_keepsAon`). -/
theorem wakesAct : Obligations.WakesAct := by
  unfold Obligations.WakesAct
  refine ⟨fun s held hs hheld hen => ⟨_, rfl, wakePin_wakes (sorted_of_legal hs) hheld hen⟩, fun s held h => ⟨_, rfl, wakePin_ignored h⟩,
    fun s hs hen hret => ⟨_, rfl, signalDetect_wakes (sorted_of_legal hs) hen hret⟩, fun s h => congrArg Host.Outcome.next ?_⟩
  have hno : ¬ (s.on (dk .WAKE_CTL_DETECT_EN) = true ∧ s.power 2 = 1) := fun ⟨hen, hret⟩ =>
    h.elim (fun hoff => Bool.noConfusion (hoff.symm.trans hen)) fun hne => hne hret
  rw [actSignalDetect, Act.run_ask, if_neg hno, Act.run_done]

/-- Settles O36 (R462, R501, R508). What a link takes with it as its domain leaves ON reaches other domains only, since no endpoint of a frame
lies in a link's domain (`entryKept_linkLeaves`). -/
theorem powerSetActs : Obligations.PowerSetActs := by
  unfold Obligations.PowerSetActs
  refine ⟨fun s m x d n h hlen hex hd hn hboot hjob hdeps hfill huse hstill => ?_,
    fun s m x d n h hlen hd hn hjob hdeps => ⟨_, rfl, powerSet_host h hlen hd hn hjob hdeps⟩,
    fun s d n rest hdue hn hpower hstill => ⟨fun hdeps => ⟨_, rfl, hubEntryStart_enters hdue hn hpower hstill hdeps⟩,
      fun hdeps => congrArg Host.Outcome.next (hubEntryStart_refused hdue hdeps)⟩⟩
  obtain ⟨hpower, hthere, hreqs, hleads⟩ := powerSet_pile h hlen hex hd hn hboot hjob hdeps hfill huse hstill
  exact ⟨_, rfl, hpower, hthere, fun hne => ⟨hreqs hne, hleads hne⟩⟩

end

section
/-! PROOFS. Commands that open a bulk transfer (R435-R438, R446, R457), and the order of requests on memory (R442). -/

namespace Sys2Proof.Machine

/-! ## Sessions once a request has been taken -/

/-- A property of sessions that neither sending nor the order of messages touches. -/
structure OrderFree (P : Session → Prop) : Prop where
  send : SendFree P
  head : ∀ (y : Session) src v6 un lim, P y → P { y with src := src, v6 := v6, unacked := un, hostLim := lim }
  turn : ∀ (y : Session) dlv recv held, P y → P { y with dlv := dlv, recv := recv, held := held }

section
variable {P : Session → Prop} (hP : OrderFree P)
include hP

theorem keeps_takeAcks (id : Nat) (m : LiftMsg) : (takeAcks id m).Keeps (State.allSes P) := Act.keeps_asked fun s => by
  split
  · exact Act.keeps_done _
  · refine Act.keeps_list ⟨all_modSession (fun y hy => hP.head y m.src m.v6 _ _ hy) id, Act.keeps_each fun u _ => ?_,
      Act.keeps_each fun _ _ => keeps_resend hP.send _ _, keeps_flushWaiting hP.send _ _, Act.keeps_when (keeps_endSession hP.send _)⟩
    split <;> exact fun _ hs => hs

theorem keeps_authed (m : LiftMsg) : (authed m fun _ => .done).Keeps (State.allSes P) := by
  have hcount : ∀ f, (bump (dk f)).Keeps (State.allSes P) := fun f => keeps_bump (dk f) 1
  refine Act.keeps_asked fun _ => Act.keeps_ite (Act.keeps_done _) (Act.keeps_seq (hcount _) (Act.keeps_ite (Act.keeps_done _)
    (Act.keeps_ite (hcount _) (Act.keeps_ite (hcount _) (Act.keeps_asked fun _ => ?_)))))
  split
  · exact Act.keeps_ite (Act.keeps_seq (keeps_takeAcks hP _ m) (Act.keeps_done _)) (hcount _)
  · exact hcount _

theorem allSes_started {s : State} {m : LiftMsg} {x : Session} (h : s.Taken m x) (hs : s.allSes P) : (s.started m).allSes P := by
  have hheard : (s.heard m).allSes P := keeps_authed hP m s hs
  have hturn : ((inTurn m.session 0).run (s.heard m)).allSes P := all_modSession
    (f := fun y => { y with dlv := y.dlv + 1, recv := y.recv + 0, held := y.held.filter (fun h => h.seq != y.dlv) }) (fun y hy => hP.turn y _ _ _ hy) _ _ hheard
  have hdelivered : (s.delivered m 0).allSes P := by
    rw [delivered_eq h.inTurn 0 (Or.inl rfl)]
    exact keeps_sendPlain hP.send _ _ _ hturn
  rw [State.started, requestAny_key h]
  exact hdelivered

end

/-! ## The order of requests on memory (R442) -/

/-- What a session's transfers of some session act on meets no run. -/
def Session.clearOf (id : Nat) (a : LineRun) (y : Session) : Prop := y.id = id → ∀ z ∈ y.xfers, ∀ b ∈ xferRuns z, a.meets b = false

theorem orderFree_clearOf (id : Nat) (a : LineRun) : OrderFree (Session.clearOf id a) := by
  refine ⟨fun y z hcore hy hid w hw => ?_, fun _ _ _ _ _ hy => hy, fun _ _ _ _ hy => hy⟩
  have hids : y.id = z.id := show y.core.id = z.core.id by rw [hcore]
  exact hy (hids.trans hid) w ((xfers_of_core hcore) ▸ hw)

theorem not_meets_ahead {s : State} {m : LiftMsg} {x : Session} (h : s.Taken m x) {a : LineRun} (hnone : s.noneAhead m.session a) :
    ∀ b ∈ (s.started m).runsAhead (reqOf m x), a.meets b = false := by
  obtain ⟨hxfers, hfills⟩ := hnone
  have hses : (s.started m).allSes (Session.clearOf m.session a) :=
    allSes_started (orderFree_clearOf _ _) h fun y hy hid z hz b hb => hxfers y hy hid z hz b hb
  have hparked : (s.started m).lift.parked = [] := (settled_started h).parked
  have hpile := (liftSame_started s m).pile
  intro b hb
  rw [State.runsAhead, hparked] at hb
  simp only [List.filter_nil, List.flatMap_nil, List.append_nil] at hb
  rcases List.mem_append.mp hb with hb | hb
  · obtain ⟨z, hz, hbz⟩ := List.mem_flatMap.mp hb
    obtain ⟨y, hy, hzy⟩ := List.mem_flatMap.mp hz
    obtain ⟨hmem, hid⟩ := List.mem_filter.mp hy
    exact hses y hmem (beq_iff_eq.mp hid) z hzy b hbz
  · obtain ⟨p, hp, hbp⟩ := List.mem_flatMap.mp hb
    rw [hpile] at hbp
    cases hfill : (s.pile p).mem.fill with
    | none =>
      rw [hfill] at hbp
      exact absurd hbp List.not_mem_nil
    | some f =>
      rw [hfill] at hbp
      rw [List.mem_singleton.mp hbp]
      exact hfills p f (List.mem_range.mp hp) hfill

theorem run_inOrder_first {u : State} {r : Req} {c : Instr} {ds : List Nat} (hnone : ∀ a ∈ runsOf c, ∀ b ∈ u.runsAhead r, a.meets b = false)
    (hready : ∀ d ∈ ds, u.ready d = true) (k : Act) : (inOrder r c ds k).run u = k.run u := by
  have hfree : ¬ (runsOf c).any (fun a => (u.runsAhead r).any a.meets) = true := by
    simp only [List.any_eq_true, not_exists, not_and, Bool.not_eq_true]
    exact hnone
  rw [inOrder, Act.run_ask, if_neg hfree, run_whenUp_ready hready]

theorem LiftSame.memUp {s t : State} (h : LiftSame s t) {p : Nat} (hup : s.MemUp p) : t.MemUp p := by
  obtain ⟨hp, hboot, hsw, hctl, hmem⟩ := hup
  exact ⟨hp, by rw [h.boot, hboot], by rw [h.power, hsw], by rw [h.ready, hctl], by rw [h.ready, hmem]⟩

theorem State.MemUp.on {s : State} {p : Nat} (h : s.MemUp p) : ¬ (s.power (domMem p) = 2 ∨ s.power (domSw p) ≠ 0) := by
  have hmem := h.mem
  simp only [State.ready, Bool.and_eq_true, beq_iff_eq] at hmem
  rw [h.sw, hmem.1.1.1]
  decide

theorem State.MemUp.doms {s : State} {p : Nat} (h : s.MemUp p) : ∀ d ∈ [domCtl p, domMem p], s.ready d = true := by
  intro d hd
  rcases List.mem_cons.mp hd with rfl | hd
  · exact h.ctl
  · rw [List.mem_singleton.mp hd]
    exact h.mem

theorem run_onMemory_up {u : State} {p : Nat} (hup : u.MemUp p) {r : Req} {c : Instr}
    (hnone : ∀ a ∈ runsOf c, ∀ b ∈ u.runsAhead r, a.meets b = false) (k : Act) : (onMemory r c p k).run u = k.run u := by
  rw [onMemory, if_neg (Nat.not_le.mpr hup.pile), notBringing, Act.run_ask, if_neg (by rw [hup.boot]; exact Bool.false_ne_true), Act.run_ask,
    if_neg hup.on, run_inOrder_first hnone hup.doms]

/-! ## A transfer is opened -/

theorem openXfer_opens {u : State} {r : Req} {y : Session} (hy : u.session? r.session = some y) {id : Nat} (hfree : ∀ z ∈ y.xfers, z.id ≠ id)
    (off total : Nat) (kind : XKind) (lines : List Line) : let t := (openXfer r id off total kind lines).run u
    t.HasXfer r.session ⟨id, r, kind, total, 0, 0, lines, false⟩ ∧ (∀ i, t.mailbox i = u.mailbox i) ∧ (u.Settled → t.Settled) ∧ LiftSame u t := by
  have hnew : ¬ y.xfers.any (fun t => t.id == id) = true := by
    simp only [List.any_eq_true, beq_iff_eq, not_exists, not_and]
    exact hfree
  dsimp only
  rw [openXfer, Act.run_ask, hy]
  dsimp only
  rw [if_neg hnew]
  refine ⟨⟨_, session?_modSession_self hy _, List.mem_append_right _ (List.mem_singleton_self _)⟩,
    fun i => (Act.Only.sendSame (send_modSession _ _) u).1 i,
    fun hs => settled_modSession (f := fun y => { y with xfers := y.xfers ++ [⟨id, r, kind, total, 0, 0, lines, false⟩] }) _ (fun _ => ⟨rfl, rfl⟩) _ hs,
    (lift_modSession _ _).liftSame u⟩

/-- A command that opens a transfer, from the state that its work beside Lift has left. -/
theorem request_opens {s u : State} {m : LiftMsg} {x : Session} (h : s.Accepted m x) (row : Instr) {n : Option Nat}
    (hn : ∀ k, n = some k → reqParamLen m = k) {k : Req → Act} (hu : ReplyReady (s.started m) u) {id : Nat} (hfree : ∀ z ∈ x.xfers, z.id ≠ id)
    {off total : Nat} {kind : XKind} {lines : List Line} (hk : (k (reqOf m x)).run (s.started m) = (openXfer (reqOf m x) id off total kind lines).run u) :
    let t := (settled (request m row n k)).run s
    Opened s t m ⟨id, reqOf m x, kind, total, 0, 0, lines, false⟩ ∧ (LiftSame s u → LiftSame s t) := by
  obtain ⟨x', hx', hcore⟩ := (started_accepted h.toTaken).1
  obtain ⟨y, hy, hycore⟩ : ∃ y, u.session? m.session = some y ∧ y.core = x'.core := by
    have hmap := hu.core m.session
    rw [hx'] at hmap
    exact Option.map_eq_some_iff.mp hmap
  have hxfers : y.xfers = x.xfers := (xfers_of_core (hycore.trans hcore)).trans rfl
  obtain ⟨hopen, hmb, hset, hsame⟩ := openXfer_opens (r := reqOf m x) hy (hxfers ▸ hfree) off total kind lines
  have hrun := (request_heeded h.toHeeded row n hn k).trans hk
  dsimp only
  rw [run_settled (by rw [hrun]; exact hset (hu.settled (settled_started h.toTaken))), hrun]
  exact ⟨⟨hopen, (hmb m.mailbox).trans (hu.mailbox m.mailbox)⟩, fun hs => hs.trans hsame⟩

/-- One that opens its transfer at once. -/
theorem request_opens_now {s : State} {m : LiftMsg} {x : Session} (h : s.Accepted m x) (row : Instr) {n : Nat} (hn : reqParamLen m = n)
    {k : Req → Act} {id : Nat} (hfree : ∀ z ∈ x.xfers, z.id ≠ id) {off total : Nat} {kind : XKind} {lines : List Line}
    (hk : (k (reqOf m x)).run (s.started m) = (openXfer (reqOf m x) id off total kind lines).run (s.started m)) :
    let t := (settled (request m row (some n) k)).run s
    LiftSame s t ∧ Opened s t m ⟨id, reqOf m x, kind, total, 0, 0, lines, false⟩ := by
  obtain ⟨hopened, hsame⟩ := request_opens h row (n := some n) (fun k hk => by cases hk; exact hn) (.refl _) hfree hk
  exact ⟨hsame (liftSame_started s m), hopened⟩

/-! ## What the commands ask of the state -/

section
variable {s t : State} (h : LiftSame s t)
include h

theorem LiftSame.jobState : t.jobState = s.jobState := h.rd _ (show Fld.JOB_STATE_STATE ∉ liftFlds by decide)

theorem LiftSame.landingRun (p first n : Nat) : t.landingRun p first n = s.landingRun p first n := by
  have hstep : t.step = s.step := h.rd _ (show Fld.TB_STEP ∉ liftFlds by decide)
  have hbank : ∀ line, t.inputBank p line = s.inputBank p line := fun line => by rw [State.inputBank, h.job, State.inputBank]
  have hland : ∀ line, t.landing p line = s.landing p line := fun line => by
    rw [State.landing, State.jobStarted, h.boot, h.pile, h.job, h.jobState, hbank, State.landing, State.jobStarted]
    simp only [State.bankStep, hstep]
    rfl
  induction n generalizing first with
  | zero => rfl
  | succ n ih => rw [State.landingRun, hland, State.landingRun, ih]

theorem LiftSame.scanGranted : t.scanGranted = s.scanGranted := by
  rw [State.scanGranted, h.rd _ (show Fld.SEC_STATUS_DEBUG_SCOPE ∉ liftFlds by decide), State.scanGranted]

theorem LiftSame.loadBusy : t.loadBusy = s.loadBusy := by simp only [State.loadBusy, h.boot, h.pile]

theorem LiftSame.waxRecord : t.waxRecord = s.waxRecord := by
  have hpart : ∀ n, t.waxPart n = s.waxPart n := fun n => by
    simp only [State.waxPart, State.spareBytes, State.wiresUsed, State.weakRows, State.agesHeld, h.boot, h.bridge, h.pile, h.pwr]
  simp only [State.waxRecord, hpart, h.boot]

theorem LiftSame.partDoms (i : Image) (name : BitVec 128) : t.partDoms i name = s.partDoms i name := by
  have hphys : ∀ p j, t.physOf p j = s.physOf p j := fun p j => by
    rw [State.physOf, h.rd (pk .FLT_STATUS_MAP p) (show Fld.FLT_STATUS_MAP ∉ liftFlds by decide), State.physOf]
  simp only [State.partDoms, hphys]

end

/-! ## Reads that a command makes (R358, R446) -/

section
variable {r : State}

theorem ready_raiseEvent (c p : Nat) (b : List Nat) : (raiseEvent c p b).Keeps (ReplyReady r) := by
  have hlift : ∀ {f : LiftSt → LiftSt}, (∀ l, (f l).due = l.due ∧ (f l).again = l.again ∧ (f l).parked = l.parked) →
      (modLift f).Keeps (ReplyReady r) := fun hf s hs => hs.trans (replyReady_modLift hf s)
  have hsend : sendEvent.Keeps (ReplyReady r) := Act.keeps_asked fun t => by
    split
    · exact fun s hs => hs.trans ⟨fun i => core_sendSeq _ _ _ _ s i, fun i => mailbox_sendSeq _ _ _ _ s i, settled_sendSeq _ _ _ _⟩
    · exact Act.keeps_done _
  have hpush : ∀ e, (emit (.pushEvent e)).Keeps (ReplyReady r) := fun _ => keeps_replyReady ⟨⟨trivial, nofun⟩, trivial⟩
  have hlost : (bump (dk .EVT_LOST)).Keeps (ReplyReady r) := keeps_replyReady (only_bump fun _ => ⟨trivial, nofun⟩)
  intro s hs
  rw [raiseEvent, run_withFree]
  refine Act.keeps_asked (fun _ => Act.keeps_ite (Act.keeps_seq (hlift ?_) hsend)
    (Act.keeps_ite (Act.keeps_seq (hlift ?_) (hpush _)) (Act.keeps_seq hlost (hlift ?_)))) _ (hs.trans (replyReady_draw s))
  all_goals exact fun _ => ⟨rfl, rfl, rfl⟩

theorem ready_setR (k : FKey) (v : Nat) : (setR k v).Keeps (ReplyReady r) := keeps_replyReady (unsent_setR k v)
theorem ready_bump (k : FKey) (n : Nat) : (bump k n).Keeps (ReplyReady r) := keeps_replyReady (only_bump fun _ => ⟨trivial, nofun⟩)
theorem ready_modMem (p : Nat) (f : MemSt → MemSt) : (modMem p f).Keeps (ReplyReady r) := keeps_replyReady fun _ => ⟨⟨trivial, nofun⟩, trivial⟩

theorem ready_ceLog (p line : Nat) (fixed : List Nat) (groomer : Bool) : (ceLog p line fixed groomer).Keeps (ReplyReady r) := by
  have hmove : (queueMove p line).Keeps (ReplyReady r) :=
    Act.keeps_seq (ready_modMem p _) (Act.keeps_asked fun _ => Act.keeps_when (ready_setR _ _))
  have htouch : ∀ i n b g, (Act.all [setR (pk .MEM_CE_LOG_BYTES p i) n, setB (pk .MEM_CE_LOG_TSV p i) b, modMem p g]).Keeps (ReplyReady r) :=
    fun i n b g => Act.keeps_list ⟨ready_setR _ _, ready_setR _ _, ready_modMem p g⟩
  refine Act.keeps_asked fun s => ?_
  dsimp only
  split
  · exact Act.keeps_seq (htouch _ _ _ _) (Act.keeps_when (Act.keeps_seq (ready_setR _ _) hmove))
  · exact Act.keeps_list ⟨ready_setR _ _, ready_setR _ _, ready_setR _ _, ready_setR _ _, htouch _ _ _ _, Act.keeps_when (ready_modMem p _)⟩

theorem ready_bucketUp (p : Nat) : (bucketUp p).Keeps (ReplyReady r) := by
  have hevent : (ceEvent p).Keeps (ReplyReady r) := fun s hs => Act.keeps_asked (fun _ => Act.keeps_ite (Act.keeps_done _)
    (Act.keeps_seq (ready_modMem p _) (ready_raiseEvent _ _ _))) _ (hs.trans (replyReady_draw s))
  exact Act.keeps_asked fun _ => Act.keeps_ite (Act.keeps_list ⟨ready_setR _ _, ready_bump _ _, hevent⟩) (ready_bump _ _)

/-- What a read counts and records leaves what a reply needs as it was. -/
theorem ready_accountRead (p line : Nat) (o : ReadOut) (groomer : Bool) : (accountRead p line o groomer).Keeps (ReplyReady r) := by
  refine Act.keeps_seq (ready_bump _ _) ?_
  cases o.kind with
  | data => exact Act.keeps_when (Act.keeps_list ⟨ready_bump _ _, ready_bump _ _, ready_ceLog p line _ _, ready_bucketUp p⟩)
  | poison => exact Act.keeps_seq (ready_bump _ _) (Act.keeps_when (ready_bump _ _))
  | uncorrectable => exact Act.keeps_asked fun _ => Act.keeps_list ⟨ready_bump _ _, ready_bump _ _, ready_setR _ _, ready_setR _ _, ready_setR _ _,
      ready_setR _ _, ready_setR _ _, Act.keeps_when (Act.keeps_seq (ready_modMem p _) (ready_modMem p _))⟩

end

/-- A line is read, and what follows goes on from a state that a reply's needs do not tell from the one before. -/
theorem getLine_ready (p : Nat) (sp : Space) (n x : Nat) (k : Line → Act) (s : State) :
    ∃ l u, (getLine p sp n x k).run s = (k l).run u ∧ ReplyReady s u := by
  cases sp with
  | buf | ls => exact ⟨_, s, rfl, .refl s⟩
  | dram =>
    rw [getLine, Act.run_ask]
    split
    · exact ⟨_, s, rfl, .refl s⟩
    · exact ⟨_, _, Act.run_seq _ _ _, ready_accountRead p x _ false s (.refl s)⟩

theorem getLines_ready (p : Nat) (sp : Space) (n x count : Nat) (k : List Line → Act) (s : State) :
    ∃ ls u, (getLines p sp n x count k).run s = (k ls).run u ∧ ReplyReady s u := by
  induction count generalizing x k s with
  | zero => exact ⟨[], s, rfl, .refl s⟩
  | succ c ih =>
    obtain ⟨l, u, hline, hready⟩ := getLine_ready p sp n x (fun l => getLines p sp n (x + 1) c fun r => k (l :: r)) s
    obtain ⟨ls, v, hlines, hready'⟩ := ih (x + 1) (fun r => k (l :: r)) u
    exact ⟨l :: ls, v, hline.trans hlines, hready.trans hready'⟩

theorem readParts_ready (gen : Nat) (parts : List ObjectEntry) (k : List (Nat × Bool) → Act) (s : State) :
    ∃ bs u, (readParts gen parts k).run s = (k bs).run u ∧ ReplyReady s u := by
  induction parts generalizing k s with
  | nil => exact ⟨[], s, rfl, .refl s⟩
  | cons o parts ih =>
    obtain ⟨ls, u, hlines, hready⟩ := getLines_ready o.pile o.space (s.physOf o.pile o.tile) (bankLine o.firstLine o.bankStride (gen % 2)) o.lines
      (fun ls => readParts gen parts fun rest => k ((ls.flatMap lineBytes).take o.bytes ++ rest)) s
    obtain ⟨bs, v, hparts, hready'⟩ := ih (fun rest => k ((ls.flatMap lineBytes).take o.bytes ++ rest)) u
    exact ⟨_, v, hlines.trans hparts, hready.trans hready'⟩

/-- An object's bytes are read; the step's statistics stand ready (R446). -/
theorem objectBytes_ready (name : BitVec 128) (gen : Nat) (k : List (Nat × Bool) → Act) (s : State) :
    ∃ bs u, (objectBytes name gen k).run s = (k bs).run u ∧ ReplyReady s u ∧ (name = stepStats → bs = (ofBytes s.job.stats).map fun b => (b, false)) := by
  rw [objectBytes, Act.run_ask]
  by_cases hname : name = stepStats
  · rw [if_pos hname]
    exact ⟨_, s, rfl, .refl s, fun _ => rfl⟩
  · rw [if_neg hname]
    cases s.job.image with
    | none => exact ⟨[], s, rfl, .refl s, fun h => absurd h hname⟩
    | some img =>
      obtain ⟨bs, u, hrun, hready⟩ := readParts_ready gen (objectParts img name) k s
      exact ⟨bs, u, hrun, hready, fun h => absurd h hname⟩

/-! ## The commands -/

section
variable {s : State} {m : LiftMsg} {x : Session} (h : s.Accepted m x)
include h

theorem memWrite_opens {w : MemWriteP} (hlen : reqParamLen m = packedLen 0x0020) (hfree : ∀ z ∈ x.xfers, z.id ≠ w.xfer)
    (hjob : s.jobState ≠ jsAborting) (hup : s.MemUp w.pile) (hlines : 1 ≤ w.lines) (hfit : w.first + w.lines ≤ dramLines)
    (hland : s.landingRun w.pile w.first w.lines = none) (hnone : s.noneAhead m.session ⟨w.pile, w.first, w.lines, true⟩) :
    let t := (settled (actMemWrite m w)).run s
    LiftSame s t ∧ Opened s t m ⟨w.xfer, reqOf m x, .memWrite w, w.lines, 0, 0, [], false⟩ := by
  have hsame := liftSame_started s m
  have hup' := hsame.memUp hup
  refine request_opens_now (off := Config.paramOffset 0x0020 4) h _ hlen hfree ?_
  rw [Act.run_ask]
  dsimp only
  rw [if_neg (by rw [hsame.jobState]; exact hjob), if_neg (Nat.not_le.mpr hup.pile), if_neg (by rw [hup'.boot]; exact Bool.false_ne_true),
    if_neg hup'.on, if_neg (Nat.not_lt.mpr hlines), if_neg (Nat.not_lt.mpr hfit), hsame.landingRun, hland]
  refine run_inOrder_first (fun a ha => ?_) hup'.doms _
  rw [List.mem_singleton.mp ha]
  exact not_meets_ahead h.toTaken hnone

theorem memRead_opens {w : MemReadP} (hlen : reqParamLen m = packedLen 0x0021) (hfree : ∀ z ∈ x.xfers, z.id ≠ w.xfer)
    (hup : s.MemUp w.pile) (hview : w.view ≤ 2) (hlines : 1 ≤ w.lines) (hfit : w.first + w.lines ≤ viewLines w.view)
    (hnone : s.noneAhead m.session (readRun w)) : let t := (settled (actMemRead m w)).run s
    LiftSame s t ∧ Opened s t m ⟨w.xfer, reqOf m x, .memRead w, w.lines, 0, 0, [], false⟩ := by
  refine request_opens_now (off := Config.paramOffset 0x0021 5) h _ hlen hfree ?_
  rw [run_onMemory_up ((liftSame_started s m).memUp hup) (fun a ha => by rw [List.mem_singleton.mp ha]; exact not_meets_ahead h.toTaken hnone),
    if_neg (Nat.not_lt.mpr hview), if_neg (Nat.not_lt.mpr hlines), if_neg (Nat.not_lt.mpr hfit)]

theorem bundleLoad_opens {id size : Nat} (hlen : reqParamLen m = 16) (hfree : ∀ z ∈ x.xfers, z.id ≠ id)
    (hok : s.on (dk .SEC_STATUS_BUNDLE_OK) = false) (hmin : 256 ≤ size) (hmax : size ≤ bundleMax) : let t := (settled (actBundleLoad m id size)).run s
    LiftSame s t ∧ Opened s t m ⟨id, reqOf m x, .bundle size, (size + 127) / 128, 0, 0, [], false⟩ := by
  have hok' : (s.started m).on (dk .SEC_STATUS_BUNDLE_OK) = false := by
    rw [State.on, (liftSame_started s m).rd _ (show Fld.SEC_STATUS_BUNDLE_OK ∉ liftFlds by decide)]
    exact hok
  refine request_opens_now (off := 0) h _ hlen hfree ?_
  rw [Act.run_ask]
  dsimp only
  rw [if_neg (by rw [hok']; exact Bool.false_ne_true), if_neg (by omega)]

theorem jobLoad_opens {id size : Nat} (i : ImageParts) (tm : LoadTiming) (hlen : reqParamLen m = 16) (hfree : ∀ z ∈ x.xfers, z.id ≠ id)
    (hjob : s.jobState = jsNone) (hscan : s.scanGranted = false) (hbusy : s.loadBusy = none) (hsize : size ≠ 0) :
    let t := (settled (actJobLoad m id size i tm)).run s
    LiftSame s t ∧ Opened s t m ⟨id, reqOf m x, .image size i tm, (size + 127) / 128, 0, 0, [], false⟩ := by
  have hsame := liftSame_started s m
  refine request_opens_now (off := 0) h _ hlen hfree ?_
  rw [Act.run_ask]
  dsimp only
  rw [if_neg (by rw [hsame.jobState, hjob, hsame.scanGranted, hscan]; decide), hsame.loadBusy, hbusy]
  dsimp only
  rw [if_neg hsize]

theorem waxRead_opens {id : Nat} (hlen : reqParamLen m = 8) (hfree : ∀ z ∈ x.xfers, z.id ≠ id) (hjob : s.jobState = jsNone)
    (hrec : s.boot.recorded = true) : let t := (settled (actWaxRead m id)).run s
    LiftSame s t ∧ Opened s t m ⟨id, reqOf m x, .waxRead, (packBytes (s.waxRecord.map (fun b => (b, false)))).length, 0, 0,
      packBytes (s.waxRecord.map (fun b => (b, false))), false⟩ := by
  have hsame := liftSame_started s m
  refine request_opens_now (off := 0) h _ hlen hfree ?_
  rw [run_inStates, if_pos (by rw [hsame.jobState, hjob]; rfl), Act.run_ask, if_neg (by rw [hsame.boot, hrec]; decide), hsame.waxRecord]

theorem bringup_opens {id : Nat} {flags : BitVec 32} (hlen : reqParamLen m = 8) (hfree : ∀ z ∈ x.xfers, z.id ≠ id) (hjob : s.jobState = jsNone)
    (hok : s.on (dk .SEC_STATUS_BUNDLE_OK) = true) (hrun : s.boot.run = none) (hflags : flags.toNat ≤ 3) (hid : id ≠ 0) :
    let t := (settled (actBringup m id flags)).run s
    LiftSame s t ∧ Opened s t m ⟨id, reqOf m x, .wax flags, 0, 0, 0, [], false⟩ := by
  have hsame := liftSame_started s m
  have hok' : (s.started m).on (dk .SEC_STATUS_BUNDLE_OK) = true := by
    rw [State.on, hsame.rd _ (show Fld.SEC_STATUS_BUNDLE_OK ∉ liftFlds by decide)]
    exact hok
  refine request_opens_now (off := 0) h _ hlen hfree ?_
  rw [Act.run_ask]
  dsimp only
  rw [if_neg (by rw [hsame.jobState, hjob, hok']; decide), if_neg (by rw [hsame.boot, hrun]; exact Bool.false_ne_true), if_neg (Nat.not_lt.mpr hflags),
    if_neg hid]

theorem fetch_opens {name : BitVec 128} {gmin id : Nat} (hlen : reqParamLen m = 32) (hfree : ∀ z ∈ x.xfers, z.id ≠ id)
    (hname : s.objectNames.contains name = true) (hgen : s.gen name ≠ 0) (hmin : gmin ≤ s.gen name)
    (hup : ∀ i, s.job.image = some i → ∀ d ∈ s.partDoms i name, s.ready d = true) :
    ∃ bs, Opened s ((settled (actFetch m name gmin id)).run s) m
        ⟨id, reqOf m x, .fetch name (s.gen name) bs.length, (packBytes bs).length, 0, 0, packBytes bs, false⟩ ∧
      (name = stepStats → bs = (ofBytes s.job.stats).map fun b => (b, false)) := by
  have hsame := liftSame_started s m
  have hnames : (s.started m).objectNames = s.objectNames := by rw [State.objectNames, hsame.job, State.objectNames]
  have hgens : (s.started m).gen name = s.gen name := by rw [State.gen, hsame.job, State.gen]
  obtain ⟨bs, u, hrun, hready, hstats⟩ := objectBytes_ready name (s.gen name)
    (fun bs => openXfer (reqOf m x) id 24 (packBytes bs).length (.fetch name (s.gen name) bs.length) (packBytes bs)) (s.started m)
  rw [hsame.job] at hstats
  refine ⟨bs, (request_opens (off := 24) h _ (n := some 32) (fun k hk => by cases hk; exact hlen) hready hfree ?_).1, hstats⟩
  rw [Act.run_ask]
  dsimp only
  rw [hnames, hgens, if_neg (by rw [hname]; decide), if_neg (by omega), hsame.job]
  have hgo : ∀ ds : List Nat, (∀ d ∈ ds, s.ready d = true) → ∀ k : Act,
      (if ds.any (s.started m).memOff = true then reply (reqOf m x) stNoObject else whenUp (reqOf m x) (.fetch m name gmin id) ds k).run (s.started m) =
        k.run (s.started m) := fun ds hds k => by
    have hready' : ∀ d ∈ ds, (s.started m).ready d = true := fun d hd => by rw [hsame.ready, hds d hd]
    have hon : ¬ ds.any (s.started m).memOff = true := by
      simp only [List.any_eq_true, not_exists, not_and]
      intro d hd
      have hrd := hready' d hd
      simp only [State.ready, Bool.and_eq_true, beq_iff_eq] at hrd
      rw [State.memOff, hrd.1.1.1]
      exact Bool.false_ne_true
    rw [if_neg hon, run_whenUp_ready hready']
  cases himg : s.job.image with
  | none => exact (hgo [] (fun _ hd => absurd hd List.not_mem_nil) _).trans hrun
  | some i =>
    exact (hgo ((s.started m).partDoms i name) (by rw [hsame.partDoms]; exact hup i himg) _).trans hrun

end

end Sys2Proof.Machine
end

section

open Sys2Proof Sys2Proof.Machine

/-- Settles O27 (R435-R438, R442, R446, R457). Each command comes to the opening of its transfer, in the state that its reads have left
(`request_opens`); that nothing stands ahead of it on its lines is carried from before the request was taken (`not_meets_ahead`). -/
theorem transfersOpen : Obligations.TransfersOpen := by
  unfold Obligations.TransfersOpen
  refine ⟨fun s m x w h hlen hfree hjob hup hlines hfit hland hnone => ⟨_, rfl, memWrite_opens h hlen hfree hjob hup hlines hfit hland hnone⟩,
    fun s m x w h hlen hfree hup hview hlines hfit hnone => ⟨_, rfl, memRead_opens h hlen hfree hup hview hlines hfit hnone⟩,
    fun s m x id size h hlen hfree hok hmin hmax => ⟨_, rfl, bundleLoad_opens h hlen hfree hok hmin hmax⟩,
    fun s m x id size i tm h hlen hfree hjob hscan hbusy hsize => ⟨_, rfl, jobLoad_opens h i tm hlen hfree hjob hscan hbusy hsize⟩,
    fun s m x id h hlen hfree hjob hrec => ⟨_, rfl, waxRead_opens h hlen hfree hjob hrec⟩,
    fun s m x name gmin id h hlen hfree hname hgen hmin hup => ?_,
    fun s m x id flags h hlen hfree hjob hok hrun hflags hid => ⟨_, rfl, bringup_opens h hlen hfree hjob hok hrun hflags hid⟩⟩
  obtain ⟨bs, hopened, hstats⟩ := fetch_opens h hlen hfree hname hgen hmin hup
  refine ⟨_, bs.length, packBytes bs, rfl, hopened, fun hname => ?_⟩
  rw [hstats hname]
  exact ⟨by simp [ofBytes], rfl⟩

end

section
/-! PROOFS. MEM_FILL and TAG_WRITE: the lines that they write (R355, R365, R376). -/

namespace Sys2Proof.Machine

/-! ## Writing a line with no injection armed (R376) -/

/-- Lines of a pile have been written as `l` has them, from line `first` on, and no other; no injection is armed. -/
structure RunWritten (s t : State) (p first n : Nat) (l : Nat → Line) : Prop where
  word  : ∀ a, t.dramWord (dramAddr p a) = if first ≤ a ∧ a < first + n then encodeWord (l (a - first)) else s.dramWord (dramAddr p a)
  armed : t.on (pk .MEM_INJECT_ARMED p) = false
  ready : ReplyReady s t

section
variable {s : State} {p : Nat} (hp : p < 16) (harmed : s.on (pk .MEM_INJECT_ARMED p) = false)
include hp harmed

theorem dramWrite_writes {x : Nat} (hx : x < dramLines) (l : Line) : let t := (dramWrite p x l).run s
    t.dramWord (dramAddr p x) = encodeWord l ∧ (∀ a, a ≠ dramAddr p x → t.dramWord a = s.dramWord a) ∧
      t.on (pk .MEM_INJECT_ARMED p) = false ∧ ReplyReady s t := by
  have hbump : (bump (pk .MEM_POISON_WRITE p)).Keeps (SwitchKept (fun _ => ()) [.MEM_INJECT_ARMED] s) :=
    kept_bump (show Fld.MEM_POISON_WRITE ∉ _ by decide) 1
  have hcount := SwitchKept.of_keeps (Act.keeps_when (c := l.poison) hbump)
  have hready := Act.keeps_when (c := l.poison) (ready_bump (r := s) (pk .MEM_POISON_WRITE p) 1) s (.refl s)
  dsimp only
  rw [dramWrite, Act.run_seq]
  generalize (Act.when l.poison (bump (pk .MEM_POISON_WRITE p))).run s = u at hcount hready
  have harmed' : u.on (pk .MEM_INJECT_ARMED p) = false := (hcount.on (List.mem_singleton_self _)).trans harmed
  have hdram : ∀ a, u.dramWord a = s.dramWord a := fun a => by rw [State.dramWord, hcount.dram, State.dramWord]
  have hplace : Placed p .dram 0 x := ⟨hp, by omega, hx⟩
  obtain ⟨hword, hrest, -⟩ := written_dram hplace l u
  rw [storeWord, Act.run_ask, if_neg fun h => Bool.false_ne_true (harmed'.symm.trans h.1)]
  refine ⟨hword, fun a ha => (hrest a ha).trans (hdram a), ?_, hready.trans (Act.Only.replyReady (a := emit (.dram (dramAddr p x) (encodeWord l))) ⟨⟨trivial, nofun⟩, trivial⟩ u)⟩
  rw [run_emit, State.on, Upd.rd_dram]
  exact harmed'

end

theorem fillLines_writes {p : Nat} (hp : p < 16) (f : FillRun) (n : Nat) {k : Nat} {s : State} (hend : f.first + k + n ≤ dramLines)
    (harmed : s.on (pk .MEM_INJECT_ARMED p) = false) : RunWritten s ((fillLines p f k n).run s) p (f.first + k) n fun i => f.line (k + i) := by
  induction n generalizing k s with
  | zero =>
    refine ⟨fun a => ?_, harmed, .refl s⟩
    rw [if_neg (by omega)]
    rfl
  | succ n ih =>
    obtain ⟨hword, hrest, harmed', hready⟩ := dramWrite_writes hp harmed (x := f.first + k) (by omega) (f.line k)
    rw [fillLines, Act.run_seq]
    generalize (dramWrite p (f.first + k) (f.line k)).run s = u at hword hrest harmed' hready
    obtain ⟨hwords, harmed'', hready'⟩ := ih (k := k + 1) (by omega) harmed'
    refine ⟨fun a => ?_, harmed'', hready.trans hready'⟩
    rw [hwords]
    by_cases hfirst : a = f.first + k
    · rw [if_neg (by omega), if_pos (by omega), hfirst, hword, Nat.sub_self, Nat.add_zero]
    · rw [hrest _ (dramAddr_ne hfirst)]
      by_cases hin : f.first + k ≤ a ∧ a < f.first + k + (n + 1)
      · rw [if_pos (by omega), if_pos hin, show k + 1 + (a - (f.first + (k + 1))) = k + (a - (f.first + k)) by omega]
      · rw [if_neg (by omega), if_neg hin]

/-! ## A fill's end -/

theorem pile_modMem_of_ne {p q : Nat} (h : q ≠ p) (w : MemSt → MemSt) (s : State) : ((modMem p w).run s).pile q = s.pile q := by
  rw [modMem, run_modPile, Upd.pile_pile_of_ne _ s h]

theorem memFillDone_writes {s : State} (hq : s.Quiet) {p : Nat} (hp : p < 16) {f : FillRun} (hf : (s.pile p).mem.fill = some f)
    (hend : f.first + f.lines ≤ dramLines) (harmed : s.on (pk .MEM_INJECT_ARMED p) = false) : let t := (settled (actMemFillDone p)).run s
    (t.pile p).mem.fill = none ∧ ∀ a, t.dramWord (dramAddr p a) = if f.first ≤ a ∧ a < f.first + f.lines then encodeWord (f.line (a - f.first))
      else s.dramWord (dramAddr p a) := by
  have hfill := fillLines_writes hp f f.lines (k := 0) hend harmed
  have hrun : (actMemFillDone p).run s = (Act.ask fun t => Act.when (t.fillsOf f.req).isEmpty (reply f.req stOk (f.lines * f.piles))).run
      ((modMem p fun x => { x with fill := none }).run ((fillLines p f 0 f.lines).run s)) := by
    rw [actMemFillDone, Act.run_ask, hf]
    dsimp only
    rw [Act.run_all_next, Act.run_all_next, Act.run_all_last]
  generalize (fillLines p f 0 f.lines).run s = u at hfill hrun
  obtain ⟨hwords, -, hready⟩ := hfill
  simp only [Nat.add_zero, Nat.zero_add] at hwords
  have hnone : (((modMem p fun x => { x with fill := none }).run u).pile p).mem.fill = none := by rw [pile_modMem]
  have hdram : ((modMem p fun x => { x with fill := none }).run u).dram = u.dram := rfl
  have hset : ((modMem p fun x => { x with fill := none }).run u).Settled :=
    (Act.Only.replyReady (a := modMem p fun x => { x with fill := none }) (fun _ => ⟨⟨trivial, nofun⟩, trivial⟩) u).settled (hready.settled hq.settled)
  generalize (modMem p fun x => { x with fill := none }).run u = v at hrun hnone hdram hset
  have hlast : ((actMemFillDone p).run s).Settled ∧ LiftSame v ((actMemFillDone p).run s) := by
    rw [hrun, Act.run_ask, Act.run_when]
    split
    · exact ⟨settled_reply _ _ _ _ hset, liftSame_reply _ _ _ _ v⟩
    · exact ⟨hset, (Act.only_done (P := Upd.ofLift)).liftSame v⟩
  obtain ⟨hsettled, hsame⟩ := hlast
  dsimp only
  rw [run_settled hsettled]
  refine ⟨by rw [hsame.pile, hnone], fun a => ?_⟩
  rw [State.dramWord, hsame.dram, hdram]
  exact hwords a

/-! ## A fill's start -/

/-- The pile of every member takes on the same fill. -/
theorem each_fill {r : FillRun} {p : Nat} (ps : List Nat) (s : State) (hp : p ∈ ps ∨ (s.pile p).mem.fill = some r) :
    (((Act.each ps fun q => modMem q fun x => { x with fill := some r }).run s).pile p).mem.fill = some r := by
  induction ps generalizing s with
  | nil => exact hp.resolve_left List.not_mem_nil
  | cons q qs ih =>
    rw [Act.run_each_cons]
    refine ih _ ?_
    by_cases hq : p = q
    · rw [hq, pile_modMem]
      exact Or.inr rfl
    · rw [pile_modMem_of_ne hq]
      exact hp.imp_left fun h => (List.mem_cons.mp h).resolve_left hq

section
variable {s : State} {m : LiftMsg} {x : Session} (h : s.Accepted m x)
include h

theorem memFill_starts {q : MemFillP} (hlen : reqParamLen m = packedLen 0x0022) (hjob : s.jobState = jsNone)
    (hpiles : ∀ p ∈ fillPiles q.pile, s.MemUp p ∧ (s.pile p).mem.fill = none ∧ s.noneAhead m.session ⟨p, q.first, q.lines, true⟩)
    (hmode : q.mode ≤ 1) (hfmt : q.mode = 0 → isFillFmt q.fmt = true) (hlines : 1 ≤ q.lines) (hend : q.first + q.lines ≤ dramLines)
    {p : Nat} (hp : p ∈ fillPiles q.pile) : (((settled (actMemFill m q)).run s).pile p).mem.fill =
      some ⟨q.first, q.lines, q.body, q.tag, if q.mode = 0 then some q.fmt else none, reqOf m x, (fillPiles q.pile).length⟩ := by
  have hsame := liftSame_started s m
  have hup : ∀ p ∈ fillPiles q.pile, (s.started m).MemUp p := fun p hp => hsame.memUp (hpiles p hp).1
  have hmissing : ¬ (fillPiles q.pile).any (fun p => decide (16 ≤ p)) = true := by
    simp only [List.any_eq_true, decide_eq_true_eq, not_exists, not_and, Nat.not_le]
    exact fun p hp => (hup p hp).pile
  have hboot : ¬ (s.started m).boot.run.isSome = true := by
    rw [(hup p hp).boot]
    exact Bool.false_ne_true
  have hdark : ¬ (fillPiles q.pile).any (fun p => (s.started m).power (domMem p) == 2 || (s.started m).power (domSw p) != 0) = true := by
    simp only [List.any_eq_true, Bool.or_eq_true, beq_iff_eq, bne_iff_ne, not_exists, not_and]
    exact fun p hp => (hup p hp).on
  have hfree : (fillPiles q.pile).find? (fun p => ((s.started m).pile p).mem.fill.isSome) = none := by
    rw [List.find?_eq_none]
    intro p hp
    rw [hsame.pile, (hpiles p hp).2.1]
    exact Bool.false_ne_true
  have hahead : ∀ a ∈ runsOf (.memFill m q), ∀ b ∈ (s.started m).runsAhead (reqOf m x), a.meets b = false := by
    intro a ha
    obtain ⟨p, hp, rfl⟩ := List.mem_map.mp ha
    exact not_meets_ahead h.toTaken (hpiles p hp).2.2
  have hdoms : ∀ d ∈ (fillPiles q.pile).map domCtl ++ (fillPiles q.pile).map domMem, (s.started m).ready d = true := by
    intro d hd
    rcases List.mem_append.mp hd with hd | hd <;> obtain ⟨p, hp, rfl⟩ := List.mem_map.mp hd
    · exact (hup p hp).ctl
    · exact (hup p hp).mem
  have hrun : (actMemFill m q).run s = (Act.each (fillPiles q.pile) fun p => modMem p fun y =>
      { y with fill := some ⟨q.first, q.lines, q.body, q.tag, if q.mode = 0 then some q.fmt else none, reqOf m x, (fillPiles q.pile).length⟩ }).run (s.started m) := by
    rw [actMemFill, request_heeded h.toHeeded _ (some (packedLen 0x0022)) (fun k hk => by cases hk; exact hlen), run_inStates,
      if_pos (by rw [jobState_started, hjob]; rfl), Act.run_ask]
    dsimp only
    rw [if_neg hmissing, if_neg hboot, if_neg hdark, if_neg (by omega), if_neg (by
      rintro ⟨h0, hno⟩
      rw [hfmt h0] at hno
      exact Bool.false_ne_true hno), if_neg (by omega), if_neg (by omega), hfree]
    exact run_inOrder_first hahead hdoms _
  have hset : ((actMemFill m q).run s).Settled := by
    rw [hrun]
    exact (Act.Only.replyReady (Act.only_each fun _ _ _ => ⟨⟨trivial, nofun⟩, trivial⟩) _).settled (settled_started h.toTaken)
  rw [run_settled hset, hrun]
  exact each_fill _ _ (Or.inl hp)

/-! ## TAG_WRITE -/

theorem tagWrite_writes {p line : Nat} {tag : BitVec 128} (hlen : reqParamLen m = packedLen 0x0023) (hjob : s.jobState = jsNone) (hup : s.MemUp p)
    (hline : line < dramLines) (hfree : (s.pile p).mem.fill = none) (hahead : s.noneAhead m.session ⟨p, line, 1, true⟩)
    (harmed : s.on (pk .MEM_INJECT_ARMED p) = false) : let t := (settled (actTagWrite m p line tag)).run s
    t.dramWord (dramAddr p line) = encodeWord ⟨(decodeWord (s.dramWord (dramAddr p line))).line.body, tag,
        (decodeWord (s.dramWord (dramAddr p line))).kind != .data⟩ ∧
      (∀ a, a ≠ dramAddr p line → t.dramWord a = s.dramWord a) ∧ (t.mailbox m.mailbox).st = .done := by
  have hsame := liftSame_started s m
  have hword : ∀ a, (s.started m).dramWord a = s.dramWord a := fun a => by rw [State.dramWord, hsame.dram, State.dramWord]
  generalize hout : decodeWord (s.dramWord (dramAddr p line)) = o
  have hread : SwitchKept (fun _ => ()) [.MEM_INJECT_ARMED] (s.started m) ((accountRead p line o false).run (s.started m)) :=
    .of_keeps (kept_accountRead (by decide) p line o false)
  have hready := ready_accountRead p line o false (s.started m) (.refl _)
  have hrun : (actTagWrite m p line tag).run s =
      (reply (reqOf m x) stOk).run ((dramWrite p line ⟨o.line.body, tag, o.kind != .data⟩).run ((accountRead p line o false).run (s.started m))) := by
    rw [actTagWrite, request_heeded h.toHeeded _ (some (packedLen 0x0023)) (fun k hk => by cases hk; exact hlen)]
    rw [run_inStates, if_pos (by rw [jobState_started, hjob]; rfl), run_onMemory_up (hsame.memUp hup), Act.run_ask, if_neg (by omega), hsame.pile, hfree,
      if_neg (by exact Bool.false_ne_true), dramRead, Act.run_ask, hword, hout, Act.run_seq, Act.run_seq]
    intro a ha
    rw [List.mem_singleton.mp ha]
    exact not_meets_ahead h.toTaken hahead
  generalize (accountRead p line o false).run (s.started m) = u at hread hready hrun
  obtain ⟨hnew, hrest, -, hready'⟩ := dramWrite_writes hup.pile ((hread.on (List.mem_singleton_self _)).trans
    (show (s.started m).on _ = false by rw [State.on, hsame.rd _ (show Fld.MEM_INJECT_ARMED ∉ liftFlds by decide)]; exact harmed))
    hline ⟨o.line.body, tag, o.kind != .data⟩
  obtain ⟨hfrom, hdone, -⟩ := command_answers h.toTaken h.lone (hready.trans hready') hrun
  have hkeep : ∀ t : State, ((reply (reqOf m x) stOk).run t).dram = t.dram := fun t => (liftSame_reply _ _ _ _ t).dram
  refine ⟨?_, fun a ha => ?_, hdone⟩
  · rw [hfrom, State.dramWord, hkeep]
    exact hnew
  · rw [hfrom, State.dramWord, hkeep]
    refine (hrest a ha).trans ?_
    rw [State.dramWord, hread.dram]
    exact hword a

end

end Sys2Proof.Machine
end

section
open Sys2Proof Sys2Proof.Machine

/-- Settles O30, by the lines that a fill writes one by one, and by the read and the write of a tag's line. -/
theorem memoryFills : Obligations.MemoryFills := by
  refine ⟨fun s m x q h hlen hjob hpiles hmode hfmt hlines hend => ⟨_, rfl, fun p hp => ?_⟩,
    fun s p f hq hf hend harmed => ⟨_, rfl, memFillDone_writes hq p.isLt hf hend harmed⟩,
    fun s m x p line tag h hlen hjob hup hline hfree hahead harmed => ⟨_, rfl, tagWrite_writes h hlen hjob hup hline hfree hahead harmed⟩⟩
  exact memFill_starts h hlen hjob hpiles hmode hfmt hlines hend hp

end

section
/-! PROOFS. The messages of a bulk read (R433, R434, R438, R446). -/

namespace Sys2Proof.Machine

/-! ## Sending in one session leaves the others alone -/

section
variable {i j : Nat} (h : i ≠ j)
include h

theorem session?_modSession_of_ne (f : Session → Session) (s : State) : ((modSession j f).run s).session? i = s.session? i := by
  rw [run_modSession]
  cases hx : s.session? j with
  | none => rfl
  | some x =>
    dsimp only
    rw [Upd.session?_setSession, if_neg fun he => h (he.trans (show x.id = j from State.id_of_session? hx))]

theorem session?_transmit_of_ne (ty mb : Nat) (b : Bytes) (s : State) : ((transmit j ty mb b).run s).session? i = s.session? i := by
  have hgrant : ((grant j).run s).session? i = s.session? i := session?_modSession_of_ne h _ s
  rw [transmit, Act.run_seq, Act.run_ask]
  split
  · rw [Act.run_seq, session?_sendFrame, session?_modSession_of_ne h, hgrant]
  · exact hgrant

theorem session?_sendSeq_of_ne (ty mb : Nat) (b : Bytes) (s : State) : ((sendSeq j ty mb b).run s).session? i = s.session? i := by
  rw [sendSeq, Act.run_ask]
  split
  · split
    · exact session?_modSession_of_ne h _ s
    · exact session?_transmit_of_ne h ty mb b s
  · rfl

end

/-! ## Replies keep what sending keeps -/

section
variable {i : Nat} {P : Session → Prop} (hP : SendKept P)
include hP

theorem sentKept_sendSeq (j ty mb : Nat) (b : Bytes) : (sendSeq j ty mb b).Keeps (State.SesIs i P) := by
  by_cases hj : i = j
  · subst hj
    refine Act.keeps_asked fun _ => ?_
    split
    · exact Act.keeps_ite (keeps_sesIs_modSession fun y hy => hP.waiting y _ hy) (keeps_sesIs_transmit hP ty mb b)
    · exact Act.keeps_done _
  · exact fun s hs => hs.of_session (session?_sendSeq_of_ne hj ty mb b s)

theorem sentKept_postReply (r : Req) (b : Bytes) : (postReply r b).Keeps (State.SesIs i P) := Act.keeps_asked fun _ => by
  split
  · exact Act.keeps_seq (fun _ hs => hs) (sentKept_sendSeq hP _ _ _ _)
  · exact Act.keeps_ite (fun _ hs => hs) fun _ hs => hs

theorem sentKept_reply (r : Req) (st d : Nat) (data : List Nat) : (reply r st d data).Keeps (State.SesIs i P) :=
  Act.keeps_seq (Act.keeps_ite (fun _ hs => hs) (sentKept_postReply hP r _)) <| Act.keeps_asked fun _ =>
    Act.keeps_ite (Act.keeps_each fun _ _ => Act.keeps_seq (fun _ hs => hs) (sentKept_postReply hP _ _)) (Act.keeps_done _)

end

/-! ## A message of a transfer -/

/-- A session as it stands but for sending, with a BULK_DATA message of a SEQ and payload among those unacknowledged. -/
structure Session.Carries (q : Nat) (b : Bytes) (c y : Session) : Prop where
  core : y.core = c.core
  sent : ∃ u ∈ y.unacked, u.seq = q ∧ u.msg.type = tyBulk ∧ u.msg.payload = b

theorem sendKept_carries (q : Nat) (b : Bytes) (c : Session) : SendKept (Session.Carries q b c) where
  granted _ _ hy := ⟨hy.core, hy.sent⟩
  waiting _ _ hy := ⟨hy.core, hy.sent⟩
  sent _ _ hy := by
    obtain ⟨hcore, u, hu, hmsg⟩ := hy
    exact ⟨hcore, u, List.mem_append_left _ hu, hmsg⟩
  again _ n hy := by
    obtain ⟨hcore, u, hu, hmsg⟩ := hy
    refine ⟨hcore, _, List.mem_map.mpr ⟨u, hu, rfl⟩, ?_⟩
    split <;> exact hmsg

theorem transmit_carries {s : State} {i : Nat} {x : Session} (hx : s.session? i = some x) (mb : Nat) (b : Bytes) :
    ((transmit i tyBulk mb b).run s).SesIs i (Session.Carries x.txNext b x) := by
  obtain ⟨n, hx'⟩ := session?_grant_self hx
  rw [transmit, Act.run_seq, Act.run_ask, hx']
  simp only [Act.run_seq]
  exact ⟨_, (session?_sendFrame _ _ _ _).trans (session?_modSession_self hx' _), rfl, _,
    List.mem_append_right _ (List.mem_singleton_self _), rfl, rfl, rfl⟩

theorem settled_transmit (i ty mb : Nat) (b : Bytes) : (transmit i ty mb b).Keeps State.Settled := fun s hs =>
  settled_of hs (marks_send (send_transmit i ty mb b) s s (.refl s)) (keeps_transmit (behind_sendFree 0) i ty mb b s hs.held)

theorem sentReply_eq (z : Xfer) (k : Nat) : ∃ st d data, sentReply z k = reply z.req st d data := by
  rw [sentReply]
  split <;> exact ⟨_, _, _, rfl⟩

/-- The session once a message of a transfer counts as sent and its lines are behind it. -/
def Session.advanced (x : Session) (k bytes n bad : Nat) : Session :=
  { x with
    bulkSent := x.bulkSent + bytes
    xfers := x.xfers.map fun w => if w.id == k then { w with next := w.next + n, counted := w.counted + bad } else w }

/-- A message of a transfer that is within the host's limit, its lines gathered. -/
def bulkMessage (x : Session) (z : Xfer) (n : Nat) (ls : List Line) : Act := Act.all [
  modSession x.id (fun y => { y with bulkSent := y.bulkSent + 24 + n * formBytes false }),
  modXfer x.id z.id (fun y => { y with next := y.next + n, counted := y.counted + (ls.filter Line.poison).length }),
  transmit x.id tyBulk 0xFF (bulkPayload z false (decide (z.total ≤ z.next + n)) false ls),
  Act.when (decide (z.total ≤ z.next + n)) ((closeXfer x.id z.id).seq (sentReply z (z.counted + (ls.filter Line.poison).length)))]

/-- A transfer whose lines were gathered when it opened. -/
def Gathered (s : State) (k : XKind) : Prop := k = .waxRead ∨ ∃ name n, k = .fetch name (s.gen name) n

theorem run_actBulkDataSend {s : State} {i k : Nat} {x : Session} {z : Xfer} (hx : s.session? i = some x) (hz : xferOf x k = some z)
    (hup : s.hostUp = true) (hgo : s.lift.xoffGot = false) (hkind : Gathered s z.kind) (hdrop : z.drop = false)
    (hn : min (unitsOfMsg x false) (z.total - z.next) ≠ 0)
    (hlim : x.bulkSent + 24 + min (unitsOfMsg x false) (z.total - z.next) * 128 ≤ x.hostLim) : (actBulkDataSend i k).run s =
      (bulkMessage x z (min (unitsOfMsg x false) (z.total - z.next))
        ((z.lines.drop z.next).take (min (unitsOfMsg x false) (z.total - z.next)))).run s := by
  have hform : fromHost z.kind = false ∧ lineFormOf z.kind = false ∧ isMemRead z.kind = false ∧ s.staleGen z.kind = none ∧
      s.sleeping z.kind = none ∧ ∀ n f, nextLines z n f = f ((z.lines.drop z.next).take n) := by
    rcases hkind with hk | ⟨name, n, hk⟩ <;> simp only [nextLines, hk]
    · exact ⟨rfl, rfl, rfl, rfl, rfl, fun _ _ => trivial⟩
    · exact ⟨rfl, rfl, rfl, by rw [State.staleGen, if_pos rfl], rfl, fun _ _ => trivial⟩
  obtain ⟨hfrom, hline, hread, hstale, hsleep, hnext⟩ := hform
  have htotal : z.total ≠ 0 := by omega
  simp only [actBulkDataSend, Act.run_ask, hup, hgo, Bool.not_true, Bool.or_self, Bool.false_eq_true, if_false, hx, hz, hfrom, hdrop, hstale, htotal,
    hsleep, sendBulk, hline, hread, hnext, bulkMessage]
  rw [if_neg]
  simp only [formBytes, Bool.false_eq_true, if_false, Bool.or_eq_true, decide_eq_true_eq, not_or]
  exact ⟨by omega, hn⟩

section
variable {s : State} {i : Nat} {x : Session} (z : Xfer) (hx : s.session? i = some x)
include hx

/-- What a message leaves of its session before its transfer closes. -/
theorem bulkMessage_carries (hs : s.Settled) (n bad : Nat) (b : Bytes) :
    let u := (modSession i fun y => { y with bulkSent := y.bulkSent + 24 + n * formBytes false }).run s
    let t := (transmit i tyBulk 0xFF b).run ((modXfer i z.id fun y => { y with next := y.next + n, counted := y.counted + bad }).run u)
    t.Settled ∧ t.SesIs i (Session.Carries x.txNext b (x.advanced z.id (24 + n * 128) n bad)) := by
  have hcount := session?_modSession_self hx fun y => { y with bulkSent := y.bulkSent + 24 + n * formBytes false }
  have hset := settled_modSession i (f := fun y => { y with bulkSent := y.bulkSent + 24 + n * formBytes false }) (fun _ => ⟨rfl, rfl⟩) s hs
  generalize (modSession i fun y => { y with bulkSent := y.bulkSent + 24 + n * formBytes false }).run s = u at hcount hset
  have hnext := session?_modSession_self hcount fun y =>
    { y with xfers := y.xfers.map fun t => if t.id == z.id then { t with next := t.next + n, counted := t.counted + bad } else t }
  have hsent := transmit_carries hnext 0xFF b
  refine ⟨settled_transmit _ _ _ _ _ (settled_modXfer i z.id _ u hset), hsent.mono fun y hy => ?_⟩
  obtain ⟨hcore, hmsg⟩ := hy
  refine ⟨hcore.trans ?_, hmsg⟩
  simp only [Session.core, Session.advanced, formBytes, Bool.false_eq_true, if_false, Nat.add_assoc]

/-- A message that is not the last leaves its transfer open, its lines behind it; the last one closes it, and is followed by the reply. -/
theorem bulkMessage_sends (hs : s.Settled) (n : Nat) (ls : List Line) : let t := (bulkMessage x z n ls).run s
    let q := x.advanced z.id (24 + n * 128) n (ls.filter Line.poison).length
    t.Settled ∧ ∃ y, t.session? i = some y ∧ (∃ u ∈ y.unacked, u.seq = x.txNext ∧ u.msg.type = tyBulk ∧
        u.msg.payload = bulkPayload z false (decide (z.total ≤ z.next + n)) false ls) ∧
      y.core = (if z.total ≤ z.next + n then { q with xfers := q.xfers.filter fun w => w.id != z.id } else q).core ∧
      (z.total ≤ z.next + n → x.host = z.req.hostKey → z.req.session = i → z.req.cmd ≠ abortCode → (t.mailbox z.req.mb).st = .done) := by
  obtain ⟨st, d, data, hreply⟩ := sentReply_eq z (z.counted + (ls.filter Line.poison).length)
  obtain ⟨hset, y, hy, hcore, hsent⟩ := bulkMessage_carries z hx hs n (ls.filter Line.poison).length
    (bulkPayload z false (decide (z.total ≤ z.next + n)) false ls)
  dsimp only
  rw [bulkMessage, Act.run_all_next, Act.run_all_next, Act.run_all_next, Act.run_all_last, State.id_of_session? hx, hreply]
  generalize (transmit i tyBulk 0xFF _).run _ = u at hset hy
  rw [Act.run_when]
  by_cases hlast : z.total ≤ z.next + n
  · rw [if_pos (decide_eq_true hlast), if_pos hlast, Act.run_seq]
    have hclosed := session?_modSession_self hy fun y => { y with xfers := y.xfers.filter fun t => t.id != z.id }
    have hset' := settled_modSession i (f := fun y => { y with xfers := y.xfers.filter fun t => t.id != z.id }) (fun _ => ⟨rfl, rfl⟩) u hset
    rw [closeXfer]
    generalize (modSession i fun y => { y with xfers := y.xfers.filter fun t => t.id != z.id }).run u = v at hclosed hset'
    have hcarries : v.SesIs i (Session.Carries x.txNext (bulkPayload z false (decide (z.total ≤ z.next + n)) false ls)
        { x.advanced z.id (24 + n * 128) n (ls.filter Line.poison).length with
          xfers := (x.advanced z.id (24 + n * 128) n (ls.filter Line.poison).length).xfers.filter fun w => w.id != z.id }) :=
      ⟨_, hclosed, by rw [← xfers_of_core hcore]; exact congrArg (fun c : Session => { c with xfers := y.xfers.filter fun w => w.id != z.id }) hcore, hsent⟩
    obtain ⟨w, hw, hcore', hsent'⟩ := sentKept_reply (sendKept_carries _ _ _) z.req st d data v hcarries
    refine ⟨settled_reply _ _ _ _ hset', w, hw, hsent', hcore', fun _ hhost hses hcmd => ?_⟩
    have hkey : y.core.host = x.host := by
      rw [hcore]
      rfl
    have hopen : v.ownOpen z.req := by
      rw [State.ownOpen, hses]
      exact ⟨_, hclosed, hkey.trans hhost⟩
    exact (answered_reply z.req st d data v hopen fun hc => absurd hc hcmd).1
  · rw [if_neg (by simpa using hlast), if_neg hlast]
    exact ⟨hset, y, hy, hsent, hcore, fun h => absurd h hlast⟩

end

end Sys2Proof.Machine
end

section
open Sys2Proof Sys2Proof.Machine

/-- Settles O29, by the session that a message of a transfer leaves (`bulkMessage_sends`). -/
theorem bulkDataSent : Obligations.BulkDataSent := by
  intro s i k x z hq hx hz hup hgo hkind hdrop _ n hn hlim
  have hid : z.id = k := by simpa using List.find?_some hz
  have hmem : z ∈ x.xfers := List.mem_of_find?_eq_some hz
  obtain ⟨hset, y, hy, hsent, hcore, hdone⟩ := bulkMessage_sends z hx hq.settled n ((z.lines.drop z.next).take n)
  rw [← run_actBulkDataSend hx hz hup hgo hkind hdrop hn hlim] at hset hy hdone
  have hbytes : y.core.bulkSent = x.bulkSent + (24 + n * 128) := by
    rw [hcore]
    split <;> rfl
  refine ⟨_, y, congrArg Host.Outcome.next (run_settled hset), hy, hbytes.trans (Nat.add_assoc _ _ _).symm, hsent, fun hmore => ?_, fun hlast => ⟨?_, hdone hlast⟩⟩
  · rw [if_neg (by omega)] at hcore
    rw [xfers_of_core hcore]
    exact ⟨_, List.mem_map.mpr ⟨z, hmem, if_pos (beq_self_eq_true z.id)⟩, hid, rfl⟩
  · rw [if_pos hlast] at hcore
    rw [xfers_of_core hcore]
    intro w hw
    have hne := (List.mem_filter.mp hw).2
    rw [hid] at hne
    exact bne_iff_ne.mp hne

end

section
/-! PROOFS. Gate tokens, the gate's timeout and the time base (R176, R187-R194). -/

namespace Sys2Proof.Machine

/-! ## Tokens of another job (R176) -/

theorem pile_causeNow (p c q : Nat) (s : State) : (((causeNow p c).run s).pile q).gate = (s.pile q).gate := by
  rw [causeNow, modRue, run_modPile]
  by_cases hq : q = p
  · rw [hq, Upd.pile_pile_self]
  · rw [Upd.pile_pile_of_ne _ s hq]

theorem tagError_counts (p : Nat) (s : State) : let t := (tagError p).run s
    t.rd (pk .GATE_TAG_ERR p) = s.counted (pk .GATE_TAG_ERR p) 1 ∧ (t.pile p).gate = (s.pile p).gate ∧
      (s.jobStarted = true → t.jobState = jsStopped) := by
  have hcount : ((causeNow p cTiming).run ((bump (pk .GATE_TAG_ERR p)).run s)).rd (pk .GATE_TAG_ERR p) = s.counted (pk .GATE_TAG_ERR p) 1 :=
    rd_bump_self s _ 1
  have hgate : (((causeNow p cTiming).run ((bump (pk .GATE_TAG_ERR p)).run s)).pile p).gate = (s.pile p).gate := by
    rw [pile_causeNow, pile_bump]
  have hjob : ((causeNow p cTiming).run ((bump (pk .GATE_TAG_ERR p)).run s)).jobStarted = s.jobStarted := by
    have hstate : ((causeNow p cTiming).run ((bump (pk .GATE_TAG_ERR p)).run s)).rd (dk .JOB_STATE_STATE) = s.rd (dk .JOB_STATE_STATE) :=
      rd_bump_of_ne (k := pk .GATE_TAG_ERR p) (k' := dk .JOB_STATE_STATE) s nofun 1
    rw [State.jobStarted, State.jobState, hstate, State.jobStarted, State.jobState]
  dsimp only
  rw [tagError, Act.run_all_next, Act.run_all_next, Act.run_all_last]
  generalize (causeNow p cTiming).run ((bump (pk .GATE_TAG_ERR p)).run s) = u at hcount hgate hjob
  rw [Act.run_ask, Act.run_when, hjob]
  split
  · rw [Act.run_seq]
    refine ⟨?_, ?_, fun _ => rd_setR_self _ _ _⟩
    · rw [rd_setR_of_ne (k := dk .JOB_STATE_STATE) (k' := pk .GATE_TAG_ERR p) nofun,
        rd_setR_of_ne (k := pk .GATE_STATUS_STATE p) (k' := pk .GATE_TAG_ERR p) nofun, hcount]
    · rw [pile_setR, pile_setR, hgate]
  · exact ⟨hcount, hgate, fun h => absurd h ‹_›⟩

/-! ## A child's token (R191) -/

/-- A token that names the gate that its pile stands at. -/
structure State.OwnToken (s : State) (p : Nat) (k : GateToken) : Prop where
  loaded : s.jobLoaded = true
  uses   : s.usesPile p = true
  sw     : s.ready (domSw p) = true
  tag    : k.jobTag = s.jobTag
  step   : k.step = s.step
  phase  : k.phase = s.gatePhase p

theorem State.OwnToken.reached {s : State} {p : Nat} {k : GateToken} (h : s.OwnToken p k) :
    ¬ (!s.jobLoaded || !s.usesPile p || !s.ready (domSw p)) = true ∧ ¬ (k.jobTag != s.jobTag) = true := by
  obtain ⟨hloaded, huses, hsw, htag, -, -⟩ := h
  rw [hloaded, huses, hsw, htag, bne_self_eq_false]
  exact ⟨Bool.false_ne_true, Bool.false_ne_true⟩

/-- The gate of a pile with a child's token held. -/
def State.held (s : State) (p child : Nat) (k : GateToken) : State := (modGate p fun x => { x with kids := x.kids ++ [(child, k)] }).run s

theorem run_actArrive {s : State} {p child : Nat} {k : GateToken} (h : s.OwnToken p k) (hstart : s.jobStarted = true)
    (hgate : s.rd (pk .GATE_STATUS_STATE p) < 2) (hnew : ∀ c ∈ (s.pile p).gate.kids, c.1 ≠ child) (slot n : Nat) :
    (actArrive p slot child n k).run s = (combine p slot n).run (s.held p child k) := by
  have hown : s.ownGate p k = true := by
    simp [State.ownGate, hstart, h.step, h.phase, hgate]
  have hfirst : ¬ (!s.ownGate p k || (s.pile p).gate.kids.any (fun c => c.1 == child)) = true := by
    simp only [hown, Bool.not_true, Bool.false_or, List.any_eq_true, beq_iff_eq, not_exists, not_and]
    exact hnew
  rw [actArrive, Act.run_ask, if_neg h.reached.1, if_neg h.reached.2, if_neg hfirst, Act.run_seq, State.held]

/-- A token that joins the others shows its own causes. -/
theorem ofNat_or_and (n : Nat) (b : BitVec 32) : BitVec.ofNat 32 (n ||| b.toNat) &&& b = b := by
  apply BitVec.eq_of_getLsbD_eq
  intro i hi
  simpa [hi] using Or.inr

theorem arrive_joins {s : State} {p child : Nat} {k : GateToken} (slot n : Nat) : let t := (combine p slot n).run (s.held p child k)
    (t.pile p).gate.kids = (s.pile p).gate.kids ++ [(child, k)] ∧
      ((s.pile p).gate.arrivedAt = none → (t.pile p).gate.sends = (s.pile p).gate.sends) ∧
      ((s.pile p).gate.arrivedAt ≠ none → (s.pile p).gate.sentUp = false → n ≤ (s.pile p).gate.kids.length + 1 → s.isRoot p = false →
        ∃ u : GateToken, (t.pile p).gate.sends = (s.pile p).gate.sends ++
          [⟨s.parentPort p, true, { u with copy := 0 }⟩, ⟨s.parentPort p, true, { u with copy := 1 }⟩] ∧
          u.cause &&& k.cause = k.cause ∧ u.step = s.step) := by
  have hheld : ((s.held p child k).pile p).gate = { (s.pile p).gate with kids := (s.pile p).gate.kids ++ [(child, k)] } := by
    rw [State.held, pile_modGate]
  refine ⟨?_, fun hnone => ?_, fun harr hsent hkids hroot => ?_⟩
  · have hcore := core_run (fun g => cores_combine p slot n) (s.held p child k) p
    rw [hheld] at hcore
    exact congrArg GateSt.kids hcore
  · rw [combine, Act.run_ask, if_pos (by rw [hheld, hnone]; rfl), Act.run_done, hheld]
  · obtain ⟨-, hgate⟩ := combine_sends (u := s.held p child k) (p := p) (n := n) (by rw [hheld]; exact harr)
      (by rw [hheld, List.length_append]; exact hkids) (by rw [hheld]; exact hsent) hroot slot
    refine ⟨(s.held p child k).arriveToken p, ?_, ?_, rfl⟩
    · rw [hgate, State.parentPort, hheld, State.parentPort]
    · rw [State.arriveToken, State.gateCause, hheld, List.foldl_append]
      exact ofNat_or_and _ _

/-! ## RELEASE (R190, R191) -/

theorem sends_each_queueToken (p : Nat) (k : GateToken) (qs : List Nat) (s : State) :
    ((Act.each qs fun q => queueToken p q false k).run s).pile p = { s.pile p with gate := { (s.pile p).gate with
      sends := (s.pile p).gate.sends ++ qs.flatMap fun q => [⟨q, false, { k with copy := 0 }⟩, ⟨q, false, { k with copy := 1 }⟩] } } := by
  induction qs generalizing s with
  | nil =>
    rw [Act.run_each_nil, List.flatMap_nil, List.append_nil]
  | cons q qs ih =>
    rw [Act.run_each_cons, ih, queueToken, pile_modGate, List.flatMap_cons, List.append_assoc]

theorem rd_each_queueToken (p : Nat) (k : GateToken) (qs : List Nat) (s : State) (key : FKey) :
    ((Act.each qs fun q => queueToken p q false k).run s).rd key = s.rd key := by
  induction qs generalizing s with
  | nil => rfl
  | cons q qs ih =>
    rw [Act.run_each_cons, ih, queueToken, rd_modGate]

/-- A token that RELEASE's holder passes on: it is held, and waits twice for the port of every child. -/
theorem release_forwards (p : Nat) (k : GateToken) (s : State) : let t := (release p k).run s
    (t.pile p).gate.rel = some (k.openSlot, k.verdict) ∧ t.rd (pk .GATE_STATUS_STATE p) = 2 ∧
      (t.pile p).gate.sends = (s.pile p).gate.sends ++
        (s.childPorts p).flatMap fun q => [⟨q, false, { k with copy := 0 }⟩, ⟨q, false, { k with copy := 1 }⟩] := by
  have hpile : ((setR (pk .GATE_STATUS_STATE p) 2).run ((modGate p fun g => { g with rel := some (k.openSlot, k.verdict) }).run s)).pile p =
      { s.pile p with gate := { (s.pile p).gate with rel := some (k.openSlot, k.verdict) } } := by
    rw [pile_setR, pile_modGate]
  have hrd : ∀ key : FKey, key.f ≠ .GATE_STATUS_STATE → ((setR (pk .GATE_STATUS_STATE p) 2).run
      ((modGate p fun g => { g with rel := some (k.openSlot, k.verdict) }).run s)).rd key = s.rd key := fun key hk =>
    (rd_setR_of_ne (k := pk .GATE_STATUS_STATE p) hk 2 _).trans (rd_modGate _ _ _ _)
  have hstate : ((setR (pk .GATE_STATUS_STATE p) 2).run
      ((modGate p fun g => { g with rel := some (k.openSlot, k.verdict) }).run s)).rd (pk .GATE_STATUS_STATE p) = 2 := rd_setR_self _ _ _
  dsimp only
  rw [release, Act.run_all_next, Act.run_all_next, Act.run_all_last, sendRelease, Act.run_ask]
  generalize (setR (pk .GATE_STATUS_STATE p) 2).run ((modGate p fun g => { g with rel := some (k.openSlot, k.verdict) }).run s) = u at hpile hrd hstate
  have hports : u.childPorts p = s.childPorts p := by
    have hmode : u.swMode p = s.swMode p := hrd (pk .SW_STATUS_MODE p) nofun
    have hpage : u.page p = s.page p := hrd (pk .SW_STATUS_PAGE p) nofun
    have hparent : u.parentPort p = s.parentPort p := by rw [State.parentPort, hpile, State.parentPort]
    have hentries : u.pageEntries p = s.pageEntries p := by
      have hcount : ∀ i, u.rd (pk .PAGE_DIR_COUNT p i) = s.rd (pk .PAGE_DIR_COUNT p i) := fun _ => hrd _ nofun
      have hfirst : ∀ i, u.rd (pk .PAGE_DIR_FIRST p i) = s.rd (pk .PAGE_DIR_FIRST p i) := fun _ => hrd _ nofun
      have htable : ∀ i, u.rd (pk .SLOT_TABLE p i) = s.rd (pk .SLOT_TABLE p i) := fun _ => hrd _ nofun
      simp only [State.pageEntries, hmode, hpage, hcount, hfirst, htable]
    rw [State.childPorts, hentries, hparent, State.childPorts]
  rw [sends_each_queueToken, rd_each_queueToken, hpile, hports]
  exact ⟨rfl, hstate, rfl⟩

theorem run_actRelease {s : State} {p : Nat} {k : GateToken} (h : s.OwnToken p k) (htakes : s.takesRelease p = true) :
    (actRelease p k).run s = (release p k).run s := by
  have hgo : ¬ (!s.takesRelease p || k.step != s.step || k.phase != s.gatePhase p) = true := by
    rw [htakes, h.step, h.phase, bne_self_eq_false, bne_self_eq_false]
    exact Bool.false_ne_true
  rw [actRelease, Act.run_ask, if_neg h.reached.1, if_neg h.reached.2, if_neg hgo]

/-! ## The time base (R187-R189) -/

theorem actTimingMark_loads {s : State} (hen : s.on (dk .TB_CTL_ENABLE) = true) (hroot : s.on (dk .TB_CTL_ROOT) = false) (slot : Nat) :
    let t := (actTimingMark slot).run s
    t.tbLoaded = true ∧ t.rd (dk .TB_SLOT) = (slot + s.upLatency) % 2 ^ 64 := by
  have hslot : ((emit (.tbLoaded true)).run ((setR (dk .TB_SLOT) (slot + s.upLatency)).run s)).rd (dk .TB_SLOT) = (slot + s.upLatency) % 2 ^ 64 :=
    rd_setR_self _ _ s
  have hloaded : ((emit (.tbLoaded true)).run ((setR (dk .TB_SLOT) (slot + s.upLatency)).run s)).tbLoaded = true := rfl
  dsimp only
  rw [actTimingMark, Act.run_ask, Act.run_when, if_pos (by rw [hen, hroot]; rfl), Act.run_all_next, Act.run_all_next, Act.run_all_last]
  generalize (emit (.tbLoaded true)).run ((setR (dk .TB_SLOT) (slot + s.upLatency)).run s) = u at hslot hloaded
  rw [showAligned, Act.run_ask, Act.run_when]
  split
  · exact ⟨hloaded, (Upd.rd_reg_of_ne (k := dk .TB_STATUS_ALIGNED) (k' := dk .TB_SLOT) _ u (FKey.code_ne nofun)).trans hslot⟩
  · exact ⟨hloaded, hslot⟩

/-- Changes that leave the job as it was. -/
def Upd.Jobless (u : Upd) : Prop := ∀ t : State, (u.apply t).job = t.job

theorem jobless_raiseEvent (c p : Nat) (b : List Nat) : (raiseEvent c p b).Only Upd.Jobless := by
  refine only_raiseEvent (fun u hu t => ?_) (fun _ => rfl) (fun e t => ?_) (fun _ _ => rfl) c p b
  · cases u with
    | reg _ _ | setSession _ | dropSession _ | mailbox _ _ | lift _ | out _ => rfl
    | _ => exact absurd hu id
  · simp only [Upd.apply]
    split <;> rfl

theorem Act.Only.jobSame {a : Act} (h : a.Only Upd.Jobless) (s : State) : (a.run s).job = s.job :=
  h.same (read := State.job) (fun _ t hu => hu t) s

/-- Changes of a pile's own state alone. -/
theorem causes_same (ps : List Nat) (c : Nat) (s : State) : let t := (Act.each ps fun p => causeNow p c).run s
    (∀ k, t.rd k = s.rd k) ∧ t.lift = s.lift ∧ t.events = s.events ∧ t.job = s.job := by
  induction ps generalizing s with
  | nil => exact ⟨fun _ => rfl, rfl, rfl, rfl⟩
  | cons p ps ih =>
    obtain ⟨hrd, hlift, hevents, hjob⟩ := ih ((causeNow p c).run s)
    dsimp only at hrd hlift hevents hjob ⊢
    rw [Act.run_each_cons]
    exact ⟨hrd, hlift, hevents, hjob⟩

/-- The state of a device that has lost lock, before its event. -/
def State.unlocked (s : State) : State :=
  (Act.when s.jobStarted (Act.each s.usedPiles fun p => causeNow p cTiming)).run
    ((bump (dk .TB_STATUS_LOSS_COUNT)).run ((setR (dk .TB_STATUS_LOCKED) 0).run ((setR (dk .TB_STATUS_HOLDOVER) 1).run s)))

/-- What has been shown of a loss of lock, and that the rest stands. -/
structure LockLost (s t : State) : Prop where
  holdover : t.rd (dk .TB_STATUS_HOLDOVER) = 1
  locked   : t.rd (dk .TB_STATUS_LOCKED) = 0
  count    : t.rd (dk .TB_STATUS_LOSS_COUNT) = s.counted (dk .TB_STATUS_LOSS_COUNT) 1
  rest     : ∀ k : FKey, k.f ∉ [Fld.TB_STATUS_HOLDOVER, .TB_STATUS_LOCKED, .TB_STATUS_LOSS_COUNT] → t.rd k = s.rd k
  lift     : t.lift = s.lift
  events   : t.events = s.events
  job      : t.job = s.job

theorem lockLost_unlocked (s : State) : LockLost s s.unlocked := by
  have hshown : LockLost s ((bump (dk .TB_STATUS_LOSS_COUNT)).run ((setR (dk .TB_STATUS_LOCKED) 0).run ((setR (dk .TB_STATUS_HOLDOVER) 1).run s))) := by
    refine ⟨?_, ?_, ?_, fun k hk => ?_, rfl, rfl, rfl⟩
    · rw [rd_bump_of_ne (k := dk .TB_STATUS_LOSS_COUNT) (k' := dk .TB_STATUS_HOLDOVER) _ nofun,
        rd_setR_of_ne (k := dk .TB_STATUS_LOCKED) (k' := dk .TB_STATUS_HOLDOVER) nofun, rd_setR_self]
      rfl
    · rw [rd_bump_of_ne (k := dk .TB_STATUS_LOSS_COUNT) (k' := dk .TB_STATUS_LOCKED) _ nofun, rd_setR_self]
      rfl
    · rw [rd_bump_self]
      refine State.counted_congr ?_ 1
      rw [rd_setR_of_ne (k := dk .TB_STATUS_LOCKED) (k' := dk .TB_STATUS_LOSS_COUNT) nofun,
        rd_setR_of_ne (k := dk .TB_STATUS_HOLDOVER) (k' := dk .TB_STATUS_LOSS_COUNT) nofun]
    · simp only [List.mem_cons, List.not_mem_nil, or_false, not_or] at hk
      obtain ⟨hhold, hlock, hloss⟩ := hk
      rw [rd_bump_of_ne (k := dk .TB_STATUS_LOSS_COUNT) _ hloss, rd_setR_of_ne (k := dk .TB_STATUS_LOCKED) hlock,
        rd_setR_of_ne (k := dk .TB_STATUS_HOLDOVER) hhold]
  obtain ⟨hhold, hlock, hcount, hrest, hlift, hevents, hjob⟩ := hshown
  rw [State.unlocked, Act.run_when]
  split
  · obtain ⟨hrd, hlift', hevents', hjob'⟩ := causes_same s.usedPiles cTiming
      ((bump (dk .TB_STATUS_LOSS_COUNT)).run ((setR (dk .TB_STATUS_LOCKED) 0).run ((setR (dk .TB_STATUS_HOLDOVER) 1).run s)))
    exact ⟨(hrd _).trans hhold, (hrd _).trans hlock, (hrd _).trans hcount, fun k hk => (hrd k).trans (hrest k hk), hlift'.trans hlift,
      hevents'.trans hevents, hjob'.trans hjob⟩
  · exact ⟨hhold, hlock, hcount, hrest, hlift, hevents, hjob⟩

theorem loseLock_ends {s : State} (hen : s.on (dk .TB_CTL_ENABLE) = true) (hroot : s.on (dk .TB_CTL_ROOT) = false) : let t := loseLock.run s
    t.rd (dk .TB_STATUS_HOLDOVER) = 1 ∧ t.rd (dk .TB_STATUS_LOCKED) = 0 ∧
      t.rd (dk .TB_STATUS_LOSS_COUNT) = s.counted (dk .TB_STATUS_LOSS_COUNT) 1 ∧
      Raised s t 0x0003 0xFF ([s.rd (dk .TB_CTL_UP_PILE), s.rd (dk .TB_CTL_UP_PORT)] ++ bytesLE 2 (s.counted (dk .TB_STATUS_LOSS_COUNT) 1)) ∧
      t.job = (if s.jobStarted = true then { s.job with stopNext := true } else s.job) := by
  obtain ⟨hhold, hlock, hcount, hrest, hlift, hevents, hjob⟩ := lockLost_unlocked s
  have hrun : loseLock.run s = (Act.when s.jobStarted (modJob fun j => { j with stopNext := true })).run
      ((raiseEvent 0x0003 0xFF ([s.unlocked.rd (dk .TB_CTL_UP_PILE), s.unlocked.rd (dk .TB_CTL_UP_PORT)] ++
        bytesLE 2 (s.unlocked.rd (dk .TB_STATUS_LOSS_COUNT)))).run s.unlocked) := by
    rw [loseLock, Act.run_ask, if_neg (by rw [hen, hroot]; exact Bool.false_ne_true), Act.run_all_next, Act.run_all_next, Act.run_all_next,
      Act.run_all_next, Act.run_all_next, Act.run_all_last, Act.run_ask]
    rfl
  rw [hcount, hrest _ (show Fld.TB_CTL_UP_PILE ∉ _ by decide), hrest _ (show Fld.TB_CTL_UP_PORT ∉ _ by decide)] at hrun
  generalize s.unlocked = u at hhold hlock hcount hrest hlift hevents hjob hrun
  generalize hbytes : [s.rd (dk .TB_CTL_UP_PILE), s.rd (dk .TB_CTL_UP_PORT)] ++ bytesLE 2 (s.counted (dk .TB_STATUS_LOSS_COUNT) 1) = bs at hrun
  have hraised : Raised s ((raiseEvent 0x0003 0xFF bs).run u) 0x0003 0xFF bs :=
    (raised_raiseEvent 0x0003 0xFF bs u).of_before hlift hevents (hrest _ (show Fld.EVT_LOST ∉ _ by decide))
  have hrd : ∀ f, f ∉ eventFlds → ((raiseEvent 0x0003 0xFF bs).run u).rd (dk f) = u.rd (dk f) := fun f hf => rd_raiseEvent hf _ _ _ u
  have hjob' : ((raiseEvent 0x0003 0xFF bs).run u).job = s.job := ((jobless_raiseEvent _ _ _).jobSame u).trans hjob
  have hshown : ∀ t : State, (∀ k, t.rd k = ((raiseEvent 0x0003 0xFF bs).run u).rd k) → t.rd (dk .TB_STATUS_HOLDOVER) = 1 ∧
      t.rd (dk .TB_STATUS_LOCKED) = 0 ∧ t.rd (dk .TB_STATUS_LOSS_COUNT) = s.counted (dk .TB_STATUS_LOSS_COUNT) 1 := fun t ht =>
    ⟨(ht _).trans ((hrd _ (by decide)).trans hhold), (ht _).trans ((hrd _ (by decide)).trans hlock),
      (ht _).trans ((hrd _ (by decide)).trans hcount)⟩
  dsimp only
  rw [hrun, Act.run_when]
  generalize (raiseEvent 0x0003 0xFF bs).run u = v at hraised hjob' hshown
  split
  · obtain ⟨h1, h2, h3⟩ := hshown _ fun k => show ((modJob fun j => { j with stopNext := true }).run v).rd k = v.rd k from rfl
    refine ⟨h1, h2, h3, hraised, ?_⟩
    rw [← hjob']
    rfl
  · obtain ⟨h1, h2, h3⟩ := hshown v fun _ => rfl
    exact ⟨h1, h2, h3, hraised, hjob'⟩

/-! ## The gate's timeout (R194) -/

theorem run_actGateTimeout {s : State} (hroot : s.on (dk .TB_CTL_ROOT) = true) (hctl : s.on (dk .GATE_CTL_TIMEOUT) = true)
    (hstart : s.jobStarted = true) (hrel : (s.pile 0).gate.rel = none) (hgate : s.rd (pk .GATE_STATUS_STATE 0) < 2) :
    actGateTimeout.run s = (raiseEvent 0x0005 0 (bytesLE 2 (s.gatePhase 0) ++
      bytesLE 2 ((s.usedPiles.filter (fun p => (s.pile p).gate.arrivedAt.isSome)).map (fun p => 2 ^ p)).sum)).run s := by
  rw [actGateTimeout, Act.run_ask, if_neg]
  simp [hroot, hctl, hstart, hrel, hgate]

end Sys2Proof.Machine
end

section
open Sys2Proof Sys2Proof.Machine

/-- Settles O44: each token by what the gate logic does with it (`arrive_joins`, `release_forwards`), the time base by its own rows. -/
theorem gateTokensAct : Obligations.GateTokensAct := by
  refine ⟨fun s p slot child children k hloaded huses hsw => ⟨fun htag => ?_, fun htag hstart hstep hphase hgate hnew => ?_⟩,
    fun s p k hloaded huses hsw htag htakes hstep hphase => ?_, fun s hroot hctl hstart hrel hgate => ?_,
    fun s slot hen hroot => ⟨_, rfl, actTimingMark_loads hen hroot slot⟩, fun s hen => ?_, fun s hen hroot => ⟨_, rfl, loseLock_ends hen hroot⟩⟩
  · have hrun : (actArrive p.val slot child children k).run s = (tagError p.val).run s := by
      rw [actArrive, Act.run_ask, if_neg (by rw [hloaded, huses, hsw]; exact Bool.false_ne_true), if_pos (bne_iff_ne.mpr htag)]
    exact ⟨_, congrArg Host.Outcome.next hrun, tagError_counts p.val s⟩
  · exact ⟨_, congrArg Host.Outcome.next (run_actArrive ⟨hloaded, huses, hsw, htag, hstep, hphase⟩ hstart hgate hnew slot children),
      arrive_joins slot children⟩
  · exact ⟨_, congrArg Host.Outcome.next (run_actRelease ⟨hloaded, huses, hsw, htag, hstep, hphase⟩ htakes), release_forwards p.val k s⟩
  · exact ⟨_, congrArg Host.Outcome.next (run_actGateTimeout hroot hctl hstart hrel hgate), raised_raiseEvent _ _ _ s⟩
  · refine ⟨_, rfl, ?_⟩
    rw [Act.run_ask, Act.run_when, if_pos hen]
    exact rd_setR_self _ _ s

end

section
/-! PROOFS. The unscheduled class (R220, R227-R229). -/

namespace Sys2Proof.Machine

/-! ## Hops -/

theorem hop_modHop_self (p q : Nat) (f : UHop → UHop) (s : State) : ((modHop p q f).run s).hop p q = f (s.hop p q) := by
  rw [State.hop, modHop, sw_modSw, SMap.getD, SMap.find?_set_self]
  rfl

theorem hop_modHop_of_ne {p q j : Nat} (h : j ≠ q) (f : UHop → UHop) (s : State) : ((modHop p q f).run s).hop p j = s.hop p j := by
  rw [State.hop, modHop, sw_modSw, SMap.getD, SMap.find?_set_of_ne _ _ h]
  rfl

/-- What holds of a hop is kept where the change of any hop keeps it. -/
theorem hopIs_modHop {p q : Nat} {P : UHop → Prop} (j : Nat) {f : UHop → UHop} (h : ∀ x, P x → P (f x)) :
    (modHop p j f).Keeps fun t => P (t.hop p q) := fun s hs => by
  change P (((modHop p j f).run s).hop p q)
  by_cases hq : q = j
  · rw [hq, hop_modHop_self]
    exact h _ (hq ▸ hs)
  · rw [hop_modHop_of_ne hq]
    exact hs

/-- The hops of a pile, registers, the job and what was sent are unchanged. -/
structure HopsSame (p : Nat) (s t : State) : Prop where
  hop   : ∀ q, t.hop p q = s.hop p q
  rd    : ∀ k, t.rd k = s.rd k
  out   : t.out = s.out
  job   : t.job = s.job
  reset : (t.pile p).resetSrc = (s.pile p).resetSrc

theorem HopsSame.refl (p : Nat) (s : State) : HopsSame p s s := ⟨fun _ => rfl, fun _ => rfl, rfl, rfl, rfl⟩

theorem hopsSame_modSw {p : Nat} {f : SwSt → SwSt} (h : ∀ x, (f x).hops = x.hops) (s : State) : HopsSame p s ((modSw p f).run s) := by
  refine ⟨fun q => ?_, fun _ => rfl, rfl, rfl, ?_⟩
  · rw [State.hop, sw_modSw, h, State.hop]
  · rw [modSw, run_modPile, Upd.pile_pile_self]

section
variable {p : Nat} {s t : State} (h : HopsSame p s t)
include h

theorem HopsSame.ready (d : Nat) : t.ready d = s.ready d := ready_of_rd (fun k _ => h.rd k) d
theorem HopsSame.portUp (a q : Nat) : t.portUp a q = s.portUp a q := by simp only [State.portUp, State.power, h.rd]
theorem HopsSame.portDelivers (a q : Nat) : t.portDelivers a q = s.portDelivers a q := by
  simp only [State.portDelivers, h.portUp, h.rd]
theorem HopsSame.deviceNo : t.deviceNo = s.deviceNo := by rw [State.deviceNo, h.job, State.deviceNo]
theorem HopsSame.goesOn (f : UFrame) : t.goesOn p f = s.goesOn p f := by
  have hroute : t.route p f = s.route p f := by
    rw [State.route, h.deviceNo, State.on, h.rd, h.rd (dk .UR_PORT_PILE _), h.rd (dk .UR_PORT_PORT _)]
    rfl
  simp only [State.goesOn, hroute, h.portUp]
theorem HopsSame.heldFrom (q : Nat) : t.heldFrom p q = s.heldFrom p q := by simp only [State.heldFrom, h.hop]
theorem HopsSame.endpointWaits (e : Nat) : t.endpointWaits p e = s.endpointWaits p e := by
  rw [State.endpointWaits, h.ready, State.power, h.rd, State.endpointWaits, State.power]

end

/-! ## A frame's delivery (R227) -/

theorem out_demandWake (d : Nat) (s : State) : ((demandWake d).run s).out = s.out := by
  have hset : ∀ k v, (setR k v).Only (fun u => ∀ t : State, (u.apply t).out = t.out) := fun _ _ => ⟨fun _ => rfl, trivial⟩
  have hmod : ∀ e (f : DomSt → DomSt), (modDom e f).Only (fun u => ∀ t : State, (u.apply t).out = t.out) := fun _ _ _ => ⟨fun _ => rfl, trivial⟩
  have honly : (demandWake d).Only (fun u => ∀ t : State, (u.apply t).out = t.out) := fun _ =>
    Act.only_ite trivial <| Act.only_ite trivial <| Act.only_seq (only_bump fun _ _ => rfl) <| Act.only_seq (fun _ =>
      Act.only_ite (Act.only_seq (hset _ _) (hmod _ _)) <| Act.only_ite (hmod _ _) <|
        Act.only_ite trivial (Act.only_seq (hset _ _) (hmod _ _))) (Act.only_when fun _ => hmod _ _)
  exact honly.same (read := State.out) (fun _ t hu => hu t) s

theorem pile_demandWake (d : Nat) (s : State) (q : Nat) : ((demandWake d).run s).pile q = s.pile q :=
  (noPile_demandWake d).same (read := fun t => t.pile q) (fun _ t hu => hu.pile_apply t q) s

theorem deliverFrame_delivers (p : Nat) (f : UFrame) (s : State) : let t := (deliverFrame p f).run s
    (s.endpointWaits p f.dstEp = false → t.out = s.out ++ [.deliver p f]) ∧
      (s.endpointWaits p f.dstEp = true → t.out = s.out ∧ (t.pile p).sw.toWake = (s.pile p).sw.toWake ++ [f]) := by
  dsimp only
  rw [deliverFrame, Act.run_ask]
  refine ⟨fun hready => ?_, fun hwaits => ?_⟩
  · rw [if_neg (by rw [hready]; exact Bool.false_ne_true)]
    rfl
  · rw [if_pos hwaits, Act.run_seq, sw_modSw, pile_demandWake]
    exact ⟨out_demandWake _ s, rfl⟩

/-- A frame for an endpoint of this pile. -/
theorem run_routeFrame_here {s : State} {p : Nat} {f : UFrame} (hp : p < 16) (hdev : f.dstDev = s.deviceNo) (hpile : f.dstPile = p)
    (hreset : (s.pile p).resetSrc = 0) (q n : Nat) : (routeFrame p q f (n + 1)).run s = (deliverFrame p f).run s := by
  have hroute : s.route p f = some 0 := by
    rw [State.route, if_pos hdev, if_neg (by omega), if_neg (by omega), if_pos hpile]
  rw [routeFrame, Act.run_ask, hroute, if_neg (by rw [hreset]; decide)]
  rfl


/-- A hop but for the frames that wait for it. -/
def UHop.link (x : UHop) : UHop := { x with waiting := [] }

/-- What routing a frame keeps of a pile: the count of frames received, and each hop but for the frames that wait for it. -/
structure Routed (p : Nat) (s t : State) : Prop where
  hop   : ∀ q, (t.hop p q).link = (s.hop p q).link
  count : t.rd (pk .SW_UNSCHED_RX p) = s.rd (pk .SW_UNSCHED_RX p)

theorem routed_deliverFrame (p : Nat) (r : State) (f : UFrame) : (deliverFrame p f).Keeps (Routed p r) := by
  have hwake : (demandWake (endpointDomain p f.dstEp)).Keeps (Routed p r) := fun s hs => by
    refine ⟨fun q => ?_, ?_⟩
    · rw [State.hop, pile_demandWake]
      exact hs.hop q
    · rw [(spares_demandWake_of (fs := [.SW_UNSCHED_RX]) (by decide) _).rd_spared (List.mem_singleton_self _)]
      exact hs.count
  refine Act.keeps_asked fun _ => Act.keeps_ite (Act.keeps_seq hwake fun s hs => ?_) fun _ hs => ⟨hs.hop, hs.count⟩
  have hsame := hopsSame_modSw (p := p) (f := fun w => { w with toWake := w.toWake ++ [f] }) (fun _ => rfl) s
  exact ⟨fun q => by rw [hsame.hop]; exact hs.hop q, (hsame.rd _).trans hs.count⟩

theorem routed_modHop (p : Nat) (r : State) (j : Nat) {g : UHop → UHop} (h : ∀ x, (g x).link = x.link) : (modHop p j g).Keeps (Routed p r) :=
  fun t ht => ⟨fun q => hopIs_modHop (P := fun x => x.link = (r.hop p q).link) j (fun x hx => (h x).trans hx) t (ht.hop q), ht.count⟩

theorem routed_routeFrame (p : Nat) (r : State) (from' : Nat) (f : UFrame) (n : Nat) : (routeFrame p from' f n).Keeps (Routed p r) := by
  induction n generalizing from' f with
  | zero => exact Act.keeps_done _
  | succ n ih =>
    refine Act.keeps_asked fun s => ?_
    split
    · exact ih _ _
    · exact Act.keeps_ite (ih _ _) (routed_deliverFrame p r f)
    · exact Act.keeps_ite (routed_modHop p r _ fun _ => rfl) (ih _ _)

/-! ## A frame that arrives on a port (R229) -/

/-- A port that a frame or a ULINK frame arrives on. -/
structure State.FrameAt (s : State) (p q : Nat) : Prop where
  sw   : s.ready (domSw p) = true
  one  : 1 ≤ q
  last : q ≤ 7
  port : s.portDelivers p q = true

theorem HopsSame.frameAt {p q : Nat} {s t : State} (h : HopsSame p s t) (hs : s.FrameAt p q) : t.FrameAt p q :=
  ⟨(h.ready _).trans hs.sw, hs.one, hs.last, (h.portDelivers p q).trans hs.port⟩

/-- At a bridge end the frame comes off the wire; beside that, it arrives as on any port. -/
theorem run_frameRow {s : State} {p q n : Nat} {f : UFrame} (hwire : q < 4 ∨ s.onWire p q n f ≠ none) :
    ∃ u, HopsSame p s u ∧ (q < 4 → u = s) ∧ (frameRow p q n f).run s = (actUnschedFrame p q n f).run u := by
  rw [frameRow]
  by_cases hq : q < 4
  · exact ⟨s, .refl p s, fun _ => rfl, by rw [if_pos hq]⟩
  · obtain ⟨k, hk⟩ := Option.ne_none_iff_exists'.mp (hwire.resolve_left hq)
    rw [if_neg hq, Act.run_ask, hk]
    dsimp only
    exact ⟨_, hopsSame_modSw (f := fun w => { w with wires := SMap.set w.wires k none }) (fun _ => rfl) s, fun h => absurd h hq, Act.run_seq _ _ _⟩

section
variable {s : State} {p q n : Nat} {f : UFrame} (h : s.FrameAt p q)
include h

theorem run_actUnschedFrame : (actUnschedFrame p q n f).run s =
    (if (s.hop p q).rxNext = n % 256 then
      Act.when (decide (s.heldFrom p q < (freshHop q).credits)) (Act.all [
        modHop p q (fun h => { h with rxNext := (h.rxNext + 1) % 256 }),
        bump (pk .SW_UNSCHED_RX p),
        routeFrame p q f 2,
        pushUlink p q ⟨(n + 1) % 256, if s.goesOn p f then 0 else 1, false⟩])
    else pushUlink p q ⟨(s.hop p q).rxNext, 0, decide ((n + 256 - (s.hop p q).rxNext) % 256 < 128)⟩).run s := by
  obtain ⟨hsw, hone, hlast, hport⟩ := h
  rw [actUnschedFrame, Act.run_ask, if_neg (by simp [hsw, hlast]), if_neg (by omega), if_neg (by rw [hport]; exact Bool.false_ne_true)]

/-- The next frame in order is taken, counted, routed and acknowledged. -/
theorem frame_taken (hp : p < 16) (hnext : (s.hop p q).rxNext = n % 256) (hroom : s.heldFrom p q < (freshHop q).credits) :
    let t := (actUnschedFrame p q n f).run s
    (t.hop p q).rxNext = (n % 256 + 1) % 256 ∧ t.rd (pk .SW_UNSCHED_RX p) = s.counted (pk .SW_UNSCHED_RX p) 1 ∧
      (⟨(n + 1) % 256, if s.goesOn p f = true then 0 else 1, false⟩ : Ulink) ∈ (t.hop p q).acks ∧
      (f.dstDev = s.deviceNo → f.dstPile = p → (s.pile p).resetSrc = 0 → s.endpointWaits p f.dstEp = false → Out.deliver p f ∈ t.out) := by
  dsimp only
  rw [run_actUnschedFrame h, if_pos hnext, Act.run_when, if_pos (decide_eq_true hroom), Act.run_all_next, Act.run_all_next, Act.run_all_next,
    Act.run_all_last, pushUlink]
  have hhop : ((modHop p q fun x => { x with rxNext := (x.rxNext + 1) % 256 }).run s).hop p q =
      { s.hop p q with rxNext := (n % 256 + 1) % 256 } := by
    rw [hop_modHop_self, hnext]
  have hcount : ((bump (pk .SW_UNSCHED_RX p)).run ((modHop p q fun x => { x with rxNext := (x.rxNext + 1) % 256 }).run s)).rd (pk .SW_UNSCHED_RX p) =
      s.counted (pk .SW_UNSCHED_RX p) 1 := rd_bump_self _ _ 1
  have hrd : ∀ k : FKey, k.f ≠ .SW_UNSCHED_RX →
      ((bump (pk .SW_UNSCHED_RX p)).run ((modHop p q fun x => { x with rxNext := (x.rxNext + 1) % 256 }).run s)).rd k = s.rd k := fun k hk =>
    rd_bump_of_ne (k := pk .SW_UNSCHED_RX p) _ hk 1
  have hreset : (((bump (pk .SW_UNSCHED_RX p)).run ((modHop p q fun x => { x with rxNext := (x.rxNext + 1) % 256 }).run s)).pile p).resetSrc =
      (s.pile p).resetSrc := by
    rw [pile_bump, modHop, modSw, run_modPile, Upd.pile_pile_self]
  have hhop' : ((bump (pk .SW_UNSCHED_RX p)).run ((modHop p q fun x => { x with rxNext := (x.rxNext + 1) % 256 }).run s)).hop p q =
      { s.hop p q with rxNext := (n % 256 + 1) % 256 } := by
    rw [State.hop, pile_bump]
    exact hhop
  have hdev : ((bump (pk .SW_UNSCHED_RX p)).run ((modHop p q fun x => { x with rxNext := (x.rxNext + 1) % 256 }).run s)).deviceNo = s.deviceNo := rfl
  generalize (bump (pk .SW_UNSCHED_RX p)).run ((modHop p q fun x => { x with rxNext := (x.rxNext + 1) % 256 }).run s) = u at hcount hrd hreset hhop' hdev
  obtain ⟨hkept, hrx⟩ := routed_routeFrame p u q f 2 u ⟨fun _ => rfl, rfl⟩
  have hlink := (hkept q).trans (congrArg UHop.link hhop')
  refine ⟨?_, ?_, ?_, fun hto hpile hre hwaits => ?_⟩
  · rw [hop_modHop_self]
    exact congrArg UHop.rxNext hlink
  · exact hrx.trans hcount
  · rw [hop_modHop_self]
    exact List.mem_append_right _ (List.mem_singleton_self _)
  · have hwaits' : u.endpointWaits p f.dstEp = false := by
      rw [State.endpointWaits, ready_of_rd (fun k hk => hrd k ((by decide : ∀ g ∈ readyFlds, g ≠ .SW_UNSCHED_RX) k.f hk)), State.power,
        hrd (dk .PWR_STATE_STATE _) nofun]
      exact hwaits
    have hout : ((routeFrame p q f 2).run u).out = u.out ++ [.deliver p f] := by
      rw [run_routeFrame_here hp (hto.trans hdev.symm) hpile (hreset.trans hre)]
      exact (deliverFrame_delivers p f u).1 hwaits'
    change _ ∈ ((routeFrame p q f 2).run u).out
    rw [hout]
    exact List.mem_append_right _ (List.mem_singleton_self _)

/-- A frame out of its turn is answered with the number awaited. -/
theorem frame_refused (hnext : (s.hop p q).rxNext ≠ n % 256) : let t := (actUnschedFrame p q n f).run s
    t.out = s.out ∧ t.hop p q = { s.hop p q with acks := (s.hop p q).acks ++
      [⟨(s.hop p q).rxNext, 0, decide ((n + 256 - (s.hop p q).rxNext) % 256 < 128)⟩] } := by
  dsimp only
  rw [run_actUnschedFrame h, if_neg hnext, pushUlink]
  exact ⟨rfl, hop_modHop_self _ _ _ s⟩

/-- One that finds its port's buffer full is not taken. -/
theorem frame_full (hnext : (s.hop p q).rxNext = n % 256) (hfull : (freshHop q).credits ≤ s.heldFrom p q) :
    (actUnschedFrame p q n f).run s = s := by
  rw [run_actUnschedFrame h, if_pos hnext, Act.run_when, if_neg (by simpa using hfull)]

/-! ## ULINK frames and retries (R229) -/

theorem ulink_taken {u : Ulink} (hcame : q < 4 ∨ (q, u) ∈ (s.pile p).sw.ulinks) : let t := (actUlink p q u).run s
    t.out = s.out ∧ t.hop p q = { ackedHop (s.hop p q) u.next with
      credits := min (freshHop q).credits ((s.hop p q).credits + u.credits)
      again := if u.again = true then (ackedHop (s.hop p q) u.next).unacked.map Prod.fst else (ackedHop (s.hop p q) u.next).again } := by
  obtain ⟨hsw, hone, hlast, hport⟩ := h
  have hwire : (decide (4 ≤ q) && !(s.pile p).sw.ulinks.contains (q, u)) = false := by
    rcases hcame with hq | hmem
    · simp [hq]
    · simp [hmem]
  have hgo : ¬ (!s.ready (domSw p) || q = 0 || decide (7 < q) || !s.portDelivers p q || (decide (4 ≤ q) && !(s.pile p).sw.ulinks.contains (q, u))) = true := by
    rw [hwire, hsw, hport, decide_eq_false (p := q = 0) (by omega), decide_eq_false (p := 7 < q) (by omega)]
    decide
  dsimp only
  rw [actUlink, Act.run_ask, if_neg hgo, Act.run_all_next, Act.run_all_next, Act.run_all_last]
  have hfirst : HopsSame p s ((Act.when (decide (4 ≤ q)) (modSw p fun w => { w with ulinks := w.ulinks.erase (q, u) })).run s) := by
    rw [Act.run_when]
    split
    · exact hopsSame_modSw (f := fun w => { w with ulinks := w.ulinks.erase (q, u) }) (fun _ => rfl) s
    · exact .refl p s
  generalize (Act.when (decide (4 ≤ q)) (modSw p fun w => { w with ulinks := w.ulinks.erase (q, u) })).run s = v at hfirst
  rw [Act.run_when]
  split
  next hagain =>
    refine ⟨hfirst.out, ?_⟩
    rw [resendHop, hop_modHop_self, hop_modHop_self, hfirst.hop]
  next hagain =>
    refine ⟨hfirst.out, ?_⟩
    rw [hop_modHop_self, hfirst.hop]

end

theorem retry_resends {s : State} {p q : Nat} (hsw : s.ready (domSw p) = true) (hone : 1 ≤ q) (hlast : q ≤ 7) (hup : s.portUp p q = true) :
    let t := (actUnschedRetry p q).run s
    t.out = s.out ∧ t.hop p q = { s.hop p q with again := (s.hop p q).unacked.map Prod.fst } := by
  have hgo : ¬ (!s.ready (domSw p) || q = 0 || decide (7 < q) || !s.portUp p q) = true := by
    rw [hsw, hup, decide_eq_false (p := q = 0) (by omega), decide_eq_false (p := 7 < q) (by omega)]
    decide
  dsimp only
  rw [actUnschedRetry, Act.run_ask, if_neg hgo, resendHop, hop_modHop_self]
  exact ⟨rfl, rfl⟩

/-! ## Free way-slots (R220) -/

/-- What tells whether a port may send now. -/
def mayFlds : List Fld := [.SW_CTL_UNSCHED_EN, .PWR_STATE_STATE, .LNK_STATUS_STATE, .BRG_STATUS_STATE]

theorem maySend_congr {s t : State} (h : ∀ k : FKey, k.f ∈ mayFlds → t.rd k = s.rd k) (p q : Nat) : t.maySend p q = s.maySend p q := by
  have hen : t.rd (pk .SW_CTL_UNSCHED_EN p) = s.rd (pk .SW_CTL_UNSCHED_EN p) := h _ (show Fld.SW_CTL_UNSCHED_EN ∈ mayFlds by decide)
  have hpwr : ∀ d, t.rd (dk .PWR_STATE_STATE d) = s.rd (dk .PWR_STATE_STATE d) := fun _ => h _ (show Fld.PWR_STATE_STATE ∈ mayFlds by decide)
  have hlnk : ∀ k, t.rd (pk .LNK_STATUS_STATE p k) = s.rd (pk .LNK_STATUS_STATE p k) := fun _ => h _ (show Fld.LNK_STATUS_STATE ∈ mayFlds by decide)
  have hbrg : ∀ k, t.rd (pk .BRG_STATUS_STATE p k) = s.rd (pk .BRG_STATUS_STATE p k) := fun _ => h _ (show Fld.BRG_STATUS_STATE ∈ mayFlds by decide)
  simp only [State.maySend, State.portUp, State.retraining, State.on, State.power, hen, hpwr, hlnk, hbrg]

/-- What a frame that leaves keeps of every pile's switch. -/
def SwSt.still (w : SwSt) : SMap UHop × Option Nat := (w.hops, w.freeAt)

section
variable {r : State}

theorem still_wireOn (p slot way : Nat) (g : Gondola) : (wireOn p slot way g).Keeps (SwitchKept SwSt.still mayFlds r) :=
  Act.keeps_asked fun _ => Act.keeps_when (kept_modSw _ fun _ => rfl)

theorem still_sendUnsched (p slot way n : Nat) (f : UFrame) : (sendUnsched p slot way n f).Keeps (SwitchKept SwSt.still mayFlds r) :=
  Act.keeps_seq (kept_send _) (still_wireOn p slot way _)

theorem still_sendUlink (p slot way : Nat) (u : Ulink) : (sendUlink p slot way u).Keeps (SwitchKept SwSt.still mayFlds r) :=
  Act.keeps_seq (kept_send _) (Act.keeps_asked fun _ => Act.keeps_when (kept_modSw _ fun _ => rfl))

end

/-- What keeps a pile's switch and the registers that a port's sending turns on. -/
def Still (s t : State) : Prop := SwitchKept SwSt.still mayFlds s t

theorem Still.hop {s t : State} (h : Still s t) (p q : Nat) : t.hop p q = s.hop p q := by
  rw [State.hop, show (t.pile p).sw.hops = (s.pile p).sw.hops from congrArg Prod.fst (h.sw p), State.hop]

theorem Still.freeAt {s t : State} (h : Still s t) (p : Nat) : (t.pile p).sw.freeAt = (s.pile p).sw.freeAt := congrArg Prod.snd (h.sw p)

theorem freeAt_modHop (p q : Nat) (f : UHop → UHop) (s : State) : (((modHop p q f).run s).pile p).sw.freeAt = (s.pile p).sw.freeAt := by
  rw [modHop, sw_modSw]

/-- A port's turn has not come: its hop stands as it did, it may send, and no frame waits on the other ports. -/
structure Turn (p q slot : Nat) (h : UHop) (t : State) : Prop where
  hop    : t.hop p q = h
  may    : t.maySend p q = true
  others : ∀ j, j ≠ q → 1 ≤ j → j ≤ 7 → (t.hop p j).waiting = []
  freeAt : (t.pile p).sw.freeAt = some slot

section
variable {p q slot : Nat} {h : UHop}

theorem Turn.still {s t : State} (hs : Turn p q slot h s) (hst : Still s t) : Turn p q slot h t :=
  ⟨(hst.hop p q).trans hs.hop, (maySend_congr hst.rd p q).trans hs.may, fun j hj h1 h7 => by rw [hst.hop]; exact hs.others j hj h1 h7,
    (hst.freeAt p).trans hs.freeAt⟩

theorem Turn.modHop {s : State} (hs : Turn p q slot h s) {j : Nat} (hj : j ≠ q) {f : UHop → UHop} (hf : ∀ x, (f x).waiting = x.waiting) :
    Turn p q slot h ((modHop p j f).run s) := by
  refine ⟨(hop_modHop_of_ne hj.symm f s).trans hs.hop, hs.may, fun i hi h1 h7 => ?_, (freeAt_modHop p j f s).trans hs.freeAt⟩
  exact hopIs_modHop (P := fun x => x.waiting = []) j (fun x hx => (hf x).trans hx) s (hs.others i hi h1 h7)

/-- What another port sends leaves a port's turn as it was. -/
theorem turn_freeWay {j : Nat} (hj : j ≠ q) (h1 : 1 ≤ j) (h7 : j ≤ 7) (way : Nat) : (freeWay p slot j way).Keeps (Turn p q slot h) := by
  intro s hs
  have hnone := hs.others j hj h1 h7
  rw [freeWay, Act.run_ask]
  dsimp only
  split
  · exact hs
  · split
    next u r hacks =>
      rw [Act.run_seq]
      exact (hs.modHop hj (f := fun x => { x with acks := r }) fun _ => rfl).still (still_sendUlink p slot way u _ (.refl _))
    next u r hacks hagain =>
      rw [Act.run_all_next, Act.run_all_next, Act.run_all_last]
      exact ((hs.modHop hj (f := fun x => { x with again := x.again.erase u.1 }) fun _ => rfl).still
        (kept_bump (show Fld.SW_UNSCHED_RETRY ∉ mayFlds by decide) 1 _ (.refl _))).still (still_sendUnsched p slot way u.1 u.2 _ (.refl _))
    next f r _ _ hwait => exact absurd (hnone.symm.trans hwait) nofun
    next => exact hs

/-- A port's turn has come on a way: what it had waiting has gone out, a ULINK frame, a frame to be sent again, or a new one against a
credit. -/
structure PortSent (p q slot way : Nat) (h : UHop) (t : State) : Prop where
  freeAt : (t.pile p).sw.freeAt = some slot
  ack    : ∀ u r, h.acks = u :: r → Out.ack p slot way u ∈ t.out
  again  : h.acks = [] → ∀ u r, h.unacked.filter (fun u => h.again.contains u.1) = u :: r → Out.frame p slot way u.1 u.2 ∈ t.out
  next   : h.acks = [] → h.unacked.filter (fun u => h.again.contains u.1) = [] → ∀ x r, h.waiting = x :: r → h.credits ≠ 0 →
    Out.frame p slot way h.txNext x.2 ∈ t.out ∧ (h.txNext, x.2) ∈ (t.hop p q).unacked

theorem mem_out_run (a : Act) {s : State} {o : Out} (ho : o ∈ s.out) : o ∈ (a.run s).out :=
  (Act.keeps (goesOn_apply s) a ⟨rfl, List.prefix_refl _, Nat.le_refl _⟩).out.subset ho

theorem mem_out_send (o : Out) (s : State) : o ∈ ((send o).run s).out := List.mem_append_right _ (List.mem_singleton_self o)

theorem sent_sendUlink (way : Nat) (u : Ulink) (s : State) : Out.ack p slot way u ∈ ((sendUlink p slot way u).run s).out := by
  rw [sendUlink, Act.run_seq]
  exact mem_out_run _ (mem_out_send _ s)

theorem sent_sendUnsched (way n : Nat) (f : UFrame) (s : State) : Out.frame p slot way n f ∈ ((sendUnsched p slot way n f).run s).out := by
  rw [sendUnsched, Act.run_seq]
  exact mem_out_run _ (mem_out_send _ s)

theorem freeAt_giveCredit {s : State} (hs : (s.pile p).sw.freeAt = some slot) (j : Nat) : (((giveCredit p j).run s).pile p).sw.freeAt = some slot := by
  rw [giveCredit]
  split
  · exact hs
  · rw [Act.run_ask, pushUlink, freeAt_modHop, hs]

theorem unacked_giveCredit {e : Nat × UFrame} (j : Nat) : (giveCredit p j).Keeps fun t => e ∈ (t.hop p q).unacked :=
  Act.keeps_ite (Act.keeps_done _) (Act.keeps_asked fun _ => hopIs_modHop (P := fun x => e ∈ x.unacked) j fun _ hx => hx)

/-- A frame sent and not acknowledged stays so, whatever else leaves. -/
theorem unacked_freeWay {e : Nat × UFrame} (at' j way : Nat) : (freeWay p at' j way).Keeps fun t => e ∈ (t.hop p q).unacked := by
  have hstill : ∀ {a : Act}, (∀ r, a.Keeps (SwitchKept SwSt.still mayFlds r)) → a.Keeps fun t => e ∈ (t.hop p q).unacked := fun ha s hs => by
    change e ∈ ((_ : State).hop p q).unacked
    rw [Still.hop (ha s s (.refl s))]
    exact hs
  have hmod : ∀ {f : UHop → UHop}, (∀ x, x.unacked ⊆ (f x).unacked) → (modHop p j f).Keeps fun t => e ∈ (t.hop p q).unacked := fun hf =>
    hopIs_modHop (P := fun x => e ∈ x.unacked) j fun x hx => hf x hx
  have hbump : ∀ {k : FKey}, k.f ∉ mayFlds → (bump k).Keeps fun t => e ∈ (t.hop p q).unacked := fun hk => hstill fun _ => kept_bump hk 1
  refine Act.keeps_asked fun s => Act.keeps_ite (Act.keeps_done _) ?_
  split
  · exact Act.keeps_seq (hmod fun _ => List.Subset.refl _) (hstill fun _ => still_sendUlink p at' way _)
  · exact Act.keeps_list ⟨hmod fun _ => List.Subset.refl _, hbump (show Fld.SW_UNSCHED_RETRY ∉ mayFlds by decide),
      hstill fun _ => still_sendUnsched p at' way _ _⟩
  · exact Act.keeps_when (Act.keeps_list ⟨hmod fun _ => List.subset_append_left _ _, hbump (show Fld.SW_UNSCHED_TX ∉ mayFlds by decide),
      hstill fun _ => still_sendUnsched p at' way _ _, unacked_giveCredit _⟩)
  · exact Act.keeps_done _

theorem freeAt_freeWay (at' j way : Nat) : (freeWay p at' j way).Keeps fun t => (t.pile p).sw.freeAt = some slot := by
  have hstill : ∀ {a : Act}, (∀ r, a.Keeps (SwitchKept SwSt.still mayFlds r)) → a.Keeps fun t => (t.pile p).sw.freeAt = some slot := fun ha s hs =>
    (Still.freeAt (ha s s (.refl s)) p).trans hs
  have hmod : ∀ f, (modHop p j f).Keeps fun t => (t.pile p).sw.freeAt = some slot := fun f s hs => (freeAt_modHop p j f s).trans hs
  have hbump : ∀ {k : FKey}, k.f ∉ mayFlds → (bump k).Keeps fun t => (t.pile p).sw.freeAt = some slot := fun hk => hstill fun _ => kept_bump hk 1
  refine Act.keeps_asked fun s => Act.keeps_ite (Act.keeps_done _) ?_
  split
  · exact Act.keeps_seq (hmod _) (hstill fun _ => still_sendUlink p at' way _)
  · exact Act.keeps_list ⟨hmod _, hbump (show Fld.SW_UNSCHED_RETRY ∉ mayFlds by decide), hstill fun _ => still_sendUnsched p at' way _ _⟩
  · exact Act.keeps_when (Act.keeps_list ⟨hmod _, hbump (show Fld.SW_UNSCHED_TX ∉ mayFlds by decide),
      hstill fun _ => still_sendUnsched p at' way _ _, fun s hs => freeAt_giveCredit hs _⟩)
  · exact Act.keeps_done _

theorem portSent_freeWay {way : Nat} (j w : Nat) : (freeWay p slot j w).Keeps (PortSent p q slot way h) := by
  intro s hs
  refine ⟨freeAt_freeWay slot j w s hs.freeAt, fun u r he => mem_out_run _ (hs.ack u r he), fun hnil u r he => mem_out_run _ (hs.again hnil u r he),
    fun hnil hnone x r he hc => ?_⟩
  obtain ⟨hout, hmem⟩ := hs.next hnil hnone x r he hc
  exact ⟨mem_out_run _ hout, unacked_freeWay slot j w s hmem⟩

theorem turn_sends {s : State} (hs : Turn p q slot h s) (way : Nat) : PortSent p q slot way h ((freeWay p slot q way).run s) := by
  obtain ⟨hhop, hmay, -, hfree⟩ := hs
  rw [freeWay, Act.run_ask]
  dsimp only
  rw [hhop, if_neg (by rw [hmay]; exact Bool.false_ne_true)]
  split
  next u r hacks =>
    rw [Act.run_seq]
    refine ⟨?_, fun v l he => ?_, fun hnil => absurd (hnil.symm.trans hacks) nofun, fun hnil => absurd (hnil.symm.trans hacks) nofun⟩
    · exact (Still.freeAt (still_sendUlink p slot way u _ (.refl _)) p).trans ((freeAt_modHop p q _ s).trans hfree)
    · cases hacks.symm.trans he
      exact sent_sendUlink way _ _
  next u r hacks hagain =>
    rw [Act.run_all_next, Act.run_all_next, Act.run_all_last]
    refine ⟨?_, fun v l he => absurd (hacks.symm.trans he) nofun, fun _ v l he => ?_, fun _ hnil => absurd (hnil.symm.trans hagain) nofun⟩
    · have hcount : Still _ _ := kept_bump (f := SwSt.still) (k := pk .SW_UNSCHED_RETRY p) (show Fld.SW_UNSCHED_RETRY ∉ mayFlds by decide) 1
        ((modHop p q fun x => { x with again := x.again.erase u.1 }).run s) (.refl _)
      exact (Still.freeAt (still_sendUnsched p slot way u.1 u.2 _ (.refl _)) p).trans
        ((hcount.freeAt p).trans ((freeAt_modHop p q _ s).trans hfree))
    · cases hagain.symm.trans he
      exact sent_sendUnsched way _ _ _
  next f r hacks hagain hwait =>
    rw [Act.run_when]
    by_cases hcredit : h.credits = 0
    · rw [if_neg (by simp [hcredit])]
      exact ⟨hfree, fun v l he => absurd (hacks.symm.trans he) nofun, fun _ v l he => absurd (hagain.symm.trans he) nofun,
        fun _ _ _ _ _ hc => absurd hcredit hc⟩
    · rw [if_pos (by simp [hcredit]), Act.run_all_next, Act.run_all_next, Act.run_all_next, Act.run_all_last]
      have hmod := hop_modHop_self p q (fun x => { x with
        waiting := r, credits := x.credits - 1, txNext := (x.txNext + 1) % 256, unacked := x.unacked ++ [(x.txNext, f.2)] }) s
      have hat := freeAt_modHop p q (fun x => { x with
        waiting := r, credits := x.credits - 1, txNext := (x.txNext + 1) % 256, unacked := x.unacked ++ [(x.txNext, f.2)] }) s
      rw [hhop] at hmod
      generalize (modHop p q fun x => { x with
        waiting := r, credits := x.credits - 1, txNext := (x.txNext + 1) % 256, unacked := x.unacked ++ [(x.txNext, f.2)] }).run s = v at hmod hat
      have hcount : Still v ((bump (pk .SW_UNSCHED_TX p)).run v) := kept_bump (show Fld.SW_UNSCHED_TX ∉ mayFlds by decide) 1 v (.refl _)
      have hleft : Still _ _ := still_sendUnsched p slot way h.txNext f.2 ((bump (pk .SW_UNSCHED_TX p)).run v) (.refl _)
      have hsent := sent_sendUnsched (p := p) (slot := slot) way h.txNext f.2 ((bump (pk .SW_UNSCHED_TX p)).run v)
      have hmem : (h.txNext, f.2) ∈ (((sendUnsched p slot way h.txNext f.2).run ((bump (pk .SW_UNSCHED_TX p)).run v)).hop p q).unacked := by
        rw [hleft.hop, hcount.hop, hmod]
        exact List.mem_append_right _ (List.mem_singleton_self _)
      have hslot := (hleft.freeAt p).trans ((hcount.freeAt p).trans (hat.trans hfree))
      generalize (sendUnsched p slot way h.txNext f.2).run ((bump (pk .SW_UNSCHED_TX p)).run v) = w at hsent hmem hslot
      refine ⟨freeAt_giveCredit hslot f.1, fun v l he => absurd (hacks.symm.trans he) nofun, fun _ v l he => absurd (hagain.symm.trans he) nofun,
        fun _ _ x l he _ => ?_⟩
      cases hwait.symm.trans he
      exact ⟨mem_out_run _ hsent, unacked_giveCredit f.1 w hmem⟩
  next hacks hagain hwait =>
    exact ⟨hfree, fun v l he => absurd (hacks.symm.trans he) nofun, fun _ v l he => absurd (hagain.symm.trans he) nofun,
      fun _ _ x l he => absurd (hwait.symm.trans he) nofun⟩

/-- The ports of a slot, split at one of them. -/
theorem range_split (h1 : 1 ≤ q) (h7 : q ≤ 7) : ∃ l r, List.range' 1 7 = l ++ q :: r ∧ q ∉ l := by
  refine List.eq_append_cons_of_mem ?_
  rw [List.mem_range'_1]
  omega

theorem run_each_append {α : Type} (l r : List α) (f : α → Act) (s : State) :
    (Act.each (l ++ r) f).run s = (Act.each r f).run ((Act.each l f).run s) := by
  induction l generalizing s with
  | nil => rfl
  | cons a l ih => rw [List.cons_append, Act.run_each_cons, ih, Act.run_each_cons]

/-- The free way-slots of a slot: each port has its turn. -/
theorem freeSlots_sends {s : State} (hnew : (s.pile p).sw.freeAt ≠ some slot) (h1 : 1 ≤ q) (h7 : q ≤ 7) (hmay : s.maySend p q = true)
    {way : Nat} {rest : List Nat} (hways : s.freeWays p slot q = way :: rest)
    (hothers : ∀ j, j ≠ q → 1 ≤ j → j ≤ 7 → (s.hop p j).waiting = []) : PortSent p q slot way (s.hop p q) ((freeSlots p slot).run s) := by
  obtain ⟨l, r, hsplit, hnot⟩ := range_split h1 h7
  rw [freeSlots, Act.run_ask, Act.run_when, if_pos (bne_iff_ne.mpr hnew), Act.run_seq, hsplit, run_each_append, Act.run_each_cons, hways,
    Act.run_each_cons]
  have hsame : HopsSame p s ((modSw p fun w => { w with freeAt := some slot }).run s) :=
    hopsSame_modSw (f := fun w => { w with freeAt := some slot }) (fun _ => rfl) s
  have hturn : Turn p q slot (s.hop p q) ((modSw p fun w => { w with freeAt := some slot }).run s) :=
    ⟨hsame.hop q, (maySend_congr (fun k _ => hsame.rd k) p q).trans hmay, fun j hj h1 h7 => by rw [hsame.hop]; exact hothers j hj h1 h7,
      by rw [sw_modSw]⟩
  refine Act.keeps_each (fun j _ => Act.keeps_each fun w _ => portSent_freeWay j w) _
    (Act.keeps_each (fun w _ => portSent_freeWay q w) _ (turn_sends ?_ way))
  refine Act.keeps_each (fun j hj => Act.keeps_each fun w _ => ?_) _ hturn
  have hin : j ∈ List.range' 1 7 := hsplit ▸ List.mem_append_left _ hj
  rw [List.mem_range'_1] at hin
  exact turn_freeWay (fun he : j = q => hnot (he ▸ hj)) (by omega) (by omega) w

end

/-- The free ways of a port go with the registers, the job and the pile's gate. -/
theorem freeWays_congr {s t : State} {p : Nat} (hrd : ∀ k, t.rd k = s.rd k) (hjob : t.job = s.job) (hgate : (t.pile p).gate = (s.pile p).gate)
    (slot q : Nat) : t.freeWays p slot q = s.freeWays p slot q := by
  have hmode : t.swMode p = s.swMode p := hrd _
  have hnow : t.page p = s.page p := hrd _
  have hphase : t.phaseSlot p slot = s.phaseSlot p slot := by simp only [State.phaseSlot, hmode, hgate]
  have hlast : t.lastSlot p = s.lastSlot p := by simp only [State.lastSlot, State.phaseEntry, hmode, hgate, hjob]
  have hpage : t.pageEntries p = s.pageEntries p := by simp only [State.pageEntries, hmode, hnow, hrd]
  have hcycle : t.pageCycle p = s.pageCycle p := by simp only [State.pageCycle, hmode, hnow, hrd]
  have hentries : ∀ k, t.slotEntries p k = s.slotEntries p k := fun k => by
    simp only [State.slotEntries, hpage, hcycle, hlast, hmode]
  simp only [State.freeWays, hphase, hentries]

/-- A way-slot that no ingress way fills, no gate entry and no group acts on: its free egress way-slots go out. -/
theorem run_gondolaIngress_free {s : State} {p slot ph : Nat} (hsw : s.ready (domSw p) = true) (hph : s.phaseSlot p slot = some ph)
    (hgate : s.gateSlots p ph 255 = []) (hact : s.actingGroups p ph 255 = []) (hrel : s.awaitsRelease p = false) :
    (actGondolaIngress p slot 255 none false).run s = (freeSlots p (slot + 2)).run ((modSw p fun w => { w with
      locIn := SMap.set w.locIn (slot * 256 + 255) none, linkIn := SMap.set w.linkIn (slot * 256 + 255) none }).run s) := by
  rw [actGondolaIngress, takeWay, Act.run_ask, if_neg (by rw [hsw]; decide), hph]
  dsimp only
  rw [hact, hgate, hrel]
  generalize (if 255 < 44 ∨ 255 = 255 ∨ s.portDelivers p (wayPort 255) = true then s.wayGondola p slot 255 none else none) = got
  rw [Act.run_all_next, Act.run_all_next, Act.run_all_next, Act.run_all_next, Act.run_all_last, if_neg (by decide),
    Act.run_when, if_neg (by simp), Act.run_when, if_pos (beq_self_eq_true 255), Act.run_when, if_neg (by decide), Act.run_when, if_neg (by split <;> simp)]

end Sys2Proof.Machine
end

section
open Sys2Proof Sys2Proof.Machine

/-- Settles O49: frames and ULINK frames by what they do to their port's hop (`frame_taken`, `ulink_taken`), and a slot's free ways by the turn
that each port has on them (`freeSlots_sends`). -/
theorem unscheduledActs : Obligations.UnscheduledActs := by
  refine ⟨fun s p n f hsw hdev hpile hreset => ?_, fun s p q n f hsw h1 h7 hport hwire => ?_, fun s p q n a again hsw h1 h7 hport hcame => ?_,
    fun s p q hsw h1 h7 hup => ⟨_, rfl, retry_resends hsw h1 h7 hup⟩, fun s p slot ph q way rest hsw hph hgate hact hrel hnew h1 h7 hmay hways hothers => ?_⟩
  · have hrun : (frameRow p.val 0 n f).run s = (deliverFrame p.val f).run s := by
      rw [frameRow, if_pos (by decide), actUnschedFrame, Act.run_ask, if_neg (by rw [hsw]; decide), if_pos rfl,
        run_routeFrame_here p.isLt hdev hpile hreset]
    exact ⟨_, congrArg Host.Outcome.next hrun, deliverFrame_delivers p.val f s⟩
  · obtain ⟨u, hsame, hself, hrun⟩ := run_frameRow (n := n) (f := f) hwire
    have hu : u.FrameAt p.val q := hsame.frameAt ⟨hsw, h1, h7, hport⟩
    refine ⟨fun hnext hroom => ⟨_, congrArg Host.Outcome.next hrun, ?_⟩, fun hnext hfull => ⟨_, congrArg Host.Outcome.next hrun, ?_⟩,
      fun hnext => ⟨_, congrArg Host.Outcome.next hrun, ?_⟩⟩
    · obtain ⟨hrx, hcount, hack, hout⟩ := frame_taken (f := f) hu p.isLt ((congrArg UHop.rxNext (hsame.hop q)).trans hnext)
        (by rw [hsame.heldFrom]; exact hroom)
      rw [hsame.goesOn] at hack
      rw [hsame.deviceNo, hsame.reset, hsame.endpointWaits] at hout
      exact ⟨hrx, hcount.trans (State.counted_congr (hsame.rd _) 1), hack, hout⟩
    · rw [frame_full hu ((congrArg UHop.rxNext (hsame.hop q)).trans hnext) (by rw [hsame.heldFrom]; exact hfull)]
      exact ⟨hsame.hop q, hsame.out, hself⟩
    · obtain ⟨hout, hhop⟩ := frame_refused (f := f) hu (fun he => hnext ((congrArg UHop.rxNext (hsame.hop q)).symm.trans he))
      rw [hsame.hop] at hhop
      exact ⟨hout.trans hsame.out, hhop⟩
  · exact ⟨_, rfl, ulink_taken (u := ⟨a, n, again⟩) ⟨hsw, h1, h7, hport⟩ hcame⟩
  · have hsame : HopsSame p.val s ((modSw p.val fun w => { w with
        locIn := SMap.set w.locIn (slot * 256 + 255) none, linkIn := SMap.set w.linkIn (slot * 256 + 255) none }).run s) :=
      hopsSame_modSw (f := fun w => { w with
        locIn := SMap.set w.locIn (slot * 256 + 255) none, linkIn := SMap.set w.linkIn (slot * 256 + 255) none }) (fun _ => rfl) s
    obtain ⟨hat, hack, hagain, hfirst⟩ := freeSlots_sends (slot := slot + 2) (s := (modSw p.val fun w => { w with
        locIn := SMap.set w.locIn (slot * 256 + 255) none, linkIn := SMap.set w.linkIn (slot * 256 + 255) none }).run s)
      (by rw [sw_modSw]; exact hnew) h1 h7 ((maySend_congr (fun k _ => hsame.rd k) _ _).trans hmay)
      ((freeWays_congr hsame.rd hsame.job (by rw [modSw, run_modPile, Upd.pile_pile_self]) _ _).trans hways)
      (fun j hj h1 h7 => by rw [hsame.hop]; exact hothers j hj h1 h7)
    rw [hsame.hop] at hack hagain hfirst
    exact ⟨_, congrArg Host.Outcome.next (run_gondolaIngress_free hsw hph hgate hact hrel), hat, hack, fun hnil => ⟨hagain hnil, hfirst hnil⟩⟩

end

section
/-! PROOFS. COMPRESS and READOUT of the reduction engine (R299-R304, R308, R309): an operation reads its lines, which leaves the job as it
was, and writes its packet or its bucket line by line. -/

namespace Sys2Proof.Machine

/-! ## Reads leave the job alone -/

theorem jobless_setR (k : FKey) (v : Nat) : (setR k v).Only Upd.Jobless := ⟨fun _ => rfl, trivial⟩
theorem jobless_bump (k : FKey) (n : Nat) : (bump k n).Only Upd.Jobless := only_bump fun _ _ => rfl
theorem jobless_modMem (p : Nat) (f : MemSt → MemSt) : (modMem p f).Only Upd.Jobless := fun _ => ⟨fun _ => rfl, trivial⟩

theorem jobless_queueMove (p line : Nat) : (queueMove p line).Only Upd.Jobless :=
  Act.only_seq (jobless_modMem p _) fun _ => Act.only_when fun _ => jobless_setR _ _

theorem jobless_ceLog (p line : Nat) (fixed : List Nat) (groomer : Bool) : (ceLog p line fixed groomer).Only Upd.Jobless := by
  have htouch : ∀ i n b h, (Act.all [setR (pk .MEM_CE_LOG_BYTES p i) n, setB (pk .MEM_CE_LOG_TSV p i) b, modMem p h]).Only Upd.Jobless :=
    fun i n b h => Act.only_list ⟨jobless_setR _ _, jobless_setR _ _, jobless_modMem p h⟩
  intro s
  dsimp only
  split
  · exact Act.only_seq (htouch _ _ _ _) (Act.only_when fun _ => Act.only_seq (jobless_setR _ _) (jobless_queueMove p line))
  · exact Act.only_list ⟨jobless_setR _ _, jobless_setR _ _, jobless_setR _ _, jobless_setR _ _, htouch _ _ _ _,
      Act.only_when fun _ => jobless_modMem p _⟩

theorem jobless_bucketUp (p : Nat) : (bucketUp p).Only Upd.Jobless := by
  have hevent : (ceEvent p).Only Upd.Jobless := only_withFree (fun _ => rfl) fun _ _ =>
    Act.only_ite (Act.only_done _) (Act.only_seq (jobless_modMem p _) (jobless_raiseEvent _ _ _))
  exact fun _ => Act.only_ite (Act.only_list ⟨jobless_setR _ _, jobless_bump _ _, hevent⟩) (jobless_bump (pk .MEM_BUCKET p) 1)

theorem jobless_ueLog (p line : Nat) (groomer : Bool) : (ueLog p line groomer).Only Upd.Jobless := fun _ =>
  Act.only_list ⟨jobless_bump _ _, jobless_bump _ _, jobless_setR _ _, jobless_setR _ _, jobless_setR _ _, jobless_setR _ _,
    jobless_setR _ _, Act.only_when fun _ => Act.only_seq (jobless_modMem p _) (jobless_modMem p _)⟩

theorem jobless_accountRead (p line : Nat) (o : ReadOut) (groomer : Bool) : (accountRead p line o groomer).Only Upd.Jobless := by
  refine Act.only_seq (jobless_bump _ _) ?_
  cases o.kind with
  | data => exact Act.only_when fun _ =>
      Act.only_list ⟨jobless_bump _ _, jobless_bump _ _, jobless_ceLog p line _ _, jobless_bucketUp p⟩
  | poison => exact Act.only_seq (jobless_bump _ _) (Act.only_when fun _ => jobless_bump _ _)
  | uncorrectable => exact jobless_ueLog p line groomer

/-- What the RUE's reads leave: its state, memory and the job as they were, and the named fields. -/
structure ReadOver (fs : List Fld) (s v : State) : Prop where
  kept : RueKept id id fs s v
  job  : v.job = s.job

theorem ReadOver.trans {fs : List Fld} {r s t : State} (h : ReadOver fs r s) (k : ReadOver fs s t) : ReadOver fs r t :=
  ⟨h.kept.trans k.kept, k.job.trans h.job⟩

section
variable {fs : List Fld} (hfs : WorkKeeps fs)
include hfs

theorem rueRead_over (p : Nat) (sp : Space) (x : Nat) (k : Line → Act) (s : State) :
    ∃ v, (rueRead p sp x k).run s = (k (s.rueLine p sp x)).run v ∧ ReadOver fs s v := by
  have hline : ∃ v, (rueRead p sp x k).run s = (rueTakes p (s.lineAt p sp 0 x) k).run v ∧ ReadOver fs s v := by
    cases sp with
    | buf | ls => exact ⟨s, rfl, .refl s, rfl⟩
    | dram =>
      rw [rueRead, getLine, Act.run_ask, State.lineAt]
      split
      · exact ⟨s, rfl, .refl s, rfl⟩
      · have hfree : ∀ g ∈ readFlds, g ∉ fs := fun g hg => hfs.free g (List.mem_append_right _ hg)
        have hkept : SwitchKept (fun _ => ()) fs s ((accountRead p x (decodeWord (s.dramWord (dramAddr p x))) false).run s) :=
          .of_keeps (kept_accountRead hfree p x _ false)
        exact ⟨_, Act.run_seq _ _ _, ⟨fun q => rues_accountRead (g := fun q => (s.pile q).rue) p x _ false s (fun _ => rfl) q,
          hkept.dram, hkept.sram, hkept.rd⟩, (jobless_accountRead p x _ false).jobSame s⟩
  obtain ⟨v, hv, hover⟩ := hline
  have hcount : ∀ c, RueKept id id fs v ((Act.when c (bump (pk .RUE_CHECK_FAIL p))).run v) := fun _ =>
    .of_keeps (Act.keeps_when (rueKept_bump (hfs.free _ (show Fld.RUE_CHECK_FAIL ∈ workFlds by decide)) 1))
  have hjob : ∀ c, ((Act.when c (bump (pk .RUE_CHECK_FAIL p))).run v).job = v.job := fun _ =>
    (Act.only_when fun _ => jobless_bump _ _).jobSame v
  have hbad : ∀ b c d : Bool, (b || c && !b && d) = (b || c && d) := by decide
  refine ⟨_, ?_, hover.trans ⟨hcount (s.checking p && !(s.lineAt p sp 0 x).poison && !lineCheckOk (s.lineAt p sp 0 x)), hjob _⟩⟩
  rw [hv, rueTakes, Act.run_ask, Act.run_seq, checking_rueKept hover.kept hfs.place, hbad]
  rfl

theorem rueLines_over (p : Nat) (sp : Space) (line n : Nat) (k : List Line → Act) (s : State) :
    ∃ v, (rueLines p sp line n k).run s = (k (s.rueRun p sp line n)).run v ∧ ReadOver fs s v := by
  induction n generalizing line k s with
  | zero => exact ⟨s, rfl, .refl s, rfl⟩
  | succ n ih =>
    obtain ⟨u, hu, hsu⟩ := rueRead_over hfs p sp line (fun l => rueLines p sp (line + 1) n (fun r => k (l :: r))) s
    obtain ⟨v, hv, huv⟩ := ih (line + 1) (fun r => k (s.rueLine p sp line :: r)) u
    refine ⟨v, ?_, hsu.trans huv⟩
    rw [rueLines, hu, hv, rueRun_rueKept hsu.kept hfs.place, rueRun_succ]

end

/-! ## Lines written -/

/-- Lines written to a pile buffer stand there; memory, registers and the RUE's count of operations are as they were. -/
structure BufWritten (s t : State) (p x : Nat) (ls : List Line) : Prop where
  dram  : t.dram = s.dram
  rd    : ∀ k, t.rd k = s.rd k
  done  : (t.pile p).rue.rueDone = (s.pile p).rue.rueDone
  below : ∀ y, y < x → t.sramLine (bufAddr p y) = s.sramLine (bufAddr p y)
  lines : ∀ k l, ls[k]? = some l → x + k < bufLines → t.sramLine (bufAddr p (x + k)) = l

theorem putLines_buf {p : Nat} (hp : p < 16) (x : Nat) (ls : List Line) (s : State) :
    BufWritten s ((putLines p .buf 0 x ls).run s) p x ls := by
  induction ls generalizing x s with
  | nil => exact ⟨rfl, fun _ => rfl, rfl, fun _ _ => rfl, fun k l h => absurd (h.symm.trans List.getElem?_nil) (Option.some_ne_none l)⟩
  | cons l ls ih =>
    have hcause : ∀ u, ((poisonWatch p .buf 0 x l).run u).sram = u.sram ∧ ((poisonWatch p .buf 0 x l).run u).dram = u.dram ∧
        (∀ k, ((poisonWatch p .buf 0 x l).run u).rd k = u.rd k) ∧
        (((poisonWatch p .buf 0 x l).run u).pile p).rue.rueDone = (u.pile p).rue.rueDone := by
      intro u
      rw [poisonWatch, Act.run_ask, Act.run_when]
      split
      · refine ⟨rfl, rfl, fun _ => rfl, ?_⟩
        rw [causeNow, pile_modRue]
      · exact ⟨rfl, rfl, fun _ => rfl, rfl⟩
    have hrest := ih (x + 1) ((putLine p .buf 0 x l).run s)
    rw [putLines, Act.run_seq]
    obtain ⟨hsram, hdram, hrd, hdone⟩ := hcause ((emit (.sram (bufAddr p x) l)).run s)
    have hput : (putLine p .buf 0 x l).run s = (poisonWatch p .buf 0 x l).run ((emit (.sram (bufAddr p x) l)).run s) := Act.run_seq _ _ _
    rw [hput] at hrest ⊢
    generalize (poisonWatch p .buf 0 x l).run ((emit (.sram (bufAddr p x) l)).run s) = u at hsram hdram hrd hdone hrest ⊢
    have hline : ∀ a, u.sramLine a = ((Upd.sram (bufAddr p x) l).apply s).sramLine a := fun a => by
      rw [State.sramLine, hsram, run_emit, State.sramLine]
    refine ⟨?_, fun k => ?_, ?_, fun y hy => ?_, fun k l' hk hlt => ?_⟩
    · rw [hrest.dram, hdram, run_emit, Upd.dram_sram]
    · rw [hrest.rd, hrd, run_emit, Upd.rd_sram]
    · rw [hrest.done, hdone, run_emit, Upd.pile_sram]
    · rw [hrest.below y (by omega), hline, Upd.sramLine_sram_of_ne _ _ (show bufAddr p y ≠ bufAddr p x by simp only [bufAddr]; omega)]
    · cases k with
      | zero =>
        obtain rfl : l = l' := Option.some.inj hk
        have hplace : bufAddr p x < sramLines := (Placed.mk hp (n := 0) (by omega) hlt : Placed p .buf 0 x).bufAddr_lt
        exact (hrest.below x (Nat.lt_succ_self x)).trans ((hline _).trans (Upd.sramLine_sram_self _ _ _ hplace))
      | succ k =>
        rw [show x + (k + 1) = x + 1 + k by omega]
        exact hrest.lines k l' hk (by omega)

theorem workKeeps_place : WorkKeeps placeFlds := ⟨by decide, by decide⟩

/-- Lines written to memory stand there as they are encoded (R356, R360). -/
theorem putLines_words {p : Nat} (hp : p < 16) (x : Nat) (ls : List Line) {s : State} (hplain : s.memPlain p) (k : Nat) {l : Line}
    (hk : ls[k]? = some l) (hlt : x + k < dramLines) :
    ((putLines p .dram 0 x ls).run s).dramWord (dramAddr p (x + k)) = encodeWord l := by
  induction ls generalizing x s k with
  | nil => cases hk
  | cons l' ls ih =>
    have hfirst : RueKept (fun _ => ()) (fun _ => ()) placeFlds s ((putLine p .dram 0 x l').run s) :=
      .of_keeps (rueKept_putLine (fun _ _ => rfl) workKeeps_place hplain.2 (blind_unit p x) l')
    have hplain' := memPlain_rueKept hfirst (List.Subset.refl _) hplain
    rw [putLines, Act.run_seq]
    cases k with
    | zero =>
      obtain rfl : l' = l := Option.some.inj hk
      have hrest : RueKept (fun _ => ()) (wordOf p x) placeFlds _ _ :=
        .of_keeps (rueKept_putLines (fun _ _ => rfl) workKeeps_place hplain'.2 (blind_wordOf p x) ls)
      exact hrest.dram.trans (putLine_word hp hlt hplain l').1
    | succ k =>
      have hnext := ih (x + 1) hplain' k hk (by omega)
      rwa [show x + 1 + k = x + (k + 1) by omega] at hnext

/-! ## An operation runs -/

theorem run_rueOp {s : State} {p : Nat} {usesBuf : Bool} (hgo : s.RueGo p usesBuf) (k : Act) :
    (rueOp p usesBuf k).run s = (opDone p).run (k.run s) := by
  have hbuf : (usesBuf && s.mustWait p .buf 0) = false := by
    cases husesBuf : usesBuf with
    | false => rfl
    | true => exact hgo.buf husesBuf
  have hstart : ¬ (!s.inPhase p || !s.ready (domCtl p) || (s.pile p).resetSrc != 0) = true := by
    simp [hgo.phase, hgo.ctl, hgo.reset]
  rw [rueOp, Act.run_ask, if_neg hstart, hgo.mem, if_neg Bool.false_ne_true, hbuf, if_neg Bool.false_ne_true, Act.run_seq, opDone]

/-- The fields that COMPRESS and READOUT go by and count in. -/
def reduceFlds : List Fld := [.RED_SENT, .RED_POISON_BKT, .TB_STEP] ++ placeFlds

theorem workKeeps_reduce : WorkKeeps reduceFlds := ⟨by decide, by decide⟩
theorem placeFlds_reduce : placeFlds ⊆ reduceFlds := by decide

theorem step_reduce {β γ : Type} {f : RueSt → β} {m : SMap Codeword → γ} {s t : State} (h : RueKept f m reduceFlds s t) : t.step = s.step :=
  h.rd _ (show Fld.TB_STEP ∈ reduceFlds by decide)

/-! ## COMPRESS -/

/-- The packet that a contribution sends, with its trailer, and what its operation counts (R299-R304). -/
def State.packetOf (s : State) (b : Bucket) (c : Contribution) (g r : List DBlock) : List Line :=
  let o := packBucket b (blockVals g) (blockVals r)
    (fun x => (⟨s.job.seed, s.step, (b.gradTid + c.index) % 2 ^ 32, 0, x / 256⟩ : DrawKey).draw (x % 256))
  o.1.lines ++ [trailerLine b c.index s.step (wideSquares (blockVals g)) (absMaxOf o.2).toNat o.1.counts.nonfin]

/-- What COMPRESS leaves of its packet, whatever it reads of memory before. -/
structure PacketPut (s t : State) (p : Nat) (b : Bucket) (c : Contribution) (g r : List DBlock) : Prop where
  done  : (t.pile p).rue.rueDone = (s.pile p).rue.rueDone
  sent  : t.rd (pk .RED_SENT p) = s.counted (pk .RED_SENT p) (s.packetOf b c g r).length
  dram  : b.comp = 0 → t.dram = s.dram
  lines : ∀ k l, (s.packetOf b c g r)[k]? = some l → c.pktLine + k < bufLines →
    t.sramLine (bufAddr p (c.pktLine + k)) = { l with poison := l.poison || (g.any DBlock.bad || r.any DBlock.bad) }

theorem packetOf_congr {s t : State} (hjob : t.job = s.job) (hstep : t.step = s.step) (b : Bucket) (c : Contribution) (g r : List DBlock) :
    t.packetOf b c g r = s.packetOf b c g r := by
  simp only [State.packetOf, hjob, hstep]

/-- What follows the packet: the residual where the bucket is compressed, and what the operation counts. -/
def afterPacket (p : Nat) (b : Bucket) (c : Contribution) (ver : Nat) (bad : Bool) (residual : List FNum) (read made : XoCounts) : Act :=
  Act.all [
    Act.when (b.comp != 0) (putLines p .dram 0 (c.resLine + 8 * b.blocks * (1 - ver)) (fp32Lines residual bad)),
    countHealth p b.tracker ((b.gradTid + c.index) % 2 ^ 32) made, clearXo p 0 5, countXo p 0 5 read, countXo p 0 5 made,
    Act.when (b.comp != 0) (countWritten p residual bad)]

theorem rueKept_countWritten {β γ : Type} {f : RueSt → β} {m : SMap Codeword → γ} {fs : List Fld} {r : State}
    (h : Fld.XO_OP_COUNT ∉ fs) (p : Nat) (vals : List FNum) (bad : Bool) : (countWritten p vals bad).Keeps (RueKept f m fs r) :=
  Act.keeps_when (rueKept_countXo h p 0 5 _)

section
variable {s : State} {p : Nat} (b : Bucket) (c : Contribution) (ver : Nat) (bad : Bool) (residual : List FNum) (read made : XoCounts)

/-- It keeps the buffer, the count of what was sent and, where the bucket is not compressed, memory. -/
theorem afterPacket_keeps (harm : s.on (pk .MEM_INJECT_ARMED p) = false) :
    RueKept RueSt.rueDone (fun _ => ()) reduceFlds s ((afterPacket p b c ver bad residual read made).run s) :=
  .of_keeps (Act.keeps_list ⟨Act.keeps_when (rueKept_putLines (fun _ _ => rfl) workKeeps_reduce harm (blind_unit p _) _),
    rueKept_countHealth p _ _ _, rueKept_clearXo (by decide) p 0 5, rueKept_countXo (by decide) p 0 5 _,
    rueKept_countXo (by decide) p 0 5 _, Act.keeps_when (rueKept_countWritten (by decide) p _ _)⟩)

theorem afterPacket_dram (hcomp : b.comp = 0) : ((afterPacket p b c ver bad residual read made).run s).dram = s.dram := by
  have hkept : RueKept RueSt.rueDone id reduceFlds s ((afterPacket p b c ver bad residual read made).run s) := by
    rw [afterPacket, hcomp]
    exact .of_keeps (Act.keeps_list ⟨Act.keeps_done _, rueKept_countHealth p _ _ _, rueKept_clearXo (by decide) p 0 5,
      rueKept_countXo (by decide) p 0 5 _, rueKept_countXo (by decide) p 0 5 _, Act.keeps_done _⟩)
  exact hkept.dram

end

theorem compressInto_puts {s : State} {p : Nat} (hp : p < 16) (harm : s.on (pk .MEM_INJECT_ARMED p) = false) (b : Bucket)
    (c : Contribution) (g r : List DBlock) : PacketPut s ((compressInto p b c g r).run s) p b c g r := by
  let bad := g.any DBlock.bad || r.any DBlock.bad
  let packet := (s.packetOf b c g r).map (fun l => { l with poison := l.poison || bad })
  obtain ⟨ver, residual, read, made, hrun⟩ : ∃ ver residual read made, (compressInto p b c g r).run s =
      (afterPacket p b c ver bad residual read made).run
        ((bump (pk .RED_SENT p) (s.packetOf b c g r).length).run ((putLines p .buf 0 c.pktLine packet).run s)) := by
    let o := packBucket b (blockVals g) (blockVals r)
      (fun x => (⟨s.job.seed, s.step, (b.gradTid + c.index) % 2 ^ 32, 0, x / 256⟩ : DrawKey).draw (x % 256))
    refine ⟨s.ver p, o.1.residual, decodeCounts (g ++ r), o.1.counts, ?_⟩
    rw [compressInto, Act.run_ask]
    dsimp only
    rw [Act.run_all_next, Act.run_all_next]
    rfl
  have hbuf := putLines_buf hp c.pktLine packet s
  rw [hrun]
  generalize (putLines p .buf 0 c.pktLine packet).run s = u at hbuf
  have hpile : ∀ n, ((bump (pk .RED_SENT p) n).run u).pile p = u.pile p := fun n => pile_bump _ _ _ _
  have hsent : ∀ n, ((bump (pk .RED_SENT p) n).run u).rd (pk .RED_SENT p) = s.counted (pk .RED_SENT p) n := fun n => by
    rw [rd_bump_self, State.counted_congr (hbuf.rd _)]
  have harmed : ((bump (pk .RED_SENT p) (s.packetOf b c g r).length).run u).on (pk .MEM_INJECT_ARMED p) = false := by
    rw [State.on, rd_bump_of_ne _ (show Fld.MEM_INJECT_ARMED ≠ .RED_SENT by decide), hbuf.rd]
    exact harm
  have hafter := afterPacket_keeps b c ver bad residual read made harmed
  refine ⟨?_, ?_, fun hcomp => ?_, fun k l hk hlt => ?_⟩
  · rw [hafter.rue, hpile, hbuf.done]
  · rw [hafter.rd _ (show Fld.RED_SENT ∈ reduceFlds by decide), hsent]
  · rw [afterPacket_dram b c ver bad residual read made hcomp, run_bump, Upd.dram_reg, hbuf.dram]
  · have hline := hbuf.lines k { l with poison := l.poison || bad } (by rw [List.getElem?_map, hk]; rfl) hlt
    rw [State.sramLine, hafter.sram, run_bump, ← State.sramLine, Upd.sramLine_reg, hline]

theorem PacketPut.of_read {s v t : State} {p : Nat} {b : Bucket} {c : Contribution} {g r : List DBlock} (hv : ReadOver reduceFlds s v)
    (h : PacketPut v t p b c g r) : PacketPut s t p b c g r :=
  have hpacket : v.packetOf b c g r = s.packetOf b c g r := packetOf_congr hv.job (step_reduce hv.kept) b c g r
  { done := h.done.trans (congrArg RueSt.rueDone (hv.kept.rue p))
    sent := by rw [h.sent, hpacket, State.counted_congr (hv.kept.rd _ (show Fld.RED_SENT ∈ reduceFlds by decide))]
    dram := fun hcomp => (h.dram hcomp).trans hv.kept.dram
    lines := fun k l hk => h.lines k l ((congrArg (·[k]?) hpacket).trans hk) }

/-- COMPRESS from its reads on: the gradient's lines and, where the bucket is compressed, the residual's. -/
def compressReads (p : Nat) (b : Bucket) (c : Contribution) (ver : Nat) : Act :=
  rueLines p .dram c.gLine (8 * b.blocks) (fun g =>
    if b.comp = 0 then compressInto p b c (blocksOf 2 g) []
    else rueLines p .dram (c.resLine + 8 * b.blocks * ver) (8 * b.blocks) (fun r =>
      compressInto p b c (blocksOf 2 g) (blocksOf 2 r)))

/-- A contribution's packet from the lines as they stand (R299-R304). -/
theorem compressReads_puts {s : State} {p : Nat} (hp : p < 16) (harm : s.on (pk .MEM_INJECT_ARMED p) = false) (b : Bucket)
    (c : Contribution) (ver : Nat) :
    let g := blocksOf 2 (s.rueRun p .dram c.gLine (8 * b.blocks))
    let r := if b.comp = 0 then [] else blocksOf 2 (s.rueRun p .dram (c.resLine + 8 * b.blocks * ver) (8 * b.blocks))
    PacketPut s ((compressReads p b c ver).run s) p b c g r := by
  intro g r
  have hput : ∀ v, ReadOver reduceFlds s v → ∀ g r, PacketPut s ((compressInto p b c g r).run v) p b c g r := fun v hv g r =>
    .of_read hv (compressInto_puts hp (unarmed_rueKept hv.kept placeFlds_reduce harm) b c g r)
  obtain ⟨v, hv, hsv⟩ := rueLines_over workKeeps_reduce p .dram c.gLine (8 * b.blocks) _ s
  rw [compressReads, hv]
  by_cases hcomp : b.comp = 0
  · rw [if_pos hcomp, show r = [] from if_pos hcomp]
    exact hput v hsv g []
  · obtain ⟨w, hw, hvw⟩ := rueLines_over workKeeps_reduce p .dram (c.resLine + 8 * b.blocks * ver) (8 * b.blocks) _ v
    rw [if_neg hcomp, show r = _ from if_neg hcomp, hw, rueRun_rueKept hsv.kept placeFlds_reduce]
    exact hput w (hsv.trans hvw) g _

theorem run_actCompress {s : State} {p bucket n : Nat} {i : Image} {b : Bucket} {c : Contribution} (himg : s.job.image = some i)
    (hb : bucketOf i bucket = some b) (hc : i.contribs.find? (fun c => c.bucket == bucket && c.index == n && c.pile == p) = some c)
    (hgo : s.RueGo p true) : (actCompress p bucket n).run s = (opDone p).run ((compressReads p b c (s.ver p)).run s) := by
  rw [actCompress, Act.run_ask, himg]
  dsimp only
  rw [hb, hc]
  exact run_rueOp hgo _

/-! ## READOUT -/

theorem eref_readOver {fs : List Fld} {s v : State} (h : ReadOver fs s v) (p tracker : Nat) : v.eref p tracker = s.eref p tracker := by
  have hdram : v.dram = s.dram := h.kept.dram
  have hsame : ({ v with job := s.job, dram := s.dram } : State).eref p tracker = s.eref p tracker := rfl
  rwa [← h.job, ← hdram] at hsame

/-- A bucket is noted as read out in its attempt. -/
def noteReadOut (p n : Nat) : Act :=
  modRue p (fun x => { x with readOut := if x.readOut.contains n then x.readOut else x.readOut ++ [n] })

/-- What READOUT does once a bucket's values are formed. -/
def deliver (p : Nat) (b : Bucket) (rec : BktRec) (vals : List FNum) (bad : Bool) : Act := Act.all [
  putLines p .dram 0 b.outLine (fp32Lines vals bad), clearXo p 0 5, countWritten p vals bad, modRec p b.id (fun _ => rec),
  noteReadOut p b.id, Act.when bad ((bump (pk .RED_POISON_BKT p)).seq (causeNow p cPoison))]

/-- What a bucket read out leaves. -/
structure Delivered (s t : State) (p : Nat) (b : Bucket) (rec : BktRec) (vals : List FNum) (bad : Bool) : Prop where
  done   : (t.pile p).rue.rueDone = (s.pile p).rue.rueDone
  record : SMap.find? (t.pile p).bktRecs.cur b.id = some rec
  sram   : t.sram = s.sram
  poison : bad = true → t.rd (pk .RED_POISON_BKT p) = s.counted (pk .RED_POISON_BKT p) 1 ∧ (t.pile p).rue.causes.testBit cPoison = true
  lines  : ∀ k l, (fp32Lines vals bad)[k]? = some l → b.outLine + k < dramLines →
    t.dramWord (dramAddr p (b.outLine + k)) = encodeWord l

theorem bktRecs_modRue (p : Nat) (g : RueSt → RueSt) (s : State) : (((modRue p g).run s).pile p).bktRecs = (s.pile p).bktRecs := by
  rw [modRue, run_modPile, Upd.pile_pile_self]

theorem cur_modRec (p : Nat) (n : Nat) (f : BktRec → BktRec) (s : State) : SMap.find? (((modRec p n f).run s).pile p).bktRecs.cur n =
    some (f (SMap.getD (s.pile p).bktRecs.cur n ⟨0, 0, 0, 0, {}, {}, 0, false⟩)) := by
  rw [modRec, run_modPile, Upd.pile_pile_self, SMap.find?_set_self]

theorem causeNow_raises (p c : Nat) (s : State) : (((causeNow p c).run s).pile p).rue.causes.testBit c = true := by
  rw [causeNow, pile_modRue, Nat.testBit_or, Nat.testBit_two_pow_self, Bool.or_true]

theorem deliver_delivers {s : State} {p : Nat} (hp : p < 16) (hplain : s.memPlain p) (b : Bucket) (rec : BktRec) (vals : List FNum)
    (bad : Bool) : Delivered s ((deliver p b rec vals bad).run s) p b rec vals bad := by
  have hwords := fun k l => putLines_words hp b.outLine (fp32Lines vals bad) hplain k (l := l)
  have hput : RueKept RueSt.rueDone (fun _ => ()) reduceFlds s ((putLines p .dram 0 b.outLine (fp32Lines vals bad)).run s) :=
    .of_keeps (rueKept_putLines (fun _ _ => rfl) workKeeps_reduce hplain.2 (blind_unit p _) _)
  rw [deliver, Act.run_all_next, Act.run_all_next, Act.run_all_next, Act.run_all_next, Act.run_all_next, Act.run_all_last]
  generalize (putLines p .dram 0 b.outLine (fp32Lines vals bad)).run s = u at hwords hput ⊢
  have hxo : Fld.XO_OP_COUNT ∉ reduceFlds := by decide
  have hread : (noteReadOut p b.id).Keeps (RueKept RueSt.rueDone id reduceFlds u) := rueKept_modRue p fun _ => rfl
  have hmod : (modRec p b.id fun _ => rec).Keeps (RueKept RueSt.rueDone id reduceFlds u) := rueKept_modPile p fun _ => rfl
  have hnote : RueKept RueSt.rueDone id reduceFlds u ((noteReadOut p b.id).run
      ((modRec p b.id fun _ => rec).run ((countWritten p vals bad).run ((clearXo p 0 5).run u)))) :=
    hread _ (hmod _ (rueKept_countWritten hxo p vals bad _ (.of_keeps (rueKept_clearXo hxo p 0 5))))
  have hrec : SMap.find? (((noteReadOut p b.id).run
      ((modRec p b.id fun _ => rec).run ((countWritten p vals bad).run ((clearXo p 0 5).run u)))).pile p).bktRecs.cur b.id = some rec := by
    rw [noteReadOut, bktRecs_modRue, cur_modRec]
  generalize (noteReadOut p b.id).run
    ((modRec p b.id fun _ => rec).run ((countWritten p vals bad).run ((clearXo p 0 5).run u))) = w at hnote hrec ⊢
  have hlines : ∀ k l, (fp32Lines vals bad)[k]? = some l → b.outLine + k < dramLines →
      w.dramWord (dramAddr p (b.outLine + k)) = encodeWord l := fun k l hk hlt => by
    rw [State.dramWord, show w.dram = u.dram from hnote.dram, ← State.dramWord, hwords k l hk hlt]
  have hdone : (w.pile p).rue.rueDone = (s.pile p).rue.rueDone := (hnote.rue p).trans (hput.rue p)
  have hsram : w.sram = s.sram := hnote.sram.trans hput.sram
  have hcount : w.counted (pk .RED_POISON_BKT p) 1 = s.counted (pk .RED_POISON_BKT p) 1 :=
    State.counted_congr ((hnote.rd _ (show Fld.RED_POISON_BKT ∈ reduceFlds by decide)).trans
      (hput.rd _ (show Fld.RED_POISON_BKT ∈ reduceFlds by decide))) 1
  cases bad with
  | false => exact ⟨hdone, hrec, hsram, nofun, hlines⟩
  | true =>
    rw [Act.run_when, if_pos rfl, Act.run_seq]
    refine ⟨?_, ?_, hsram, fun _ => ⟨?_, causeNow_raises p _ _⟩, hlines⟩
    · rw [causeNow, pile_modRue, pile_bump, hdone]
    · rw [causeNow, bktRecs_modRue, pile_bump, hrec]
    · rw [causeNow, rd_modRue, rd_bump_self, hcount]

theorem Delivered.of_read {fs : List Fld} {s v t : State} {p : Nat} {b : Bucket} {rec : BktRec} {vals : List FNum} {bad : Bool}
    (hfs : Fld.RED_POISON_BKT ∈ fs) (hv : ReadOver fs s v) (h : Delivered v t p b rec vals bad) : Delivered s t p b rec vals bad where
  done := h.done.trans (congrArg RueSt.rueDone (hv.kept.rue p))
  record := h.record
  sram := h.sram.trans hv.kept.sram
  poison := fun hbad => by
    obtain ⟨hcount, hcause⟩ := h.poison hbad
    exact ⟨hcount.trans (State.counted_congr (hv.kept.rd _ hfs) 1), hcause⟩
  lines := h.lines

/-- A bucket read out at its owner (R308, R309, R319). -/
theorem actReadout_delivers {s : State} {p bucket : Nat} {i : Image} {b : Bucket} {run : BktRun} (himg : s.job.image = some i)
    (hb : bucketOf i bucket = some b) (hdev : b.ownerDev = i.device) (hpile : b.ownerPile = p) (hbkt : s.bktRun p b.id = some run)
    (hp : p < 16) (hgo : s.RueGo p (b.accSpace == .buf)) :
    let ls := s.rueRun p b.accSpace b.accLine (32 * b.blocks)
    let bad := run.bad || decide (run.received ≠ b.contrib) || ls.any Line.poison
    let r := readBucket (s.eref p b.tracker) s.step run.received bad run.locNorm (ls.flatMap (fun l => (List.range 8).map (accOf l)))
    ∃ u, (actReadout p bucket).run s = (opDone p).run u ∧ Delivered s u p b r.1 r.2 bad := by
  intro ls bad r
  have hclear : (clearAcc p b).run s = s := by
    rw [clearAcc, Act.run_ask, hbkt]
    rfl
  obtain ⟨v, hv, hsv⟩ := rueLines_over workKeeps_reduce p b.accSpace b.accLine (32 * b.blocks) (fun ls => .ask fun t =>
    let run := (t.bktRun p b.id).getD {}
    let bad := run.bad || decide (run.received ≠ b.contrib) || ls.any Line.poison
    let r := readBucket (t.eref p b.tracker) t.step run.received bad run.locNorm (ls.flatMap (fun l => (List.range 8).map (accOf l)))
    deliver p b r.1 r.2 bad) s
  have hrun : (v.bktRun p b.id).getD {} = run := by
    have hrue : (v.pile p).rue = (s.pile p).rue := hsv.kept.rue p
    rw [State.bktRun, hrue, ← State.bktRun, hbkt]
    rfl
  rw [Act.run_ask] at hv
  dsimp only at hv
  rw [hrun, eref_readOver hsv, step_reduce hsv.kept] at hv
  refine ⟨(deliver p b r.1 r.2 bad).run v, ?_, .of_read (show Fld.RED_POISON_BKT ∈ reduceFlds by decide) hsv
    (deliver_delivers hp (memPlain_rueKept hsv.kept placeFlds_reduce hgo.plain) b r.1 r.2 bad)⟩
  have howner : ¬ (b.ownerDev != i.device || b.ownerPile != p) = true := by simp [hdev, hpile]
  rw [actReadout, Act.run_ask, himg]
  dsimp only
  rw [hb]
  dsimp only
  rw [if_neg howner, run_rueOp hgo, Act.run_seq, hclear]
  exact congrArg (opDone p).run hv

end Sys2Proof.Machine
end

section

open Sys2Proof Sys2Proof.Machine

/-- Settles O52 (R299-R304, R308, R309, R319). Both operations read their lines as they stand, with the job as it was
(`rueLines_over`). COMPRESS writes its packet first, and what follows keeps the buffer (`compressInto_puts`); READOUT writes the
bucket's lines and notes its record, and a bad bucket counts and raises its cause (`deliver_delivers`). -/
theorem reductionsRun : Obligations.ReductionsRun := by
  unfold Obligations.ReductionsRun
  refine ⟨?_, ?_⟩
  · intro s p bucket n i b c himg hb hc hgo lines g r bad o ls
    have hput := compressReads_puts p.isLt hgo.plain.2 b c (s.ver p.val)
    refine ⟨_, congrArg Host.Outcome.next (run_actCompress himg hb hc hgo), ?_, hput.sent, hput.dram, hput.lines⟩
    rw [opDone, pile_modRue]
    exact congrArg (· + 1) hput.done
  · intro s p bucket i b run himg hb hdev hpile hbkt hgo ls bad r
    obtain ⟨u, hrun, hout⟩ := actReadout_delivers himg hb hdev hpile hbkt p.isLt hgo
    refine ⟨_, congrArg Host.Outcome.next hrun, ?_, ?_, hout.sram, fun hbad => ?_, hout.lines⟩
    · rw [opDone, pile_modRue]
      exact congrArg (· + 1) hout.done
    · rw [opDone, bktRecs_modRue]
      exact hout.record
    · obtain ⟨hcount, hcause⟩ := hout.poison hbad
      refine ⟨hcount, ?_⟩
      rw [opDone, pile_modRue]
      exact hcause

end

section
/-! PROOFS. The control slot (R140-R143, R159, R170): what a bundle that issues by it leaves, and where issue goes on. -/

namespace Sys2Proof.Machine

/-! ## The bundle issues -/

/-- A control slot has counted its bundle, and no slot of the next one has issued. -/
structure CtlBegun (s w : State) (p n : Nat) : Prop where
  slot  : Slotted s w p n [.TSQ_ISSUE]
  tile  : w.tile p n = { s.tile p n with issued := {} }
  issue : w.rd (tk .TSQ_ISSUE p n) = s.counted (tk .TSQ_ISSUE p n) 1

theorem slot_modTile (p n : Nat) (f : Tile → Tile) (fs : List Fld) : (modTile p n f).Only (Upd.ofSlot p n fs) :=
  fun _ => ⟨⟨rfl, rfl⟩, trivial⟩

theorem tile_modTile (p n : Nat) (f : Tile → Tile) (s : State) : ((modTile p n f).run s).tile p n = f (s.tile p n) := by
  rw [run_modTile, Upd.tile_tile_self]

theorem cSlot_begins {s : State} {p n op : Nat} {b : Bundle} (h : s.IssuesLast p n b) (ho : cop b = op) (k : Bundle → Act) :
    ∃ w, CtlBegun s w p n ∧ (cSlot p n op k).run s = (k b).run w := by
  obtain ⟨e, hrun, he⟩ := cSlot_issues h ho k
  refine ⟨_, ⟨?_, ?_, ?_⟩, hrun⟩
  · have hcount : ((bump (tk .TSQ_ISSUE p n)).seq (modIssued p n (fun _ => {}))).Only (Upd.ofSlot p n [.TSQ_ISSUE]) :=
      Act.only_seq (slot_bump List.mem_cons_self 0 1) (slot_modIssued p n _ _)
    rw [← Act.run_seq]
    exact he.slot.trans (hcount.slotted e) nofun (fun _ hf => hf)
  · rw [modIssued, tile_modTile, tile_bump, he.tile]
  · have hcount : ((bump (tk .TSQ_ISSUE p n)).run e).rd (tk .TSQ_ISSUE p n) = s.counted (tk .TSQ_ISSUE p n) 1 := by
      rw [rd_bump_self]
      exact State.counted_congr (he.rd (k := tk .TSQ_ISSUE p n) ⟨nofun, nofun⟩) 1
    exact hcount

section
variable {s w : State} {p n : Nat} (hw : CtlBegun s w p n)
include hw

/-- The rest of a control slot's work leaves the count of its bundle. -/
theorem CtlBegun.done {t : State} {fs : List Fld} {gate : Nat} (ht : Slotted w t p n (.TSQ_STATUS_PC :: fs)) (hfs : Fld.TSQ_ISSUE ∉ fs)
    (htile : t.tile p n = { s.tile p n with
      issued := { fetch := (t.tile p n).issued.fetch }, loops := (t.tile p n).loops
      lcs := (t.tile p n).lcs, sregs := (t.tile p n).sregs, gatePc := gate }) : CtlDone s t p n fs gate where
  slot := hw.slot.trans ht (by simp) (fun _ hf => List.mem_cons_of_mem _ hf)
  issue := (ht.rd (by simp [tk, hfs])).trans hw.issue
  tile := htile

theorem CtlBegun.rd {k : FKey} (hk : k.f ∉ [.TSQ_STATUS_STALL, .TSQ_STALL_CLK, .TSQ_ISSUE]) : w.rd k = s.rd k := hw.slot.rd hk

theorem CtlBegun.sreg (k : Nat) : w.sreg p n k = s.sreg p n k := by
  rw [State.sreg, hw.tile, State.sreg]

/-- A static source reads as before the bundle issued (R143). -/
theorem CtlBegun.source (k : Nat) : w.source p n k = s.source p n k := by
  have hrd : ∀ f : Fld, f ∉ [Fld.TSQ_STATUS_STALL, .TSQ_STALL_CLK, .TSQ_ISSUE] → ∀ i, w.rd (pk f p i) = s.rd (pk f p i) :=
    fun f hf i => hw.rd hf
  have hlog : w.logOf p n = s.logOf p n := by simp only [State.logOf, State.physOf, hrd .FLT_STATUS_MAP (by decide)]
  have hstep : w.step = s.step := hw.rd (show Fld.TB_STEP ∉ _ by decide)
  simp only [State.source, hw.tile, hrd .STEP_PARAM (by decide), hlog, hstep, State.deviceNo, hw.slot.only.job]

theorem CtlBegun.saluB (b : Bundle) : w.saluB p n b = s.saluB p n b := by
  simp only [State.saluB, hw.sreg]

end

/-! ## Where issue goes on -/

theorem MovedOn.congr {s w t : State} {p n : Nat} {lcs : SMap Word} {loops : List LoopFrame} (h : MovedOn w t p n lcs loops)
    (hpc : w.rd (tk .TSQ_STATUS_PC p n) = s.rd (tk .TSQ_STATUS_PC p n)) : MovedOn s t p n lcs loops := by
  obtain ⟨hto, hleft, hcount⟩ := h
  rw [hpc] at hto hleft hcount
  exact ⟨hto, hleft, hcount⟩

theorem slot_fetchGap (p n : Nat) (fs : List Fld) : (fetchGap p n).Only (Upd.ofSlot p n fs) :=
  Act.only_seq (only_bump fun _ => ⟨.TSQ_STALL_CLK, by simp, 6, rfl⟩) (slot_modTile p n _ fs)

theorem tile_fetchGap (p n : Nat) (s : State) :
    ((fetchGap p n).run s).tile p n = { s.tile p n with issued := { (s.tile p n).issued with fetch := true } } := by
  rw [fetchGap, Act.run_seq, tile_modTile, tile_bump]

theorem rd_fetchGap (p n : Nat) (s : State) {k : FKey} (hk : k.f ≠ .TSQ_STALL_CLK) : ((fetchGap p n).run s).rd k = s.rd k :=
  (rfl : ((fetchGap p n).run s).rd k = ((bump (tk .TSQ_STALL_CLK p n 6) 3).run s).rd k).trans (rd_bump_of_ne s hk 3)

/-- Issue goes on from a state whose PC, loop counters and loops it is given by (R140, R142). -/
structure Moved (u t : State) (p n : Nat) : Prop where
  slot  : Slotted u t p n [.TSQ_STATUS_PC]
  tile  : t.tile p n = { u.tile p n with
    issued := { (u.tile p n).issued with fetch := (t.tile p n).issued.fetch }, loops := (t.tile p n).loops, lcs := (t.tile p n).lcs }
  moved : MovedOn u t p n (u.tile p n).lcs (u.tile p n).loops

theorem slot_moveOn (p n : Nat) : (moveOn p n).Only (Upd.ofSlot p n [.TSQ_STATUS_PC]) := fun _ =>
  Act.only_list ⟨slot_modTile p n _ _, slot_setR List.mem_cons_self 0 _, Act.only_when fun _ => slot_fetchGap p n _⟩

theorem run_moveOn (u : State) (p n : Nat) :
    let m := loopNext (u.tile p n).lcs (u.rd (tk .TSQ_STATUS_PC p n)) (u.tile p n).loops
    (moveOn p n).run u = (Act.when m.long (fetchGap p n)).run ((setR (tk .TSQ_STATUS_PC p n) m.pc).run ((modTile p n (fun y => { y with
      loops := m.loops
      lcs := (match m.lc with
        | some q => SMap.put 0 y.lcs q.1 (BitVec.ofNat 32 q.2)
        | none => y.lcs) })).run u)) := by
  intro m
  rw [moveOn, Act.run_ask]
  dsimp only
  rw [Act.run_all_next, Act.run_all_next, Act.run_all_last] <;> rfl

theorem tile_when_fetchGap (c : Bool) (p n : Nat) (s : State) : ((Act.when c (fetchGap p n)).run s).tile p n =
    { s.tile p n with issued := { (s.tile p n).issued with fetch := (s.tile p n).issued.fetch || c } } := by
  cases c with
  | false => rw [Bool.or_false]; rfl
  | true => rw [Bool.or_true]; exact tile_fetchGap p n s

theorem rd_when_fetchGap (c : Bool) (p n : Nat) (s : State) {k : FKey} (hk : k.f ≠ .TSQ_STALL_CLK) :
    ((Act.when c (fetchGap p n)).run s).rd k = s.rd k := by
  cases c with
  | false => rfl
  | true => exact rd_fetchGap p n s hk

theorem moveOn_moves (u : State) (p n : Nat) : Moved u ((moveOn p n).run u) p n := by
  have hrun := run_moveOn u p n
  have htile := tile_when_fetchGap (loopNext (u.tile p n).lcs (u.rd (tk .TSQ_STATUS_PC p n)) (u.tile p n).loops).long p n
  have hrd := fun s => rd_when_fetchGap (loopNext (u.tile p n).lcs (u.rd (tk .TSQ_STATUS_PC p n)) (u.tile p n).loops).long p n s
    (k := tk .TSQ_STATUS_PC p n) nofun
  dsimp only at hrun
  refine ⟨(slot_moveOn p n).slotted u, ?_, ?_, ?_, fun k => ?_⟩
  · rw [hrun, htile, tile_setR, tile_modTile]
  · rw [hrun, hrd, rd_setR_self]
    rfl
  · rw [hrun, htile, tile_setR, tile_modTile]
  · rw [hrun, htile, tile_setR, tile_modTile]
    dsimp only
    cases (loopNext (u.tile p n).lcs (u.rd (tk .TSQ_STATUS_PC p n)) (u.tile p n).loops).lc with
    | none => rfl
    | some q => exact SMap.getD_put _ _ _ _ _

/-- A tile as a control slot may leave it before issue goes on. -/
def Tile.prepared (y x : Tile) : Prop :=
  x = { y with issued := {}, loops := x.loops, lcs := x.lcs, sregs := x.sregs, gatePc := x.gatePc }

/-- A bundle has issued by its control slot, and issue goes on from the loops and counters of `x`. -/
structure CtlMoved (s t : State) (p n : Nat) (fs : List Fld) (x : Tile) : Prop where
  done  : CtlDone s t p n fs x.gatePc
  moved : MovedOn s t p n x.lcs x.loops
  sregs : (t.tile p n).sregs = x.sregs

theorem CtlBegun.moves {s w u : State} {p n : Nat} {fs : List Fld} (hw : CtlBegun s w p n) (hu : Slotted w u p n fs)
    (hissue : Fld.TSQ_ISSUE ∉ fs) (hpc : Fld.TSQ_STATUS_PC ∉ fs) (hx : (s.tile p n).prepared (u.tile p n)) :
    CtlMoved s ((moveOn p n).run u) p n fs (u.tile p n) := by
  obtain ⟨hslot, htile, hmoved⟩ := moveOn_moves u p n
  generalize (moveOn p n).run u = t at hslot htile hmoved ⊢
  have hpc' : u.rd (tk .TSQ_STATUS_PC p n) = s.rd (tk .TSQ_STATUS_PC p n) :=
    (hu.rd (by simp [tk, hpc])).trans (hw.rd (show Fld.TSQ_STATUS_PC ∉ _ by decide))
  have hsregs := congrArg Tile.sregs htile
  dsimp only at hsregs
  refine ⟨hw.done (hu.trans hslot (fun _ hf => List.mem_cons_of_mem _ hf) (by simp)) hissue ?_, hmoved.congr hpc', hsregs⟩
  rw [hsregs]
  generalize u.tile p n = x at hx htile
  generalize t.tile p n = y at htile ⊢
  rw [Tile.prepared] at hx
  rw [hx] at htile
  exact htile

section
variable {s t : State} {p n : Nat} {f : Fld} (v : Nat)

theorem CtlDone.set {fs : List Fld} {gate : Nat} (h : CtlDone s t p n fs gate) (hf : f ∈ Fld.TSQ_STATUS_PC :: fs) (hissue : f ≠ .TSQ_ISSUE) :
    CtlDone s ((setR (tk f p n) v).run t) p n fs gate where
  slot := h.slot.trans ((slot_setR (fs := Fld.TSQ_ISSUE :: Fld.TSQ_STATUS_PC :: fs) (List.mem_cons_of_mem _ hf) 0 v).slotted t)
    (fun _ hg => hg) (fun _ hg => hg)
  issue := (rd_setR_of_ne (k := tk f p n) (k' := tk .TSQ_ISSUE p n) hissue.symm v t).trans h.issue
  tile := by
    rw [tile_setR]
    exact h.tile

theorem MovedOn.set {lcs : SMap Word} {loops : List LoopFrame} (h : MovedOn s t p n lcs loops) (hf : f ≠ .TSQ_STATUS_PC) :
    MovedOn s ((setR (tk f p n) v).run t) p n lcs loops where
  pc := (rd_setR_of_ne (k := tk f p n) (k' := tk .TSQ_STATUS_PC p n) hf.symm v t).trans h.pc
  left := by
    rw [tile_setR]
    exact h.left
  count := by
    rw [tile_setR]
    exact h.count

end

/-! ## Operations -/

theorem sliValue_eq (b : Bundle) :
    sliValue b = if b.c.testBit 22 = true then BitVec.ofNat 32 b.imm else (BitVec.ofNat 16 b.c).signExtend 32 := by
  have hsigned : signedOf 16 b.c = (BitVec.ofNat 16 b.c).toInt := by
    rw [signedOf, BitVec.toInt_eq_toNat_cond, BitVec.toNat_ofNat]
    split <;> split <;> omega
  rw [sliValue, hsigned]
  rfl

theorem saluB_eq (s : State) (p n : Nat) (b : Bundle) : s.saluB p n b =
    if b.c.testBit 11 = true then (BitVec.ofNat 11 b.c).signExtend 32 else s.sreg p n (bitsOf b.c 18 15) := by
  have hsigned : signedOf 11 b.c = (BitVec.ofNat 11 b.c).toInt := by
    rw [signedOf, BitVec.toInt_eq_toNat_cond, BitVec.toNat_ofNat]
    split <;> split <;> omega
  rw [State.saluB, hsigned]
  rfl

theorem saluOp_eq (a w : Word) : ∀ q ∈ ([(0, a + w), (1, a - w), (2, a * w), (3, a <<< w.toNat), (4, a >>> w.toNat), (5, a &&& w),
    (6, a ||| w), (7, a ^^^ w)] : List (Nat × Word)), saluOp q.1 a w = q.2 := by
  simp [saluOp]

theorem branchMet_eq (a w : Word) : ∀ q ∈ ([(0, a == w), (1, a != w), (2, a.slt w), (3, !a.slt w), (4, a.ult w), (5, !a.ult w), (6, true)] :
    List (Nat × Bool)), branchMet q.1 a w = q.2 := by
  simp only [branchMet, BitVec.slt, BitVec.ult, ← decide_not, not_lt, List.forall_mem_cons, List.not_mem_nil, false_imp_iff, implies_true,
    and_true]

/-- What the static sources give (R143). -/
theorem source_eq (s : State) (p n : Nat) : (∀ k, k < 4 → s.source p n k = SMap.getD (s.tile p n).lcs k 0) ∧
    (∀ k, k < 16 → s.source p n (0x10 + k) = BitVec.ofNat 32 (s.rd (pk .STEP_PARAM p k))) ∧
    ∀ q ∈ ([(0x20, (s.logOf p n).getD 0), (0x21, p), (0x22, s.deviceNo), (0x23, s.step), (0x24, s.step / 2 ^ 32)] : List (Nat × Nat)),
      s.source p n q.1 = BitVec.ofNat 32 q.2 := by
  refine ⟨fun k hk => ?_, fun k hk => ?_, by simp [State.source]⟩
  · rw [State.source, if_pos (by omega)]
  · rw [State.source, if_neg (by omega), if_pos (by omega), Nat.add_sub_cancel_left]

section
variable {s w : State} {p n : Nat} (hw : CtlBegun s w p n)
include hw

theorem CtlBegun.prepared : (s.tile p n).prepared (w.tile p n) := by
  rw [hw.tile, Tile.prepared]

/-- Issue goes on with nothing else done. -/
theorem CtlBegun.movesOn {fs : List Fld} (hissue : Fld.TSQ_ISSUE ∉ fs) (hpc : Fld.TSQ_STATUS_PC ∉ fs) :
    CtlMoved s ((moveOn p n).run w) p n fs (s.tile p n) := by
  obtain ⟨hdone, hmoved, hsregs⟩ := hw.moves ((Slotted.refl w p n []).trans (.refl w p n []) nofun (fun _ hf => absurd hf List.not_mem_nil))
    hissue hpc hw.prepared
  rw [hw.tile] at hdone hmoved hsregs
  exact ⟨hdone, hmoved, hsregs⟩

/-- A scalar register takes its value as the bundle issues, and S0 stays zero (R142). -/
theorem CtlBegun.sets (d : Nat) (v : Word) : let t := (moveOn p n).run ((setSreg p n d v).run w)
    CtlDone s t p n [] (s.tile p n).gatePc ∧ MovedOn s t p n (s.tile p n).lcs (s.tile p n).loops ∧ SregTaken s t p n d v := by
  intro t
  have hset : ∃ r, ((setSreg p n d v).run w).tile p n = { s.tile p n with issued := {}, sregs := r } ∧
      Slotted w ((setSreg p n d v).run w) p n [] ∧
      ∀ k, k ≠ 0 → SMap.getD r k 0 = if k = d then v else SMap.getD (s.tile p n).sregs k 0 := by
    rw [setSreg]
    split
    next hd =>
      refine ⟨(s.tile p n).sregs, hw.tile, .refl w p n [], fun k hk => ?_⟩
      rw [if_neg (hd ▸ hk)]
    next => exact ⟨_, by rw [tile_modTile, hw.tile], (slot_modTile p n _ []).slotted w, fun k _ => SMap.getD_put _ _ _ _ _⟩
  obtain ⟨r, htile, hslot, hr⟩ := hset
  obtain ⟨hdone, hmoved, hsregs⟩ := hw.moves hslot List.not_mem_nil List.not_mem_nil (by rw [htile, Tile.prepared])
  rw [htile] at hdone hmoved hsregs
  refine ⟨hdone, hmoved, fun k => ?_⟩
  rw [State.sreg, hsregs, State.sreg]
  dsimp only
  by_cases hk : k = 0
  · rw [if_pos hk, if_neg (fun h => h.2 hk), if_pos hk]
  · rw [if_neg hk, hr k hk, if_neg hk]
    simp only [ne_eq, hk, not_false_eq_true, and_true]

/-- A loop's counter starts at zero; one to run is active, from the bundle after it (R140). -/
theorem CtlBegun.loops (b : Bundle) : let t := (doLoop p n b).run w
    let k := s.loopCount p b
    let x := s.tile p n
    CtlDone s t p n [] x.gatePc ∧ (t.tile p n).sregs = x.sregs ∧
      (k = 0 → t.rd (tk .TSQ_STATUS_PC p n) = clipTo 13 (bitsOf b.c 12 0 + 1) ∧ (t.tile p n).loops = x.loops ∧
        ∀ j, SMap.getD (t.tile p n).lcs j 0 = if j = bitsOf b.c 26 25 then 0 else SMap.getD x.lcs j 0) ∧
      (k ≠ 0 → MovedOn s t p n (SMap.put 0 x.lcs (bitsOf b.c 26 25) 0)
        (⟨bitsOf b.c 26 25, s.rd (tk .TSQ_STATUS_PC p n) + 1, bitsOf b.c 12 0, k⟩ :: x.loops)) := by
  intro t k x
  have hcount : w.loopCount p b = k := by
    rw [State.loopCount, hw.rd (show Fld.STEP_PARAM ∉ _ by decide)]
    rfl
  have hpc : w.rd (tk .TSQ_STATUS_PC p n) = s.rd (tk .TSQ_STATUS_PC p n) := hw.rd (show Fld.TSQ_STATUS_PC ∉ _ by decide)
  have hrun : t = (doLoop p n b).run w := rfl
  rw [doLoop, Act.run_ask] at hrun
  dsimp only at hrun
  rw [hcount, hpc] at hrun
  by_cases hk : k = 0
  · rw [if_pos hk, Act.run_all_next, Act.run_all_next, Act.run_all_last] at hrun
    have hslot : (Act.all [modTile p n (fun x => { x with lcs := SMap.put 0 x.lcs (bitsOf b.c 26 25) 0 }),
        setR (tk .TSQ_STATUS_PC p n) (bitsOf b.c 12 0 + 1), fetchGap p n]).Only (Upd.ofSlot p n [.TSQ_STATUS_PC]) :=
      Act.only_list ⟨slot_modTile p n _ _, slot_setR List.mem_cons_self 0 _, slot_fetchGap p n _⟩
    have hslotted := hslot.slotted w
    rw [Act.run_all_next, Act.run_all_next, Act.run_all_last, ← hrun] at hslotted
    have htile : t.tile p n = { x with issued := { fetch := true }, lcs := SMap.put 0 x.lcs (bitsOf b.c 26 25) 0 } := by
      rw [hrun, tile_fetchGap, tile_setR, tile_modTile, hw.tile]
    refine ⟨hw.done hslotted List.not_mem_nil (by rw [htile]), by rw [htile], fun _ => ⟨?_, by rw [htile], fun j => ?_⟩, fun h => absurd hk h⟩
    · rw [hrun, rd_fetchGap p n _ (k := tk .TSQ_STATUS_PC p n) nofun, rd_setR_self]
      rfl
    · rw [htile]
      exact SMap.getD_put 0 x.lcs j _ 0
  · rw [if_neg hk, Act.run_seq] at hrun
    have htile : ∀ f : Tile → Tile, ((modTile p n f).run w).tile p n = f { x with issued := {} } := fun f => by
      rw [tile_modTile, hw.tile]
    obtain ⟨hdone, hmoved, hsregs⟩ := hw.moves ((slot_modTile p n (fun x => { x with
      lcs := SMap.put 0 x.lcs (bitsOf b.c 26 25) 0
      loops := ⟨bitsOf b.c 26 25, s.rd (tk .TSQ_STATUS_PC p n) + 1, bitsOf b.c 12 0, k⟩ :: x.loops }) []).slotted w)
      List.not_mem_nil List.not_mem_nil (by rw [htile, Tile.prepared])
    rw [← hrun, htile] at hdone hmoved hsregs
    exact ⟨hdone, hsregs, fun h => absurd h hk, fun _ => hmoved⟩

/-- A branch goes to its target, and the loops that the target leaves end (R140). -/
theorem CtlBegun.branches (target : Nat) (hlt : target < 2 ^ 13) : let t := (branchTo p n target).run w
    CtlDone s t p n [] (s.tile p n).gatePc ∧ (t.tile p n).sregs = (s.tile p n).sregs ∧
      t.rd (tk .TSQ_STATUS_PC p n) = target ∧ (t.tile p n).loops = loopsAt target (s.tile p n).loops ∧ (t.tile p n).lcs = (s.tile p n).lcs := by
  intro t
  have hslot : (branchTo p n target).Only (Upd.ofSlot p n [.TSQ_STATUS_PC]) :=
    Act.only_list ⟨slot_modTile p n _ _, slot_setR List.mem_cons_self 0 _, slot_fetchGap p n _⟩
  have hrun : t = (branchTo p n target).run w := rfl
  rw [branchTo, Act.run_all_next, Act.run_all_next, Act.run_all_last] at hrun
  have htile : t.tile p n = { s.tile p n with issued := { fetch := true }, loops := loopsAt target (s.tile p n).loops } := by
    rw [hrun, tile_fetchGap, tile_setR, tile_modTile, hw.tile]
  refine ⟨hw.done (hslot.slotted w) List.not_mem_nil (by rw [htile]), by rw [htile], ?_, by rw [htile], by rw [htile]⟩
  rw [hrun, rd_fetchGap p n _ (k := tk .TSQ_STATUS_PC p n) nofun, rd_setR_self]
  exact Nat.mod_eq_of_lt hlt

/-- IDLE holds the bundle that follows, unless it is to hold it for no time. -/
theorem CtlBegun.idles (c : Bool) (hin : s.rd (tk .TSQ_STATUS_IN_IDLE p n) = 0) :
    let t := (Act.when (!c) (setR (tk .TSQ_STATUS_IN_IDLE p n) 1)).run ((moveOn p n).run w)
    CtlMoved s t p n [.TSQ_STATUS_IN_IDLE] (s.tile p n) ∧ t.rd (tk .TSQ_STATUS_IN_IDLE p n) = if c = true then 0 else 1 := by
  have hmoved := hw.movesOn (fs := [.TSQ_STATUS_IN_IDLE]) (by decide) (by decide)
  cases c with
  | true =>
    refine ⟨hmoved, ?_⟩
    have hslot : Slotted s ((moveOn p n).run w) p n [.TSQ_ISSUE, .TSQ_STATUS_PC] :=
      hw.slot.trans ((slot_moveOn p n).slotted w) (by simp) (by simp)
    exact (hslot.rd (show Fld.TSQ_STATUS_IN_IDLE ∉ _ by decide)).trans hin
  | false =>
    obtain ⟨hdone, hgone, hsregs⟩ := hmoved
    have hset := hdone.set 1 (f := .TSQ_STATUS_IN_IDLE) (by decide) nofun
    exact ⟨⟨hset, hgone.set 1 nofun, (congrArg Tile.sregs (tile_setR _ _ _ _ _)).trans hsregs⟩, rd_setR_self _ _ _⟩

/-- The rest of GATEW. -/
def gateRest (p n : Nat) (finish : Bool) : Act := Act.all [
  .ask (fun s => modTile p n (fun x => { x with gatePc := s.rd (tk .TSQ_STATUS_PC p n) })), moveOn p n,
  Act.when finish (setR (tk .TSQ_STATUS_PC p n) 0), setR (tk .TSQ_STATUS_IN_GATE p n) 1]

/-- GATEW waits at its gate, and after FINISH issue goes on at bundle 0 (R159, R162). -/
theorem CtlBegun.gates (finish : Bool) : let t := (gateRest p n finish).run w
    CtlDone s t p n [.TSQ_STATUS_IN_GATE] (s.rd (tk .TSQ_STATUS_PC p n)) ∧ (t.tile p n).sregs = (s.tile p n).sregs ∧
      t.rd (tk .TSQ_STATUS_IN_GATE p n) = 1 ∧ (finish = true → t.rd (tk .TSQ_STATUS_PC p n) = 0) ∧
      (finish = false → MovedOn s t p n (s.tile p n).lcs (s.tile p n).loops) := by
  have hpc : w.rd (tk .TSQ_STATUS_PC p n) = s.rd (tk .TSQ_STATUS_PC p n) := hw.rd (show Fld.TSQ_STATUS_PC ∉ _ by decide)
  have htile : ((modTile p n (fun x => { x with gatePc := s.rd (tk .TSQ_STATUS_PC p n) })).run w).tile p n =
      { s.tile p n with issued := {}, gatePc := s.rd (tk .TSQ_STATUS_PC p n) } := by rw [tile_modTile, hw.tile]
  obtain ⟨hdone, hmoved, hsregs⟩ := hw.moves ((slot_modTile p n _ [.TSQ_STATUS_IN_GATE]).slotted w) (by decide) (by decide)
    (by rw [htile, Tile.prepared])
  rw [htile] at hdone hmoved hsregs
  dsimp only
  rw [gateRest, Act.run_all_next, Act.run_all_next, Act.run_all_next, Act.run_all_last, Act.run_ask, hpc]
  generalize (moveOn p n).run _ = u at hdone hmoved hsregs
  have hgate : ∀ v, ((setR (tk .TSQ_STATUS_IN_GATE p n) 1).run v).rd (tk .TSQ_STATUS_IN_GATE p n) = 1 := fun v => rd_setR_self _ _ v
  have hset : ∀ v, CtlDone s v p n [.TSQ_STATUS_IN_GATE] (s.rd (tk .TSQ_STATUS_PC p n)) →
      CtlDone s ((setR (tk .TSQ_STATUS_IN_GATE p n) 1).run v) p n [.TSQ_STATUS_IN_GATE] (s.rd (tk .TSQ_STATUS_PC p n)) :=
    fun v hv => hv.set 1 (by decide) nofun
  have htile' : ∀ k v x, ((setR k v).run x).tile p n = x.tile p n := fun k v x => tile_setR k v x p n
  cases finish with
  | false => exact ⟨hset u hdone, (congrArg Tile.sregs (htile' _ _ _)).trans hsregs, hgate u, nofun, fun _ => hmoved.set 1 nofun⟩
  | true =>
    refine ⟨hset _ (hdone.set 0 (by decide) nofun), ?_, hgate _, fun _ => ?_, nofun⟩
    · rw [htile', Act.run_when, if_pos rfl, htile', hsregs]
    · exact (rd_setR_of_ne (k := tk .TSQ_STATUS_IN_GATE p n) (k' := tk .TSQ_STATUS_PC p n) nofun 1 _).trans (rd_setR_self _ _ u)

end

end Sys2Proof.Machine
end

section

open Sys2Proof Sys2Proof.Machine

/-- Settles O54 (R140-R143, R159, R170). A control slot that may issue counts its bundle (`cSlot_begins`); what each operation does then
is told from there: issue goes on in order (`CtlBegun.movesOn`), with a scalar register set (`CtlBegun.sets`) or a loop begun
(`CtlBegun.loops`), at a branch's target (`CtlBegun.branches`), or waits (`CtlBegun.idles`, `CtlBegun.gates`). -/
theorem controlSlotIssues : Obligations.ControlSlotIssues := by
  unfold Obligations.ControlSlotIssues
  refine ⟨fun s p n b h => ?_, fun s p n => ?_⟩
  · intro x f r ends sets
    have htakes : ∀ (c : Instr) (k : Bundle → Act) (op : Nat) (v : Word), exec c s = .next ((cSlot p.val n.val op k).run s) → cop b = op →
        (∀ w, CtlBegun s w p.val n.val → (k b).run w = (moveOn p.val n.val).run ((setSreg p.val n.val (f 26 23) v).run w)) → sets c v := by
      intro c k op v hexec hop hk
      obtain ⟨w, hw, hrun⟩ := cSlot_begins h hop k
      obtain ⟨hdone, hmoved, hsreg⟩ := hw.sets (f 26 23) v
      rw [← hk w hw, ← hrun] at hdone hmoved hsreg
      exact ⟨_, hexec, ⟨hdone, hmoved⟩, hsreg⟩
    refine ⟨fun hop => ?_, fun hop => ?_, fun hop => ?_, fun hop v hv q hq hfn => ?_, fun hop => ?_, fun hop k hk => ?_,
      fun hop q hq hc => ?_, fun hop => ?_⟩
    · obtain ⟨w, hw, hrun⟩ := cSlot_begins h hop (fun _ => moveOn p.val n.val)
      obtain ⟨hdone, hmoved, hsregs⟩ := hw.movesOn (fs := []) List.not_mem_nil List.not_mem_nil
      exact ⟨_, congrArg Host.Outcome.next hrun, ⟨hdone, hmoved⟩, hsregs⟩
    · obtain ⟨w, hw, hrun⟩ := cSlot_begins h hop (fun b => (moveOn p.val n.val).seq
        (Act.when (!(b.c.testBit 26 && b.imm == 0)) (setR (tk .TSQ_STATUS_IN_IDLE p.val n.val) 1)))
      have hin : s.rd (tk .TSQ_STATUS_IN_IDLE p.val n.val) = 0 := by
        have hgo := h.go
        simp only [State.seqGo, State.on, Bool.and_eq_true, Bool.not_eq_true', bne_eq_false_iff_eq] at hgo
        exact hgo.1.2
      obtain ⟨⟨hdone, hmoved, hsregs⟩, hidle⟩ := hw.idles (b.c.testBit 26 && b.imm == 0) hin
      refine ⟨_, congrArg Host.Outcome.next (hrun.trans (Act.run_seq _ _ _)), ⟨hdone, hmoved⟩, hsregs, hidle.trans ?_⟩
      simp only [Bool.and_eq_true, beq_iff_eq]
    · refine htakes _ (doSli p.val n.val) 2 _ rfl hop fun w hw => ?_
      rw [doSli, Act.run_seq, sliValue_eq]
    · have hvalue : saluOp (f 14 12) (r 22 19) v = q.2 := hfn ▸ saluOp_eq (r 22 19) v q hq
      refine htakes _ (doSalu p.val n.val) 3 _ rfl hop fun w hw => ?_
      rw [doSalu, Act.run_ask, Act.run_seq, hw.sreg, hw.saluB, saluB_eq, ← hv]
      exact congrArg (fun v => (moveOn p.val n.val).run ((setSreg p.val n.val (f 26 23) v).run w)) hvalue
    · have hsource : ∀ v, s.source p.val n.val (f 7 0) = v → sets (.smovp p n) v := fun v hv =>
        htakes _ (doSmovp p.val n.val) 4 v rfl hop fun w hw => by
          rw [doSmovp, Act.run_ask, Act.run_seq, hw.source]
          exact congrArg (fun v => (moveOn p.val n.val).run ((setSreg p.val n.val (f 26 23) v).run w)) hv
      obtain ⟨hlc, hparam, hother⟩ := source_eq s p.val n.val
      exact ⟨fun k hk hfk => hsource _ (hfk ▸ hlc k hk), fun k hk hfk => hsource _ (hfk ▸ hparam k hk),
        fun q hq hfq => hsource _ (hfq ▸ hother q hq)⟩
    · obtain ⟨w, hw, hrun⟩ := cSlot_begins h hop (doLoop p.val n.val)
      subst hk
      exact ⟨_, congrArg Host.Outcome.next hrun, hw.loops b⟩
    · obtain ⟨w, hw, hrun⟩ := cSlot_begins h hop (doBr p.val n.val)
      have hmet : branchMet (f 18 16) (r 26 23) (r 22 19) = q.2 := hc ▸ branchMet_eq (r 26 23) (r 22 19) q hq
      rw [doBr, Act.run_ask, hw.sreg, hw.sreg] at hrun
      cases htaken : q.2 with
      | true =>
        rw [if_pos (hmet.trans htaken)] at hrun
        obtain ⟨hdone, hsregs, hpc, hloops, hlcs⟩ := hw.branches (f 12 0) (Nat.mod_lt _ (Nat.two_pow_pos _))
        exact ⟨_, congrArg Host.Outcome.next hrun, hdone, hsregs, fun _ => ⟨hpc, hloops, hlcs⟩, nofun⟩
      | false =>
        rw [if_neg (by rw [show branchMet (bitsOf b.c 18 16) _ _ = q.2 from hmet, htaken]; exact Bool.false_ne_true)] at hrun
        obtain ⟨hdone, hmoved, hsregs⟩ := hw.movesOn (fs := []) List.not_mem_nil List.not_mem_nil
        exact ⟨_, congrArg Host.Outcome.next hrun, hdone, hsregs, nofun, fun _ => hmoved⟩
    · obtain ⟨w, hw, hrun⟩ := cSlot_begins h hop (fun b => gateRest p.val n.val (b.c.testBit 0))
      exact ⟨_, congrArg Host.Outcome.next hrun, hw.gates (b.c.testBit 0)⟩
  · exact ⟨_, rfl, (slot_setR List.mem_cons_self 0 0).slotted s, tile_setR _ _ _ _ _, rd_setR_self _ _ _⟩

end

section
/-! PROOFS. How bundles come to issue (R138, R155, R159, R165, R166): slots with nothing to do, bundles held back, and faults. -/

namespace Sys2Proof.Machine

/-! ## Fault codes -/

/-- Codes that the fault record holds. -/
def CodesFit (cs : List Nat) : Prop := ∀ c ∈ cs, c < 32

theorem codesFit_append {cs ds : List Nat} (h : CodesFit cs) (k : CodesFit ds) : CodesFit (cs ++ ds) :=
  fun c hc => (List.mem_append.mp hc).elim (h c) (k c)

theorem codesFit_one {c : Nat} (h : c < 32) : CodesFit [c] := fun _ hd => List.mem_singleton.mp hd ▸ h

theorem codesFit_codeIf (b : Bool) {c : Nat} (h : c < 32) : CodesFit (codeIf b c) := by
  cases b with
  | false => exact nofun
  | true => exact codesFit_one h

theorem codesFit_spanFault (s : State) (p : Nat) (sp : Space) (t : Nat) (lo hi : Int) : CodesFit (s.spanFault p sp t lo hi) := by
  rw [State.spanFault]
  split
  · exact codesFit_one (by decide)
  · split
    · exact codesFit_one (by decide)
    · exact nofun

theorem codesFit_cFaults (s : State) (p n : Nat) (b : Bundle) : CodesFit (s.cFaults p n b) := by
  have hone : ∀ c, CodesFit (codeIf c fIllegal) := fun c => codesFit_codeIf c (by decide)
  rw [State.cFaults]
  dsimp only
  split
  · exact hone _
  · exact hone _
  · exact hone _
  · exact nofun
  · exact hone _
  · exact codesFit_append (hone _) (codesFit_codeIf _ (by decide))
  · exact hone _
  · exact hone _
  · exact codesFit_one (by decide)

theorem codesFit_aFaults (s : State) (p n : Nat) (b : Bundle) : CodesFit (s.aFaults p n b) := by
  rw [State.aFaults]
  dsimp only
  split
  · exact codesFit_codeIf _ (by decide)
  · split
    · exact codesFit_one (by decide)
    · split
      · exact codesFit_one (by decide)
      · exact codesFit_append (codesFit_append (codesFit_spanFault s p _ _ _ _) (codesFit_codeIf _ (by decide))) (codesFit_codeIf _ (by decide))

theorem codesFit_vFaults (s : State) (p n : Nat) (b : Bundle) : CodesFit (s.vFaults p n b) := by
  have hline : ∀ x, CodesFit (s.lsFault p n x) := fun x => codesFit_spanFault s p _ _ _ _
  rw [State.vFaults]
  dsimp only
  split
  · exact codesFit_one (by decide)
  · split
    · exact hline _
    · split
      · split
        · exact codesFit_one (by decide)
        · exact codesFit_append (hline _) (codesFit_codeIf _ (by decide))
      · split
        · exact hline _
        · split
          · exact hline _
          · split
            · exact codesFit_codeIf _ (by decide)
            · exact nofun

theorem codesFit_mvSpan (s : State) (p n : Nat) (o : MvOp) : CodesFit (s.mvSpan p n o) := by
  have hspan : ∀ (c : Prop) [Decidable c] (x : Bool) (sp : Space) (y : Nat) (lo hi : Int),
      CodesFit (if c then codeIf x fRange else s.spanFault p sp y lo hi) := by
    intro c _ x sp y lo hi
    split
    · exact codesFit_codeIf _ (by decide)
    · exact codesFit_spanFault s p _ _ _ _
  rw [State.mvSpan]
  exact codesFit_append (codesFit_append (hspan _ _ _ _ _ _) (hspan _ _ _ _ _ _)) (hspan _ _ _ _ _ _)

theorem codesFit_mFaults (s : State) (p n : Nat) (b : Bundle) : CodesFit (s.mFaults p n b) := by
  rw [State.mFaults]
  split
  · exact codesFit_codeIf _ (by decide)
  · split
    · split
      · exact codesFit_one (by decide)
      · split
        · exact codesFit_one (by decide)
        · exact codesFit_mvSpan s p n _
    · split
      · exact codesFit_codeIf _ (by decide)
      · exact codesFit_one (by decide)

/-- The fault record holds every code and slot that a bundle faults with (R165, R168). -/
theorem bundleFaults_fit (s : State) (p n : Nat) (b : Bundle) (c : Bool) : ∀ q ∈ s.bundleFaults p n b c, q.1 < 32 ∧ q.2 < 4 := by
  have hslot : ∀ cs, CodesFit cs → ∀ k, k < 4 → ∀ q ∈ cs.map (fun c => (c, k)), q.1 < 32 ∧ q.2 < 4 := by
    intro cs hcs k hk q hq
    obtain ⟨d, hd, rfl⟩ := List.mem_map.mp hq
    exact ⟨hcs d hd, hk⟩
  have huse : ∀ q ∈ (immUsers b).map (fun u => (fIllegal, u)), q.1 < 32 ∧ q.2 < 4 := by
    intro q hq
    obtain ⟨u, hu, rfl⟩ := List.mem_map.mp hq
    have hlt : u ∈ [0, 2, 3] := by
      simp only [immUsers, List.mem_append] at hu
      rcases hu with (hu | hu) | hu <;> (split at hu <;> simp_all)
    exact ⟨(by decide : fIllegal < 32), (by decide : ∀ u ∈ [0, 2, 3], u < 4) u hlt⟩
  rw [State.bundleFaults]
  intro q hq
  rcases List.mem_append.mp hq with hq | hq
  · exact hslot _ (codesFit_cFaults s p n b) 0 (by decide) q hq
  · split at hq
    · cases hq
    · simp only [List.mem_append] at hq
      rcases hq with ((hq | hq) | hq) | hq
      · exact hslot _ (codesFit_aFaults s p n b) 1 (by decide) q hq
      · exact hslot _ (codesFit_vFaults s p n b) 2 (by decide) q hq
      · exact hslot _ (codesFit_mFaults s p n b) 3 (by decide) q hq
      · split at hq
        · exact huse q hq
        · cases hq

/-! ## A fault recorded -/

/-- The fields of the fault record. -/
def recordFlds : List Fld := [.TSQ_FAULT_VALID, .TSQ_FAULT_CODE, .TSQ_FAULT_SLOT, .TSQ_FAULT_PC]

/-- A fault has put the tile in fault mode; the first one stands in the record (R166, R168). -/
structure Faulted (s t : State) (p n code slot pc : Nat) : Prop where
  same  : UnitSame s t
  mode  : t.rd (tk .TSQ_STATUS_FAULT_MODE p n) = 1
  other : ∀ k : FKey, k.f ∉ Fld.TSQ_STATUS_FAULT_MODE :: recordFlds → t.rd k = s.rd k
  first : s.on (tk .TSQ_FAULT_VALID p n) = false → t.rd (tk .TSQ_FAULT_VALID p n) = 1 ∧
    t.rd (tk .TSQ_FAULT_CODE p n) = clipTo 5 code ∧ t.rd (tk .TSQ_FAULT_SLOT p n) = clipTo 2 slot ∧
    t.rd (tk .TSQ_FAULT_PC p n) = clipTo 13 pc
  kept  : s.on (tk .TSQ_FAULT_VALID p n) = true → ∀ f ∈ recordFlds, t.rd (tk f p n) = s.rd (tk f p n)

/-- The record of a fault, where none stands. -/
def recordFault (p n code slot pc : Nat) : Act := Act.all [
  setR (tk .TSQ_FAULT_VALID p n) 1, setR (tk .TSQ_FAULT_CODE p n) code, setR (tk .TSQ_FAULT_SLOT p n) slot,
  setR (tk .TSQ_FAULT_PC p n) pc]

theorem rd_recordFault (p n code slot pc : Nat) (s : State) : let t := (recordFault p n code slot pc).run s
    t.rd (tk .TSQ_FAULT_VALID p n) = 1 ∧ t.rd (tk .TSQ_FAULT_CODE p n) = clipTo 5 code ∧ t.rd (tk .TSQ_FAULT_SLOT p n) = clipTo 2 slot ∧
      t.rd (tk .TSQ_FAULT_PC p n) = clipTo 13 pc ∧ ∀ k : FKey, k.f ∉ recordFlds → t.rd k = s.rd k := by
  have hne : ∀ (f g : Fld) v u, g ≠ f → ((setR (tk f p n) v).run u).rd (tk g p n) = u.rd (tk g p n) := fun f g v u h =>
    rd_setR_of_ne (k := tk f p n) (k' := tk g p n) h v u
  have hother : ∀ (k : FKey), k.f ∉ recordFlds → ∀ f ∈ recordFlds, ∀ v u, ((setR (tk f p n) v).run u).rd k = u.rd k :=
    fun k hk f hf v u => rd_setR_of_ne (k := tk f p n) (fun he => hk (he ▸ hf)) v u
  dsimp only
  rw [recordFault, Act.run_all_next, Act.run_all_next, Act.run_all_next, Act.run_all_last]
  refine ⟨?_, ?_, ?_, rd_setR_self _ _ _, fun k hk => ?_⟩
  · rw [hne .TSQ_FAULT_PC .TSQ_FAULT_VALID _ _ nofun, hne .TSQ_FAULT_SLOT .TSQ_FAULT_VALID _ _ nofun,
      hne .TSQ_FAULT_CODE .TSQ_FAULT_VALID _ _ nofun, rd_setR_self]
    rfl
  · rw [hne .TSQ_FAULT_PC .TSQ_FAULT_CODE _ _ nofun, hne .TSQ_FAULT_SLOT .TSQ_FAULT_CODE _ _ nofun, rd_setR_self]
    rfl
  · rw [hne .TSQ_FAULT_PC .TSQ_FAULT_SLOT _ _ nofun, rd_setR_self]
    rfl
  · rw [hother k hk _ (by decide), hother k hk _ (by decide), hother k hk _ (by decide), hother k hk _ (by decide)]

theorem seqFault_faulted (p n code slot pc : Nat) (s : State) : Faulted s ((seqFault p n code slot pc).run s) p n code slot pc := by
  have honly : (seqFault p n code slot pc).Only Upd.ofCount := fun _ => Act.only_list
    ⟨Act.only_when fun _ => Act.only_list ⟨count_setR _ _, count_setR _ _, count_setR _ _, count_setR _ _⟩, count_setR _ _,
      count_modPile p _, count_causeAt p _⟩
  have hrun : ∀ k, ((seqFault p n code slot pc).run s).rd k = ((setR (tk .TSQ_STATUS_FAULT_MODE p n) 1).run
      ((Act.when (!s.on (tk .TSQ_FAULT_VALID p n)) (recordFault p n code slot pc)).run s)).rd k := fun k => by
    rw [seqFault, Act.run_ask, Act.run_all_next, Act.run_all_next, Act.run_all_next, Act.run_all_last, rd_causeAt]
    rfl
  have hmode : ∀ (k : FKey), k.f ≠ .TSQ_STATUS_FAULT_MODE → ((seqFault p n code slot pc).run s).rd k =
      ((Act.when (!s.on (tk .TSQ_FAULT_VALID p n)) (recordFault p n code slot pc)).run s).rd k := fun k hk => by
    rw [hrun, rd_setR_of_ne (k := tk .TSQ_STATUS_FAULT_MODE p n) hk]
  obtain ⟨hvalid, hcode, hslot, hpc, hother⟩ := rd_recordFault p n code slot pc s
  refine ⟨honly.unitSame s, ?_, fun k hk => ?_, fun hfirst => ?_, fun hnot f hf => ?_⟩
  · rw [hrun, rd_setR_self]
    rfl
  · rw [hmode k (List.ne_of_not_mem_cons hk), Act.run_when]
    split
    · exact hother k (List.not_mem_of_not_mem_cons hk)
    · rfl
  · have hrec : ∀ f : Fld, f ≠ .TSQ_STATUS_FAULT_MODE → ((seqFault p n code slot pc).run s).rd (tk f p n) =
        ((recordFault p n code slot pc).run s).rd (tk f p n) := fun f hf => by
      rw [hmode (tk f p n) hf, hfirst, Act.run_when, if_pos Bool.not_false]
    rw [hrec .TSQ_FAULT_VALID nofun, hrec .TSQ_FAULT_CODE nofun, hrec .TSQ_FAULT_SLOT nofun, hrec .TSQ_FAULT_PC nofun]
    exact ⟨hvalid, hcode, hslot, hpc⟩
  · rw [hmode (tk f p n) (by rintro rfl; revert hf; decide), hnot]
    rfl

/-! ## Bundles that do not issue -/

/-- What lets a tile's sequencer issue. -/
structure SeqGoes (s : State) (p n : Nat) : Prop where
  phase : s.inPhase p = true
  ready : s.ready (domTile p n) = true
  run   : s.on (tk .TSQ_STATUS_RUN p n) = true
  gate  : s.on (tk .TSQ_STATUS_IN_GATE p n) = false
  idle  : s.on (tk .TSQ_STATUS_IN_IDLE p n) = false

theorem seqGoes {s : State} {p n : Nat} (h : s.seqGo p n = true) : SeqGoes s p n := by
  simp only [State.seqGo, Bool.and_eq_true, Bool.not_eq_true'] at h
  obtain ⟨⟨⟨⟨⟨hphase, hready⟩, hrun⟩, hgate⟩, hidle⟩, -⟩ := h
  exact ⟨hphase, hready, hrun, hgate, hidle⟩

theorem jobState_of_inPhase {s : State} {p : Nat} (h : s.inPhase p = true) : s.jobState = jsRunning := by
  simp only [State.inPhase, State.running, Bool.and_eq_true, beq_iff_eq] at h
  exact h.1.1

theorem not_waking_of_ready {s : State} {d : Nat} (h : s.ready d = true) : s.on (dk .PWR_STATE_WAKING d) = false := by
  simp only [State.ready, Bool.and_eq_true, Bool.not_eq_true'] at h
  exact h.1.2

section
variable {s : State} {p n : Nat}

theorem slot_stallBundle (cause : Nat) (fs : List Fld) : (stallBundle p n cause).Only (Upd.ofSlot p n fs) :=
  Act.only_seq ⟨⟨.TSQ_STATUS_STALL, by simp, 0, rfl⟩, trivial⟩ (slot_stallClocks p n cause fs)

theorem rd_stallClocks (cause : Nat) {k : FKey} (hk : k.f ≠ .TSQ_STALL_CLK) (s : State) : ((stallClocks p n cause).run s).rd k = s.rd k := by
  rw [stallClocks, run_withFree]
  exact rd_bump_of_ne (k := tk .TSQ_STALL_CLK p n cause) _ hk _

theorem stallBundle_stalls (cause : Nat) (s : State) : let t := (stallBundle p n cause).run s
    t.tile p n = s.tile p n ∧ t.rd (tk .TSQ_STATUS_STALL p n) = clipTo 4 cause := by
  dsimp only
  rw [stallBundle, Act.run_seq, tile_stallClocks, tile_setR, rd_stallClocks cause (k := tk .TSQ_STATUS_STALL p n) nofun, rd_setR_self]
  exact ⟨rfl, rfl⟩

theorem heldBy_cases (s : State) (p n : Nat) (b : Bundle) : s.heldBy p n b ∈ [0, 1, 2, 3] := by
  rw [State.heldBy]
  split
  · decide
  · split
    · decide
    · split <;> decide

section
variable (hgo : s.seqGo p n = true) (k : Bundle → Act)
include hgo

/-- A slot held back stalls the whole bundle (R138). -/
theorem run_enterBundle_held (hstarted : (s.tile p n).issued.started = false)
    (hlegal : (s.tile p n).issued.checked = true ∨ s.bundleFaults p n (s.bundle p n) (s.faultMode p n) = [])
    (hsound : s.faultMode p n = false) (hheld : s.heldBy p n (s.bundle p n) ≠ 0) : (enterBundle p n k).run s =
      (stallBundle p n (s.heldBy p n (s.bundle p n))).run ((modIssued p n (fun y => { y with checked := true })).run s) := by
  have hfs : (if (s.tile p n).issued.checked then [] else s.bundleFaults p n (s.bundle p n) (s.faultMode p n)) = [] := by
    split
    · rfl
    next h => exact hlegal.resolve_left h
  rw [enterBundle, Act.run_ask]
  dsimp only
  rw [hfs, hgo, hstarted, hsound]
  simp only [Bool.not_true, Bool.false_eq_true, if_false, List.isEmpty_nil, Bool.not_false, Bool.true_and, bne_iff_ne, ne_eq, hheld,
    not_false_eq_true, if_true, Act.run_seq]

/-- A faulting bundle issues no slot; a faulting control slot is passed over (R165, R166). -/
theorem run_enterBundle_faults (hchecked : (s.tile p n).issued.checked = false)
    (hfs : s.bundleFaults p n (s.bundle p n) (s.faultMode p n) ≠ []) :
    ∃ q ∈ s.bundleFaults p n (s.bundle p n) (s.faultMode p n), (enterBundle p n k).run s =
      (Act.when (!(s.cFaults p n (s.bundle p n)).isEmpty) (passOver p n)).run
        ((seqFault p n q.1 q.2 (s.rd (tk .TSQ_STATUS_PC p n))).run ((Upd.draw 1).apply s)) := by
  obtain ⟨f, hrun⟩ : ∃ f, (enterBundle p n k).run s =
      let q := (s.bundleFaults p n (s.bundle p n) (s.faultMode p n)).getD
        (f % (s.bundleFaults p n (s.bundle p n) (s.faultMode p n)).length) (fIllegal, 0)
      (Act.when (!(s.cFaults p n (s.bundle p n)).isEmpty) (passOver p n)).run
        ((seqFault p n q.1 q.2 (s.rd (tk .TSQ_STATUS_PC p n))).run ((Upd.draw 1).apply s)) := by
    rw [enterBundle, Act.run_ask]
    dsimp only
    rw [hgo, hchecked]
    simp only [Bool.not_true, Bool.false_eq_true, if_false, List.isEmpty_eq_false_iff.mpr hfs, run_withFree,
      Act.run_seq, Bool.not_false, if_true]
    exact ⟨_, rfl⟩
  have hlt : f % (s.bundleFaults p n (s.bundle p n) (s.faultMode p n)).length <
      (s.bundleFaults p n (s.bundle p n) (s.faultMode p n)).length := Nat.mod_lt _ (List.length_pos_of_ne_nil hfs)
  refine ⟨_, ?_, hrun⟩
  rw [List.getD_eq_getElem _ _ hlt]
  exact List.getElem_mem hlt

end

/-- What passing over a control slot leaves (R166). -/
theorem passOver_passes (v : State) (p n : Nat) : let t := (passOver p n).run v
    Slotted v t p n [.TSQ_STATUS_PC] ∧ MovedOn v t p n (v.tile p n).lcs (v.tile p n).loops ∧
      t.tile p n = { v.tile p n with
        issued := { fetch := (t.tile p n).issued.fetch }, loops := (t.tile p n).loops, lcs := (t.tile p n).lcs } := by
  intro t
  have hslot : (passOver p n).Only (Upd.ofSlot p n [.TSQ_STATUS_PC]) := Act.only_seq (slot_modIssued p n _ _) (slot_moveOn p n)
  have hmoved := moveOn_moves ((modIssued p n (fun _ => {})).run v) p n
  have htile : ((modIssued p n (fun _ => {})).run v).tile p n = { v.tile p n with issued := {} } := tile_modTile p n _ v
  rw [← Act.run_seq] at hmoved
  obtain ⟨-, hleft, hon⟩ := hmoved
  rw [htile] at hleft hon
  exact ⟨hslot.slotted v, hon.congr rfl, hleft⟩

end

/-! ## Bundles held back, and faults, as a command shows them -/

/-- The rows of slots, of each opcode's first. -/
def slotRows (p : PileId) (n : TileId) : List Instr :=
  [.anop p n, .amm p n, .vnop p n, .vadd p n, .mnop p n, .mvgo p n, .wait p n, .cnop p n, .idle p n, .sli p n, .salu p n, .smovp p n,
    .loop p n, .br p n, .gatew p n]

theorem slotRow_enters (p n : Nat) (is : Bundle → Bool) (was : Issued → Bool) (mark : Issued → Issued) (k : Bundle → Act) :
    ∃ k', slotRow p n is was mark k = enterBundle p n k' := ⟨_, rfl⟩
theorem cSlot_enters (p n op : Nat) (k : Bundle → Act) : ∃ k', cSlot p n op k = enterBundle p n k' := ⟨_, rfl⟩

theorem slotRows_enter (p : PileId) (n : TileId) :
    ∀ c ∈ slotRows p n, ∃ k, ∀ s, exec c s = .next ((enterBundle p.val n.val k).run s) := by
  have hact : ∀ (c : Instr) (a : Act), (∃ k, a = enterBundle p.val n.val k) → (∀ s, exec c s = .next (a.run s)) →
      ∃ k, ∀ s, exec c s = .next ((enterBundle p.val n.val k).run s) := by
    rintro c a ⟨k, rfl⟩ hexec
    exact ⟨k, hexec⟩
  have hslot : ∀ is was mark k, ∃ k', slotRow p.val n.val is was mark k = enterBundle p.val n.val k' := slotRow_enters p.val n.val
  have hctl : ∀ op k, ∃ k', cSlot p.val n.val op k = enterBundle p.val n.val k' := cSlot_enters p.val n.val
  simp only [slotRows, List.forall_mem_cons, List.not_mem_nil, false_imp_iff, implies_true, and_true]
  refine ⟨hact _ (aSlot p.val n.val (fun b => aop b == 0) fun _ => .done) ?_ fun _ => rfl,
    hact _ (actAmm p.val n.val) ?_ fun _ => rfl,
    hact _ (vSlot p.val n.val 0 fun _ _ => .done) ?_ fun _ => rfl,
    hact _ (arithTwo p.val n.val 1 FNum.add) ?_ fun _ => rfl,
    hact _ (mSlot p.val n.val (fun b => mop b == 0) fun _ => .done) ?_ fun _ => rfl,
    hact _ (actMvgo p.val n.val) ?_ fun _ => rfl,
    hact _ (mSlot p.val n.val (fun b => mop b == 2) fun _ => .done) ?_ fun _ => rfl,
    hact _ (actCnop p.val n.val) ?_ fun _ => rfl,
    hact _ (actIdle p.val n.val) ?_ fun _ => rfl,
    hact _ (actSli p.val n.val) ?_ fun _ => rfl,
    hact _ (actSalu p.val n.val) ?_ fun _ => rfl,
    hact _ (actSmovp p.val n.val) ?_ fun _ => rfl,
    hact _ (actLoop p.val n.val) ?_ fun _ => rfl,
    hact _ (actBr p.val n.val) ?_ fun _ => rfl,
    hact _ (actGatew p.val n.val) ?_ fun _ => rfl⟩
  · unfold aSlot
    exact hslot _ _ _ _
  · unfold actAmm aSlot
    exact hslot _ _ _ _
  · unfold vSlot
    exact hslot _ _ _ _
  · unfold arithTwo laneTwo laneOp vecOp vSlot
    exact hslot _ _ _ _
  · unfold mSlot
    exact hslot _ _ _ _
  · unfold actMvgo mSlot
    exact hslot _ _ _ _
  · unfold mSlot
    exact hslot _ _ _ _
  · unfold actCnop
    exact hctl _ _
  · unfold actIdle
    exact hctl _ _
  · unfold actSli
    exact hctl _ _
  · unfold actSalu
    exact hctl _ _
  · unfold actSmovp
    exact hctl _ _
  · unfold actLoop
    exact hctl _ _
  · unfold actBr
    exact hctl _ _
  · unfold actGatew
    exact hctl _ _

theorem stallNow_stalled {s t : State} {p n cause : Nat} (hgo : SeqGoes s p n) (hslot : Slotted s t p n [])
    (hstall : t.rd (tk .TSQ_STATUS_STALL p n) = cause) (hne : cause ≠ 0) : t.stallNow p n = cause := by
  have hrun : t.on (tk .TSQ_STATUS_RUN p n) = true := (hslot.on (show Fld.TSQ_STATUS_RUN ∉ _ by decide)).trans hgo.run
  have hidle : t.on (tk .TSQ_STATUS_IN_IDLE p n) = false := (hslot.on (show Fld.TSQ_STATUS_IN_IDLE ∉ _ by decide)).trans hgo.idle
  have hjob : t.jobState = jsRunning :=
    (hslot.rd (show Fld.JOB_STATE_STATE ∉ _ by decide)).trans (jobState_of_inPhase hgo.phase)
  have hwake : t.on (dk .PWR_STATE_WAKING (domTile p n)) = false :=
    (hslot.on (show Fld.PWR_STATE_WAKING ∉ _ by decide)).trans (not_waking_of_ready hgo.ready)
  have hon : t.on (tk .TSQ_STATUS_STALL p n) = true := by
    rw [State.on, hstall]
    exact bne_iff_ne.mpr hne
  rw [State.stallNow, hrun, hidle, hjob, hwake, hon, hstall]
  rfl

theorem bundle_held {s : State} {p n : Nat} (hgo : s.seqGo p n = true) (k : Bundle → Act)
    (hstarted : (s.tile p n).issued.started = false)
    (hlegal : (s.tile p n).issued.checked = true ∨ s.bundleFaults p n (s.bundle p n) (s.faultMode p n) = [])
    (hsound : s.faultMode p n = false) (hheld : s.heldBy p n (s.bundle p n) ≠ 0) : let t := (enterBundle p n k).run s
    Slotted s t p n [] ∧ t.stallNow p n = s.heldBy p n (s.bundle p n) ∧
      t.tile p n = { s.tile p n with issued := { (s.tile p n).issued with checked := true } } := by
  have hslot : ((modIssued p n (fun y => { y with checked := true })).seq (stallBundle p n (s.heldBy p n (s.bundle p n)))).Only
      (Upd.ofSlot p n []) := Act.only_seq (slot_modIssued p n _ _) (slot_stallBundle _ _)
  have hslotted := hslot.slotted s
  obtain ⟨htile, hstall⟩ := stallBundle_stalls (p := p) (n := n) (s.heldBy p n (s.bundle p n))
    ((modIssued p n (fun y => { y with checked := true })).run s)
  dsimp only
  rw [run_enterBundle_held hgo k hstarted hlegal hsound hheld]
  rw [Act.run_seq] at hslotted
  have hclip : clipTo 4 (s.heldBy p n (s.bundle p n)) = s.heldBy p n (s.bundle p n) :=
    (by decide : ∀ c ∈ [0, 1, 2, 3], clipTo 4 c = c) _ (heldBy_cases s p n _)
  refine ⟨hslotted, stallNow_stalled (seqGoes hgo) hslotted (hstall.trans hclip) hheld, ?_⟩
  rw [htile, modIssued, tile_modTile]

/-- What a fault leaves of its tile and of the tile's fault record (R165, R166, R168); `fs` the faults of the bundle and `cs` those of its
control slot. -/
structure FaultShown (s t : State) (p n : Nat) (fs : List (Nat × Nat)) (cs : List Nat) : Prop where
  only   : OnlyTile s t p n
  sram   : t.sram = s.sram
  mode   : t.rd (tk .TSQ_STATUS_FAULT_MODE p n) = 1
  issue  : t.rd (tk .TSQ_ISSUE p n) = s.rd (tk .TSQ_ISSUE p n)
  first  : s.on (tk .TSQ_FAULT_VALID p n) = false → t.rd (tk .TSQ_FAULT_VALID p n) = 1 ∧
    t.rd (tk .TSQ_FAULT_PC p n) = clipTo 13 (s.rd (tk .TSQ_STATUS_PC p n)) ∧
    ∃ q ∈ fs, t.rd (tk .TSQ_FAULT_CODE p n) = q.1 ∧ t.rd (tk .TSQ_FAULT_SLOT p n) = q.2
  kept   : s.on (tk .TSQ_FAULT_VALID p n) = true → ∀ f ∈ recordFlds, t.rd (tk f p n) = s.rd (tk f p n)
  stays  : cs = [] → t.tile p n = s.tile p n ∧ t.rd (tk .TSQ_STATUS_PC p n) = s.rd (tk .TSQ_STATUS_PC p n)
  passes : cs ≠ [] → MovedOn s t p n (s.tile p n).lcs (s.tile p n).loops ∧ t.tile p n = { s.tile p n with
    issued := { fetch := (t.tile p n).issued.fetch }, loops := (t.tile p n).loops, lcs := (t.tile p n).lcs }

theorem Faulted.drawn {s v : State} {p n code slot pc : Nat} (h : Faulted ((Upd.draw 1).apply s) v p n code slot pc) :
    Faulted s v p n code slot pc where
  same := (UnitSame.mk (fun _ _ => rfl) rfl rfl rfl rfl rfl : UnitSame s ((Upd.draw 1).apply s)).trans h.same
  mode := h.mode
  other := h.other
  first := h.first
  kept := h.kept

section
variable {s v : State} {p n : Nat} {fs : List (Nat × Nat)} {q : Nat × Nat}
  (hv : Faulted s v p n q.1 q.2 (s.rd (tk .TSQ_STATUS_PC p n))) (hq : q ∈ fs) (hfit : q.1 < 32 ∧ q.2 < 4)
include hv hq hfit

theorem Faulted.shown : FaultShown s v p n fs [] where
  only := hv.same.onlyTile p n
  sram := hv.same.sram
  mode := hv.mode
  issue := hv.other _ (show Fld.TSQ_ISSUE ∉ _ by decide)
  first := fun h => by
    obtain ⟨hvalid, hcode, hslot, hpc⟩ := hv.first h
    exact ⟨hvalid, hpc, q, hq, hcode.trans (Nat.mod_eq_of_lt hfit.1), hslot.trans (Nat.mod_eq_of_lt hfit.2)⟩
  kept := hv.kept
  stays := fun _ => ⟨hv.same.tile p n, hv.other _ (show Fld.TSQ_STATUS_PC ∉ _ by decide)⟩
  passes := fun h => absurd rfl h

theorem Faulted.passed {cs : List Nat} (hcs : cs ≠ []) : FaultShown s ((passOver p n).run v) p n fs cs := by
  obtain ⟨hslot, hmoved, htile⟩ := passOver_passes v p n
  generalize (passOver p n).run v = t at hslot hmoved htile
  have hshown := hv.shown hq hfit
  have hkeep : ∀ f : Fld, f ∉ [.TSQ_STATUS_STALL, .TSQ_STALL_CLK, .TSQ_STATUS_PC] → t.rd (tk f p n) = v.rd (tk f p n) := fun f hf =>
    hslot.rd (k := tk f p n) hf
  have hpc : v.rd (tk .TSQ_STATUS_PC p n) = s.rd (tk .TSQ_STATUS_PC p n) := hv.other _ (show Fld.TSQ_STATUS_PC ∉ _ by decide)
  rw [hv.same.tile p n] at hmoved htile
  refine ⟨hshown.only.trans hslot.only, hslot.sram.trans hshown.sram, (hkeep _ (by decide)).trans hshown.mode,
    (hkeep _ (by decide)).trans hshown.issue, fun h => ?_, fun h f hf => ?_, fun h => absurd h hcs, fun _ => ⟨hmoved.congr hpc, htile⟩⟩
  · rw [hkeep .TSQ_FAULT_VALID (by decide), hkeep .TSQ_FAULT_PC (by decide), hkeep .TSQ_FAULT_CODE (by decide),
      hkeep .TSQ_FAULT_SLOT (by decide)]
    exact hshown.first h
  · rw [hkeep f ((by decide : ∀ f ∈ recordFlds, f ∉ [Fld.TSQ_STATUS_STALL, .TSQ_STALL_CLK, .TSQ_STATUS_PC]) f hf)]
    exact hshown.kept h f hf

end

theorem bundle_faults {s : State} {p n : Nat} (hgo : s.seqGo p n = true) (k : Bundle → Act)
    (hchecked : (s.tile p n).issued.checked = false) (hfs : s.bundleFaults p n (s.bundle p n) (s.faultMode p n) ≠ []) :
    FaultShown s ((enterBundle p n k).run s) p n (s.bundleFaults p n (s.bundle p n) (s.faultMode p n)) (s.cFaults p n (s.bundle p n)) := by
  obtain ⟨q, hq, hrun⟩ := run_enterBundle_faults hgo k hchecked hfs
  have hv := (seqFault_faulted p n q.1 q.2 (s.rd (tk .TSQ_STATUS_PC p n)) ((Upd.draw 1).apply s)).drawn
  have hfit := bundleFaults_fit s p n _ _ q hq
  rw [hrun, Act.run_when]
  by_cases hcs : s.cFaults p n (s.bundle p n) = []
  · rw [hcs, if_neg (by decide)]
    exact hv.shown hq hfit
  · rw [if_pos (by simp [hcs])]
    exact hv.passed hq hfit hcs

/-! ## Gate waits -/

/-- A tile at its gate wait arrives once it is drained, and stalls till then (R159). -/
theorem actTileArrival_arrives {s : State} {p n : Nat} (hwait : s.inGateWait p n = true) : let t := (actTileArrival p n).run s
    OnlyTile s t p n ∧ (∀ q, t.pile q = s.pile q) ∧ t.sram = s.sram ∧ t.out = s.out ∧
      RegsKept s t (fun k => ofTile p n [.TSQ_STATUS_STALL, .TSQ_STALL_CLK] k ∨ (s.drained p n = true ∧ k = dk .GOV_STATUS_FILLER)) ∧
      t.tile p n = { s.tile p n with arrived := s.drained p n } ∧
      t.rd (tk .TSQ_STATUS_STALL p n) = if s.drained p n = true then 0 else 5 := by
  have hnot : (s.tile p n).arrived = false := by
    simp only [State.inGateWait, Bool.and_eq_true, Bool.not_eq_true'] at hwait
    exact hwait.1.2
  dsimp only
  rw [actTileArrival, Act.run_ask, hwait]
  cases hdrained : s.drained p n with
  | false =>
    rw [Bool.not_true, if_neg Bool.false_ne_true, Bool.not_false, if_pos rfl]
    obtain ⟨htile, hstall⟩ := stallBundle_stalls (p := p) (n := n) 5 s
    have hslot := (slot_stallBundle (p := p) (n := n) 5 []).slotted s
    exact ⟨hslot.only, hslot.piles, hslot.sram, hslot.out, fun k hk => hslot.regs k fun j hj => hk j (.inl hj),
      htile.trans (by rw [← hnot]), hstall⟩
  | true =>
    rw [Bool.not_true, if_neg Bool.false_ne_true, if_neg Bool.false_ne_true, Act.run_all_next, Act.run_all_next,
      Act.run_all_next, Act.run_all_last]
    have hslot : (Act.all [stallClocks p n 5, setR (tk .TSQ_STATUS_STALL p n) 0, modTile p n (fun x => { x with arrived := true })]).Only
        (Upd.ofSlot p n []) := Act.only_list ⟨slot_stallClocks p n 5 [], ⟨⟨.TSQ_STATUS_STALL, by simp, 0, rfl⟩, trivial⟩,
          slot_modTile p n _ _⟩
    have hslotted := hslot.slotted s
    have htile : ((modTile p n (fun x => { x with arrived := true })).run ((setR (tk .TSQ_STATUS_STALL p n) 0).run
        ((stallClocks p n 5).run s))).tile p n = { s.tile p n with arrived := true } := by
      rw [tile_modTile, tile_setR, tile_stallClocks]
    have hstall : ((modTile p n (fun x => { x with arrived := true })).run ((setR (tk .TSQ_STATUS_STALL p n) 0).run
        ((stallClocks p n 5).run s))).rd (tk .TSQ_STATUS_STALL p n) = 0 := rd_setR_self (tk .TSQ_STATUS_STALL p n) 0 _
    rw [Act.run_all_next, Act.run_all_next, Act.run_all_last] at hslotted
    generalize (modTile p n (fun x => { x with arrived := true })).run _ = u at hslotted htile hstall ⊢
    have hsame : ∃ v, (tileFiller p n true).run u = (Upd.reg (dk .GOV_STATUS_FILLER) v).apply u ∨ (tileFiller p n true).run u = u := by
      rw [tileFiller, Act.run_ask, Act.run_when]
      split
      · exact ⟨_, .inl (run_setR _ _ _)⟩
      · exact ⟨0, .inr rfl⟩
    obtain ⟨v, hfill | hfill⟩ := hsame
    · rw [hfill]
      refine ⟨⟨hslotted.only.tiles, hslotted.only.dram, hslotted.only.sessions, hslotted.only.fuses, hslotted.only.job⟩, hslotted.piles,
        hslotted.sram, hslotted.out, fun k hk => ?_, htile, ?_⟩
      · exact (Upd.rd_reg_of_ne (k := dk .GOV_STATUS_FILLER) v u (hk _ (.inr ⟨rfl, rfl⟩)).symm).trans (hslotted.regs k fun j hj => hk j (.inl hj))
      · exact (Upd.rd_reg_of_ne (k := dk .GOV_STATUS_FILLER) (k' := tk .TSQ_STATUS_STALL p n) v u (FKey.code_ne nofun)).trans hstall
    · rw [hfill]
      exact ⟨hslotted.only, hslotted.piles, hslotted.sram, hslotted.out, fun k hk => hslotted.regs k fun j hj => hk j (.inl hj), htile,
        hstall⟩

/-- A wait beyond its limit has faulted (R155, R167). -/
structure WaitFaulted (s t : State) (p n slot pc : Nat) : Prop where
  only  : OnlyTile s t p n
  sram  : t.sram = s.sram
  mode  : t.rd (tk .TSQ_STATUS_FAULT_MODE p n) = 1
  valid : t.rd (tk .TSQ_FAULT_VALID p n) = 1
  code  : t.rd (tk .TSQ_FAULT_CODE p n) = 6
  slot  : t.rd (tk .TSQ_FAULT_SLOT p n) = slot
  pc    : t.rd (tk .TSQ_FAULT_PC p n) = clipTo 13 pc
  kept  : ∀ f ∈ [Fld.TSQ_STATUS_PC, .TSQ_STATUS_IN_GATE, .TSQ_ISSUE], t.rd (tk f p n) = s.rd (tk f p n)

theorem WaitFaulted.of_stalled {s u : State} {p n slot : Nat} (hu : Slotted s u p n []) (hfirst : s.on (tk .TSQ_FAULT_VALID p n) = false)
    (hslot : slot < 4) (pc : Nat) : WaitFaulted s ((seqFault p n fWait slot pc).run u) p n slot pc := by
  have hv := seqFault_faulted p n fWait slot pc u
  obtain ⟨hvalid, hcode, hslot', hpc⟩ := hv.first ((hu.on (show Fld.TSQ_FAULT_VALID ∉ _ by decide)).trans hfirst)
  refine ⟨hu.only.trans (hv.same.onlyTile p n), hv.same.sram.trans hu.sram, hv.mode, hvalid, hcode,
    hslot'.trans (Nat.mod_eq_of_lt hslot), hpc, fun f hf => ?_⟩
  have hout : ∀ f ∈ [Fld.TSQ_STATUS_PC, .TSQ_STATUS_IN_GATE, .TSQ_ISSUE], f ∉ Fld.TSQ_STATUS_FAULT_MODE :: recordFlds ∧
    f ∉ [Fld.TSQ_STATUS_STALL, .TSQ_STALL_CLK] := by decide
  exact (hv.other (tk f p n) (hout f hf).1).trans (hu.rd (k := tk f p n) (hout f hf).2)

section
variable {s : State} {p n : Nat} (hlimit : s.on (tk .TSQ_WAIT_LIMIT p n) = true) (hfirst : s.on (tk .TSQ_FAULT_VALID p n) = false)
include hlimit hfirst

theorem actWaitLimit_gate (hwait : s.inGateWait p n = true) (hdrained : s.drained p n = false) : let t := (actWaitLimit p n).run s
    WaitFaulted s t p n 0 (s.tile p n).gatePc ∧ t.tile p n = s.tile p n := by
  dsimp only
  rw [actWaitLimit, Act.run_ask, hlimit]
  dsimp only
  rw [Bool.not_true, if_neg Bool.false_ne_true, hwait, if_pos rfl, hdrained, Act.run_when, Bool.not_false, if_pos rfl, Act.run_seq]
  refine ⟨.of_stalled ((slot_stallBundle 5 []).slotted s) hfirst (by decide) _, ?_⟩
  rw [(seqFault_faulted _ _ _ _ _ _).same.tile]
  exact (stallBundle_stalls 5 s).1

theorem actWaitLimit_wait (hgo : s.seqGo p n = true) (hsound : s.faultMode p n = false) (hstarted : (s.tile p n).issued.started = false)
    (hmop : mop (s.bundle p n) = 2) (hfs : s.bundleFaults p n (s.bundle p n) false = []) (hmet : s.waitMet p n (s.bundle p n) = false) :
    let t := (actWaitLimit p n).run s
    WaitFaulted s t p n 3 (s.rd (tk .TSQ_STATUS_PC p n)) ∧ t.tile p n = { s.tile p n with issued := {} } := by
  have hwait : s.inGateWait p n = false := by rw [State.inGateWait, (seqGoes hgo).gate]; simp
  have hslot : ((stallBundle p n 3).seq (setR (tk .TSQ_STATUS_STALL p n) 0)).Only (Upd.ofSlot p n []) :=
    Act.only_seq (slot_stallBundle 3 []) ⟨⟨.TSQ_STATUS_STALL, by simp, 0, rfl⟩, trivial⟩
  have hslotted := hslot.slotted s
  have htile : ((setR (tk .TSQ_STATUS_STALL p n) 0).run ((stallBundle p n 3).run s)).tile p n = s.tile p n := by
    rw [tile_setR, (stallBundle_stalls 3 s).1]
  have hcond : (s.seqGo p n && !s.faultMode p n && !(s.tile p n).issued.started && mop (s.bundle p n) == 2 &&
      (s.bundleFaults p n (s.bundle p n) false).isEmpty && !s.waitMet p n (s.bundle p n)) = true := by
    rw [hgo, hsound, hstarted, hmop, hfs, hmet]
    rfl
  dsimp only
  rw [actWaitLimit, Act.run_ask, hlimit]
  dsimp only
  rw [Bool.not_true, if_neg Bool.false_ne_true, hwait, if_neg Bool.false_ne_true, hcond, if_pos rfl, Act.run_all_next, Act.run_all_next,
    Act.run_all_next, Act.run_all_last]
  rw [Act.run_seq] at hslotted
  generalize (setR (tk .TSQ_STATUS_STALL p n) 0).run ((stallBundle p n 3).run s) = u at hslotted htile ⊢
  have hfault := WaitFaulted.of_stalled hslotted hfirst (show 3 < 4 by decide) (s.rd (tk .TSQ_STATUS_PC p n))
  have hsame := (seqFault_faulted p n fWait 3 (s.rd (tk .TSQ_STATUS_PC p n)) u).same.tile p n
  generalize (seqFault p n fWait 3 (s.rd (tk .TSQ_STATUS_PC p n))).run u = v at hfault hsame ⊢
  have hmark := (slot_modIssued p n (fun _ => {}) []).slotted v
  refine ⟨⟨hfault.only.trans hmark.only, hmark.sram.trans hfault.sram, hfault.mode, hfault.valid, hfault.code, hfault.slot, hfault.pc,
    hfault.kept⟩, ?_⟩
  rw [modIssued, tile_modTile, hsame, htile]

end

/-- An array, vector or mover slot with nothing to do marks itself, and does nothing else. -/
theorem idleSlot_marks {s : State} {p n : Nat} {b : Bundle} (h : s.Issues p n b) {is : Bundle → Bool} (hi : is b = true)
    {was : Issued → Bool} (hw : was (s.tile p n).issued = false) (same : ∀ x y : Issued, x.a = y.a → x.v = y.v → x.m = y.m → was x = was y)
    {mark : Issued → Issued} (hmark : ∀ x, mark (mark x) = mark x) : let t := (slotRow p n is was mark (fun _ => .done)).run s
    Slotted s t p n [] ∧ t.tile p n = { s.tile p n with issued := mark (t.tile p n).issued } := by
  obtain ⟨e, hrun, he⟩ := slotRow_issues h hi hw same mark (fun _ => .done)
  obtain ⟨hslot, htile⟩ := he.marked mark
  have hissued : ((modIssued p n mark).run e).tile p n = { e.tile p n with issued := mark (e.tile p n).issued } := by
    rw [modIssued, tile_modTile]
  dsimp only
  rw [hrun, Act.run_done]
  refine ⟨hslot, htile.trans ?_⟩
  rw [hissued, hmark]

end Sys2Proof.Machine
end

section

open Sys2Proof Sys2Proof.Machine

/-- Settles O55 (R138, R155, R159, R165, R166). A slot with nothing to do marks itself as issued (`idleSlot_marks`); every slot row begins
at `enterBundle` (`slotRows_enter`), where a bundle is held back (`bundle_held`) or faults (`bundle_faults`); an arrival
(`actTileArrival_arrives`) and a wait beyond its limit (`actWaitLimit_gate`, `actWaitLimit_wait`) are told apart by what the tile
waits for. -/
theorem bundlesHoldAndFault : Obligations.BundlesHoldAndFault := by
  unfold Obligations.BundlesHoldAndFault
  refine ⟨fun s p n b h => ⟨fun hop hnew => ?_, fun hop hnew => ?_, fun hop hnew => ?_, fun hop hnew => ?_⟩, fun s p n c hgo hc => ?_,
    fun s p n hwait => ⟨_, rfl, actTileArrival_arrives hwait⟩, fun s p n hlimit hfirst => ⟨fun hwait hdrained => ?_,
      fun hgo hsound hstarted hmop hfs hmet => ?_⟩⟩
  · exact ⟨_, rfl, idleSlot_marks h (is := fun b => aop b == 0) (was := Issued.a) (mark := fun x => { x with a := true }) (beq_iff_eq.mpr hop)
      hnew (fun _ _ ha _ _ => ha) (fun _ => rfl)⟩
  · exact ⟨_, rfl, idleSlot_marks h (is := fun b => (vslot b).vop == 0) (was := Issued.v) (mark := fun x => { x with v := true }) (beq_iff_eq.mpr hop)
      hnew (fun _ _ _ hv _ => hv) (fun _ => rfl)⟩
  · exact ⟨_, rfl, idleSlot_marks h (is := fun b => mop b == 0) (was := Issued.m) (mark := fun x => { x with m := true }) (beq_iff_eq.mpr hop)
      hnew (fun _ _ _ _ hm => hm) (fun _ => rfl)⟩
  · exact ⟨_, rfl, idleSlot_marks h (is := fun b => mop b == 2) (was := Issued.m) (mark := fun x => { x with m := true }) (beq_iff_eq.mpr hop)
      hnew (fun _ _ _ _ hm => hm) (fun _ => rfl)⟩
  · obtain ⟨k, hexec⟩ := slotRows_enter p n c hc
    refine ⟨fun hstarted hlegal hsound hheld => ⟨_, hexec s, bundle_held hgo k hstarted hlegal hsound hheld⟩, fun hchecked hfs => ?_⟩
    obtain ⟨honly, hsram, hmode, hissue, hfirst, hkept, hstays, hpasses⟩ := bundle_faults hgo k hchecked hfs
    exact ⟨_, hexec s, honly, hsram, hmode, hissue, hfirst, hkept, hstays, hpasses⟩
  · obtain ⟨⟨honly, hsram, hmode, hvalid, hcode, hslot, hpc, hkept⟩, htile⟩ := actWaitLimit_gate hlimit hfirst hwait hdrained
    exact ⟨_, rfl, ⟨honly, hsram, hmode, hvalid, hcode, hslot, hpc, hkept⟩, htile⟩
  · obtain ⟨⟨honly, hsram, hmode, hvalid, hcode, hslot, hpc, hkept⟩, htile⟩ :=
      actWaitLimit_wait hlimit hfirst hgo hsound hstarted hmop hfs hmet
    exact ⟨_, rfl, ⟨honly, hsram, hmode, hvalid, hcode, hslot, hpc, hkept⟩, htile⟩

end

section
/-! PROOFS. Lane operations (R122, R126, R149, R150): what each gives its active lanes. -/

namespace Sys2Proof.Machine

/-! ## What an active lane takes -/

theorem ofInt32_eq (w : Word) : ofInt32 w = .fin ⟨w.msb, w.toInt.natAbs, 0⟩ := by
  rw [ofInt32, Dy.ofInt, BitVec.msb_eq_toInt]

section
variable {s : State} {p n : Nat} {b : Bundle} {v : VSlot} (h : s.IssuesV p n b v)
include h

theorem arithOne_taken {vop : Nat} (hop : v.vop = vop) (f : FNum → FNum) : LanesTaken s ((arithOne p n vop f).run s) p n v
    (fun i => laneArith (s.vmode p n v.vd) [lane (s.vreg p n v.va) i] (f (num32 (lane (s.vreg p n v.va) i).bits))) := by
  rw [arithOne, laneOne]
  refine laneOp_taken h hop fun u hu => ?_
  simp only [hu.vreg, hu.vmode]

theorem arithTwo_taken {vop : Nat} (hop : v.vop = vop) (f : FNum → FNum → FNum) : LanesTaken s ((arithTwo p n vop f).run s) p n v
    (fun i => laneArith (s.vmode p n v.vd) [lane (s.vreg p n v.va) i, lane (s.vreg p n v.vb) i]
      (f (num32 (lane (s.vreg p n v.va) i).bits) (num32 (lane (s.vreg p n v.vb) i).bits))) := by
  rw [arithTwo, laneTwo]
  refine laneOp_taken h hop fun u hu => ?_
  simp only [hu.vreg, hu.vmode]

theorem vfma_taken (hop : v.vop = 4) : LanesTaken s ((actVfma p n).run s) p n v (fun i =>
    laneArith (s.vmode p n v.vd) [lane (s.vreg p n v.va) i, lane (s.vreg p n v.vb) i, lane (s.vreg p n v.vc) i]
      (((num32 (lane (s.vreg p n v.va) i).bits).mul (num32 (lane (s.vreg p n v.vb) i).bits)).add
        (num32 (lane (s.vreg p n v.vc) i).bits))) :=
  laneOp_taken h hop fun u hu => by simp only [hu.vreg, hu.vmode]

/-- VSEL reads both lanes and the predicate (R135). -/
theorem vsel_taken (hop : v.vop = 0x11) : LanesTaken s ((actVsel p n).run s) p n v (fun i =>
    let a := lane (s.vreg p n v.va) i
    let c := lane (s.vreg p n v.vb) i
    let q := s.preg p n v.fn
    let r := if q.bits.getLsbD i = true then a else c
    { lane := ⟨passBits r.bits, a.poison || c.poison || q.poison.getLsbD i⟩, nfIn := nonfiniteOf [a, c] }) := by
  simp only [← poisonOf_pair]
  exact laneOp_taken h hop fun u hu => by simp only [hu.vreg, hu.preg]

theorem vcvt_taken (hop : v.vop = 0x18) : LanesTaken s ((actVcvt p n).run s) p n v (fun i =>
    let a := lane (s.vreg p n v.va) i
    if v.fn = 0 then laneBits [a] (toInt32 (num32 a.bits))
    else { lane := ⟨(laneArith (s.vmode p n v.vd) [] (.fin ⟨a.bits.msb, a.bits.toInt.natAbs, 0⟩)).lane.bits, a.poison⟩ }) := by
  simp only [← ofInt32_eq]
  exact laneOp_taken h hop fun u hu => by simp only [hu.vreg, hu.vmode]

theorem vsfu_taken (hop : v.vop = 0x20) : LanesTaken s ((actVsfu p n).run s) p n v (fun i =>
    let a := lane (s.vreg p n v.va) i
    let r := sfu v.fn a.bits
    { lane := ⟨r.1, a.poison⟩, nfIn := nonfiniteOf [a]
      nfOut := oneIf ((num32 a.bits).finite && !(num32 r.1).finite), flush := oneIf r.2.2, domain := oneIf r.2.1 }) :=
  laneOp_taken h hop fun u hu => by simp only [hu.vreg]

theorem wbc_taken (hop : v.vop = 0x34) : LanesTaken s ((actWbc p n).run s) p n v (fun _ => wideLane (s.wreg p n v.va)) :=
  laneOp_taken h hop fun u hu => by simp only [hu.wreg]

theorem vperm_taken (hop : v.vop = 0x3C) : LanesTaken s ((actVperm p n).run s) p n v (fun i =>
    laneBits [lane (s.vreg p n v.va) (permLane v.fn i)] (passBits (lane (s.vreg p n v.va) (permLane v.fn i)).bits)) :=
  laneOp_taken h hop fun u hu => by simp only [hu.vreg]

/-- VMOVI and VMOVS give every active lane one word (R149). -/
theorem move_taken {vop : Nat} (hop : v.vop = vop) (w : State → VSlot → Bundle → Word) (hw : ∀ u, VecStarted s u p n → w u v b = w s v b) :
    LanesTaken s ((laneOp p n vop (fun s v b _ => { lane := ⟨w s v b, false⟩ })).run s) p n v (fun _ => { lane := ⟨w s v b, false⟩ }) :=
  laneOp_taken h hop fun u hu => by simp only [hw u hu]

/-- Among lanes with a NaN some active lane's value results (log 41). -/
theorem extremeOp_ofNan {vop : Nat} (hop : v.vop = vop) (hfn : v.fn < 256) (max : Bool) (best : FNum → FNum → FNum) (start : FNum)
    (hnan : ∃ x ∈ s.reduced p n v, (num32 x.bits).isNan = true) : ∃ x ∈ s.reduced p n v,
    (lane (((extremeOp p n vop max best start).run s).vreg p n v.vd) v.fn).bits = BitVec.ofNat 32 (fp32Exact (num32 x.bits)).bits := by
  obtain ⟨y, hy, hynan⟩ := hnan
  have hlt : Config.extremeOfNan max ((s.reduced p n v).map Lane.bits) % (s.reduced p n v).length < (s.reduced p n v).length :=
    Nat.mod_lt _ (List.length_pos_of_mem hy)
  refine ⟨lane (s.reduced p n v) (Config.extremeOfNan max ((s.reduced p n v).map Lane.bits) % (s.reduced p n v).length), ?_, ?_⟩
  · rw [lane, List.getD_eq_getElem _ _ hlt]
    exact List.getElem_mem hlt
  · have hany : (s.reduced p n v).any (fun x => (num32 x.bits).isNan) = true := List.any_eq_true.mpr ⟨y, hy, hynan⟩
    rw [(extremeOp_vregTaken h hop max best start).oneLane.lanes v.fn hfn, if_pos rfl, State.extremeWord]
    exact if_pos hany

end

end Sys2Proof.Machine
end

section

open Sys2Proof Sys2Proof.Machine

/-- Settles O58 (R122, R126, R149, R150; log 41, log 117). Every lane operation reads only what its issue leaves as it was, so its active
lanes take the results told of the state before (`laneOp_taken`); each operation's is its own lemma. An extreme among lanes with a NaN
is some active lane's value (`extremeOp_ofNan`). -/
theorem lanesCompute : Obligations.LanesCompute := by
  unfold Obligations.LanesCompute
  intro s p n b v h a c d m one two plain q
  refine ⟨?_, ?_⟩
  · simp only [List.forall_mem_cons, List.not_mem_nil, false_imp_iff, implies_true, and_true]
    exact ⟨fun hop => ⟨_, rfl, arithTwo_taken h hop _⟩, fun hop => ⟨_, rfl, arithTwo_taken h hop _⟩,
      fun hop => ⟨_, rfl, arithTwo_taken h hop _⟩, fun hop => ⟨_, rfl, vfma_taken h hop⟩, fun hop => ⟨_, rfl, arithTwo_taken h hop _⟩,
      fun hop => ⟨_, rfl, arithTwo_taken h hop _⟩, fun hop => ⟨_, rfl, arithOne_taken h hop _⟩,
      fun hop => ⟨_, rfl, arithOne_taken h hop _⟩, fun hop => ⟨_, rfl, vsel_taken h hop⟩, fun hop => ⟨_, rfl, vcvt_taken h hop⟩,
      fun hop => ⟨_, rfl, vsfu_taken h hop⟩, fun hop => ⟨_, rfl, wbc_taken h hop⟩, fun hop => ⟨_, rfl, vperm_taken h hop⟩,
      fun hop => ⟨_, rfl, move_taken h hop (fun _ _ b => BitVec.ofNat 32 b.imm) fun _ _ => rfl⟩,
      fun hop => ⟨_, rfl, move_taken h hop (fun s v _ => s.sreg p.val n.val v.sx) fun _ hu => hu.sreg _⟩⟩
  · simp only [List.forall_mem_cons, List.not_mem_nil, false_imp_iff, implies_true, and_true]
    exact ⟨fun hop hfn hnan => ⟨_, rfl, extremeOp_ofNan h hop hfn _ _ _ hnan⟩,
      fun hop hfn hnan => ⟨_, rfl, extremeOp_ofNan h hop hfn _ _ _ hnan⟩⟩

end

section
/-! PROOFS. Vector loads and stores (R63, R131, R135, R151), and VMARK: lines read as issue left them, and lines written in order. -/

namespace Sys2Proof.Machine

/-! ## Lines of a block -/

theorem length_layBlock {f : Nat} (hf : isBlockFmt f = true) (codes : List Nat) (b0 b1 b2 b3 : Nat) (outs : List Nat) (poison : Bool) :
    (layBlock f codes b0 b1 b2 b3 outs poison).length = fmtLines f := by
  simp only [isBlockFmt, Bool.or_eq_true, beq_iff_eq] at hf
  rcases hf with (((rfl | rfl) | rfl) | rfl) | rfl <;> rfl

theorem length_layPlain (f : Nat) (outs : List FpOut) (poison : Bool) : (layPlain f outs poison).length = fmtLines f := by
  rw [layPlain, List.length_map, List.length_range]

theorem length_fst_ite {c : Prop} [Decidable c] {x y : List Line × XoCounts} {m : Nat} (hx : x.1.length = m) (hy : y.1.length = m) :
    (if c then x else y).1.length = m := by
  split
  · exact hx
  · exact hy

theorem length_encodeOrdinary {d : EncDesc} (hf : isBlockFmt d.fmt = true) (k : DrawKey) (vals : List FNum) (base : XoCounts) :
    (encodeOrdinary d k vals base).1.length = fmtLines d.fmt := by
  rw [encodeOrdinary]
  exact length_fst_ite (length_layBlock hf ..) (length_layBlock hf ..)

theorem length_encodeCoded {d : EncDesc} (hf : isBlockFmt d.fmt = true) (k : DrawKey) (vals : List FNum) :
    (encodeCoded d k vals).1.length = fmtLines d.fmt := by
  rw [encodeCoded]
  dsimp only
  split
  · exact length_layBlock hf ..
  · split
    · exact length_layBlock hf ..
    · split
      · exact length_layBlock hf ..
      · exact length_encodeOrdinary hf k vals _

/-- A block takes its format's lines, whatever values it is given (R31). -/
theorem length_encodeBlock {d : EncDesc} (hf : isTensorFmt d.fmt = true) (k : DrawKey) (vals : List FNum) (poison : Bool) :
    (encodeBlock d k vals poison).1.length = fmtLines d.fmt := by
  have hcoded : ¬ isPlainFmt d.fmt = true → isBlockFmt d.fmt = true := fun h => by simpa [isTensorFmt, h] using hf
  rw [encodeBlock]
  split
  · rw [poisonBlock]
    dsimp only
    split
    · exact length_layPlain ..
    next h => exact length_layBlock (hcoded h) ..
  · split
    · exact length_layPlain ..
    next h => exact length_encodeCoded (hcoded h) k vals

/-! ## Raw lines -/

theorem tagByte_rawLine (body : Nat) : (rawLine body).tagByte 3 = 0xF0 := by
  have htag : ∀ c : Nat, (0xF0 * 2 ^ 24 + c * 2 ^ 112) % 2 ^ 128 / 2 ^ 24 % 256 = 0xF0 := fun c => by omega
  simp only [rawLine, mkLine, Line.tagByte, byteOf, sealTag, BitVec.toNat_ofNat, Nat.shiftRight_eq_div_pow]
  exact htag _

/-- Halfwords packed low first read back one by one. -/
theorem foldr_halves (g : Nat → Nat) (hg : ∀ i, g i < 65536) (xs : List Nat) :
    xs.foldr (fun i acc => acc * 65536 + g i) 0 < 65536 ^ xs.length ∧
    ∀ k i, xs[k]? = some i → xs.foldr (fun i acc => acc * 65536 + g i) 0 / 65536 ^ k % 65536 = g i := by
  induction xs with
  | nil => exact ⟨Nat.one_pos, fun k i h => absurd (h.symm.trans List.getElem?_nil) (Option.some_ne_none i)⟩
  | cons x xs ih =>
    obtain ⟨hlt, hread⟩ := ih
    rw [List.foldr_cons, List.length_cons, Nat.pow_succ]
    have hx := hg x
    refine ⟨by omega, fun k i hk => ?_⟩
    cases k with
    | zero =>
      obtain rfl : x = i := Option.some.inj hk
      omega
    | succ k =>
      have hshift : (xs.foldr (fun i acc => acc * 65536 + g i) 0 * 65536 + g x) / 65536 =
          xs.foldr (fun i acc => acc * 65536 + g i) 0 := by omega
      rw [Nat.pow_succ', ← Nat.div_div_eq_div_mul, hshift]
      exact hread k i hk

/-- Halfword k of a raw line whose body packs 64 of them, low first. -/
theorem half_rawLine (g : Nat → Nat) (hg : ∀ i, g i < 65536) (xs : List Nat) (hlen : xs.length = 64) {k i : Nat} (hk : xs[k]? = some i) :
    (rawLine (xs.foldr (fun i acc => acc * 65536 + g i) 0)).half k = g i := by
  obtain ⟨hlt, hread⟩ := foldr_halves g hg xs
  have hpow : ∀ m e : Nat, 16 * m = e → 65536 ^ m = 2 ^ e := fun m e he => he ▸ (Nat.pow_mul 2 16 m).symm
  have hfits : ∀ w x : Nat, x < 2 ^ w → (BitVec.ofNat w x).toNat = x := fun w x hx => (BitVec.toNat_ofNat x w).trans (Nat.mod_eq_of_lt hx)
  rw [hpow xs.length 1024 (by omega)] at hlt
  rw [rawLine, mkLine, Line.half, hfits 1024 _ hlt, Nat.shiftRight_eq_div_pow, ← hpow k _ rfl]
  exact hread k i hk

/-! ## Lines written in order -/

/-- Lines written from one of a local store on stand there, and no other line nor the tile's own state has changed. -/
theorem putLines_ls {p n : Nat} (hp : p < 16) (hn : n < 9) (x : Nat) (ls : List Line) (hfit : x + ls.length ≤ lsLines) (s : State) :
    let t := (putLines p .ls n x ls).run s
    OnlyTile s t p n ∧ t.tile p n = s.tile p n ∧ LinesStored s t p n x ls := by
  induction ls generalizing x s with
  | nil => exact ⟨(UnitSame.refl s).onlyTile p n, rfl, fun k l h => absurd (h.symm.trans List.getElem?_nil) (Option.some_ne_none l),
      fun _ _ => rfl, fun _ _ => rfl⟩
  | cons l ls ih =>
    rw [List.length_cons] at hfit
    obtain ⟨honly, htile⟩ := onlyTile_putLine_ls p n x l s
    have hline := sramLine_putLine_ls (lsAddr_lt hp hn (show x < lsLines by omega)) l s
    have hrest := ih (x + 1) (by omega) ((putLine p .ls n x l).run s)
    dsimp only at hrest ⊢
    rw [putLines, Act.run_seq]
    generalize (putLine p .ls n x l).run s = u at honly htile hline hrest ⊢
    obtain ⟨honly', htile', hlines, -, hkept⟩ := hrest
    have hall := honly.trans honly'
    have hoff : ∀ a, ¬ inLs p n x (ls.length + 1) false a → ¬ inLs p n (x + 1) ls.length false a ∧ lsAddr p n x ≠ a := fun a ha => by
      simp only [inLs, lsAddr, true_and] at ha ⊢
      omega
    refine ⟨hall, htile'.trans htile, fun k l' hk => ?_, fun a _ => hall.dram a, fun a ha => ?_⟩
    · cases k with
      | zero =>
        obtain rfl : l = l' := Option.some.inj hk
        exact (hkept (lsAddr p n x) (by simp only [inLs, lsAddr]; omega)).trans ((hline _).trans (if_pos rfl))
      | succ k =>
        have hnext := hlines k l' hk
        rwa [show x + 1 + k = x + (k + 1) by omega] at hnext
    · obtain ⟨hnot, hne⟩ := hoff a ha
      rw [hkept a hnot, hline, if_neg hne]

/-- A vector store's lines, with their digest kept and the store counted (R391). -/
theorem storeLines_stores {p n : Nat} (hp : p < 16) (hn : n < 9) (x : Nat) (ls : List Line) (hfit : x + ls.length ≤ lsLines) (s : State) :
    let t := (storeLines p n x ls).run s
    OnlyTile s t p n ∧ (t.tile p n).vstSeq = (s.tile p n).vstSeq + 1 ∧ (t.tile p n).vregs = (s.tile p n).vregs ∧
      LinesStored s t p n x ls := by
  obtain ⟨honly, htile, hlines, hdram, hsram⟩ := putLines_ls hp hn x ls hfit s
  dsimp only
  rw [storeLines, Act.run_ask, Act.run_all_next, Act.run_all_next, Act.run_all_last]
  generalize (putLines p .ls n x ls).run s = u at honly htile hlines hdram hsram ⊢
  have hmark : ((keepDigest p n 3 (s.tile p n).vstSeq (outputDigest ls * 2 + oneIf (ls.any Line.poison))).seq
      (modTile p n (fun x => { x with vstSeq := x.vstSeq + 1 }))).Only (Upd.ofSlot p n []) :=
    Act.only_seq (slot_keepDigest p n 3 _ _) (slot_modTile p n _ [])
  have hslot := hmark.slotted u
  rw [Act.run_seq] at hslot
  have hkept : ∀ a, ((modTile p n (fun x => { x with vstSeq := x.vstSeq + 1 })).run
      ((keepDigest p n 3 (s.tile p n).vstSeq (outputDigest ls * 2 + oneIf (ls.any Line.poison))).run u)).sramLine a = u.sramLine a :=
    fun a => by rw [State.sramLine, hslot.sram, State.sramLine]
  refine ⟨honly.trans hslot.only, ?_, ?_, fun k l hk => (hkept _).trans (hlines k l hk), fun a ha => (hslot.only.dram a).trans (hdram a ha),
    fun a ha => (hkept a).trans (hsram a ha)⟩
  · rw [tile_modTile, keepDigest, tile_modTile, htile]
  · rw [tile_modTile, keepDigest, tile_modTile, htile]

/-! ## What an operation that has started reads -/

section
variable {s u : State} {p n : Nat} (h : VecStarted s u p n)
include h

theorem VecStarted.scalar (k : Nat) : u.scalar p n k = s.scalar p n k := by rw [State.scalar, h.sreg, State.scalar]

theorem VecStarted.vLine (v : VSlot) : u.vLine p n v = s.vLine p n v := by rw [State.vLine, h.scalar, State.vLine]

theorem VecStarted.feedLine : u.feedLine p n = s.feedLine p n := by
  have hline : u.sramLine = s.sramLine := by funext x; rw [State.sramLine, h.slot.sram, State.sramLine]
  have hcheck : u.checking p = s.checking p := h.slot.on (show Fld.FLT_STATUS_BLOCK_CHECKING ∉ _ by decide)
  funext x
  rw [State.feedLine, hline, hcheck, State.feedLine]

theorem VecStarted.fed : u.fed p n = s.fed p n := by
  funext x y z
  rw [State.fed, h.feedLine, State.fed]

theorem VecStarted.encDesc (i : Nat) : u.encDesc p n i = s.encDesc p n i := by
  have hregion : ∀ off, u.regionLine p n off = s.regionLine p n off := fun off => by
    simp only [State.regionLine, State.regionFirst, State.sramLine, h.slot.sram]
    rw [h.tile]
  rw [State.encDesc, hregion, h.rd (by decide), State.encDesc]

/-- What has changed nothing of the tile but its registers has issued. -/
theorem VecStarted.issued {t : State} (hseq : t.rd (tk .VEC_STATUS_OP_SEQ p n) = u.rd (tk .VEC_STATUS_OP_SEQ p n))
    (htile : t.tile p n = { u.tile p n with
      vregs := (t.tile p n).vregs, pregs := (t.tile p n).pregs, wregs := (t.tile p n).wregs }) : VecDone s t p n where
  seq := hseq.trans h.seq
  tile := by rw [htile, h.tile]
  once := by rw [htile]; exact h.once

end

/-- The counts of a load's converter: they leave all but counters. -/
theorem count_converter (p n row : Nat) (c : XoCounts) (tracker tid : Nat) :
    (Act.all [clearXo p n row, countXo p n row c, countHealth p tracker tid c]).Only Upd.ofCount :=
  Act.only_list ⟨count_clearXo p n row, count_countXo p n row c, count_countHealth p tracker tid c⟩

theorem spares_converter {fs : List Fld} (hfs : Fld.XO_OP_COUNT ∉ fs) (p n row : Nat) (c : XoCounts) (tracker tid : Nat) :
    (Act.all [clearXo p n row, countXo p n row c, countHealth p tracker tid c]).Only (Upd.Spares fs) :=
  Act.only_list ⟨spares_clearXo hfs p n row, spares_countXo hfs p n row c, spares_countHealth p tracker tid c⟩

/-! ## Loads -/

/-- What a load leaves beside the register that it fills: lines checked are counted. -/
structure Loaded (s t : State) (p n bad : Nat) : Prop where
  done  : VecDone s t p n
  only  : OnlyTile s t p n
  sram  : t.sram = s.sram
  fails : t.rd (tk .CHK_BLOCK_FAIL p n) = s.counted (tk .CHK_BLOCK_FAIL p n) bad

section
variable {s u : State} {p n : Nat} (h : VecStarted s u p n)
include h

/-- A register filled, and the checks counted. -/
theorem VecStarted.loaded {a : Act} (ha : a.Vec p n) (bad : Nat) : Loaded s ((bump (tk .CHK_BLOCK_FAIL p n) bad).run (a.run u)) p n bad := by
  have htouched := ha u
  generalize a.run u = w at htouched
  have hbump : UnitSame w ((bump (tk .CHK_BLOCK_FAIL p n) bad).run w) := (count_bump _ bad).unitSame w
  have hrd : w.rd (tk .CHK_BLOCK_FAIL p n) = s.rd (tk .CHK_BLOCK_FAIL p n) :=
    (htouched.slot.rd (show Fld.CHK_BLOCK_FAIL ∉ _ by decide)).trans (h.rd (by decide))
  refine ⟨h.issued ?_ ?_, (h.slot.only.trans htouched.slot.only).trans (hbump.onlyTile p n),
    hbump.sram.trans (htouched.slot.sram.trans h.slot.sram), (rd_bump_self _ _ _).trans (State.counted_congr hrd bad)⟩
  · exact (rd_bump_of_ne (k := tk .CHK_BLOCK_FAIL p n) (k' := tk .VEC_STATUS_OP_SEQ p n) w nofun bad).trans
      (htouched.slot.rd (show Fld.VEC_STATUS_OP_SEQ ∉ _ by decide))
  · rw [tile_bump]
    exact htouched.tile

end

theorem Loaded.counted {s w t : State} {p n bad : Nat} (h : Loaded s w p n bad) (hsame : UnitSame w t)
    (hrd : ∀ f ∈ [Fld.CHK_BLOCK_FAIL, .VEC_STATUS_OP_SEQ], t.rd (tk f p n) = w.rd (tk f p n)) : Loaded s t p n bad where
  done := ⟨(hrd _ (by decide)).trans h.done.seq, by rw [hsame.tile]; exact h.done.tile, by rw [hsame.tile]; exact h.done.once⟩
  only := h.only.trans (hsame.onlyTile p n)
  sram := hsame.sram.trans h.sram
  fails := (hrd _ (by decide)).trans h.fails

/-- A load into a vector register, with its converter's counts. -/
theorem VecStarted.vregLoaded {s u : State} {p n : Nat} (h : VecStarted s u p n) (d : Nat) (new : List Lane) (bad : Nat) (c : XoCounts) :
    let t := (Act.all [setVreg p n d new, bump (tk .CHK_BLOCK_FAIL p n) bad, clearXo p n 4, countXo p n 4 c, countHealth p 0xFFF 0 c]).run u
    Loaded s t p n bad ∧ OnlyVregs s t p n [d] ∧ t.vreg p n d = new := by
  have hload := h.loaded (vec_setVreg d new) bad
  have hsame := (count_converter p n 4 c 0xFFF 0).unitSame ((bump (tk .CHK_BLOCK_FAIL p n) bad).run ((setVreg p n d new).run u))
  have hrd : ∀ f ∈ [Fld.CHK_BLOCK_FAIL, .VEC_STATUS_OP_SEQ], _ := fun f hf =>
    (spares_converter (fs := [.CHK_BLOCK_FAIL, .VEC_STATUS_OP_SEQ]) (by decide) p n 4 c 0xFFF 0).rd_spared (k := tk f p n) hf
      ((bump (tk .CHK_BLOCK_FAIL p n) bad).run ((setVreg p n d new).run u))
  dsimp only
  rw [Act.run_all_next, Act.run_all_next]
  generalize (Act.all [clearXo p n 4, countXo p n 4 c, countHealth p 0xFFF 0 c]).run
    ((bump (tk .CHK_BLOCK_FAIL p n) bad).run ((setVreg p n d new).run u)) = t at hsame hrd ⊢
  have htile : t.tile p n = ((setVreg p n d new).run u).tile p n := (hsame.tile p n).trans (tile_bump _ _ _ p n)
  have hvreg : ∀ k, t.vreg p n k = if k = d then new else s.vreg p n k := fun k => by
    rw [State.vreg, htile, ← State.vreg, vreg_setVreg, h.vreg]
  refine ⟨hload.counted hsame hrd, ⟨fun k hk => ?_, ?_, ?_⟩, (hvreg d).trans (if_pos rfl)⟩
  · rw [hvreg, if_neg (by simpa using hk)]
  · rw [htile, tile_setVreg, h.tile]
  · rw [htile, tile_setVreg, h.tile]

/-! ## Stores -/

/-- What a vector store leaves: its lines, and itself counted. -/
structure VecStored (s t : State) (p n x : Nat) (ls : List Line) : Prop where
  only  : OnlyTile s t p n
  seq   : (t.tile p n).vstSeq = (s.tile p n).vstSeq + 1
  vregs : (t.tile p n).vregs = (s.tile p n).vregs
  lines : LinesStored s t p n x ls

theorem VecStarted.stored {s u : State} {p n : Nat} (h : VecStarted s u p n) (hp : p < 16) (hn : n < 9) (x : Nat) (ls : List Line)
    (hfit : x + ls.length ≤ lsLines) : VecStored s ((storeLines p n x ls).run u) p n x ls := by
  obtain ⟨honly, hseq, hvregs, hlines, hdram, hsram⟩ := storeLines_stores hp hn x ls hfit u
  refine ⟨h.slot.only.trans honly, ?_, ?_, hlines, fun a ha => (hdram a ha).trans (h.slot.only.dram a), fun a ha => (hsram a ha).trans ?_⟩
  · rw [hseq, h.tile]
  · rw [hvregs, h.tile]
  · rw [State.sramLine, h.slot.sram, State.sramLine]

theorem VecStored.counted {s w t : State} {p n x : Nat} {ls : List Line} (h : VecStored s w p n x ls) (hsame : UnitSame w t) :
    VecStored s t p n x ls := by
  have hsram : ∀ a, t.sramLine a = w.sramLine a := fun a => by rw [State.sramLine, hsame.sram, State.sramLine]
  obtain ⟨hlines, hdram, hkept⟩ := h.lines
  exact ⟨h.only.trans (hsame.onlyTile p n), by rw [hsame.tile, h.seq], by rw [hsame.tile, h.vregs],
    fun k l hk => (hsram _).trans (hlines k l hk), fun a ha => ((hsame.onlyTile p n).dram a).trans (hdram a ha),
    fun a ha => (hsram a).trans (hkept a ha)⟩

/-- A store with its converter's counts. -/
theorem VecStarted.storedCounted {s u : State} {p n : Nat} (h : VecStarted s u p n) (hp : p < 16) (hn : n < 9) (x : Nat) (ls : List Line)
    (hfit : x + ls.length ≤ lsLines) (c : XoCounts) (tracker tid : Nat) :
    VecStored s ((Act.all [storeLines p n x ls, clearXo p n 3, countXo p n 3 c, countHealth p tracker tid c]).run u) p n x ls := by
  rw [Act.run_all_next]
  exact (h.stored hp hn x ls hfit).counted ((count_converter p n 3 c tracker tid).unitSame _)

/-! ## Lines that raise no fault lie in the local store -/

theorem lsFault_nil {s : State} {p n last : Nat} (h : s.lsFault p n last = []) : last < lsLines := by
  rw [State.lsFault, State.spanFault] at h
  split at h
  · cases h
  next hin =>
    rw [not_or, show Space.lines .ls = lsLines from rfl] at hin
    omega

section
variable {s : State} {p n : Nat} {b : Bundle} {v : VSlot}

theorem vst_fits (hv : vslot b = v) (hfit : s.vFaults p n b = []) (hop : v.vop = 0x41) :
    isTensorFmt (bitsOf (s.encDesc p n (b.imm % 1024)) 19 16) = true ∧
    s.vLine p n v + fmtLines (bitsOf (s.encDesc p n (b.imm % 1024)) 19 16) ≤ lsLines := by
  rw [State.vFaults, hv] at hfit
  dsimp only at hfit
  split at hfit
  · cases hfit
  · rw [if_neg (show ¬ v.vop = 0x40 by omega)] at hfit
    split at hfit
    · cases hfit
    next henc =>
      have hlast := lsFault_nil (List.append_eq_nil_iff.mp hfit).1
      simp only [Bool.not_eq_true', Bool.not_eq_false, State.encOk, Bool.and_eq_true] at henc
      exact ⟨henc.1.2, by omega⟩

theorem vsti_fits (hv : vslot b = v) (hfit : s.vFaults p n b = []) (hop : v.vop = 0x43) : s.vLine p n v + 4 ≤ lsLines := by
  rw [State.vFaults, hv] at hfit
  dsimp only at hfit
  split at hfit
  · cases hfit
  · rw [if_neg (show ¬ v.vop = 0x40 by omega), if_neg (show ¬ v.vop = 0x41 by omega), if_neg (show ¬ v.vop = 0x42 by omega)] at hfit
    have hlast := lsFault_nil hfit
    omega

end

/-! ## The operations -/

/-- The lines that VSTI writes: low halves, inactive lanes all ones (R151). -/
def stiLines (half : Nat → Nat) (bad : Nat → Bool) : List Line :=
  (List.range 4).map (fun q =>
    let is := (List.range 64).map (fun k => 64 * q + k)
    { rawLine (is.foldr (fun i acc => acc * 65536 + half i) 0) with poison := is.any bad })

theorem stiLines_get (half : Nat → Nat) (hhalf : ∀ i, half i < 65536) (bad : Nat → Bool) {q : Nat} {l : Line}
    (hq : (stiLines half bad)[q]? = some l) : l.tagByte 3 = 0xF0 ∧ (∀ k, k < 64 → l.half k = half (64 * q + k)) ∧
      (l.poison = true ↔ ∃ k, k < 64 ∧ bad (64 * q + k) = true) := by
  rw [stiLines, List.getElem?_map, Option.map_eq_some_iff] at hq
  obtain ⟨j, hj, rfl⟩ := hq
  obtain ⟨hlt, hj⟩ := List.getElem?_eq_some_iff.mp hj
  obtain rfl : q = j := (List.getElem_range hlt).symm.trans hj
  refine ⟨tagByte_rawLine _, fun k hk => ?_, ?_⟩
  · refine half_rawLine half hhalf _ (by simp) ?_
    rw [List.getElem?_map, List.getElem?_range hk, Option.map_some]
  · simp only [List.any_map, List.any_eq_true, List.mem_range, Function.comp_apply]

section
variable {s : State} {p n : Nat} {b : Bundle} {v : VSlot} (h : s.IssuesV p n b v)
include h

/-- An operation that issues, under its own name. -/
theorem vecAct_issues {vop : Nat} (hop : v.vop = vop) {a : Act} {k : VSlot → Bundle → Act} (ha : a = vecOp p n vop k) :
    ∃ u, VecStarted s u p n ∧ a.run s = (k v b).run u := ha ▸ vecOp_issues h hop k

/-- VLD fills every lane from the block at its line (R151). -/
theorem actVld_loads (hop : v.vop = 0x40) : let t := (actVld p n).run s
    let f := s.fed p n (s.vLine p n v) v.vb (v.fn.testBit 15)
    Loaded s t p n f.bad ∧ OnlyVregs s t p n [v.vd] ∧
      t.vreg p n v.vd = (f.block.vals.zip f.block.poison).map (fun q => ⟨BitVec.ofNat 32 (fp32Exact q.1).bits, q.2⟩) := by
  obtain ⟨u, hu, hrun⟩ := vecAct_issues h hop (a := actVld p n) rfl
  rw [Act.run_ask, hu.vLine, hu.fed] at hrun
  dsimp only at hrun ⊢
  rw [hrun, List.zip_map_left, List.map_map]
  exact hu.vregLoaded v.vd _ _ _

/-- VLDM loads a quarter of a raw line (R135). -/
theorem actVldm_loads (hop : v.vop = 0x42) : let t := (actVldm p n).run s
    let l := s.feedLine p n (s.vLine p n v)
    Loaded s t p n l.2 ∧ (t.tile p n).vregs = (s.tile p n).vregs ∧ (t.tile p n).wregs = (s.tile p n).wregs ∧
      ∀ k, t.preg p n k = if k = v.vd then ⟨BitVec.ofNat 256 (l.1.body.toNat / 2 ^ (256 * v.vb)),
        if (l.1.poison || l.1.tagByte 3 != 0xF0) then BitVec.allOnes 256 else 0⟩ else s.preg p n k := by
  obtain ⟨u, hu, hrun⟩ := vecAct_issues h hop (a := actVldm p n) rfl
  rw [Act.run_ask, hu.vLine, hu.feedLine, Act.run_seq] at hrun
  dsimp only at hrun ⊢
  rw [hrun]
  refine ⟨hu.loaded (vec_setPreg v.vd _) _, ?_, ?_, fun k => ?_⟩
  · rw [tile_bump, tile_setPreg, hu.tile]
  · rw [tile_bump, tile_setPreg, hu.tile]
  · rw [State.preg, tile_bump, ← State.preg, preg_setPreg, hu.preg]

/-- VST stores VA as one block under its encode descriptor (R63). -/
theorem actVst_stores (hp : p < 16) (hn : n < 9) (hfit : s.vFaults p n b = []) (hop : v.vop = 0x41) :
    let d := encOf (s.encDesc p n (b.imm % 1024)) (s.scalar p n (bitsOf b.imm 13 10))
    let r := s.vreg p n v.va
    VecStored s ((actVst p n).run s) p n (s.vLine p n v) (encodeBlock d
      ⟨s.job.seed, s.step, d.tensorId, s.scalar p n v.sy, s.scalar p n (v.sy + 1)⟩ (r.map (fun l => num32 l.bits)) (poisonOf r)).1 := by
  dsimp only
  obtain ⟨hfmt, hline⟩ := vst_fits h.2.1 hfit hop
  obtain ⟨u, hu, hrun⟩ := vecAct_issues h hop (a := actVst p n) rfl
  have hjob : u.job = s.job := hu.slot.only.job
  have hstep : u.step = s.step := hu.slot.rd (show Fld.TB_STEP ∉ _ by decide)
  rw [Act.run_ask, encoding, Act.run_ask, hu.vreg, hu.vLine, hu.encDesc, hu.scalar, hu.scalar, hu.scalar, hjob, hstep] at hrun
  dsimp only at hrun
  rw [hrun]
  exact hu.storedCounted hp hn _ _ ((congrArg (_ + ·) (length_encodeBlock hfmt ..)).trans_le hline) ..

/-- VSTI stores the low halves of the active lanes (R151). -/
theorem actVsti_stores (hp : p < 16) (hn : n < 9) (hfit : s.vFaults p n b = []) (hop : v.vop = 0x43) :
    VecStored s ((actVsti p n).run s) p n (s.vLine p n v) (stiLines
      (fun i => if s.laneOn p n v i = true then (lane (s.vreg p n v.va) i).bits.toNat % 65536 else 0xFFFF)
      (fun i => (s.laneOn p n v i && (lane (s.vreg p n v.va) i).poison) || s.lanePoison p n v i)) := by
  obtain ⟨u, hu, hrun⟩ := vecAct_issues h hop (a := actVsti p n) rfl
  rw [Act.run_ask, hu.vreg, hu.vLine] at hrun
  simp only [hu.laneOn, hu.lanePoison] at hrun
  rw [hrun]
  exact hu.stored hp hn _ _ (vsti_fits h.2.1 hfit hop)

/-- VMARK sets VNARROW. -/
theorem actVmark_marks (hop : v.vop = 0x4C) : let t := (vecOp p n 0x4C (fun _ b => setR (tk .VNARROW p n) b.imm)).run s
    VecDone s t p n ∧ Slotted s t p n [.VEC_STATUS_OP_SEQ, .VNARROW] ∧ OnlyVregs s t p n [] ∧
      t.rd (tk .VNARROW p n) = clipTo 32 b.imm := by
  obtain ⟨u, hu, hrun⟩ := vecOp_issues h hop (fun _ b => setR (tk .VNARROW p n) b.imm)
  dsimp only at hrun ⊢
  rw [hrun]
  have htile : ((setR (tk .VNARROW p n) b.imm).run u).tile p n = u.tile p n := tile_setR _ _ _ _ _
  have hslot : (setR (tk .VNARROW p n) b.imm).Only (Upd.ofSlot p n [.VEC_STATUS_OP_SEQ, .VNARROW]) := slot_setR (by decide) 0 _
  refine ⟨hu.issued ?_ ?_, hu.slot.trans (hslot.slotted u) (by decide) (fun _ hf => hf), ⟨fun k _ => ?_, ?_, ?_⟩, ?_⟩
  · exact rd_setR_of_ne (k := tk .VNARROW p n) (k' := tk .VEC_STATUS_OP_SEQ p n) nofun _ _
  · rw [htile]
  · rw [State.vreg, htile, ← State.vreg, hu.vreg]
  · rw [htile, hu.tile]
  · rw [htile, hu.tile]
  · exact rd_setR_self ..

end

end Sys2Proof.Machine
end

section

open Sys2Proof Sys2Proof.Machine

/-- Settles O60 (R63, R131, R135, R151). Issue leaves what an operation reads as it was. A load then fills its register and counts the lines that
failed their check (`Loaded`); a store whose lines raise no fault writes them in order within the local store (`VecStored`), a block's lines being
its format's number, and VSTI's its four raw lines; VMARK sets a register. -/
theorem vectorMemoryActs : Obligations.VectorMemoryActs := by
  unfold Obligations.VectorMemoryActs
  intro s p n b v h hfit first r x
  refine ⟨fun hop f hf => ?_, fun hop d hd => ?_, fun hop l hl => ?_, fun hop => ?_, fun hop => ?_⟩
  · obtain ⟨hload, hregs, hval⟩ := actVld_loads h hop
    subst hf
    exact ⟨_, rfl, hload.done, hload.only, hload.sram, hregs, hval, hload.fails⟩
  · have hstore := actVst_stores h p.isLt n.isLt hfit hop
    subst hd
    exact ⟨_, rfl, hstore.only, hstore.seq, hstore.vregs, hstore.lines⟩
  · obtain ⟨hload, hvregs, hwregs, hpreg⟩ := actVldm_loads h hop
    subst hl
    have hvd := (hpreg v.vd).trans (if_pos rfl)
    refine ⟨_, rfl, hload.done, hload.only, hload.sram, fun k hk => (hpreg k).trans (if_neg hk), hvregs, hwregs,
      congrArg PReg.bits hvd, (congrArg PReg.poison hvd).trans ?_, hload.fails⟩
    simp only [Bool.or_eq_true, bne_iff_ne, first]
  · have hstore := actVsti_stores h p.isLt n.isLt hfit hop
    refine ⟨_, _, rfl, hstore.only, hstore.seq, hstore.vregs, hstore.lines, rfl, fun q l hq => ?_⟩
    obtain ⟨htag, hhalf, hpoison⟩ := stiLines_get _ (fun i => by split <;> omega) _ hq
    refine ⟨htag, hhalf, hpoison.trans ?_⟩
    simp only [Bool.or_eq_true, Bool.and_eq_true, r]
  · exact ⟨_, rfl, actVmark_marks h hop⟩

end
